-- ==== Sys2Proof/Word.lean ====
section
/-! DEFINITION. The word types, the sparse maps the state is built from, bit fields of a number, and the little-endian
byte order of every Quinentyn-defined structure (R9, R14). -/

namespace Sys2Proof

/-- A byte of memory or of a frame. -/
abbrev Byte := BitVec 8

/-- A 32-bit register (R9). -/
abbrev Word := BitVec 32

/-- A map from numbered things to values, kept in rising order of the number with each number at most once. -/
abbrev SMap (α : Type) := List (Nat × α)

/-- The value a map lists at a number. The laws of lookups (Laws/Map.lean) hold of any list, in order or not. -/
def SMap.find {α : Type} : SMap α → Nat → Option α
  | [], _ => none
  | (k, v) :: r, i => if k = i then some v else SMap.find r i

/-- List a value at a number, in its place. -/
def SMap.put {α : Type} : SMap α → Nat → α → SMap α
  | [], i, x => [(i, x)]
  | (k, v) :: r, i, x => if i < k then (i, x) :: (k, v) :: r else if i = k then (i, x) :: r else (k, v) :: SMap.put r i x

/-- List nothing at a number. -/
def SMap.drop {α : Type} : SMap α → Nat → SMap α
  | [], _ => []
  | (k, v) :: r, i => if k = i then SMap.drop r i else (k, v) :: SMap.drop r i

/-- The value at a number, `d` where the map lists none. -/
def SMap.get {α : Type} (m : SMap α) (d : α) (i : Nat) : α := (m.find i).getD d

/-- The keys of a map strictly rise and none is below `lo`. -/
def SMap.risingFrom {α : Type} : Nat → SMap α → Bool
  | _, [] => true
  | lo, (k, _) :: r => decide (lo ≤ k) && SMap.risingFrom (k + 1) r

/-- The keys of a map strictly rise. -/
def SMap.rising {α : Type} (m : SMap α) : Bool := SMap.risingFrom 0 m

/-- The bits [hi:lo] of a number (R8). -/
def bitsOf (v hi lo : Nat) : Nat := (v >>> lo) % 2 ^ (hi + 1 - lo)

/-- Bit `i` of a number. -/
def bitOf (v i : Nat) : Bool := v.testBit i

/-- A number with the bits [hi:lo] replaced. -/
def withBits (v hi lo x : Nat) : Nat :=
  v - (bitsOf v hi lo) * 2 ^ lo + (x % 2 ^ (hi + 1 - lo)) * 2 ^ lo

/-- A Bool as the number 0 or 1. -/
def b2n (b : Bool) : Nat := if b then 1 else 0

/-- The little-endian number a list of bytes spells (R14). -/
def leNat : List Byte → Nat
  | [] => 0
  | b :: r => b.toNat + 256 * leNat r

/-- The first `n` little-endian bytes of a number (R14). -/
def leBytes : Nat → Nat → List Byte
  | 0, _ => []
  | n + 1, v => BitVec.ofNat 8 v :: leBytes n (v / 256)

/-- The big-endian number a list of bytes spells (the network order of R14, and the cryptographic standards). -/
def beNat (l : List Byte) : Nat := leNat l.reverse

/-- The last `n` big-endian bytes of a number. -/
def beBytes (n v : Nat) : List Byte := (leBytes n v).reverse

/-- Bytes `off` to `off + n - 1` of a structure, as a little-endian number. -/
def leAt (l : List Byte) (off n : Nat) : Nat := leNat ((l.drop off).take n)

/-- Apply a function `n` times. -/
def iterate {α : Type} (f : α → α) : Nat → α → α
  | 0, a => a
  | n + 1, a => iterate f n (f a)

/-- Apply a function to 0, 1, …, n - 1 in rising order. -/
def forUpto {α : Type} (n : Nat) (a : α) (f : Nat → α → α) : α :=
  (List.range n).foldl (fun s i => f i s) a

/-- How a register takes reads and writes (Table 0.4). -/
inductive Acc where
  | ro | rw | rc | sq | wo
deriving DecidableEq, Repr

/-- One row of a register table: offset, a two-level array shape, access type, reset value, the bits a write sets. -/
structure RegRow where
  off : Nat
  n1 : Nat
  s1 : Nat
  n2 : Nat
  s2 : Nat
  acc : Acc
  reset : Nat
  wmask : Nat
deriving DecidableEq, Repr

/-- A field of a register: the register's offset, the stride of an array of such registers, the field's bits. -/
structure Field where
  off : Nat
  stride : Nat
  hi : Nat
  lo : Nat
deriving DecidableEq, Repr

/-- The kinds of unit of the shipped tree (R19, Table 1.1). -/
inductive UKind where
  | chip | reeve | tly | pwr | sec | qcp | ctx | trn | fe | field | spine | col | quad | tile | link | stack | channel | gleaner
deriving DecidableEq, Repr

end Sys2Proof
end

