-- ==== Sys2Proof/Model/EventNames.lean ====
section
/-! DEFINITION. The events a unit can raise (the local event code tables of every block chapter; R21, R22), as names. -/

namespace Sys2Proof.Machine

/-- One constructor per event code of the spec. -/
inductive Ev where
  | sysAddrFault
  | sysHsStall
  | sysMemberHealth
  | sysResetDone
  | sysMbxReply
  | thrResidue
  | thrResidueFatal
  | thrInvalid
  | thrOverflow
  | thrOperandFault
  | thrResLimit
  | thrParity
  | trnChaffSat
  | trnChaffUnd
  | trnScaleMisfit
  | trnScaleAdapt
  | trnScaleClamp
  | tilStreamEnd
  | tilOpFault
  | tilTokenOvf
  | tilLockstep
  | tilSigReject
  | tilOpDone
  | vecResidue
  | dmaVersionFault
  | dmaReadFault
  | lftEccCorr
  | lftEccUncorr
  | lftShareReject
  | grnEccCorr
  | grnEccUncorr
  | grnPoisonRead
  | grnAtomicReject
  | grnRepairDone
  | grnRepairRefused
  | grnPageRetired
  | grnChannelRetired
  | grnCalFail
  | grnHrvDone
  | grnHrvFault
  | grnScrubPass
  | grnLocalReject
  | glnLockstep
  | glnRunFault
  | glnLaunchReject
  | glnAdopt
  | glnGrantOver
  | ctxAllocFail
  | ctxPageLost
  | ctxEvictLow
  | ctxPageinReq
  | ctxReclaimLate
  | ctxQueueFault
  | trnStepDone
  | trnDiverge
  | trnRepaired
  | trnSilent
  | trnOffender
  | trnStashOvf
  | trnStashFail
  | trnGradMode
  | trnVersionAbort
  | trnMirrorBad
  | trnReplayMismatch
  | trnSweepUndone
  | jxlUp
  | jxlRetrain
  | jxlFailed
  | jxlNegFail
  | jxlRemapRefused
  | jxlAuthFail
  | jxlE2eFail
  | jxlPeerSilent
  | jxlFwdDrop
  | colFailed
  | colBad
  | colAborted
  | macLinkUp
  | macLinkDown
  | macPauseStorm
  | macHoldoffEnd
  | macRxTrunc
  | macQfull
  | qcpSessionOpen
  | qcpSessionClose
  | qcpAuthFail
  | qcpDoorbellAhead
  | qcpStateChange
  | sysRecDeclared
  | sysRecFrozen
  | sysRecAdopted
  | sysRecFilled
  | sysRecResumed
  | sysRecRepeat
  | sysRecHalted
  | sysRecCkptNeeded
  | sysRecWithdrawn
  | sysRecLocalised
  | sysBootDone
  | sysBootFail
  | sysLoadHeld
  | sysRstAbandon
  | secEnrol
  | secFloorRaised
  | secLimitRefused
  | secDebugAttached
  | secKeyxFail
  | secPufFail
  | secRngFail
  | secScrubDone
  | tlyFeedLost
  | tlyFeedBack
  | tlyRailUv
  | tlyThermShut
  | tlyBbDrop
  | tlyRing
  | tlyRefclkLost
  | tlyLimitChange
  | tlyRepairMap
  | tlyRetire
  | tlyBootAction
  | tlyPowerLost
  | tlyPstate
  | pwrCapLimited
  | pwrThermal
  | pwrCapUnmet
  | pwrDstate
deriving DecidableEq, Repr

end Sys2Proof.Machine
end

