-- ==== Sys2Proof/Model/Face.lean ====
section
/-! DEFINITION. The state of the common face every unit has (chapter 01), the replies an access earns, and the records the black box holds
(Table 16.6). -/

namespace Sys2Proof.Machine

/-- The status codes of completions, QSTATUS, REFUSE, mailbox replies and register accesses (Tables 5.3 and 12.6). -/
inductive Status where
  | ok | badArgument | notPresent | versionFault | opFailed | resetAbsorbed | cancelled | stateConflict | noResource
  | authFailed | doorbellAhead | busy
deriving DecidableEq, Repr

/-- An event record (Table 1.8); the raising unit is the ring's own unit. -/
structure EvtRec where
  ev : Ev
  source : Nat
  rseq : Nat
  arg : Nat
  ttime : Nat
deriving DecidableEq, Repr

/-- What an access to a register or to memory answers: a status, and the value or bytes read. -/
structure Reply where
  status : Status
  value : Nat
deriving DecidableEq, Repr

/-- A black-box record (Table 16.6) before its number and CRC are set at the write. -/
structure BbRec where
  poweron : Nat
  code : Nat
  ttime : Nat
  source : Nat
  sev : Nat
  kind : Nat
  data : List Byte
deriving DecidableEq, Repr

/-- The state behind the common face of every unit (chapter 01): tally time, every register that holds a value of its own, the
own sequence of each bit of an SQ register (R44), the shadows of 64-bit counters (R12), each unit's OWN health, each member's WORST as its
parent last saw it (R28, R29), the event rings, the replies handed out, the model's own counter of free values, and how often each event of a
session's counter totals was raised (R456). -/
structure Face where
  time : Nat
  regs : SMap Word
  sqOwn : SMap Nat
  shadow : SMap Word
  own : SMap Nat
  seen : SMap Nat
  ring : SMap EvtRec
  replies : List Reply
  free : Nat
  counts : SMap Nat
deriving DecidableEq, Repr

end Sys2Proof.Machine
end

