-- ==== Sys2Proof/Model/Tile.lean ====
section
/-! DEFINITION. The state of a tile's sequencer, window, tokens and thresher (chapters 03 and 05). -/

namespace Sys2Proof.Machine

/-- Stream states (Table 5.1). -/
inductive StreamState where
  | idle | running | stopping | ended | faulted | suspended
deriving DecidableEq, Repr

/-- A LOOP being expanded: index of its body's first descriptor, BODY, COUNT, the iteration, and its patches (DI, FOFF, STRIDE). -/
structure LoopFrame where
  first : Nat
  body : Nat
  count : Nat
  i : Nat
  patches : List (Nat × Nat × Nat)
deriving DecidableEq, Repr

/-- Where an issued operation stands: not started, started, done in its unit but not yet signalled (R151), completed. -/
inductive OpPhase where
  | waiting
  | started
  | finished (s : Status)
  | completed (s : Status)
deriving DecidableEq, Repr

/-- An operation that holds a window slot (R149): its issue number, its patched descriptor, its unit queue (R150: 0 control, 1 LOADB,
2 MMA/DRAIN/ZERO, 3 vector, 4 and 5 the DMA engines), whether its token wait has been satisfied, its phase, and its place in the starting order. -/
structure Op where
  k : Nat
  desc : List Byte
  queue : Nat
  satisfied : Bool
  phase : OpPhase
  order : Nat
deriving DecidableEq, Repr

/-- The contents of a stationary slot (R81, R82): format code, SHAPE, load axis, element (k, n) at index k × N + n, scale codes by
column and block. -/
structure Slot where
  fmt : Nat
  shape : Nat
  axis : Nat
  elems : List Nat
  scales : List Nat
deriving DecidableEq, Repr

/-- A started fill whose results are not yet written: its M-block and its element codes (R95). -/
structure Fill where
  j : Nat
  out : List (Nat × Nat)
deriving DecidableEq, Repr

/-- The MMA the thresher is running: its issue number, the next M-block, the mask bits read at its start (R96), the fills in flight,
the NaN and infinite elements so far (R105). -/
structure MmaRun where
  k : Nat
  next : Nat
  mask : List Bool
  fills : List Fill
  nans : Nat
  infs : Nat
deriving DecidableEq, Repr

/-- A remote signal: token and sending unit (R155, R157). -/
structure RemoteSig where
  tok : Nat
  job : Nat
  sender : Nat
deriving DecidableEq, Repr

/-- Where an operation that ended with OP_FAILED failed: at a line of this module's granary, at a result check (R176), or elsewhere (R460, R464). -/
inductive FailSite where
  | line (l : Nat)
  | check
  | elsewhere
deriving DecidableEq, Repr

/-- One tile's sequencer and thresher. `failed` says by issue number where the stream's operations failed. -/
structure Tile where
  stream : StreamState
  issued : Nat
  startCount : Nat
  pc : Nat
  loops : List LoopFrame
  ops : List Op
  endIssued : Bool
  tokens : SMap Nat
  held : List RemoteSig
  lockstep : Bool
  slot0 : Option Slot
  slot1 : Option Slot
  acc : SMap Nat
  run : Option MmaRun
  thrStopped : Bool
  resOver : Bool
  selfTest : Bool
  winWait : Bool
  faultTold : Bool
  failed : SMap FailSite
deriving DecidableEq, Repr

/-- A tile after tile reset. -/
def Tile.init : Tile :=
  ⟨.idle, 0, 0, 0, [], [], false, [], [], false, none, none, [], none, false, false, false, false, false, []⟩

/-- An access that a unit has handed to the fabric for another module: the unit and its job slot, the device address, the KIND of request (1 WRITE,
2 READ, 3 ATOMIC), the atomic's code, the bytes asked for, the bytes to store and their lines' tag. -/
structure FarAccess where
  unit : Nat
  job : Option Nat
  addr : Nat
  kind : Nat
  op : Nat
  len : Nat
  bytes : List Byte
  tag : Option Nat
deriving DecidableEq, Repr

/-- The tiles, the signals in flight between them, and the accesses units have handed to the fabric for other modules. -/
structure TileState where
  tiles : SMap Tile
  signals : List (Nat × RemoteSig)
  far : List FarAccess
  progRanges : List (Nat × Nat)
deriving DecidableEq, Repr

end Sys2Proof.Machine
end

