-- ==== Sys2Proof/Model/Context.lean ====
section
/-! DEFINITION. The state of the context store (chapter 08) that its registers and granary tables do not hold. -/

namespace Sys2Proof.Machine

/-- An allocation that waits for a free (R285): job slot, tensor or context, the one list searched if stack-local, since when, and the stack controller
its wait is charged to (cause 7). -/
structure AllocWait where
  job : Nat
  tensor : Bool
  stack : Option Nat
  since : Nat
  charged : Nat
  stash : Bool
deriving DecidableEq, Repr

/-- A parked page lookup (R295): tile, operation, session queue, logical page, write, since when, the row its operation stands at, and for one that
waits for an allocation the stack controller its wait is charged to. -/
structure Parked where
  tile : Nat
  k : Nat
  queue : Nat
  page : Nat
  write : Bool
  since : Nat
  row : Nat
  charged : Option Nat
deriving DecidableEq, Repr

/-- A page-in in progress (R295, R297, R449): queue, logical page, generation, since when, the chunks held; `full` says since when the whole page
waits for a local one, and the stack controller the wait is charged to. -/
structure PageIn where
  queue : Nat
  page : Nat
  gen : Nat
  since : Nat
  chunks : SMap (List Byte)
  full : Option (Nat × Nat)
deriving DecidableEq, Repr

/-- An eviction in its copy step (Table 8.6): queue, logical page, the local page, and the target: a peer's page or a generation. -/
structure Move where
  queue : Nat
  page : Nat
  local' : Nat
  peer : Option Nat
  gen : Nat
  since : Nat
  chunks : Nat
deriving DecidableEq, Repr

/-- A job's running automatic eviction (R298, R299): the session being taken from, how many pages it gave, the sessions passed. -/
structure EvictRun where
  queue : Nat
  taken : Nat
  passed : List Nat
deriving DecidableEq, Repr

/-- A dispatched batch (R306): job slot, batch number, sessions with the consumer index served, the tiles of its group, when it was dispatched. -/
structure Batch where
  job : Nat
  num : Nat
  sessions : List (Nat × Nat)
  tiles : List Nat
  since : Nat
deriving DecidableEq, Repr

/-- Lend states (CTX_TILE_LEND.STATE). -/
inductive LendState where
  | home | saving | lent | reclaiming | restoring
deriving DecidableEq, Repr

/-- A tile's lending (R310 to R313): the suspended training job, the serving job, the borrows so far, when the FENCE completed, its
budget, when the reclaim was triggered, whether one came due while the tile was still being saved, and whether the training stream stops on its
return, its job being aborted or frozen (R461, R474). -/
structure Lend where
  state : LendState
  tjob : Nat
  sjob : Nat
  lends : Nat
  since : Nat
  budget : Nat
  trigger : Nat
  due : Bool
  stop : Bool
deriving DecidableEq, Repr

/-- What a borrow saves (R311): the sequencer with its tokens and accumulators, and the registers. -/
structure Saved where
  tile : Tile
  regs : List (Nat × Word)
deriving DecidableEq, Repr

/-- A line of a tile's translation cache (R293): job slot, queue, line, and its eight entries. -/
structure XltLine where
  job : Nat
  queue : Nat
  line : Nat
  entries : List Nat
deriving DecidableEq, Repr

/-- The context store. `cached` holds the descriptors on the die, the latest used first, by queue number (R289). -/
structure Ctx where
  lastList : Nat
  cached : List (Nat × List Byte)
  xlt : SMap (List XltLine)
  allocWaits : List AllocWait
  parked : List Parked
  dmaRow : SMap Nat
  pageIns : List PageIn
  moves : List Move
  nextGen : SMap Nat
  evicting : SMap EvictRun
  batches : List Batch
  nextBatch : SMap Nat
  lastAt : SMap Nat
  lend : SMap Lend
  saved : SMap Saved
  closing : List Nat
  jobSeed : SMap Nat
deriving DecidableEq, Repr

end Sys2Proof.Machine
end

