-- ==== Sys2Proof/Model/Tally.lean ====
section
/-! DEFINITION. The state of the tally die, its store and the power manager (chapters 16 and 17) that their registers do not hold. -/

namespace Sys2Proof.Machine

/-- The tally store (Table 16.5): operator keys (an empty slot lists none), the limited-change counters with the settings they count, the
lane exclusions recorded per link (transmit in [7:0], receive in [15:8]), and the black-box ring by RSEQ; `wipedTo` is the oldest RSEQ the
ring still holds. Repair maps, retired pages and redirections stand with the granary. -/
structure TallyStore where
  keys : SMap (List Byte)
  enrols : Nat
  floor : Nat
  floorIncs : Nat
  lanes : SMap Nat
  laneUsed : SMap Nat
  bb : SMap (List Byte)
  bbHead : Nat
  wipedTo : Nat
deriving DecidableEq, Repr

/-- A 54 V feed: volts in tenths, whether it is connected, and since when it is not (R552, R553). -/
structure Feed where
  tenths : Nat
  on : Bool
  since : Nat
deriving DecidableEq, Repr

/-- The tally die and the power manager. `cut` says the main domain was removed under R555, R565 or R590 and no ON has followed (R588);
`bucket` paces the black box (R579); `lossAt` is when the last feed was lost; `sent` are the frames put on TRA (0) and TRB (1); `raiseAt`,
`loopAt`, `overAt`, `metSince` and `capOff` belong to the cap loop (R559, R561): its last check, and since when the cap is exceeded at 0.600 V, or met;
`sampleAt` is the last thermal sample (R563); `isOver` and `hot` say whether the last sample read above a shutdown limit, and
at or above THROTTLE. -/
structure Tally where
  store : TallyStore
  powered : Bool
  ref0 : Bool
  ref1 : Bool
  cut : Bool
  feeds : SMap Feed
  bucket : Nat
  refillAt : Nat
  dropEvtAt : Option Nat
  dropped : Nat
  lossAt : Option Nat
  sent : List (Nat × List Byte)
  raiseAt : Nat
  loopAt : Nat
  overAt : Option Nat
  metSince : Option Nat
  capOff : Nat
  sampleAt : Nat
  junction : SMap Nat
  base : SMap Nat
  isOver : Bool
  hot : Bool
deriving DecidableEq, Repr

end Sys2Proof.Machine
end

