-- ==== Sys2Proof/Model/Fabric.lean ====
section
/-! DEFINITION. The state of the links, the fabric and the collectives engines (chapter 10) that their registers and tables do not hold. -/

namespace Sys2Proof.Machine

/-- One native link: transmit and receive flit sequences, the replay buffer with how often each flit was replayed, per-VC transmit bytes, credits
and receive bytes, buffers freed and not yet returned, whether the receiver waits for a replay, when it entered RETRAINING lately, and the transmit and
receive lanes that failed to adapt. -/
structure Link where
  txSeq : Nat
  rxSeq : Nat
  acked : Nat
  replay : List (Nat × List Byte)
  tries : SMap Nat
  txq : SMap (List Byte)
  credit : SMap Nat
  rxq : SMap (List Byte)
  freed : SMap Nat
  nakked : Bool
  retrains : List Nat
  badTx : Nat
  badRx : Nat
deriving DecidableEq, Repr

/-- A link whose flits start anew. Sequences start at 0, so `acked` is one before. -/
def Link.init : Link := ⟨0, 0, 2 ^ 24 - 1, [], [], [], [], [], [], false, [], 0, 0⟩

/-- A pair of modules in a job (R368): the peer's identity digest, the extracted secret of each agreement round, the counters per class under
the sending epoch, the receiving epoch in force and when its successor was first heard, and the record of executed requests (R371). Epochs
count on over rounds: `65536 × round + EPOCH`. -/
structure Pair where
  peer : List Byte
  level : Nat
  prks : SMap (List Byte)
  txEpoch : Nat
  ctrs : SMap Nat
  rxEpoch : Nat
  nextAt : Option Nat
  record : SMap (Option (List Byte))
deriving DecidableEq, Repr

/-- A fabric request as a unit makes it. -/
structure FabReq where
  unit : Nat
  job : Nat
  rank : Nat
  kind : Nat
  train : Bool
  ltags : Bool
  op : Nat
  addr : Nat
  rlen : Nat
  data : List Byte
deriving DecidableEq, Repr

/-- A request held until its completion (R370): its frame, the sends made, when and on which link the last went, and the pair epoch and counter. -/
structure Held where
  req : FabReq
  epoch : Nat
  ctr : Nat
  frame : List Byte
  sends : Nat
  at' : Nat
  link : Option Nat
deriving DecidableEq, Repr

/-- What the latest heartbeat of a rank said, and when it came (Table 10.7); `live` is none where none has come since the silence is measured. -/
structure Beat where
  at' : Nat
  state : Nat
  lmin : Nat
  lmax : Nat
  rev : Nat
  abi : Nat
  live : Option Nat
  done : Nat
  ttime : Nat
deriving DecidableEq, Repr

/-- One round of a pair's key agreement (R538): this side's ephemeral private key (none once erased), public key and nonce, the peer's KEYX payload
once held, whether the peer has said GOT, and when the last was sent. -/
structure Agree where
  round : Nat
  eph : Option (List Byte)
  pub : List Byte
  nonce : List Byte
  peer : Option (List Byte)
  got : Bool
  sentAt : Nat
deriving DecidableEq, Repr

/-- A piece of a collective's data as a frame brought it: frame type, source position, byte offset, bytes and line tags. -/
structure Piece where
  typ : Nat
  src : Nat
  off : Nat
  data : List Byte
  tags : List Nat
deriving DecidableEq, Repr

/-- A running collective: its queue, job slot and descriptor, the phase it stands at, the pieces taken and its status once it has ended. -/
structure Coll where
  queue : Nat
  job : Nat
  desc : List Byte
  phase : Nat
  got : List Piece
  status : Option Status
deriving DecidableEq, Repr

/-- A collective frame held early (R393): job slot, group, sequence, source rank, and the piece. -/
structure Early where
  job : Nat
  group : Nat
  seq : Nat
  rank : Nat
  piece : Piece
deriving DecidableEq, Repr

/-- The fabric: links by index, pairs by job slot and rank (`1024 × slot + rank`), requests held and waiting, heartbeats, silent ranks, recent
authentication failures, member lists, key agreements, the former ranks of the modules that took a rank, as their frames showed, admissions under way with their first failure (status code, rank), per engine the running collectives and early frames, and the flits and frames sent. -/
structure Fabric where
  links : SMap Link
  pairs : SMap Pair
  held : List Held
  wants : List FabReq
  beats : SMap Beat
  silent : List Nat
  ignored : SMap Nat
  fails : SMap (List Nat)
  members : SMap (List Byte)
  agree : SMap Agree
  admitting : SMap Nat
  admitFail : SMap (Nat × Nat)
  colls : SMap (List Coll)
  early : SMap (List Early)
  takenBy : SMap Nat
  hbAt : Nat
  flits : List (Nat × List Byte)
deriving DecidableEq, Repr

end Sys2Proof.Machine
end

