-- ==== Sys2Proof/Model/Granary.lean ====
section
/-! DEFINITION. The state of the granary, its channels and its harvest engines (chapter 06), and of the lofts' memory (chapter 05). -/

namespace Sys2Proof.Machine

/-- What a line's check symbols would say at the next read: one symbol in error, an error that `n` re-reads clear, an uncorrectable
error, or the poison pattern (R195 to R197). A line without a mark reads clean. -/
inductive LineMark where
  | corr
  | transient (n : Nat)
  | uncorr
  | poison
deriving DecidableEq, Repr

/-- An upset the outside world brings to memory: a line of the granary, as its next reads find it or as the symbols struck, or an 8-byte word of a loft
(`true`: two bits, R187). -/
inductive Strike where
  | line (addr : Nat) (m : LineMark)
  | symbols (addr : Nat) (errs : List (Nat × Byte))
  | word (addr : Nat) (double : Bool)
deriving DecidableEq, Repr

/-- An entry of a bank's fail map (R235). -/
structure FailEnt where
  row : Nat
  corr : Nat
  uncorr : Bool
deriving DecidableEq, Repr

/-- A retired channel: its number as 32 × channel + stack, whether its interleave has been re-formed (R233), and its target
channel per group 0 to 62. -/
structure Retired where
  ch : Nat
  reformed : Bool
  targets : List Nat
deriving DecidableEq, Repr

/-- A harvest entry in progress (R217 to R219): its index, what it copies, and whether its bytes are held. -/
structure HrvRun where
  idx : Nat
  src : Nat
  bytes : Nat
  tile : Nat
  dst : Nat
  land : Bool
  landTok : Nat
  lateSince : Option Nat
deriving DecidableEq, Repr

/-- The state of a job slot's schedule on one field's harvest engine (R215 to R222). -/
inductive HrvPhase where
  | idle | running | faulted
deriving DecidableEq, Repr

structure Harvest where
  phase : HrvPhase
  count : Nat
  tmap : List Byte
  next : Nat
  prog : List HrvRun
  stopped : Bool
deriving DecidableEq, Repr

/-- A calibration task's record on a channel: consecutive failures, and the tally time it last ran (R212, R214). -/
structure CalTask where
  fails : Nat
  last : Nat
deriving DecidableEq, Repr

/-- The memory of the module and its services. `mem` is the bytes of the granary and of the lofts by local address (Table 1.4), `chRetRows` the rows
retired in each channel (bank × 2¹⁸ + row), `headWaits` which operations at the heads of queues of a tile wait on a token, and since when (256 × tile + token, R225),
`failAt` the line at which an access last failed (R464), and `loftUsed` the lofts accessed since their LFT_CONFLICT was last read (R183). -/
structure Granary where
  mem : List Host.Cell
  ltag : SMap Nat
  marks : SMap LineMark
  rewritten : SMap Unit
  loftErr : SMap Bool
  spare : SMap Nat
  failMap : SMap (List FailEnt)
  repairReq : List (Nat × Nat × Nat)
  retPages : List Nat
  retHeld : List Nat
  retired : List Retired
  chFailed : List Nat
  chRetRows : SMap (List Nat)
  cal : SMap CalTask
  calRun : SMap Nat
  centredAt : SMap Nat
  dieTemp : SMap Nat
  refPost : SMap Nat
  refDone : SMap Nat
  selfRef : Bool
  scrubPos : SMap Nat
  scrubCorr : SMap Nat
  mapUsed : SMap Nat
  hrv : SMap Harvest
  headWaits : SMap (List (Nat × Nat))
  failAt : Option Nat
  loftUsed : List Nat
deriving DecidableEq, Repr

end Sys2Proof.Machine
end

