-- ==== Sys2Proof/Model/Train.lean ====
section
/-! DEFINITION. The state of the training-state engine (chapters 04, 09 and 13) that its registers and granary areas do not hold. -/

namespace Sys2Proof.Machine

/-- A sheaf: its header fields (Table 9.6) and the coded segment words and segments. -/
structure SheafRec where
  step : Nat
  entry : Nat
  array : Nat
  kind : Nat
  block : Nat
  src : Nat
  es : Nat
  newcrc : Nat
  code : List Byte
deriving DecidableEq, Repr

/-- Bytes of memory as they stood, with the tags of their lines. -/
structure Kept where
  addr : Nat
  bytes : List Byte
  tags : List Nat
deriving DecidableEq, Repr

/-- What undoes a step: the staged segments and the undo records (R333, R468), newest write last, and how the gradient mode stood before the step:
whether the last reduced step ran in 8-bit mode, the closes counted at or above GTH, and the mode the step was due to run in. -/
structure Undo where
  step : Nat
  kept : List Kept
  swept : Bool
  was8 : Bool
  hold : Nat
  next8 : Bool
deriving DecidableEq, Repr

/-- A place taken in the SHEAF or the PEND area: by a staged segment or by a record, of which step, where in the area, and how many bytes. -/
structure Span where
  staged : Bool
  step : Nat
  off : Nat
  len : Nat
deriving DecidableEq, Repr

/-- A scale-set waiting for its step (R131): entry, step, the words of bytes 0–3 and 12–15. -/
structure ScaleSet where
  entry : Nat
  step : Nat
  w0 : Nat
  w3 : Nat
deriving DecidableEq, Repr

/-- One job's training state. `out` are outgoing records not yet acknowledged; `pend` and `retained` the records received from PRED; `mirrorStep`
the step the held mirror is current to; `bad` the blocks that wait for a BASE record; `aborted` says that the job was stopped and its token counts are to be cleared; `logFlags` the flags of
the next log record; `scbHeld` the step control block as the last step start read it (R320); `stallPages` the pages that lengthen the stash and
`stallFail` that one could not be had (R347); `reshardTo` the step control block a RESHARD brings (R346); `shrunk`
that the job goes on after a SHRINK (R486). `sheaf` and `pendAt` are the places taken in the SHEAF and PEND areas (R320); `failed` says where the engine
failed to reach a structure of the job, until the command ends with the answer to it (R464); `sweepBad` that a run of the sweep faulted, was rejected or
aborted (R333); `moved` how a PERMUTE of a re-shard ended (R346). -/
structure TrnJob where
  startAt : Nat
  replay : Option Nat
  repeats : Nat
  grad8Next : Bool
  wasGrad8 : Bool
  hold : Nat
  stallPages : Nat
  out : List SheafRec
  undo : List Undo
  pend : List SheafRec
  retained : List SheafRec
  mirrorStep : Option Nat
  bad : List (Nat × Nat × Nat)
  sets : List ScaleSet
  logFlags : Nat
  unresolved : Bool
  matched : Bool
  root : Nat
  norms : List (Nat × Nat × Nat)
  epochAt : Nat
  aborted : Bool
  scbHeld : Option (List Byte)
  stallFail : Bool
  reshardTo : Option (List Byte)
  shrunk : Bool
  sheaf : List Span
  pendAt : List Span
  failed : Option FailSite
  sweepBad : Bool
  moved : Option Status
deriving DecidableEq, Repr

def TrnJob.init : TrnJob :=
  ⟨0, none, 0, false, false, 0, 0, [], [], [], [], none, [], [], 0, false, true, 0, [], 0, false, none, false, none, false, [], [], none, false,
    none⟩

/-- The engine: jobs by slot, the offences charged to this module (job slot and step), the records put on the fabric, the acknowledgements and BASE
requests sent, and the gradient contributions sent (R325). -/
structure Train where
  jobs : SMap TrnJob
  offences : List (Nat × Nat)
  sent : List (Nat × List Byte)
  acks : List (Nat × Nat)
  asks : List (Nat × Nat × Nat × Nat)
  grads : List (Nat × List Byte)
deriving DecidableEq, Repr

end Sys2Proof.Machine
end

