-- ==== Sys2Proof/Model/Inputs.lean ====
section
/-! DEFINITION. What the outside world brings to a command: upsets the model's own data does not show, and what other modules answer. -/

namespace Sys2Proof.Machine

/-- What the outside world observes at a fill: nothing wrong, a residue mismatch that the repeat clears or repeats, or a parity error in
the slot or in the held A operands (R99 to R104). -/
inductive FillObs where
  | clean
  | residue (unit : Nat)
  | fatal (unit repeatUnit : Nat)
  | parity (held : Bool)
deriving DecidableEq, Repr

/-- What a peer answers to an access the fabric carried: a status and the bytes read. The device has no other module inside it, so the
answers of peers are inputs of the commands that need them. -/
structure Peer where
  addr : Nat
  status : Status
  bytes : List Byte
  tags : List Nat
deriving DecidableEq, Repr

/-- An access to a register: how many bytes wide it is, and the unit that makes it (R9, R11). -/
structure Access where
  width : Nat
  unit : Fin 8192
deriving DecidableEq, Repr

/-- What a write of an SQ register carries: a sequence and a mask (R46). -/
structure SqClear where
  sq : Fin 65536
  mask : Fin 65536
deriving DecidableEq, Repr

/-- What an END meets outside its tile: the peer's answer to its add, and upsets of loft words. -/
structure EndSeen where
  peers : List Peer
  hits : List Strike
deriving DecidableEq, Repr

/-- What the buddy says of the records sent to it: that all are acknowledged, or which blocks it asks for (R343, R345). -/
structure BuddyAnswer where
  acked : Bool
  asked : List (Nat × Nat × Nat)
deriving DecidableEq, Repr

/-- A collectives engine that ends a collective, and the peers' answers to its add at the DONE block. -/
structure CollEnd where
  engine : Fin 4
  peers : List Peer
deriving DecidableEq, Repr

/-- A chunk as it arrives at a target. -/
structure Chunk where
  image : Nat
  num : Nat
  count : Nat
  crc : Nat
  imageCrc : Nat
  data : List Byte
deriving DecidableEq, Repr

/-- The run fields of an entry: maximum, saturations, underflows, elements. -/
structure RunFields where
  amax : Nat
  sat : Nat
  und : Nat
  elem : Nat
deriving DecidableEq, Repr

/-- What the all-gathers of row 6 bring of another member: rank, root, the CRCs of its checked blocks, and those its buddy computes for its mirror. -/
structure Replica where
  rank : Nat
  root : Nat
  crcs : List Nat
  mirror : List Nat
deriving DecidableEq, Repr

/-- A block copied from a good member: its bytes and tags, and the working copy of the same elements (address, bytes, tags). -/
structure Copy where
  index : Nat
  bytes : List Byte
  tags : List Nat
  work : List Kept
deriving DecidableEq, Repr

/-- Where a NOP runs: at the head of a tile's control queue, or as the command a queue's run has started (Tables 5.4 and 12.8). -/
inductive NopSite where
  | tile (t : Fin 64)
  | queue (q : Fin 0x40000)
deriving DecidableEq, Repr

end Sys2Proof.Machine
end

