-- ==== Sys2Proof/Syntax.lean ====
section
/-! DEFINITION. The commands of the block: one constructor per row of spec/opcode_table.json, in the table's order. An operand is what the command
names (a unit, a job slot, a register, a value) or what the outside world brings with it (a frame, a peer's answer, an observation of R99). -/

namespace Sys2Proof

open Sys2Proof.Machine

/-- A command. The docstring of each constructor is the step it stands for, with the rule that governs it. -/
inductive Instr where
  /-- A write to a register field that has no behaviour of its own sets or ignores the field as its access type states. (R15) -/
  | registerWrite (wr : Access) (fromFe : Bool) (u : Fin 8192) (o : Fin 0x100000) (v : Word)
  /-- A read of a 64-bit counter's low word latches the high word into the shadow and, for a clear-on-read counter, clears both words as one event. (R13) -/
  | counterLowRead (rdr : Access) (u : Fin 8192) (o : Fin 0x100000)
  /-- A read of an RC register returns its current value and then clears it. (R15) -/
  | rcRegisterRead (rdr : Access) (u : Fin 8192) (o : Fin 0x100000)
  /-- A write of a sequence and a mask to an SQ register clears each masked bit whose own sequence is not later than the written sequence. (R46) -/
  | sqRegisterWrite (wr : Access) (u : Fin 8192) (o : Fin 0x100000) (v : SqClear)
  /-- A change of a unit's WORST reaches its parent's UNIT_SUMMARY within 1 µs per level and raises SYS_MEMBER_HEALTH there. (R29) -/
  | sysMemberHealth (u : Fin 8192)
  /-- A write of a new MBX_CTRL.POST_SEQ posts MBX_IN0 to MBX_IN15 to the unit, or is rejected under R34 or R599. (R33) -/
  | mbxPost (u : Fin 8192) (sq : Fin 65536)
  /-- The unit answers a post within 100 µs by writing MBX_OUT, then REPLY_SEQ, then setting MBX_REPLY and raising SYS_MBX_REPLY. (R599) -/
  | mbxReply (u : Fin 8192)
  /-- The stall watchdog fires on an unacknowledged handshake request, and the requesting unit raises SYS_HS_STALL and becomes FAILED. (R42) -/
  | sysHsStall (u : Fin 8192) (port : Fin 256) (since : Nat)
  /-- The tally die's 1 µs tick advances tally time and the watchdog counts in every field spine. (R43) -/
  | tallyUsTick
  /-- A thresher MMA descriptor runs MCOUNT fills against a stationary slot into accumulator tiles. (R86) -/
  | mma (t : Fin 64) (w : Fin 1024) (hits : List Strike)
  /-- A thresher LOADB descriptor loads a block of B from the loft into a stationary slot along its axis. (R82) -/
  | loadb (t : Fin 64) (w : Fin 1024) (hits : List Strike)
  /-- A thresher DRAIN descriptor writes accumulator tiles to the loft in FP32 under its mask. (R98) -/
  | drain (t : Fin 64) (w : Fin 1024) (hits : List Strike)
  /-- A thresher ZERO descriptor clears accumulator tiles to +0 one per step after earlier fills to them are written. (R95) -/
  | zero (t : Fin 64) (w : Fin 1024) (hits : List Strike)
  /-- The thresher starts one fill of 1,024 dot products once its operands, slot and accumulator input are ready. (R78) -/
  | fill (t : Fin 64) (obs : FillObs) (starved : Bool) (hits : List Strike)
  /-- A fill's results are written to its accumulator tile within 20 steps of its start. (R95) -/
  | fillResultWrite (t : Fin 64)
  /-- A write of THR_CTRL sets the event enables and residue limit and re-evaluates the residue-limit condition. (R103) -/
  | thrCtrlWrite (t : Fin 64) (v : Word)
  /-- A write of TIL_CTRL.START in IDLE with a bound tile starts the descriptor stream from TIL_PROG. (R141) -/
  | tilStart (t : Fin 64)
  /-- A write of TIL_CTRL.STOP moves a RUNNING stream to STOPPING and cancels every operation not yet started. (R145) -/
  | tilStop (t : Fin 64)
  /-- A write of TIL_CTRL.CLEAR returns an ENDED stream, or a drained FAULTED stream, to IDLE. (R145) -/
  | tilClear (t : Fin 64)
  /-- A write of TIL_CTRL.TCLEAR in IDLE sets every token count to 0. (R153) -/
  | tclear (t : Fin 64)
  /-- A write of TIL_IDENT in IDLE binds the tile to a job slot and identity and sets every token count to 0. (R153) -/
  | tilIdentWrite (t : Fin 64) (v : Word)
  /-- The sequencer issues the next descriptor into its window slot once that slot is free, at most one per step. (R149) -/
  | descriptorIssue (t : Fin 64) (hits : List Strike)
  /-- An operation starts when it heads its unit queue, its token wait is satisfied, ORDERED allows and the unit accepts it. (R150) -/
  | operationStart (t : Fin 64) (uq : Fin 6)
  /-- An operation completes once its writes are held and reads done, releases slots in order and signals its token or TIL_OP_DONE. (R152) -/
  | operationComplete (t : Fin 64) (uq : Fin 6)
  /-- When a faulted stream's INFLIGHT reaches 0 the tile raises TIL_OP_FAULT with TIL_FAULT. (R161) -/
  | tilOpFault (t : Fin 64)
  /-- A STOPPING stream whose INFLIGHT reaches 0 returns to IDLE. (R145) -/
  | streamStopDrained (t : Fin 64)
  /-- A sequencer lockstep disagreement faults the stream, sets the tile FAILED and starts no further operation. (R146) -/
  | tilLockstep (t : Fin 64)
  /-- A remote token signal arrives over the spine and raises the named token on the receiving tile. (R155) -/
  | remoteSignalArrive (n : Nat)
  /-- A control NOP completes when it starts; the QCP NOP command shares this name in Table 12.8. (R144) -/
  | nop (site : NopSite)
  /-- An END starts after every earlier operation completes, makes its DONE_ADDR add and ends the stream with TIL_STREAM_END. (R162) -/
  | endOp (t : Fin 64) (seen : EndSeen)
  /-- A LOOP repeats its body COUNT times with patched words, or faults the stream under R165. (R164) -/
  | loop (t : Fin 64)
  /-- A FENCE starts after every earlier operation completes and holds back issue until it completes. (R159) -/
  | fence (t : Fin 64)
  /-- A control SIGNAL completes when it starts, serving only to wait, signal or both. (R154) -/
  | signal (t : Fin 64)
  /-- Vector ADD writes a + b, correctly rounded. (R167) -/
  | vecAdd (t : Fin 64) (w : Fin 1024) (upset : Option Nat) (hits : List Strike)
  /-- Vector SUB writes a − b, correctly rounded. (R167) -/
  | vecSub (t : Fin 64) (w : Fin 1024) (upset : Option Nat) (hits : List Strike)
  /-- Vector MUL writes a × b, correctly rounded. (R167) -/
  | vecMul (t : Fin 64) (w : Fin 1024) (upset : Option Nat) (hits : List Strike)
  /-- Vector FMA writes a × b + d with one rounding. (R167) -/
  | vecFma (t : Fin 64) (w : Fin 1024) (upset : Option Nat) (hits : List Strike)
  /-- Vector MAX writes the larger of a and b. (R167) -/
  | vecMax (t : Fin 64) (w : Fin 1024) (upset : Option Nat) (hits : List Strike)
  /-- Vector MIN writes the smaller of a and b. (R167) -/
  | vecMin (t : Fin 64) (w : Fin 1024) (upset : Option Nat) (hits : List Strike)
  /-- Vector ABS writes |a|. (R167) -/
  | vecAbs (t : Fin 64) (w : Fin 1024) (upset : Option Nat) (hits : List Strike)
  /-- Vector NEG writes −a. (R167) -/
  | vecNeg (t : Fin 64) (w : Fin 1024) (upset : Option Nat) (hits : List Strike)
  /-- Vector CMPGT writes 1.0 where a > b and +0 otherwise. (R167) -/
  | vecCmpgt (t : Fin 64) (w : Fin 1024) (upset : Option Nat) (hits : List Strike)
  /-- Vector CMPEQ writes 1.0 where a = b and +0 otherwise. (R167) -/
  | vecCmpeq (t : Fin 64) (w : Fin 1024) (upset : Option Nat) (hits : List Strike)
  /-- Vector MOVE copies a. (R167) -/
  | vecMove (t : Fin 64) (w : Fin 1024) (upset : Option Nat) (hits : List Strike)
  /-- Vector RESCALE multiplies a by the power of two given by EADJ and the fold exponents in force. (R135) -/
  | vecRescale (t : Fin 64) (w : Fin 1024) (upset : Option Nat) (hits : List Strike)
  /-- Vector EXP writes the correctly rounded exponential of a. (R168) -/
  | vecExp (t : Fin 64) (w : Fin 1024) (upset : Option Nat) (hits : List Strike)
  /-- Vector EXP2 writes the correctly rounded 2 to the power a. (R168) -/
  | vecExp2 (t : Fin 64) (w : Fin 1024) (upset : Option Nat) (hits : List Strike)
  /-- Vector LOG writes the correctly rounded natural logarithm of a. (R168) -/
  | vecLog (t : Fin 64) (w : Fin 1024) (upset : Option Nat) (hits : List Strike)
  /-- Vector LOG2 writes the correctly rounded base-2 logarithm of a. (R168) -/
  | vecLog2 (t : Fin 64) (w : Fin 1024) (upset : Option Nat) (hits : List Strike)
  /-- Vector RECIP writes the correctly rounded reciprocal of a. (R168) -/
  | vecRecip (t : Fin 64) (w : Fin 1024) (upset : Option Nat) (hits : List Strike)
  /-- Vector RSQRT writes the correctly rounded reciprocal square root of a. (R168) -/
  | vecRsqrt (t : Fin 64) (w : Fin 1024) (upset : Option Nat) (hits : List Strike)
  /-- Vector SQRT writes the correctly rounded square root of a. (R168) -/
  | vecSqrt (t : Fin 64) (w : Fin 1024) (upset : Option Nat) (hits : List Strike)
  /-- Vector TANH writes the correctly rounded hyperbolic tangent of a. (R168) -/
  | vecTanh (t : Fin 64) (w : Fin 1024) (upset : Option Nat) (hits : List Strike)
  /-- Vector SIGMOID writes the correctly rounded logistic function of a. (R168) -/
  | vecSigmoid (t : Fin 64) (w : Fin 1024) (upset : Option Nat) (hits : List Strike)
  /-- Vector ERF writes the correctly rounded error function of a. (R168) -/
  | vecErf (t : Fin 64) (w : Fin 1024) (upset : Option Nat) (hits : List Strike)
  /-- Vector SIN writes the correctly rounded sine of a. (R168) -/
  | vecSin (t : Fin 64) (w : Fin 1024) (upset : Option Nat) (hits : List Strike)
  /-- Vector COS writes the correctly rounded cosine of a. (R168) -/
  | vecCos (t : Fin 64) (w : Fin 1024) (upset : Option Nat) (hits : List Strike)
  /-- Vector DIV writes the correctly rounded a / b. (R168) -/
  | vecDiv (t : Fin 64) (w : Fin 1024) (upset : Option Nat) (hits : List Strike)
  /-- Vector RSUM reduces each row to its sum in the fixed lane-and-tree order. (R170) -/
  | vecRsum (t : Fin 64) (w : Fin 1024) (upset : Option Nat) (hits : List Strike)
  /-- Vector RSUMSQ reduces each row to its sum of squares in the fixed order. (R170) -/
  | vecRsumsq (t : Fin 64) (w : Fin 1024) (upset : Option Nat) (hits : List Strike)
  /-- Vector RMAX writes the largest element of each row. (R167) -/
  | vecRmax (t : Fin 64) (w : Fin 1024) (upset : Option Nat) (hits : List Strike)
  /-- Vector RMIN writes the smallest element of each row. (R167) -/
  | vecRmin (t : Fin 64) (w : Fin 1024) (upset : Option Nat) (hits : List Strike)
  /-- Vector RAMAX writes the largest magnitude in each row. (R167) -/
  | vecRamax (t : Fin 64) (w : Fin 1024) (upset : Option Nat) (hits : List Strike)
  /-- Vector CONV converts A to TYPE_D under its scale source and merges its maximum and chaff into entry SCIDX. (R171) -/
  | vecConv (t : Fin 64) (w : Fin 1024) (upset : Option Nat) (hits : List Strike)
  /-- Vector WINNOW finds the folded largest finite magnitude of A and writes it to a winnow register. (R173) -/
  | vecWinnow (t : Fin 64) (w : Fin 1024) (upset : Option Nat) (hits : List Strike)
  /-- Vector WIDEN widens narrow or half codes of A to FP32 by R72. (R172) -/
  | vecWiden (t : Fin 64) (w : Fin 1024) (upset : Option Nat) (hits : List Strike)
  /-- A DMA COPY moves ROWS rows from SRC to DST, widening when DFMT differs. (R177) -/
  | dmaCopy (t : Fin 64) (w : Fin 1024) (peers : List Peer) (hits : List Strike)
  /-- A DMA GATHER reads rows through the index list, optionally paged or version-checked. (R177) -/
  | dmaGather (t : Fin 64) (w : Fin 1024) (peers : List Peer) (hits : List Strike)
  /-- A DMA SCATTER writes rows through the index list, the higher index winning on repeats. (R177) -/
  | dmaScatter (t : Fin 64) (w : Fin 1024) (peers : List Peer) (hits : List Strike)
  /-- A DMA TRANSPOSE writes source elements transposed into the issuing tile's loft. (R179) -/
  | dmaTranspose (t : Fin 64) (w : Fin 1024) (peers : List Peer) (hits : List Strike)
  /-- A DMA FILL writes the FILLV pattern into every destination row. (R177) -/
  | dmaFill (t : Fin 64) (w : Fin 1024) (peers : List Peer) (hits : List Strike)
  /-- A write of LFT_SHAREj sets or removes job slot j's loft share, or is rejected with LFT_SHARE_REJECT. (R186) -/
  | lftShareWrite (t : Fin 64) (j : Fin 8) (v : Word)
  /-- A granary read is served on the narrow or streaming path by its channel controller. (R203) -/
  | granaryRead (u : Fin 8192) (job : Option (Fin 8)) (a : Nat) (n : Nat) (hits : List Strike)
  /-- A granary write sets whole lines with their tags or merges partial lines as one action. (R205) -/
  | granaryWrite (u : Fin 8192) (job : Option (Fin 8)) (a : Nat) (data : List Byte) (tag : Option Nat) (hits : List Strike)
  /-- Atomic 32-bit integer add at the channel controller. (R206) -/
  | addI32 (u : Fin 8192) (job : Option (Fin 8)) (a : Nat) (v : Nat) (hits : List Strike)
  /-- Atomic 64-bit integer add at the channel controller. (R206) -/
  | addI64 (u : Fin 8192) (job : Option (Fin 8)) (a : Nat) (v : Nat) (hits : List Strike)
  /-- Atomic FP32 add, refused with GRN_ATOMIC_REJECT for a training job. (R207) -/
  | addF32 (u : Fin 8192) (job : Option (Fin 8)) (a : Nat) (v : Nat) (hits : List Strike)
  /-- Atomic BF16 add, refused with GRN_ATOMIC_REJECT for a training job. (R207) -/
  | addBf16 (u : Fin 8192) (job : Option (Fin 8)) (a : Nat) (v : Nat) (hits : List Strike)
  /-- Atomic signed 32-bit max. (R206) -/
  | maxS32 (u : Fin 8192) (job : Option (Fin 8)) (a : Nat) (v : Nat) (hits : List Strike)
  /-- Atomic signed 32-bit min. (R206) -/
  | minS32 (u : Fin 8192) (job : Option (Fin 8)) (a : Nat) (v : Nat) (hits : List Strike)
  /-- Atomic unsigned 32-bit max. (R206) -/
  | maxU32 (u : Fin 8192) (job : Option (Fin 8)) (a : Nat) (v : Nat) (hits : List Strike)
  /-- Atomic unsigned 32-bit min. (R206) -/
  | minU32 (u : Fin 8192) (job : Option (Fin 8)) (a : Nat) (v : Nat) (hits : List Strike)
  /-- Atomic signed 64-bit max. (R206) -/
  | maxS64 (u : Fin 8192) (job : Option (Fin 8)) (a : Nat) (v : Nat) (hits : List Strike)
  /-- Atomic signed 64-bit min. (R206) -/
  | minS64 (u : Fin 8192) (job : Option (Fin 8)) (a : Nat) (v : Nat) (hits : List Strike)
  /-- Atomic unsigned 64-bit max. (R206) -/
  | maxU64 (u : Fin 8192) (job : Option (Fin 8)) (a : Nat) (v : Nat) (hits : List Strike)
  /-- Atomic unsigned 64-bit min. (R206) -/
  | minU64 (u : Fin 8192) (job : Option (Fin 8)) (a : Nat) (v : Nat) (hits : List Strike)
  /-- Atomic FP32 max following VOP MAX. (R206) -/
  | maxF32 (u : Fin 8192) (job : Option (Fin 8)) (a : Nat) (v : Nat) (hits : List Strike)
  /-- Atomic FP32 min following VOP MIN. (R206) -/
  | minF32 (u : Fin 8192) (job : Option (Fin 8)) (a : Nat) (v : Nat) (hits : List Strike)
  /-- Atomic 64-bit compare-and-swap. (R206) -/
  | cas64 (u : Fin 8192) (job : Option (Fin 8)) (a : Nat) (v : Nat) (cmp : Nat) (hits : List Strike)
  /-- Patrol scrub reads lines in turn so that each is read once every HOURS period, correcting but never poisoning. (R199) -/
  | patrolScrubRead (ch : Fin 512) (hits : List Strike)
  /-- A bank's refresh falls due and holds the bank for 140 ns, postponed at most 8 intervals. (R209) -/
  | refresh (ch : Fin 512) (bank : Fin 16) (bankBusy : Bool)
  /-- A calibration task's interval expires and a piece of at most 1 µs runs on the channel. (R212) -/
  | calibrationPiece (ch : Fin 512) (task : Fin 4) (good : Bool)
  /-- A die temperature move of more than 5 °C runs read and write centring at once. (R213) -/
  | centringTempTrigger (ch : Fin 512) (temp : Fin 256) (readGood : Bool) (writeGood : Bool)
  /-- A write of GRN_LOCAL_LO or HI changes group modes, or is rejected with GRN_LOCAL_REJECT for an allocated group. (R202) -/
  | grnLocalWrite (hi : Bool) (v : Word)
  /-- GRN_HRV_CMD.RUN in IDLE starts a harvest pass by reading the schedule header. (R217) -/
  | hrvRun (f : Fin 4) (j : Fin 8) (hits : List Strike)
  /-- GRN_HRV_CMD.STOP drops unstarted entries, lets started entries finish and returns the slot to IDLE. (R222) -/
  | hrvStop (f : Fin 4) (j : Fin 8)
  /-- A harvest entry starts once depth allows, earlier entries have started and its gate token count suffices. (R217) -/
  | hrvEntryStart (f : Fin 4) (j : Fin 8) (hits : List Strike)
  /-- A harvest entry completes when its bytes are held in the loft and signals LAND_TOK if LAND is set. (R219) -/
  | hrvEntryLand (f : Fin 4) (j : Fin 8) (cause : Fin 8) (peers : List Peer) (hits : List Strike)
  /-- A write of GRN_CH_REPAIR with GO requests a repair of the named row. (R226) -/
  | grnChRepairWrite (ch : Fin 512) (v : Word)
  /-- A row repair takes a spare, counts and records it in the tally die, remaps the row and writes back its lines. (R227) -/
  | rowRepair (ch : Fin 512) (hits : List Strike)
  /-- A failed or silent channel is retired, its accesses fail and the reeve assigns redirect targets. (R232) -/
  | grnChannelRetired (ch : Fin 512) (silent : Bool)
  /-- GRN_GL_CMD.LAUNCH starts every named working gleaner with the launch registers, or is rejected whole. (R244) -/
  | launch (st : Fin 32)
  /-- GRN_GL_CMD.ABORT stops every gleaner of the named job at its next instruction boundary, discarding open segments. (R249) -/
  | abort (st : Fin 32)
  /-- The stack controller grants a READY or PAUSED gleaner in rotation within 0.2 µs of a grant falling free. (R269) -/
  | grantIssue (st : Fin 32)
  /-- A gleaner that has held its grant for QUANTUM while another waits gives it up at its next commit and pauses. (R270) -/
  | grantQuantumExpire (g : Fin 4096)
  /-- A lower TLYCAP withdraws the most recent grants at their holders' next commits. (R271) -/
  | tlycapChange (st : Fin 32) (cap : Fin 256)
  /-- The tally die counting more grants than TLYCAP withdraws every grant of the stack and fails the stack controller. (R272) -/
  | glnGrantOver (st : Fin 32) (count : Fin 256)
  /-- A gleaner lockstep disagreement discards the open segment, fails the gleaner and counts a fault. (R243) -/
  | glnLockstep (g : Fin 4096)
  /-- An illegal instruction, misaligned access, ECALL or EBREAK ends the run with BAD_ARGUMENT. (R242) -/
  | glnIllegalInstruction (g : Fin 4096)
  /-- A write of a row-stream CSR sets it, is ignored when RO, or is an illegal instruction when unlisted. (R276) -/
  | glnCsrWrite (g : Fin 4096)
  /-- A write of RS_CONV2 with a different SCIDX merges the pending conversion counts under R122. (R262) -/
  | rsConv2Write (g : Fin 4096) (hits : List Strike)
  /-- rs.open opens the masked congruent streams and returns the positions this gleaner will visit. (R250) -/
  | rsOpen (g : Fin 4096)
  /-- rs.next makes the next visited position current. (R251) -/
  | rsNext (g : Fin 4096)
  /-- rs.get reads a stream granule at the current position into a buffer, opening or extending a segment. (R254) -/
  | rsGet (g : Fin 4096) (hits : List Strike)
  /-- rs.put places a buffer into the segment's commit buffer for a stream granule. (R254) -/
  | rsPut (g : Fin 4096) (hits : List Strike)
  /-- rs.fget reads a granule at a far device address as an ordinary access. (R253) -/
  | rsFget (g : Fin 4096) (peers : List Peer) (hits : List Strike)
  /-- rs.fput writes a buffer to a far device address as an ordinary write. (R253) -/
  | rsFput (g : Fin 4096) (peers : List Peer) (hits : List Strike)
  /-- rs.amo performs an atomic of Table 6.4 at a far address with operands from scratch. (R256) -/
  | rsAmo (g : Fin 4096) (peers : List Peer) (hits : List Strike)
  /-- rs.end commits the open segment, writing its held puts and releasing its banks. (R265) -/
  | rsEnd (g : Fin 4096) (hits : List Strike)
  /-- rs.exit commits, drains writes and atomics, merges conversion counts and makes the done add. (R248) -/
  | rsExit (g : Fin 4096) (hits : List Strike)
  /-- A segment is committed when a held bank reaches 1 µs or before a 17th get or put, counted in GLN_FORCED. (R264) -/
  | segmentForcedCommit (g : Fin 4096)
  /-- Granule operation ADD: D = A + B. (R257) -/
  | gopAdd (g : Fin 4096)
  /-- Granule operation SUB: D = A − B. (R257) -/
  | gopSub (g : Fin 4096)
  /-- Granule operation MUL: D = A × B. (R257) -/
  | gopMul (g : Fin 4096)
  /-- Granule operation FMA: D = A × B + D with one rounding. (R257) -/
  | gopFma (g : Fin 4096)
  /-- Granule operation AXPY: D = s0 × A + B with one rounding. (R257) -/
  | axpy (g : Fin 4096)
  /-- Granule operation AFFINE: D = s0 × A + s1 with one rounding. (R257) -/
  | affine (g : Fin 4096)
  /-- Granule operation DIV: D = A / B. (R257) -/
  | gopDiv (g : Fin 4096)
  /-- Granule operation SQRT: D = √A. (R257) -/
  | gopSqrt (g : Fin 4096)
  /-- Granule operation MAX as VOP MAX. (R257) -/
  | gopMax (g : Fin 4096)
  /-- Granule operation MIN as VOP MIN. (R257) -/
  | gopMin (g : Fin 4096)
  /-- Granule operation MOVE: D = A. (R257) -/
  | gopMove (g : Fin 4096)
  /-- Granule operation CVT converts A to the RS_CONV0 target and accumulates its chaff for RS_CONV2.SCIDX. (R262) -/
  | cvt (g : Fin 4096) (hits : List Strike)
  /-- Granule operation WIDEN widens narrow codes of A to FP32 in D. (R258) -/
  | gopWiden (g : Fin 4096)
  /-- Granule operation XSUM adds the exact sum of A to the exact accumulator. (R260) -/
  | xsum (g : Fin 4096)
  /-- Granule operation XSUMSQ adds the exact sum of squares of A to the exact accumulator. (R260) -/
  | xsumsq (g : Fin 4096)
  /-- Granule operation AMAX raises RS_AMAX to the largest finite magnitude in A. (R256) -/
  | amax (g : Fin 4096)
  /-- Granule operation CRC writes the CRC-64 of A's 512 bytes into D. (R259) -/
  | crc (g : Fin 4096)
  /-- rs.x XCLR clears the exact accumulator. (R260) -/
  | xclr (g : Fin 4096)
  /-- rs.x XST stores the 88-byte accumulator image to scratch. (R261) -/
  | xst (g : Fin 4096)
  /-- rs.x XADDM adds an image from scratch to the accumulator and ORs its flags. (R261) -/
  | xaddm (g : Fin 4096)
  /-- rs.x XRND returns the accumulator rounded once to FP32. (R261) -/
  | xrnd (g : Fin 4096)
  /-- A context allocation takes the lowest free page of the job's split frames or splits a whole free frame. (R283) -/
  | contextAllocation (j : Fin 8) (stack : Option (Fin 32))
  /-- A tensor allocation takes a whole free frame and marks it TENSOR. (R284) -/
  | tensorAllocation (j : Fin 8) (stack : Option (Fin 32))
  /-- An allocation still without an eligible frame after ALLOC_WAIT completes with NO_RESOURCE and raises CTX_ALLOC_FAIL. (R285) -/
  | allocWaitExpire
  /-- Freeing the last page of a split frame without retired pages returns the frame whole and free. (R283) -/
  | pageFree (p : Fin 0x4000000)
  /-- A page-in copies a PEER or EXPORTED page to a local page and writes the entry LOCAL, releasing waiting lookups. (R295) -/
  | pageIn (q : Fin 0x40000) (n : Nat) (status : Status) (data : List Byte)
  /-- When no page arrives within HOST_TMO, waiting operations complete with OP_FAILED and the entry stays EXPORTED. (R297) -/
  | hostPageinTimeout (q : Fin 0x40000) (n : Nat)
  /-- The context store invalidates a LOCAL entry's line in every tile and waits for every acknowledgement. (R296) -/
  | translationInvalidate (q : Fin 0x40000) (n : Nat)
  /-- An eviction marks the entry MOVING, invalidates, allocates or assigns GEN and starts copying the page out. (R300) -/
  | pageEviction (j : Fin 8) (peer : Option Nat)
  /-- When the target holds the page, the entry is written PEER or EXPORTED and the local page freed. (R300) -/
  | evictionCopyDone (q : Fin 0x40000) (n : Nat)
  /-- A peer holding a session's page leaving or failing a page-in disables the session and fails its waiters. (R301) -/
  | ctxPageLost (q : Fin 0x40000) (r : Fin 1024)
  /-- When a tile group is free, the context store forms a batch of ready sessions, writes its record and starts the group's streams. (R306) -/
  | batchDispatch (j : Fin 8)
  /-- When every tile of the group has ENDed, CONS of each session advances and the group returns to the free set. (R307) -/
  | batchEnd (j : Fin 8) (num : Nat)
  /-- When the borrow save completes, the training stream is SUSPENDED and the serving stream starts. (R311) -/
  | borrowSaveDone (t : Fin 64)
  /-- BUDGET microseconds after the lending FENCE the context store reclaims the tile. (R312) -/
  | lendBudgetExpire (t : Fin 64)
  /-- A reclaim stops the serving stream on a lent tile and abandons its batch. (R313) -/
  | reclaim (t : Fin 64)
  /-- Once INFLIGHT is 0 the saved state is restored, slots emptied, held signals applied and the training stream resumed. (R313) -/
  | reclaimDone (t : Fin 64)
  /-- A write of TRN_SCL_CTRL sets size and epoch and, by setting ENABLE, starts a serving job's epoch count. (R130) -/
  | trnSclCtrlWrite (j : Fin 8) (v : Word)
  /-- At a step start the engine chooses the split and the reeve starts each tile with the matching program, or the step fails with TRN_STASH_FAIL. (R348) -/
  | stepStart (j : Fin 8)
  /-- After the job-wide barrier the gradients are reduced in fixed rank order into every GRAD shard. (R323) -/
  | gradientReduce (j : Fin 8) (contribs : List (Nat × List (List Byte))) (outgoing : List Byte)
  /-- A gleaner pass adds each tied set's contributions into the target GRAD in index order. (R327) -/
  | tiedPass (j : Fin 8)
  /-- The engine launches the update sweep once rows 1 to 3 of step n and step n − 1's completion are done. (R328) -/
  | sweepLaunch (j : Fin 8)
  /-- As swept blocks finish the engine combines CRCs and streams XOR records to the buddy. (R341) -/
  | sheafEmit (j : Fin 8)
  /-- Replica groups all-gather roots and norms, decide differing blocks and take the gradient capacity minimum. (R336) -/
  | replicaCheck (j : Fin 8) (others : List Replica) (mine : List Nat) (copies : List Copy) (capacity : List Nat) (images : List (List (List Byte) × List (List Byte) × List (List Byte)))
  /-- The engine closes the step: scale-table close, step-log record, SCALE and LOG records and END. (R125) -/
  | stepClose (j : Fin 8) (scope : List (Nat × RunFields))
  /-- Every EPOCH milliseconds a serving job's scale table is closed over the conversions since the last close. (R130) -/
  | servingEpochClose (j : Fin 8) (scope : List (Nat × RunFields))
  /-- The buddy, holding END and every counted record, applies them to the mirror, checks NEWCRC and acknowledges. (R342) -/
  | mirrorApply (j : Fin 8) (recs : List SheafRec)
  /-- The buddy's acknowledgement completes the step, sets TRN_JOB_DONE and frees its outgoing records. (R321) -/
  | trnStepDone (j : Fin 8) (n : Nat)
  /-- The source sends BASE records of every mirrored block and the mirror is BUILDING until all are acknowledged. (R345) -/
  | mirrorBuild (j : Fin 8) (buddy : BuddyAnswer)
  /-- A faulted or aborted sweep run makes the engine apply the staged segments to restore pre-sweep values. (R333) -/
  | trnSweepUndone (j : Fin 8)
  /-- When the restore completes PHASE leaves UNDO and the step awaits replay. (R333) -/
  | sweepUndoDone (j : Fin 8)
  /-- A write of JXL_CTRL.MODE takes the link OFF and trains it in the new mode. (R357) -/
  | jxlModeWrite (l : Fin 24) (v : Word)
  /-- A NEGOTIATE control message settles the link's level and brings it UP, or FAILED with JXL_NEG_FAIL. (R362) -/
  | negotiate (l : Fin 24) (lmin : Fin 256) (lmax : Fin 256) (plink : Fin 32) (pid : Nat) (txBad : Fin 256) (rxBad : Fin 256)
  /-- A write of JXL_LANEMAP.COMMIT records the lane exclusions in the tally store or is refused at the limit. (R361) -/
  | lanemapCommit (l : Fin 24) (v : Word)
  /-- A received flit is accepted in sequence or, on a bad CRC or sequence, discarded with a NAK. (R363) -/
  | flitReceive (l : Fin 24) (flit : List Byte) (corr : Nat) (uncorr : Nat)
  /-- A NAK makes the sender replay from ACK + 1 out of its replay buffer. (R363) -/
  | nakReplay (l : Fin 24) (ack : Fin 0x1000000)
  /-- Sixteen replays of one flit or a lost lane lock send the link to RETRAINING, or FAILED past the limits. (R364) -/
  | jxlRetrain (l : Fin 24) (lostLock : Bool)
  /-- Retraining succeeds and the link resumes UP by replay. (R364) -/
  | retrainDone (l : Fin 24) (txBad : Fin 256) (rxBad : Fin 256)
  /-- A unit's access to another rank is sent as an authenticated fabric frame on a chosen link and held until its completion. (R370) -/
  | fabricRequestSend (req : FabReq)
  /-- A request without completion after RTO is resent unchanged, or after 8 sends fails with JXL_E2E_FAIL. (R370) -/
  | fabricResendTimeout (j : Fin 8) (r : Fin 1024) (ctr : Nat)
  /-- A received WRITE frame is authenticated, de-duplicated and executed, and answered with a COMPLETION. (R373) -/
  | fabricWrite (l : Fin 24) (frame : List Byte)
  /-- A received READ frame is executed and answered with a COMPLETION carrying the data. (R373) -/
  | fabricRead (l : Fin 24) (frame : List Byte)
  /-- A received ATOMIC frame is executed once and answered with a COMPLETION. (R373) -/
  | fabricAtomic (l : Fin 24) (frame : List Byte)
  /-- A received COMPLETION ends its held request, or with RETRY schedules a resend. (R370) -/
  | fabricCompletion (l : Fin 24) (frame : List Byte)
  /-- A received collective frame is matched to its collective or held in the early buffer, or answered RETRY. (R393) -/
  | fabricColl (l : Fin 24) (frame : List Byte)
  /-- A received HEARTBEAT frame refreshes the sender's liveness and its live-link report. (R379) -/
  | heartbeat (l : Fin 24) (frame : List Byte)
  /-- A received KEYX frame is verified against the member list and taken, or discarded with SEC_KEYX_FAIL. (R537) -/
  | keyx (l : Fin 24) (frame : List Byte)
  /-- An epoch's key is retired 100 ms after the first frame of the following epoch arrives. (R368) -/
  | epochKeyRetire (j : Fin 8) (r : Fin 1024)
  /-- Every INTERVAL milliseconds the chip sends a HEARTBEAT to every watched rank of each job slot. (R379) -/
  | heartbeatSend
  /-- A watched rank without an authentic heartbeat for MISS intervals becomes silent. (R380) -/
  | jxlPeerSilent (j : Fin 8) (r : Fin 1024)
  /-- A write of JXL_JOB_CTRL.FLUSH completes every outstanding request of the job with CANCELLED. (R398) -/
  | jobFlush (j : Fin 8)
  /-- Collective ALL_REDUCE reduces in fixed tree order and gathers the owners' shards to all. (R389) -/
  | allReduce (q : Fin 0x40000)
  /-- Collective REDUCE_SCATTER reduces shard k on its owner in fixed tree order. (R389) -/
  | reduceScatter (q : Fin 0x40000)
  /-- Collective ALL_GATHER collects every member's shard at every member. (R384) -/
  | allGather (q : Fin 0x40000)
  /-- Collective ALL_TO_ALL exchanges one block between every pair of members. (R384) -/
  | allToAll (q : Fin 0x40000)
  /-- Collective SEND sends COUNT bytes to rank AUX. (R384) -/
  | colSend (q : Fin 0x40000)
  /-- Collective RECV receives COUNT bytes from rank AUX into DST. (R384) -/
  | recv (q : Fin 0x40000)
  /-- Collective PERMUTE moves listed ranges with their tags through the stage area in barrier-separated rounds. (R391) -/
  | permute (q : Fin 0x40000)
  /-- Collective BARRIER completes once the barrier frame of every other member has arrived. (R392) -/
  | barrier (q : Fin 0x40000)
  /-- A finishing collective adds to its DONE block and, on OK with SIGNAL, signals its token. (R394) -/
  | collectiveComplete (e : CollEnd)
  /-- A write of COL_CMD.ABORT cancels every collective of the job slot and discards its staged and early data. (R395) -/
  | colAborted (f : Fin 4) (j : Fin 8)
  /-- A received frame is checked, filtered and placed in a receive queue or the fabric path, or discarded and counted. (R411) -/
  | macFrameReceive (m : Fin 26) (frame : List Byte) (cut : Bool) (corr : Nat) (uncorr : Nat)
  /-- A received PAUSE in MODE 1 holds every class for its quanta, or is ignored in another mode or hold-off. (R418) -/
  | pauseFrameReceive (m : Fin 26) (quanta : Fin 65536)
  /-- A received PFC frame in MODE 2 holds each named enabled class for its quanta. (R418) -/
  | pfcFrameReceive (m : Fin 26) (vec : Fin 256) (quanta : List Nat)
  /-- A class's pause time runs out and the class may transmit again. (R418) -/
  | pauseHoldExpire (m : Fin 26) (c : Fin 9)
  /-- A consumer releases a received frame, freeing its class share. (R415) -/
  | rxFrameRelease (m : Fin 26) (q : Fin 64)
  /-- Every 32,768 quanta while use stays at or above XON the pause frame is sent again. (R419) -/
  | pauseRefresh (m : Fin 26) (c : Fin 9)
  /-- A class pausing its peer for LIMIT ms without falling below XON releases it and stops pausing for HOLD ms. (R420) -/
  | macTxPauseAbandon (m : Fin 26) (c : Fin 9)
  /-- The HOLD period after an abandon ends and the class may send pause again. (R420) -/
  | pauseAbandonHoldEnd (m : Fin 26) (c : Fin 9)
  /-- The pause watchdog reaching LIMIT ends the hold, sets HOLDOFF and raises MAC_PAUSE_STORM. (R421) -/
  | macPauseStorm (m : Fin 26) (c : Fin 9)
  /-- HOLD ms after a watchdog trip the class's HOLDOFF clears and MAC_HOLDOFF_END is raised. (R422) -/
  | macHoldoffEnd (m : Fin 26) (c : Fin 9)
  /-- A change of MAC_PAUSE_CTRL.MODE releases holds, clears hold-offs and restarts watchdogs. (R417) -/
  | pauseModeWrite (m : Fin 26) (v : Word)
  /-- A unit hands a frame to the MAC, which pads, checks length, queues by class and sends by priority. (R416) -/
  | macFrameTransmit (m : Fin 26) (c : Fin 8) (frame : List Byte)
  /-- With EEE enabled, IDLE µs without a frame or pause to send puts the transmitter into LPI. (R423) -/
  | lpiEnter (m : Fin 26)
  /-- A frame or pause falling due during LPI wakes the transmitter, which then waits TX_TW. (R424) -/
  | lpiWake (m : Fin 26)
  /-- TX_TW after leaving LPI the transmitter resumes sending. (R424) -/
  | lpiWakeTimeEnd (m : Fin 26)
  /-- The port's link comes up and MAC_LINK_UP is raised. (R430) -/
  | macLinkUp (m : Fin 26) (phy : Fin 16) (lanes : Fin 9)
  /-- Loss of link discards waiting frames, clears holds and watchdogs and raises MAC_LINK_DOWN. (R426) -/
  | macLinkDown (m : Fin 26)
  /-- With PHY AUTO, no partner within 500 ms switches between auto-negotiation and the C2M type. (R404) -/
  | autonegTimeout (m : Fin 26)
  /-- A write of MAC_RXQ_CFG sets a queue's consumer and limit, ignored while the queue holds a frame. (R412) -/
  | rxqCfgWrite (m : Fin 26) (q : Fin 64) (v : Word)
  /-- A QCP OPEN is answered with ACCEPT creating a session, or REFUSE, or discarded past the rate limit. (R435) -/
  | openSession (port : Fin 2) (q : Fin 64)
  /-- A CLOSE from either side closes the session. (R436) -/
  | closeSession (port : Fin 2) (q : Fin 64)
  /-- A session with no authentic host frame for IDLE seconds closes. (R436) -/
  | sessionIdleClose (id : Nat)
  /-- A CMD_WRITE writes command entries into a queue ring and may let a held doorbell act. (R440) -/
  | cmdWrite (port : Fin 2) (q : Fin 64)
  /-- A DOORBELL acts by setting PROD and DSEQ once its commands have arrived, or is held, old or refused. (R441) -/
  | doorbell (port : Fin 2) (q : Fin 64)
  /-- A doorbell held 10 ms reports DOORBELL_AHEAD with FIRST_MISSING and stays held. (R442) -/
  | doorbellAheadTimeout (q : Fin 0x40000)
  /-- A COMP_QUERY is answered with the kept completion of that index or NOT_PRESENT. (R446) -/
  | compQuery (port : Fin 2) (q : Fin 64)
  /-- A DATA frame writes its bytes into an open window of the job's tensor pages. (R448) -/
  | data (port : Fin 2) (q : Fin 64)
  /-- A host PAGE_IN frame delivers a chunk of a requested page, installed once all eight arrive with the right GEN. (R449) -/
  | pageInChunk (port : Fin 2) (q : Fin 64)
  /-- A PAGE_ACK from the home session ends the copy step of an export. (R449) -/
  | pageAck (port : Fin 2) (q : Fin 64)
  /-- A SYNC is answered with the summary snapshot in SYNC_REPLY fragments. (R456) -/
  | sync (port : Fin 2) (q : Fin 64)
  /-- The reeve takes the next command entry of a queue and checks opcode, state and ownership before it runs. (R444) -/
  | commandStart (q : Fin 0x40000)
  /-- Once a command's writes are held and results handed to the MAC, its COMPLETION is sent on its flow. (R445) -/
  | commandCompletion (q : Fin 0x40000) (idx : Nat)
  /-- The reeve forwards drained event records to each subscribing session as EVENT frames with ESEQ. (R450) -/
  | eventForward (u : Fin 8192)
  /-- Command IDENTIFY returns the 256-byte summary header. (R455) -/
  | identify (q : Fin 0x40000)
  /-- Command ATTEST returns the signed attestation report. (R530) -/
  | attest (q : Fin 0x40000)
  /-- Command ENROL_KEY writes or empties an operator key slot, counted against the limit. (R524) -/
  | enrolKey (q : Fin 0x40000)
  /-- Command CONFIG read-modify-writes one register of a MAC_, JXL_, PWR_ or QCP_ unit. (R455) -/
  | config (q : Fin 0x40000)
  /-- Command COUNTERS returns the reeve's 64-bit totals of a unit's counters. (R455) -/
  | counters (q : Fin 0x40000)
  /-- Command EVENTS sets the session's event subscription. (R450) -/
  | events (q : Fin 0x40000)
  /-- Command DEBUG enables JTAG debug or trace and sets the debug flags. (R547) -/
  | debug (q : Fin 0x40000)
  /-- Command POWER moves the module to D1, D2 or D3. (R567) -/
  | power (q : Fin 0x40000)
  /-- Command RESET_UNIT resets a core, tile or field, or completes BUSY during a training step. (R514) -/
  | resetUnit (q : Fin 0x40000)
  /-- Command DRAIN moves the device to DRAINING and completes when READY is reached. (R452) -/
  | drainCommand (q : Fin 0x40000)
  /-- Command RELEASE scrubs the granary and returns a QUARANTINED device to READY. (R453) -/
  | release (q : Fin 0x40000)
  /-- Command QUARANTINE removes every job and its keys and enters QUARANTINED. (R453) -/
  | quarantine (q : Fin 0x40000)
  /-- Command JOB_CREATE creates a job in a slot from its register image, or NO_RESOURCE past the limits. (R303) -/
  | jobCreate (q : Fin 0x40000)
  /-- Command JOB_DESTROY stops the job, resets its tiles, clears its shares and keys and scrubs its frames. (R543) -/
  | jobDestroy (q : Fin 0x40000)
  /-- Command WINDOW_OPEN grants the session a window over the job's tensor pages. (R448) -/
  | windowOpen (q : Fin 0x40000)
  /-- Command WINDOW_CLOSE closes a window so later DATA frames to it fail. (R455) -/
  | windowClose (q : Fin 0x40000)
  /-- Command COMMIT digests a range and records its tensor record. (R532) -/
  | commit (q : Fin 0x40000)
  /-- Command FETCH sends a range of device memory as RESULT frames, then the completion. (R445) -/
  | fetch (q : Fin 0x40000)
  /-- Command LOAD_PROGRAM protects a program range or loads a gleaner region and records its digest. (R531) -/
  | loadProgram (q : Fin 0x40000) (lost : List (Nat × Nat))
  /-- Command QUEUE_CREATE writes a queue descriptor. (R455) -/
  | queueCreate (q : Fin 0x40000)
  /-- Command QUEUE_DESTROY cancels held doorbells and frees the queue's pages. (R442) -/
  | queueDestroy (q : Fin 0x40000)
  /-- Command PAGE_EVICT evicts a named context page as Table 8.6 states. (R300) -/
  | pageEvict (q : Fin 0x40000) (peer : Option Nat)
  /-- Command JOB_ADMIT checks the member list and runs the KEYX exchange with every member. (R539) -/
  | jobAdmit (q : Fin 0x40000)
  /-- A pair not finished within 2 s makes JOB_ADMIT complete with OP_FAILED. (R539) -/
  | jobAdmitTimeout (j : Fin 8)
  /-- Command JOB_START starts serving scheduling or readies a training job, NO_RESOURCE without a spare. (R473) -/
  | jobStart (q : Fin 0x40000)
  /-- Command STEP runs a count of training steps and completes when the last is done. (R455) -/
  | step (q : Fin 0x40000)
  /-- Command SCALE_SET changes a scale-table entry with effect from a named step. (R131) -/
  | scaleSet (q : Fin 0x40000)
  /-- Command JOB_STOP stops scheduling or steps at a step boundary. (R455) -/
  | jobStop (q : Fin 0x40000)
  /-- Command FREEZE makes the lead declare an empty failed set and halt with reason 2. (R483) -/
  | freeze (q : Fin 0x40000)
  /-- Command REPLAY returns members to the base step and replays the next step. (R483) -/
  | replay (q : Fin 0x40000)
  /-- Command SPARE_ASSIGN gives the module the spare role of a job. (R455) -/
  | spareAssign (q : Fin 0x40000)
  /-- Command ADOPT makes a spare take a rank and be filled. (R483) -/
  | adopt (q : Fin 0x40000)
  /-- Command RESHARD permutes the arrays under new state tables and rebuilds every mirror. (R346) -/
  | reshard (q : Fin 0x40000)
  /-- Command SNAPSHOT sends every MASTER array after the named step completes. (R455) -/
  | snapshot (q : Fin 0x40000)
  /-- Command CHECKPOINT exports a rank's mirror at the next stride step as RESULT frames. (R490) -/
  | checkpoint (q : Fin 0x40000)
  /-- Each reeve polls its recovery area at least every 100 µs and acts on each slot whose SEQ changed. (R470) -/
  | recoveryAreaPoll (j : Fin 8)
  /-- A FAIL message names silent ranks to the lead, which declares them failed. (R472) -/
  | fail (j : Fin 8) (r : Fin 1024)
  /-- A WITHDRAWN message makes the lead declare the sender failed. (R472) -/
  | withdrawn (j : Fin 8) (r : Fin 1024)
  /-- A FREEZE message with a higher epoch stops the job, flushes requests and marks failed ranks. (R474) -/
  | recFreeze (j : Fin 8) (r : Fin 1024)
  /-- FROZEN messages from every member let the lead choose the base step and send ADOPT or HALT. (R475) -/
  | frozen (j : Fin 8) (r : Fin 1024)
  /-- An ADOPT message makes the spare take the failed rank's identity and programs. (R476) -/
  | recAdopt (j : Fin 8) (r : Fin 1024)
  /-- An ADOPTED message makes each member reroute the adopted rank to the spare and starts its fill. (R476) -/
  | adopted (j : Fin 8) (r : Fin 1024)
  /-- The buddy sends the rank's mirrored state to the spare, which sends FILLED when every write has completed. (R477) -/
  | rankFill (j : Fin 8) (r : Fin 1024)
  /-- FILLED from every spare, with survivors at the base step, makes the lead send REPLAY. (R479) -/
  | filled (j : Fin 8) (r : Fin 1024)
  /-- A survivor undoes every swept step above the base step, newest first. (R478) -/
  | stepUndo (j : Fin 8)
  /-- A REPLAY message makes every member run step b + 1 as a replay. (R479) -/
  | recReplay (j : Fin 8) (r : Fin 1024)
  /-- REPLAYED messages with matches make the lead send RESUME, or on a mismatch HALT and localisation. (R481) -/
  | replayed (j : Fin 8) (r : Fin 1024)
  /-- A RESUME message continues the job at step b + 2 and counts a recovery. (R481) -/
  | resume (j : Fin 8) (r : Fin 1024)
  /-- A HALT message leaves the job frozen with its reason. (R487) -/
  | halt (j : Fin 8) (r : Fin 1024)
  /-- A REPEAT message stops the job's units, clears the scale run fields and restarts the step. (R461) -/
  | repeatMsg (j : Fin 8) (r : Fin 1024)
  /-- The reeve withdraws the module from a job: WITHDRAWN, stop, unbind, delete keys, destroy. (R465) -/
  | moduleWithdraw (j : Fin 8)
  /-- A failed read of a mirrored array rebuilds its block from the buddy's mirror and the held records. (R463) -/
  | blockRestore (j : Fin 8) (a : Nat) (mirror : Option (Nat × List Byte))
  /-- Without a spare, the job returns to the base step and re-shards by the shrink plan. (R486) -/
  | shrink (j : Fin 8)
  /-- Localisation runs known-answer tests on every tile and gleaner and takes differing units OFFLINE. (R489) -/
  | localisation (failed : List Nat) (noneElsewhere : Bool)
  /-- An RA_OPEN opens a bring-up session on a tally or front-end server. (R500) -/
  | raOpen (port : Fin 4) (q : Fin 64)
  /-- An RA_CLOSE closes a bring-up session. (R500) -/
  | raClose (port : Fin 4) (q : Fin 64)
  /-- An RA_CLAIM on the tally ring of an unclaimed module enrols the claimant's key in slot 0. (R500) -/
  | raClaim (port : Fin 4) (q : Fin 64)
  /-- An RA_BLOB writes 8 KiB of firmware image into the staging area and marks it received. (R505) -/
  | raBlob (port : Fin 4) (q : Fin 64)
  /-- An RA_OPS READ entry reads a register. (R498) -/
  | raRead (port : Fin 4) (q : Fin 64)
  /-- An RA_OPS WRITE entry writes a register. (R498) -/
  | raWrite (port : Fin 4) (q : Fin 64)
  /-- An RA_OPS RMW entry read-modify-writes a register as one access. (R498) -/
  | raRmw (port : Fin 4) (q : Fin 64)
  /-- An RA_OPS POLL entry reads a register until the masked value matches. (R498) -/
  | raPoll (port : Fin 4) (q : Fin 64)
  /-- A POLL whose TIMEOUT passes completes with BUSY and cancels later entries. (R498) -/
  | raPollTimeout (port : Fin 4)
  /-- Bring-up action SPINES releases field spines and link controllers and loads lane exclusions. (R502) -/
  | spines
  /-- Bring-up action TRAIN trains every stack, applies repair maps and completes re-forming. (R503) -/
  | train (failed : List Nat)
  /-- Bring-up action VERIFY checks the staged image's completeness, header, digest, signature and SVN. (R505) -/
  | verify
  /-- Bring-up action LOAD broadcasts the sequencer and gleaner images and runs repair rounds. (R507) -/
  | load (lost : List (Nat × Nat))
  /-- Bring-up action SELFTEST tests every loft, thresher, vector unit, gleaner and bank and takes failures OFFLINE. (R509) -/
  | selftest (failed : List Nat)
  /-- Bring-up action START records digests and starts the reeve, entering BOOT. (R510) -/
  | bootStart
  /-- A bring-up action ends with DONE or FAILED, SYS_BOOT_RESULT and SYS_BOOT_DONE or SYS_BOOT_FAIL. (R502) -/
  | bootActionEnd
  /-- A target stores an image chunk whose CRC matches and, with all chunks present, checks the whole image. (R506) -/
  | loadChunkReceive (u : Fin 8192) (chunk : Chunk)
  /-- A repair round resends missing chunks and, after the third, holds incomplete targets. (R507) -/
  | loadRepairRound (lost : List (Nat × Nat))
  /-- A write of UNIT_RESET.PULSE resets the unit once, absorbing its traffic and draining it. (R513) -/
  | pulse (u : Fin 8192) (out : Nat)
  /-- A write of UNIT_RESET.HOLD = 1 holds the unit in reset; HOLD = 0 releases it. (R513) -/
  | hold (u : Fin 8192) (v : Bool) (out : Nat)
  /-- Outbound requests still outstanding 2 ms into a reset are abandoned and SYS_RST_ABANDON raised. (R513) -/
  | resetDrainTimeout (u : Fin 8192)
  /-- A unit leaving reset reloads and checks, clears IN_RESET, sets RESET_DONE and becomes GOOD or OFFLINE. (R513) -/
  | sysResetDone (u : Fin 8192) (good : Bool)
  /-- A write of SEC_FLOOR_RAISE raises the anti-rollback floor or is refused. (R542) -/
  | secFloorRaise (v : Word)
  /-- Every 10 ms each side resends its KEYX of the round until it holds the peer's and has seen GOT. (R538) -/
  | keyxResend (j : Fin 8) (r : Fin 1024)
  /-- The entropy source failing its health test refuses every new session and key exchange until reset. (R529) -/
  | secRngFail
  /-- A JTAG instruction other than IDCODE or BYPASS sets the debug flags and raises SEC_DEBUG_ATTACHED. (R546) -/
  | jtagInstruction
  /-- A feed under-voltage, over-voltage or reverse current isolates the feed within 20 µs. (R552) -/
  | tlyFeedLost (feed : Fin 2) (cause : Fin 4) (tenths : Nat)
  /-- The supercapacitor's hold-up ends, the tally die loses power and the ring bypass closes. (R554) -/
  | holdupEnd
  /-- An isolated feed within range for 100 ms reconnects. (R553) -/
  | tlyFeedBack (feed : Fin 2) (tenths : Nat)
  /-- A main-domain rail below 92 % for 1 µs resets the main die, removes every rail and enters D3. (R555) -/
  | tlyRailUv (rail : Fin 16)
  /-- Every 100 µs the power manager lowers or raises the core voltage by 4 mV against the cap and temperature. (R559) -/
  | capLoopCheck (avg : Nat) (railLimit : Bool)
  /-- Power still over the cap after 10 ms at 0.600 V lowers the gleaner cap term every 10 ms and raises PWR_CAP_UNMET. (R561) -/
  | pwrCapUnmet (avg : Nat)
  /-- A write of PWR_CAP sets the cap, hysteresis and ceiling, or is rejected with CAP_REJECT. (R558) -/
  | pwrCapWrite (v : Word)
  /-- Every 250 µs the tally die samples every junction and stack sensor and updates TLYCAP. (R563) -/
  | thermalSample (junctions : List Nat) (bases : List Nat)
  /-- TLY_POWER_CMD.ON in D3 raises the main rails, releases reset and starts the boot ROM. (R571) -/
  | on
  /-- TLY_POWER_CMD.OFF removes the main rails within 10 ms and enters D3. (R571) -/
  | off
  /-- TLY_POWER_CMD.TRESET in D3 restarts the tally die's logic, keeping its store. (R571) -/
  | treset
  /-- The supercapacitor reaches charge and HOLDUP_OK changes. (R570) -/
  | holdupCharged
  /-- The tally die powers up, starts tally time at 0, counts POWERON and opens the bypass. (R572) -/
  | tallyPowerUp (va : Nat) (vb : Nat)
  /-- A write of TLY_RING.BYPASS closes the bypass, or opens it only from a front-end session. (R575) -/
  | tlyRingWrite (v : Word) (fromFe : Bool)
  /-- A frame on TRA or TRB is taken in when addressed to the tally die and forwarded out the other port otherwise. (R574) -/
  | tallyRingFrame (port : Fin 2) (frame : List Byte)
  /-- The tally die writes a queued black-box record in RSEQ order, erasing ahead of the ring. (R578) -/
  | bbRecordWrite
  /-- The black-box pacing bucket refills at 1,000 records per second. (R579) -/
  | bbBucketRefill
  /-- A write of TLY_BB_SEL selects a record for TLY_BB_DATA and TLY_BB_INFO. (R581) -/
  | tlyBbSelWrite (v : Word)
  /-- A reference input lost for 10 µs removes the rails for REFCLK0 or drops the Ethernet ports for REFCLK1. (R590) -/
  | tlyRefclkLost (clk : Fin 2)
  /-- A returning REFCLK1 lets FE0, FE1 and Ethernet-mode links renegotiate. (R590) -/
  | refclkReturn (clk : Fin 2)
  /-- Inserting the module with live feeds powers the tally die and leaves the module in D3. (R598) -/
  | moduleInsert (va : Nat) (vb : Nat)
  /-- A reeve lockstep or firmware failure puts the device in FAULT, and the chip stops sending heartbeats for every job slot. (R466) -/
  | reeveFault
  /-- When no PAGE_ACK for an exported page arrives within CTX_CTRL.HOST_TMO, the entry returns to LOCAL and eviction stops. (R449) -/
  | exportAckTimeout (q : Fin 0x40000) (n : Nat)
  /-- A working member that has found more than half of the working members silent for 20 ms withdraws from the job. (R472) -/
  | majoritySilenceWithdraw (j : Fin 8)
  /-- The link partner starts or stops signalling LPI, which sets or clears MAC_STATE.RX_LPI and counts in MAC_RX_LPI. (R423) -/
  | rxLpiIndication (m : Fin 26) (on : Bool)
  /-- The 1000BASE-X link on TRA or TRB comes up or goes down, which changes TLY_RING.TRA_UP or TRB_UP. (R573) -/
  | tallyPortLinkChange (port : Fin 2) (up : Bool)
  /-- A gleaner core executes one ordinary RV32IMAFC instruction, including scratch loads, stores and RV32A atomics, under the address map of Table 7.2. (R240) -/
  | rv32imafcInstruction (g : Fin 4096)
deriving DecidableEq, Repr

end Sys2Proof
end

