-- ==== Sys2Proof/Decode.lean ====
section
/-! DEFINITION. The commands a word spells. No row of spec/opcode_table.json gives a command bits (every row's list of fields is empty): commands are
register accesses, frames, and events of the block, not words; so no word spells one. -/

namespace Sys2Proof

/-- The command a word of `nbits` bits spells by the table: none, since no row gives bits. -/
def decodeTableWord (_nbits _w : Nat) : Option Instr := none

end Sys2Proof
end

