-- ==== Sys2Proof/Machine/Arith.lean ====
section
/-! DEFINITION. Arithmetic revision 1 (chapter 02): the formats, the window-sum dot product, reference mode, conversion to narrow formats,
block scales, widening and the Philox generator. Values are exact: a sign, a magnitude and a power of two. -/

namespace Sys2Proof.Machine

/-- A value of a format: not a number, an infinity, or the exact number `± m × 2^e` (a zero keeps its sign). -/
inductive FV where
  | nan
  | inf (neg : Bool)
  | num (neg : Bool) (m : Nat) (e : Int)
deriving DecidableEq, Repr

/-- Which special codes a format has (Table 2.2). -/
inductive Special where
  | ieee      -- exponent all ones: infinities and NaNs
  | fn        -- only the all-ones codes are NaN (E4M3)
  | finite    -- none (E2M3, E3M2, E2M1)
  | int       -- two's complement (INT8, MXINT8)
deriving DecidableEq, Repr

/-- A format of Table 2.2. `mb` fraction bits; for integers `bias` is the weight of the last bit, negated. -/
structure Fmt where
  bits : Nat
  mb : Nat
  bias : Int
  special : Special
  mx : Bool
deriving DecidableEq, Repr

/-- The format a code of Table 2.3 names; 0xC to 0xF are reserved (R50). -/
def fmtOf : Nat → Option Fmt
  | 0x0 => some ⟨8, 0, 0, .int, false⟩
  | 0x1 => some ⟨8, 3, 7, .fn, false⟩
  | 0x2 => some ⟨8, 2, 15, .ieee, false⟩
  | 0x3 => some ⟨8, 3, 7, .fn, true⟩
  | 0x4 => some ⟨8, 2, 15, .ieee, true⟩
  | 0x5 => some ⟨6, 3, 1, .finite, true⟩
  | 0x6 => some ⟨6, 2, 3, .finite, true⟩
  | 0x7 => some ⟨4, 1, 1, .finite, true⟩
  | 0x8 => some ⟨8, 0, 6, .int, true⟩
  | 0x9 => some ⟨16, 7, 127, .ieee, false⟩
  | 0xA => some ⟨16, 10, 15, .ieee, false⟩
  | 0xB => some ⟨32, 23, 127, .ieee, false⟩
  | _ => none

/-- Bits of an element of a format code; 0 for a reserved code. -/
def fmtBits (c : Nat) : Nat := match fmtOf c with
  | some f => f.bits
  | none => 0

/-- Is a code an MX code? -/
def isMx (c : Nat) : Bool := match fmtOf c with
  | some f => f.mx
  | none => false

/-- FP32 (code 0xB). -/
def fmtF32 : Fmt := ⟨32, 23, 127, .ieee, false⟩

/-- BF16 (code 0x9). -/
def fmtBf16 : Fmt := ⟨16, 7, 127, .ieee, false⟩

/-- The fill class of a code (Table 2.3): 0 I8, 1 F8, 2 MX8, 3 MX6/4, 4 H16; none for codes no operand may have (R51). -/
def fillClass : Nat → Option Nat
  | 0x0 => some 0
  | 0x1 | 0x2 => some 1
  | 0x3 | 0x4 | 0x8 => some 2
  | 0x5 | 0x6 | 0x7 => some 3
  | 0x9 | 0xA => some 4
  | _ => none

/-- Products per dot-product unit per fill (Table 2.4). -/
def classProducts : Nat → Nat
  | 3 => 64
  | 4 => 16
  | _ => 32

/-- The canonical NaN (R49). -/
def nan32 : Nat := 0x7FC0_0000

/-- The value a code of a format has (Table 2.2 and the text below it). -/
def decodeFmt (f : Fmt) (c : Nat) : FV :=
  match f.special with
  | .int =>
    let c := c % 256
    if c < 128 then .num false c (-f.bias) else .num true (256 - c) (-f.bias)
  | sp =>
    let neg := bitOf c (f.bits - 1)
    let eb := f.bits - 1 - f.mb
    let ex := bitsOf c (f.bits - 2) f.mb
    let fr := c % 2 ^ f.mb
    if sp = .ieee && ex = 2 ^ eb - 1 then (if fr = 0 then .inf neg else .nan)
    else if sp = .fn && ex = 2 ^ eb - 1 && fr = 2 ^ f.mb - 1 then .nan
    else if ex = 0 then .num neg fr (1 - f.bias - f.mb)
    else .num neg (2 ^ f.mb + fr) (ex - f.bias - f.mb)

/-- The value of an FP32 code. -/
def f32 (c : Nat) : FV := decodeFmt fmtF32 c

/-- The exponent of the top bit of a nonzero number `m × 2^e`: floor(log₂). -/
def topExp (m : Nat) (e : Int) : Int := (Nat.log2 m : Int) + e

/-- The weight of the last bit of the format's smallest numbers. -/
def fmtLow (f : Fmt) : Int := match f.special with
  | .int => -f.bias
  | _ => 1 - f.bias - f.mb

/-- The largest finite magnitude, in units of the top binade's ULP, for a sign (INT8 and MXINT8 reach −128; Table 2.2). -/
def fmtTop (f : Fmt) (neg : Bool) : Nat := match f.special with
  | .int => if neg then 128 else 127
  | .fn => 2 ^ (f.mb + 1) - 2
  | _ => 2 ^ (f.mb + 1) - 1

/-- The ULP exponent of the top binade. -/
def fmtTopUlp (f : Fmt) : Int := match f.special with
  | .int => -f.bias
  | .ieee => (2 ^ (f.bits - 1 - f.mb) - 2 : Nat) - f.bias - f.mb
  | _ => (2 ^ (f.bits - 1 - f.mb) - 1 : Nat) - f.bias - f.mb

/-- The code of the magnitude `q` ULPs at ULP exponent `u`. -/
def codeOf (f : Fmt) (neg : Bool) (q : Nat) (u : Int) : Nat := match f.special with
  | .int => if neg then (256 - q) % 256 else q
  | _ => b2n neg * 2 ^ (f.bits - 1) + (u - fmtLow f).toNat * 2 ^ f.mb + q

/-- The code of an infinity, or of the NaN that stands for it in E4M3 (Table 2.7). -/
def infCode (f : Fmt) (neg : Bool) : Nat := match f.special with
  | .fn => 0x7F
  | _ => b2n neg * 2 ^ (f.bits - 1) + (2 ^ (f.bits - 1) - 2 ^ f.mb)

/-- The code a NaN input converts to (R69). -/
def nanCode (f : Fmt) : Nat := match f.special with
  | .int | .finite => 0
  | _ => if f.bits = 32 then nan32 else 2 ^ (f.bits - 1) - 1

/-- How a conversion rounds (Table 2.6): round to nearest even, or stochastically with `s` random bits of value `r`. -/
inductive Rnd where
  | nearest
  | stoch (s r : Nat)
deriving DecidableEq, Repr

/-- Does a magnitude with remainder `rem / 2^sh` of an ULP above an `odd` or even lower neighbour round up (R64, R65)? -/
def roundsUp (rnd : Rnd) (odd : Bool) (rem sh : Nat) : Bool := match rnd with
  | .nearest => decide (2 ^ sh < 2 * rem) || (decide (2 * rem = 2 ^ sh) && odd)
  | .stoch s r => decide (2 ^ s ≤ rem * 2 ^ s / 2 ^ sh + r)

/-- The outcome of a conversion: the code and the three countable happenings (R67, R69, R70). -/
structure Conv where
  code : Nat
  sat : Bool
  und : Bool
  nan : Bool
deriving DecidableEq, Repr

/-- Conversion of an exact value to a target format (R64 to R70, Table 2.7). -/
def convert (f : Fmt) (satmode : Bool) (rnd : Rnd) : FV → Conv
  | .nan => ⟨nanCode f, false, false, true⟩
  | .inf neg =>
    if satmode && (f.special == .ieee || f.special == .fn) then ⟨infCode f neg, false, false, false⟩
    else ⟨codeOf f neg (fmtTop f neg) (fmtTopUlp f), true, false, false⟩
  | .num neg m e =>
    if m = 0 then ⟨if f.special = .int then 0 else codeOf f neg 0 (fmtLow f), false, false, false⟩
    else
      let u := min (fmtTopUlp f) (max (topExp m e - f.mb) (fmtLow f))
      let q := if u ≤ e then m * 2 ^ (e - u).toNat else m / 2 ^ (u - e).toNat
      let sh := (u - e).toNat
      let rem := if u ≤ e then 0 else m % 2 ^ sh
      let top := fmtTop f neg
      let atTop := decide (u = fmtTopUlp f)
      let sat := atTop && (decide (top < q) || (decide (q = top) && decide (0 < rem)))
      if sat then
        let special := satmode && (f.special == .ieee || f.special == .fn) &&
          (decide (top < q) || (match rnd with
            | .nearest => decide (2 ^ sh ≤ 2 * rem)
            | .stoch _ _ => roundsUp rnd true rem sh))
        ⟨if special then infCode f neg else codeOf f neg top (fmtTopUlp f), true, false, false⟩
      else
        let q' := if roundsUp rnd (q % 2 == 1) rem sh then q + 1 else q
        ⟨if f.special = .int && q' = 0 then 0 else codeOf f neg q' u, false, q' == 0, false⟩

/-- The exact value rounded once to FP32, to nearest even, overflow to infinity (R56; the IEEE 754 rule of R68's text). -/
def toF32 (v : FV) : Nat := (convert fmtF32 true .nearest v).code

/-- Multiplication by a power of two, exact (R62). -/
def FV.scale (v : FV) (k : Int) : FV := match v with
  | .num n m e => .num n m (e + k)
  | v => v

/-- Sign change. -/
def FV.negate : FV → FV
  | .nan => .nan
  | .inf n => .inf (!n)
  | .num n m e => .num (!n) m e

/-- Magnitude. -/
def FV.abs : FV → FV
  | .nan => .nan
  | .inf _ => .inf false
  | .num _ m e => .num false m e

/-- The exact product with IEEE 754 special values (R52, R53). -/
def fmul : FV → FV → FV
  | .nan, _ => .nan
  | _, .nan => .nan
  | .inf a, .inf b => .inf (xor a b)
  | .inf a, .num b m _ => if m = 0 then .nan else .inf (xor a b)
  | .num a m _, .inf b => if m = 0 then .nan else .inf (xor a b)
  | .num a m e, .num b n d => .num (xor a b) (m * n) (e + d)

/-- The signed integer `± m` of a value in units of `2^u`, exact when `u ≤ e`. -/
def unitsOf (neg : Bool) (m : Nat) (e u : Int) : Int :=
  let k : Int := (m * 2 ^ (e - u).toNat : Nat)
  if neg then -k else k

/-- The exact sum with IEEE 754 special values and signed zeros under round to nearest. -/
def fadd : FV → FV → FV
  | .nan, _ => .nan
  | _, .nan => .nan
  | .inf a, .inf b => if a = b then .inf a else .nan
  | .inf a, .num _ _ _ => .inf a
  | .num _ _ _, .inf b => .inf b
  | .num a m e, .num b n d =>
    let u := min e d
    let s := unitsOf a m e u + unitsOf b n d u
    if s = 0 then .num (a && b && m == 0 && n == 0) 0 0
    else .num (decide (s < 0)) s.natAbs u

/-- Is the value a zero? -/
def FV.isZero : FV → Bool
  | .num _ m _ => m == 0
  | _ => false

/-- Is the value finite? -/
def FV.isFinite : FV → Bool
  | .num _ _ _ => true
  | _ => false

/-- Is the value of negative sign? -/
def FV.isNeg : FV → Bool
  | .nan => false
  | .inf n => n
  | .num n _ _ => n

/-- Exact comparison of two values that are not NaN: is `a < b`? (Zeros of either sign are equal.) -/
def FV.lt : FV → FV → Bool
  | .nan, _ => false
  | _, .nan => false
  | .inf a, .inf b => a && !b
  | .inf a, .num _ _ _ => a
  | .num _ _ _, .inf b => !b
  | .num a m e, .num b n d => decide (unitsOf a m e (min e d) < unitsOf b n d (min e d))

/-- The value of an E8M0 scale code minus 127: none for the NaN code 0xFF (Table 2.2). -/
def e8m0 (c : Nat) : Option Int := if c = 0xFF then none else some ((c : Int) - 127)

/-- The largest floor(log₂|v|) over the nonzero terms (R54). -/
def emaxOf : List FV → Option Int
  | [] => none
  | .num _ m e :: r =>
    if m = 0 then emaxOf r
    else match emaxOf r with
      | none => some (topExp m e)
      | some x => some (max x (topExp m e))
  | _ :: r => emaxOf r

/-- The signed magnitude of a term truncated toward zero to whole units of `2^u` (R54). -/
def truncUnits (u : Int) : FV → Int
  | .num neg m e =>
    let k : Int := (if u ≤ e then m * 2 ^ (e - u).toNat else m / 2 ^ (u - e).toNat : Nat)
    if neg then -k else k
  | _ => 0

/-- Every term is a zero of negative sign (R57). -/
def allNegZero (t : List FV) : Bool := t.all fun v => v.isZero && v.isNeg

/-- The window sum of finite terms: the integer sum S and the exponent of its unit (R54, R55). -/
def windowSum (t : List FV) : Int × Int :=
  match emaxOf t with
  | none => (0, 0)
  | some em => ((t.map (truncUnits (em - 64))).foldl (· + ·) 0, em - 64)

/-- The dot product over its exact terms (R53 to R57): the result code. -/
def dotTerms (t : List FV) (bias : Int) : Nat :=
  if t.any (· == .nan) then nan32
  else if t.any (· == .inf false) && t.any (· == .inf true) then nan32
  else if t.any (· == .inf false) then toF32 (.inf false)
  else if t.any (· == .inf true) then toF32 (.inf true)
  else
    let s := windowSum t
    if s.1 = 0 then (if allNegZero t then 0x8000_0000 else 0)
    else toF32 (.num (decide (s.1 < 0)) s.1.natAbs (s.2 + bias))

/-- The exact products of a list of element pairs under their block scales (R52). A NaN scale makes its products NaN. -/
def products (fa fb : Fmt) (n : Nat) (a b : List Nat) (sa sb : List Nat) : List FV :=
  (List.range n).map fun i =>
    let blk := i / 32
    let p := fmul (decodeFmt fa (a.getD i 0)) (decodeFmt fb (b.getD i 0))
    let xa := if fa.mx then e8m0 (sa.getD blk 0) else some 0
    let xb := if fb.mx then e8m0 (sb.getD blk 0) else some 0
    match xa, xb with
    | some x, some y => p.scale (x + y)
    | _, _ => .nan

/-- A fill of one dot-product unit in normal mode (R52 to R57). `c` is the incoming accumulator's FP32 code. -/
def dot (fa fb : Fmt) (n : Nat) (a b sa sb : List Nat) (c : Nat) (bias : Int) : Nat :=
  dotTerms (products fa fb n a b sa sb ++ [f32 c]) bias

/-- A fill of one dot-product unit in reference mode (R60). -/
def dotRef (fa fb : Fmt) (n : Nat) (a b sa sb : List Nat) (c : Nat) (bias : Int) : Nat :=
  let s := (products fa fb n a b sa sb).foldl (fun acc p => toF32 (fadd (f32 acc) (f32 (toF32 p)))) c
  toF32 ((f32 s).scale bias)

/-- The exponent of the largest normal element of an MX element type (Table 2.8). -/
def mxElExp : Nat → Int
  | 0x3 => 8
  | 0x4 => 15
  | 0x5 => 2
  | 0x6 => 4
  | 0x7 => 2
  | _ => 0

/-- The largest finite magnitude of a list of values, as `m × 2^e`; none when no element is finite and nonzero. -/
def amaxOf (l : List FV) : FV :=
  l.foldl (fun acc v => match v with
    | .num _ m e => if acc.lt (.num false m e) then .num false m e else acc
    | _ => acc) (.num false 0 0)

/-- The block scale exponent X of an MX block (R71). -/
def mxScale (code : Nat) (blk : List FV) : Int :=
  match amaxOf blk with
  | .num _ m e => if m = 0 then -127 else max (-127) (min 127 (topExp m e - mxElExp code))
  | _ => -127

/-- Widening of a code to FP32 (R72): the FP32 code, and whether it counts a saturation or an underflow. `sc` is the block's E8M0
code where the format has block scales. -/
def widen (f : Fmt) (sc : Nat) (c : Nat) : Conv :=
  match (if f.mx then e8m0 sc else some 0) with
  | none => ⟨nan32, false, false, false⟩
  | some x =>
    match (decodeFmt f c).scale x with
    | .nan => ⟨nan32, false, false, false⟩
    | .inf n => ⟨infCode fmtF32 n, false, false, false⟩
    | v =>
      let r := convert fmtF32 true .nearest v
      ⟨r.code, r.sat && !(f32 r.code).isFinite, r.und, false⟩

/-- One 32-bit product of a Philox round: low and high words. -/
def philoxMul (a b : Nat) : Nat × Nat := (a * b % 2 ^ 32, a * b / 2 ^ 32 % 2 ^ 32)

/-- The Philox4x32 rounds, counting down (chapter 02, the listing). -/
def philoxRounds : Nat → Nat → Nat → Nat → Nat → Nat → Nat → Nat × Nat × Nat × Nat
  | 0, c0, c1, c2, c3, _, _ => (c0, c1, c2, c3)
  | n + 1, c0, c1, c2, c3, k0, k1 =>
    let p0 := philoxMul 0xD2511F53 c0
    let p1 := philoxMul 0xCD9E8D57 c2
    philoxRounds n (Nat.xor (Nat.xor p1.2 c1) k0) p1.1 (Nat.xor (Nat.xor p0.2 c3) k1) p0.1
      ((k0 + 0x9E3779B9) % 2 ^ 32) ((k1 + 0xBB67AE85) % 2 ^ 32)

/-- The random bits of element `i` (R73, R74): the top `s` bits of its 16-bit slice. -/
def srBits (seed stream step tensor i s : Nat) : Nat :=
  let q := i / 8
  let o := philoxRounds 10 (q % 2 ^ 32) (q / 2 ^ 32 % 2 ^ 16) (tensor % 2 ^ 32) (step % 2 ^ 32) (seed % 2 ^ 32) (stream % 2 ^ 32)
  let w := match i % 8 / 2 with
    | 0 => o.1
    | 1 => o.2.1
    | 2 => o.2.2.1
    | _ => o.2.2.2
  (w / 2 ^ (16 * (i % 2)) % 2 ^ 16) / 2 ^ (16 - s)

/-- The number of random bits SRBITS names; 3 is reserved (Table 2.6). -/
def srWidth : Nat → Option Nat
  | 0 => some 12
  | 1 => some 8
  | 2 => some 16
  | _ => none

/-- The stream identity of a tile's conversion lane (Table 2.9). -/
def tileStream (rank ltile lane : Nat) : Nat := rank % 1024 * 2 ^ 22 + ltile % 64 * 2 ^ 16 + lane % 512 * 2 ^ 7

/-- The stream identity of a gleaner's conversion (Table 2.9). -/
def gleanerStream (rank lstream : Nat) : Nat := rank % 1024 * 2 ^ 22 + lstream % 2 ^ 15 * 2 ^ 7 + 1

/-! ### IEEE 754 operations on FP32 codes, each rounded once -/

def f32Add (a b : Nat) : Nat := toF32 (fadd (f32 a) (f32 b))
def f32Sub (a b : Nat) : Nat := toF32 (fadd (f32 a) (f32 b).negate)
def f32Mul (a b : Nat) : Nat := toF32 (fmul (f32 a) (f32 b))
/-- a × b + d with one rounding. -/
def f32Fma (a b d : Nat) : Nat := toF32 (fadd (fmul (f32 a) (f32 b)) (f32 d))

/-- A positive rational `p / q` as a dyadic value with a sticky last bit, precise enough for one rounding to any format here. -/
def ratDyadic (neg : Bool) (p q : Nat) (e : Int) : FV :=
  let k := Nat.log2 q + 40
  let x := p * 2 ^ k
  .num neg (2 * (x / q) + b2n (x % q != 0)) (e - k - 1)

/-- The quotient with IEEE 754 special values, exact or sticky. -/
def fdiv : FV → FV → FV
  | .nan, _ => .nan
  | _, .nan => .nan
  | .inf _, .inf _ => .nan
  | .inf a, .num b _ _ => .inf (xor a b)
  | .num a _ _, .inf b => .num (xor a b) 0 0
  | .num a m e, .num b n d =>
    if n = 0 then (if m = 0 then .nan else .inf (xor a b))
    else if m = 0 then .num (xor a b) 0 0
    else ratDyadic (xor a b) m n (e - d)

def f32Div (a b : Nat) : Nat := toF32 (fdiv (f32 a) (f32 b))

/-- The integer square root, by its bits from the top: the largest `r` with `r² ≤ n`. -/
def isqrtGo (n : Nat) : Nat → Nat → Nat
  | 0, r => r
  | k + 1, r => let r' := r + 2 ^ k; isqrtGo n k (if r' * r' ≤ n then r' else r)

def isqrt (n : Nat) : Nat := isqrtGo n (Nat.log2 n / 2 + 1) 0

/-- The square root with IEEE 754 special values, exact or sticky. -/
def fsqrt : FV → FV
  | .nan => .nan
  | .inf n => if n then .nan else .inf false
  | .num neg m e =>
    if m = 0 then .num neg 0 0
    else if neg then .nan
    else
      let odd := e % 2 = 1
      let m2 := (if odd then 2 * m else m) * 2 ^ 120
      let e2 := (if odd then e - 1 else e) - 120
      let r := isqrt m2
      .num false (2 * r + b2n (r * r != m2)) (e2 / 2 - 1)

def f32Sqrt (a : Nat) : Nat := toF32 (fsqrt (f32 a))

/-- The larger of two FP32 codes: +0 above −0 (Table 5.7). NaN operands are decided by the caller. -/
def fmaxV (a b : FV) : FV :=
  if a.isZero && b.isZero then .num (a.isNeg && b.isNeg) 0 0 else if a.lt b then b else a

def fminV (a b : FV) : FV :=
  if a.isZero && b.isZero then .num (a.isNeg || b.isNeg) 0 0 else if b.lt a then b else a

end Sys2Proof.Machine
end

