-- ==== Sys2Proof/Config.lean ====
section
/-! DEFINITION. What the spec leaves to the module, its firmware or the outside, and the free values, as constants without a body:
nothing in Lean can evaluate them, so a proof holds whatever they are (log entries 2 and 3). -/

namespace Sys2Proof.Config

/-- The ordering variant (R2): true for QBX40-AA. -/
opaque variantAA : Bool

/-- The n-th free value of a run, for a value the spec leaves open (R176). -/
opaque freeValue : Nat → Nat

/-- An FP32 value of a function whose certified enclosure did not settle the rounding: function code and operand. -/
opaque freeFunction : Nat → Nat → Nat

/-- What JXL_NEG holds: "per firmware" (Table 10.13). -/
opaque jxlNeg : Word

/-- The first of the module's block of four factory MAC addresses (R597). -/
opaque macBase : Nat

/-- The MAC address of FE0 (unit 8), FE1 (unit 9) and the tally die: the first, second and third of the block (R405, R574, R597). -/
def macAddr (u : Nat) : Nat := (macBase + if u = 8 then 0 else if u = 9 then 1 else 2) % 2 ^ 48

/-- Bytes of the module's identity seed, as the PUF reconstructs it (R521). -/
opaque identitySeed : List Byte

/-- The n-th 32 bytes the entropy source delivers (R529). -/
opaque entropy : Nat → List Byte

/-- The public key that signs Quinentyn's firmware images (R505). -/
opaque firmwareKey : List Byte

/-- The digest of the boot ROM and its revision (R530). -/
opaque romRevision : Nat

/-- Does the PUF fail to reconstruct at the power-up of this number (R521)? -/
opaque pufFails : Nat → Bool

/-- The key with which the tally die signs its state (R530). -/
opaque tallyKey : List Byte

/-- What the firmware's set-up writes to registers, (unit, offset, value), and to the granary (R431, Table 14.3 step 10). -/
opaque firmwareRegs : List (Nat × Nat × Nat)
opaque firmwareBytes : List (Nat × List (BitVec 8))

/-- How many EVENT frames of a session the reeve keeps for a flow that cannot take them (R450). -/
opaque eventHold : Nat

/-- The bytes that stand in SHEAF for a granule a sweep rewrites, from its offset, its old and its new bytes: the staged format is internal to the
firmware (R333, log entry 68). -/
opaque stagedForm : Nat → List (BitVec 8) → List (BitVec 8) → List (BitVec 8)

/-- Where the control plane puts a working rank's step control block on a spare: job slot and rank (chapter 13 gives no place). -/
opaque spareScb : Nat → Nat → Nat

end Sys2Proof.Config
end

