-- ==== Sys2Proof/Machine/Events.lean ====
section
/-! DEFINITION. The code and the severity of each event (Tables 1.3 and the event tables of the block chapters; FLAGS[1:0] of Table 1.8). -/

namespace Sys2Proof.Machine

/-- The event code: block identifier in [15:8], local code in [7:0] (R21). -/
def evCode : Ev → Nat
  | .sysAddrFault => 0x0101
  | .sysHsStall => 0x0102
  | .sysMemberHealth => 0x0103
  | .sysResetDone => 0x0104
  | .sysMbxReply => 0x0105
  | .thrResidue => 0x0301
  | .thrResidueFatal => 0x0302
  | .thrInvalid => 0x0303
  | .thrOverflow => 0x0304
  | .thrOperandFault => 0x0305
  | .thrResLimit => 0x0306
  | .thrParity => 0x0307
  | .trnChaffSat => 0x0A20
  | .trnChaffUnd => 0x0A21
  | .trnScaleMisfit => 0x0A22
  | .trnScaleAdapt => 0x0A23
  | .trnScaleClamp => 0x0A24
  | .tilStreamEnd => 0x0201
  | .tilOpFault => 0x0202
  | .tilTokenOvf => 0x0203
  | .tilLockstep => 0x0204
  | .tilSigReject => 0x0205
  | .tilOpDone => 0x0206
  | .vecResidue => 0x0401
  | .dmaVersionFault => 0x0501
  | .dmaReadFault => 0x0502
  | .lftEccCorr => 0x0601
  | .lftEccUncorr => 0x0602
  | .lftShareReject => 0x0603
  | .grnEccCorr => 0x0701
  | .grnEccUncorr => 0x0702
  | .grnPoisonRead => 0x0703
  | .grnAtomicReject => 0x0704
  | .grnRepairDone => 0x0705
  | .grnRepairRefused => 0x0706
  | .grnPageRetired => 0x0707
  | .grnChannelRetired => 0x0708
  | .grnCalFail => 0x0709
  | .grnHrvDone => 0x070A
  | .grnHrvFault => 0x070B
  | .grnScrubPass => 0x070C
  | .grnLocalReject => 0x070D
  | .glnLockstep => 0x0801
  | .glnRunFault => 0x0802
  | .glnLaunchReject => 0x0803
  | .glnAdopt => 0x0804
  | .glnGrantOver => 0x0805
  | .ctxAllocFail => 0x0901
  | .ctxPageLost => 0x0902
  | .ctxEvictLow => 0x0903
  | .ctxPageinReq => 0x0904
  | .ctxReclaimLate => 0x0905
  | .ctxQueueFault => 0x0906
  | .trnStepDone => 0x0A01
  | .trnDiverge => 0x0A02
  | .trnRepaired => 0x0A03
  | .trnSilent => 0x0A04
  | .trnOffender => 0x0A05
  | .trnStashOvf => 0x0A06
  | .trnStashFail => 0x0A07
  | .trnGradMode => 0x0A08
  | .trnVersionAbort => 0x0A09
  | .trnMirrorBad => 0x0A0A
  | .trnReplayMismatch => 0x0A0B
  | .trnSweepUndone => 0x0A0C
  | .jxlUp => 0x0B01
  | .jxlRetrain => 0x0B02
  | .jxlFailed => 0x0B03
  | .jxlNegFail => 0x0B04
  | .jxlRemapRefused => 0x0B05
  | .jxlAuthFail => 0x0B06
  | .jxlE2eFail => 0x0B07
  | .jxlPeerSilent => 0x0B08
  | .jxlFwdDrop => 0x0B09
  | .colFailed => 0x0C01
  | .colBad => 0x0C02
  | .colAborted => 0x0C03
  | .macLinkUp => 0x0D01
  | .macLinkDown => 0x0D02
  | .macPauseStorm => 0x0D03
  | .macHoldoffEnd => 0x0D04
  | .macRxTrunc => 0x0D05
  | .macQfull => 0x0D06
  | .qcpSessionOpen => 0x0E01
  | .qcpSessionClose => 0x0E02
  | .qcpAuthFail => 0x0E03
  | .qcpDoorbellAhead => 0x0E04
  | .qcpStateChange => 0x0E05
  | .sysRecDeclared => 0x0110
  | .sysRecFrozen => 0x0111
  | .sysRecAdopted => 0x0112
  | .sysRecFilled => 0x0113
  | .sysRecResumed => 0x0114
  | .sysRecRepeat => 0x0115
  | .sysRecHalted => 0x0116
  | .sysRecCkptNeeded => 0x0117
  | .sysRecWithdrawn => 0x0118
  | .sysRecLocalised => 0x0119
  | .sysBootDone => 0x0120
  | .sysBootFail => 0x0121
  | .sysLoadHeld => 0x0122
  | .sysRstAbandon => 0x0123
  | .secEnrol => 0x1101
  | .secFloorRaised => 0x1102
  | .secLimitRefused => 0x1103
  | .secDebugAttached => 0x1104
  | .secKeyxFail => 0x1105
  | .secPufFail => 0x1106
  | .secRngFail => 0x1107
  | .secScrubDone => 0x1108
  | .tlyFeedLost => 0x0F01
  | .tlyFeedBack => 0x0F02
  | .tlyRailUv => 0x0F03
  | .tlyThermShut => 0x0F04
  | .tlyBbDrop => 0x0F05
  | .tlyRing => 0x0F06
  | .tlyRefclkLost => 0x0F07
  | .tlyLimitChange => 0x0F08
  | .tlyRepairMap => 0x0F09
  | .tlyRetire => 0x0F0A
  | .tlyBootAction => 0x0F0B
  | .tlyPowerLost => 0x0F0C
  | .tlyPstate => 0x0F0D
  | .pwrCapLimited => 0x1001
  | .pwrThermal => 0x1002
  | .pwrCapUnmet => 0x1003
  | .pwrDstate => 0x1004

/-- The severity the event tables give: 0 information, 1 warning, 2 error, 3 fault (R22). -/
def evSeverity : Ev → Nat
  | .sysAddrFault => 2
  | .sysHsStall => 3
  | .sysMemberHealth => 0
  | .sysResetDone => 0
  | .sysMbxReply => 0
  | .thrResidue => 1
  | .thrResidueFatal => 3
  | .thrInvalid => 0
  | .thrOverflow => 0
  | .thrOperandFault => 2
  | .thrResLimit => 1
  | .thrParity => 3
  | .trnChaffSat => 1
  | .trnChaffUnd => 1
  | .trnScaleMisfit => 1
  | .trnScaleAdapt => 0
  | .trnScaleClamp => 1
  | .tilStreamEnd => 0
  | .tilOpFault => 2
  | .tilTokenOvf => 3
  | .tilLockstep => 3
  | .tilSigReject => 1
  | .tilOpDone => 0
  | .vecResidue => 2
  | .dmaVersionFault => 2
  | .dmaReadFault => 2
  | .lftEccCorr => 0
  | .lftEccUncorr => 2
  | .lftShareReject => 1
  | .grnEccCorr => 0
  | .grnEccUncorr => 2
  | .grnPoisonRead => 2
  | .grnAtomicReject => 1
  | .grnRepairDone => 0
  | .grnRepairRefused => 1
  | .grnPageRetired => 1
  | .grnChannelRetired => 3
  | .grnCalFail => 2
  | .grnHrvDone => 0
  | .grnHrvFault => 2
  | .grnScrubPass => 0
  | .grnLocalReject => 1
  | .glnLockstep => 3
  | .glnRunFault => 2
  | .glnLaunchReject => 1
  | .glnAdopt => 1
  | .glnGrantOver => 3
  | .ctxAllocFail => 1
  | .ctxPageLost => 2
  | .ctxEvictLow => 0
  | .ctxPageinReq => 0
  | .ctxReclaimLate => 1
  | .ctxQueueFault => 2
  | .trnStepDone => 0
  | .trnDiverge => 2
  | .trnRepaired => 0
  | .trnSilent => 3
  | .trnOffender => 3
  | .trnStashOvf => 1
  | .trnStashFail => 2
  | .trnGradMode => 1
  | .trnVersionAbort => 2
  | .trnMirrorBad => 2
  | .trnReplayMismatch => 3
  | .trnSweepUndone => 2
  | .jxlUp => 0
  | .jxlRetrain => 1
  | .jxlFailed => 2
  | .jxlNegFail => 2
  | .jxlRemapRefused => 1
  | .jxlAuthFail => 2
  | .jxlE2eFail => 2
  | .jxlPeerSilent => 3
  | .jxlFwdDrop => 1
  | .colFailed => 2
  | .colBad => 1
  | .colAborted => 0
  | .macLinkUp => 0
  | .macLinkDown => 1
  | .macPauseStorm => 1
  | .macHoldoffEnd => 0
  | .macRxTrunc => 1
  | .macQfull => 1
  | .qcpSessionOpen => 0
  | .qcpSessionClose => 0
  | .qcpAuthFail => 1
  | .qcpDoorbellAhead => 1
  | .qcpStateChange => 0
  | .sysRecDeclared => 1
  | .sysRecFrozen => 0
  | .sysRecAdopted => 0
  | .sysRecFilled => 0
  | .sysRecResumed => 0
  | .sysRecRepeat => 1
  | .sysRecHalted => 2
  | .sysRecCkptNeeded => 3
  | .sysRecWithdrawn => 3
  | .sysRecLocalised => 2
  | .sysBootDone => 0
  | .sysBootFail => 2
  | .sysLoadHeld => 2
  | .sysRstAbandon => 1
  | .secEnrol => 0
  | .secFloorRaised => 0
  | .secLimitRefused => 1
  | .secDebugAttached => 1
  | .secKeyxFail => 2
  | .secPufFail => 3
  | .secRngFail => 3
  | .secScrubDone => 0
  | .tlyFeedLost => 1
  | .tlyFeedBack => 0
  | .tlyRailUv => 3
  | .tlyThermShut => 3
  | .tlyBbDrop => 1
  | .tlyRing => 0
  | .tlyRefclkLost => 3
  | .tlyLimitChange => 0
  | .tlyRepairMap => 0
  | .tlyRetire => 1
  | .tlyBootAction => 0
  | .tlyPowerLost => 3
  | .tlyPstate => 0
  | .pwrCapLimited => 0
  | .pwrThermal => 1
  | .pwrCapUnmet => 2
  | .pwrDstate => 0

end Sys2Proof.Machine
end

