-- ==== Sys2Proof/Machine/Regs.lean ====
section
/-! DEFINITION. The register tables of the spec, as data (Tables 1.6, 2.1, 3.8, 4.6, 4.7, 5.12, 5.13, 6.11 to 6.13, 7.7, 7.8, 8.10, 8.11, 9.9, 10.12 to
10.14, 11.4, 12.11, 13.6, 14.8, 15.8, 16.8, 16.9, and R137, R517): each register's offset in its unit's window (`Off`), each field's
bits (`Fld`), and per kind of unit the rows with access type, reset value and the mask of the bits a write sets. -/

namespace Sys2Proof.Machine

namespace Off

def unitId : Nat := 0x0
def unitSummary : Nat := 0x4
def unitStatus : Nat := 0x8
def unitReset : Nat := 0xc
def evtHead : Nat := 0x10
def evtTail : Nat := 0x14
def evtDrop : Nat := 0x18
def mbxCtrl : Nat := 0x20
def mbxIn (n : Nat) : Nat := 0x40 + 0x4 * n
def mbxOut (n : Nat) : Nat := 0x80 + 0x4 * n
def evtRing (n : Nat) : Nat := 0x400 + 0x4 * n
def sysArithRev : Nat := 0x10000
def thrCaps : Nat := 0x20000
def thrStatus : Nat := 0x20004
def thrCtrl : Nat := 0x20008
def thrSlot : Nat := 0x2000c
def thrResLast : Nat := 0x20010
def thrResTotal : Nat := 0x20014
def thrFillsLo : Nat := 0x20020
def thrFillsHi : Nat := 0x20024
def thrSkippedLo : Nat := 0x20028
def thrSkippedHi : Nat := 0x2002c
def thrRefFillsLo : Nat := 0x20030
def thrRefFillsHi : Nat := 0x20034
def thrInvalidLo : Nat := 0x20038
def thrInvalidHi : Nat := 0x2003c
def thrOverflowLo : Nat := 0x20040
def thrOverflowHi : Nat := 0x20044
def thrResCorrLo : Nat := 0x20048
def thrResCorrHi : Nat := 0x2004c
def thrStarvedLo : Nat := 0x20050
def thrStarvedHi : Nat := 0x20054
def vecChaffSatLo : Nat := 0x30800
def vecChaffSatHi : Nat := 0x30804
def vecChaffUndLo : Nat := 0x30808
def vecChaffUndHi : Nat := 0x3080c
def vecChaffConvLo : Nat := 0x30810
def vecChaffConvHi : Nat := 0x30814
def vecChaffWsatLo : Nat := 0x30818
def vecChaffWsatHi : Nat := 0x3081c
def vecChaffWundLo : Nat := 0x30820
def vecChaffWundHi : Nat := 0x30824
def trnSclBaseLo (n : Nat) : Nat := 0x10800 + 0x20 * n
def trnSclBaseHi (n : Nat) : Nat := 0x10804 + 0x20 * n
def trnSclCtrl (n : Nat) : Nat := 0x10808 + 0x20 * n
def trnSclStatus (n : Nat) : Nat := 0x1080c + 0x20 * n
def trnSclStep (n : Nat) : Nat := 0x10810 + 0x20 * n
def trnSclFlagged (n : Nat) : Nat := 0x10814 + 0x20 * n
def tilCaps : Nat := 0x10000
def tilStatus : Nat := 0x10004
def tilCtrl : Nat := 0x10008
def tilStream : Nat := 0x1000c
def tilProgLo : Nat := 0x10010
def tilProgHi : Nat := 0x10014
def tilProgLen : Nat := 0x10018
def tilStep : Nat := 0x1001c
def tilSeed : Nat := 0x10020
def tilIdent : Nat := 0x10024
def tilFault : Nat := 0x10028
def tilToken : Nat := 0x1002c
def tilOpsLo : Nat := 0x10030
def tilOpsHi : Nat := 0x10034
def tilWinfullLo : Nat := 0x10038
def tilWinfullHi : Nat := 0x1003c
def tilLmap (n : Nat) : Nat := 0x10100 + 0x4 * n
def vecStatus : Nat := 0x30000
def vecResLast : Nat := 0x30004
def vecWinnow (n : Nat) : Nat := 0x30010 + 0x4 * n
def vecResLo : Nat := 0x30020
def vecResHi : Nat := 0x30024
def vecConvNanLo : Nat := 0x30828
def vecConvNanHi : Nat := 0x3082c
def dmaStatus (n : Nat) : Nat := 0x40000 + 0x10000 * n
def dmaBytesLo (n : Nat) : Nat := 0x40010 + 0x10000 * n
def dmaBytesHi (n : Nat) : Nat := 0x40014 + 0x10000 * n
def lftStatus : Nat := 0x60000
def lftUncorrLast : Nat := 0x60004
def lftCorrLo : Nat := 0x60008
def lftCorrHi : Nat := 0x6000c
def lftConflictLo : Nat := 0x60010
def lftConflictHi : Nat := 0x60014
def lftShare (n : Nat) : Nat := 0x60020 + 0x4 * n
def grnStatus : Nat := 0x20000
def grnLocalLo : Nat := 0x20004
def grnLocalHi : Nat := 0x20008
def grnCapacity : Nat := 0x2000c
def grnRetire : Nat := 0x20010
def grnScrubCtrl : Nat := 0x20014
def grnRedirSel : Nat := 0x20018
def grnRedir : Nat := 0x2001c
def grnStkStatus : Nat := 0x10000
def grnStkCtrl : Nat := 0x10004
def grnStkMapused : Nat := 0x10008
def grnStallEvtLo (n : Nat) : Nat := 0x10100 + 0x10 * n
def grnStallEvtHi (n : Nat) : Nat := 0x10104 + 0x10 * n
def grnStallNsLo (n : Nat) : Nat := 0x10108 + 0x10 * n
def grnStallNsHi (n : Nat) : Nat := 0x1010c + 0x10 * n
def grnHrvBaseLo (n : Nat) : Nat := 0x11000 + 0x20 * n
def grnHrvBaseHi (n : Nat) : Nat := 0x11004 + 0x20 * n
def grnHrvCtrl (n : Nat) : Nat := 0x11008 + 0x20 * n
def grnHrvCmd (n : Nat) : Nat := 0x1100c + 0x20 * n
def grnHrvState (n : Nat) : Nat := 0x11010 + 0x20 * n
def grnHrvLateLo (j c : Nat) : Nat := 0x12000 + 0x40 * j + 0x8 * c
def grnHrvLateHi (j c : Nat) : Nat := 0x12004 + 0x40 * j + 0x8 * c
def grnChStatus : Nat := 0x10000
def grnChState : Nat := 0x10004
def grnChCorrLo : Nat := 0x10010
def grnChCorrHi : Nat := 0x10014
def grnChUncorrLo : Nat := 0x10018
def grnChUncorrHi : Nat := 0x1001c
def grnChNarrowLo : Nat := 0x10020
def grnChNarrowHi : Nat := 0x10024
def grnChAtomicLo : Nat := 0x10028
def grnChAtomicHi : Nat := 0x1002c
def grnChLastErr : Nat := 0x10030
def grnChSpare : Nat := 0x10040
def grnChRmapSel : Nat := 0x10044
def grnChRmap : Nat := 0x10048
def grnChFailSel : Nat := 0x1004c
def grnChFail : Nat := 0x10050
def grnChRepair : Nat := 0x10054
def glnStatus : Nat := 0x10000
def glnState : Nat := 0x10004
def glnFault : Nat := 0x10008
def glnSegsLo : Nat := 0x10010
def glnSegsHi : Nat := 0x10014
def glnForcedLo : Nat := 0x10018
def glnForcedHi : Nat := 0x1001c
def glnInbankLo : Nat := 0x10020
def glnInbankHi : Nat := 0x10024
def glnFarLo : Nat := 0x10028
def glnFarHi : Nat := 0x1002c
def glnGrantNsLo : Nat := 0x10030
def glnGrantNsHi : Nat := 0x10034
def glnConvNanLo : Nat := 0x10828
def glnConvNanHi : Nat := 0x1082c
def grnGrCtrl : Nat := 0x13000
def grnGrState : Nat := 0x13004
def grnGlRgn : Nat := 0x13008
def grnGlEntry : Nat := 0x13010
def grnGlIdent : Nat := 0x13014
def grnGlArgLo : Nat := 0x13018
def grnGlArgHi : Nat := 0x1301c
def grnGlDoneLo : Nat := 0x13020
def grnGlDoneHi : Nat := 0x13024
def grnGlStep : Nat := 0x13028
def grnGlSeed : Nat := 0x1302c
def grnGlMask (n : Nat) : Nat := 0x13030 + 0x4 * n
def grnGlCmd : Nat := 0x13040
def grnGlResult : Nat := 0x13044
def ctxStatus : Nat := 0x10000
def ctxCtrl : Nat := 0x10004
def ctxQtblLo : Nat := 0x10008
def ctxQtblHi : Nat := 0x1000c
def ctxFrameLo : Nat := 0x10010
def ctxFrameHi : Nat := 0x10014
def ctxSaveLo : Nat := 0x10018
def ctxSaveHi : Nat := 0x1001c
def ctxQcache : Nat := 0x10020
def ctxMissLo : Nat := 0x10030
def ctxMissHi : Nat := 0x10034
def ctxMissNsLo : Nat := 0x10038
def ctxMissNsHi : Nat := 0x1003c
def ctxEvictLo : Nat := 0x10040
def ctxEvictHi : Nat := 0x10044
def ctxPageinLo : Nat := 0x10048
def ctxPageinHi : Nat := 0x1004c
def ctxBorrowLo : Nat := 0x10050
def ctxBorrowHi : Nat := 0x10054
def ctxReclaimLateLo : Nat := 0x10058
def ctxReclaimLateHi : Nat := 0x1005c
def ctxJobCtrl (n : Nat) : Nat := 0x10100 + 0x20 * n
def ctxJobQuota (n : Nat) : Nat := 0x10104 + 0x20 * n
def ctxJobUsed (n : Nat) : Nat := 0x10108 + 0x20 * n
def ctxJobEvict (n : Nat) : Nat := 0x1010c + 0x20 * n
def ctxJobProgLo (n : Nat) : Nat := 0x10110 + 0x20 * n
def ctxJobProgHi (n : Nat) : Nat := 0x10114 + 0x20 * n
def ctxJobBatchLo (n : Nat) : Nat := 0x10118 + 0x20 * n
def ctxJobBatchHi (n : Nat) : Nat := 0x1011c + 0x20 * n
def ctxTileLend (n : Nat) : Nat := 0x10400 + 0x4 * n
def tilXltHitLo : Nat := 0x10040
def tilXltHitHi : Nat := 0x10044
def tilXltMissLo : Nat := 0x10048
def tilXltMissHi : Nat := 0x1004c
def trnStatus : Nat := 0x10000
def trnDivCtrl : Nat := 0x10004
def trnOffences : Nat := 0x10008
def trnJobScbLo (n : Nat) : Nat := 0x11000 + 0x40 * n
def trnJobScbHi (n : Nat) : Nat := 0x11004 + 0x40 * n
def trnJobState (n : Nat) : Nat := 0x11008 + 0x40 * n
def trnJobDone (n : Nat) : Nat := 0x1100c + 0x40 * n
def trnJobClosed (n : Nat) : Nat := 0x11010 + 0x40 * n
def trnSheafBytesLo (n : Nat) : Nat := 0x11018 + 0x40 * n
def trnSheafBytesHi (n : Nat) : Nat := 0x1101c + 0x40 * n
def trnStashOvfLo (n : Nat) : Nat := 0x11020 + 0x40 * n
def trnStashOvfHi (n : Nat) : Nat := 0x11024 + 0x40 * n
def trnDivergeLo (n : Nat) : Nat := 0x11028 + 0x40 * n
def trnDivergeHi (n : Nat) : Nat := 0x1102c + 0x40 * n
def jxlStatus : Nat := 0x10000
def jxlCtrl : Nat := 0x10004
def jxlState : Nat := 0x10008
def jxlLanemap : Nat := 0x1000c
def jxlPeerLo : Nat := 0x10010
def jxlPeerHi : Nat := 0x10014
def jxlFlitsTxLo : Nat := 0x10020
def jxlFlitsTxHi : Nat := 0x10024
def jxlFlitsRxLo : Nat := 0x10028
def jxlFlitsRxHi : Nat := 0x1002c
def jxlCrcErrLo : Nat := 0x10030
def jxlCrcErrHi : Nat := 0x10034
def jxlReplayLo : Nat := 0x10038
def jxlReplayHi : Nat := 0x1003c
def jxlFecCorrLo : Nat := 0x10040
def jxlFecCorrHi : Nat := 0x10044
def jxlFecUncorrLo : Nat := 0x10048
def jxlFecUncorrHi : Nat := 0x1004c
def jxlFwdLo : Nat := 0x10050
def jxlFwdHi : Nat := 0x10054
def jxlFabStatus : Nat := 0x30000
def jxlNeg : Nat := 0x30004
def jxlHbCtrl : Nat := 0x30008
def jxlE2e : Nat := 0x3000c
def jxlEthertype : Nat := 0x30010
def jxlAuthFailLo : Nat := 0x30020
def jxlAuthFailHi : Nat := 0x30024
def jxlResendLo : Nat := 0x30028
def jxlResendHi : Nat := 0x3002c
def jxlDupLo : Nat := 0x30030
def jxlDupHi : Nat := 0x30034
def jxlLevelDropLo : Nat := 0x30038
def jxlLevelDropHi : Nat := 0x3003c
def jxlFwdDropLo : Nat := 0x30040
def jxlFwdDropHi : Nat := 0x30044
def jxlJobCtrl (n : Nat) : Nat := 0x30100 + 0x20 * n
def jxlJobId (n : Nat) : Nat := 0x30104 + 0x20 * n
def jxlJobRtLo (n : Nat) : Nat := 0x30108 + 0x20 * n
def jxlJobRtHi (n : Nat) : Nat := 0x3010c + 0x20 * n
def jxlJobMac (n : Nat) : Nat := 0x30110 + 0x20 * n
def colStatus : Nat := 0x10000
def colState : Nat := 0x10004
def colCmd : Nat := 0x10008
def colOpsLo : Nat := 0x10010
def colOpsHi : Nat := 0x10014
def colBytesLo : Nat := 0x10018
def colBytesHi : Nat := 0x1001c
def colRetryLo : Nat := 0x10020
def colRetryHi : Nat := 0x10024
def colJobGrpLo (n : Nat) : Nat := 0x10100 + 0x20 * n
def colJobGrpHi (n : Nat) : Nat := 0x10104 + 0x20 * n
def colJobStageLo (n : Nat) : Nat := 0x10108 + 0x20 * n
def colJobStageHi (n : Nat) : Nat := 0x1010c + 0x20 * n
def colJobStageLen (n : Nat) : Nat := 0x10110 + 0x20 * n
def macStatus : Nat := 0x20000
def macState : Nat := 0x20004
def macCtrl : Nat := 0x20008
def macAddrLo : Nat := 0x2000c
def macAddrHi : Nat := 0x20010
def macMaxlen : Nat := 0x20014
def macPauseCtrl : Nat := 0x20018
def macPauseWd : Nat := 0x2001c
def macEeeCtrl : Nat := 0x20020
def macEeeTw : Nat := 0x20024
def macPfcTh (n : Nat) : Nat := 0x20040 + 0x4 * n
def macCntLo (n : Nat) : Nat := 0x20100 + 0x8 * n
def macCntHi (n : Nat) : Nat := 0x20104 + 0x8 * n
def macPfcRxLo (n : Nat) : Nat := 0x20200 + 0x10 * n
def macPfcRxHi (n : Nat) : Nat := 0x20204 + 0x10 * n
def macPfcTxLo (n : Nat) : Nat := 0x20208 + 0x10 * n
def macPfcTxHi (n : Nat) : Nat := 0x2020c + 0x10 * n
def macFiltKey (n : Nat) : Nat := 0x21000 + 0x8 * n
def macFiltAct (n : Nat) : Nat := 0x21004 + 0x8 * n
def macRxqCfg (n : Nat) : Nat := 0x22000 + 0x8 * n
def macRxqState (n : Nat) : Nat := 0x22004 + 0x8 * n
def qcpStatus : Nat := 0x10000
def qcpCtrl : Nat := 0x10004
def qcpEtype : Nat := 0x10008
def qcpUdp : Nat := 0x1000c
def qcpIpv4 : Nat := 0x10010
def qcpIpv6 (n : Nat) : Nat := 0x10020 + 0x4 * n
def qcpDevstate : Nat := 0x10030
def qcpRxBadLo : Nat := 0x10040
def qcpRxBadHi : Nat := 0x10044
def qcpAuthFailLo : Nat := 0x10048
def qcpAuthFailHi : Nat := 0x1004c
def qcpReplayDropLo : Nat := 0x10050
def qcpReplayDropHi : Nat := 0x10054
def qcpNosessDropLo : Nat := 0x10058
def qcpNosessDropHi : Nat := 0x1005c
def qcpCmdLateLo : Nat := 0x10060
def qcpCmdLateHi : Nat := 0x10064
def qcpDbHeldLo : Nat := 0x10068
def qcpDbHeldHi : Nat := 0x1006c
def qcpDbAheadLo : Nat := 0x10070
def qcpDbAheadHi : Nat := 0x10074
def qcpTxFramesLo : Nat := 0x10078
def qcpTxFramesHi : Nat := 0x1007c
def sysRecStatus (n : Nat) : Nat := 0x40000 + 0x40 * n
def sysRecCtrl (n : Nat) : Nat := 0x40004 + 0x40 * n
def sysRecState (n : Nat) : Nat := 0x40008 + 0x40 * n
def sysRecStep (n : Nat) : Nat := 0x4000c + 0x40 * n
def sysRecLast (n : Nat) : Nat := 0x40010 + 0x40 * n
def sysRecAreaLo (n : Nat) : Nat := 0x40014 + 0x40 * n
def sysRecAreaHi (n : Nat) : Nat := 0x40018 + 0x40 * n
def sysRecRecoveriesLo (n : Nat) : Nat := 0x40020 + 0x40 * n
def sysRecRecoveriesHi (n : Nat) : Nat := 0x40024 + 0x40 * n
def sysRecRepeatsLo (n : Nat) : Nat := 0x40028 + 0x40 * n
def sysRecRepeatsHi (n : Nat) : Nat := 0x4002c + 0x40 * n
def sysBootStatus : Nat := 0x50000
def sysBootStage : Nat := 0x50004
def sysBootCmd : Nat := 0x50008
def sysBootResult : Nat := 0x5000c
def sysBootHeld : Nat := 0x50010
def sysBootMissing : Nat := 0x50014
def sysRstAbsorbedLo : Nat := 0x50040
def sysRstAbsorbedHi : Nat := 0x50044
def sysRstAbandonedLo : Nat := 0x50048
def sysRstAbandonedHi : Nat := 0x5004c
def secStatus : Nat := 0x10000
def secState : Nat := 0x10004
def secFloor : Nat := 0x10008
def secFloorRaise : Nat := 0x1000c
def secLimits : Nat := 0x10010
def secIdkey (n : Nat) : Nat := 0x10020 + 0x4 * n
def secKeyxRejectLo : Nat := 0x10040
def secKeyxRejectHi : Nat := 0x10044
def secScrubBytesLo : Nat := 0x10048
def secScrubBytesHi : Nat := 0x1004c
def pwrStatus : Nat := 0x10000
def pwrCap : Nat := 0x10004
def pwrState : Nat := 0x10008
def pwrTherm : Nat := 0x1000c
def pwrTemp : Nat := 0x10010
def pwrPin : Nat := 0x10014
def pwrVcore : Nat := 0x10018
def pwrLimitedNsLo : Nat := 0x10020
def pwrLimitedNsHi : Nat := 0x10024
def pwrThrottleNsLo : Nat := 0x10028
def pwrThrottleNsHi : Nat := 0x1002c
def tlyStatus : Nat := 0x10000
def tlyPower : Nat := 0x10004
def tlyPowerCmd : Nat := 0x10008
def tlyFeed : Nat := 0x1000c
def tlyRing : Nat := 0x10010
def tlyTimeLo : Nat := 0x10018
def tlyTimeHi : Nat := 0x1001c
def tlyBbHead : Nat := 0x10020
def tlyBbSel : Nat := 0x10024
def tlyBbInfo : Nat := 0x10028
def tlyBbDropLo : Nat := 0x10030
def tlyBbDropHi : Nat := 0x10034
def tlySwitchLo : Nat := 0x10038
def tlySwitchHi : Nat := 0x1003c
def tlyBbData (n : Nat) : Nat := 0x10040 + 0x4 * n
def tilLoadState : Nat := 0x10200
def tilLoadMiss (n : Nat) : Nat := 0x10204 + 0x4 * n
def glnLoadState : Nat := 0x10200
def glnLoadMiss (n : Nat) : Nat := 0x10204 + 0x4 * n
def glnChaffSatLo : Nat := 0x10800
def glnChaffSatHi : Nat := 0x10804
def glnChaffUndLo : Nat := 0x10808
def glnChaffUndHi : Nat := 0x1080c
def glnChaffConvLo : Nat := 0x10810
def glnChaffConvHi : Nat := 0x10814
def glnChaffWsatLo : Nat := 0x10818
def glnChaffWsatHi : Nat := 0x1081c
def glnChaffWundLo : Nat := 0x10820
def glnChaffWundHi : Nat := 0x10824

end Off

namespace Fld

def unitIdBlock : Field := ⟨0x0, 0x0, 31, 24⟩
def unitIdStook : Field := ⟨0x0, 0x0, 23, 23⟩
def unitIdMembers : Field := ⟨0x0, 0x0, 22, 16⟩
def unitIdIndex : Field := ⟨0x0, 0x0, 12, 0⟩
def unitSummaryOwn : Field := ⟨0x4, 0x0, 31, 28⟩
def unitSummaryWorst : Field := ⟨0x4, 0x0, 27, 24⟩
def unitSummaryFailed : Field := ⟨0x4, 0x0, 23, 16⟩
def unitSummaryDegraded : Field := ⟨0x4, 0x0, 15, 8⟩
def unitStatusMbxReject : Field := ⟨0x8, 0x0, 6, 6⟩
def unitStatusMbxReply : Field := ⟨0x8, 0x0, 5, 5⟩
def unitStatusEvtLost : Field := ⟨0x8, 0x0, 4, 4⟩
def unitStatusResetDone : Field := ⟨0x8, 0x0, 3, 3⟩
def unitStatusHsStall : Field := ⟨0x8, 0x0, 2, 2⟩
def unitStatusMemberHealth : Field := ⟨0x8, 0x0, 1, 1⟩
def unitStatusFault : Field := ⟨0x8, 0x0, 0, 0⟩
def unitResetAbsorbing : Field := ⟨0xc, 0x0, 9, 9⟩
def unitResetInReset : Field := ⟨0xc, 0x0, 8, 8⟩
def unitResetPulse : Field := ⟨0xc, 0x0, 1, 1⟩
def unitResetHold : Field := ⟨0xc, 0x0, 0, 0⟩
def evtHeadRseq : Field := ⟨0x10, 0x0, 31, 16⟩
def evtHeadHead : Field := ⟨0x10, 0x0, 5, 0⟩
def evtTailTail : Field := ⟨0x14, 0x0, 5, 0⟩
def evtDropCount : Field := ⟨0x18, 0x0, 31, 0⟩
def mbxCtrlPostSeq : Field := ⟨0x20, 0x0, 31, 16⟩
def mbxCtrlReplySeq : Field := ⟨0x20, 0x0, 15, 0⟩
def sysArithRevRev : Field := ⟨0x10000, 0x0, 23, 16⟩
def sysArithRevFmt : Field := ⟨0x10000, 0x0, 11, 0⟩
def thrCapsSlots : Field := ⟨0x20000, 0x0, 23, 16⟩
def thrCapsAcctiles : Field := ⟨0x20000, 0x0, 15, 8⟩
def thrCapsShapes : Field := ⟨0x20000, 0x0, 3, 0⟩
def thrStatusParity : Field := ⟨0x20004, 0x0, 6, 6⟩
def thrStatusResLimit : Field := ⟨0x20004, 0x0, 5, 5⟩
def thrStatusOperand : Field := ⟨0x20004, 0x0, 4, 4⟩
def thrStatusOverflow : Field := ⟨0x20004, 0x0, 3, 3⟩
def thrStatusInvalid : Field := ⟨0x20004, 0x0, 2, 2⟩
def thrStatusResFatal : Field := ⟨0x20004, 0x0, 1, 1⟩
def thrStatusResidue : Field := ⟨0x20004, 0x0, 0, 0⟩
def thrCtrlResLimit : Field := ⟨0x20008, 0x0, 15, 8⟩
def thrCtrlEvtOvf : Field := ⟨0x20008, 0x0, 1, 1⟩
def thrCtrlEvtInv : Field := ⟨0x20008, 0x0, 0, 0⟩
def thrSlotS1Loaded : Field := ⟨0x2000c, 0x0, 15, 15⟩
def thrSlotS1Axis : Field := ⟨0x2000c, 0x0, 14, 14⟩
def thrSlotS1Shape : Field := ⟨0x2000c, 0x0, 13, 12⟩
def thrSlotS1Fmt : Field := ⟨0x2000c, 0x0, 11, 8⟩
def thrSlotS0Loaded : Field := ⟨0x2000c, 0x0, 7, 7⟩
def thrSlotS0Axis : Field := ⟨0x2000c, 0x0, 6, 6⟩
def thrSlotS0Shape : Field := ⟨0x2000c, 0x0, 5, 4⟩
def thrSlotS0Fmt : Field := ⟨0x2000c, 0x0, 3, 0⟩
def thrResLastWslot : Field := ⟨0x20010, 0x0, 25, 16⟩
def thrResLastParity : Field := ⟨0x20010, 0x0, 15, 15⟩
def thrResLastRepeat : Field := ⟨0x20010, 0x0, 14, 14⟩
def thrResLastMblock : Field := ⟨0x20010, 0x0, 13, 10⟩
def thrResLastUnit : Field := ⟨0x20010, 0x0, 9, 0⟩
def thrResTotalCount : Field := ⟨0x20014, 0x0, 31, 0⟩
def trnSclBaseLoAddrLo : Field := ⟨0x10800, 0x20, 31, 6⟩
def trnSclBaseHiAddrHi : Field := ⟨0x10804, 0x20, 9, 0⟩
def trnSclCtrlEpoch : Field := ⟨0x10808, 0x20, 31, 24⟩
def trnSclCtrlEnable : Field := ⟨0x10808, 0x20, 16, 16⟩
def trnSclCtrlSize : Field := ⟨0x10808, 0x20, 15, 0⟩
def trnSclStatusClamped : Field := ⟨0x1080c, 0x20, 4, 4⟩
def trnSclStatusAdapted : Field := ⟨0x1080c, 0x20, 3, 3⟩
def trnSclStatusMisfit : Field := ⟨0x1080c, 0x20, 2, 2⟩
def trnSclStatusUndOver : Field := ⟨0x1080c, 0x20, 1, 1⟩
def trnSclStatusSatOver : Field := ⟨0x1080c, 0x20, 0, 0⟩
def trnSclStepStep : Field := ⟨0x10810, 0x20, 31, 0⟩
def trnSclFlaggedCount : Field := ⟨0x10814, 0x20, 15, 0⟩
def tilCapsTokens : Field := ⟨0x10000, 0x0, 31, 20⟩
def tilCapsWindow : Field := ⟨0x10000, 0x0, 10, 0⟩
def tilStatusSigReject : Field := ⟨0x10004, 0x0, 5, 5⟩
def tilStatusCtrlReject : Field := ⟨0x10004, 0x0, 4, 4⟩
def tilStatusLockstep : Field := ⟨0x10004, 0x0, 3, 3⟩
def tilStatusTokenOvf : Field := ⟨0x10004, 0x0, 2, 2⟩
def tilStatusFaulted : Field := ⟨0x10004, 0x0, 1, 1⟩
def tilStatusEnded : Field := ⟨0x10004, 0x0, 0, 0⟩
def tilCtrlTclear : Field := ⟨0x10008, 0x0, 3, 3⟩
def tilCtrlClear : Field := ⟨0x10008, 0x0, 2, 2⟩
def tilCtrlStop : Field := ⟨0x10008, 0x0, 1, 1⟩
def tilCtrlStart : Field := ⟨0x10008, 0x0, 0, 0⟩
def tilStreamState : Field := ⟨0x1000c, 0x0, 31, 29⟩
def tilStreamNextSlot : Field := ⟨0x1000c, 0x0, 25, 16⟩
def tilStreamInflight : Field := ⟨0x1000c, 0x0, 10, 0⟩
def tilProgLoAddrLo : Field := ⟨0x10010, 0x0, 31, 6⟩
def tilProgHiAddrHi : Field := ⟨0x10014, 0x0, 9, 0⟩
def tilProgLenLen : Field := ⟨0x10018, 0x0, 23, 0⟩
def tilStepValue : Field := ⟨0x1001c, 0x0, 31, 0⟩
def tilSeedValue : Field := ⟨0x10020, 0x0, 31, 0⟩
def tilIdentRank : Field := ⟨0x10024, 0x0, 31, 22⟩
def tilIdentLtile : Field := ⟨0x10024, 0x0, 21, 16⟩
def tilIdentBound : Field := ⟨0x10024, 0x0, 8, 8⟩
def tilIdentJob : Field := ⟨0x10024, 0x0, 2, 0⟩
def tilFaultStatus : Field := ⟨0x10028, 0x0, 31, 29⟩
def tilFaultClass : Field := ⟨0x10028, 0x0, 28, 26⟩
def tilFaultWslot : Field := ⟨0x10028, 0x0, 25, 16⟩
def tilFaultTag : Field := ⟨0x10028, 0x0, 15, 0⟩
def tilTokenCount : Field := ⟨0x1002c, 0x0, 31, 16⟩
def tilTokenIndex : Field := ⟨0x1002c, 0x0, 7, 0⟩
def tilLmapValid3 : Field := ⟨0x10100, 0x4, 31, 31⟩
def tilLmapTile3 : Field := ⟨0x10100, 0x4, 29, 24⟩
def tilLmapValid2 : Field := ⟨0x10100, 0x4, 23, 23⟩
def tilLmapTile2 : Field := ⟨0x10100, 0x4, 21, 16⟩
def tilLmapValid1 : Field := ⟨0x10100, 0x4, 15, 15⟩
def tilLmapTile1 : Field := ⟨0x10100, 0x4, 13, 8⟩
def tilLmapValid0 : Field := ⟨0x10100, 0x4, 7, 7⟩
def tilLmapTile0 : Field := ⟨0x10100, 0x4, 5, 0⟩
def vecStatusResidue : Field := ⟨0x30000, 0x0, 0, 0⟩
def vecResLastWslot : Field := ⟨0x30004, 0x0, 25, 16⟩
def vecResLastLane : Field := ⟨0x30004, 0x0, 8, 0⟩
def vecWinnowAmax : Field := ⟨0x30010, 0x4, 31, 0⟩
def dmaStatusVersion : Field := ⟨0x40000, 0x10000, 2, 2⟩
def dmaStatusRead : Field := ⟨0x40000, 0x10000, 1, 1⟩
def dmaStatusAddr : Field := ⟨0x40000, 0x10000, 0, 0⟩
def lftStatusShareReject : Field := ⟨0x60000, 0x0, 2, 2⟩
def lftStatusUncorr : Field := ⟨0x60000, 0x0, 1, 1⟩
def lftStatusCorr : Field := ⟨0x60000, 0x0, 0, 0⟩
def lftUncorrLastGranule : Field := ⟨0x60004, 0x0, 24, 5⟩
def lftShareValid : Field := ⟨0x60020, 0x4, 31, 31⟩
def lftShareKind : Field := ⟨0x60020, 0x4, 30, 30⟩
def lftShareSize : Field := ⟨0x60020, 0x4, 15, 8⟩
def lftShareBase : Field := ⟨0x60020, 0x4, 6, 0⟩
def grnStatusChRetired : Field := ⟨0x20000, 0x0, 2, 2⟩
def grnStatusPageRetired : Field := ⟨0x20000, 0x0, 1, 1⟩
def grnStatusLocalReject : Field := ⟨0x20000, 0x0, 0, 0⟩
def grnLocalLoLocal : Field := ⟨0x20004, 0x0, 31, 0⟩
def grnLocalHiLocal : Field := ⟨0x20008, 0x0, 31, 0⟩
def grnCapacityPages : Field := ⟨0x2000c, 0x0, 26, 0⟩
def grnRetireG63Out : Field := ⟨0x20010, 0x0, 31, 31⟩
def grnRetirePending : Field := ⟨0x20010, 0x0, 30, 30⟩
def grnRetireChannels : Field := ⟨0x20010, 0x0, 27, 24⟩
def grnRetirePages : Field := ⟨0x20010, 0x0, 19, 0⟩
def grnScrubCtrlHours : Field := ⟨0x20014, 0x0, 4, 0⟩
def grnRedirSelSlot : Field := ⟨0x20018, 0x0, 8, 6⟩
def grnRedirSelGroup : Field := ⟨0x20018, 0x0, 5, 0⟩
def grnRedirValid : Field := ⟨0x2001c, 0x0, 31, 31⟩
def grnRedirFailed : Field := ⟨0x2001c, 0x0, 24, 16⟩
def grnRedirTarget : Field := ⟨0x2001c, 0x0, 8, 0⟩
def grnStkStatusHrvFault : Field := ⟨0x10000, 0x0, 3, 3⟩
def grnStkStatusHrvDone : Field := ⟨0x10000, 0x0, 2, 2⟩
def grnStkStatusRefused : Field := ⟨0x10000, 0x0, 1, 1⟩
def grnStkStatusRepaired : Field := ⟨0x10000, 0x0, 0, 0⟩
def grnStkCtrlAuto : Field := ⟨0x10004, 0x0, 8, 8⟩
def grnStkCtrlRepairTh : Field := ⟨0x10004, 0x0, 3, 0⟩
def grnStkMapusedUsed : Field := ⟨0x10008, 0x0, 10, 0⟩
def grnHrvBaseLoAddrLo : Field := ⟨0x11000, 0x20, 31, 6⟩
def grnHrvBaseHiAddrHi : Field := ⟨0x11004, 0x20, 9, 0⟩
def grnHrvCtrlDepth : Field := ⟨0x11008, 0x20, 4, 0⟩
def grnHrvCmdStop : Field := ⟨0x1100c, 0x20, 1, 1⟩
def grnHrvCmdRun : Field := ⟨0x1100c, 0x20, 0, 0⟩
def grnHrvStateState : Field := ⟨0x11010, 0x20, 31, 30⟩
def grnHrvStateNext : Field := ⟨0x11010, 0x20, 20, 0⟩
def grnChStatusAtomicReject : Field := ⟨0x10000, 0x0, 4, 4⟩
def grnChStatusCalFail : Field := ⟨0x10000, 0x0, 3, 3⟩
def grnChStatusPoison : Field := ⟨0x10000, 0x0, 2, 2⟩
def grnChStatusUncorr : Field := ⟨0x10000, 0x0, 1, 1⟩
def grnChStatusCorr : Field := ⟨0x10000, 0x0, 0, 0⟩
def grnChStateTemp : Field := ⟨0x10004, 0x0, 31, 24⟩
def grnChStateRint : Field := ⟨0x10004, 0x0, 17, 16⟩
def grnChStateRetired : Field := ⟨0x10004, 0x0, 3, 3⟩
def grnChStateRepairing : Field := ⟨0x10004, 0x0, 2, 2⟩
def grnChStateCal : Field := ⟨0x10004, 0x0, 1, 1⟩
def grnChStateSelfref : Field := ⟨0x10004, 0x0, 0, 0⟩
def grnChLastErrPoison : Field := ⟨0x10030, 0x0, 31, 31⟩
def grnChLastErrBank : Field := ⟨0x10030, 0x0, 30, 27⟩
def grnChLastErrRow : Field := ⟨0x10030, 0x0, 23, 6⟩
def grnChLastErrCol : Field := ⟨0x10030, 0x0, 5, 4⟩
def grnChLastErrLine : Field := ⟨0x10030, 0x0, 2, 0⟩
def grnChSpareUsed : Field := ⟨0x10040, 0x0, 31, 0⟩
def grnChRmapSelBank : Field := ⟨0x10044, 0x0, 4, 1⟩
def grnChRmapSelSpare : Field := ⟨0x10044, 0x0, 0, 0⟩
def grnChRmapUsed : Field := ⟨0x10048, 0x0, 31, 31⟩
def grnChRmapRow : Field := ⟨0x10048, 0x0, 17, 0⟩
def grnChFailSelBank : Field := ⟨0x1004c, 0x0, 7, 4⟩
def grnChFailSelEntry : Field := ⟨0x1004c, 0x0, 3, 0⟩
def grnChFailValid : Field := ⟨0x10050, 0x0, 31, 31⟩
def grnChFailUncorr : Field := ⟨0x10050, 0x0, 30, 30⟩
def grnChFailCorr : Field := ⟨0x10050, 0x0, 29, 26⟩
def grnChFailRow : Field := ⟨0x10050, 0x0, 17, 0⟩
def grnChRepairGo : Field := ⟨0x10054, 0x0, 31, 31⟩
def grnChRepairBank : Field := ⟨0x10054, 0x0, 21, 18⟩
def grnChRepairRow : Field := ⟨0x10054, 0x0, 17, 0⟩
def glnStatusRunFault : Field := ⟨0x10000, 0x0, 1, 1⟩
def glnStatusLockstep : Field := ⟨0x10000, 0x0, 0, 0⟩
def glnStateState : Field := ⟨0x10004, 0x0, 31, 29⟩
def glnStateGrant : Field := ⟨0x10004, 0x0, 28, 28⟩
def glnStateSegment : Field := ⟨0x10004, 0x0, 27, 27⟩
def glnStateJob : Field := ⟨0x10004, 0x0, 26, 24⟩
def glnStatePc : Field := ⟨0x10004, 0x0, 15, 0⟩
def glnFaultStatus : Field := ⟨0x10008, 0x0, 31, 29⟩
def glnFaultPc : Field := ⟨0x10008, 0x0, 14, 0⟩
def grnGrCtrlQuantum : Field := ⟨0x13000, 0x0, 23, 16⟩
def grnGrCtrlCap : Field := ⟨0x13000, 0x0, 5, 0⟩
def grnGrStateWaiting : Field := ⟨0x13004, 0x0, 31, 24⟩
def grnGrStateTlycap : Field := ⟨0x13004, 0x0, 13, 8⟩
def grnGrStateActive : Field := ⟨0x13004, 0x0, 5, 0⟩
def grnGlRgnV3 : Field := ⟨0x13008, 0x0, 11, 11⟩
def grnGlRgnOwn3 : Field := ⟨0x13008, 0x0, 10, 8⟩
def grnGlRgnV2 : Field := ⟨0x13008, 0x0, 7, 7⟩
def grnGlRgnOwn2 : Field := ⟨0x13008, 0x0, 6, 4⟩
def grnGlRgnV1 : Field := ⟨0x13008, 0x0, 3, 3⟩
def grnGlRgnOwn1 : Field := ⟨0x13008, 0x0, 2, 0⟩
def grnGlEntryOffset : Field := ⟨0x13010, 0x0, 14, 1⟩
def grnGlIdentRank : Field := ⟨0x13014, 0x0, 31, 22⟩
def grnGlIdentJob : Field := ⟨0x13014, 0x0, 10, 8⟩
def grnGlIdentTrain : Field := ⟨0x13014, 0x0, 0, 0⟩
def grnGlArgLoAddrLo : Field := ⟨0x13018, 0x0, 31, 3⟩
def grnGlArgHiAddrHi : Field := ⟨0x1301c, 0x0, 9, 0⟩
def grnGlDoneLoAddrLo : Field := ⟨0x13020, 0x0, 31, 3⟩
def grnGlDoneHiAddrHi : Field := ⟨0x13024, 0x0, 9, 0⟩
def grnGlStepValue : Field := ⟨0x13028, 0x0, 31, 0⟩
def grnGlSeedValue : Field := ⟨0x1302c, 0x0, 31, 0⟩
def grnGlMaskValue : Field := ⟨0x13030, 0x4, 31, 0⟩
def grnGlCmdAbort : Field := ⟨0x13040, 0x0, 1, 1⟩
def grnGlCmdLaunch : Field := ⟨0x13040, 0x0, 0, 0⟩
def grnGlResultReject : Field := ⟨0x13044, 0x0, 31, 31⟩
def grnGlResultReason : Field := ⟨0x13044, 0x0, 30, 28⟩
def grnGlResultLaunched : Field := ⟨0x13044, 0x0, 7, 0⟩
def ctxStatusQueueFault : Field := ⟨0x10000, 0x0, 5, 5⟩
def ctxStatusReclaimLate : Field := ⟨0x10000, 0x0, 4, 4⟩
def ctxStatusPageinReq : Field := ⟨0x10000, 0x0, 3, 3⟩
def ctxStatusEvictLow : Field := ⟨0x10000, 0x0, 2, 2⟩
def ctxStatusPageLost : Field := ⟨0x10000, 0x0, 1, 1⟩
def ctxStatusAllocFail : Field := ⟨0x10000, 0x0, 0, 0⟩
def ctxCtrlHostTmo : Field := ⟨0x10004, 0x0, 31, 24⟩
def ctxCtrlAllocWait : Field := ⟨0x10004, 0x0, 7, 0⟩
def ctxQtblLoAddrLo : Field := ⟨0x10008, 0x0, 31, 6⟩
def ctxQtblHiAddrHi : Field := ⟨0x1000c, 0x0, 9, 0⟩
def ctxFrameLoAddrLo : Field := ⟨0x10010, 0x0, 31, 6⟩
def ctxFrameHiAddrHi : Field := ⟨0x10014, 0x0, 9, 0⟩
def ctxSaveLoAddrLo : Field := ⟨0x10018, 0x0, 31, 6⟩
def ctxSaveHiAddrHi : Field := ⟨0x1001c, 0x0, 9, 0⟩
def ctxQcacheCount : Field := ⟨0x10020, 0x0, 12, 0⟩
def ctxJobCtrlValid : Field := ⟨0x10100, 0x20, 31, 31⟩
def ctxJobCtrlTrain : Field := ⟨0x10100, 0x20, 30, 30⟩
def ctxJobCtrlLend : Field := ⟨0x10100, 0x20, 29, 29⟩
def ctxJobCtrlBorrow : Field := ⟨0x10100, 0x20, 28, 28⟩
def ctxJobCtrlBatchMax : Field := ⟨0x10100, 0x20, 21, 16⟩
def ctxJobCtrlGroup : Field := ⟨0x10100, 0x20, 14, 8⟩
def ctxJobQuotaPages : Field := ⟨0x10104, 0x20, 26, 0⟩
def ctxJobUsedPages : Field := ⟨0x10108, 0x20, 26, 0⟩
def ctxJobEvictExport : Field := ⟨0x1010c, 0x20, 31, 31⟩
def ctxJobEvictRank : Field := ⟨0x1010c, 0x20, 25, 16⟩
def ctxJobEvictLowater : Field := ⟨0x1010c, 0x20, 15, 0⟩
def ctxJobProgLoAddrLo : Field := ⟨0x10110, 0x20, 31, 6⟩
def ctxJobProgHiAddrHi : Field := ⟨0x10114, 0x20, 9, 0⟩
def ctxJobBatchLoAddrLo : Field := ⟨0x10118, 0x20, 31, 6⟩
def ctxJobBatchHiAddrHi : Field := ⟨0x1011c, 0x20, 9, 0⟩
def ctxTileLendState : Field := ⟨0x10400, 0x4, 31, 29⟩
def ctxTileLendTjob : Field := ⟨0x10400, 0x4, 26, 24⟩
def ctxTileLendSjob : Field := ⟨0x10400, 0x4, 22, 20⟩
def ctxTileLendLends : Field := ⟨0x10400, 0x4, 15, 0⟩
def trnStatusSweepUndone : Field := ⟨0x10000, 0x0, 10, 10⟩
def trnStatusReplayMismatch : Field := ⟨0x10000, 0x0, 9, 9⟩
def trnStatusMirrorBad : Field := ⟨0x10000, 0x0, 8, 8⟩
def trnStatusVersion : Field := ⟨0x10000, 0x0, 7, 7⟩
def trnStatusGradMode : Field := ⟨0x10000, 0x0, 6, 6⟩
def trnStatusStashFail : Field := ⟨0x10000, 0x0, 5, 5⟩
def trnStatusStashOvf : Field := ⟨0x10000, 0x0, 4, 4⟩
def trnStatusOffender : Field := ⟨0x10000, 0x0, 3, 3⟩
def trnStatusRepaired : Field := ⟨0x10000, 0x0, 2, 2⟩
def trnStatusDiverge : Field := ⟨0x10000, 0x0, 1, 1⟩
def trnStatusStepDone : Field := ⟨0x10000, 0x0, 0, 0⟩
def trnDivCtrlWindow : Field := ⟨0x10004, 0x0, 31, 8⟩
def trnDivCtrlLimit : Field := ⟨0x10004, 0x0, 7, 0⟩
def trnOffencesCount : Field := ⟨0x10008, 0x0, 7, 0⟩
def trnJobScbLoAddrLo : Field := ⟨0x11000, 0x40, 31, 6⟩
def trnJobScbHiAddrHi : Field := ⟨0x11004, 0x40, 9, 0⟩
def trnJobStatePhase : Field := ⟨0x11008, 0x40, 31, 28⟩
def trnJobStateGrad8 : Field := ⟨0x11008, 0x40, 27, 27⟩
def trnJobStateMirror : Field := ⟨0x11008, 0x40, 26, 25⟩
def trnJobStateRollback : Field := ⟨0x11008, 0x40, 24, 24⟩
def trnJobStateStashpol : Field := ⟨0x11008, 0x40, 23, 22⟩
def trnJobStateSplit : Field := ⟨0x11008, 0x40, 12, 0⟩
def trnJobDoneStep : Field := ⟨0x1100c, 0x40, 31, 0⟩
def trnJobClosedStep : Field := ⟨0x11010, 0x40, 31, 0⟩
def jxlStatusRemapRefused : Field := ⟨0x10000, 0x0, 4, 4⟩
def jxlStatusNegFail : Field := ⟨0x10000, 0x0, 3, 3⟩
def jxlStatusFailed : Field := ⟨0x10000, 0x0, 2, 2⟩
def jxlStatusRetrain : Field := ⟨0x10000, 0x0, 1, 1⟩
def jxlStatusUp : Field := ⟨0x10000, 0x0, 0, 0⟩
def jxlCtrlMode : Field := ⟨0x10004, 0x0, 1, 0⟩
def jxlStateState : Field := ⟨0x10008, 0x0, 31, 29⟩
def jxlStateTxw : Field := ⟨0x10008, 0x0, 28, 25⟩
def jxlStateRxw : Field := ⟨0x10008, 0x0, 24, 21⟩
def jxlStateLevel : Field := ⟨0x10008, 0x0, 15, 8⟩
def jxlStatePeerlink : Field := ⟨0x10008, 0x0, 4, 0⟩
def jxlLanemapCommit : Field := ⟨0x1000c, 0x0, 31, 31⟩
def jxlLanemapUsed : Field := ⟨0x1000c, 0x0, 27, 24⟩
def jxlLanemapRxex : Field := ⟨0x1000c, 0x0, 15, 8⟩
def jxlLanemapTxex : Field := ⟨0x1000c, 0x0, 7, 0⟩
def jxlPeerLoId : Field := ⟨0x10010, 0x0, 31, 0⟩
def jxlPeerHiId : Field := ⟨0x10014, 0x0, 31, 0⟩
def jxlFabStatusE2eFail : Field := ⟨0x30000, 0x0, 4, 4⟩
def jxlFabStatusAuthFail : Field := ⟨0x30000, 0x0, 3, 3⟩
def jxlFabStatusPeerSilent : Field := ⟨0x30000, 0x0, 2, 2⟩
def jxlFabStatusLevelDrop : Field := ⟨0x30000, 0x0, 1, 1⟩
def jxlFabStatusFwdDrop : Field := ⟨0x30000, 0x0, 0, 0⟩
def jxlNegLmax : Field := ⟨0x30004, 0x0, 31, 24⟩
def jxlNegLmin : Field := ⟨0x30004, 0x0, 23, 16⟩
def jxlNegAbi : Field := ⟨0x30004, 0x0, 15, 0⟩
def jxlHbCtrlMiss : Field := ⟨0x30008, 0x0, 15, 8⟩
def jxlHbCtrlInterval : Field := ⟨0x30008, 0x0, 7, 0⟩
def jxlE2eRtoEth : Field := ⟨0x3000c, 0x0, 31, 16⟩
def jxlE2eRtoNat : Field := ⟨0x3000c, 0x0, 15, 0⟩
def jxlEthertypeType : Field := ⟨0x30010, 0x0, 15, 0⟩
def jxlJobCtrlValid : Field := ⟨0x30100, 0x20, 31, 31⟩
def jxlJobCtrlSwitched : Field := ⟨0x30100, 0x20, 30, 30⟩
def jxlJobCtrlFlush : Field := ⟨0x30100, 0x20, 29, 29⟩
def jxlJobCtrlRank : Field := ⟨0x30100, 0x20, 9, 0⟩
def jxlJobIdJobid : Field := ⟨0x30104, 0x20, 31, 0⟩
def jxlJobRtLoAddrLo : Field := ⟨0x30108, 0x20, 31, 6⟩
def jxlJobRtHiAddrHi : Field := ⟨0x3010c, 0x20, 9, 0⟩
def jxlJobMacPrefix : Field := ⟨0x30110, 0x20, 23, 0⟩
def colStatusAborted : Field := ⟨0x10000, 0x0, 2, 2⟩
def colStatusBad : Field := ⟨0x10000, 0x0, 1, 1⟩
def colStatusFailed : Field := ⟨0x10000, 0x0, 0, 0⟩
def colStateEarly : Field := ⟨0x10004, 0x0, 31, 16⟩
def colStateRunning : Field := ⟨0x10004, 0x0, 4, 0⟩
def colCmdAbort : Field := ⟨0x10008, 0x0, 3, 3⟩
def colCmdJob : Field := ⟨0x10008, 0x0, 2, 0⟩
def colJobGrpLoAddrLo : Field := ⟨0x10100, 0x20, 31, 6⟩
def colJobGrpHiAddrHi : Field := ⟨0x10104, 0x20, 9, 0⟩
def colJobStageLoAddrLo : Field := ⟨0x10108, 0x20, 31, 6⟩
def colJobStageHiAddrHi : Field := ⟨0x1010c, 0x20, 9, 0⟩
def colJobStageLenSize : Field := ⟨0x10110, 0x20, 15, 0⟩
def macStatusQfull : Field := ⟨0x20000, 0x0, 5, 5⟩
def macStatusTrunc : Field := ⟨0x20000, 0x0, 4, 4⟩
def macStatusHoldoffEnd : Field := ⟨0x20000, 0x0, 3, 3⟩
def macStatusPauseStorm : Field := ⟨0x20000, 0x0, 2, 2⟩
def macStatusLinkDown : Field := ⟨0x20000, 0x0, 1, 1⟩
def macStatusLinkUp : Field := ⟨0x20000, 0x0, 0, 0⟩
def macStateLink : Field := ⟨0x20004, 0x0, 31, 31⟩
def macStatePhy : Field := ⟨0x20004, 0x0, 30, 28⟩
def macStateLanes : Field := ⟨0x20004, 0x0, 27, 24⟩
def macStateHeld : Field := ⟨0x20004, 0x0, 23, 16⟩
def macStateHoldoff : Field := ⟨0x20004, 0x0, 15, 8⟩
def macStateTxLpi : Field := ⟨0x20004, 0x0, 7, 7⟩
def macStateRxLpi : Field := ⟨0x20004, 0x0, 6, 6⟩
def macCtrlPhy : Field := ⟨0x20008, 0x0, 31, 28⟩
def macCtrlDefpri : Field := ⟨0x20008, 0x0, 23, 21⟩
def macCtrlDefq : Field := ⟨0x20008, 0x0, 13, 8⟩
def macCtrlTxEn : Field := ⟨0x20008, 0x0, 2, 2⟩
def macCtrlRxEn : Field := ⟨0x20008, 0x0, 1, 1⟩
def macAddrLoAddr : Field := ⟨0x2000c, 0x0, 31, 0⟩
def macAddrHiAddr : Field := ⟨0x20010, 0x0, 31, 0⟩
def macMaxlenLen : Field := ⟨0x20014, 0x0, 13, 0⟩
def macPauseCtrlTxEn : Field := ⟨0x20018, 0x0, 23, 16⟩
def macPauseCtrlRxEn : Field := ⟨0x20018, 0x0, 15, 8⟩
def macPauseCtrlMode : Field := ⟨0x20018, 0x0, 1, 0⟩
def macPauseWdHold : Field := ⟨0x2001c, 0x0, 31, 16⟩
def macPauseWdLimit : Field := ⟨0x2001c, 0x0, 15, 0⟩
def macEeeCtrlEn : Field := ⟨0x20020, 0x0, 31, 31⟩
def macEeeCtrlIdle : Field := ⟨0x20020, 0x0, 15, 0⟩
def macEeeTwTxTw : Field := ⟨0x20024, 0x0, 31, 16⟩
def macEeeTwRxTw : Field := ⟨0x20024, 0x0, 15, 0⟩
def macPfcThXoff : Field := ⟨0x20040, 0x4, 31, 16⟩
def macPfcThXon : Field := ⟨0x20040, 0x4, 15, 0⟩
def macFiltKeyValid : Field := ⟨0x21000, 0x8, 31, 31⟩
def macFiltKeyTagm : Field := ⟨0x21000, 0x8, 30, 29⟩
def macFiltKeyVidEn : Field := ⟨0x21000, 0x8, 28, 28⟩
def macFiltKeyVid : Field := ⟨0x21000, 0x8, 27, 16⟩
def macFiltKeyEtype : Field := ⟨0x21000, 0x8, 15, 0⟩
def macFiltActEtypeEn : Field := ⟨0x21004, 0x8, 31, 31⟩
def macFiltActPcpmask : Field := ⟨0x21004, 0x8, 30, 23⟩
def macFiltActDrop : Field := ⟨0x21004, 0x8, 7, 7⟩
def macFiltActQueue : Field := ⟨0x21004, 0x8, 5, 0⟩
def macRxqCfgConsumer : Field := ⟨0x22000, 0x8, 31, 30⟩
def macRxqCfgLimit : Field := ⟨0x22000, 0x8, 15, 0⟩
def macRxqStateFrames : Field := ⟨0x22004, 0x8, 31, 16⟩
def macRxqStateKib : Field := ⟨0x22004, 0x8, 15, 0⟩
def qcpStatusStateChange : Field := ⟨0x10000, 0x0, 4, 4⟩
def qcpStatusDbAhead : Field := ⟨0x10000, 0x0, 3, 3⟩
def qcpStatusAuthFail : Field := ⟨0x10000, 0x0, 2, 2⟩
def qcpStatusSessionClose : Field := ⟨0x10000, 0x0, 1, 1⟩
def qcpStatusSessionOpen : Field := ⟨0x10000, 0x0, 0, 0⟩
def qcpCtrlIdle : Field := ⟨0x10004, 0x0, 31, 24⟩
def qcpCtrlUdp6En : Field := ⟨0x10004, 0x0, 2, 2⟩
def qcpCtrlUdp4En : Field := ⟨0x10004, 0x0, 1, 1⟩
def qcpCtrlEthEn : Field := ⟨0x10004, 0x0, 0, 0⟩
def qcpEtypeValue : Field := ⟨0x10008, 0x0, 15, 0⟩
def qcpUdpValue : Field := ⟨0x1000c, 0x0, 15, 0⟩
def qcpIpv4Addr : Field := ⟨0x10010, 0x0, 31, 0⟩
def qcpIpv6Addr : Field := ⟨0x10020, 0x4, 31, 0⟩
def qcpDevstateState : Field := ⟨0x10030, 0x0, 31, 28⟩
def qcpDevstateJobs : Field := ⟨0x10030, 0x0, 15, 8⟩
def qcpDevstateSessions : Field := ⟨0x10030, 0x0, 6, 0⟩
def sysRecStatusMismatch : Field := ⟨0x40000, 0x40, 9, 9⟩
def sysRecStatusWithdrawn : Field := ⟨0x40000, 0x40, 8, 8⟩
def sysRecStatusCkptNeeded : Field := ⟨0x40000, 0x40, 7, 7⟩
def sysRecStatusHalted : Field := ⟨0x40000, 0x40, 6, 6⟩
def sysRecStatusRepeat : Field := ⟨0x40000, 0x40, 5, 5⟩
def sysRecStatusResumed : Field := ⟨0x40000, 0x40, 4, 4⟩
def sysRecStatusFilled : Field := ⟨0x40000, 0x40, 3, 3⟩
def sysRecStatusAdopted : Field := ⟨0x40000, 0x40, 2, 2⟩
def sysRecStatusFrozen : Field := ⟨0x40000, 0x40, 1, 1⟩
def sysRecStatusDeclared : Field := ⟨0x40000, 0x40, 0, 0⟩
def sysRecCtrlCkptStride : Field := ⟨0x40004, 0x40, 31, 16⟩
def sysRecCtrlRepeatMax : Field := ⟨0x40004, 0x40, 11, 8⟩
def sysRecCtrlExhaust : Field := ⟨0x40004, 0x40, 1, 1⟩
def sysRecCtrlManual : Field := ⟨0x40004, 0x40, 0, 0⟩
def sysRecStatePhase : Field := ⟨0x40008, 0x40, 31, 28⟩
def sysRecStateLead : Field := ⟨0x40008, 0x40, 27, 27⟩
def sysRecStateEpoch : Field := ⟨0x40008, 0x40, 15, 0⟩
def sysRecStepStep : Field := ⟨0x4000c, 0x40, 31, 0⟩
def sysRecLastValid : Field := ⟨0x40010, 0x40, 31, 31⟩
def sysRecLastShrunk : Field := ⟨0x40010, 0x40, 30, 30⟩
def sysRecLastFailed : Field := ⟨0x40010, 0x40, 25, 16⟩
def sysRecLastAdopter : Field := ⟨0x40010, 0x40, 9, 0⟩
def sysRecAreaLoAddrLo : Field := ⟨0x40014, 0x40, 31, 6⟩
def sysRecAreaHiAddrHi : Field := ⟨0x40018, 0x40, 9, 0⟩
def sysBootStatusRstAbandon : Field := ⟨0x50000, 0x0, 4, 4⟩
def sysBootStatusLoadHeld : Field := ⟨0x50000, 0x0, 3, 3⟩
def sysBootStatusCmdReject : Field := ⟨0x50000, 0x0, 2, 2⟩
def sysBootStatusFailed : Field := ⟨0x50000, 0x0, 1, 1⟩
def sysBootStatusDone : Field := ⟨0x50000, 0x0, 0, 0⟩
def sysBootStageStage : Field := ⟨0x50004, 0x0, 31, 28⟩
def sysBootStageBusy : Field := ⟨0x50004, 0x0, 27, 27⟩
def sysBootCmdStart : Field := ⟨0x50008, 0x0, 5, 5⟩
def sysBootCmdSelftest : Field := ⟨0x50008, 0x0, 4, 4⟩
def sysBootCmdLoad : Field := ⟨0x50008, 0x0, 3, 3⟩
def sysBootCmdVerify : Field := ⟨0x50008, 0x0, 2, 2⟩
def sysBootCmdTrain : Field := ⟨0x50008, 0x0, 1, 1⟩
def sysBootCmdSpines : Field := ⟨0x50008, 0x0, 0, 0⟩
def sysBootResultStatus : Field := ⟨0x5000c, 0x0, 31, 28⟩
def sysBootResultAction : Field := ⟨0x5000c, 0x0, 27, 24⟩
def sysBootResultDetail : Field := ⟨0x5000c, 0x0, 23, 0⟩
def sysBootHeldTiles : Field := ⟨0x50010, 0x0, 22, 16⟩
def sysBootHeldGleaners : Field := ⟨0x50010, 0x0, 12, 0⟩
def sysBootMissingUnit : Field := ⟨0x50014, 0x0, 12, 0⟩
def secStatusScrubDone : Field := ⟨0x10000, 0x0, 7, 7⟩
def secStatusRngFail : Field := ⟨0x10000, 0x0, 6, 6⟩
def secStatusPufFail : Field := ⟨0x10000, 0x0, 5, 5⟩
def secStatusKeyxReject : Field := ⟨0x10000, 0x0, 4, 4⟩
def secStatusDebugAttached : Field := ⟨0x10000, 0x0, 3, 3⟩
def secStatusLimitRefused : Field := ⟨0x10000, 0x0, 2, 2⟩
def secStatusFloorRaised : Field := ⟨0x10000, 0x0, 1, 1⟩
def secStatusEnrolled : Field := ⟨0x10000, 0x0, 0, 0⟩
def secStateIdOk : Field := ⟨0x10004, 0x0, 31, 31⟩
def secStateDebug : Field := ⟨0x10004, 0x0, 30, 30⟩
def secStateJtag : Field := ⟨0x10004, 0x0, 29, 29⟩
def secStateTrace : Field := ⟨0x10004, 0x0, 28, 28⟩
def secStateRngOk : Field := ⟨0x10004, 0x0, 27, 27⟩
def secStateSlots : Field := ⟨0x10004, 0x0, 20, 16⟩
def secStateSlotmap : Field := ⟨0x10004, 0x0, 15, 0⟩
def secFloorFloor : Field := ⟨0x10008, 0x0, 31, 0⟩
def secFloorRaiseValue : Field := ⟨0x1000c, 0x0, 31, 0⟩
def secLimitsEnrols : Field := ⟨0x10010, 0x0, 20, 16⟩
def secLimitsFloorIncs : Field := ⟨0x10010, 0x0, 12, 0⟩
def secIdkeyKey : Field := ⟨0x10020, 0x4, 31, 0⟩
def pwrStatusDstate : Field := ⟨0x10000, 0x0, 4, 4⟩
def pwrStatusCapReject : Field := ⟨0x10000, 0x0, 3, 3⟩
def pwrStatusCapUnmet : Field := ⟨0x10000, 0x0, 2, 2⟩
def pwrStatusThermal : Field := ⟨0x10000, 0x0, 1, 1⟩
def pwrStatusCapLimited : Field := ⟨0x10000, 0x0, 0, 0⟩
def pwrCapVceil : Field := ⟨0x10004, 0x0, 29, 24⟩
def pwrCapHyst : Field := ⟨0x10004, 0x0, 23, 16⟩
def pwrCapWatts : Field := ⟨0x10004, 0x0, 15, 0⟩
def pwrStateDstate : Field := ⟨0x10008, 0x0, 31, 30⟩
def pwrStateVcode : Field := ⟨0x10008, 0x0, 29, 24⟩
def pwrStateRate : Field := ⟨0x10008, 0x0, 23, 12⟩
def pwrStateLimited : Field := ⟨0x10008, 0x0, 0, 0⟩
def pwrThermShutdown : Field := ⟨0x1000c, 0x0, 15, 8⟩
def pwrThermThrottle : Field := ⟨0x1000c, 0x0, 7, 0⟩
def pwrTempTjMax : Field := ⟨0x10010, 0x0, 31, 24⟩
def pwrTempTbMax : Field := ⟨0x10010, 0x0, 23, 16⟩
def pwrTempTjSensor : Field := ⟨0x10010, 0x0, 5, 0⟩
def pwrPinAvg : Field := ⟨0x10014, 0x0, 15, 0⟩
def pwrVcoreMv : Field := ⟨0x10018, 0x0, 31, 16⟩
def pwrVcoreAmps : Field := ⟨0x10018, 0x0, 15, 0⟩
def tlyStatusRing : Field := ⟨0x10000, 0x0, 4, 4⟩
def tlyStatusBbDrop : Field := ⟨0x10000, 0x0, 3, 3⟩
def tlyStatusHoldup : Field := ⟨0x10000, 0x0, 2, 2⟩
def tlyStatusFeedBack : Field := ⟨0x10000, 0x0, 1, 1⟩
def tlyStatusFeedLost : Field := ⟨0x10000, 0x0, 0, 0⟩
def tlyPowerHoldupOk : Field := ⟨0x10004, 0x0, 31, 31⟩
def tlyPowerMainOn : Field := ⟨0x10004, 0x0, 30, 30⟩
def tlyPowerVariant : Field := ⟨0x10004, 0x0, 29, 29⟩
def tlyPowerPoweron : Field := ⟨0x10004, 0x0, 15, 0⟩
def tlyPowerCmdTreset : Field := ⟨0x10008, 0x0, 2, 2⟩
def tlyPowerCmdOff : Field := ⟨0x10008, 0x0, 1, 1⟩
def tlyPowerCmdOn : Field := ⟨0x10008, 0x0, 0, 0⟩
def tlyFeedVa : Field := ⟨0x1000c, 0x0, 31, 22⟩
def tlyFeedVb : Field := ⟨0x1000c, 0x0, 21, 12⟩
def tlyFeedBOn : Field := ⟨0x1000c, 0x0, 1, 1⟩
def tlyFeedAOn : Field := ⟨0x1000c, 0x0, 0, 0⟩
def tlyRingBypass : Field := ⟨0x10010, 0x0, 31, 31⟩
def tlyRingBypassed : Field := ⟨0x10010, 0x0, 30, 30⟩
def tlyRingTrbUp : Field := ⟨0x10010, 0x0, 29, 29⟩
def tlyRingTraUp : Field := ⟨0x10010, 0x0, 28, 28⟩
def tlyTimeLoCount : Field := ⟨0x10018, 0x0, 31, 0⟩
def tlyTimeHiCount : Field := ⟨0x1001c, 0x0, 31, 0⟩
def tlyBbHeadRseq : Field := ⟨0x10020, 0x0, 31, 0⟩
def tlyBbSelRseq : Field := ⟨0x10024, 0x0, 31, 0⟩
def tlyBbInfoValid : Field := ⟨0x10028, 0x0, 31, 31⟩
def tlyBbInfoBadcrc : Field := ⟨0x10028, 0x0, 30, 30⟩
def tlyBbDataData : Field := ⟨0x10040, 0x4, 31, 0⟩
def tilLoadStateState : Field := ⟨0x10200, 0x0, 31, 29⟩
def tilLoadStateRound : Field := ⟨0x10200, 0x0, 17, 16⟩
def tilLoadStateImage : Field := ⟨0x10200, 0x0, 15, 12⟩
def tilLoadStateChunks : Field := ⟨0x10200, 0x0, 8, 0⟩
def tilLoadMissMiss : Field := ⟨0x10204, 0x4, 31, 0⟩
def glnLoadStateState : Field := ⟨0x10200, 0x0, 31, 29⟩
def glnLoadStateRound : Field := ⟨0x10200, 0x0, 17, 16⟩
def glnLoadStateImage : Field := ⟨0x10200, 0x0, 15, 12⟩
def glnLoadStateChunks : Field := ⟨0x10200, 0x0, 8, 0⟩
def glnLoadMissMiss : Field := ⟨0x10204, 0x4, 31, 0⟩

end Fld

def commonRows : List RegRow := [
  ⟨0x0, 1, 0x4, 1, 0x4, .ro, 0x0, 0x0⟩,
  ⟨0x4, 1, 0x4, 1, 0x4, .ro, 0x0, 0x0⟩,
  ⟨0x8, 1, 0x4, 1, 0x4, .sq, 0x0, 0x0⟩,
  ⟨0xc, 1, 0x4, 1, 0x4, .rw, 0x0, 0x1⟩,
  ⟨0x10, 1, 0x4, 1, 0x4, .ro, 0x0, 0x0⟩,
  ⟨0x14, 1, 0x4, 1, 0x4, .rw, 0x0, 0x3f⟩,
  ⟨0x18, 1, 0x4, 1, 0x4, .rc, 0x0, 0x0⟩,
  ⟨0x20, 1, 0x4, 1, 0x4, .rw, 0x0, 0xffff0000⟩,
  ⟨0x40, 16, 0x4, 1, 0x4, .rw, 0x0, 0xffffffff⟩,
  ⟨0x80, 16, 0x4, 1, 0x4, .ro, 0x0, 0x0⟩,
  ⟨0x400, 256, 0x4, 1, 0x4, .ro, 0x0, 0x0⟩]

def chipRowsA : List RegRow := [
  ⟨0x10000, 1, 0x4, 1, 0x4, .ro, 0x10fff, 0x0⟩,
  ⟨0x20000, 1, 0x4, 1, 0x4, .sq, 0x0, 0x0⟩,
  ⟨0x20004, 1, 0x4, 1, 0x4, .rw, 0x0, 0xffffffff⟩,
  ⟨0x20008, 1, 0x4, 1, 0x4, .rw, 0x0, 0xffffffff⟩,
  ⟨0x2000c, 1, 0x4, 1, 0x4, .ro, 0x4000000, 0x0⟩,
  ⟨0x20010, 1, 0x4, 1, 0x4, .ro, 0x0, 0x0⟩,
  ⟨0x20014, 1, 0x4, 1, 0x4, .rw, 0x4, 0x1f⟩,
  ⟨0x20018, 1, 0x4, 1, 0x4, .rw, 0x0, 0x1ff⟩,
  ⟨0x2001c, 1, 0x4, 1, 0x4, .ro, 0x0, 0x0⟩,
  ⟨0x30000, 1, 0x4, 1, 0x4, .sq, 0x0, 0x0⟩,
  ⟨0x30004, 1, 0x4, 1, 0x4, .ro, 0x0, 0x0⟩,
  ⟨0x30008, 1, 0x4, 1, 0x4, .rw, 0x902, 0xffff⟩,
  ⟨0x3000c, 1, 0x4, 1, 0x4, .rw, 0x6403e8, 0xffffffff⟩,
  ⟨0x30010, 1, 0x4, 1, 0x4, .rw, 0x88b6, 0xffff⟩,
  ⟨0x30020, 1, 0x4, 1, 0x4, .rc, 0x0, 0x0⟩,
  ⟨0x30024, 1, 0x4, 1, 0x4, .rc, 0x0, 0x0⟩,
  ⟨0x30028, 1, 0x4, 1, 0x4, .rc, 0x0, 0x0⟩,
  ⟨0x3002c, 1, 0x4, 1, 0x4, .rc, 0x0, 0x0⟩,
  ⟨0x30030, 1, 0x4, 1, 0x4, .rc, 0x0, 0x0⟩,
  ⟨0x30034, 1, 0x4, 1, 0x4, .rc, 0x0, 0x0⟩,
  ⟨0x30038, 1, 0x4, 1, 0x4, .rc, 0x0, 0x0⟩,
  ⟨0x3003c, 1, 0x4, 1, 0x4, .rc, 0x0, 0x0⟩,
  ⟨0x30040, 1, 0x4, 1, 0x4, .rc, 0x0, 0x0⟩,
  ⟨0x30044, 1, 0x4, 1, 0x4, .rc, 0x0, 0x0⟩,
  ⟨0x30100, 8, 0x20, 1, 0x4, .rw, 0x0, 0xc00003ff⟩,
  ⟨0x30104, 8, 0x20, 1, 0x4, .rw, 0x0, 0xffffffff⟩,
  ⟨0x30108, 8, 0x20, 1, 0x4, .rw, 0x0, 0xffffffc0⟩,
  ⟨0x3010c, 8, 0x20, 1, 0x4, .rw, 0x0, 0x3ff⟩,
  ⟨0x30110, 8, 0x20, 1, 0x4, .rw, 0x0, 0xffffff⟩,
  ⟨0x40000, 8, 0x40, 1, 0x4, .sq, 0x0, 0x0⟩]

def chipRowsB : List RegRow := [
  ⟨0x40004, 8, 0x40, 1, 0x4, .rw, 0x10200, 0xffff0f03⟩,
  ⟨0x40008, 8, 0x40, 1, 0x4, .ro, 0x0, 0x0⟩,
  ⟨0x4000c, 8, 0x40, 1, 0x4, .ro, 0xffffffff, 0x0⟩,
  ⟨0x40010, 8, 0x40, 1, 0x4, .ro, 0x0, 0x0⟩,
  ⟨0x40014, 8, 0x40, 1, 0x4, .rw, 0x0, 0xffffffc0⟩,
  ⟨0x40018, 8, 0x40, 1, 0x4, .rw, 0x0, 0x3ff⟩,
  ⟨0x40020, 8, 0x40, 1, 0x4, .rc, 0x0, 0x0⟩,
  ⟨0x40024, 8, 0x40, 1, 0x4, .rc, 0x0, 0x0⟩,
  ⟨0x40028, 8, 0x40, 1, 0x4, .rc, 0x0, 0x0⟩,
  ⟨0x4002c, 8, 0x40, 1, 0x4, .rc, 0x0, 0x0⟩,
  ⟨0x50000, 1, 0x4, 1, 0x4, .sq, 0x0, 0x0⟩,
  ⟨0x50004, 1, 0x4, 1, 0x4, .ro, 0x0, 0x0⟩,
  ⟨0x50008, 1, 0x4, 1, 0x4, .wo, 0x0, 0x0⟩,
  ⟨0x5000c, 1, 0x4, 1, 0x4, .ro, 0x0, 0x0⟩,
  ⟨0x50010, 1, 0x4, 1, 0x4, .ro, 0x0, 0x0⟩,
  ⟨0x50014, 1, 0x4, 1, 0x4, .ro, 0x0, 0x0⟩,
  ⟨0x50040, 1, 0x4, 1, 0x4, .rc, 0x0, 0x0⟩,
  ⟨0x50044, 1, 0x4, 1, 0x4, .rc, 0x0, 0x0⟩,
  ⟨0x50048, 1, 0x4, 1, 0x4, .rc, 0x0, 0x0⟩,
  ⟨0x5004c, 1, 0x4, 1, 0x4, .rc, 0x0, 0x0⟩]

def chipRows : List RegRow := chipRowsA ++ chipRowsB

def tileRowsA : List RegRow := [
  ⟨0x20000, 1, 0x4, 1, 0x4, .ro, 0x2100f, 0x0⟩,
  ⟨0x20004, 1, 0x4, 1, 0x4, .sq, 0x0, 0x0⟩,
  ⟨0x20008, 1, 0x4, 1, 0x4, .rw, 0x803, 0xff03⟩,
  ⟨0x2000c, 1, 0x4, 1, 0x4, .ro, 0x0, 0x0⟩,
  ⟨0x20010, 1, 0x4, 1, 0x4, .ro, 0x0, 0x0⟩,
  ⟨0x20014, 1, 0x4, 1, 0x4, .ro, 0x0, 0x0⟩,
  ⟨0x20020, 1, 0x4, 1, 0x4, .rc, 0x0, 0x0⟩,
  ⟨0x20024, 1, 0x4, 1, 0x4, .rc, 0x0, 0x0⟩,
  ⟨0x20028, 1, 0x4, 1, 0x4, .rc, 0x0, 0x0⟩,
  ⟨0x2002c, 1, 0x4, 1, 0x4, .rc, 0x0, 0x0⟩,
  ⟨0x20030, 1, 0x4, 1, 0x4, .rc, 0x0, 0x0⟩,
  ⟨0x20034, 1, 0x4, 1, 0x4, .rc, 0x0, 0x0⟩,
  ⟨0x20038, 1, 0x4, 1, 0x4, .rc, 0x0, 0x0⟩,
  ⟨0x2003c, 1, 0x4, 1, 0x4, .rc, 0x0, 0x0⟩,
  ⟨0x20040, 1, 0x4, 1, 0x4, .rc, 0x0, 0x0⟩,
  ⟨0x20044, 1, 0x4, 1, 0x4, .rc, 0x0, 0x0⟩,
  ⟨0x20048, 1, 0x4, 1, 0x4, .rc, 0x0, 0x0⟩,
  ⟨0x2004c, 1, 0x4, 1, 0x4, .rc, 0x0, 0x0⟩,
  ⟨0x20050, 1, 0x4, 1, 0x4, .rc, 0x0, 0x0⟩,
  ⟨0x20054, 1, 0x4, 1, 0x4, .rc, 0x0, 0x0⟩,
  ⟨0x30800, 1, 0x4, 1, 0x4, .rc, 0x0, 0x0⟩,
  ⟨0x30804, 1, 0x4, 1, 0x4, .rc, 0x0, 0x0⟩,
  ⟨0x30808, 1, 0x4, 1, 0x4, .rc, 0x0, 0x0⟩,
  ⟨0x3080c, 1, 0x4, 1, 0x4, .rc, 0x0, 0x0⟩,
  ⟨0x30810, 1, 0x4, 1, 0x4, .rc, 0x0, 0x0⟩,
  ⟨0x30814, 1, 0x4, 1, 0x4, .rc, 0x0, 0x0⟩,
  ⟨0x30818, 1, 0x4, 1, 0x4, .rc, 0x0, 0x0⟩,
  ⟨0x3081c, 1, 0x4, 1, 0x4, .rc, 0x0, 0x0⟩,
  ⟨0x30820, 1, 0x4, 1, 0x4, .rc, 0x0, 0x0⟩,
  ⟨0x30824, 1, 0x4, 1, 0x4, .rc, 0x0, 0x0⟩]

def tileRowsB : List RegRow := [
  ⟨0x10000, 1, 0x4, 1, 0x4, .ro, 0x10000400, 0x0⟩,
  ⟨0x10004, 1, 0x4, 1, 0x4, .sq, 0x0, 0x0⟩,
  ⟨0x10008, 1, 0x4, 1, 0x4, .wo, 0x0, 0x0⟩,
  ⟨0x1000c, 1, 0x4, 1, 0x4, .ro, 0x0, 0x0⟩,
  ⟨0x10010, 1, 0x4, 1, 0x4, .rw, 0x0, 0xffffffc0⟩,
  ⟨0x10014, 1, 0x4, 1, 0x4, .rw, 0x0, 0x3ff⟩,
  ⟨0x10018, 1, 0x4, 1, 0x4, .rw, 0x0, 0xffffff⟩,
  ⟨0x1001c, 1, 0x4, 1, 0x4, .rw, 0x0, 0xffffffff⟩,
  ⟨0x10020, 1, 0x4, 1, 0x4, .rw, 0x0, 0xffffffff⟩,
  ⟨0x10024, 1, 0x4, 1, 0x4, .rw, 0x0, 0xffff0107⟩,
  ⟨0x10028, 1, 0x4, 1, 0x4, .ro, 0x0, 0x0⟩,
  ⟨0x1002c, 1, 0x4, 1, 0x4, .rw, 0x0, 0xff⟩,
  ⟨0x10030, 1, 0x4, 1, 0x4, .rc, 0x0, 0x0⟩,
  ⟨0x10034, 1, 0x4, 1, 0x4, .rc, 0x0, 0x0⟩,
  ⟨0x10038, 1, 0x4, 1, 0x4, .rc, 0x0, 0x0⟩,
  ⟨0x1003c, 1, 0x4, 1, 0x4, .rc, 0x0, 0x0⟩,
  ⟨0x10100, 16, 0x4, 1, 0x4, .rw, 0x0, 0xbfbfbfbf⟩,
  ⟨0x30000, 1, 0x4, 1, 0x4, .sq, 0x0, 0x0⟩,
  ⟨0x30004, 1, 0x4, 1, 0x4, .ro, 0x0, 0x0⟩,
  ⟨0x30010, 4, 0x4, 1, 0x4, .ro, 0xffffffff, 0x0⟩,
  ⟨0x30020, 1, 0x4, 1, 0x4, .rc, 0x0, 0x0⟩,
  ⟨0x30024, 1, 0x4, 1, 0x4, .rc, 0x0, 0x0⟩,
  ⟨0x30828, 1, 0x4, 1, 0x4, .rc, 0x0, 0x0⟩,
  ⟨0x3082c, 1, 0x4, 1, 0x4, .rc, 0x0, 0x0⟩,
  ⟨0x40000, 2, 0x10000, 1, 0x4, .sq, 0x0, 0x0⟩,
  ⟨0x40010, 2, 0x10000, 1, 0x4, .rc, 0x0, 0x0⟩,
  ⟨0x40014, 2, 0x10000, 1, 0x4, .rc, 0x0, 0x0⟩,
  ⟨0x60000, 1, 0x4, 1, 0x4, .sq, 0x0, 0x0⟩,
  ⟨0x60004, 1, 0x4, 1, 0x4, .ro, 0x0, 0x0⟩,
  ⟨0x60008, 1, 0x4, 1, 0x4, .rc, 0x0, 0x0⟩]

def tileRowsC : List RegRow := [
  ⟨0x6000c, 1, 0x4, 1, 0x4, .rc, 0x0, 0x0⟩,
  ⟨0x60010, 1, 0x4, 1, 0x4, .rc, 0x0, 0x0⟩,
  ⟨0x60014, 1, 0x4, 1, 0x4, .rc, 0x0, 0x0⟩,
  ⟨0x60020, 8, 0x4, 1, 0x4, .rw, 0x0, 0xc000ff7f⟩,
  ⟨0x10040, 1, 0x4, 1, 0x4, .rc, 0x0, 0x0⟩,
  ⟨0x10044, 1, 0x4, 1, 0x4, .rc, 0x0, 0x0⟩,
  ⟨0x10048, 1, 0x4, 1, 0x4, .rc, 0x0, 0x0⟩,
  ⟨0x1004c, 1, 0x4, 1, 0x4, .rc, 0x0, 0x0⟩,
  ⟨0x10200, 1, 0x4, 1, 0x4, .ro, 0x0, 0x0⟩,
  ⟨0x10204, 8, 0x4, 1, 0x4, .ro, 0x0, 0x0⟩]

def tileRows : List RegRow := tileRowsA ++ tileRowsB ++ tileRowsC

def trnRows : List RegRow := [
  ⟨0x10800, 8, 0x20, 1, 0x4, .rw, 0x0, 0xffffffc0⟩,
  ⟨0x10804, 8, 0x20, 1, 0x4, .rw, 0x0, 0x3ff⟩,
  ⟨0x10808, 8, 0x20, 1, 0x4, .rw, 0x64000000, 0xff01ffff⟩,
  ⟨0x1080c, 8, 0x20, 1, 0x4, .sq, 0x0, 0x0⟩,
  ⟨0x10810, 8, 0x20, 1, 0x4, .ro, 0x0, 0x0⟩,
  ⟨0x10814, 8, 0x20, 1, 0x4, .ro, 0x0, 0x0⟩,
  ⟨0x10000, 1, 0x4, 1, 0x4, .sq, 0x0, 0x0⟩,
  ⟨0x10004, 1, 0x4, 1, 0x4, .rw, 0x271002, 0xffffffff⟩,
  ⟨0x10008, 1, 0x4, 1, 0x4, .ro, 0x0, 0x0⟩,
  ⟨0x11000, 8, 0x40, 1, 0x4, .rw, 0x0, 0xffffffc0⟩,
  ⟨0x11004, 8, 0x40, 1, 0x4, .rw, 0x0, 0x3ff⟩,
  ⟨0x11008, 8, 0x40, 1, 0x4, .ro, 0x0, 0x0⟩,
  ⟨0x1100c, 8, 0x40, 1, 0x4, .ro, 0xffffffff, 0x0⟩,
  ⟨0x11010, 8, 0x40, 1, 0x4, .ro, 0xffffffff, 0x0⟩,
  ⟨0x11018, 8, 0x40, 1, 0x4, .rc, 0x0, 0x0⟩,
  ⟨0x1101c, 8, 0x40, 1, 0x4, .rc, 0x0, 0x0⟩,
  ⟨0x11020, 8, 0x40, 1, 0x4, .rc, 0x0, 0x0⟩,
  ⟨0x11024, 8, 0x40, 1, 0x4, .rc, 0x0, 0x0⟩,
  ⟨0x11028, 8, 0x40, 1, 0x4, .rc, 0x0, 0x0⟩,
  ⟨0x1102c, 8, 0x40, 1, 0x4, .rc, 0x0, 0x0⟩]

def stackRows : List RegRow := [
  ⟨0x10000, 1, 0x4, 1, 0x4, .sq, 0x0, 0x0⟩,
  ⟨0x10004, 1, 0x4, 1, 0x4, .rw, 0x104, 0x10f⟩,
  ⟨0x10008, 1, 0x4, 1, 0x4, .ro, 0x0, 0x0⟩,
  ⟨0x10100, 8, 0x10, 1, 0x4, .rc, 0x0, 0x0⟩,
  ⟨0x10104, 8, 0x10, 1, 0x4, .rc, 0x0, 0x0⟩,
  ⟨0x10108, 8, 0x10, 1, 0x4, .rc, 0x0, 0x0⟩,
  ⟨0x1010c, 8, 0x10, 1, 0x4, .rc, 0x0, 0x0⟩,
  ⟨0x11000, 8, 0x20, 1, 0x4, .rw, 0x0, 0xffffffc0⟩,
  ⟨0x11004, 8, 0x20, 1, 0x4, .rw, 0x0, 0x3ff⟩,
  ⟨0x11008, 8, 0x20, 1, 0x4, .rw, 0x8, 0x1f⟩,
  ⟨0x1100c, 8, 0x20, 1, 0x4, .wo, 0x0, 0x0⟩,
  ⟨0x11010, 8, 0x20, 1, 0x4, .ro, 0x0, 0x0⟩,
  ⟨0x12000, 8, 0x40, 8, 0x8, .rc, 0x0, 0x0⟩,
  ⟨0x12004, 8, 0x40, 8, 0x8, .rc, 0x0, 0x0⟩,
  ⟨0x13000, 1, 0x4, 1, 0x4, .rw, 0x140020, 0xff003f⟩,
  ⟨0x13004, 1, 0x4, 1, 0x4, .ro, 0x2000, 0x0⟩,
  ⟨0x13008, 1, 0x4, 1, 0x4, .rw, 0x0, 0xfff⟩,
  ⟨0x13010, 1, 0x4, 1, 0x4, .rw, 0x0, 0x7ffe⟩,
  ⟨0x13014, 1, 0x4, 1, 0x4, .rw, 0x0, 0xffc00701⟩,
  ⟨0x13018, 1, 0x4, 1, 0x4, .rw, 0x0, 0xfffffff8⟩,
  ⟨0x1301c, 1, 0x4, 1, 0x4, .rw, 0x0, 0x3ff⟩,
  ⟨0x13020, 1, 0x4, 1, 0x4, .rw, 0x0, 0xfffffff8⟩,
  ⟨0x13024, 1, 0x4, 1, 0x4, .rw, 0x0, 0x3ff⟩,
  ⟨0x13028, 1, 0x4, 1, 0x4, .rw, 0x0, 0xffffffff⟩,
  ⟨0x1302c, 1, 0x4, 1, 0x4, .rw, 0x0, 0xffffffff⟩,
  ⟨0x13030, 4, 0x4, 1, 0x4, .rw, 0x0, 0xffffffff⟩,
  ⟨0x13040, 1, 0x4, 1, 0x4, .wo, 0x0, 0x0⟩,
  ⟨0x13044, 1, 0x4, 1, 0x4, .ro, 0x0, 0x0⟩]

def channelRows : List RegRow := [
  ⟨0x10000, 1, 0x4, 1, 0x4, .sq, 0x0, 0x0⟩,
  ⟨0x10004, 1, 0x4, 1, 0x4, .ro, 0x0, 0x0⟩,
  ⟨0x10010, 1, 0x4, 1, 0x4, .rc, 0x0, 0x0⟩,
  ⟨0x10014, 1, 0x4, 1, 0x4, .rc, 0x0, 0x0⟩,
  ⟨0x10018, 1, 0x4, 1, 0x4, .rc, 0x0, 0x0⟩,
  ⟨0x1001c, 1, 0x4, 1, 0x4, .rc, 0x0, 0x0⟩,
  ⟨0x10020, 1, 0x4, 1, 0x4, .rc, 0x0, 0x0⟩,
  ⟨0x10024, 1, 0x4, 1, 0x4, .rc, 0x0, 0x0⟩,
  ⟨0x10028, 1, 0x4, 1, 0x4, .rc, 0x0, 0x0⟩,
  ⟨0x1002c, 1, 0x4, 1, 0x4, .rc, 0x0, 0x0⟩,
  ⟨0x10030, 1, 0x4, 1, 0x4, .ro, 0x0, 0x0⟩,
  ⟨0x10040, 1, 0x4, 1, 0x4, .ro, 0x0, 0x0⟩,
  ⟨0x10044, 1, 0x4, 1, 0x4, .rw, 0x0, 0x1f⟩,
  ⟨0x10048, 1, 0x4, 1, 0x4, .ro, 0x0, 0x0⟩,
  ⟨0x1004c, 1, 0x4, 1, 0x4, .rw, 0x0, 0xff⟩,
  ⟨0x10050, 1, 0x4, 1, 0x4, .ro, 0x0, 0x0⟩,
  ⟨0x10054, 1, 0x4, 1, 0x4, .wo, 0x0, 0x0⟩]

def gleanerRows : List RegRow := [
  ⟨0x10000, 1, 0x4, 1, 0x4, .sq, 0x0, 0x0⟩,
  ⟨0x10004, 1, 0x4, 1, 0x4, .ro, 0x0, 0x0⟩,
  ⟨0x10008, 1, 0x4, 1, 0x4, .ro, 0x0, 0x0⟩,
  ⟨0x10010, 1, 0x4, 1, 0x4, .rc, 0x0, 0x0⟩,
  ⟨0x10014, 1, 0x4, 1, 0x4, .rc, 0x0, 0x0⟩,
  ⟨0x10018, 1, 0x4, 1, 0x4, .rc, 0x0, 0x0⟩,
  ⟨0x1001c, 1, 0x4, 1, 0x4, .rc, 0x0, 0x0⟩,
  ⟨0x10020, 1, 0x4, 1, 0x4, .rc, 0x0, 0x0⟩,
  ⟨0x10024, 1, 0x4, 1, 0x4, .rc, 0x0, 0x0⟩,
  ⟨0x10028, 1, 0x4, 1, 0x4, .rc, 0x0, 0x0⟩,
  ⟨0x1002c, 1, 0x4, 1, 0x4, .rc, 0x0, 0x0⟩,
  ⟨0x10030, 1, 0x4, 1, 0x4, .rc, 0x0, 0x0⟩,
  ⟨0x10034, 1, 0x4, 1, 0x4, .rc, 0x0, 0x0⟩,
  ⟨0x10828, 1, 0x4, 1, 0x4, .rc, 0x0, 0x0⟩,
  ⟨0x1082c, 1, 0x4, 1, 0x4, .rc, 0x0, 0x0⟩,
  ⟨0x10200, 1, 0x4, 1, 0x4, .ro, 0x0, 0x0⟩,
  ⟨0x10204, 8, 0x4, 1, 0x4, .ro, 0x0, 0x0⟩,
  ⟨0x10800, 1, 0x4, 1, 0x4, .rc, 0x0, 0x0⟩,
  ⟨0x10804, 1, 0x4, 1, 0x4, .rc, 0x0, 0x0⟩,
  ⟨0x10808, 1, 0x4, 1, 0x4, .rc, 0x0, 0x0⟩,
  ⟨0x1080c, 1, 0x4, 1, 0x4, .rc, 0x0, 0x0⟩,
  ⟨0x10810, 1, 0x4, 1, 0x4, .rc, 0x0, 0x0⟩,
  ⟨0x10814, 1, 0x4, 1, 0x4, .rc, 0x0, 0x0⟩,
  ⟨0x10818, 1, 0x4, 1, 0x4, .rc, 0x0, 0x0⟩,
  ⟨0x1081c, 1, 0x4, 1, 0x4, .rc, 0x0, 0x0⟩,
  ⟨0x10820, 1, 0x4, 1, 0x4, .rc, 0x0, 0x0⟩,
  ⟨0x10824, 1, 0x4, 1, 0x4, .rc, 0x0, 0x0⟩]

def ctxRows : List RegRow := [
  ⟨0x10000, 1, 0x4, 1, 0x4, .sq, 0x0, 0x0⟩,
  ⟨0x10004, 1, 0x4, 1, 0x4, .rw, 0xa000001, 0xff0000ff⟩,
  ⟨0x10008, 1, 0x4, 1, 0x4, .rw, 0x0, 0xffffffc0⟩,
  ⟨0x1000c, 1, 0x4, 1, 0x4, .rw, 0x0, 0x3ff⟩,
  ⟨0x10010, 1, 0x4, 1, 0x4, .rw, 0x0, 0xffffffc0⟩,
  ⟨0x10014, 1, 0x4, 1, 0x4, .rw, 0x0, 0x3ff⟩,
  ⟨0x10018, 1, 0x4, 1, 0x4, .rw, 0x0, 0xffffffc0⟩,
  ⟨0x1001c, 1, 0x4, 1, 0x4, .rw, 0x0, 0x3ff⟩,
  ⟨0x10020, 1, 0x4, 1, 0x4, .ro, 0x0, 0x0⟩,
  ⟨0x10030, 1, 0x4, 1, 0x4, .rc, 0x0, 0x0⟩,
  ⟨0x10034, 1, 0x4, 1, 0x4, .rc, 0x0, 0x0⟩,
  ⟨0x10038, 1, 0x4, 1, 0x4, .rc, 0x0, 0x0⟩,
  ⟨0x1003c, 1, 0x4, 1, 0x4, .rc, 0x0, 0x0⟩,
  ⟨0x10040, 1, 0x4, 1, 0x4, .rc, 0x0, 0x0⟩,
  ⟨0x10044, 1, 0x4, 1, 0x4, .rc, 0x0, 0x0⟩,
  ⟨0x10048, 1, 0x4, 1, 0x4, .rc, 0x0, 0x0⟩,
  ⟨0x1004c, 1, 0x4, 1, 0x4, .rc, 0x0, 0x0⟩,
  ⟨0x10050, 1, 0x4, 1, 0x4, .rc, 0x0, 0x0⟩,
  ⟨0x10054, 1, 0x4, 1, 0x4, .rc, 0x0, 0x0⟩,
  ⟨0x10058, 1, 0x4, 1, 0x4, .rc, 0x0, 0x0⟩,
  ⟨0x1005c, 1, 0x4, 1, 0x4, .rc, 0x0, 0x0⟩,
  ⟨0x10100, 8, 0x20, 1, 0x4, .rw, 0x10100, 0xf03f7f00⟩,
  ⟨0x10104, 8, 0x20, 1, 0x4, .rw, 0x0, 0x7ffffff⟩,
  ⟨0x10108, 8, 0x20, 1, 0x4, .ro, 0x0, 0x0⟩,
  ⟨0x1010c, 8, 0x20, 1, 0x4, .rw, 0x0, 0x83ffffff⟩,
  ⟨0x10110, 8, 0x20, 1, 0x4, .rw, 0x0, 0xffffffc0⟩,
  ⟨0x10114, 8, 0x20, 1, 0x4, .rw, 0x0, 0x3ff⟩,
  ⟨0x10118, 8, 0x20, 1, 0x4, .rw, 0x0, 0xffffffc0⟩,
  ⟨0x1011c, 8, 0x20, 1, 0x4, .rw, 0x0, 0x3ff⟩,
  ⟨0x10400, 64, 0x4, 1, 0x4, .ro, 0x0, 0x0⟩]

def linkRows : List RegRow := [
  ⟨0x10000, 1, 0x4, 1, 0x4, .sq, 0x0, 0x0⟩,
  ⟨0x10004, 1, 0x4, 1, 0x4, .rw, 0x0, 0x3⟩,
  ⟨0x10008, 1, 0x4, 1, 0x4, .ro, 0x0, 0x0⟩,
  ⟨0x1000c, 1, 0x4, 1, 0x4, .rw, 0x0, 0xffff⟩,
  ⟨0x10010, 1, 0x4, 1, 0x4, .ro, 0x0, 0x0⟩,
  ⟨0x10014, 1, 0x4, 1, 0x4, .ro, 0x0, 0x0⟩,
  ⟨0x10020, 1, 0x4, 1, 0x4, .rc, 0x0, 0x0⟩,
  ⟨0x10024, 1, 0x4, 1, 0x4, .rc, 0x0, 0x0⟩,
  ⟨0x10028, 1, 0x4, 1, 0x4, .rc, 0x0, 0x0⟩,
  ⟨0x1002c, 1, 0x4, 1, 0x4, .rc, 0x0, 0x0⟩,
  ⟨0x10030, 1, 0x4, 1, 0x4, .rc, 0x0, 0x0⟩,
  ⟨0x10034, 1, 0x4, 1, 0x4, .rc, 0x0, 0x0⟩,
  ⟨0x10038, 1, 0x4, 1, 0x4, .rc, 0x0, 0x0⟩,
  ⟨0x1003c, 1, 0x4, 1, 0x4, .rc, 0x0, 0x0⟩,
  ⟨0x10040, 1, 0x4, 1, 0x4, .rc, 0x0, 0x0⟩,
  ⟨0x10044, 1, 0x4, 1, 0x4, .rc, 0x0, 0x0⟩,
  ⟨0x10048, 1, 0x4, 1, 0x4, .rc, 0x0, 0x0⟩,
  ⟨0x1004c, 1, 0x4, 1, 0x4, .rc, 0x0, 0x0⟩,
  ⟨0x10050, 1, 0x4, 1, 0x4, .rc, 0x0, 0x0⟩,
  ⟨0x10054, 1, 0x4, 1, 0x4, .rc, 0x0, 0x0⟩]

def colRows : List RegRow := [
  ⟨0x10000, 1, 0x4, 1, 0x4, .sq, 0x0, 0x0⟩,
  ⟨0x10004, 1, 0x4, 1, 0x4, .ro, 0x0, 0x0⟩,
  ⟨0x10008, 1, 0x4, 1, 0x4, .wo, 0x0, 0x0⟩,
  ⟨0x10010, 1, 0x4, 1, 0x4, .rc, 0x0, 0x0⟩,
  ⟨0x10014, 1, 0x4, 1, 0x4, .rc, 0x0, 0x0⟩,
  ⟨0x10018, 1, 0x4, 1, 0x4, .rc, 0x0, 0x0⟩,
  ⟨0x1001c, 1, 0x4, 1, 0x4, .rc, 0x0, 0x0⟩,
  ⟨0x10020, 1, 0x4, 1, 0x4, .rc, 0x0, 0x0⟩,
  ⟨0x10024, 1, 0x4, 1, 0x4, .rc, 0x0, 0x0⟩,
  ⟨0x10100, 8, 0x20, 1, 0x4, .rw, 0x0, 0xffffffc0⟩,
  ⟨0x10104, 8, 0x20, 1, 0x4, .rw, 0x0, 0x3ff⟩,
  ⟨0x10108, 8, 0x20, 1, 0x4, .rw, 0x0, 0xffffffc0⟩,
  ⟨0x1010c, 8, 0x20, 1, 0x4, .rw, 0x0, 0x3ff⟩,
  ⟨0x10110, 8, 0x20, 1, 0x4, .rw, 0x0, 0xffff⟩]

def macRows : List RegRow := [
  ⟨0x20000, 1, 0x4, 1, 0x4, .sq, 0x0, 0x0⟩,
  ⟨0x20004, 1, 0x4, 1, 0x4, .ro, 0x0, 0x0⟩,
  ⟨0x20008, 1, 0x4, 1, 0x4, .rw, 0x6, 0xf0e03f06⟩,
  ⟨0x2000c, 1, 0x4, 1, 0x4, .rw, 0x0, 0xffffffff⟩,
  ⟨0x20010, 1, 0x4, 1, 0x4, .rw, 0x0, 0xffff⟩,
  ⟨0x20014, 1, 0x4, 1, 0x4, .rw, 0x2400, 0x3fff⟩,
  ⟨0x20018, 1, 0x4, 1, 0x4, .rw, 0x0, 0xffff03⟩,
  ⟨0x2001c, 1, 0x4, 1, 0x4, .rw, 0x3e80064, 0xffffffff⟩,
  ⟨0x20020, 1, 0x4, 1, 0x4, .rw, 0x64, 0x8000ffff⟩,
  ⟨0x20024, 1, 0x4, 1, 0x4, .rw, 0x100002, 0xffff0000⟩,
  ⟨0x20040, 8, 0x4, 1, 0x4, .rw, 0x1400100, 0xffffffff⟩,
  ⟨0x20100, 29, 0x8, 1, 0x4, .rc, 0x0, 0x0⟩,
  ⟨0x20104, 29, 0x8, 1, 0x4, .rc, 0x0, 0x0⟩,
  ⟨0x20200, 8, 0x10, 1, 0x4, .rc, 0x0, 0x0⟩,
  ⟨0x20204, 8, 0x10, 1, 0x4, .rc, 0x0, 0x0⟩,
  ⟨0x20208, 8, 0x10, 1, 0x4, .rc, 0x0, 0x0⟩,
  ⟨0x2020c, 8, 0x10, 1, 0x4, .rc, 0x0, 0x0⟩,
  ⟨0x21000, 256, 0x8, 1, 0x4, .rw, 0x0, 0xffffffff⟩,
  ⟨0x21004, 256, 0x8, 1, 0x4, .rw, 0x7f800000, 0xff8000bf⟩,
  ⟨0x22000, 64, 0x8, 1, 0x4, .rw, 0x100, 0xc000ffff⟩,
  ⟨0x22004, 64, 0x8, 1, 0x4, .ro, 0x0, 0x0⟩]

def qcpRows : List RegRow := [
  ⟨0x10000, 1, 0x4, 1, 0x4, .sq, 0x0, 0x0⟩,
  ⟨0x10004, 1, 0x4, 1, 0x4, .rw, 0x3c000007, 0xff000007⟩,
  ⟨0x10008, 1, 0x4, 1, 0x4, .rw, 0x88b5, 0xffff⟩,
  ⟨0x1000c, 1, 0x4, 1, 0x4, .rw, 0x9678, 0xffff⟩,
  ⟨0x10010, 1, 0x4, 1, 0x4, .rw, 0x0, 0xffffffff⟩,
  ⟨0x10020, 4, 0x4, 1, 0x4, .rw, 0x0, 0xffffffff⟩,
  ⟨0x10030, 1, 0x4, 1, 0x4, .ro, 0x0, 0x0⟩,
  ⟨0x10040, 1, 0x4, 1, 0x4, .rc, 0x0, 0x0⟩,
  ⟨0x10044, 1, 0x4, 1, 0x4, .rc, 0x0, 0x0⟩,
  ⟨0x10048, 1, 0x4, 1, 0x4, .rc, 0x0, 0x0⟩,
  ⟨0x1004c, 1, 0x4, 1, 0x4, .rc, 0x0, 0x0⟩,
  ⟨0x10050, 1, 0x4, 1, 0x4, .rc, 0x0, 0x0⟩,
  ⟨0x10054, 1, 0x4, 1, 0x4, .rc, 0x0, 0x0⟩,
  ⟨0x10058, 1, 0x4, 1, 0x4, .rc, 0x0, 0x0⟩,
  ⟨0x1005c, 1, 0x4, 1, 0x4, .rc, 0x0, 0x0⟩,
  ⟨0x10060, 1, 0x4, 1, 0x4, .rc, 0x0, 0x0⟩,
  ⟨0x10064, 1, 0x4, 1, 0x4, .rc, 0x0, 0x0⟩,
  ⟨0x10068, 1, 0x4, 1, 0x4, .rc, 0x0, 0x0⟩,
  ⟨0x1006c, 1, 0x4, 1, 0x4, .rc, 0x0, 0x0⟩,
  ⟨0x10070, 1, 0x4, 1, 0x4, .rc, 0x0, 0x0⟩,
  ⟨0x10074, 1, 0x4, 1, 0x4, .rc, 0x0, 0x0⟩,
  ⟨0x10078, 1, 0x4, 1, 0x4, .rc, 0x0, 0x0⟩,
  ⟨0x1007c, 1, 0x4, 1, 0x4, .rc, 0x0, 0x0⟩]

def secRows : List RegRow := [
  ⟨0x10000, 1, 0x4, 1, 0x4, .sq, 0x0, 0x0⟩,
  ⟨0x10004, 1, 0x4, 1, 0x4, .ro, 0x0, 0x0⟩,
  ⟨0x10008, 1, 0x4, 1, 0x4, .ro, 0x0, 0x0⟩,
  ⟨0x1000c, 1, 0x4, 1, 0x4, .wo, 0x0, 0x0⟩,
  ⟨0x10010, 1, 0x4, 1, 0x4, .ro, 0x0, 0x0⟩,
  ⟨0x10020, 8, 0x4, 1, 0x4, .ro, 0x0, 0x0⟩,
  ⟨0x10040, 1, 0x4, 1, 0x4, .rc, 0x0, 0x0⟩,
  ⟨0x10044, 1, 0x4, 1, 0x4, .rc, 0x0, 0x0⟩,
  ⟨0x10048, 1, 0x4, 1, 0x4, .rc, 0x0, 0x0⟩,
  ⟨0x1004c, 1, 0x4, 1, 0x4, .rc, 0x0, 0x0⟩]

def pwrRows : List RegRow := [
  ⟨0x10000, 1, 0x4, 1, 0x4, .sq, 0x0, 0x0⟩,
  ⟨0x10004, 1, 0x4, 1, 0x4, .rw, 0x0, 0x3fffffff⟩,
  ⟨0x10008, 1, 0x4, 1, 0x4, .ro, 0x0, 0x0⟩,
  ⟨0x1000c, 1, 0x4, 1, 0x4, .rw, 0x7364, 0xff⟩,
  ⟨0x10010, 1, 0x4, 1, 0x4, .ro, 0x0, 0x0⟩,
  ⟨0x10014, 1, 0x4, 1, 0x4, .ro, 0x0, 0x0⟩,
  ⟨0x10018, 1, 0x4, 1, 0x4, .ro, 0x0, 0x0⟩,
  ⟨0x10020, 1, 0x4, 1, 0x4, .rc, 0x0, 0x0⟩,
  ⟨0x10024, 1, 0x4, 1, 0x4, .rc, 0x0, 0x0⟩,
  ⟨0x10028, 1, 0x4, 1, 0x4, .rc, 0x0, 0x0⟩,
  ⟨0x1002c, 1, 0x4, 1, 0x4, .rc, 0x0, 0x0⟩]

def tlyRows : List RegRow := [
  ⟨0x10000, 1, 0x4, 1, 0x4, .sq, 0x0, 0x0⟩,
  ⟨0x10004, 1, 0x4, 1, 0x4, .ro, 0x0, 0x0⟩,
  ⟨0x10008, 1, 0x4, 1, 0x4, .wo, 0x0, 0x0⟩,
  ⟨0x1000c, 1, 0x4, 1, 0x4, .ro, 0x0, 0x0⟩,
  ⟨0x10010, 1, 0x4, 1, 0x4, .rw, 0x0, 0x80000000⟩,
  ⟨0x10018, 1, 0x4, 1, 0x4, .ro, 0x0, 0x0⟩,
  ⟨0x1001c, 1, 0x4, 1, 0x4, .ro, 0x0, 0x0⟩,
  ⟨0x10020, 1, 0x4, 1, 0x4, .ro, 0x0, 0x0⟩,
  ⟨0x10024, 1, 0x4, 1, 0x4, .rw, 0x0, 0xffffffff⟩,
  ⟨0x10028, 1, 0x4, 1, 0x4, .ro, 0x0, 0x0⟩,
  ⟨0x10030, 1, 0x4, 1, 0x4, .rc, 0x0, 0x0⟩,
  ⟨0x10034, 1, 0x4, 1, 0x4, .rc, 0x0, 0x0⟩,
  ⟨0x10038, 1, 0x4, 1, 0x4, .rc, 0x0, 0x0⟩,
  ⟨0x1003c, 1, 0x4, 1, 0x4, .rc, 0x0, 0x0⟩,
  ⟨0x10040, 16, 0x4, 1, 0x4, .ro, 0x0, 0x0⟩]

end Sys2Proof.Machine
end

