-- ==== Sys2Proof/Model/Boot.lean ====
section
/-! DEFINITION. The state of bring-up, firmware loading, reset boundaries, attestation and recovery (chapters 13, 14 and 15) that registers and
granary tables do not hold. -/

namespace Sys2Proof.Machine

/-- A program record (Table 15.2). -/
structure ProgRec where
  kind : Nat
  job : Nat
  region : Nat
  bytes : Nat
  off : Nat
  digest : List Byte
deriving DecidableEq, Repr

/-- A tensor record (Table 15.3). -/
structure TensorRec where
  job : Nat
  off : Nat
  bytes : Nat
  digest : List Byte
deriving DecidableEq, Repr

/-- What a load target holds of the image most recently sent to it (R506): image code, bytes, CRC-32C of the whole, and the chunks stored. -/
structure LoadTarget where
  image : Nat
  count : Nat
  crc : Nat
  chunks : SMap (List Byte)
deriving DecidableEq, Repr

/-- A load in progress (R507): image code, the image, its targets and the repair rounds run. -/
structure LoadRun where
  image : Nat
  bytes : List Byte
  targets : List Nat
  round : Nat
deriving DecidableEq, Repr

/-- A reset boundary (Table 14.6): when the reset began, the outbound requests outstanding, whether a release is due, and whether the unit's
state has been reset. -/
structure Rst where
  since : Nat
  out : Nat
  release : Bool
  cleared : Bool
deriving DecidableEq, Repr

/-- The outcome of a bring-up action before it is published (R502): action, status, detail. -/
structure Action where
  act : Nat
  status : Status
  detail : Nat
deriving DecidableEq, Repr

/-- A firmware image that passed VERIFY: its header's digest and versions, and its components (R504, R510). -/
structure FwImage where
  digest : List Byte
  version : Nat
  svn : Nat
  reeve : List Byte
  seq : List Byte
  lib : List Byte
deriving DecidableEq, Repr

/-- Bring-up, loads, resets and the attested records. `staged` are the 8 KiB units received, `verified` the image as VERIFY found it; the `fw` fields
are those of the running image. -/
structure Boot where
  running : Option Action
  staged : List Nat
  verified : Option FwImage
  loads : List LoadRun
  targets : SMap LoadTarget
  resets : SMap Rst
  fwDigest : List Byte
  fwVersion : Nat
  fwSvn : Nat
  reeve : List Byte
  programs : List ProgRec
  tensors : List TensorRec
  trace : Bool
  jtag : Bool
deriving DecidableEq, Repr

/-- One job's recovery (chapter 13). `seen` is the SEQ last acted on per rank, `epoch` the highest recovery epoch accepted, `high` the highest
seen, `lead` whose FREEZE was accepted, `failed` its failed set, `frozen` each member's (DONE, mirror step of its failed predecessor),
`adopted` and `filled` the ranks taken and filled with their spares, `replayed` the members' matches, `mine` whether this module adopted a rank
in this recovery, `restores` the blocks restored in a step, `fillBytes` the bytes of a fill that have arrived, and `owed` the addresses of the
blocks that are to be restored before the step runs again. -/
structure RecJob where
  seen : SMap Nat
  sent : Nat
  epoch : Nat
  high : Nat
  lead : Option Nat
  failed : List Nat
  frozen : SMap (Nat × Nat)
  adopting : SMap Nat
  adopted : SMap Nat
  filled : List Nat
  replayed : SMap Bool
  base : Nat
  mine : Bool
  fills : List Nat
  restores : Nat × Nat
  vecFaults : SMap Nat
  fillBytes : Nat
  owed : List Nat
deriving DecidableEq, Repr

def RecJob.init : RecJob := ⟨[], 0, 0, 0, none, [], [], [], [], [], [], 0, false, [], (0, 0), [], 0, []⟩

end Sys2Proof.Machine
end

