-- ==== Sys2Proof/Model/Gleaner.lean ====
section
/-! DEFINITION. The state of the gleaners and of the stack controllers' grants (chapter 07). -/

namespace Sys2Proof.Machine

/-- Run states (GLN_STATE.STATE). -/
inductive GState where
  | idle | ready | running | paused
deriving DecidableEq, Repr

/-- A core's own registers: integer, floating-point, program counter, fcsr and the LR reservation. -/
structure Core where
  x : SMap Word
  f : SMap Nat
  pc : Nat
  fcsr : Nat
  resv : Option Nat
deriving DecidableEq, Repr

/-- The launch registers a started gleaner received (R244), and the gleaners whose positions it adopts (R252). -/
structure Launch where
  entry : Nat
  rank : Nat
  job : Nat
  train : Bool
  arg : Nat
  done : Nat
  step : Nat
  seed : Nat
  adopts : List Nat
deriving DecidableEq, Repr

/-- An open segment (R264): the banks held with the tally time of the take, the gets made, the puts held (offset, 512 bytes, LTAG). -/
structure Segment where
  banks : SMap Nat
  gets : Nat
  puts : List (Nat × List Byte × Nat)
deriving DecidableEq, Repr

/-- The exact accumulator (R260): an integer in units of 2⁻³²⁰ and the flags NaN, +∞ and −∞ seen. -/
structure Exact where
  sum : Int
  nan : Bool
  pinf : Bool
  ninf : Bool
deriving DecidableEq, Repr

/-- Pending conversion counts (R262). -/
structure PendConv where
  amax : Nat
  sat : Nat
  und : Nat
  elems : Nat
deriving DecidableEq, Repr

/-- One gleaner. `failed` says where its last run failed, if it ended with OP_FAILED (R460, R464), and `putFail` that a held put failed as
its segment committed, and how (R255). -/
structure Gleaner where
  run : GState
  core : Core
  imem : SMap (List Byte)
  crcs : SMap Nat
  scratch : List Host.Cell
  csr : SMap Word
  exact' : Exact
  pend : PendConv
  launch : Launch
  opened : Nat
  visits : List Nat
  seg : Option Segment
  grantAt : Option Nat
  giveUp : Bool
  waitFrom : Nat
  failed : Option FailSite
  putFail : Option (Status × FailSite)
deriving DecidableEq, Repr

/-- A gleaner after reset. -/
def Gleaner.init : Gleaner :=
  ⟨.idle, ⟨[], [], 0, 0, none⟩, [], [], [], [], ⟨0, false, false, false⟩, ⟨0, 0, 0, 0⟩, ⟨0, 0, 0, false, 0, 0, 0, 0, []⟩, 0, [], none,
    none, false, 0, none, none⟩

/-- A stack controller's grants: holders in the order granted, the last gleaner granted, and whether the tally die stopped it (R272). -/
structure Grants where
  order : List Nat
  last : Nat
  isOver : Bool
deriving DecidableEq, Repr

structure GlnState where
  gl : SMap Gleaner
  grants : SMap Grants
deriving DecidableEq, Repr

end Sys2Proof.Machine
end

