-- ==== Sys2Proof/Model/Mac.lean ====
section
/-! DEFINITION. The state of the Ethernet MACs of FE0, FE1 and the links (chapter 11) that their registers do not hold. -/

namespace Sys2Proof.Machine

/-- A received frame in a queue: the receive record of Table 11.2 and the frame without its FCS. -/
structure RxFrame where
  wirelen : Nat
  fcsBad : Bool
  trunc : Bool
  tagged : Bool
  group : Bool
  dflt : Bool
  pcp : Nat
  vid : Nat
  filter : Nat
  ttime : Nat
  bytes : List Byte
deriving DecidableEq, Repr

/-- The pause watchdog's measure of one class, or of the whole port (R421): the time gathered, and since when it runs. -/
structure Watch where
  acc : Nat
  since : Option Nat
deriving DecidableEq, Repr

/-- One port. Times are tally time in µs but hold ends, in ps. Key 8 of a per-class map is the whole port. -/
structure MacPort where
  link : Bool
  phy : Nat
  lanes : Nat
  tryC2m : Bool
  tryAt : Nat
  rx : SMap (List RxFrame)
  used : SMap Nat
  tx : SMap (List (List Byte))
  ctl : List (List Byte)
  held : SMap Nat
  watch : SMap Watch
  heldAt : Option Nat
  holdoff : SMap Nat
  pausing : SMap (Nat × Nat)
  abandon : SMap Nat
  truncAt : Option Nat
  qfullAt : SMap Nat
  lpi : Option Nat
  rxLpi : Bool
  wakeEnd : Option Nat
  idleAt : Nat
deriving DecidableEq, Repr

/-- A port after reset (R414, Table 11.4). -/
def MacPort.init : MacPort :=
  ⟨false, 0, 0, false, 0, [], [], [], [], [], [], none, [], [], [], none, [], none, false, none, 0⟩

/-- The MACs, by unit index, the frames they have put on the wire, oldest first, and since when the ports run (R404). -/
structure MacState where
  ports : SMap MacPort
  wire : List (Nat × List Byte)
  began : Nat
deriving DecidableEq, Repr

end Sys2Proof.Machine
end

