-- ==== Sys2Proof/Model/Qcp.lean ====
section
/-! DEFINITION. The state of the QCP engine and of the reeve's command interface (chapters 12 and 15), and of the bring-up sessions
(R500). -/

namespace Sys2Proof.Machine

/-- A flow (R438): the port (0 FE0, 1 FE1, 2 TRA, 3 TRB), the far MAC address, the C-VLAN tag's four bytes or none, and, over UDP, the far
address (4 or 16 bytes) and port. -/
structure Flow where
  port : Nat
  mac : List Byte
  tag : List Byte
  ip : List Byte
  udp : Nat
deriving DecidableEq, Repr

/-- A window over tensor pages (R448). -/
structure Window where
  job : Nat
  base : Nat
  bytes : Nat
deriving DecidableEq, Repr

/-- A session: QCP, or a bring-up session (`ra`) of the tally server (`ring`) or of the front-end server. `rom` marks one the boot ROM
opened. -/
structure Sess where
  id : Nat
  ra : Bool
  ring : Bool
  rom : Bool
  slot : Nat
  pub : List Byte
  kIn : List Byte
  kOut : List Byte
  txSeq : Nat
  rxHigh : Nat
  rxSeen : List Nat
  flow : Flow
  lastAt : Nat
  evSev : Nat
  evBlocks : Nat
  eseq : Nat
  windows : SMap Window
  evWait : List (Nat × List Byte)
deriving DecidableEq, Repr

/-- Who sent a frame: the session, its operator key slot and key, and the flow. -/
structure Who where
  sess : Nat
  slot : Nat
  pub : List Byte
  flow : Flow
deriving DecidableEq, Repr

/-- A held doorbell (R442). -/
structure Bell where
  prod : Nat
  dseq : Nat
  who : Who
  since : Nat
  told : Bool
deriving DecidableEq, Repr

/-- What the QCP engine and the reeve keep of one command queue: the indices that have arrived, the doorbells held, the stretches of entries
each acted doorbell made visible (from, to, who), the completions kept (R446), and the TAG of the last one. -/
structure QueueRun where
  arrived : List Nat
  bells : List Bell
  spans : List (Nat × Nat × Who)
  kept : List (Nat × List Byte)
  lastTag : Nat
deriving DecidableEq, Repr

/-- Where a command stands: taken from its queue, started, waiting for what it set going, finished with a status, its completion not yet sent. -/
inductive CmdPhase where
  | taken | started | waiting
  | finished (s : Status)
deriving DecidableEq, Repr

/-- A command the reeve has taken (R443, R444). `mark` is what a waiting command waits for. -/
structure Cmd where
  queue : Nat
  idx : Nat
  who : Who
  entry : List Byte
  phase : CmdPhase
  bytes : Nat
  digest : List Byte
  ret : List Byte
  mark : Nat
deriving DecidableEq, Repr

/-- A job slot in use (Table 12.9): JSTATE, flags, owner, job identity, digest of the register image, and the steps a STEP command still
asks for: the next one and the last. -/
structure JobSlot where
  jstate : Nat
  train : Bool
  spare : Bool
  owner : List Byte
  ownerSlot : Nat
  jobId : Nat
  image : List Byte
  steps : Option (Nat × Nat)
deriving DecidableEq, Repr

/-- An RA_OPS frame whose entries are being executed (R498): its session, the entries left, the results so far, and since when a POLL polls. -/
structure RaRun where
  sess : Nat
  flow : Flow
  left : List (List Byte)
  results : List (List Byte)
  pollAt : Option Nat
deriving DecidableEq, Repr

/-- The QCP engine and the reeve. `opens` and `raOpens` are the times of recent set-up frames, those of bring-up by server (true for the tally die's); `named` lists (job slot, session) with the latest
first (R449); `totals` are the reeve's counter totals; `toldIn` and `toldOut` are the page requests and exports already sent; `ringIn` are the frames
the tally die took in, with their port. -/
structure Qcp where
  sessions : List Sess
  nextSess : Nat
  opens : List Nat
  raOpens : List (Bool × Nat)
  authEvtAt : Option Nat
  queues : SMap QueueRun
  cmds : List Cmd
  jobs : SMap JobSlot
  eseq : Nat
  named : List (Nat × Nat)
  totals : SMap Nat
  toldIn : List (Nat × Nat × Nat)
  toldOut : List (Nat × Nat × Nat)
  ringIn : List (Nat × List Byte)
  ra : List RaRun
deriving DecidableEq, Repr

end Sys2Proof.Machine
end

