-- ==== Sys2Proof/Model/Block.lean ====
section
/-! DEFINITION. Everything the block holds but its queue of commands. -/

namespace Sys2Proof.Machine

/-- The block: one field per chapter of the spec. -/
structure Block where
  face : Face
  grn : Granary
  til : TileState
  gln : GlnState
  ctx : Ctx
  mac : MacState
  fab : Fabric
  tly : Tally
  trn : Train
  qcp : Qcp
  boot : Boot
  rec' : SMap RecJob
  bbQueue : List BbRec
deriving DecidableEq, Repr

end Sys2Proof.Machine
end

