-- ==== Sys2Proof/Machine/Ops.lean ====
section
/-! DEFINITION. The named operations over units, registers, sequence-cleared status, event rings, health and counters (chapters 00
and 01). Every meaning reads and writes that state through them. -/

namespace Sys2Proof.Machine

/-! ### Units (R17, R26, Table 1.5) -/

def uChip : Nat := 0
def uReeve : Nat := 1
def uTly : Nat := 2
def uPwr : Nat := 3
def uSec : Nat := 4
def uQcp : Nat := 5
def uCtx : Nat := 6
def uTrn : Nat := 7
def uFe (n : Nat) : Nat := 8 + n
def uCol (f : Nat) : Nat := 24 + f
def uTile (t : Nat) : Nat := 64 + t
def uLink (l : Nat) : Nat := 128 + l
def uStack (s : Nat) : Nat := 160 + s
/-- Channel number `32 × channel + stack` (the numbering of GRN_REDIR) to unit index. -/
def uChannel (ch : Nat) : Nat := 512 + 16 * (ch % 32) + ch / 32
/-- Gleaner number `128 × stack + gleaner` to unit index. -/
def uGleaner (g : Nat) : Nat := 4096 + g

/-- The kind of the unit at an index; none for an index Table 1.5 does not assign. -/
def kindOf (u : Nat) : Option UKind :=
  if u = 0 then some .chip else if u = 1 then some .reeve else if u = 2 then some .tly else if u = 3 then some .pwr
  else if u = 4 then some .sec else if u = 5 then some .qcp else if u = 6 then some .ctx else if u = 7 then some .trn
  else if u < 10 then some .fe else if u < 16 then none else if u < 20 then some .field else if u < 24 then some .spine
  else if u < 28 then some .col else if u < 32 then none else if u < 48 then some .quad else if u < 64 then none
  else if u < 128 then some .tile else if u < 152 then some .link else if u < 160 then none else if u < 192 then some .stack
  else if u < 512 then none else if u < 1024 then some .channel else if u < 4096 then none
  else if u < 8192 then some .gleaner else none

/-- The parent of a unit in the shipped tree (Table 1.1). -/
def parentOf (u : Nat) : Option Nat :=
  if u = 0 then none else if u < 10 then some 0 else if u < 16 then none else if u < 20 then some 0
  else if u < 24 then some (16 + (u - 20)) else if u < 28 then some (16 + (u - 24)) else if u < 32 then none
  else if u < 48 then some (16 + (u - 32) / 4) else if u < 64 then none else if u < 128 then some (32 + (u - 64) / 4)
  else if u < 152 then some (16 + (u - 128) / 6) else if u < 160 then none else if u < 192 then some (16 + (u - 160) / 8)
  else if u < 512 then none else if u < 1024 then some (160 + (u - 512) / 16) else if u < 4096 then none
  else if u < 8192 then some (512 + 16 * ((u - 4096) / 128) + (u - 4096) % 128 / 8) else none

/-- The direct members of a unit (Table 1.1). -/
def membersOf (u : Nat) : List Nat := match kindOf u with
  | some .chip => [1, 2, 3, 4, 5, 6, 7, 8, 9, 16, 17, 18, 19]
  | some .field =>
    let f := u - 16
    (List.range 4).map (fun q => 32 + 4 * f + q) ++ [20 + f, 24 + f] ++ (List.range 8).map (fun s => 160 + 8 * f + s) ++
      (List.range 6).map (fun l => 128 + 6 * f + l)
  | some .quad => (List.range 4).map fun t => 64 + 4 * (u - 32) + t
  | some .stack => (List.range 16).map fun c => 512 + 16 * (u - 160) + c
  | some .channel => (List.range 8).map fun j => 4096 + 128 * ((u - 512) / 16) + 8 * ((u - 512) % 16) + j
  | _ => []

/-- The block identifier of a unit (Tables 1.1 and 1.2). -/
def blockIdOf (u : Nat) : Nat := match kindOf u with
  | some .tile => 0x02
  | some .stack | some .channel => 0x07
  | some .gleaner => 0x08
  | some .ctx => 0x09
  | some .trn => 0x0A
  | some .link => 0x0B
  | some .col => 0x0C
  | some .fe => 0x0D
  | some .qcp => 0x0E
  | some .tly => 0x0F
  | some .pwr => 0x10
  | some .sec => 0x11
  | _ => 0x01

/-! ### Registers (R9 to R15) -/

/-- The register rows of a kind of unit, common face first. -/
def rowsOf : UKind → List RegRow
  | .chip => commonRows ++ chipRows
  | .tly => commonRows ++ tlyRows
  | .pwr => commonRows ++ pwrRows
  | .sec => commonRows ++ secRows
  | .qcp => commonRows ++ qcpRows
  | .ctx => commonRows ++ ctxRows
  | .trn => commonRows ++ trnRows
  | .fe => commonRows ++ macRows
  | .col => commonRows ++ colRows
  | .tile => commonRows ++ tileRows
  | .link => commonRows ++ linkRows ++ macRows
  | .stack => commonRows ++ stackRows
  | .channel => commonRows ++ channelRows
  | .gleaner => commonRows ++ gleanerRows
  | _ => commonRows

/-- Does a row hold the offset? -/
def rowHas (r : RegRow) (o : Nat) : Bool :=
  decide (r.off ≤ o) &&
    (let d := o - r.off
     decide (d / r.s1 < r.n1) && decide (d % r.s1 % r.s2 = 0) && decide (d % r.s1 / r.s2 < r.n2))

/-- The harvest registers exist only in S(8f) (R215, R237): offsets 0x1_1000 to 0x1_2FFF of another stack controller are unimplemented. -/
def absentHere (u o : Nat) : Bool :=
  decide (160 ≤ u) && decide (u < 192) && decide ((u - 160) % 8 ≠ 0) && decide (0x11000 ≤ o) && decide (o < 0x13000)

/-- The row of a register; none for an unimplemented offset (R11). -/
def rowAt (u o : Nat) : Option RegRow :=
  if absentHere u o then none
  else match kindOf u with
    | none => none
    | some k => (rowsOf k).find? fun r => rowHas r o

/-- The reset value of a register: the table's, or what the module, the variant or the port fixes (Tables 10.13, 11.4 and 16.8). -/
def resetOf (u o : Nat) : Word :=
  if u = uPwr ∧ o = Off.pwrCap then (if Config.variantAA then 0x1E1903E8 else 0x321905DC)
  else if u = uChip ∧ o = Off.jxlNeg then Config.jxlNeg
  else if o = Off.macAddrLo ∧ (u = 8 ∨ u = 9) then BitVec.ofNat 32 (Config.macAddr u)
  else if o = Off.macAddrHi ∧ (u = 8 ∨ u = 9) then BitVec.ofNat 32 (Config.macAddr u / 2 ^ 32 % 2 ^ 16)
  else match rowAt u o with
    | none => 0
    | some r => BitVec.ofNat 32 r.reset

/-- The number a register is kept under. -/
def regKey (u o : Nat) : Nat := u * 0x10_0000 + o

/-- The value a register holds: the one last written, its reset value where none has been. -/
def getReg (b : Block) (u o : Nat) : Word := (b.face.regs.find (regKey u o)).getD (resetOf u o)

/-- A register as a number. -/
def reg (b : Block) (u o : Nat) : Nat := (getReg b u o).toNat

/-- Set a register's value. -/
def setReg (u o v : Nat) (b : Block) : Block :=
  { b with face := { b.face with regs := b.face.regs.put (regKey u o) (BitVec.ofNat 32 v) } }

/-- The value of a field, of the `i`-th register of an array. -/
def fld (b : Block) (u : Nat) (f : Field) (i : Nat := 0) : Nat := bitsOf (reg b u (f.off + f.stride * i)) f.hi f.lo

/-- Set a field. -/
def setFld (u : Nat) (f : Field) (v : Nat) (b : Block) (i : Nat := 0) : Block :=
  setReg u (f.off + f.stride * i) (withBits (reg b u (f.off + f.stride * i)) f.hi f.lo v) b

/-- Is a one-bit field set? -/
def flag (b : Block) (u : Nat) (f : Field) (i : Nat := 0) : Bool := fld b u f i != 0

/-- The value a plain write leaves in a register: the writable bits from the value, the rest as they were (R10, Table 0.4). -/
def maskedWrite (old v mask : Nat) : Nat := Nat.lor (old - Nat.land old mask) (Nat.land v mask)

/-- The 64-bit number a pair of registers holds, low word at `o`. -/
def pair (b : Block) (u o : Nat) : Nat := reg b u o + 2 ^ 32 * reg b u (o + 4)

/-- A 64-bit counter counts `n` more (R12). -/
def bump (u o n : Nat) (b : Block) : Block :=
  let v := pair b u o + n
  setReg u (o + 4) (v / 2 ^ 32) (setReg u o v b)

/-! ### Free values -/

/-- Take the next free value. -/
def takeFree (b : Block) : Nat × Block :=
  (Config.freeValue b.face.free, { b with face := { b.face with free := b.face.free + 1 } })

/-! ### Sequence-cleared status (R44 to R47) -/

/-- An event sets a bit of an SQ register: SEQ rises by one and becomes the bit's own sequence (R44). -/
def setSq (u : Nat) (f : Field) (b : Block) (i : Nat := 0) : Block :=
  let o := f.off + f.stride * i
  let v := reg b u o
  let seq := (v / 2 ^ 16 + 1) % 2 ^ 16
  let b := setReg u o (seq * 2 ^ 16 + Nat.lor (v % 2 ^ 16) (2 ^ f.lo)) b
  { b with face := { b.face with sqOwn := b.face.sqOwn.put (regKey u o * 16 + f.lo) seq } }

/-- The bits a sequence-cleared write leaves set: bit `i` of the mask clears when its own sequence is not later than `w` (R46). -/
def sqLeft (b : Block) (u o w mask : Nat) : Nat :=
  let v := reg b u o
  let seq := v / 2 ^ 16
  (List.range 16).foldl (fun acc i =>
    let own := b.face.sqOwn.get 0 (regKey u o * 16 + i)
    let keeps := !(bitOf mask i) || decide ((seq + 2 ^ 16 - own) % 2 ^ 16 < (seq + 2 ^ 16 - w) % 2 ^ 16)
    if bitOf v i && keeps then acc + 2 ^ i else acc) 0

/-- A write to an SQ register carries a sequence in [31:16] and a mask in [15:0]; SEQ does not change (R46, R47). -/
def writeSq (u o v : Nat) (b : Block) : Block :=
  setReg u o (reg b u o / 2 ^ 16 * 2 ^ 16 + sqLeft b u o (v / 2 ^ 16) (v % 2 ^ 16)) b

/-! ### The black box's queue (R578 to R580) -/

/-- A record joins the RAM queue; one that finds it full is dropped and counted (R579, R580). -/
def bbPush (r : BbRec) (b : Block) : Block :=
  if b.bbQueue.length < 2048 then { b with bbQueue := b.bbQueue ++ [r] } else bump uTly Off.tlyBbDropLo 1 { b with tly := { b.tly with dropped := b.tly.dropped + 1 } }

/-- A record of KINDs 1 to 9, from the tally die (SOURCE 0xFFFF) or of the unit named. -/
def bbRecord (kind : Nat) (e : Ev) (data : List Byte) (b : Block) : Block :=
  bbPush ⟨fld b uTly Fld.tlyPowerPoweron, evCode e, b.face.time, 0xFFFF, evSeverity e, kind, data⟩ b

/-! ### The training-state engine's jobs -/

def modTrn (f : Train → Train) (b : Block) : Block := { b with trn := f b.trn }
def trnOf (b : Block) (j : Nat) : TrnJob := b.trn.jobs.get TrnJob.init j
def setTrn (j : Nat) (x : TrnJob) (b : Block) : Block := modTrn (fun t => { t with jobs := t.jobs.put j x }) b
def modJob (j : Nat) (f : TrnJob → TrnJob) (b : Block) : Block := setTrn j (f (trnOf b j)) b

/-! ### Event rings (R30, R31) -/

/-- Does a unit's ring have no free slot (R31)? -/
def ringFull (b : Block) (u : Nat) : Bool := decide ((reg b u Off.evtHead % 64 + 64 - reg b u Off.evtTail % 64) % 64 = 63)

/-- The record of an event goes to slot HEAD of the unit's ring and HEAD and RSEQ advance; with the ring full it is dropped and counted in EVT_DROP
and RSEQ, and EVT_LOST is set (R30, R31). -/
def ringPut (u : Nat) (e : Ev) (arg : Nat) (b : Block) : Block :=
  let head := reg b u Off.evtHead % 64
  let rseq := reg b u Off.evtHead / 2 ^ 16
  if ringFull b u then
    setSq u Fld.unitStatusEvtLost (setReg u Off.evtHead ((rseq + 1) % 2 ^ 16 * 2 ^ 16 + head)
      (setReg u Off.evtDrop (reg b u Off.evtDrop + 1) b))
  else
    let c := setReg u Off.evtHead ((rseq + 1) % 2 ^ 16 * 2 ^ 16 + (head + 1) % 64) b
    { c with face := { c.face with
        ring := c.face.ring.put (u * 64 + head) ⟨e, u, rseq, arg % 2 ^ 32, c.face.time % 2 ^ 32⟩ } }

/-- The events the reeve keeps a total of in the SYNC summary (Table 12.9): steps completed, uncorrectable loft words, retrained links. -/
def isCounted (e : Ev) : Bool := match e with
  | .trnStepDone | .lftEccUncorr | .jxlRetrain => true
  | _ => false

/-- Such an event counts as it is raised, also where its ring is full (R456). -/
def countEvent (e : Ev) (b : Block) : Block :=
  if isCounted e then { b with face := { b.face with counts := b.face.counts.put (evCode e) (b.face.counts.get 0 (evCode e) + 1) } } else b

/-- A unit raises an event: its ring takes the record; an event of severity error or fault also joins the black box's queue (R578). -/
def raise (u : Nat) (e : Ev) (arg : Nat) (b : Block) : Block :=
  let c := countEvent e (ringPut u e arg b)
  if 2 ≤ evSeverity e then
    bbPush ⟨fld c uTly Fld.tlyPowerPoweron, evCode e, c.face.time, u, evSeverity e, 0,
      leBytes 4 arg ++ leBytes 2 (reg b u Off.evtHead / 2 ^ 16)⟩ c
  else c

/-- Set a status bit, then raise the event that goes with it. -/
def notify (u : Nat) (f : Field) (e : Ev) (arg : Nat) (b : Block) : Block := raise u e arg (setSq u f b)

/-! ### The tally die keeps its own (R32, R576) -/

/-- An effect outside the tally die leaves the tally store with its counters of limited changes (Table 15.6) and tally time as they were: the tally
die alone writes the store (R576) and keeps the time (R32). -/
def keepTally (f : Block → Block) (b : Block) : Block :=
  let c := f b
  { c with
    tly := { c.tly with store := b.tly.store }
    grn := { c.grn with mapUsed := b.grn.mapUsed }
    face := { c.face with time := b.face.time } }

/-! ### Health (Table 1.7, R28) -/

def hGood : Nat := 0
def hDegraded : Nat := 1
def hInReset : Nat := 2
def hOffline : Nat := 3
def hFailed : Nat := 4

/-- A unit's OWN. -/
def ownOf (b : Block) (u : Nat) : Nat := b.face.own.get 0 u

/-- A unit's WORST: the highest of its OWN and of its members' WORST as they last reached it (R28, R29). -/
def worstOf (b : Block) (u : Nat) : Nat :=
  (membersOf u).foldl (fun w m => max w (b.face.seen.get 0 m)) (ownOf b u)

/-- Set a unit's OWN; becoming FAILED sets UNIT_STATUS.FAULT. -/
def setOwn (u h : Nat) (b : Block) : Block :=
  let was := ownOf b u
  let b := { b with face := { b.face with own := b.face.own.put u h } }
  if h = hFailed ∧ was ≠ hFailed then setSq u Fld.unitStatusFault b else b

/-- OWN becomes DEGRADED if it is GOOD. -/
def degrade (u : Nat) (b : Block) : Block := if ownOf b u = hGood then setOwn u hDegraded b else b

/-- UNIT_SUMMARY as it reads. -/
def unitSummary (b : Block) (u : Nat) : Nat :=
  let ms := membersOf u
  let failed := (ms.filter fun m => decide (3 ≤ b.face.seen.get 0 m)).length
  let degr := (ms.filter fun m => b.face.seen.get 0 m = 1 ∨ b.face.seen.get 0 m = 2).length
  ownOf b u * 2 ^ 28 + worstOf b u * 2 ^ 24 + failed * 2 ^ 16 + degr * 2 ^ 8

/-- UNIT_ID as it reads. -/
def unitId (u : Nat) : Nat :=
  let n := (membersOf u).length
  blockIdOf u * 2 ^ 24 + (if n = 0 then 0 else 2 ^ 23) + n * 2 ^ 16 + u

/-- Is the unit in reset (UNIT_RESET.IN_RESET)? -/
def inReset (b : Block) (u : Nat) : Bool := flag b u Fld.unitResetInReset

/-- Does the unit's reset boundary absorb what arrives (R513)? -/
def absorbing (b : Block) (u : Nat) : Bool := flag b u Fld.unitResetAbsorbing

/-- In D1 and D2 tiles and gleaners do nothing (Table 16.4). -/
def asleep (b : Block) : Bool := fld b uPwr Fld.pwrStateDstate != 0

/-- Does a tile or a gleaner stand still: in reset (R513), or with the module asleep? -/
def unitHeld (b : Block) (u : Nat) : Bool := absorbing b u || asleep b

/-- `n` requests complete with RESET_ABSORBED (R513 step 2). -/
def absorb (n : Nat) (b : Block) : Block := bump uChip Off.sysRstAbsorbedLo n b

/-- The number of a status (Tables 5.3 and 12.6). -/
def statusCode : Status → Nat
  | .ok => 0
  | .badArgument => 1
  | .notPresent => 2
  | .versionFault => 3
  | .opFailed => 4
  | .resetAbsorbed => 5
  | .cancelled => 6
  | .stateConflict => 8
  | .noResource => 9
  | .authFailed => 10
  | .doorbellAhead => 11
  | .busy => 12

/-- Hand out the answer of an access. -/
def answer (s : Status) (v : Nat) (b : Block) : Block :=
  { b with face := { b.face with replies := b.face.replies ++ [⟨s, v⟩] } }

end Sys2Proof.Machine
end

