-- ==== Sys2Proof/Machine/LineCode.lean ====
section
/-! DEFINITION. The code over a granary line (R193, R196, R197): 69 bytes, three check symbols over GF(2⁸), and what a pattern of symbols in error
does. -/

namespace Sys2Proof.Machine

/-- A field element times α, under x⁸ + x⁴ + x³ + x² + 1. -/
def gfDouble (a : Nat) : Nat := if 128 ≤ a then Nat.xor (2 * a) 0x11D else 2 * a

/-- The product of two field elements. -/
def gfMul (a c : Nat) : Nat :=
  ((List.range 8).foldl (fun (acc : Nat × Nat) i => (if bitOf c i then Nat.xor acc.1 acc.2 else acc.1, gfDouble acc.2)) (0, a)).1

/-- The generator with roots α⁰, α¹ and α² is x³ + 7x² + 14x + 8. One step of the division by it. -/
def rsStep (r : Nat × Nat × Nat) (v : Nat) : Nat × Nat × Nat :=
  let f := Nat.xor v r.1
  (Nat.xor r.2.1 (gfMul f 7), Nat.xor r.2.2 (gfMul f 14), gfMul f 8)

/-- The check symbols of bytes 0 to 68; byte 0 is the highest coefficient (log entry 71). -/
def rsCheck (l : List Byte) : List Byte :=
  let r := l.foldl (fun r v => rsStep r v.toNat) (0, 0, 0)
  [r.1, r.2.1, r.2.2].map (BitVec.ofNat 8)

/-- A line as the DRAM holds it (Table 6.2). -/
def lineWord (data : List Byte) (tag : Nat) : List Byte :=
  let l := data ++ leBytes 4 tag ++ [0]
  l ++ rsCheck l

/-- The word's values at α⁰, α¹ and α²: all 0 for a codeword. -/
def syndrome (l : List Byte) : Nat × Nat × Nat :=
  l.foldl (fun s v => (Nat.xor s.1 v.toNat, Nat.xor (gfDouble s.2.1) v.toNat, Nat.xor (gfDouble (gfDouble s.2.2)) v.toNat)) (0, 0, 0)

/-- A poisoned line as the DRAM holds it (R197). -/
def poisonWord : List Byte := (lineWord (List.replicate 64 0) 0).zipIdx.map fun p => if p.2 = 69 ∨ p.2 = 70 then p.1 ^^^ 0xFF else p.1

/-- Is a syndrome that of one symbol in error, at a place of the line? -/
def oneSymbol (s : Nat × Nat × Nat) : Bool :=
  s.1 != 0 && (List.range 72).any fun i =>
    let a := iterate gfDouble (71 - i) 1
    gfMul s.1 a == s.2.1 && gfMul s.2.1 a == s.2.2

/-- The error pattern of symbols struck: the place of each and what it is changed by. -/
def errorWord (errs : List (Nat × Byte)) : List Byte :=
  (List.range 72).map fun i => (errs.filter fun e => e.1 = i).foldl (fun v e => v ^^^ e.2) 0

/-- What a pattern does: nothing, an error the code corrects, the poison pattern, or an error it detects. Three and more symbols that the code would miss
or miscorrect count as detected: no wrong value is read (log entry 71). -/
def errorClass (errs : List (Nat × Byte)) : Option LineMark :=
  let w := errorWord errs
  let n := (w.filter fun v => v != 0).length
  let s := syndrome w
  if n = 0 then none
  else if s = syndrome poisonWord then some .poison
  else if oneSymbol s ∧ n ≤ 2 then some .corr
  else some .uncorr

end Sys2Proof.Machine
end

