-- ==== Sys2Proof/Machine/Memory.lean ====
section
/-! DEFINITION. Memory: the bytes by local address, the interleave (R200, R201), the granary's lines with their tags, marks and channel
bookkeeping (R193 to R198), and the lofts with their shares and check bits (R185, R187). -/

namespace Sys2Proof.Machine

/-! ### Bytes in canonical form -/

/-- What a byte reads as that nothing has written (log entry 1). -/
def blankByte : Byte := 0

/-- The byte a list of cells holds at an address. -/
def cellsGet (m : List Host.Cell) (a : Nat) : Byte := (SMap.find m a).getD blankByte

/-- Set a byte, listing no cell that equals the blank byte. -/
def cellsSet (m : List Host.Cell) (a : Nat) (v : Byte) : List Host.Cell :=
  if v = blankByte then SMap.drop m a else SMap.put m a v

/-- Set the bytes from an address on. -/
def cellsSetAll : List Host.Cell → Nat → List Byte → List Host.Cell
  | m, _, [] => m
  | m, a, v :: r => cellsSetAll (cellsSet m a v) (a + 1) r

/-- The canonical form: addresses strictly rise and no cell equals the blank byte. -/
def Memory.wf (m : List Host.Cell) : Bool := SMap.rising m && m.all fun c => c.2 != blankByte

/-- One byte of the module's memory, by local address. -/
def byteAt (b : Block) (a : Nat) : Byte := cellsGet b.grn.mem a

/-- Bytes from a local address. -/
def bytesAt (b : Block) (a n : Nat) : List Byte := (List.range n).map fun i => byteAt b (a + i)

/-- A little-endian number in memory. -/
def numAt (b : Block) (a n : Nat) : Nat := leNat (bytesAt b a n)

/-- Store bytes at a local address, with no check. -/
def poke (a : Nat) (v : List Byte) (b : Block) : Block := { b with grn := { b.grn with mem := cellsSetAll b.grn.mem a v } }

/-! ### The local address map (Table 1.4) -/

def granarySize : Nat := 0x400_0000_0000
def loftBase (t : Nat) : Nat := 0x1000_0000_0000 + t * 0x200_0000
def loftSize : Nat := 0x200_0000

/-- The regions of Table 1.4. -/
inductive Region where
  | granary
  | loft (t off : Nat)
  | window (u off : Nat)
  | reserved
deriving DecidableEq, Repr

/-- The region of a local address. -/
def regionOf (a : Nat) : Region :=
  if a < granarySize then .granary
  else if a < 0x1000_0000_0000 then .reserved
  else if a < 0x1000_8000_0000 then .loft ((a - 0x1000_0000_0000) / loftSize) ((a - 0x1000_0000_0000) % loftSize)
  else if a < 0x2000_0000_0000 then .reserved
  else if a < 0x2002_0000_0000 then .window ((a - 0x2000_0000_0000) / 0x10_0000) (a % 0x10_0000)
  else .reserved

/-! ### The interleave (R200, R201) -/

/-- Where an offset lies: channel as 32 × channel + stack, the byte offset in the channel, bank, row, column. -/
structure Place where
  ch : Nat
  p : Nat
  bank : Nat
  row : Nat
  col : Nat
deriving DecidableEq, Repr

/-- Bank, row and column of a byte offset in a channel. -/
def placeIn (ch p : Nat) : Place :=
  ⟨ch, p, Nat.xor (p >>> 9) (p >>> 13) % 16, p >>> 15, (p >>> 13) % 4⟩

/-- Is a group stack-local (R200)? -/
def groupLocal (b : Block) (gr : Nat) : Bool :=
  if gr < 32 then bitOf (reg b uChip Off.grnLocalLo) gr else bitOf (reg b uChip Off.grnLocalHi) (gr - 32)

/-- The placement of R201, in a mode. -/
def placeOf (isLocal : Bool) (a : Nat) : Place :=
  let gr := a >>> 36
  if isLocal then
    let stack := (a >>> 31) % 32
    let g := (a >>> 9) % 2 ^ 22
    let x := g >>> 4
    let chan := Nat.xor (Nat.xor (Nat.xor (g % 16) (x % 16)) (Nat.xor ((x >>> 4) % 16) ((x >>> 8) % 16)))
      (Nat.xor ((x >>> 12) % 16) (x >>> 16))
    placeIn (32 * chan + stack) (gr * 2 ^ 27 + x * 2 ^ 9 + a % 512)
  else
    let g := (a >>> 9) % 2 ^ 27
    let x := g >>> 9
    placeIn (Nat.xor (Nat.xor (g % 512) (x % 512)) (x >>> 9)) (gr * 2 ^ 27 + x * 2 ^ 9 + a % 512)

/-- Where an offset's home is before any redirection. -/
def homeOf (b : Block) (a : Nat) : Place := placeOf (groupLocal b (a >>> 36)) a

/-- The retirement of a channel, if it is retired. -/
def retirementOf (b : Block) (ch : Nat) : Option Retired := b.grn.retired.find? fun r => r.ch = ch

/-- Where an offset is served: its home, or slice 63 of its target once a retired home has been re-formed (R233); none while
accesses to its home fail (R232, R234). -/
def servedAt (b : Block) (a : Nat) : Option Place :=
  let h := homeOf b a
  match retirementOf b h.ch with
  | none => if b.grn.chFailed.contains h.ch then none else some h
  | some r =>
    let t := r.targets.getD (a >>> 36) 0
    if r.reformed && (retirementOf b t).isNone && !(b.grn.chFailed.contains t) then
      some (placeIn t (63 * 2 ^ 27 + h.p % 2 ^ 27)) else none

/-- Is the offset redirected to a target's slice? -/
def isRedirected (b : Block) (a : Nat) : Bool := match retirementOf b (homeOf b a).ch with
  | some r => r.reformed
  | none => false

/-! ### Who may access what (R123, R143, R207, R281, R286, R288) -/

/-- The issuer of an access: its unit, the job slot the access carries and whether that job trains; the reeve, the context store and the
training-state engine carry none and are exempt from R286. `program` marks a store a tile's or gleaner's program makes. -/
structure Issuer where
  unit : Nat
  job : Option Nat
  train : Bool
  program : Bool
deriving DecidableEq, Repr

/-- The frame-table base, a granary offset (R281). -/
def frameBase (b : Block) : Nat := reg b uCtx Off.ctxFrameLo + 2 ^ 32 * reg b uCtx Off.ctxFrameHi

/-- The queue-table base (R288). -/
def queueBase (b : Block) : Nat := reg b uCtx Off.ctxQtblLo + 2 ^ 32 * reg b uCtx Off.ctxQtblHi

/-- The mark of a line; a redirected line that was never wholly rewritten reads as poisoned (R233, R234). -/
def markOf (b : Block) (line : Nat) : Option LineMark :=
  match b.grn.marks.find line with
  | some m => some m
  | none => if isRedirected b (64 * line) && (b.grn.rewritten.find line).isNone then some .poison else none

/-- Is the line of group 63, which a retired channel has withdrawn from the address space (R234)? -/
def withdrawn (b : Block) (line : Nat) : Bool := !b.grn.retired.isEmpty && decide (63 * 2 ^ 36 ≤ 64 * line)

/-- Does every read of the line fail: until a whole line is written (R196 to R198), its channel answers (R232), or for good (R234)? -/
def lineFails (b : Block) (line : Nat) : Bool := withdrawn b line || (servedAt b (64 * line)).isNone || (match markOf b line with
  | some .poison => true
  | some .uncorr => true
  | some (.transient n) => decide (2 < n)
  | _ => false)

/-- An entry of a table of the context store; `bad` where its line fails (log entry 67). -/
def tableAt (b : Block) (bad a n : Nat) : Nat := if lineFails b (a / 64) then bad else numAt b a n

/-- A frame's entry (Table 8.1). One that cannot be read stands for a SYSTEM frame, which no job reaches and no list hands out (log entry 67). -/
def frameEntry (b : Block) (f : Nat) : Nat := if frameBase b = 0 then 0 else tableAt b (2 ^ 39) (frameBase b + 8 * f) 8

/-! ### Routes (R375) -/

def ownRank (b : Block) (j : Nat) : Nat := fld b uChip Fld.jxlJobCtrlRank j
def slotValid (b : Block) (j : Nat) : Bool := flag b uChip Fld.jxlJobCtrlValid j

def routeAddr (b : Block) (j r : Nat) : Nat := reg b uChip (Off.jxlJobRtLo j) + 2 ^ 32 * reg b uChip (Off.jxlJobRtHi j) + 8 * (r % 1024)

/-- The route table entry of a rank (Table 10.6); one that cannot be read is not VALID (log entry 67). -/
def routeOf (b : Block) (j r : Nat) : Nat := tableAt b 0 (routeAddr b j r) 8
def rtLinks (e : Nat) : Nat := bitsOf e 23 0
def rtSelf (e : Nat) : Bool := bitOf e 30
def rtWatch (e : Nat) : Bool := bitOf e 29
def rtValid (e : Nat) : Bool := bitOf e 31
def rtVia (e : Nat) : Option Nat := if bitOf e 42 then some (bitsOf e 41 32) else none

/-- Is the rank of a device address no member of the issuer's job (R25, R375)? -/
def farRefused (b : Block) (iss : Issuer) (a : Nat) : Bool := match iss.job with
  | some j => !slotValid b j || !rtValid (routeOf b j (a / 2 ^ 54))
  | none => false

/-- Do two ranges `[a, a + n)` and `[c, c + m)` share a byte? -/
def overlaps (a n c m : Nat) : Bool := decide (a < c + m) && decide (c < a + n) && decide (0 < n) && decide (0 < m)

/-- The scale table of a job slot: base and entries; none while ENABLE is 0 (R114). -/
def scaleTable (b : Block) (j : Nat) : Option (Nat × Nat) :=
  if flag b uTrn Fld.trnSclCtrlEnable j then
    some (reg b uTrn (Off.trnSclBaseLo j) + 2 ^ 32 * reg b uTrn (Off.trnSclBaseHi j), fld b uTrn Fld.trnSclCtrlSize j + 1)
  else none

/-- A frame refuses a job slot's access when it is SYSTEM or OWNED by another slot (R286). -/
def frameRefuses (b : Block) (j f : Nat) : Bool :=
  let e := frameEntry b f
  bitOf e 39 || (bitOf e 35 && bitsOf e 34 32 != j)

/-- Does a tile or a gleaner of some module stand, or may it stand, behind a store: a program's own, or a request the fabric brought, which names no
unit (R143)? -/
def storesAsProgram (iss : Issuer) : Bool := iss.program || iss.unit == uChip

/-- May the issuer reach these granary bytes? (R234, R286; the frame and queue tables are the context store's alone, R281, R288; for stores also R123
and R143.) A collective's or a host DATA frame's write onto a scale table is no program's store and is carried out: DESIGN CHOICE (log entry 65). -/
def granaryAllows (b : Block) (iss : Issuer) (a n : Nat) (store : Bool) : Bool :=
  let frames := (List.range ((a + n - 1) / 2 ^ 21 - a / 2 ^ 21 + 1)).map (· + a / 2 ^ 21)
  decide (a + n ≤ granarySize) &&
  !(!b.grn.retired.isEmpty && decide (63 * 2 ^ 36 < a + n)) &&
  !(iss.unit != uCtx && ((frameBase b != 0 && overlaps a n (frameBase b) (8 * 2 ^ 21)) ||
    (queueBase b != 0 && overlaps a n (queueBase b) (64 * 2 ^ 18)))) &&
  (match iss.job with
   | none => true
   | some j => !(frames.any (frameRefuses b j))) &&
  !(store && storesAsProgram iss && b.til.progRanges.any fun r => overlaps a n r.1 r.2) &&
  !(store && iss.program && (List.range 8).any fun j => match scaleTable b j with
    | some (base, sz) => overlaps a n base (64 * sz)
    | none => false)

/-! ### Lines (R193 to R198, R226, R235) -/

/-- The bank's fail map takes a failing row (R235). Among entries that share the lowest corrected count the first is replaced: DESIGN CHOICE (log entry
77). -/
def failMapAdd (m : List FailEnt) (row : Nat) (uncorr : Bool) : List FailEnt :=
  if m.any (fun e => e.row = row) then
    m.map fun e => if e.row = row then ⟨row, if uncorr then e.corr else min 15 (e.corr + 1), e.uncorr || uncorr⟩ else e
  else
    let new : FailEnt := ⟨row, if uncorr then 0 else 1, uncorr⟩
    if m.length < 16 then m ++ [new]
    else
      let low := (m.filter fun e => !e.uncorr).foldl (fun acc e => match acc with
        | none => some e
        | some x => if e.corr < x.corr then some e else some x) (none : Option FailEnt)
      match low with
      | none => m
      | some x => m.map fun e => if e = x then new else e

/-- A channel records a failing row, and with AUTO requests its repair when the read failed or the row reached REPAIR_TH (R226). -/
def recordRow (pl : Place) (uncorr : Bool) (b : Block) : Block :=
  let key := pl.ch * 16 + pl.bank
  let m := failMapAdd (b.grn.failMap.get [] key) pl.row uncorr
  let b := { b with grn := { b.grn with failMap := b.grn.failMap.put key m } }
  let st := uStack (pl.ch % 32)
  let th := max 1 (fld b st Fld.grnStkCtrlRepairTh)
  let count := match m.find? fun e => e.row = pl.row with
    | some e => e.corr
    | none => 0
  if flag b st Fld.grnStkCtrlAuto && (uncorr || decide (th ≤ count)) &&
      !(b.grn.repairReq.contains (pl.ch, pl.bank, pl.row)) then
    { b with grn := { b.grn with repairReq := b.grn.repairReq ++ [(pl.ch, pl.bank, pl.row)] } }
  else b

/-- The event argument of a channel's line (Table 6.14). -/
def lineArg (pl : Place) : Nat := pl.bank * 2 ^ 28 + pl.row

/-- GRN_CH_LAST_ERR for a line (Table 6.13). -/
def lastErrOf (pl : Place) (poison : Bool) : Nat :=
  b2n poison * 2 ^ 31 + pl.bank * 2 ^ 27 + pl.row * 2 ^ 6 + pl.col * 2 ^ 4 + pl.p % 512 / 64

def setMark (line : Nat) (m : Option LineMark) (b : Block) : Block :=
  { b with grn := { b.grn with marks := match m with
    | some x => b.grn.marks.put line x
    | none => b.grn.marks.drop line } }

/-- An access failed at a line (R464). -/
def noteFail (line : Nat) (b : Block) : Block := { b with grn := { b.grn with failAt := some line } }

/-- An access failed elsewhere than at a line of the granary. -/
def failElsewhere (b : Block) : Block := { b with grn := { b.grn with failAt := none } }

/-- Where the access that failed last failed. -/
def lastFailSite (b : Block) : FailSite := match b.grn.failAt with
  | some l => .line l
  | none => .elsewhere

/-- Read one line's check symbols: does it decode, and what the controller does about it (R195 to R197). -/
def readOne (line : Nat) (b : Block) : Bool × Block :=
  match servedAt b (64 * line) with
  | none => (false, noteFail line b)
  | some pl =>
    let u := uChannel pl.ch
    let corrected (b : Block) : Block :=
      notify u Fld.grnChStatusCorr .grnEccCorr (lineArg pl) (recordRow pl false (bump u Off.grnChCorrLo 1 (setMark line none b)))
    match markOf b line with
    | none => (true, b)
    | some .corr => (true, corrected b)
    | some (.transient n) =>
      if n ≤ 2 then
        (true, corrected b)
      else
        (false, notify u Fld.grnChStatusUncorr .grnEccUncorr (lineArg pl) (recordRow pl true
          (setReg u Off.grnChLastErr (lastErrOf pl false) (bump u Off.grnChUncorrLo 1 (setMark line (some .uncorr) (noteFail line b))))))
    | some .uncorr =>
        (false, notify u Fld.grnChStatusUncorr .grnEccUncorr (lineArg pl) (recordRow pl true
          (setReg u Off.grnChLastErr (lastErrOf pl false) (bump u Off.grnChUncorrLo 1 (noteFail line b)))))
    | some .poison =>
        (false, notify u Fld.grnChStatusPoison .grnPoisonRead (lineArg pl)
          (setReg u Off.grnChLastErr (lastErrOf pl true) (bump u Off.grnChUncorrLo 1 (noteFail line b))))

/-- The stack that reads a line again, if the read does (R196). -/
def rereadAt (b : Block) (line : Nat) : Option Nat := match servedAt b (64 * line), markOf b line with
  | some pl, some (.transient _) => some (pl.ch % 32)
  | some pl, some .uncorr => some (pl.ch % 32)
  | _, _ => none

/-- An access that reads lines again has waited: one wait in each stack controller that did so (cause 4 of Table 6.9, R224). -/
def chargeRereads (ls : List Nat) (b : Block) : Block :=
  (ls.filterMap (rereadAt b)).eraseDups.foldl (fun b s => bump (uStack s) (Off.grnStallEvtLo 4) 1 b) b

/-- An access that reads one line. -/
def readLine (line : Nat) (b : Block) : Bool × Block := readOne line (chargeRereads [line] b)

/-- The lines a byte range touches. -/
def linesOf (a n : Nat) : List Nat := if n = 0 then [] else (List.range ((a + n - 1) / 64 - a / 64 + 1)).map (· + a / 64)

/-- Read every line a range names, even when one fails (R196). -/
def readLines (ls : List Nat) (b : Block) : Bool × Block :=
  ls.foldl (fun acc l => let r := readOne l acc.2; (acc.1 && r.1, r.2)) (true, chargeRereads ls b)

/-- NOT_PRESENT: the issuing unit's ring records the address (R25). -/
def addrFault (iss : Issuer) (a : Nat) (b : Block) : Block := raise iss.unit .sysAddrFault (a % 2 ^ 32) b

/-- The channel an access at an offset goes to: a retired channel's target once it has one (R233). -/
def channelAt (b : Block) (a : Nat) : Nat := ((servedAt b a).getD (homeOf b a)).ch

/-- A granary read that its banks serve now (R196, R203). -/
def serveRead (a n : Nat) (b : Block) : Status × List Byte × Block :=
  let c := if n ≤ 32 ∧ a / 32 = (a + n - 1) / 32 then bump (uChannel (channelAt b a)) Off.grnChNarrowLo 1 b else b
  let r := readLines (linesOf a n) c
  if r.1 then (.ok, bytesAt c a n, r.2) else (.opFailed, [], r.2)

/-- Write the part of one line a write covers, as one action: a part of a line is merged into the line as it reads (R194 to R198, R205). -/
def writeLine (a : Nat) (v : List Byte) (tag : Option Nat) (line : Nat) (b : Block) : Bool × Block :=
  let lo := max a (64 * line)
  let hi := min (a + v.length) (64 * line + 64)
  let part := (v.drop (lo - a)).take (hi - lo)
  match servedAt b (64 * line) with
  | none => (false, noteFail line b)
  | some _ =>
    if hi - lo = 64 then
      let b := setMark line none b
      let b := if isRedirected b (64 * line) then
          { b with grn := { b.grn with rewritten := b.grn.rewritten.put line () } } else b
      let b := { b with grn := { b.grn with ltag := match tag with
        | some t => if t = 0 then b.grn.ltag.drop line else b.grn.ltag.put line t
        | none => b.grn.ltag.drop line } }
      (true, poke lo part b)
    else
      let r := readOne line b
      (r.1, if r.1 then poke lo part r.2 else r.2)

/-- The lines a write covers only in part: those it reads (R198). -/
def partLines (a n : Nat) : List Nat := (linesOf a n).filter fun l => decide (64 * l < a) || decide (a + n < 64 * l + 64)

/-- A granary write that its banks serve now (R194, R198, R205). `tag` is the LTAG the issuer supplies. -/
def serveWrite (a : Nat) (v : List Byte) (tag : Option Nat) (b : Block) : Status × Block :=
  let n := v.length
  let b := if n ≤ 32 ∧ a / 32 = (a + n - 1) / 32 then bump (uChannel (channelAt b a)) Off.grnChNarrowLo 1 b else b
  let r := (linesOf a n).foldl (fun acc l => let r := writeLine a v tag l acc.2; (acc.1 && r.1, r.2)) (true, chargeRereads (partLines a n) b)
  (if r.1 then .ok else .opFailed, r.2)

/-- Write part of an entry of a table: its line is read and written back, corrections counted; a line that fails keeps what it holds (R195, R198). -/
def tablePut (a : Nat) (v : List Byte) (b : Block) : Block := if withdrawn b (a / 64) then b else (serveWrite a v none b).2

def setFrameEntry (f v : Nat) (b : Block) : Block := if frameBase b = 0 then b else tablePut (frameBase b + 8 * f) (leBytes 8 v) b

/-- The line tag of a line. -/
def tagOf (b : Block) (line : Nat) : Nat := b.grn.ltag.get 0 line

/-! ### Lofts (R185, R187) -/

/-- Is a loft range inside a job slot's share on the tile (R185)? -/
def inShare (b : Block) (t j off n : Nat) : Bool :=
  let v := reg b (uTile t) (Off.lftShare j)
  let base := v % 128 * 0x4_0000
  bitOf v 31 && decide (base ≤ off) && decide (off + n ≤ base + bitsOf v 15 8 * 0x4_0000)

/-- Is a loft range one the issuer may reach: inside its job's share, or any for a unit outside every job? -/
def issuerInShare (b : Block) (iss : Issuer) (t off n : Nat) : Bool := match iss.job with
  | some j => inShare b t j off n
  | none => true

/-- The 8-byte words a loft range touches, by local address / 8. -/
def wordsOf (a n : Nat) : List Nat := if n = 0 then [] else (List.range ((a + n - 1) / 8 - a / 8 + 1)).map (· + a / 8)

def setLoftErr (w : Nat) (e : Option Bool) (b : Block) : Block :=
  { b with grn := { b.grn with loftErr := match e with
    | some x => b.grn.loftErr.put w x
    | none => b.grn.loftErr.drop w } }

/-- Read one 8-byte word of a loft: a single-bit error is corrected, counted and written back; a double one fails (R187). -/
def readWord (t w : Nat) (b : Block) : Bool × Block :=
  let off := 8 * w - loftBase t
  match b.grn.loftErr.find w with
  | none => (true, b)
  | some false =>
    (true, notify (uTile t) Fld.lftStatusCorr .lftEccCorr (off / 32 * 32) (bump (uTile t) Off.lftCorrLo 1 (setLoftErr w none b)))
  | some true =>
    (false, notify (uTile t) Fld.lftStatusUncorr .lftEccUncorr (off / 32 * 32)
      (setReg (uTile t) Off.lftUncorrLast (off / 32 * 32) b))

/-- The 8-byte words of the 32-byte granules a loft range touches: a bank serves whole granules (R182, R187). -/
def granuleWords (a n : Nat) : List Nat := if n = 0 then [] else wordsOf (a / 32 * 32) ((a + n + 31) / 32 * 32 - a / 32 * 32)

/-- The loft of a tile is accessed: its LFT_CONFLICT may count (R183). -/
def noteLoft (t : Nat) (b : Block) : Block :=
  { b with grn := { b.grn with loftUsed := if b.grn.loftUsed.contains t then b.grn.loftUsed else t :: b.grn.loftUsed } }

/-- Read a loft range; none where a word of its granules is uncorrectable. -/
def loftRead (t off n : Nat) (b : Block) : Option (List Byte) × Block :=
  let r := (granuleWords (loftBase t + off) n).foldl
    (fun acc w => let r := readWord t w acc.2; (acc.1 && r.1, r.2)) (true, noteLoft t b)
  if r.1 then (some (bytesAt b (loftBase t + off) n), r.2) else (none, failElsewhere r.2)

/-- Does the range cover the whole of a word? -/
def coversWord (a n w : Nat) : Bool := decide (a ≤ 8 * w) && decide (8 * w + 8 ≤ a + n)

/-- Write a loft range: a word wholly covered gets fresh check bits; a granule in which the write covers only part of a word in error
is left unchanged and the write fails (R187). -/
def loftWrite (t off : Nat) (v : List Byte) (b : Block) : Bool × Block :=
  let a := loftBase t + off
  let n := v.length
  let bad := (wordsOf a n).filter fun w => b.grn.loftErr.find w == some true && !coversWord a n w
  let blocked (x : Nat) : Bool := bad.any fun w => w / 4 = x / 32
  let keep := (List.range n).map fun i => if blocked (a + i) then byteAt b (a + i) else v.getD i 0
  let b := (wordsOf a n).foldl (fun b w =>
    if coversWord a n w && !(bad.any fun x => x / 4 = w / 4) then setLoftErr w none b else b) b
  (bad.isEmpty, poke a keep (noteLoft t (if bad.isEmpty then b else failElsewhere b)))

/-! ### Upsets -/

/-- A line that no read decodes stays so until a whole line is written (R198); poison struck by an upset is poison no more. -/
def strikeLine (line : Nat) (m : LineMark) (b : Block) : Block := match markOf b line with
  | some .poison => if m = .uncorr then setMark line (some .uncorr) b else b
  | some .uncorr => b
  | _ => setMark line (some m) b

/-- The outside world brings upsets to memory; symbols struck in a line that has an error already make one no read decodes. -/
def strike (ss : List Strike) (b : Block) : Block :=
  ss.foldl (fun b s => match s with
    | .line a m => strikeLine (a / 64) m b
    | .symbols a es => match errorClass es with
      | some m => strikeLine (a / 64) (if (markOf b (a / 64)).isSome then .uncorr else m) b
      | none => b
    | .word a d => setLoftErr (a / 8) (some d) b) b

end Sys2Proof.Machine
end

