-- ==== Sys2Proof/Machine/Segment.lean ====
section
/-! DEFINITION. Segments (R264 to R268), and the one access path of every unit to the granary and the lofts: an access to a bank that a segment
holds waits for the segment's commit and then sees, or overwrites, what it committed (Table 7.5; log entry 62). -/

namespace Sys2Proof.Machine

/-! ### Gleaners and their grants -/

def glOf (b : Block) (g : Nat) : Gleaner := b.gln.gl.get Gleaner.init g
def setGl (g : Nat) (x : Gleaner) (b : Block) : Block := { b with gln := { b.gln with gl := b.gln.gl.put g x } }
def modGl (g : Nat) (f : Gleaner → Gleaner) (b : Block) : Block := setGl g (f (glOf b g)) b
def grantsOf (b : Block) (s : Nat) : Grants := b.gln.grants.get ⟨[], 127, false⟩ s
def setGrants (s : Nat) (x : Grants) (b : Block) : Block := { b with gln := { b.gln with grants := b.gln.grants.put s x } }

/-- The stack of a gleaner, and the unit of its stack controller. -/
def glStack (g : Nat) : Nat := g / 128
/-- Is a gleaner in service? -/
def glWorks (b : Block) (g : Nat) : Bool := decide (ownOf b (uGleaner g) < hOffline)

def glIssuer (x : Gleaner) (g : Nat) : Issuer := ⟨uGleaner g, some x.launch.job, x.launch.train, true⟩

/-- A gleaner gives its grant up. -/
def dropGrant (g : Nat) (b : Block) : Block :=
  let s := glStack g
  let r := grantsOf b s
  setGrants s { r with order := r.order.filter (· != g) } (modGl g (fun x => { x with grantAt := none, giveUp := false }) b)

/-! ### Segments -/

/-- The channel of a gleaner (R192). -/
def glChannel (g : Nat) : Nat := 32 * (g % 128 / 8) + g / 128

/-- The refreshes of a bank that were postponed are done (R209, R210). -/
def refreshOwed (ch bank : Nat) (b : Block) : Block :=
  let k := ch * 16 + bank
  if b.grn.refPost.get 0 k = 0 then b
  else { b with grn := { b.grn with refPost := b.grn.refPost.put k 0, refDone := b.grn.refDone.put k (b.grn.refDone.get 0 k + b.grn.refPost.get 0 k) } }

/-- A held put is written; one that fails is the gleaner's to answer for (R255). -/
def landPut (g : Nat) (p : Nat × List Byte × Nat) (b : Block) : Block :=
  let x := glOf b g
  let r := if granaryAllows b (glIssuer x g) p.1 p.2.1.length true then serveWrite p.1 p.2.1 (some p.2.2) b
    else (.notPresent, failElsewhere (addrFault (glIssuer x g) p.1 b))
  if r.1 = .ok then r.2 else modGl g (fun y => { y with putFail := some (y.putFail.getD (r.1, lastFailSite r.2)) }) r.2

/-- Commit the open segment: its puts land as one action, its banks are released, and a refresh that fell due meanwhile runs (Table 7.5); a grant to be
given up goes (R264, R265, R270). A put that fails ends the run as the gleaner goes on (R255, log entry 62). -/
def commit (g : Nat) (forced : Bool) (b : Block) : Block :=
  let x := glOf b g
  match x.seg with
  | none => b
  | some sg =>
    let b := sg.puts.foldl (fun b p => landPut g p b) b
    let b := sg.banks.foldl (fun b k => refreshOwed (glChannel g) k.1 b) b
    let b := bump (uGleaner g) Off.glnSegsLo 1 b
    let b := if forced then bump (uGleaner g) Off.glnForcedLo 1 b else b
    let b := modGl g (fun y => { y with seg := none }) b
    if x.giveUp then modGl g (fun y => { y with run := .paused, waitFrom := b.face.time }) (dropGrant g b) else b

/-- The gleaner of a bank of a channel (R192). -/
def bankGleaner (ch bank : Nat) : Nat := 128 * (ch % 32) + 8 * (ch / 32) + bank / 2

/-- The gleaner that serves the bank of a place (R192, R251). -/
def gleanerAt (pl : Place) : Nat := bankGleaner pl.ch pl.bank

/-- Does a bank's gleaner hold it in its open segment? -/
def bankHeld (b : Block) (g bank : Nat) : Bool := match (glOf b g).seg with
  | some sg => (sg.banks.find bank).isSome
  | none => false

/-- What meets a bank waits until the segment that holds it has committed (R266, R268). -/
def releaseBank (ch bank : Nat) (b : Block) : Block := if bankHeld b (bankGleaner ch bank) bank then commit (bankGleaner ch bank) true b else b

/-- Every bank of a channel is released. -/
def releaseChannel (ch : Nat) (b : Block) : Block := (List.range 16).foldl (fun b k => releaseBank ch k b) b

/-- Is any segment open? -/
def anySegment (b : Block) : Bool := b.gln.gl.any fun p => p.2.seg.isSome

/-- The banks an access touches are released. -/
def releaseBanks (a n : Nat) (b : Block) : Block :=
  if !anySegment b then b
  else (linesOf a n).foldl (fun b l => match servedAt b (64 * l) with
    | none => b
    | some pl => releaseBank pl.ch pl.bank b) b

/-! ### Accesses to the granary -/

/-- A granary read (R196, R203, R286). -/
def granaryRead (iss : Issuer) (a n : Nat) (b : Block) : Status × List Byte × Block :=
  if !granaryAllows b iss a n false then (.notPresent, [], addrFault iss a b) else serveRead a n (releaseBanks a n b)

/-- A read by the gleaner whose segment holds the bank. -/
def bankRead (iss : Issuer) (a n : Nat) (b : Block) : Status × List Byte × Block :=
  if !granaryAllows b iss a n false then (.notPresent, [], addrFault iss a b) else serveRead a n b

/-- A unit reads the structures it works by, one range after the other: the status of the first range that fails (R195 to R197, R232, R234). -/
def touchRanges (u : Nat) (rs : List (Nat × Nat)) (b : Block) : Status × Block :=
  rs.foldl (fun acc r => let x := granaryRead ⟨u, none, false, false⟩ r.1 r.2 acc.2; (if acc.1 = .ok then x.1 else acc.1, x.2.2)) (.ok, b)

/-- A granary write (R194, R198, R205, R286; R123 and R143 for programs). `tag` is the LTAG the issuer supplies. -/
def granaryWrite (iss : Issuer) (a : Nat) (v : List Byte) (tag : Option Nat) (b : Block) : Status × Block :=
  if v.length = 0 then (.ok, b)
  else if !granaryAllows b iss a v.length true then (.notPresent, addrFault iss a b)
  else serveWrite a v tag (releaseBanks a v.length b)

/-! ### One access path by device address (R23 to R25) -/

/-- The rank a job slot's accesses are issued under (R24): JXL_JOB_CTRL.RANK of the slot, 0 outside any job. -/
def rankOf (b : Block) (job : Option Nat) : Nat := match job with
  | some j => fld b uChip Fld.jxlJobCtrlRank j
  | none => 0

/-- The answer of a peer for a range, from the inputs; a request that no peer answers ends with OP_FAILED after its sends (R370). -/
def peerAnswer (ps : List Peer) (a n : Nat) : Status × List Byte :=
  match ps.find? fun p => decide (p.addr ≤ a) && decide (a + n ≤ p.addr + p.bytes.length) with
  | some p => if p.status = .ok then (.ok, (p.bytes.drop (a - p.addr)).take n) else (p.status, [])
  | none => match ps.find? fun p => p.addr = a with
    | some p => (p.status, [])
    | none => (.opFailed, [])

/-- An access to another module is handed to the fabric. -/
def noteFar (x : FarAccess) (b : Block) : Block := { b with til := { b.til with far := b.til.far ++ [x] } }

/-- What the answer of a peer leaves: NOT_PRESENT is recorded (R25), and a failure is none of a local line. -/
def farEnd (iss : Issuer) (a : Nat) (s : Status) (b : Block) : Block :=
  if s = .notPresent then addrFault iss a b else if s = .ok then b else failElsewhere b

/-- What an access of this path that names a register window meets: at a unit that exists it fails with BAD_ARGUMENT (R9); a DMA or harvest engine gets
NOT_PRESENT (R179, R221), and so does an access to a window of no unit (R25). An access of a collectives engine that is the aligned four bytes of a
register, which R9 does not exclude, fails so too: DESIGN CHOICE (log entry 63). -/
def windowAccess (iss : Issuer) (a u : Nat) (b : Block) : Status × Block :=
  if (kindOf u).isSome && kindOf iss.unit != some .tile && kindOf iss.unit != some .stack then (.badArgument, b) else (.notPresent, addrFault iss a b)

/-- Is a range that starts in a loft of this module inside the job's share there? A range elsewhere is not tested here. -/
def loftRangeOk (b : Block) (j : Nat) (a n : Nat) : Bool :=
  if 2 ^ 64 ≤ a ∨ a / 2 ^ 54 ≠ rankOf b (some j) then true
  else match regionOf (a % 2 ^ 54) with
    | .loft t off => inShare b t j off n
    | _ => true

/-- A read by device address. One of another module is handed to the fabric, which sends it as a request (FABRIC_REQUEST_SEND); its completion is the
command's input (log entry 73). -/
def devRead (iss : Issuer) (ps : List Peer) (a n : Nat) (b : Block) : Status × List Byte × Block :=
  if a ≥ 2 ^ 64 then (.notPresent, [], addrFault iss a b)
  else if a / 2 ^ 54 ≠ rankOf b iss.job then
    if farRefused b iss a then (.notPresent, [], addrFault iss a b) else
    let r := peerAnswer ps a n
    (r.1, r.2, farEnd iss a r.1 (noteFar ⟨iss.unit, iss.job, a, 2, 0, n, [], none⟩ b))
  else match regionOf (a % 2 ^ 54) with
    | .granary => granaryRead iss (a % 2 ^ 54) n b
    | .loft t off =>
      if absorbing b (uTile t) then (.resetAbsorbed, [], absorb 1 b)
      else if decide (off + n ≤ loftSize) && issuerInShare b iss t off n then
        match loftRead t off n b with
        | (some v, b) => (.ok, v, b)
        | (none, b) => (.opFailed, [], b)
      else (.notPresent, [], addrFault iss a b)
    | .window u _ => let r := windowAccess iss a u b; (r.1, [], r.2)
    | .reserved => (.notPresent, [], addrFault iss a b)

/-- A write by device address; a write to another module is handed to the fabric and ends as its peer answers. -/
def devWrite (iss : Issuer) (ps : List Peer) (a : Nat) (v : List Byte) (tag : Option Nat) (b : Block) : Status × Block :=
  if a ≥ 2 ^ 64 then (.notPresent, addrFault iss a b)
  else if a / 2 ^ 54 ≠ rankOf b iss.job then
    if farRefused b iss a then (.notPresent, addrFault iss a b) else
    let s := (peerAnswer ps a 0).1
    (s, farEnd iss a s (noteFar ⟨iss.unit, iss.job, a, 1, 0, v.length, v, tag⟩ b))
  else match regionOf (a % 2 ^ 54) with
    | .granary => granaryWrite iss (a % 2 ^ 54) v tag b
    | .loft t off =>
      if absorbing b (uTile t) then (.resetAbsorbed, absorb 1 b)
      else if decide (off + v.length ≤ loftSize) && issuerInShare b iss t off v.length then
        let r := loftWrite t off v b
        (if r.1 then .ok else .opFailed, r.2)
      else (.notPresent, addrFault iss a b)
    | .window u _ => windowAccess iss a u b
    | .reserved => (.notPresent, addrFault iss a b)

end Sys2Proof.Machine
end

