-- ==== Sys2Proof/Machine/Atomic.lean ====
section
/-! DEFINITION. Memory-side atomics (R206 to R208, Table 6.4). -/

namespace Sys2Proof.Machine

/-- Operand bytes of an atomic (Table 6.4); none for a reserved code. -/
def atomicSize : Nat → Option Nat
  | 0x01 | 0x03 | 0x05 | 0x06 | 0x07 | 0x08 | 0x0D | 0x0E => some 4
  | 0x02 | 0x09 | 0x0A | 0x0B | 0x0C | 0x0F => some 8
  | 0x04 => some 2
  | _ => none

/-- A two's-complement number of `bits` bits. -/
def signedOf (bits v : Nat) : Int := if v < 2 ^ (bits - 1) then (v : Int) else (v : Int) - 2 ^ bits

/-- The result an atomic stores, from the old value, the operand and the comparand (Table 6.4). -/
def atomicResult (code old v cmp : Nat) : Nat := match code with
  | 0x01 => (old + v) % 2 ^ 32
  | 0x02 => (old + v) % 2 ^ 64
  | 0x03 => f32Add old v
  | 0x04 => (convert fmtBf16 true .nearest (fadd (decodeFmt fmtBf16 old) (decodeFmt fmtBf16 v))).code
  | 0x05 => if signedOf 32 old < signedOf 32 v then v else old
  | 0x06 => if signedOf 32 v < signedOf 32 old then v else old
  | 0x07 => max old v
  | 0x08 => min old v
  | 0x09 => if signedOf 64 old < signedOf 64 v then v else old
  | 0x0A => if signedOf 64 v < signedOf 64 old then v else old
  | 0x0B => max old v
  | 0x0C => min old v
  | 0x0D => if f32 old = .nan ∨ f32 v = .nan then nan32 else toF32 (fmaxV (f32 old) (f32 v))
  | 0x0E => if f32 old = .nan ∨ f32 v = .nan then nan32 else toF32 (fminV (f32 old) (f32 v))
  | 0x0F => if old = cmp then v else old
  | _ => old

/-- An atomic at a granary offset: status, old value (R206, R207, R198). -/
def granaryAtomic (iss : Issuer) (code a v cmp : Nat) (b : Block) : Status × Nat × Block :=
  match atomicSize code with
  | none => (.badArgument, 0, b)
  | some n =>
    if a % n ≠ 0 then (.badArgument, 0, b)
    else if (code = 0x03 ∨ code = 0x04) ∧ iss.train then
      (.badArgument, 0, notify (uChannel (channelAt b a)) Fld.grnChStatusAtomicReject .grnAtomicReject
        (iss.unit * 2 ^ 16 + iss.job.getD 0 * 2 ^ 8 + code) b)
    else if !granaryAllows b iss a n true then (.notPresent, 0, addrFault iss a b)
    else
      let b := releaseBanks a n b
      let u := uChannel (channelAt b a)
      let r := readLine (a / 64) (bump u Off.grnChNarrowLo 1 b)
      if r.1 then
        let old := numAt r.2 a n
        (.ok, old, bump u Off.grnChAtomicLo 1 (poke a (leBytes n (atomicResult code old (v % 2 ^ (8 * n)) cmp)) r.2))
      else (.opFailed, 0, r.2)

/-- A unit of the engines writes bytes: whole lines lose their tag and their error mark (R194, R198), and the tables of the context store are refused
(R281, R288). -/
def engineWrite (u a : Nat) (v : List Byte) (b : Block) : Status × Block := granaryWrite ⟨u, none, false, false⟩ a v none b

/-- An atomic by device address: local granary addresses only name a channel controller; a remote one goes to the fabric. One at an existing unit's
register window, aligned to four bytes or not, fails with BAD_ARGUMENT: DESIGN CHOICE (log entry 63). -/
def devAtomic (iss : Issuer) (ps : List Peer) (code a v cmp : Nat) (b : Block) : Status × Nat × Block :=
  if a ≥ 2 ^ 64 then (.notPresent, 0, addrFault iss a b)
  else if a / 2 ^ 54 ≠ rankOf b iss.job then
    if farRefused b iss a then (.notPresent, 0, addrFault iss a b) else
    let n := (atomicSize code).getD 0
    let b := noteFar ⟨iss.unit, iss.job, a, 3, code, n, leBytes n v ++ (if code = 0x0F then leBytes n cmp else []), none⟩ b
    match ps.find? fun p => p.addr = a with
    | some p => (p.status, leNat p.bytes, farEnd iss a p.status b)
    | none => (.opFailed, 0, failElsewhere b)
  else match regionOf (a % 2 ^ 54) with
    | .granary => granaryAtomic iss code (a % 2 ^ 54) v cmp b
    | .window u _ => if (kindOf u).isSome then (.badArgument, 0, b) else (.notPresent, 0, addrFault iss a b)
    | _ => (.notPresent, 0, addrFault iss a b)

end Sys2Proof.Machine
end

