-- ==== Sys2Proof/Machine/TileCore.lean ====
section
/-! DEFINITION. A tile's sequencer (chapter 05): descriptors, loops, the window, tokens, starting and completing operations, stream faults. -/

namespace Sys2Proof.Machine

/-! ### Tiles and their job -/

def tileOf (b : Block) (t : Nat) : Tile := b.til.tiles.get Tile.init t
def setTile (t : Nat) (x : Tile) (b : Block) : Block := { b with til := { b.til with tiles := b.til.tiles.put t x } }
def modTile (t : Nat) (f : Tile → Tile) (b : Block) : Block := setTile t (f (tileOf b t)) b

/-- Does the job slot train (CTX_JOB_CTRL.TRAIN)? -/
def slotTrains (b : Block) (j : Nat) : Bool := flag b uCtx Fld.ctxJobCtrlTrain j

/-- The job slot a tile is bound to. -/
def tileJob (b : Block) (t : Nat) : Option Nat :=
  if flag b (uTile t) Fld.tilIdentBound then some (fld b (uTile t) Fld.tilIdentJob) else none

/-- The issuer of a tile's accesses (R207). -/
def tileIssuer (b : Block) (t : Nat) : Issuer :=
  ⟨uTile t, some (fld b (uTile t) Fld.tilIdentJob), slotTrains b (fld b (uTile t) Fld.tilIdentJob), true⟩

/-- The code of a stream state (Table 5.1). -/
def streamCode : StreamState → Nat
  | .idle => 0
  | .running => 1
  | .stopping => 2
  | .ended => 3
  | .faulted => 4
  | .suspended => 5

/-- TIL_STREAM as it reads. -/
def tilStream (b : Block) (t : Nat) : Nat :=
  let x := tileOf b t
  streamCode x.stream * 2 ^ 29 + x.issued % 1024 * 2 ^ 16 + x.ops.length

/-- TIL_TOKEN as it reads. -/
def tilToken (b : Block) (t : Nat) : Nat :=
  let i := fld b (uTile t) Fld.tilTokenIndex
  (tileOf b t).tokens.get 0 i * 2 ^ 16 + i

/-! ### The common header (Table 5.2) -/

def dByte (d : List Byte) (i : Nat) : Nat := (d.getD i 0).toNat
def dClass (d : List Byte) : Nat := dByte d 0
def dOrdered (d : List Byte) : Bool := bitOf (dByte d 1) 0
def dWait (d : List Byte) : Bool := bitOf (dByte d 1) 1
def dSignal (d : List Byte) : Bool := bitOf (dByte d 1) 2
def dRemote (d : List Byte) : Bool := bitOf (dByte d 1) 3
def dEvt (d : List Byte) : Bool := bitOf (dByte d 1) 4
def dWaitTok (d : List Byte) : Nat := dByte d 2
def dWaitCnt (d : List Byte) : Nat := dByte d 3
def dSigTok (d : List Byte) : Nat := dByte d 4
def dSigTile (d : List Byte) : Nat := dByte d 5 % 64
def dTag (d : List Byte) : Nat := leAt d 6 2
/-- Byte 8: COP, TOP, VOP or DOP. -/
def dOp (d : List Byte) : Nat := dByte d 8

/-- A TIL_LMAP entry: the global tile of a logical tile. -/
def lmap (b : Block) (t i : Nat) : Option Nat :=
  let w := reg b (uTile t) (Off.tilLmap (i / 4))
  if bitOf w (8 * (i % 4) + 7) then some (bitsOf w (8 * (i % 4) + 5) (8 * (i % 4))) else none

/-- A header that makes its operation complete with BAD_ARGUMENT (text below Table 5.2). -/
def headerBad (b : Block) (t : Nat) (d : List Byte) : Bool :=
  decide (4 < dClass d) || decide (32 ≤ dByte d 1) || decide (64 ≤ dByte d 5) || (dWait d && dWaitCnt d == 0) ||
    (dRemote d && (lmap b t (dSigTile d)).isNone)

/-- The unit queue of a descriptor (R150); one with a reserved CLASS waits in the control queue for its BAD_ARGUMENT (log entry 66). -/
def queueOf (d : List Byte) : Nat := match dClass d with
  | 1 => if dOp d = 1 then 1 else 2
  | 2 => 3
  | 3 => 4
  | 4 => 5
  | _ => 0

/-- The operation codes a class defines (Tables 3.4, 5.4, 5.7 and 5.9). -/
def opDefined (d : List Byte) : Bool := match dClass d with
  | 0 => decide (dOp d ≤ 4)
  | 1 => decide (dOp d ≤ 3)
  | 2 => (decide (0x01 ≤ dOp d) && decide (dOp d ≤ 0x0C)) || (decide (0x10 ≤ dOp d) && decide (dOp d ≤ 0x1C)) ||
         (decide (0x20 ≤ dOp d) && decide (dOp d ≤ 0x24)) || (decide (0x30 ≤ dOp d) && decide (dOp d ≤ 0x32))
  | 3 => decide (dOp d ≤ 4)
  | 4 => decide (dOp d ≤ 4)
  | _ => false

/-- Is the descriptor a control operation with this COP? -/
def isCop (d : List Byte) (c : Nat) : Bool := dClass d == 0 && dOp d == c

/-! ### The window (R149 to R152) -/

def Op.isDone (o : Op) : Bool := match o.phase with
  | .completed _ => true
  | _ => false

def Op.isWaiting (o : Op) : Bool := o.phase == .waiting
def Op.isStarted (o : Op) : Bool := o.phase == .started

/-- Slots are released in issue order: the completed operations at the front leave the window. -/
def releaseSlots : List Op → List Op
  | [] => []
  | o :: r => if o.isDone then releaseSlots r else o :: r

/-- Change the operation with issue number `k`. -/
def modOp (t k : Nat) (f : Op → Op) (b : Block) : Block :=
  modTile t (fun x => { x with ops := x.ops.map fun o => if o.k = k then f o else o }) b

/-- The operation in a window slot. -/
def opInSlot (b : Block) (t w : Nat) : Option Op := (tileOf b t).ops.find? fun o => o.k % 1024 == w

/-- Set an operation's phase. -/
def setPhase (t k : Nat) (p : OpPhase) (b : Block) : Block := modOp t k (fun o => { o with phase := p }) b

/-- The access that failed last is the one that failed operation `k`. -/
def noteOpFail (t k : Nat) (b : Block) : Block := modTile t (fun x => { x with failed := x.failed.put k (lastFailSite b) }) b

/-- The unit has done an operation's work. -/
def finishOp (t k : Nat) (s : Status) (b : Block) : Block := setPhase t k (.finished s) (if s = .opFailed then noteOpFail t k b else b)

/-! ### Stream faults (R148, R161) -/

/-- TIL_FAULT for an operation's status. -/
def faultWord (s : Status) (cls wslot tag : Nat) : Nat :=
  statusCode s * 2 ^ 29 + cls % 8 * 2 ^ 26 + wslot % 1024 * 2 ^ 16 + tag

/-- Record a status other than OK: TIL_FAULT keeps the stream's first. -/
def recordFault (t : Nat) (s : Status) (cls wslot tag : Nat) (b : Block) : Block :=
  if reg b (uTile t) Off.tilFault = 0 then setReg (uTile t) Off.tilFault (faultWord s cls wslot tag) b else b

/-- An operation's completion counts, and raises TIL_OP_DONE when its EVT is 1. -/
def countCompletion (t : Nat) (o : Op) (b : Block) : Block :=
  let b := bump (uTile t) Off.tilOpsLo 1 b
  if dEvt o.desc then raise (uTile t) .tilOpDone (o.k % 1024 * 2 ^ 16 + dTag o.desc) b else b

/-- Every issued operation that has not started completes with CANCELLED. -/
def cancelWaiting (t : Nat) (b : Block) : Block :=
  let ws := (tileOf b t).ops.filter Op.isWaiting
  let b := ws.foldl (fun b o => countCompletion t o
    (recordFault t .cancelled (dClass o.desc) o.k (dTag o.desc) (setPhase t o.k (.completed .cancelled) b))) b
  modTile t (fun x => { x with ops := releaseSlots x.ops }) b

/-- The stream faults: a RUNNING stream becomes FAULTED and what has not started is cancelled (R161, Table 5.1). TIL_FAULT is recorded in every state of
the stream, for a token overflow too (R156; log entry 66). -/
def streamFault (t : Nat) (s : Status) (cls wslot tag : Nat) (b : Block) : Block :=
  let b := recordFault t s cls wslot tag b
  if (tileOf b t).stream = .running then
    cancelWaiting t (setSq (uTile t) Fld.tilStatusFaulted
      (modTile t (fun x => { x with stream := .faulted, faultTold := false }) b))
  else b

/-! ### Tokens (R153 to R158) -/

/-- A token rises by one, or saturates and faults the stream (R156). -/
def tokenUp (t tok : Nat) (b : Block) : Block :=
  let n := (tileOf b t).tokens.get 0 tok
  if n < 65535 then modTile t (fun x => { x with tokens := x.tokens.put tok (n + 1) }) b
  else streamFault t .opFailed 0 (tileOf b t).issued 0 (notify (uTile t) Fld.tilStatusTokenOvf .tilTokenOvf tok b)

def clearTokens (t : Nat) (b : Block) : Block := modTile t (fun x => { x with tokens := [] }) b

/-- The token signal of an OK completion (R155). -/
def sendSignal (t : Nat) (d : List Byte) (b : Block) : Block :=
  if !dSignal d then b
  else if dRemote d then
    match lmap b t (dSigTile d) with
    | some dst => { b with til := { b.til with
        signals := b.til.signals ++ [(dst, ⟨dSigTok d, fld b (uTile t) Fld.tilIdentJob, uTile t⟩)] } }
    | none => b
  else tokenUp t (dSigTok d) b

/-! ### Issue (R142, R144, R149, R163 to R165) -/

def progBase (b : Block) (t : Nat) : Nat := reg b (uTile t) Off.tilProgLo + 2 ^ 32 * reg b (uTile t) Off.tilProgHi

/-- The program's descriptor at an index, as memory holds it. -/
def progDesc (b : Block) (t i : Nat) : List Byte := bytesAt b (progBase b t + 64 * i) 64

/-- Add to the little-endian word at a byte offset (R164). -/
def addWord (d : List Byte) (off v : Nat) : List Byte :=
  d.take off ++ leBytes 4 ((leAt d off 4 + v) % 2 ^ 32) ++ d.drop (off + 4)

/-- A descriptor with the patches of every enclosing loop (R164). -/
def patched (loops : List LoopFrame) (pc : Nat) (d : List Byte) : List Byte :=
  loops.foldl (fun d l => l.patches.foldl (fun d p => if l.first + p.1 = pc then addWord d p.2.1 (l.i * p.2.2) else d) d) d

/-- The patches of a LOOP descriptor in use (Table 5.5). -/
def loopPatches (d : List Byte) : List (Nat × Nat × Nat) :=
  (List.range (min (dByte d 10) 6)).map fun p => (dByte d (16 + 8 * p), dByte d (17 + 8 * p), leAt d (20 + 8 * p) 4)

/-- Does a LOOP fault the stream (R165)? The reserved bytes of a patch slot at or above NPATCH are not tested: DESIGN CHOICE (log entry 66). -/
def loopBad (b : Block) (t : Nat) (x : Tile) (d : List Byte) : Bool :=
  let body := dByte d 9
  let n := dByte d 10
  let cnt := leAt d 12 4
  let first := x.pc + 1
  decide (dByte d 11 ≠ 0) || decide (2 ^ 24 < cnt) || decide (cnt = 0) || decide (body = 0) || decide (64 < body) || decide (6 < n) ||
    ((List.range (min n 6)).any fun p =>
      leAt d (18 + 8 * p) 2 != 0 || decide (body ≤ dByte d (16 + 8 * p)) ||
      (let f := dByte d (17 + 8 * p); decide (f % 4 ≠ 0) || decide (f < 8) || decide (60 < f))) ||
    ((List.range body).any fun i => isCop (progDesc b t (first + i)) 1) ||
    (match x.loops with
     | [] => false
     | l :: _ => decide (l.first + l.body < first + body)) ||
    decide (3 ≤ x.loops.length)

/-- After the descriptor at `pc`, step to the next, turning or leaving loops. -/
def advance : Nat → Nat → List LoopFrame → Nat × List LoopFrame
  | 0, pc, ls => (pc, ls)
  | _, pc, [] => (pc, [])
  | n + 1, pc, l :: r =>
    if pc = l.first + l.body then
      if l.i + 1 < l.count then (l.first, { l with i := l.i + 1 } :: r) else advance n pc r
    else (pc, l :: r)

/-- The descriptor the sequencer would take next, with its patches; none beyond TIL_PROG_LEN. -/
def nextDesc (b : Block) (t : Nat) : Option (List Byte) :=
  let x := tileOf b t
  if x.pc < fld b (uTile t) Fld.tilProgLenLen then some (patched x.loops x.pc (progDesc b t x.pc)) else none

/-- May the sequencer issue? The stream runs, no END has issued, no FENCE is open (Table 5.4, R146). -/
def mayIssue (x : Tile) : Bool :=
  x.stream == .running && !x.lockstep && !x.endIssued && !(x.ops.any fun o => isCop o.desc 3 && !o.isDone)

/-- Enter a LOOP at the sequencer (R164), or fault the stream (R165). A LOOP's header is checked as every header is (R147); its ORDERED, WAIT, SIGNAL and
EVT, when they are legal, have no effect, and a nested LOOP is tested when the sequencer reaches it (log entry 66). -/
def openLoop (t : Nat) (b : Block) : Block :=
  let x := tileOf b t
  match nextDesc b t with
  | none => b
  | some d =>
    if mayIssue x && isCop d 2 then
      if headerBad b t d || loopBad b t x d then streamFault t .badArgument 0 x.issued (dTag d) b
      else setTile t { x with pc := x.pc + 1, loops := ⟨x.pc + 1, dByte d 9, leAt d 12 4, 0, loopPatches d⟩ :: x.loops } b
    else b

/-- Issue the next operation into its window slot once that slot is free (R149). LOOPs before it take no step (R144). A stream fault that belongs to no
operation is recorded with CLASS 0, the slot the next operation would take, and TAG 0 or the LOOP's (log entry 66). -/
def issueNext (t : Nat) (b : Block) : Block :=
  let b := iterate (openLoop t) 3 b
  let x := tileOf b t
  if !mayIssue x then b
  else match nextDesc b t with
    | none => streamFault t .badArgument 0 x.issued 0 b
    | some d =>
      if isCop d 2 then streamFault t .badArgument 0 x.issued (dTag d) b
      else if x.ops.any fun o => o.k % 1024 == x.issued % 1024 then
        if x.winWait then b else bump (uTile t) Off.tilWinfullLo 1 (setTile t { x with winWait := true } b)
      else
        let r := granaryRead { tileIssuer b t with program := false } (progBase b t + 64 * x.pc) 64 b
        let b := r.2.2
        if r.1 ≠ .ok then streamFault t r.1 0 x.issued 0 (if r.1 = .opFailed then noteOpFail t x.issued b else b)
        else
          let nx := advance 4 (x.pc + 1) x.loops
          setTile t { x with
            pc := nx.1, loops := nx.2, issued := x.issued + 1, winWait := false, endIssued := isCop d 1,
            ops := x.ops ++ [⟨x.issued, d, queueOf d, false, .waiting, 0⟩] } b

/-! ### Start (R150, R154, R159) -/

/-- The operation at the head of a unit queue: the earliest that has not started. -/
def queueHead (x : Tile) (q : Nat) : Option Op := x.ops.find? fun o => o.queue == q && o.isWaiting

/-- Is a token wait satisfiable: enough count, and every earlier waiter on the token satisfied (R154)? -/
def waitReady (x : Tile) (o : Op) : Bool :=
  decide (dWaitCnt o.desc ≤ x.tokens.get 0 (dWaitTok o.desc)) &&
    !(x.ops.any fun p => decide (p.k < o.k) && dWait p.desc && dWaitTok p.desc == dWaitTok o.desc && !p.satisfied && p.isWaiting)

/-- Has every earlier-issued operation completed (R159; FENCE and END start so too)? -/
def earlierDone (x : Tile) (o : Op) : Bool := !(x.ops.any fun p => decide (p.k < o.k) && !p.isDone)

/-- Must the operation wait for all earlier ones? -/
def needsOrder (d : List Byte) : Bool := dOrdered d || isCop d 1 || isCop d 3

/-- Can the unit accept the operation (R150, R93, R173)? The control, thresher and vector queues run one operation at a time; a LOADB
waits for earlier MMAs of its slot and an MMA for earlier LOADBs of its slot; a CONV with SCSRC 1 waits for the WINNOW of its WR. -/
def unitAccepts (x : Tile) (o : Op) : Bool :=
  let busy := x.ops.any fun p => p.queue == o.queue && p.isStarted
  let open' (q : Nat) (same : Op → Bool) := x.ops.any fun p => decide (p.k < o.k) && p.queue == q &&
    (p.isWaiting || p.isStarted) && same p
  let slotBit (d : List Byte) := bitOf (dByte d 10) 4
  match o.queue with
  | 4 => true
  | 5 => true
  | 1 => !busy && !(open' 2 fun p => dOp p.desc == 0 && slotBit p.desc == slotBit o.desc)
  | 2 => !busy && !(dOp o.desc == 0 && open' 1 fun p => slotBit p.desc == slotBit o.desc)
  | 3 => !busy && !(dOp o.desc == 0x30 && bitsOf (dByte o.desc 40) 5 4 == 1 &&
      (x.ops.any fun p => decide (p.k < o.k) && p.queue == 3 && dOp p.desc == 0x31 &&
        bitsOf (dByte p.desc 27) 5 4 == bitsOf (dByte o.desc 27) 5 4 && !p.isDone))
  | _ => !busy

/-- Does the thresher hold a stop whose MMA has still to complete? What is issued before that completion waits for its
CANCELLED (R102, R104), also a descriptor of a later stream: DESIGN CHOICE (log entry 64). -/
def thrStopping (x : Tile) : Bool := x.thrStopped && x.ops.any fun o => dClass o.desc == 1 && o.phase == .finished .opFailed

/-- Start the operation at the head of a queue: consume its token when its wait is satisfied, then start it when ORDERED and its unit
allow. An invalid header or operation code completes with BAD_ARGUMENT; a stopped thresher fails its descriptors (R102). A descriptor issued to a stopped
thresher whose header or TOP is bad meets R91 and R102 both; it completes with BAD_ARGUMENT (log entry 64). A bad header completes at the head at once,
waiting for neither ORDERED nor WAIT: DESIGN CHOICE (log entry 66). -/
def startHead (t q : Nat) (b : Block) : Block :=
  let x := tileOf b t
  match queueHead x q with
  | none => b
  | some o =>
    if x.lockstep || x.stream != .running || ((q == 1 || q == 2) && thrStopping x) then b
    else
      let began (b : Block) (p : OpPhase) : Block :=
        modTile t (fun y => { y with startCount := y.startCount + 1 })
          (modOp t o.k (fun o => { o with phase := p, order := x.startCount }) b)
      if headerBad b t o.desc then began b (.finished .badArgument)
      else
        let ready := o.satisfied || !dWait o.desc
        if !ready && !waitReady x o then b
        else
          let b := if ready then b else modTile t (fun y => { y with
            tokens := y.tokens.put (dWaitTok o.desc) (y.tokens.get 0 (dWaitTok o.desc) - dWaitCnt o.desc),
            ops := y.ops.map fun p => if p.k = o.k then { p with satisfied := true } else p }) b
          if needsOrder o.desc && !earlierDone x o then b
          else if !opDefined o.desc then began b (.finished .badArgument)
          else if x.thrStopped && (q == 1 || q == 2) then began b (.finished .opFailed)
          else if unitAccepts x o then began b .started else b

/-! ### Completion (R151, R152, R161, R162) -/

/-- Complete an operation: it counts, signals on OK, ends or faults the stream, and releases slots in issue order. -/
def completeOp (t : Nat) (o : Op) (s : Status) (b : Block) : Block :=
  let b := countCompletion t o (setPhase t o.k (.completed s) b)
  let b :=
    if s = .ok then
      let b := if (tileOf b t).lockstep then b else sendSignal t o.desc b
      if isCop o.desc 1 && (tileOf b t).stream == .running then
        notify (uTile t) Fld.tilStatusEnded .tilStreamEnd (dTag o.desc) (modTile t (fun x => { x with stream := .ended }) b)
      else b
    else streamFault t s (dClass o.desc) o.k (dTag o.desc) b
  modTile t (fun x => { x with ops := releaseSlots x.ops }) b

/-- The next operation of a queue to signal its completion: the earliest-started that has not (R151). -/
def nextToSignal (x : Tile) (q : Nat) : Option Op :=
  (x.ops.filter fun o => o.queue == q && !o.isWaiting && !o.isDone).foldl
    (fun acc o => match acc with
      | none => some o
      | some p => if o.order < p.order then some o else some p) none

/-! ### TIL_CTRL and the bound job (R141, R145, R153) -/

/-- The rows at which operations of a tile stand parked are forgotten: its stream is another one from here on. -/
def dropRows (t : Nat) (b : Block) : Block := { b with ctx := { b.ctx with dmaRow := b.ctx.dmaRow.filter fun r => r.1 / 2 ^ 40 != t } }

/-- START: the stream begins at its program's first descriptor. -/
def startStream (t : Nat) (b : Block) : Block :=
  setReg (uTile t) Off.tilFault 0 (modTile t (fun x => { x with
    stream := .running, issued := 0, startCount := 0, pc := 0, loops := [], ops := [], endIssued := false, winWait := false,
    faultTold := false, failed := [] }) (dropRows t b))

def ctrlReject (t : Nat) (b : Block) : Block := setSq (uTile t) Fld.tilStatusCtrlReject b

/-- A write of TIL_CTRL (R145, Table 5.1). -/
def tilCtrlWrite (t v : Nat) (b : Block) : Block :=
  let x := tileOf b t
  let acts := b2n (bitOf v 0) + b2n (bitOf v 1) + b2n (bitOf v 2) + b2n (bitOf v 3)
  if acts = 0 then b
  else if acts > 1 then ctrlReject t b
  else if bitOf v 0 then
    if x.stream = .idle ∧ flag b (uTile t) Fld.tilIdentBound then startStream t b else ctrlReject t b
  else if bitOf v 1 then
    if x.stream = .running then cancelWaiting t (modTile t (fun x => { x with stream := .stopping }) b) else ctrlReject t b
  else if bitOf v 2 then
    if x.stream = .ended ∨ (x.stream = .faulted ∧ x.ops = [] ∧ x.lockstep = false) then
      modTile t (fun x => { x with stream := .idle, ops := [] }) b
    else ctrlReject t b
  else if x.stream = .idle then clearTokens t b else ctrlReject t b

/-- A write of TIL_IDENT (R153): in IDLE it binds the tile and sets every token count to 0. -/
def tilIdentWrite (t v : Nat) (b : Block) : Block :=
  if (tileOf b t).stream = .idle then clearTokens t (setReg (uTile t) Off.tilIdent (Nat.land v 0xFFFF_0107) b) else ctrlReject t b

/-! ### Remote signals (R155 to R158) -/

/-- A remote signal reaches its tile: applied, rejected, or held while the tile is SUSPENDED; a full buffer leaves it waiting. -/
def remoteArrive (t : Nat) (s : RemoteSig) (suspJob : Option Nat) (b : Block) : Block × Bool :=
  let x := tileOf b t
  if absorbing b (uTile t) then (absorb 1 b, true)
  else match suspJob with
  | some j =>
    if s.job = j then
      if x.held.length < 64 then (setTile t { x with held := x.held ++ [s] } b, true) else (b, false)
    else if tileJob b t = some s.job then (tokenUp t s.tok b, true)
    else (notify (uTile t) Fld.tilStatusSigReject .tilSigReject (s.sender * 2 ^ 16 + s.job * 2 ^ 8 + s.tok) b, true)
  | none =>
    if tileJob b t = some s.job then (tokenUp t s.tok b, true)
    else (notify (uTile t) Fld.tilStatusSigReject .tilSigReject (s.sender * 2 ^ 16 + s.job * 2 ^ 8 + s.tok) b, true)

/-- A sequencer lockstep disagreement (R146). -/
def tileLockstep (t : Nat) (b : Block) : Block :=
  notify (uTile t) Fld.tilStatusLockstep .tilLockstep 0 (setOwn (uTile t) hFailed
    (modTile t (fun x => { x with stream := .faulted, lockstep := true, faultTold := false }) b))

/-- TIL_OP_FAULT once a faulted stream has drained (R161). -/
def opFaultDrained (t : Nat) (b : Block) : Block :=
  let x := tileOf b t
  if x.stream = .faulted ∧ x.ops = [] ∧ x.faultTold = false then
    raise (uTile t) .tilOpFault (reg b (uTile t) Off.tilFault) (setTile t { x with faultTold := true } b)
  else b

/-- STOPPING with INFLIGHT = 0 returns to IDLE (Table 5.1). -/
def stopDrained (t : Nat) (b : Block) : Block :=
  let x := tileOf b t
  if x.stream = .stopping ∧ x.ops = [] then setTile t { x with stream := .idle } b else b

end Sys2Proof.Machine
end

