-- ==== Sys2Proof/Machine/Granary.lean ====
section
/-! DEFINITION. The granary's services (chapter 06): accesses, patrol scrub, refresh, calibration, group modes, repair, retirement and
the harvest engines. -/

namespace Sys2Proof.Machine

/-! ### Accesses -/

/-- The issuer an access names: its unit, the job slot it carries and whether that job trains (R207). -/
def accessIssuer (b : Block) (u : Nat) (job : Option Nat) : Issuer :=
  ⟨u, job, (match job with
    | some j => slotTrains b j
    | none => false), kindOf u == some .tile || kindOf u == some .gleaner⟩

/-- GRANARY_READ: read and answer (R203, R196, R25). -/
def grnReadCmd (u : Nat) (job : Option Nat) (a n : Nat) (hits : List Strike) (b : Block) : Block :=
  let b := strike hits b
  let r := granaryRead (accessIssuer b u job) a n b
  answer r.1 (leNat r.2.1) r.2.2

/-- GRANARY_WRITE: write and answer (R205, R194, R198). -/
def grnWriteCmd (u : Nat) (job : Option Nat) (a : Nat) (v : List Byte) (tag : Option Nat) (hits : List Strike) (b : Block) : Block :=
  let b := strike hits b
  let r := granaryWrite (accessIssuer b u job) a v tag b
  answer r.1 0 r.2

/-- An atomic of Table 6.4, answered with the old value (R206, R207). -/
def grnAtomicCmd (code u : Nat) (job : Option Nat) (a v cmp : Nat) (hits : List Strike) (b : Block) : Block :=
  let b := strike hits b
  let r := granaryAtomic (accessIssuer b u job) code a v cmp b
  answer r.1 r.2.1 r.2.2

/-! ### Frames and pages (R202, R228 to R233, R280) -/

/-- The frames of a group. -/
def groupFrames (gr : Nat) : List Nat := (List.range 32768).map (· + gr * 32768)

/-- Is a context page allocated, rather than only retired? -/
def pageAllocated (b : Block) (p : Nat) : Bool :=
  bitOf (frameEntry b (p / 32)) (p % 32) && (!(b.grn.retPages.contains p) || b.grn.retHeld.contains p)

/-- Does a frame hold an allocated page? A frame reserved to the reeve and the context store counts as one (log entry 22). -/
def frameHolds (b : Block) (f : Nat) : Bool :=
  let e := frameEntry b f
  bitOf e 36 || bitOf e 39 || (List.range 32).any fun k => pageAllocated b (32 * f + k)

def groupHolds (b : Block) (gr : Nat) : Bool := (groupFrames gr).any (frameHolds b)

/-! ### The address of a place (R201, inverted) -/

/-- The offset homed at byte `p` of a channel, in a group's mode. -/
def addrHomed (b : Block) (ch p : Nat) : Nat :=
  let gr := p >>> 27
  let x := (p >>> 9) % 2 ^ 18
  if groupLocal b gr then
    let g := Nat.xor (Nat.xor (Nat.xor (ch / 32) (x % 16)) (Nat.xor ((x >>> 4) % 16) ((x >>> 8) % 16)))
      (Nat.xor ((x >>> 12) % 16) (x >>> 16))
    gr * 2 ^ 36 + ch % 32 * 2 ^ 31 + x * 2 ^ 13 + g % 16 * 2 ^ 9 + p % 512
  else
    let g := Nat.xor (Nat.xor ch (x % 512)) (x >>> 9)
    gr * 2 ^ 36 + x * 2 ^ 18 + g % 512 * 2 ^ 9 + p % 512

/-- The offset that names, in `c`'s group modes, the cells that offset `a` names in `b`'s (R201). -/
def replacedAt (b c : Block) (a : Nat) : Nat := let h := homeOf b a; addrHomed c h.ch h.p

/-- Groups change their mode: cells, tags, marks stay where they are, and so are named by other offsets (R200, R201). -/
def replaceGroups (gs : List Nat) (b c : Block) : Block :=
  let hit (a : Nat) : Bool := decide (a < granarySize) && gs.contains (a >>> 36)
  let move {α : Type} (size : Nat) (m : SMap α) : SMap α :=
    (m.filter fun e => hit (size * e.1)).foldl (fun acc e => acc.put (replacedAt b c (size * e.1) / size) e.2) (m.filter fun e => !hit (size * e.1))
  { c with grn := { c.grn with mem := move 1 c.grn.mem, ltag := move 64 c.grn.ltag, marks := move 64 c.grn.marks, rewritten := move 64 c.grn.rewritten } }

/-- A write of GRN_LOCAL_LO or GRN_LOCAL_HI (R202). -/
def grnLocalWrite (hi : Bool) (v : Nat) (b : Block) : Block :=
  let o := if hi then Off.grnLocalHi else Off.grnLocalLo
  let changed := (List.range 32).filter fun g => bitOf (reg b uChip o) g != bitOf v g
  match (changed.map fun g => if hi then 32 + g else g).find? (groupHolds b) with
  | some g => notify uChip Fld.grnStatusLocalReject .grnLocalReject g b
  | none => replaceGroups (changed.map fun g => if hi then 32 + g else g) b (setReg uChip o v b)

/-- The offset served at byte `p` of a channel: slice 63 of a target serves a slice of a retired channel (R233). -/
def addrServed (b : Block) (ch p : Nat) : Nat :=
  if p >>> 27 = 63 then
    match b.grn.retired.find? fun r => r.reformed && r.targets.contains ch with
    | some r => addrHomed b r.ch (r.targets.idxOf ch * 2 ^ 27 + p % 2 ^ 27)
    | none => addrHomed b ch p
  else addrHomed b ch p

/-- The four granules of a row: byte offsets in the channel. -/
def rowGranules (bank row : Nat) : List Nat :=
  (List.range 4).map fun c => row * 2 ^ 15 + c * 2 ^ 13 + Nat.xor bank ((row % 4) * 4 + c) % 16 * 2 ^ 9

/-- The 32 lines of a row, by line number. -/
def rowLines (b : Block) (ch bank row : Nat) : List Nat :=
  (rowGranules bank row).flatMap fun p => (List.range 8).map fun i => (addrServed b ch p) / 64 + i

/-- Does a channel answer accesses? -/
def channelWorks (b : Block) (ch : Nat) : Bool := (retirementOf b ch).isNone && !(b.grn.chFailed.contains ch)

/-! ### Patrol scrub (R199) -/

/-- Read the next line of a channel's patrol; the last line of a pass ends it. -/
def patrolRead (ch : Nat) (hits : List Strike) (b : Block) : Block :=
  if !channelWorks b ch || b.grn.selfRef then b
  else
    let b := strike hits b
    let pos := b.grn.scrubPos.get 0 ch
    let line := addrServed b ch (64 * pos) / 64
    let b := releaseBanks (64 * line) 64 b
    let corrected := match markOf b line with
      | some .corr => true
      | some (.transient n) => decide (n ≤ 2)
      | _ => false
    let b := (readLine line b).2
    let n := b.grn.scrubCorr.get 0 ch + b2n corrected
    if pos + 1 < 2 ^ 27 then
      { b with grn := { b.grn with scrubPos := b.grn.scrubPos.put ch (pos + 1), scrubCorr := b.grn.scrubCorr.put ch n } }
    else
      raise (uChannel ch) .grnScrubPass (min 0xFFFF_FFFF n)
        { b with grn := { b.grn with scrubPos := b.grn.scrubPos.put ch 0, scrubCorr := b.grn.scrubCorr.put ch 0 } }

/-! ### Refresh (R209, R210) -/

/-- A bank's refresh falls due: postponed while the bank is busy, or held by a segment, and fewer than 8 are owed, else done with all that are owed. -/
def refreshDue (ch bank : Nat) (busy : Bool) (b : Block) : Block :=
  if !channelWorks b ch || b.grn.selfRef then b
  else
    let k := ch * 16 + bank
    let owed := b.grn.refPost.get 0 k
    if (busy || bankHeld b (bankGleaner ch bank) bank) && decide (owed < 8) then
      { b with grn := { b.grn with refPost := b.grn.refPost.put k (owed + 1) } }
    else
      let b := releaseBank ch bank b
      { b with grn := { b.grn with
        refPost := b.grn.refPost.put k 0, refDone := b.grn.refDone.put k (b.grn.refDone.get 0 k + b.grn.refPost.get 0 k + 1) } }

/-- The row of Table 6.5 a die temperature selects. -/
def refreshRow (temp : Int) : Nat := if temp ≤ 85 then 0 else if temp ≤ 95 then 1 else 2

/-! ### Live calibration (R212 to R214) -/

/-- Interval in µs and pieces of a task (Table 6.6): 0 DQS, 1 read centring, 2 write centring, 3 ZQ. -/
def calInterval : Nat → Nat
  | 0 => 1000
  | 3 => 128000
  | _ => 32000
def calPieces : Nat → Nat
  | 1 => 4
  | 2 => 4
  | _ => 1

/-- A task's result (R214). -/
def calResult (ch task : Nat) (ok : Bool) (b : Block) : Block :=
  let k := ch * 4 + task
  let was := b.grn.cal.get ⟨0, 0⟩ k
  let fails := if ok then 0 else was.fails + 1
  let b := { b with grn := { b.grn with cal := b.grn.cal.put k ⟨fails, b.face.time⟩, calRun := b.grn.calRun.drop k } }
  if ok then
    if task = 1 ∨ task = 2 then
      { b with grn := { b.grn with centredAt := b.grn.centredAt.put ch (b.grn.dieTemp.get 0 ch) } }
    else b
  else
    let b := notify (uChannel ch) Fld.grnChStatusCalFail .grnCalFail (fails % 4 * 2 ^ 8 + task) (degrade (uChannel ch) b)
    if fails = 3 then
      setOwn (uChannel ch) hFailed { b with grn := { b.grn with chFailed := b.grn.chFailed ++ [ch] } }
    else b

/-- A piece of a calibration task runs, once the task's interval has passed, it is partly done, or its last run failed. -/
def calPiece (ch task : Nat) (ok : Bool) (b : Block) : Block :=
  let k := ch * 4 + task
  let t := b.grn.cal.get ⟨0, 0⟩ k
  let done := b.grn.calRun.get 0 k
  if !channelWorks b ch || b.grn.selfRef || !(decide (0 < done) || decide (0 < t.fails) || decide (t.last + calInterval task ≤ b.face.time))
  then b
  else
    let b := releaseChannel ch b
    if done + 1 < calPieces task then { b with grn := { b.grn with calRun := b.grn.calRun.put k (done + 1) } }
    else calResult ch task ok b

/-- The distance between two temperatures kept as eight-bit two's complement. -/
def tempGap (x y : Nat) : Nat := (signedOf 8 x - signedOf 8 y).natAbs

/-- A die's temperature moves; by more than 5 °C since the last centring, both centrings run at once (R213). -/
def centringTemp (ch temp : Nat) (readOk writeOk : Bool) (b : Block) : Block :=
  let b := { b with grn := { b.grn with dieTemp := b.grn.dieTemp.put ch (temp % 256) } }
  if channelWorks b ch && decide (5 < tempGap temp (b.grn.centredAt.get 0 ch)) then calResult ch 2 writeOk (calResult ch 1 readOk (releaseChannel ch b))
  else b

/-! ### Repair (R226, R227) -/

/-- A write of GRN_CH_REPAIR. -/
def chRepairWrite (ch v : Nat) (b : Block) : Block :=
  let q := (ch, bitsOf v 21 18, bitsOf v 17 0)
  if bitOf v 31 && !(b.grn.repairReq.contains q) then { b with grn := { b.grn with repairReq := b.grn.repairReq ++ [q] } } else b

/-- Poison a line: its data and tag are lost and its reads fail (R197). -/
def poisonLine (line : Nat) (b : Block) : Block :=
  setMark line (some .poison) (poke (64 * line) (List.replicate 64 0)
    { b with grn := { b.grn with ltag := b.grn.ltag.drop line } })

/-- Retire one 64 KiB page (R228 to R230). -/
def retirePage (p : Nat) (b : Block) : Block :=
  if b.grn.retPages.contains p then b
  else
    let held := bitOf (frameEntry b (p / 32)) (p % 32)
    let e := Nat.lor (frameEntry b (p / 32)) (2 ^ (p % 32) + 2 ^ 38)
    let e := if held then Nat.lor (frameEntry b (p / 32)) (2 ^ 38) else e
    let b := setFrameEntry (p / 32) e { b with grn := { b.grn with
      retPages := b.grn.retPages ++ [p], retHeld := if held then b.grn.retHeld ++ [p] else b.grn.retHeld } }
    notify uChip Fld.grnStatusPageRetired .grnPageRetired p (bbRecord 6 .tlyRetire (leBytes 4 p) b)

/-- A repair is refused: the row's pages retire (R228). `why` is 1 for no spare, 2 for the limit. -/
def repairRefused (why ch bank row : Nat) (b : Block) : Block :=
  let pages := ((rowGranules bank row).map fun p => addrServed b ch p / 2 ^ 16).eraseDups
  let b := setSq (uStack (ch % 32)) Fld.grnStkStatusRefused
    (raise (uChannel ch) .grnRepairRefused (why * 2 ^ 30 + bank * 2 ^ 24 + row) b)
  let b := pages.foldl (fun b p => retirePage p b) b
  let rows := b.grn.chRetRows.get [] ch
  let id := bank * 2 ^ 18 + row
  { b with grn := { b.grn with chRetRows := b.grn.chRetRows.put ch (if rows.contains id then rows else rows ++ [id]) } }

/-- A limited change is counted (R541): the black box records the setting, the old and the new counter. -/
def limitRecord (setting n old : Nat) (b : Block) : Block :=
  bbRecord 3 .tlyLimitChange (leBytes 4 (n * 2 ^ 8 + setting) ++ leBytes 4 old ++ leBytes 4 (old + 1)) b

/-- The next repair a channel was asked for (Table 6.10). -/
def rowRepair (ch : Nat) (hits : List Strike) (b : Block) : Block :=
  match b.grn.repairReq.find? fun q => q.1 = ch with
  | none => b
  | some q =>
    let bank := q.2.1
    let row := q.2.2
    let b := strike hits { b with grn := { b.grn with repairReq := b.grn.repairReq.filter (· != q) } }
    if !channelWorks b ch then b
    else
      let b := releaseBank ch bank b
      let st := ch % 32
      let key (k : Nat) : Nat := ch * 32 + bank * 2 + k
      let free := (List.range 2).find? fun k => (b.grn.spare.find (key k)).isNone
      match free with
      | none => repairRefused 1 ch bank row b
      | some k =>
        let used := b.grn.mapUsed.get 0 st
        if 1024 ≤ used then repairRefused 2 ch bank row b
        else
          let b := bbRecord 5 .tlyRepairMap (leBytes 4 (st * 2 ^ 27 + ch / 32 * 2 ^ 23 + bank * 2 ^ 19 + k * 2 ^ 18 + row))
            (limitRecord 2 st used { b with grn := { b.grn with mapUsed := b.grn.mapUsed.put st (used + 1) } })
          let b := (rowLines b ch bank row).foldl (fun b l =>
            let r := readLine l b
            if r.1 then r.2 else poisonLine l r.2) b
          let fk := ch * 16 + bank
          let b := { b with grn := { b.grn with
            spare := b.grn.spare.put (key k) row,
            repairReq := b.grn.repairReq.filter (· != q),
            failMap := b.grn.failMap.put fk ((b.grn.failMap.get [] fk).filter fun e => e.row != row) } }
          setSq (uStack st) Fld.grnStkStatusRepaired (raise (uChannel ch) .grnRepairDone (bank * 2 ^ 28 + k * 2 ^ 24 + row) b)

/-! ### Retirement of a channel (R231 to R234) -/

/-- The first channel, counting up modulo 512 from `c`, that may be a target. -/
def targetFrom (b : Block) (taken : List Nat) (failed : Nat) : Nat → Nat → Nat
  | 0, c => c % 512
  | n + 1, c =>
    let x := c % 512
    if x = failed ∨ (retirementOf b x).isSome ∨ taken.contains x then targetFrom b taken failed n (c + 1) else x

/-- The targets of groups 0 to 62 for a failed channel. -/
def targetsFor (b : Block) (ch : Nat) : List Nat :=
  let before := b.grn.retired.flatMap (·.targets)
  (List.range 63).foldl (fun acc gr => acc ++ [targetFrom b (before ++ acc) ch 512 (ch + 1 + 8 * gr)]) []

/-- Re-form the interleave around retired channels: marks of their old lines fall away and nothing there is rewritten yet (R233). -/
def reformChannel (ch : Nat) (b : Block) : Block :=
  { b with grn := { b.grn with
    marks := b.grn.marks.filter fun m => (homeOf b (64 * m.1)).ch != ch,
    rewritten := b.grn.rewritten.filter fun m => (homeOf b (64 * m.1)).ch != ch,
    retired := b.grn.retired.map fun r => if r.ch = ch then { r with reformed := true } else r } }

/-- A channel is retired when it is FAILED, silent, or has more than 256 retired rows (R231, R232). The ninth is refused. Whether group 63 holds a page
is what the frame table says, also the part of it that stands on this channel (R233). -/
def retireChannel (ch : Nat) (silent : Bool) (b : Block) : Block :=
  if (retirementOf b ch).isSome ||
      !(silent || b.grn.chFailed.contains ch || decide (256 < (b.grn.chRetRows.get [] ch).length)) then b
  else
    let now := !(groupHolds { b with grn := { b.grn with chFailed := b.grn.chFailed.filter (· != ch) } } 63)
    let b := setOwn (uChannel ch) hFailed { b with grn := { b.grn with
      chFailed := if b.grn.chFailed.contains ch then b.grn.chFailed else b.grn.chFailed ++ [ch] } }
    if 8 ≤ b.grn.retired.length then b
    else
      let b := bbRecord 6 .tlyRetire (leBytes 4 (2 ^ 31 + ch))
        { b with grn := { b.grn with
          retired := b.grn.retired ++ [⟨ch, false, targetsFor b ch⟩], chFailed := b.grn.chFailed.filter (· != ch) } }
      let b := if now then reformChannel ch b else b
      notify uChip Fld.grnStatusChRetired .grnChannelRetired ch b

/-- GRN_CAPACITY as it reads (R230, R234). -/
def grnCapacity (b : Block) : Nat :=
  if b.grn.retired.isEmpty then 0x400_0000 - b.grn.retPages.length
  else 0x400_0000 - 2 ^ 20 - (b.grn.retPages.filter (· < 63 * 2 ^ 20)).length

/-- GRN_RETIRE as it reads. -/
def grnRetire (b : Block) : Nat :=
  b2n (!b.grn.retired.isEmpty) * 2 ^ 31 + b2n (b.grn.retired.any fun r => !r.reformed) * 2 ^ 30 +
    b.grn.retired.length * 2 ^ 24 + min 0xF_FFFF b.grn.retPages.length

/-- GRN_REDIR as it reads. -/
def grnRedir (b : Block) : Nat :=
  let v := reg b uChip Off.grnRedirSel
  if v % 64 = 63 then 0
  else match b.grn.retired.drop (bitsOf v 8 6) with
  | r :: _ => 2 ^ 31 + r.ch * 2 ^ 16 + r.targets.getD (v % 64) 0
  | [] => 0

/-- GRN_CH_STATE as it reads. -/
def grnChState (b : Block) (ch : Nat) : Nat :=
  let t := b.grn.dieTemp.get 0 ch
  t * 2 ^ 24 + refreshRow (signedOf 8 t) * 2 ^ 16 + b2n (retirementOf b ch).isSome * 8 + b2n b.grn.selfRef

/-- GRN_CH_SPARE, GRN_CH_RMAP and GRN_CH_FAIL as they read (R235). -/
def grnChSpare (b : Block) (ch : Nat) : Nat :=
  (List.range 32).foldl (fun acc k => acc + b2n (b.grn.spare.find (ch * 32 + k)).isSome * 2 ^ k) 0

def grnChRmap (b : Block) (ch : Nat) : Nat :=
  match b.grn.spare.find (ch * 32 + reg b (uChannel ch) Off.grnChRmapSel % 32) with
  | some row => 2 ^ 31 + row
  | none => 0

def grnChFail (b : Block) (ch : Nat) : Nat :=
  let v := reg b (uChannel ch) Off.grnChFailSel
  match (b.grn.failMap.get [] (ch * 16 + bitsOf v 7 4)).drop (v % 16) with
  | e :: _ => 2 ^ 31 + b2n e.uncorr * 2 ^ 30 + e.corr * 2 ^ 26 + e.row
  | [] => 0

/-! ### The harvest engines (R215 to R222, R225) -/

def harvestOf (b : Block) (f j : Nat) : Harvest := b.grn.hrv.get ⟨.idle, 0, [], 0, [], false⟩ (f * 8 + j)
def setHarvest (f j : Nat) (h : Harvest) (b : Block) : Block := { b with grn := { b.grn with hrv := b.grn.hrv.put (f * 8 + j) h } }

/-- The stack controller whose engine serves a field. -/
def hrvUnit (f : Nat) : Nat := uStack (8 * f)

def hrvIssuer (b : Block) (f j : Nat) : Issuer := ⟨hrvUnit f, some j, slotTrains b j, false⟩

def hrvBase (b : Block) (f j : Nat) : Nat := reg b (hrvUnit f) (Off.grnHrvBaseLo j) + 2 ^ 32 * reg b (hrvUnit f) (Off.grnHrvBaseHi j)

/-- The pass faults (R221). -/
def hrvFault (f j idx : Nat) (s : Status) (b : Block) : Block :=
  let h := harvestOf b f j
  let b := if s = .opFailed ∧ slotTrains b j then modJob j (fun x => { x with failed := x.failed.or (some (lastFailSite b)) }) b else b
  notify (hrvUnit f) Fld.grnStkStatusHrvFault .grnHrvFault (j * 2 ^ 29 + statusCode s * 2 ^ 24 + idx)
    (setHarvest f j { h with phase := .faulted, next := idx } b)

/-- RUN (R217): in IDLE the engine reads the header. A header it cannot read, or whose COUNT is out of range, faults the pass at entry 0
(log entry 23). -/
def hrvRun (f j : Nat) (hits : List Strike) (b : Block) : Block :=
  if (harvestOf b f j).phase ≠ .idle then b
  else
    let b := strike hits b
    let r := granaryRead (hrvIssuer b f j) (hrvBase b f j) 128 b
    let b := r.2.2
    let hd := r.2.1
    let n := leAt hd 0 4
    let b := setHarvest f j ⟨.running, n, hd.drop 64, 0, [], false⟩ b
    if r.1 ≠ .ok then hrvFault f j 0 r.1 b
    else if n = 0 ∨ 0x10_0000 < n then hrvFault f j 0 .badArgument b
    else b

/-- The slot returns to IDLE when nothing is in progress any more after a STOP (R222). -/
def hrvSettle (f j : Nat) (b : Block) : Block :=
  let h := harvestOf b f j
  if h.stopped && h.prog.isEmpty then setHarvest f j { h with phase := .idle, stopped := false } b else b

/-- STOP (R222). -/
def hrvStop (f j : Nat) (b : Block) : Block :=
  let h := harvestOf b f j
  if h.phase = .idle then b else hrvSettle f j (setHarvest f j { h with stopped := true } b)

/-- The entry's own conditions (Table 6.8, R179 in its terms). -/
def hrvEntryBad (b : Block) (j : Nat) (h : Harvest) (e : List Byte) : Bool :=
  let src := leAt e 0 8
  let n := leAt e 8 4
  let dst := leAt e 12 4
  let lt := (e.getD 16 0).toNat
  let m := (h.tmap.getD (lt % 64) 0).toNat
  decide (src % 32 ≠ 0) || decide (n = 0) || decide (16_777_216 < n) || decide (n % 32 ≠ 0) || decide (dst % 32 ≠ 0) ||
    decide (64 ≤ lt) || decide (2 ≤ (e.getD 22 0).toNat) || decide (leAt e 23 9 ≠ 0) || !bitOf m 7 || !inShare b (m % 64) j dst n ||
    !loftRangeOk b j src n

/-- The recorded waits of operations that still stand at the head of a queue of a tile and wait on the token (R225). -/
def headsWaiting (b : Block) (t tok : Nat) : List (Nat × Nat) := (b.grn.headWaits.get [] (256 * t + tok)).filter fun w =>
  (List.range 6).any fun q => match queueHead (tileOf b t) q with
    | some o => o.k == w.1 && dWait o.desc && dWaitTok o.desc == tok && !o.satisfied
    | none => false

/-- Since when an operation at the head of a queue of a tile waits on a token, if one does: an entry that starts later is late from then (R225). -/
def awaitedSince (b : Block) (t tok : Nat) : Option Nat := (headsWaiting b t tok).foldl (fun acc w => match acc with
  | none => some w.2
  | some s => some (min s w.2)) none

/-- Start the next entry (R217). `away` says that the destination tile is lent out, so that its gate waits, and `back` calls it back, if it is or is being lent (R312). -/
def hrvStart (f j : Nat) (away : Nat → Bool) (back : Nat → Block → Block) (hits : List Strike) (b : Block) : Block :=
  let h := harvestOf b f j
  let d := fld b (hrvUnit f) Fld.grnHrvCtrlDepth j
  let depth := if d = 0 then 1 else min d 16
  if h.phase ≠ .running ∨ h.stopped ∨ h.count ≤ h.next ∨ depth ≤ h.prog.length then b
  else
    let b := strike hits b
    let r := granaryRead (hrvIssuer b f j) (hrvBase b f j + 128 + 32 * h.next) 32 b
    let b := r.2.2
    let e := r.2.1
    if r.1 ≠ .ok then hrvFault f j h.next r.1 b
    else if hrvEntryBad b j h e then hrvFault f j h.next .badArgument b
    else
      let t := (h.tmap.getD ((e.getD 16 0).toNat % 64) 0).toNat % 64
      let tok := (e.getD 17 0).toNat
      let cnt := (e.getD 18 0).toNat
      let have' := (tileOf b t).tokens.get 0 tok
      let b := back t b
      if cnt ≠ 0 ∧ (away t ∨ have' < cnt) then b
      else
        let b := if cnt = 0 then b else modTile t (fun x => { x with tokens := x.tokens.put tok (have' - cnt) }) b
        setHarvest f j { h with next := h.next + 1, prog := h.prog ++
          [⟨h.next, leAt e 0 8, leAt e 8 4, t, leAt e 12 4, bitOf (e.getD 22 0).toNat 0, (e.getD 19 0).toNat,
            if bitOf (e.getD 22 0).toNat 0 then awaitedSince b t (e.getD 19 0).toNat else none⟩] } b

/-- An operation at the head of a queue of a tile waits on a token: since when, and entries in progress that land the token become late (R225). -/
def markLate (t tok k : Nat) (b : Block) : Block :=
  let key := 256 * t + tok
  let ws := headsWaiting b t tok
  { b with grn := { b.grn with headWaits := b.grn.headWaits.put key (if ws.any (·.1 == k) then ws else ws ++ [(k, b.face.time)]), hrv := b.grn.hrv.map fun e => (e.1, { e.2 with prog := e.2.prog.map fun r =>
    if r.tile = t ∧ r.land ∧ r.landTok = tok ∧ r.lateSince.isNone then { r with lateSince := some b.face.time } else r }) } }

/-- The earliest-started entry completes (R218 to R221, R225). `cause` is the cause with the most wait among its reads, of those its channels count.
One for a tile lent out waits for it and calls it back (R312). -/
def hrvLand (f j : Nat) (cause : Nat) (away : Nat → Bool) (back : Nat → Block → Block) (peers : List Peer) (hits : List Strike) (b : Block) : Block :=
  let h := harvestOf b f j
  match h.prog with
  | [] => b
  | r :: rest =>
    if away r.tile then back r.tile b
    else
      let b := strike hits b
      let x := devRead (hrvIssuer b f j) peers r.src r.bytes b
      let b := setHarvest f j { h with prog := rest } x.2.2
      if x.1 ≠ .ok then hrvSettle f j (hrvFault f j r.idx x.1 b)
      else if absorbing b (uTile r.tile) then hrvSettle f j (hrvFault f j r.idx .resetAbsorbed (absorb 1 b))
      else
        let w := loftWrite r.tile r.dst x.2.1 b
        if !w.1 then hrvSettle f j (hrvFault f j r.idx .opFailed w.2)
        else
          let b := w.2
          let b := match r.lateSince with
            | some s => bump (hrvUnit f) (Off.grnHrvLateLo j (if r.src / 2 ^ 54 ≠ rankOf b (some j) then 6 else if cause < 6 then cause else 0))
                ((b.face.time - s) * 1000) b
            | none => b
          let b := if r.land then { b with til := { b.til with
              signals := b.til.signals ++ [(r.tile, ⟨r.landTok, j, hrvUnit f⟩)] } } else b
          if h.phase = .running ∧ !h.stopped ∧ h.count ≤ h.next ∧ rest = [] then
            notify (hrvUnit f) Fld.grnStkStatusHrvDone .grnHrvDone (j * 2 ^ 29 + h.count)
              (setHarvest f j { harvestOf b f j with phase := .idle } b)
          else hrvSettle f j b

/-- GRN_HRV_STATE as it reads. -/
def hrvState (b : Block) (f j : Nat) : Nat :=
  let h := harvestOf b f j
  (match h.phase with
   | .idle => 0
   | .running => 1
   | .faulted => 2) * 2 ^ 30 + h.next

end Sys2Proof.Machine
end

