-- ==== Sys2Proof/Machine/Context.lean ====
section
/-! DEFINITION. The context store (chapter 08): frames and pages, queue descriptors, page tables and lookups, page-in, eviction, the
session scheduler and the lending of training tiles. -/

namespace Sys2Proof.Machine

def modCtx (f : Ctx → Ctx) (b : Block) : Block := { b with ctx := f b.ctx }

/-- The first of `n` numbers from `i` on that a test accepts. -/
def firstFrom (p : Nat → Bool) : Nat → Nat → Option Nat
  | 0, _ => none
  | n + 1, i => if p i then some i else firstFrom p n (i + 1)

/-! ### Frames and pages (R280 to R286) -/

/-- The free list a frame is on (R282). -/
def listOfFrame (b : Block) (f : Nat) : Nat := if groupLocal b (f / 32768) then f / 1024 % 32 else f % 32

/-- Is the frame inside the address space (R234)? -/
def frameThere (b : Block) (f : Nat) : Bool := b.grn.retired.isEmpty || decide (f < 63 * 32768)

/-- Is a frame whole and free: no owner, no system mark, no allocated page? -/
def frameFree (b : Block) (f : Nat) : Bool :=
  let e := frameEntry b f
  frameThere b f && !bitOf e 35 && !bitOf e 36 && !bitOf e 37 && !bitOf e 39

/-- May a frame be handed out as a tensor page (R229)? -/
def frameTensorOk (b : Block) (f : Nat) : Bool := frameFree b f && !bitOf (frameEntry b f) 38 && !(b.grn.retPages.any fun p => p / 32 == f)

/-- The lowest free page of a frame; a retired page is never free, whatever the table says (R229). -/
def freeIn (b : Block) (f : Nat) : Option Nat := (List.range 32).find? fun k => !bitOf (frameEntry b f) k && !b.grn.retPages.contains (32 * f + k)

/-- The lists an allocation searches, in order (R285). -/
def searchLists (b : Block) (stack : Option Nat) : List Nat := match stack with
  | some s => [s]
  | none => (List.range 32).map fun i => (b.ctx.lastList + 1 + i) % 32

/-- The first frame a search finds: lists in order, the lowest frame of the list that qualifies. -/
def searchFrame (b : Block) (ok : Nat → Bool) : List Nat → Option Nat
  | [] => none
  | l :: r => match firstFrom (fun f => listOfFrame b f == l && ok f) (2 ^ 21) 0 with
    | some f => some f
    | none => searchFrame b ok r

def jobQuota (b : Block) (j : Nat) : Nat := reg b uCtx (Off.ctxJobQuota j)
def jobUsed (b : Block) (j : Nat) : Nat := reg b uCtx (Off.ctxJobUsed j)
def setUsed (j n : Nat) (b : Block) : Block := setReg uCtx (Off.ctxJobUsed j) n b

/-- A job's margin has fallen below its low mark: CTX_EVICT_LOW, and automatic eviction begins (R298). -/
def evictLow (j : Nat) (b : Block) : Block :=
  let w := fld b uCtx Fld.ctxJobEvictLowater j * 16
  if w = 0 ∨ (b.ctx.evicting.find j).isSome ∨ w ≤ jobQuota b j - jobUsed b j then b
  else notify uCtx Fld.ctxStatusEvictLow .ctxEvictLow (j * 2 ^ 29) (modCtx (fun c => { c with evicting := c.evicting.put j ⟨0, 0, []⟩ }) b)

/-- Take a context page for a job, if one is eligible (R283). -/
def takePage (j : Nat) (stack : Option Nat) (b : Block) : Option (Nat × Block) :=
  let mine (f : Nat) : Bool :=
    let e := frameEntry b f
    frameThere b f && bitOf e 37 && bitOf e 35 && bitsOf e 34 32 == j && (freeIn b f).isSome &&
      (match stack with
       | some s => listOfFrame b f == s
       | none => true)
  let hand (f e : Nat) (b : Block) : Option (Nat × Block) := (freeIn b f).map fun k =>
    (32 * f + k, evictLow j (setUsed j (jobUsed b j + 1) (setFrameEntry f (Nat.lor e (2 ^ k)) b)))
  if frameBase b = 0 then none
  else match firstFrom mine (2 ^ 21) 0 with
  | some f => hand f (frameEntry b f) b
  | none =>
    match searchFrame b (fun f => frameFree b f && (freeIn b f).isSome) (searchLists b stack) with
    | some f =>
      let b' := modCtx (fun c => { c with lastList := listOfFrame b f }) b
      hand f (withBits (Nat.lor (frameEntry b f) (2 ^ 35 + 2 ^ 37)) 34 32 j) b'
    | none => none

/-- Take a whole frame as a tensor page (R284). -/
def takeTensor (j : Nat) (stack : Option Nat) (b : Block) : Option (Nat × Block) :=
  if frameBase b = 0 then none
  else match searchFrame b (frameTensorOk b) (searchLists b stack) with
  | some f => some (f, setFrameEntry f (0xFFFF_FFFF + j * 2 ^ 32 + 2 ^ 35 + 2 ^ 36)
      (modCtx (fun c => { c with lastList := listOfFrame b f }) b))
  | none => none

def overQuota (b : Block) (j : Nat) : Bool := decide (jobQuota b j < jobUsed b j + 1)

/-- The stack controller whose stall counters an allocation's wait is charged to (cause 7): that of the list searched. -/
def allocStack (b : Block) (stack : Option Nat) : Nat := uStack (stack.getD ((b.ctx.lastList + 1) % 32))

/-- An allocation fails after its wait (R285). -/
def allocFail (j : Nat) (tensor : Bool) (b : Block) : Block :=
  answer .noResource 0 (notify uCtx Fld.ctxStatusAllocFail .ctxAllocFail (j * 2 ^ 29 + b2n tensor) b)

/-- A page that lengthens a job's stash has come, or could not be had (R347). -/
def stashGot (stash : Bool) (j : Nat) (b : Block) : Block := if stash then modJob j (fun x => { x with stallPages := x.stallPages + 1 }) b else b
def stashLost (stash : Bool) (j : Nat) (b : Block) : Block := if stash then modJob j (fun x => { x with stallFail := true }) b else b

/-- An allocation (R283 to R285), for a unit or, with `stash`, for the training-state engine. -/
def allocateFor (stash : Bool) (j : Nat) (tensor : Bool) (stack : Option Nat) (b : Block) : Block :=
  if !tensor && overQuota b j then answer .noResource 0 b
  else match (if tensor then takeTensor j stack b else takePage j stack b) with
  | some r => answer .ok r.1 (stashGot stash j r.2)
  | none =>
    if fld b uCtx Fld.ctxCtrlAllocWait = 0 then allocFail j tensor (stashLost stash j b)
    else bump (allocStack b stack) (Off.grnStallEvtLo 7) 1
      (modCtx (fun c => { c with allocWaits := c.allocWaits ++ [⟨j, tensor, stack, b.face.time, allocStack b stack, stash⟩] }) b)

/-- An allocation, answered with the page or frame number. -/
def allocate (j : Nat) (tensor : Bool) (stack : Option Nat) (b : Block) : Block := allocateFor false j tensor stack b

/-- Charge a wait that began at `since` to a stack controller (cause 7, R224). -/
def chargeNs (u since : Nat) (b : Block) : Block := bump u (Off.grnStallNsLo 7) ((b.face.time - since) * 1000) b

/-- Charge an ended wait. -/
def chargeWait (w : AllocWait) (b : Block) : Block := chargeNs w.charged w.since b

/-- A waiting allocation waits no more: its wait is charged. -/
def endWait (w : AllocWait) (b : Block) : Block := chargeWait w (modCtx (fun c => { c with allocWaits := c.allocWaits.filter (· != w) }) b)

/-- The waiting allocations are tried in the order they came; one that would take its job above its quota ends with NO_RESOURCE at once (R285). -/
def retryWaits (b : Block) : Block :=
  b.ctx.allocWaits.foldl (fun b w =>
    if !w.tensor && overQuota b w.job then answer .noResource 0 (stashLost w.stash w.job (endWait w b))
    else match (if w.tensor then takeTensor w.job w.stack b else takePage w.job w.stack b) with
    | some r => answer .ok r.1 (stashGot w.stash w.job (endWait w r.2))
    | none => b) b

/-- Every wait that has lasted ALLOC_WAIT milliseconds fails (R285). -/
def allocExpire (b : Block) : Block :=
  let ms := fld b uCtx Fld.ctxCtrlAllocWait
  (b.ctx.allocWaits.filter fun w => decide (w.since + 1000 * ms ≤ b.face.time)).foldl (fun b w =>
    allocFail w.job w.tensor (stashLost w.stash w.job (endWait w b))) b

/-- Free a context page (R283, R230). -/
def freePage (p : Nat) (b : Block) : Block :=
  let f := p / 32
  let e := frameEntry b f
  if !bitOf e 37 || !pageAllocated b p then b
  else
    let j := bitsOf e 34 32
    let retired := b.grn.retPages.contains p
    let b := { b with grn := { b.grn with retHeld := b.grn.retHeld.filter (· != p) } }
    let e' := if retired then e else e - 2 ^ (p % 32)
    let e' := if e' % 2 ^ 32 = 0 ∧ !bitOf e' 38 then 0 else e'
    setUsed j (jobUsed b j - 1) (setFrameEntry f e' b)

/-- Free a tensor page; retired pages of the frame stay marked. -/
def freeTensor (f : Nat) (b : Block) : Block :=
  let e := frameEntry b f
  if !bitOf e 36 then b
  else
    let pages := b.grn.retPages.filter fun p => p / 32 = f
    let map := pages.foldl (fun m p => m + 2 ^ (p % 32)) 0
    setFrameEntry f (map + (if pages = [] then 0 else 2 ^ 38))
      { b with grn := { b.grn with retHeld := b.grn.retHeld.filter fun p => p / 32 != f } }

/-! ### Queue descriptors (R287 to R290) -/

def qAddr (b : Block) (q : Nat) : Nat := queueBase b + 64 * q

/-- The descriptor as the queue table holds it; zeros, no queue, where its line fails (log entry 67). -/
def descAt (b : Block) (q : Nat) : List Byte := if lineFails b (qAddr b q / 64) then List.replicate 64 0 else bytesAt b (qAddr b q) 64

/-- The copy of a descriptor on the die, if there is one (R289). -/
def cachedDesc (b : Block) (q : Nat) : Option (List Byte) := (b.ctx.cached.find? fun c => c.1 == q).map (·.2)

/-- A field of a queue descriptor: the copy on the die is the authoritative one (R289). -/
def qGet (b : Block) (q off n : Nat) : Nat :=
  if queueBase b = 0 then 0
  else match cachedDesc b q with
    | some d => leAt d off n
    | none => leAt (descAt b q) off n

/-- Put bytes into a descriptor. -/
def qPut (q off : Nat) (v : List Byte) (b : Block) : Block :=
  if queueBase b = 0 then b
  else match cachedDesc b q with
    | some d => modCtx (fun c => { c with cached := c.cached.map fun x => if x.1 = q then (q, d.take off ++ v ++ d.drop (off + v.length)) else x }) b
    | none => tablePut (qAddr b q + off) v b
def qSet (q off n v : Nat) (b : Block) : Block := qPut q off (leBytes n v) b

def qType (b : Block) (q : Nat) : Nat := qGet b q 0 1 % 8
def qEnabled (b : Block) (q : Nat) : Bool := bitOf (qGet b q 0 1) 3
def qPrio (b : Block) (q : Nat) : Nat := qGet b q 0 1 / 16
def qJob (b : Block) (q : Nat) : Nat := qGet b q 1 1 % 8
def qAutoalloc (b : Block) (q : Nat) : Bool := bitOf (qGet b q 2 2) 0
def qPin (b : Block) (q : Nat) : Bool := bitOf (qGet b q 2 2) 1
def qProd (b : Block) (q : Nat) : Nat := qGet b q 4 4
def qCons (b : Block) (q : Nat) : Nat := qGet b q 8 4
def qDepth (b : Block) (q : Nat) : Nat := qGet b q 12 1 % 32
def qRing (b : Block) (q : Nat) : Nat := qGet b q 16 8
def qPtBase (b : Block) (q : Nat) : Nat := qGet b q 24 8
def qPtLen (b : Block) (q : Nat) : Nat := qGet b q 32 4
def qLocal (b : Block) (q : Nat) : Nat := qGet b q 36 4
def qLast (b : Block) (q : Nat) : Nat := qGet b q 40 4
def qDseq (b : Block) (q : Nat) : Nat := qGet b q 44 4

/-- Does a queue hold work? -/
def qWork (b : Block) (q : Nat) : Bool := qProd b q != qCons b q

/-- The address of ring entry `i` of a queue. -/
def ringAt (b : Block) (q i : Nat) : Nat := qRing b q + 64 * (i % 2 ^ qDepth b q)

/-- A descriptor as R290 refuses it. -/
def qBad (b : Block) (q : Nat) : Bool :=
  decide (4 < qType b q) || decide (8 ≤ qGet b q 1 1) || decide (4 ≤ qGet b q 2 2) || decide (20 < qGet b q 12 1) ||
    decide (qGet b q 13 3 ≠ 0) || decide (2 ^ 20 < qPtLen b q) || decide (qGet b q 48 16 ≠ 0)

def clearEnabled (q : Nat) (b : Block) : Block := qSet q 0 1 (qGet b q 0 1 - (if qEnabled b q then 8 else 0)) b

/-- The context store's own access to the granary. -/
def ctxIssuer : Issuer := ⟨uCtx, none, false, false⟩

/-- A new descriptor stands in the queue table, and no copy of the old one on the die. -/
def newQueue (q : Nat) (d : List Byte) (b : Block) : Block :=
  if queueBase b = 0 then b
  else (granaryWrite ctxIssuer (qAddr b q) d none (modCtx (fun c => { c with cached := c.cached.filter fun x => x.1 != q }) b)).2

/-- The context store takes a descriptor into its cache, reading it if it is not there, and writes the oldest of 4,097 back as it drops it (R289, log
entry 24). -/
def touchQueue (q : Nat) (b : Block) : Block :=
  let r : Status × List Byte × Block := match cachedDesc b q with
    | some d => (.ok, d, b)
    | none => granaryRead ctxIssuer (qAddr b q) 64 b
  let b := r.2.2
  let all := (q, r.2.1) :: b.ctx.cached.filter fun c => c.1 != q
  if r.1 ≠ .ok then b
  else (all.drop 4096).foldl (fun b c => (granaryWrite ctxIssuer (qAddr b c.1) c.2 none b).2) (modCtx (fun c => { c with cached := all.take 4096 }) b)

/-- Use a descriptor: refuse it, clearing ENABLED, when it is malformed (R290). -/
def useQueue (q : Nat) (b : Block) : Bool × Block :=
  let b := if queueBase b = 0 then b else touchQueue q b
  if qBad b q then
    (false, notify uCtx Fld.ctxStatusQueueFault .ctxQueueFault q (clearEnabled q b))
  else (true, b)

/-! ### Page tables (R291 to R297) -/

def ptAddr (b : Block) (q n : Nat) : Nat := qPtBase b q + 8 * n
/-- A page-table entry; one that cannot be read is not VALID (log entry 67). -/
def ptGet (b : Block) (q n : Nat) : Nat := tableAt b 0 (ptAddr b q n) 8
/-- The context store writes an entry of a page table; the translation caches that hold its line follow (log entry 74). -/
def ptSet (q n v : Nat) (b : Block) : Block :=
  if lineFails b (ptAddr b q n / 64) then tablePut (ptAddr b q n) (leBytes 8 v) b
  else modCtx (fun c => { c with xlt := c.xlt.map fun e => (e.1, e.2.map fun l =>
    if l.queue = q ∧ l.line = n / 8 then { l with entries := l.entries.set (n % 8) v } else l) }) (tablePut (ptAddr b q n) (leBytes 8 v) b)
def ptValid (e : Nat) : Bool := bitOf e 63
def ptLoc (e : Nat) : Nat := bitsOf e 62 61
def ptPin (e : Nat) : Bool := bitOf e 60
def ptRank (e : Nat) : Nat := bitsOf e 35 26
def ptPage (e : Nat) : Nat := bitsOf e 25 0
def ptGen (e : Nat) : Nat := bitsOf e 31 0

/-- A page-table entry; the PIN bit of the old one is kept. -/
def ptEntry (loc rank page pin : Nat) : Nat := 2 ^ 63 + loc * 2 ^ 61 + pin * 2 ^ 60 + rank * 2 ^ 26 + page
def ptExported (gen pin : Nat) : Nat := 2 ^ 63 + 2 * 2 ^ 61 + pin * 2 ^ 60 + gen

/-- Invalidate the line of an entry in every tile (R296). -/
def invalidate (q n : Nat) (b : Block) : Block :=
  modCtx (fun c => { c with xlt := c.xlt.map fun e => (e.1, e.2.filter fun l => !(l.queue == q && l.line == n / 8)) }) b

/-- A tile's translation cache is looked up: a hit moves the line to the front, a miss reads it with one narrow-path access and installs it, the least
recently used of 4,096 falling away (R293). A line that cannot be read is not installed, and the lookup has no entry. A hit takes the entry the line
holds (log entry 74). -/
def xltLookup (t j q n : Nat) (b : Block) : Option Nat × Block :=
  let ls := b.ctx.xlt.get [] t
  let other (l : XltLine) : Bool := !(l.job == j && l.queue == q && l.line == n / 8)
  match ls.find? fun l => !other l with
  | some l => (some (l.entries.getD (n % 8) 0), modCtx (fun c => { c with xlt := c.xlt.put t (l :: ls.filter other) }) (bump (uTile t) Off.tilXltHitLo 1 b))
  | none =>
    let r := granaryRead ctxIssuer (qPtBase b q + 64 * (n / 8)) 32 (bump (uTile t) Off.tilXltMissLo 1 b)
    if r.1 ≠ .ok then (none, r.2.2)
    else
      let l : XltLine := ⟨j, q, n / 8, (List.range 8).map fun i => ptGet r.2.2 q (n / 8 * 8 + i)⟩
      (some (l.entries.getD (n % 8) 0), modCtx (fun c => { c with xlt := c.xlt.put t ((l :: ls).take 4096) }) r.2.2)

/-- The lines of the job slots selected leave every translation cache (R296). -/
def invalidateJob (sel : Nat → Bool) (b : Block) : Block :=
  modCtx (fun c => { c with xlt := c.xlt.map fun e => (e.1, e.2.filter fun l => !sel l.job) }) b

/-- What a page lookup gives (Table 8.5): a local page, a status that ends the operation, or a wait. -/
inductive PageLook where
  | page (p : Nat)
  | fails (s : Status)
  | waits (alloc : Bool)
deriving DecidableEq, Repr

/-- Begin a page-in of an EXPORTED entry: the reeve is told, once per entry (R295, R297). -/
def hostPageIn (q n gen : Nat) (b : Block) : Block :=
  if b.ctx.pageIns.any fun p => p.queue = q ∧ p.page = n then b
  else notify uCtx Fld.ctxStatusPageinReq .ctxPageinReq (q % 2 ^ 18 * 2 ^ 14 + n % 2 ^ 14)
    (modCtx (fun c => { c with pageIns := c.pageIns ++ [⟨q, n, gen, b.face.time, [], none⟩] }) b)

/-- A lookup of logical page `n` of session `q` by a tile's operation (R292 to R297). -/
def pageLookup (t j q n : Nat) (write : Bool) (b : Block) : PageLook × Block :=
  let u := useQueue q b
  if !u.1 || qType u.2 q != 1 || qJob u.2 q != j then (.fails .notPresent, u.2)
  else
    if qPtLen u.2 q ≤ n then (.fails .notPresent, u.2) else
    let x := xltLookup t j q n u.2
    let b := x.2
    match x.1 with
    | none => (.fails .opFailed, b)
    | some e =>
      if !ptValid e then
        if write && qAutoalloc b q then
          if overQuota b j then (.fails .opFailed, b)
          else match takePage j none b with
          | some r => (.page r.1, qSet q 36 4 (qLocal r.2 q + 1) (ptSet q n (ptEntry 0 0 r.1 0) r.2))
          | none =>
            if fld b uCtx Fld.ctxCtrlAllocWait = 0 then
              (.fails .opFailed, notify uCtx Fld.ctxStatusAllocFail .ctxAllocFail (j * 2 ^ 29) b)
            else (.waits true, b)
        else (.fails .notPresent, b)
      else match ptLoc e with
      | 0 => (.page (ptPage e), b)
      | 2 => (.waits false, hostPageIn q n (ptGen e) b)
      | _ => (.waits false, b)

/-- Park an operation at a lookup that waits; `alloc`: for an allocation, whose wait is charged to cause 7 (R295, R285). -/
def park (t k q n row : Nat) (write alloc : Bool) (b : Block) : Block :=
  if b.ctx.parked.any fun p => p.tile = t ∧ p.k = k then b
  else
    let u := allocStack b none
    let b := if alloc then bump u (Off.grnStallEvtLo 7) 1 b else b
    bump uCtx Off.ctxMissLo 1 (modCtx (fun c => { c with parked := c.parked ++ [⟨t, k, q, n, write, b.face.time, row, if alloc then some u else none⟩] }) b)

/-- Does a parked lookup still wait: for its page, or for an allocation? -/
def stillWaits (b : Block) (p : Parked) : Bool :=
  let e := ptGet b p.queue p.page
  let j := qJob b p.queue
  qType b p.queue == 1 && decide (p.page < qPtLen b p.queue) &&
    (if ptValid e then ptLoc e != 0
      else p.write && qAutoalloc b p.queue && !overQuota b j && (takePage j none b).isNone && decide (fld b uCtx Fld.ctxCtrlAllocWait ≠ 0))

/-- A parked operation goes on: its wait is counted. -/
def unpark (t k : Nat) (b : Block) : Block :=
  match b.ctx.parked.find? fun p => p.tile = t ∧ p.k = k with
  | some p =>
    let b := match p.charged with
      | some u => chargeNs u p.since b
      | none => b
    bump uCtx Off.ctxMissNsLo ((b.face.time - p.since) * 1000)
      (modCtx (fun c => { c with parked := c.parked.filter fun x => !(x.tile == t && x.k == k) }) b)
  | none => b

/-- The row a parked operation of a tile stood at is forgotten. -/
def dropRow (t k : Nat) (b : Block) : Block := modCtx (fun c => { c with dmaRow := c.dmaRow.drop (t * 2 ^ 40 + k) }) b

/-- A parked operation fails, and nothing of it is left. -/
def failOp (t k : Nat) (b : Block) : Block := finishOp t k .opFailed (failElsewhere (dropRow t k (unpark t k b)))

/-- Every operation that waits on a page fails (R297, R301). -/
def failParked (sel : Parked → Bool) (b : Block) : Block := (b.ctx.parked.filter sel).foldl (fun b p => failOp p.tile p.k b) b

/-- Drop a move or page-in record. -/
def dropPageIn (q n : Nat) (b : Block) : Block :=
  modCtx (fun c => { c with pageIns := c.pageIns.filter fun p => !(p.queue == q && p.page == n) }) b

/-- Send a request of the context store to a peer's context store, by the fabric (the page moves of R295, R300). -/
def peerPage (j rank page : Nat) (write : Bool) (v : List Byte) (b : Block) : Block :=
  noteFar ⟨uCtx, some j, rank * 2 ^ 54 + page * 2 ^ 16, if write then 1 else 2, 0, if write then v.length else 65536, v, none⟩ b

/-- Install a page's bytes: allocate a local page, write the entry LOCAL (R295). No page, or one whose lines take no write, leaves the entry as it is. -/
def installPage (q n : Nat) (v : List Byte) (b : Block) : Bool × Block :=
  let j := qJob b q
  match (if overQuota b j then none else takePage j none b) with
  | some r =>
    let e := ptGet b q n
    let w := granaryWrite ctxIssuer (r.1 * 2 ^ 16) v none r.2
    if w.1 ≠ .ok then (false, b)
    else (true, bump uCtx Off.ctxPageinLo 1 (qSet q 36 4 (qLocal w.2 q + 1) (ptSet q n (ptEntry 0 0 r.1 (b2n (ptPin e))) w.2)))
  | none => (false, b)

/-- The page-in of an entry gets no local page: its waiting operations fail; one whose wait has expired raises the event (R285). -/
def pageInFails (expired : Bool) (p : PageIn) (b : Block) : Block :=
  let b := match p.full with
    | some w => chargeNs w.2 w.1 b
    | none => b
  let b := dropPageIn p.queue p.page b
  failParked (fun x => x.queue = p.queue ∧ x.page = p.page)
    (if expired then notify uCtx Fld.ctxStatusAllocFail .ctxAllocFail (qJob b p.queue * 2 ^ 29) b else b)

/-- The whole page of a page-in is here: it is installed, and freed at a peer that held it; with no local page the page-in waits ALLOC_WAIT for one, and
an over-quota job's fails at once (R285, R295). -/
def landPage (p : PageIn) (b : Block) : Block :=
  let e := ptGet b p.queue p.page
  let i := installPage p.queue p.page (p.chunks.flatMap (·.2)) b
  if i.1 then
    let b := match p.full with
      | some w => chargeNs w.2 w.1 i.2
      | none => i.2
    dropPageIn p.queue p.page (if ptLoc e = 1 then peerPage (qJob b p.queue) (ptRank e) (ptPage e) true [] b else b)
  else if overQuota b (qJob b p.queue) then pageInFails false p b
  else if fld b uCtx Fld.ctxCtrlAllocWait = 0 then pageInFails true p b
  else if p.full.isSome then b
  else
    let u := allocStack b none
    bump u (Off.grnStallEvtLo 7) 1 (modCtx (fun c => { c with pageIns := c.pageIns.map fun x => if x = p then { x with full := some (b.face.time, u) } else x }) b)

/-- The page-ins whose pages wait for a local one are tried again. -/
def retryPageIns (b : Block) : Block := (b.ctx.pageIns.filter (·.full.isSome)).foldl (fun b p => landPage p b) b

/-- After a free, what waits for a page is tried: allocations, then page-ins. -/
def retryAllocs (b : Block) : Block := retryPageIns (retryWaits b)

/-- Page-ins that have waited ALLOC_WAIT milliseconds for a local page fail (R285). -/
def pageInExpire (b : Block) : Block :=
  let ms := fld b uCtx Fld.ctxCtrlAllocWait
  (b.ctx.pageIns.filter fun p => p.full.any fun w => decide (w.1 + 1000 * ms ≤ b.face.time)).foldl (fun b p => pageInFails true p b) b

/-- The cached translation lines with a LOCAL entry that names a page are invalidated (R296). -/
def invalidatePage (p : Nat) (b : Block) : Block :=
  modCtx (fun c => { c with xlt := c.xlt.map fun e => (e.1, e.2.filter fun l =>
    !(l.entries.any fun e => ptValid e && ptLoc e == 0 && ptPage e == p)) }) b

/-- PAGE_FREE: the page, or the tensor page that holds it, is freed, once no translation names it, and waiting allocations are tried. -/
def pageFreeCmd (p : Nat) (b : Block) : Block :=
  retryAllocs (if bitOf (frameEntry b (p / 32)) 36 then freeTensor (p / 32) b else freePage p (invalidatePage p b))

/-- A session loses a page: it is disabled and its waiting operations fail (R301). -/
def pageLost (q : Nat) (b : Block) : Block :=
  notify uCtx Fld.ctxStatusPageLost .ctxPageLost q (failParked (fun p => p.queue = q) (clearEnabled q b))

/-- PAGE_IN: bring a page that is not local in. From a peer: the copy, then the peer's page is freed. Exported: the request to the
host begins. An uncorrectable answer of the peer loses the page. -/
def pageInCmd (q n : Nat) (peer : Status × List Byte) (b : Block) : Block :=
  let u := useQueue q b
  let b := u.2
  if !u.1 || qType b q != 1 || decide (qPtLen b q ≤ n) then b
  else
    let e := ptGet b q n
    if !ptValid e then b
    else match ptLoc e with
    | 1 =>
      if b.ctx.pageIns.any fun p => p.queue = q ∧ p.page = n then b
      else
      let b := peerPage (qJob b q) (ptRank e) (ptPage e) false [] b
      if peer.1 ≠ .ok then pageLost q b
      else
        let p : PageIn := ⟨q, n, 0, b.face.time, [(0, peer.2)], none⟩
        landPage p (modCtx (fun c => { c with pageIns := c.pageIns ++ [p] }) b)
    | 2 => hostPageIn q n (ptGen e) b
    | _ => b

/-- The host has not sent a page in HOST_TMO; a page that has arrived and waits for a local one is not timed (R297). -/
def hostTimeout (q n : Nat) (b : Block) : Block :=
  let tmo := max 1 (fld b uCtx Fld.ctxCtrlHostTmo) * 10000
  match b.ctx.pageIns.find? fun p => p.queue = q ∧ p.page = n with
  | some p => if p.full.isNone ∧ p.since + tmo ≤ b.face.time then
      dropPageIn q n (failParked (fun x => x.queue = q ∧ x.page = n) b) else b
  | none => b

/-! ### Eviction (R298 to R302) -/

/-- Is a session in a dispatched batch? -/
def inBatch (b : Block) (q : Nat) : Bool := b.ctx.batches.any fun x => x.sessions.any fun s => s.1 = q

/-- Does an entry of a session qualify (R299)? -/
def entryQualifies (b : Block) (q n : Nat) : Bool :=
  let e := ptGet b q n
  ptValid e && ptLoc e == 0 && !ptPin e

def sessionQualifies (b : Block) (j q : Nat) : Bool :=
  qType b q == 1 && qJob b q == j && !qPin b q && !inBatch b q && (firstFrom (entryQualifies b q) (qPtLen b q) 0).isSome

/-- The qualifying session with the oldest dispatch, the lowest number on a tie. -/
def oldestSession (b : Block) (j : Nat) (passed : List Nat) : Option Nat :=
  (List.range 0x40000).foldl (fun acc q =>
    if !passed.contains q && sessionQualifies b j q then
      match acc with
      | none => some q
      | some p => if qLast b q < qLast b p then some q else some p
    else acc) none

/-- Begin the eviction of a page (Table 8.6, steps 1 to 3). `peer` is the page the target allocated, none for NO_RESOURCE. -/
def beginEvict (q n : Nat) (toHost : Bool) (rank : Nat) (peer : Option Nat) (b : Block) : Block :=
  let e := ptGet b q n
  let j := qJob b q
  let moving := ptEntry 3 0 (ptPage e) (b2n (ptPin e))
  let b := invalidate q n (ptSet q n moving b)
  if toHost then
    let g := b.ctx.nextGen.get 0 j
    modCtx (fun c => { c with
      nextGen := c.nextGen.put j ((g + 1) % 2 ^ 32)
      moves := c.moves ++ [⟨q, n, ptPage e, none, g, b.face.time, 0⟩] }) b
  else match peer with
  | some p =>
    let r := granaryRead ctxIssuer (ptPage e * 2 ^ 16) 65536 b
    if r.1 ≠ .ok then ptSet q n e r.2.2
    else peerPage j rank p true r.2.1
      (modCtx (fun c => { c with moves := c.moves ++ [⟨q, n, ptPage e, some (rank * 2 ^ 26 + p), 0, b.face.time, 0⟩] }) r.2.2)
  | none => modCtx (fun c => { c with evicting := c.evicting.drop j }) (ptSet q n e b)

/-- The next page of a job's automatic eviction (R298, R299): begun when the margin falls below LOWATER, until it reaches twice that
or no page qualifies. A session that has given 64 pages comes again once every other one that qualifies has been passed. -/
def autoEvict (j : Nat) (peer : Option Nat) (b : Block) : Block :=
  let w := fld b uCtx Fld.ctxJobEvictLowater j * 16
  let margin := jobQuota b j - jobUsed b j
  let running := b.ctx.evicting.find j
  if w = 0 then b
  else
    let b := evictLow j b
    if running.isNone && decide (w ≤ margin) then b
    else if 2 * w ≤ margin then modCtx (fun c => { c with evicting := c.evicting.drop j }) b
    else
      let r := running.getD ⟨0, 0, []⟩
      let stay := decide (0 < r.taken) && decide (r.taken < 64) && sessionQualifies b j r.queue
      let passed := if decide (0 < r.taken) && !stay then r.queue :: r.passed else r.passed
      -- once every session that qualifies has been passed the round begins anew, with another session than the last one if there is one
      let next : Option (Nat × List Nat) := if stay then some (r.queue, r.passed)
        else match oldestSession b j passed with
          | some q => some (q, passed)
          | none => match oldestSession b j [r.queue] with
            | some q => some (q, [r.queue])
            | none => (oldestSession b j []).map fun q => (q, [])
      match next with
      | none => modCtx (fun c => { c with evicting := c.evicting.drop j }) b
      | some (q, passed) =>
        match firstFrom (entryQualifies b q) (qPtLen b q) 0 with
        | none => b
        | some n =>
          beginEvict q n (flag b uCtx Fld.ctxJobEvictExport j) (fld b uCtx Fld.ctxJobEvictRank j) peer
            (modCtx (fun c => { c with evicting := c.evicting.put j ⟨q, if stay then r.taken + 1 else 1, passed⟩ }) b)

/-- The target holds the page (Table 8.6, steps 5 and 6). -/
def evictDone (q n : Nat) (b : Block) : Block :=
  match b.ctx.moves.find? fun m => m.queue = q ∧ m.page = n with
  | none => b
  | some m =>
    let pin := b2n (ptPin (ptGet b q n))
    let e := match m.peer with
      | some p => ptEntry 1 (p / 2 ^ 26) (p % 2 ^ 26) pin
      | none => ptExported m.gen pin
    let b := modCtx (fun c => { c with moves := c.moves.filter (· != m) }) (ptSet q n e b)
    let b := qSet q 36 4 (qLocal b q - 1) (freePage m.local' b)
    let b := bump uCtx Off.ctxEvictLo 1 b
    let b := if (b.ctx.parked.any fun p => p.queue = q ∧ p.page = n) ∧ m.peer = none then hostPageIn q n m.gen b else b
    retryAllocs b

/-- A copy that fails leaves the page local. -/
def evictFailed (q n : Nat) (b : Block) : Block :=
  match b.ctx.moves.find? fun m => m.queue = q ∧ m.page = n with
  | none => b
  | some m => ptSet q n (ptEntry 0 0 m.local' (b2n (ptPin (ptGet b q n))))
      (modCtx (fun c => { c with moves := c.moves.filter (· != m) }) b)

/-! ### The session scheduler (R303 to R308) -/

def lendOf (b : Block) (t : Nat) : Lend := b.ctx.lend.get ⟨.home, 0, 0, 0, 0, 0, 0, false, false⟩ t
def setLend (t : Nat) (l : Lend) (b : Block) : Block := modCtx (fun c => { c with lend := c.lend.put t l }) b

/-- CTX_TILE_LEND as it reads. -/
def tileLend (b : Block) (t : Nat) : Nat :=
  let l := lendOf b t
  (match l.state with
   | .home => 0
   | .saving => 1
   | .lent => 2
   | .reclaiming => 3
   | .restoring => 4) * 2 ^ 29 + l.tjob * 2 ^ 24 + l.sjob * 2 ^ 20 + min 0xFFFF l.lends

/-- The training job whose stream is set aside on a lent tile. -/
def suspendedJob (b : Block) (t : Nat) : Option Nat := match (lendOf b t).state with
  | .lent => some (lendOf b t).tjob
  | .reclaiming => some (lendOf b t).tjob
  | .restoring => some (lendOf b t).tjob
  | _ => none

/-- Is a tile's sequencer held while a borrow saves or restores it? -/
def lendHolds (b : Block) (t : Nat) : Bool := match (lendOf b t).state with
  | .saving => true
  | .restoring => true
  | _ => false

def shareWord (b : Block) (t j : Nat) : Nat := reg b (uTile t) (Off.lftShare j)
/-- Does the tile hold a serving share of the job? -/
def servingShare (b : Block) (t j : Nat) : Bool := bitOf (shareWord b t j) 31 && bitOf (shareWord b t j) 30
/-- Does the tile hold a training share of any job? -/
def trainingShare (b : Block) (t : Nat) : Bool := (List.range 8).any fun j => bitOf (shareWord b t j) 31 && !bitOf (shareWord b t j) 30

/-- May a tile join a group of a serving job (R304)? -/
def groupTile (b : Block) (j t : Nat) : Bool :=
  servingShare b t j && !(b.ctx.batches.any fun x => x.tiles.contains t) && decide (ownOf b (uTile t) ≤ hDegraded) &&
    (((tileOf b t).stream == .idle && !trainingShare b t && (lendOf b t).state == .home) ||
     ((lendOf b t).state == .lent && (lendOf b t).sjob == j && (tileOf b t).stream == .idle))

def groupSize (b : Block) (j : Nat) : Nat := let g := fld b uCtx Fld.ctxJobCtrlGroup j; if g = 0 then 1 else min g 64
def batchMax (b : Block) (j : Nat) : Nat := let m := fld b uCtx Fld.ctxJobCtrlBatchMax j; if m = 0 then 1 else min m 32

/-- Is a session ready (R304)? -/
def sessionReady (b : Block) (j q : Nat) : Bool :=
  qType b q == 1 && qEnabled b q && qJob b q == j && qWork b q && !inBatch b q && !(b.ctx.closing.contains q) && !qBad b q

/-- The ready sessions of a job in the order a batch takes them. -/
def readyOrder (b : Block) (j : Nat) : List Nat :=
  let all := (List.range 0x40000).filter (sessionReady b j)
  (List.range 16).reverse.flatMap fun prio =>
    let mine := all.filter fun q => qPrio b q == prio
    let last := b.ctx.lastAt.get 0 (j * 16 + prio)
    let seen := (b.ctx.lastAt.find (j * 16 + prio)).isSome
    if seen then mine.filter (fun q => decide (last < q)) ++ mine.filter (fun q => decide (q ≤ last)) else mine

/-- The class of a batch (Table 8.8). -/
def batchClass (n : Nat) : Nat := if n = 1 then 3 else if n = 2 then 2 else if n ≤ 8 then 1 else 0

/-- Malformed descriptors of enabled queues are found and refused (R290). -/
def scanQueues (b : Block) : Block :=
  (List.range 0x40000).foldl (fun b q => if qEnabled b q && qBad b q then (useQueue q b).2 else b) b

/-- Bind and start one tile of a batch's group (R306). -/
def startTile (j num i : Nat) (tiles : List Nat) (prog len : Nat) (t : Nat) (b : Block) : Block :=
  let u := uTile t
  let rank := fld b uChip Fld.jxlJobCtrlRank j
  let ident := rank * 2 ^ 22 + i * 2 ^ 16 + 2 ^ 8 + j
  let b := clearTokens t (setReg u Off.tilIdent ident b)
  let b := setReg u Off.tilStep num b
  let b := setReg u Off.tilSeed (b.ctx.jobSeed.get 0 j) b
  let b := (List.range 16).foldl (fun b w => setReg u (Off.tilLmap w)
    ((List.range 4).foldl (fun acc k => match tiles.drop (4 * w + k) with
      | x :: _ => acc + (0x80 + x) * 2 ^ (8 * k)
      | [] => acc) 0) b) b
  startStream t (setReg u Off.tilProgLen len (setReg u Off.tilProgHi (prog / 2 ^ 32) (setReg u Off.tilProgLo prog b)))

/-- Form and dispatch a batch of a serving job, when a group is free and a session ready (R304 to R306). -/
def dispatch (j : Nat) (b : Block) : Block :=
  if !flag b uCtx Fld.ctxJobCtrlValid j || slotTrains b j || decide (16 ≤ (b.ctx.batches.filter (·.job == j)).length) then b
  else
    let b := scanQueues b
    let tiles := ((List.range 64).filter (groupTile b j)).take (groupSize b j)
    let qs := (readyOrder b j).take (batchMax b j)
    if tiles.length < groupSize b j ∨ qs = [] then b
    else
      let num := b.ctx.nextBatch.get 0 j
      let sessions := qs.map fun q => (q, qCons b q)
      let cls := batchClass qs.length
      let vt := reg b uCtx (Off.ctxJobProgLo j) + 2 ^ 32 * reg b uCtx (Off.ctxJobProgHi j)
      let prog := tableAt b 0 (vt + 16 * cls) 8
      let len := tableAt b 0 (vt + 16 * cls + 8) 4
      let rec' := leBytes 4 num ++ leBytes 1 qs.length ++ leBytes 1 cls ++ leBytes 2 0 ++
        (sessions.flatMap fun s => leBytes 4 s.1 ++ leBytes 4 s.2)
      let at' := reg b uCtx (Off.ctxJobBatchLo j) + 2 ^ 32 * reg b uCtx (Off.ctxJobBatchHi j) + 512 * (num % 16)
      let b := (granaryWrite ctxIssuer at' (rec' ++ List.replicate (512 - rec'.length) 0) none (qs.foldl (fun b q => touchQueue q b) b)).2
      let b := qs.foldl (fun b q => modCtx (fun c => { c with lastAt := c.lastAt.put (j * 16 + qPrio b q) q }) b) b
      let b := modCtx (fun c => { c with
        batches := c.batches ++ [⟨j, num, sessions, tiles, b.face.time⟩], nextBatch := c.nextBatch.put j ((num + 1) % 2 ^ 32) }) b
      tiles.zipIdx.foldl (fun b p => startTile j num p.2 tiles prog len p.1 b) b

/-- A closing session whose batch has ended goes away (Table 8.7); its pages are freed. -/
def closeSessionPages (q : Nat) (b : Block) : Block :=
  let n := qPtLen b q
  let b := (List.range n).foldl (fun b i =>
    let e := ptGet b q i
    if ptValid e then
      let b := if ptLoc e = 0 then freePage (ptPage e) (invalidate q i b)
        else if ptLoc e = 1 then peerPage (qJob b q) (ptRank e) (ptPage e) true [] b else b
      ptSet q i 0 b
    else b) b
  retryAllocs (modCtx (fun c => { c with closing := c.closing.filter (· != q) }) (qSet q 0 1 0 (qSet q 36 4 0 b)))

/-- May a closing session's pages be freed yet? -/
def closeReady (b : Block) (q : Nat) : Bool :=
  !inBatch b q && !(b.ctx.pageIns.any fun p => p.queue = q) && !(b.ctx.moves.any fun m => m.queue = q)

def settleCloses (b : Block) : Block :=
  b.ctx.closing.foldl (fun b q => if closeReady b q then closeSessionPages q b else b) b

/-- Abandon a batch (R308). -/
def abandonBatch (x : Batch) (b : Block) : Block := modCtx (fun c => { c with batches := c.batches.filter (· != x) }) b

/-- BATCH_END: every tile of the group has ENDed, or one has faulted (R307, R308). -/
def batchEnd (j num : Nat) (b : Block) : Block :=
  match b.ctx.batches.find? fun x => x.job = j ∧ x.num = num with
  | none => b
  | some x =>
    if x.tiles.any fun t => (tileOf b t).stream == .faulted then settleCloses (abandonBatch x b)
    else if x.tiles.all fun t => (tileOf b t).stream == .ended then
      let b := x.sessions.foldl (fun b s =>
        qSet s.1 40 4 (x.since % 2 ^ 32) (qSet s.1 8 4 ((qCons b s.1 + 1) % 2 ^ 32) b)) b
      let b := x.tiles.foldl (fun b t => modTile t (fun y => { y with stream := .idle, ops := [] }) b) b
      settleCloses (abandonBatch x b)
    else b

/-! ### Lending (R309 to R314) -/

/-- The registers a borrow saves (R311), and TIL_FAULT, which is the training stream's again when the tile returns (R148, R314; log entry 60). -/
def savedOffsets : List Nat :=
  [Off.tilIdent, Off.tilStep, Off.tilSeed, Off.tilProgLo, Off.tilProgHi, Off.tilProgLen, Off.tilFault] ++ (List.range 16).map Off.tilLmap ++
    (List.range 4).map Off.vecWinnow

/-- A completed FENCE asks for its tile to be lent (R309, R310). -/
def fenceLend (t : Nat) (d : List Byte) (b : Block) : Block :=
  match tileJob b t with
  | none => b
  | some j =>
    if !bitOf (dByte d 9) 0 || !slotTrains b j || !flag b uCtx Fld.ctxJobCtrlLend j || (lendOf b t).state != .home ||
        (tileOf b t).stream != .running then b
    else
      let fits (s : Nat) : Bool :=
        flag b uCtx Fld.ctxJobCtrlValid s && !slotTrains b s && flag b uCtx Fld.ctxJobCtrlBorrow s && servingShare b t s &&
          !(readyOrder b s).isEmpty && decide (groupSize b s ≤ ((List.range 64).filter (groupTile b s)).length + 1)
      match (List.range 8).find? fits with
      | none => b
      | some s =>
        let l := lendOf b t
        setLend t { l with state := .saving, tjob := j, sjob := s, since := b.face.time, budget := leAt d 10 2, due := false, stop := false } b

/-- A tile's save area is written (R311). The spec gives no layout of its 0x1_2000 bytes, so they are free values (log entry 60). -/
def saveArea (t : Nat) (b : Block) : Block :=
  let base := pair b uCtx Off.ctxSaveLo
  if base = 0 then b
  else
    (granaryWrite ctxIssuer (base + 0x1_2000 * t) ((List.range 0x1_2000).map fun i => BitVec.ofNat 8 (Config.freeValue (b.face.free + i))) none
      { b with face := { b.face with free := b.face.free + 0x1_2000 } }).2

/-- Once nothing of the serving stream is in flight, a reclaimed tile is being restored (R313, CTX_TILE_LEND). -/
def lendSettle (t : Nat) (b : Block) : Block :=
  if (lendOf b t).state = .reclaiming ∧ (tileOf b t).ops.isEmpty then setLend t { lendOf b t with state := .restoring } b else b

/-- Reclaim a lent tile: STOP to the serving stream, its batch abandoned (R312, R313). A tile still being saved is reclaimed as soon as it is lent. -/
def reclaim (t : Nat) (b : Block) : Block :=
  let l := lendOf b t
  if l.state = .saving then setLend t { l with due := true } b
  else if l.state ≠ .lent then b
  else
    let b := setLend t { l with state := .reclaiming, trigger := b.face.time, due := false } b
    let b := match b.ctx.batches.find? fun x => x.tiles.contains t with
      | some x => settleCloses (abandonBatch x b)
      | none => b
    lendSettle t (if (tileOf b t).stream = .running then cancelWaiting t (modTile t (fun x => { x with stream := .stopping }) b) else b)

/-- The save is done: the training stream is SUSPENDED and the tile may serve (R311). A stream that no longer runs is not lent (Table 5.1). -/
def borrowSaved (t : Nat) (b : Block) : Block :=
  let l := lendOf b t
  if l.state ≠ .saving then b
  else if (tileOf b t).stream ≠ .running then setLend t { l with state := .home, due := false } b
  else
    let x := tileOf b t
    let keep : Saved := ⟨{ x with stream := .suspended }, savedOffsets.map fun o => (o, getReg b (uTile t) o)⟩
    let b := modCtx (fun c => { c with saved := c.saved.put t keep }) (saveArea t b)
    let b := setTile t { Tile.init with
      acc := x.acc, slot0 := x.slot0, slot1 := x.slot1, thrStopped := x.thrStopped, resOver := x.resOver, lockstep := x.lockstep,
      held := x.held } b
    let b := bump uCtx Off.ctxBorrowLo 1 (setLend t { l with state := .lent, lends := l.lends + 1 } b)
    if l.due then reclaim t b else b

/-- BUDGET microseconds have passed since the FENCE (R312). -/
def budgetExpire (t : Nat) (b : Block) : Block :=
  let l := lendOf b t
  if l.budget ≠ 0 ∧ l.since + l.budget ≤ b.face.time then reclaim t b else b

/-- The return of a lent tile, whose INFLIGHT is 0 (R313); where its job was aborted or frozen meanwhile, the reeve's STOP follows (R461, R474). -/
def reclaimDone (t : Nat) (b : Block) : Block :=
  let l := lendOf b t
  match l.state, b.ctx.saved.find t with
  | .restoring, some sv =>
    let x := tileOf b t
    if !x.ops.isEmpty then b
    else
      let tile := { sv.tile with
        slot0 := none, slot1 := none, thrStopped := x.thrStopped, resOver := x.resOver, lockstep := x.lockstep, held := [],
        stream := if x.lockstep then .faulted else .running }
      let b := sv.regs.foldl (fun b r => setReg (uTile t) r.1 r.2.toNat b) (setTile t tile b)
      let b := x.held.foldl (fun b s => tokenUp t s.tok b) (dropRows t b)
      let b := if l.stop && (tileOf b t).stream == .running then cancelWaiting t (modTile t (fun x => { x with stream := .stopping }) b) else b
      let took := b.face.time - l.trigger
      let b := setLend t { l with state := .home, stop := false } (modCtx (fun c => { c with saved := c.saved.drop t }) b)
      if 200 < took then
        notify uCtx Fld.ctxStatusReclaimLate .ctxReclaimLate (t * 2 ^ 24 + min 0xFFFF took) (bump uCtx Off.ctxReclaimLateLo 1 b)
      else b
  | _, _ => b

/-- The training job a tile is away from, or is being taken from: what it is sent calls the tile back (R312). -/
def lentJob (b : Block) (t : Nat) : Option Nat := match (lendOf b t).state with
  | .home => none
  | _ => some (lendOf b t).tjob

/-- A tile a harvest entry or remote signal of a job must wait for. -/
def tileAway (b : Block) (j t : Nat) : Bool := suspendedJob b t == some j

/-- What a tile's training job sends it calls the tile back, also one that is still being saved (R312). -/
def callHome (j t : Nat) (b : Block) : Block := if lentJob b t = some j then reclaim t b else b

end Sys2Proof.Machine
end

