-- ==== Sys2Proof/Machine/Scale.lean ====
section
/-! DEFINITION. Scales (chapter 04): the exponent a maximum calls for, a job's scale table, the conversion of a run of elements with its
counts, and the merge of a conversion into its entry. -/

namespace Sys2Proof.Machine

/-- A clamp. -/
def clampI (lo hi v : Int) : Int := max lo (min hi v)

/-- The scale exponent for an absolute maximum and a target (R112). -/
def scaleExp (a : FV) (f : Fmt) (margin : Nat) : Int := match a with
  | .num _ m e =>
    if m = 0 then 0
    else
      let mm := fmtTop f false
      let me := fmtTopUlp f
      let ea := topExp m e
      let em := topExp mm me
      -- compare the significands mm × 2^me / 2^em and m × 2^e / 2^ea on one grid
      let k : Int := 200
      let sa := m * 2 ^ (e - ea + k).toNat
      let sm := mm * 2 ^ (me - em + k).toNat
      clampI (-127) 127 (em - ea - (if sm < sa then 1 else 0) - margin)
  | _ => 0

/-- Is the FP32 code a finite non-negative number? -/
def finiteNonneg (c : Nat) : Bool := decide (c < 0x7F80_0000)

/-- Address of a job slot's entry. -/
def entryAddr (b : Block) (j i : Nat) : Nat := (match scaleTable b j with
  | some (base, _) => base
  | none => 0) + 64 * i

/-- Is an index inside the job's table (R114)? -/
def entryOk (b : Block) (j i : Nat) : Bool := match scaleTable b j with
  | some (_, sz) => decide (i < sz)
  | none => false

/-- A fold index is usable: none, or inside the table (R114, R115). -/
def foldOk (b : Block) (j i : Nat) : Bool := i == 0xFFFF || entryOk b j i

/-- Word 0 of an entry (Table 4.3), as memory holds it. -/
def entryWord (b : Block) (j i : Nat) : Nat := numAt b (entryAddr b j i) 4

/-- The exponent in force of a fold index (R111). -/
def foldExp (b : Block) (j i : Nat) : Int := if i = 0xFFFF then 0 else (bitsOf (entryWord b j i) 7 0 : Int) - 127

/-- Read the lines of the entries a conversion reads; false where one is unreadable (R603). -/
def readEntries (j : Nat) (is : List Nat) (b : Block) : Bool × Block :=
  readLines ((is.filter (· != 0xFFFF)).map fun i => entryAddr b j i / 64) b

/-- An `A` formed as R118 forms it: the magnitude times `2^-(Ea + Eb)`, capped at the FP32 maximum, raised to 2⁻¹²⁶ where it is too small
to hold exactly. The FP32 code. -/
def winnowCode (m : FV) (k : Int) : Nat := match m.scale k with
  | .num _ m e =>
    if m = 0 then 0
    else
      let r := convert fmtF32 false .nearest (.num false m e)
      if topExp m e < -126 then
        (match f32 r.code with
         | .num _ m' e' => if unitsOf false m e (min e e') = unitsOf false m' e' (min e e') then r.code else 0x0080_0000
         | _ => 0x0080_0000)
      else r.code
  | _ => 0

/-- The counts of a conversion (R67, R69, R70). -/
structure Chaff where
  sat : Nat
  und : Nat
  elems : Nat
  nans : Nat
deriving DecidableEq, Repr

def Chaff.zero : Chaff := ⟨0, 0, 0, 0⟩

def Chaff.add (c d : Chaff) : Chaff := ⟨c.sat + d.sat, c.und + d.und, c.elems + d.elems, c.nans + d.nans⟩

/-- Convert one element under exponent `E`, held within ±149 by R116. -/
def convScaled (f : Fmt) (satmode : Bool) (rnd : Rnd) (E : Int) (x : FV) : Nat × Chaff :=
  let r := convert f satmode rnd (x.scale (clampI (-149) 149 E))
  let live := x.isFinite && !x.isZero
  let sat := if live && decide (149 < E) then true else if live && decide (E < -149) then false else r.sat
  let und := if live && decide (149 < E) then false else if live && decide (E < -149) then true else r.und
  (r.code, ⟨b2n sat, b2n und, 1, b2n r.nan⟩)

/-- The control of a conversion (Tables 2.6 and 4.2, and R73): target code, rounding, saturation, exponent, the generator's inputs. -/
structure ConvCtl where
  target : Nat
  round : Bool
  srbits : Nat
  satmode : Bool
  E : Int
  seed : Nat
  step : Nat
  tensor : Nat
deriving DecidableEq, Repr

/-- Convert a row: each element with its stream identity and element index (R62 to R75); for an MX target block by block with its own scale
(R71). Answers the codes, the block-scale codes and the counts of the first `keep` elements. -/
def convertUpTo (keep : Nat) (c : ConvCtl) (stream : Nat → Nat) (index : Nat → Nat) (xs : List FV) : List Nat × List Nat × Chaff :=
  match fmtOf c.target with
  | none => ([], [], Chaff.zero)
  | some f =>
    let rnd (i : Nat) : Rnd := if c.round then
        let s := (srWidth c.srbits).getD 12
        .stoch s (srBits c.seed (stream i) c.step c.tensor (index i) s)
      else .nearest
    let scales : List Int := if f.mx then
        (List.range ((xs.length + 31) / 32)).map fun k => mxScale c.target ((xs.drop (32 * k)).take 32)
      else []
    let one (i : Nat) (x : FV) : Nat × Chaff :=
      if f.mx then
        let r := convert f c.satmode (rnd i) (x.scale (-(scales.getD (i / 32) 0)))
        (r.code, ⟨b2n r.sat, b2n r.und, 1, b2n r.nan⟩)
      else convScaled f c.satmode (rnd i) c.E x
    let rs := (xs.zipIdx).map fun p => one p.2 p.1
    (rs.map (·.1), scales.map (fun x => (x + 127).toNat), (rs.take keep).foldl (fun a r => a.add r.2) Chaff.zero)

/-- Convert a whole row. -/
def convertRow (c : ConvCtl) (stream : Nat → Nat) (index : Nat → Nat) (xs : List FV) : List Nat × List Nat × Chaff :=
  convertUpTo xs.length c stream index xs

/-- Merge a conversion into its entry: an unsigned max of its maximum's FP32 bits, and three INT64 adds; a merge that does not end with OK fails the
conversion with OP_FAILED at that line (R122). -/
def mergeEntry (iss : Issuer) (j i amax : Nat) (c : Chaff) (b : Block) : Status × Block :=
  let a := entryAddr b j i
  let step (code off v : Nat) (acc : Status × Block) : Status × Block :=
    if acc.1 ≠ .ok then acc
    else
      let r := granaryAtomic { iss with program := false } code (a + off) v 0 acc.2
      if r.1 = .ok then (.ok, r.2.2) else (.opFailed, noteFail ((a + off) / 64) r.2.2)
  step 0x02 32 c.elems (step 0x02 24 c.und (step 0x02 16 c.sat (step 0x07 4 amax (.ok, b))))

/-- The unit's own chaff counters count a conversion (R136, R137). `base` is VEC_CHAFF_SAT_LO or GLN_CHAFF_SAT_LO. -/
def countChaff (u base : Nat) (c : Chaff) (b : Block) : Block :=
  bump u (base + 16) c.elems (bump u (base + 8) c.und (bump u base c.sat b))

/-- The unit's own chaff counters count widenings (R72, R136, R137). -/
def countWiden (u base sat und : Nat) (b : Block) : Block := bump u (base + 32) und (bump u (base + 24) sat b)

/-! ### Packing of codes (Table 3.2) -/

/-- Bytes of a run of `n` codes. -/
def packedBytes (bits n : Nat) : Nat := (n * bits + 7) / 8

/-- Code `i` of a packed run: bits little-endian from bit `i × bits`, which is each line of Table 3.2. -/
def codeAt (bits : Nat) (l : List Byte) (i : Nat) : Nat :=
  leAt l (i * bits / 8) (bits / 8 + 2) / 2 ^ (i * bits % 8) % 2 ^ bits

/-- The codes of a packed run. -/
def unpack (bits : Nat) (l : List Byte) (n : Nat) : List Nat := (List.range n).map (codeAt bits l)

/-- A packed run of codes. -/
def pack (bits : Nat) (cs : List Nat) : List Byte :=
  leBytes (packedBytes bits cs.length) (cs.foldr (fun c acc => c % 2 ^ bits + 2 ^ bits * acc) 0)

end Sys2Proof.Machine
end

