-- ==== Sys2Proof/Machine/Thresher.lean ====
section
/-! DEFINITION. The thresher (chapter 03): shapes, the descriptor fields and their checks, LOADB, MMA fill by fill, DRAIN and ZERO. -/

namespace Sys2Proof.Machine

/-! ### Descriptor fields (Table 3.4) -/

def mFmtA (d : List Byte) : Nat := dByte d 9 % 16
def mFmtB (d : List Byte) : Nat := dByte d 9 / 16
def mShape (d : List Byte) : Nat := dByte d 10 % 4
def mAxis (d : List Byte) : Bool := bitOf (dByte d 10) 2
def mKhalf (d : List Byte) : Bool := bitOf (dByte d 10) 3
def mSlot (d : List Byte) : Bool := bitOf (dByte d 10) 4
def mRef (d : List Byte) : Bool := bitOf (dByte d 10) 5
def mAcc (d : List Byte) : Nat := dByte d 11 % 16
def mAccin (d : List Byte) : Nat := bitsOf (dByte d 11) 5 4
def mBias (d : List Byte) : Int := signedOf 8 (dByte d 12)
def mCount (d : List Byte) : Nat := dByte d 13
def mRows (d : List Byte) : Nat := dByte d 14
def mMask (d : List Byte) : Nat := dByte d 15 % 4
def mCols (d : List Byte) : Nat := leAt d 16 2
def mAddr (d : List Byte) : Nat := leAt d 20 4
def mStride (d : List Byte) : Nat := leAt d 24 4
def mStep (d : List Byte) : Nat := leAt d 28 4
def mSaddr (d : List Byte) : Nat := leAt d 32 4
def mCaddr (d : List Byte) : Nat := leAt d 36 4
def mMaskAddr (d : List Byte) : Nat := leAt d 40 4
def mMaskBit (d : List Byte) : Nat := leAt d 44 4

/-- Rows M of an output block (Table 3.1). -/
def shapeM : Nat → Nat
  | 0 => 32
  | 1 => 8
  | 2 => 2
  | _ => 1

/-- Columns N of an output block (Table 3.1). -/
def shapeN (s : Nat) : Nat := 1024 / shapeM s

/-- Depth K of one fill of a format's class (Table 3.1). -/
def fillK (c : Nat) : Nat := classProducts ((fillClass c).getD 0)

/-- Rows of K a slot holds (Table 3.3). -/
def slotK (c shape : Nat) : Nat := if fillClass c = some 4 ∧ shape = 0 then 32 else fillK c

/-- Scale codes per row or column, `B_k` (R87). -/
def scaleBlocks (c : Nat) : Nat := if fillClass c = some 3 then 2 else 1

/-- Is the class one with block scales? -/
def mxClass (c : Nat) : Bool := fillClass c == some 2 || fillClass c == some 3

/-- Does a LOADB of this class and shape choose its axis (Table 3.3)? -/
def loadAxisFree (c shape : Nat) : Bool := !mxClass c && shape != 0

/-- Does an MMA of this class and shape choose its axis (Table 3.3)? -/
def mmaAxisFree (c shape : Nat) : Bool := !mxClass c && shape == 0

/-! ### What a descriptor reads and writes (R82, R86, R87, R96, R98, R604) -/

/-- The bytes of the mask a descriptor could read. -/
def maskRanges (d : List Byte) : List (Nat × Nat) :=
  let span (first n : Nat) : Nat × Nat := (mMaskAddr d + first / 8, (first + n - 1) / 8 - first / 8 + 1)
  match mMask d with
  | 1 => if mRows d = 0 then [] else (List.range (mCount d)).map fun j => span (mMaskBit d + 32 * j) (mRows d)
  | 2 => if mCount d = 0 then [] else [span (mMaskBit d) (mCount d)]
  | _ => []

/-- The rows of the A operand. -/
def aRanges (d : List Byte) : List (Nat × Nat) :=
  (List.range (mCount d)).flatMap fun j => (List.range (mRows d)).map fun m =>
    (mAddr d + j * mStep d + m * mStride d, fillK (mFmtA d) * fmtBits (mFmtA d) / 8)

/-- The scale codes of A. -/
def aScaleRanges (d : List Byte) : List (Nat × Nat) :=
  if mxClass (mFmtA d) then
    let bk := scaleBlocks (mFmtA d)
    (List.range (mCount d)).map fun j => (mSaddr d + j * shapeM (mShape d) * bk, mRows d * bk)
  else []

/-- The FP32 inputs of ACCIN = 2. -/
def cRanges (d : List Byte) : List (Nat × Nat) :=
  if mAccin d = 2 then
    (List.range (mCount d)).flatMap fun j => (List.range (mRows d)).map fun m =>
      (mCaddr d + 4096 * j + 4 * (m * shapeN (mShape d)), 4 * mCols d)
  else []

/-- The stored block of a LOADB, and its scale codes. -/
def bRanges (d : List Byte) : List (Nat × Nat) :=
  let k := slotK (mFmtB d) (mShape d)
  let n := shapeN (mShape d)
  if mAxis d then (List.range n).map fun r => (mAddr d + r * mStride d, k * fmtBits (mFmtB d) / 8)
  else (List.range k).map fun r => (mAddr d + r * mStride d, n * fmtBits (mFmtB d) / 8)

def bScaleRanges (d : List Byte) : List (Nat × Nat) :=
  if mxClass (mFmtB d) then [(mSaddr d, shapeN (mShape d) * scaleBlocks (mFmtB d))] else []

/-- The rows a DRAIN writes. -/
def drainRanges (d : List Byte) : List (Nat × Nat) :=
  (List.range (mCount d)).flatMap fun j => (List.range (mRows d)).map fun m =>
    (mAddr d + j * mStep d + m * mStride d, 4 * mCols d)

/-- The used address fields of a descriptor: byte offset, value, and the ranges charged to it (R604). Of an MMA whose FMT_A and FMT_B differ in class,
which is rejected anyway, FMT_A's class says whether SADDR is used and can be at fault (log entry 64). -/
def usedFields (d : List Byte) : List (Nat × Nat × List (Nat × Nat)) :=
  match dOp d with
  | 0 => [(20, mAddr d, aRanges d), (24, mStride d, []), (28, mStep d, [])] ++
      (if mxClass (mFmtA d) then [(32, mSaddr d, aScaleRanges d)] else []) ++
      (if mAccin d = 2 then [(36, mCaddr d, cRanges d)] else []) ++
      (if mMask d ≠ 0 then [(40, mMaskAddr d, maskRanges d)] else [])
  | 1 => [(20, mAddr d, bRanges d), (24, mStride d, [])] ++
      (if mxClass (mFmtB d) then [(32, mSaddr d, bScaleRanges d)] else [])
  | 2 => [(20, mAddr d, drainRanges d), (24, mStride d, []), (28, mStep d, [])] ++
      (if mMask d ≠ 0 then [(40, mMaskAddr d, maskRanges d)] else [])
  | _ => []

/-- May the thresher touch this loft range for the tile's stream? The reeve's self-test context owns no share (log entry 14). -/
def thrReach (b : Block) (t off n : Nat) : Bool :=
  if (tileOf b t).selfTest then decide (off + n ≤ loftSize)
  else n == 0 || inShare b t (fld b (uTile t) Fld.tilIdentJob) off n

/-- The descriptor byte offset of the lowest field at fault under the two address conditions of Table 3.5. -/
def operandFault (b : Block) (t : Nat) (d : List Byte) : Option Nat :=
  ((usedFields d).find? fun f => f.2.1 % 32 != 0 || f.2.2.any fun r => !thrReach b t r.1 r.2).map (·.1)

/-- Are the reserved bits and bytes of Table 3.4 zero? -/
def thrReservedZero (d : List Byte) : Bool :=
  dByte d 10 / 64 == 0 && dByte d 11 / 64 == 0 && dByte d 15 / 4 == 0 && leAt d 18 2 == 0 && leAt d 48 16 == 0

/-- The slot an MMA or a LOADB names. -/
def slotOf (x : Tile) (s : Bool) : Option Slot := if s then x.slot1 else x.slot0

/-- The other conditions of Table 3.5. -/
def thrBad (b : Block) (t : Nat) (d : List Byte) : Bool :=
  let top := dOp d
  let x := tileOf b t
  let blocks := decide (mCount d = 0) || decide (15 < mAcc d + mCount d - 1)
  let edges := decide (mRows d = 0) || decide (shapeM (mShape d) < mRows d) || decide (mCols d = 0) ||
    decide (shapeN (mShape d) < mCols d)
  let mask := mMask d == 3 || (mMask d != 0 && mShape d != 0)
  !thrReservedZero d || decide (3 < top) ||
  (match top with
   | 0 =>
     mAccin d == 3 || (fillClass (mFmtB d)).isNone || (fillClass (mFmtA d)).isNone || fillClass (mFmtA d) != fillClass (mFmtB d) ||
       blocks || edges || mask || (mAxis d && !mmaAxisFree (mFmtB d) (mShape d)) ||
       (mKhalf d && !(fillClass (mFmtB d) == some 4 && mShape d == 0)) || (mRef d && !x.selfTest) ||
       (match slotOf x (mSlot d) with
        | none => true
        | some s => s.fmt != mFmtB d || s.shape != mShape d || (s.axis == 1 && !loadAxisFree (mFmtB d) (mShape d)))
   | 1 => (fillClass (mFmtB d)).isNone || (mAxis d && !loadAxisFree (mFmtB d) (mShape d))
   | 2 => blocks || edges || mask
   | 3 => blocks
   | _ => false)

/-- Check a started thresher descriptor (R91, R604): true when it may run; otherwise it is done with BAD_ARGUMENT. -/
def thrCheck (t : Nat) (o : Op) (b : Block) : Bool × Block :=
  match operandFault b t o.desc with
  | some f => (false, finishOp t o.k .badArgument
      (notify (uTile t) Fld.thrStatusOperand .thrOperandFault (o.k % 1024 * 2 ^ 16 + f) b))
  | none => if thrBad b t o.desc then (false, finishOp t o.k .badArgument b) else (true, b)

/-! ### LOADB (R81, R82) -/

def setSlot (t : Nat) (s : Bool) (v : Option Slot) (b : Block) : Block :=
  modTile t (fun x => if s then { x with slot1 := v } else { x with slot0 := v }) b

/-- Read several loft ranges; none when any word is uncorrectable. -/
def loftReads (t : Nat) (rs : List (Nat × Nat)) (b : Block) : Option (List (List Byte)) × Block :=
  rs.foldl (fun acc r =>
    let v := loftRead t r.1 r.2 acc.2
    (match acc.1, v.1 with
     | some l, some x => some (l ++ [x])
     | _, _ => none, v.2)) (some [], b)

/-- The block a LOADB forms from the rows read. -/
def slotFrom (d : List Byte) (rows : List (List Byte)) (scales : List Byte) : Slot :=
  let k := slotK (mFmtB d) (mShape d)
  let n := shapeN (mShape d)
  let w := fmtBits (mFmtB d)
  let rowsOfCodes := rows.map fun r => unpack w r (if mAxis d then k else n)
  let elems := if mAxis d then
      (List.range k).flatMap fun i => rowsOfCodes.map fun col => col.getD i 0
    else rowsOfCodes.flatten
  ⟨mFmtB d, mShape d, b2n (mAxis d), elems, scales.map (·.toNat)⟩

/-- Run a started LOADB. -/
def runLoadb (t : Nat) (o : Op) (b : Block) : Block :=
  let c := thrCheck t o b
  if !c.1 then c.2
  else
    let r := loftReads t (bRanges o.desc) c.2
    let s := loftReads t (bScaleRanges o.desc) r.2
    match r.1, s.1 with
    | some rows, some sc => finishOp t o.k .ok (setSlot t (mSlot o.desc) (some (slotFrom o.desc rows sc.flatten)) s.2)
    | _, _ => finishOp t o.k .opFailed (setSlot t (mSlot o.desc) none s.2)

/-! ### Masks (R96, R97) -/

/-- The mask bits a descriptor reads at its start, bit `i` of the mask for `i` from MASK_BIT on; none when the read fails. -/
def readMask (t : Nat) (d : List Byte) (b : Block) : Option (List Bool) × Block :=
  if mMask d = 0 then (some [], b)
  else
    let r := loftReads t (maskRanges d) b
    let n := if mMask d = 1 then 32 * mCount d else mCount d
    (match r.1 with
     | none => none
     | some _ => some ((List.range n).map fun i =>
         bitOf (byteAt r.2 (loftBase t + mMaskAddr d + (mMaskBit d + i) / 8)).toNat ((mMaskBit d + i) % 8)), r.2)

/-- Is M-block `j` computed or written? -/
def blockLive (d : List Byte) (mask : List Bool) (j : Nat) : Bool := mMask d != 2 || mask.getD j false

/-- Is row `m` of M-block `j` computed or written? -/
def rowLive (d : List Byte) (mask : List Bool) (j m : Nat) : Bool := mMask d != 1 || mask.getD (32 * j + m) false

/-! ### MMA and its fills (R86 to R105) -/

def accGet (x : Tile) (a e : Nat) : Nat := x.acc.get 0 (a * 1024 + e)
def accSet (a e v : Nat) (x : Tile) : Tile :=
  { x with acc := if v = 0 then x.acc.drop (a * 1024 + e) else x.acc.put (a * 1024 + e) v }

/-- Column `n` of B as one fill reads it from a slot (R83, Table 3.3). -/
def slotColumn (d : List Byte) (s : Slot) (n : Nat) : List Nat :=
  let kh := if mKhalf d then 16 else 0
  let w := shapeN (mShape d)
  (List.range (fillK (mFmtB d))).map fun k =>
    if mAxis d then s.elems.getD (n * w + k + kh) 0 else s.elems.getD ((k + kh) * w + n) 0

/-- The blocks the mask skips before the next fill, counted from `j` (R97): the first M-block to fill and how many were skipped. -/
def skipBlocks (d : List Byte) (mask : List Bool) : Nat → Nat → Nat → Nat × Nat
  | 0, j, n => (j, n)
  | f + 1, j, n => if j < mCount d ∧ !blockLive d mask j then skipBlocks d mask f (j + 1) (n + 1) else (j, n)

/-- What each computing unit of a fill works on (R86): for each element index its exact products and its accumulator input, and the code it gives. -/
def fillUnits (d : List Byte) (s : Slot) (mask : List Bool) (x : Tile) (j : Nat) (rows scales cs : List (List Byte)) : List (Nat × List FV × Nat) :=
  match fmtOf (mFmtA d), fmtOf (mFmtB d) with
  | some fa, some fb =>
    let n := shapeN (mShape d)
    let k := fillK (mFmtA d)
    let bk := scaleBlocks (mFmtB d)
    let sc := (scales.flatten).map (·.toNat)
    (List.range (mRows d)).flatMap fun m =>
      if rowLive d mask j m then
        let a := unpack fa.bits (rows.getD m []) k
        (List.range (mCols d)).map fun c =>
          let input := match mAccin d with
            | 0 => 0
            | 1 => accGet x (mAcc d + j) (m * n + c)
            | _ => leAt (cs.getD m []) (4 * c) 4
          let col := slotColumn d s c
          let sa := (sc.drop (m * bk)).take bk
          let sb := (s.scales.drop (c * bk)).take bk
          (m * n + c, products fa fb k a col sa sb ++ [f32 input],
            if mRef d then dotRef fa fb k a col sa sb input (mBias d) else dot fa fb k a col sa sb input (mBias d))
      else []
  | _, _ => []

/-- The elements one fill computes (R86): each element index with its code. -/
def fillOut (d : List Byte) (s : Slot) (mask : List Bool) (x : Tile) (j : Nat) (rows scales cs : List (List Byte)) : List (Nat × Nat) :=
  (fillUnits d s mask x j rows scales cs).map fun e => (e.1, e.2.2)

/-- The units of a fill the residue check covers: a unit with a special result of Table 2.5 forms no window sum and is not checked (R99). -/
def fillChecked (d : List Byte) (s : Slot) (mask : List Bool) (x : Tile) (j : Nat) (rows scales cs : List (List Byte)) (u : Nat) : Bool :=
  !mRef d && (fillUnits d s mask x j rows scales cs).any fun e => e.1 == u && e.2.1.all (·.isFinite)

def isNan32 (c : Nat) : Bool := f32 c == .nan
def isInf32 (c : Nat) : Bool := match f32 c with
  | .inf _ => true
  | _ => false

def setRun (t : Nat) (r : Option MmaRun) (b : Block) : Block := modTile t (fun x => { x with run := r }) b

/-- Write a fill's results and count them (R85, R95, R105). -/
def writeFill (t : Nat) (d : List Byte) (f : Fill) (b : Block) : Block :=
  let nans := (f.out.filter fun e => isNan32 e.2).length
  let infs := (f.out.filter fun e => isInf32 e.2).length
  let b := modTile t (fun x => f.out.foldl (fun x e => accSet (mAcc d + f.j) e.1 e.2 x) x) b
  let b := bump (uTile t) (if mRef d then Off.thrRefFillsLo else Off.thrFillsLo) 1 b
  let b := bump (uTile t) Off.thrOverflowLo infs (bump (uTile t) Off.thrInvalidLo nans b)
  modTile t (fun x => { x with run := x.run.map fun r => { r with
    fills := r.fills.filter (fun g => g.j != f.j), nans := r.nans + nans, infs := r.infs + infs } }) b

/-- The MMA ends: status bits and events for NaN and infinite elements (R105). -/
def endMma (t : Nat) (o : Op) (s : Status) (b : Block) : Block :=
  match (tileOf b t).run with
  | none => finishOp t o.k s b
  | some r =>
    let arg (n : Nat) : Nat := o.k % 1024 * 2 ^ 16 + min n 0xFFFF
    let one (n : Nat) (st en : Field) (e : Ev) (b : Block) : Block :=
      if n = 0 then b
      else
        let b := setSq (uTile t) st b
        if flag b (uTile t) en then raise (uTile t) e (arg n) b else b
    finishOp t o.k s (setRun t none
      (one r.infs Fld.thrStatusOverflow Fld.thrCtrlEvtOvf .thrOverflow
        (one r.nans Fld.thrStatusInvalid Fld.thrCtrlEvtInv .thrInvalid b)))

/-- The MMA ends when no M-block is left and every result is written. -/
def settleMma (t : Nat) (o : Op) (b : Block) : Block :=
  match (tileOf b t).run with
  | some r => if mCount o.desc ≤ r.next ∧ r.fills = [] then endMma t o .ok b else b
  | none => b

/-- Start a started MMA's work: check it, read its mask once, and pass the blocks the mask clears (R91, R96, R97). -/
def runMma (t : Nat) (o : Op) (b : Block) : Block :=
  if (tileOf b t).run.isSome then b
  else
    let c := thrCheck t o b
    if !c.1 then c.2
    else
      let m := readMask t o.desc c.2
      match m.1 with
      | none => finishOp t o.k .opFailed m.2
      | some mask =>
        let s := skipBlocks o.desc mask 16 0 0
        settleMma t o (setRun t (some ⟨o.k, s.1, mask, [], 0, 0⟩) (bump (uTile t) Off.thrSkippedLo s.2 m.2))

/-- The condition of R103, evaluated. -/
def resLimitCheck (t : Nat) (b : Block) : Block :=
  let lim := fld b (uTile t) Fld.thrCtrlResLimit
  let total := reg b (uTile t) Off.thrResTotal
  let reached := decide (lim ≠ 0) && decide (lim ≤ total)
  let b' := modTile t (fun x => { x with resOver := reached }) b
  if reached && !(tileOf b t).resOver then
    notify (uTile t) Fld.thrStatusResLimit .thrResLimit total (degrade (uTile t) b')
  else b'

/-- A write of THR_CTRL (R103). -/
def thrCtrlWrite (t v : Nat) (b : Block) : Block :=
  resLimitCheck t (setReg (uTile t) Off.thrCtrl (Nat.land v 0xFF03) b)

/-- One corrected residue (R101, R103). -/
def residueCorrected (t : Nat) (b : Block) : Block :=
  resLimitCheck t (bump (uTile t) Off.thrResCorrLo 1
    (setReg (uTile t) Off.thrResTotal (min 0xFFFF_FFFF (reg b (uTile t) Off.thrResTotal + 1)) b))

/-- The thresher stops until tile reset and its MMA fails (R102, R104). Fills already started have their results written. -/
def thrStop (t : Nat) (o : Op) (b : Block) : Block :=
  let started := match (tileOf b t).run with
    | some r => r.fills
    | none => []
  let b := started.foldl (fun b f => writeFill t o.desc f b) b
  endMma t o .opFailed (modTile t (fun x => { x with thrStopped := true }) (setOwn (uTile t) hOffline b))

/-- THR_RES_LAST (Table 3.8). -/
def resLast (k j unit : Nat) (parity rep : Bool) : Nat :=
  k % 1024 * 2 ^ 16 + b2n parity * 2 ^ 15 + b2n rep * 2 ^ 14 + j * 2 ^ 10 + unit

/-- A residue mismatch: status, record and event (R100). -/
def residueSeen (t : Nat) (k j unit : Nat) (b : Block) : Block :=
  notify (uTile t) Fld.thrStatusResidue .thrResidue (resLast k j unit false false)
    (setReg (uTile t) Off.thrResLast (resLast k j unit false false) b)

/-- What a fill reads of M-block `j`: the live rows of A, the scale codes, the FP32 inputs, each row at its place; none when a word is
uncorrectable (R86, R87, R97). -/
def fillReads (t : Nat) (d : List Byte) (mask : List Bool) (j : Nat) (b : Block) :
    Option (List (List Byte) × List (List Byte) × List (List Byte)) × Block :=
  let live := (List.range (mRows d)).filter fun m => rowLive d mask j m
  let rr := loftReads t (live.map fun m => (mAddr d + j * mStep d + m * mStride d, fillK (mFmtA d) * fmtBits (mFmtA d) / 8)) b
  let bk := scaleBlocks (mFmtA d)
  let sr := loftReads t (if mxClass (mFmtA d) then [(mSaddr d + j * shapeM (mShape d) * bk, mRows d * bk)] else []) rr.2
  let cr := loftReads t (if mAccin d = 2 then
      live.map fun m => (mCaddr d + 4096 * j + 4 * (m * shapeN (mShape d)), 4 * mCols d) else []) sr.2
  -- rows and inputs were read for the live rows only: spread them back by row number
  let spread (l : List (List Byte)) : List (List Byte) := (List.range (mRows d)).map fun m =>
    if live.contains m then l.getD (live.filter (· < m)).length [] else []
  (match rr.1, sr.1, cr.1 with
   | some rows, some sc, some cs => some (spread rows, sc, spread cs)
   | _, _, _ => none, cr.2)

/-- Start the next fill of the tile's MMA (R78, R86, R94, R99 to R104). A fill whose accumulator input is still to be written waits. A parity error
names no unit that mismatched: THR_RES_LAST.UNIT is 0 then (log entry 64). -/
def startFill (t : Nat) (obs : FillObs) (starved : Bool) (b : Block) : Block :=
  let x := tileOf b t
  match x.run with
  | none => b
  | some r =>
    match x.ops.find? fun o => o.k = r.k with
    | none => b
    | some o =>
      let d := o.desc
      let j := r.next
      if mCount d ≤ j || x.thrStopped || (mAccin d == 1 && r.fills.any fun f => f.j == j) then b
      else match slotOf x (mSlot d) with
      | none => b
      | some s =>
        let b := if starved && !mRef d then bump (uTile t) Off.thrStarvedLo 1 b else b
        let v := fillReads t d r.mask j b
        let b := v.2
        match v.1 with
        | some (rows, sc, cs) =>
          let out := fillOut d s r.mask x j rows sc cs
          let checked := fillChecked d s r.mask x j rows sc cs
          let go (b : Block) : Block :=
            let sk := skipBlocks d r.mask 16 (j + 1) 0
            setRun t (some { r with next := sk.1, fills := r.fills ++ [⟨j, out⟩] }) (bump (uTile t) Off.thrSkippedLo sk.2 b)
          match obs with
          | .clean => go b
          | .residue u => if checked u then go (residueCorrected t (residueSeen t o.k j u b)) else go b
          | .fatal u v =>
            if checked u && !checked v then go (residueCorrected t (residueSeen t o.k j u b))
            else if checked u then
              thrStop t o (notify (uTile t) Fld.thrStatusResFatal .thrResidueFatal (resLast o.k j v false false)
                (setReg (uTile t) Off.thrResLast (resLast o.k j v false true) (residueSeen t o.k j u b)))
            else go b
          | .parity held =>
            thrStop t o (notify (uTile t) Fld.thrStatusParity .thrParity (o.k % 1024 * 2 ^ 16 + b2n held)
              (setReg (uTile t) Off.thrResLast (resLast o.k j 0 true false) b))
        | none =>
          -- an operand granule is uncorrectable (R187): nothing of the fill is written and the MMA fails
          let b := r.fills.foldl (fun b f => writeFill t d f b) b
          endMma t o .opFailed b

/-- Write the results of the oldest started fill (R95). -/
def fillResult (t : Nat) (b : Block) : Block :=
  let x := tileOf b t
  match x.run with
  | none => b
  | some r => match r.fills, x.ops.find? fun o => o.k = r.k with
    | f :: _, some o => settleMma t o (writeFill t o.desc f b)
    | _, _ => b

/-! ### DRAIN and ZERO (R95, R98) -/

/-- The M-blocks and rows of them a DRAIN writes. -/
def drainCells (d : List Byte) (mask : List Bool) : List (Nat × Nat) :=
  (List.range (mCount d)).flatMap fun j => if blockLive d mask j then
      ((List.range (mRows d)).filter (rowLive d mask j)).map fun r => (j, r)
    else []

/-- Write the live rows, element (m, n) of tile ACC + j as FP32 at ADDR + j × MSTEP + m × STRIDE + 4n; whether every write succeeded (R98). -/
def drainWrites (t : Nat) (d : List Byte) (mask : List Bool) (x : Tile) (b : Block) : Bool × Block :=
  (drainCells d mask).foldl (fun acc c =>
    let v := (List.range (mCols d)).flatMap fun n => leBytes 4 (accGet x (mAcc d + c.1) (c.2 * shapeN (mShape d) + n))
    let r := loftWrite t (mAddr d + c.1 * mStep d + c.2 * mStride d) v acc.2
    (acc.1 && r.1, r.2)) (true, b)

/-- Run a started DRAIN. -/
def runDrain (t : Nat) (o : Op) (b : Block) : Block :=
  let c := thrCheck t o b
  if !c.1 then c.2
  else
    let d := o.desc
    let m := readMask t d c.2
    match m.1 with
    | none => finishOp t o.k .opFailed m.2
    | some mask =>
      let w := drainWrites t d mask (tileOf b t) m.2
      finishOp t o.k (if w.1 then .ok else .opFailed) w.2

/-- Run a started ZERO. -/
def runZero (t : Nat) (o : Op) (b : Block) : Block :=
  let c := thrCheck t o b
  if !c.1 then c.2
  else
    let lo := mAcc o.desc * 1024
    let hi := lo + mCount o.desc * 1024
    finishOp t o.k .ok (modTile t (fun x => { x with acc := x.acc.filter fun e => !(decide (lo ≤ e.1) && decide (e.1 < hi)) }) c.2)

/-- THR_SLOT as it reads. -/
def thrSlot (x : Tile) : Nat :=
  let one (s : Option Slot) : Nat := match s with
    | none => 0
    | some s => 0x80 + s.axis * 64 + s.shape * 16 + s.fmt
  one x.slot1 * 256 + one x.slot0

/-- Act on the started operation in a window slot when its class and operation code are the command's. -/
def onStarted (t w cls op : Nat) (f : Op → Block → Block) (b : Block) : Block :=
  match opInSlot b t w with
  | some o => if o.isStarted && dClass o.desc == cls && dOp o.desc == op then f o b else b
  | none => b

end Sys2Proof.Machine
end

