-- ==== Sys2Proof/Machine/VMath.lean ====
section
/-! DEFINITION. The functions of R168, correctly rounded. RECIP, RSQRT, SQRT and DIV are exact up to a sticky bit; the others are enclosed
between two fixed-point numbers, and the result is their common rounding. Where an enclosure does not settle the rounding the result is a
free value (log entry 3): rounding is monotone, so a settled result is the correctly rounded one. -/

namespace Sys2Proof.Machine

/-- Fraction bits of the enclosures. -/
def vP : Nat := 640

/-- An enclosure: the real value lies between `lo / 2^vP` and `hi / 2^vP`. -/
structure Enc where
  lo : Int
  hi : Int
deriving DecidableEq, Repr

/-- Division rounded up. -/
def cdiv (a d : Int) : Int := -((-a) / d)

def Enc.ofRat (p q : Int) : Enc := ⟨p * 2 ^ vP / q, cdiv (p * 2 ^ vP) q⟩
def Enc.add (x y : Enc) : Enc := ⟨x.lo + y.lo, x.hi + y.hi⟩
def Enc.neg (x : Enc) : Enc := ⟨-x.hi, -x.lo⟩
def Enc.sub (x y : Enc) : Enc := x.add y.neg
def Enc.mul (x y : Enc) : Enc :=
  let a := x.lo * y.lo
  let b := x.lo * y.hi
  let c := x.hi * y.lo
  let d := x.hi * y.hi
  ⟨min (min a b) (min c d) / 2 ^ vP, cdiv (max (max a b) (max c d)) (2 ^ vP)⟩
def Enc.divNat (x : Enc) (n : Nat) : Enc := ⟨x.lo / n, cdiv x.hi n⟩
def Enc.mulInt (x : Enc) (n : Int) : Enc := if 0 ≤ n then ⟨x.lo * n, x.hi * n⟩ else ⟨x.hi * n, x.lo * n⟩
/-- The reciprocal of a positive enclosure. -/
def Enc.inv (x : Enc) : Enc := ⟨2 ^ (2 * vP) / x.hi, cdiv (2 ^ (2 * vP)) x.lo⟩
def Enc.one : Enc := ⟨2 ^ vP, 2 ^ vP⟩
/-- Widen by a bound on what a series leaves out. -/
def Enc.widen (x : Enc) (t : Int) : Enc := ⟨x.lo - t, x.hi + t⟩

/-- The FP32 code an enclosure settles on, if both ends round alike. -/
def Enc.round (x : Enc) : Option Nat :=
  let r (v : Int) : Nat := toF32 (.num (decide (v < 0)) v.natAbs (-(vP : Int)))
  if r x.lo = r x.hi then some (r x.lo) else none

/-- A dyadic value as an enclosure. -/
def Enc.ofNum (neg : Bool) (m : Nat) (e : Int) : Enc :=
  let k := e + vP
  let v : Int := (if 0 ≤ k then m * 2 ^ k.toNat else m / 2 ^ (-k).toNat : Nat)
  let w : Int := if 0 ≤ k then v else v + 1
  if neg then ⟨-w, -v⟩ else ⟨v, w⟩

/-- 1 + r/1 · (1 + r/2 · (1 + …)), `n` factors, from the innermost out. -/
def expHorner (r : Enc) : Nat → Nat → Enc → Enc
  | 0, _, acc => acc
  | n + 1, k, acc => expHorner r n (k - 1) (Enc.one.add ((r.mul acc).divNat k))

/-- e^x for 0 ≤ x < 2^8: Taylor on x / 2^24, then 24 squarings. -/
def encExp (x : Enc) : Enc :=
  let r : Enc := ⟨x.lo / 2 ^ 24, cdiv x.hi (2 ^ 24)⟩
  iterate (fun y => y.mul y) 24 ((expHorner r 40 40 Enc.one).widen (2 ^ 20))

/-- Σ z^(2i+1) / (2i+1) from i = k on, n terms. -/
def atanhSum (z2 : Enc) : Nat → Nat → Enc → Enc → Enc
  | 0, _, _, acc => acc
  | n + 1, k, p, acc => atanhSum z2 n (k + 1) (p.mul z2) (acc.add (p.divNat (2 * k + 1)))

/-- ln(p/q) for 1 ≤ p/q < 2: twice atanh((p - q)/(p + q)). -/
def encLnRat (p q : Nat) : Enc :=
  let z := Enc.ofRat ((p : Int) - q) (p + q)
  ((atanhSum (z.mul z) 210 0 z ⟨0, 0⟩).mulInt 2).widen 4

def encLn2 : Enc :=
  let z := Enc.ofRat 1 3
  ((atanhSum (z.mul z) 210 0 z ⟨0, 0⟩).mulInt 2).widen 4

/-- Σ (-1)^i (1/m)^(2i+1) / (2i+1) scaled by 2^vP, truncated terms: within `n` units. -/
def atanInvGo (m2 : Nat) : Nat → Nat → Nat → Int → Int
  | 0, _, _, acc => acc
  | n + 1, k, p, acc =>
    let t : Int := (p / (2 * k + 1) : Nat)
    atanInvGo m2 n (k + 1) (p / m2) (if k % 2 = 0 then acc + t else acc - t)

def encPi : Enc :=
  let a := atanInvGo 25 150 0 (2 ^ vP / 5) 0
  let b := atanInvGo (239 * 239) 150 0 (2 ^ vP / 239) 0
  Enc.widen ⟨16 * a - 4 * b, 16 * a - 4 * b⟩ (2 ^ 14)

/-- The square root of a positive enclosure. -/
def encSqrt (x : Enc) : Enc := ⟨isqrt (x.lo.toNat * 2 ^ vP), (isqrt (x.hi.toNat * 2 ^ vP) : Int) + 1⟩

/-- e^x for any x of magnitude below 2^8. -/
def encExpSigned (neg : Bool) (m : Nat) (e : Int) : Enc :=
  let y := encExp (Enc.ofNum false m e)
  if neg then y.inv else y

/-- Σ over n of 2^n x^(2n+1) / (2n+1)!!, all terms positive; `t` is the present term. -/
def erfSum (x2 : Enc) : Nat → Nat → Enc → Enc → Enc
  | 0, _, t, acc => ⟨acc.lo, acc.hi + 2 * t.hi⟩
  | n + 1, k, t, acc => erfSum x2 n (k + 1) (((t.mul x2).mulInt 2).divNat (2 * k + 3)) (acc.add t)

/-- erf(x) for 0 < x < 4: (2/√π) e^(-x²) times the series. -/
def encErf (m : Nat) (e : Int) : Enc :=
  let x := Enc.ofNum false m e
  let s := erfSum (x.mul x) 260 0 x ⟨0, 0⟩
  ((s.mul (encExp (x.mul x)).inv).mulInt 2).mul (encSqrt encPi).inv

/-- Σ (-1)^i r^(2i + odd) / (2i + odd)! -/
def trigSum (r2 : Enc) (odd : Nat) : Nat → Nat → Enc → Enc → Enc
  | 0, _, t, acc => acc.widen (2 + t.hi.natAbs)
  | n + 1, i, t, acc =>
    trigSum r2 odd n (i + 1) ((t.mul r2).divNat ((2 * i + odd + 1) * (2 * i + odd + 2)))
      (if i % 2 = 0 then acc.add t else acc.sub t)

/-- sin of x plus `quarters` right angles. -/
def encSin (neg : Bool) (m : Nat) (e : Int) (quarters : Nat) : Enc :=
  let x := Enc.ofNum false m e
  let half : Enc := ⟨encPi.lo / 2, cdiv encPi.hi 2⟩
  let n := x.lo / half.hi
  let r := x.sub (half.mulInt n)
  let sinR := trigSum (r.mul r) 1 75 0 r ⟨0, 0⟩
  let cosR := trigSum (r.mul r) 0 75 0 Enc.one ⟨0, 0⟩
  -- sin(-x + q) = sin by quarter turns; fold the sign of x in
  let k := (if neg then (4 - n.toNat % 4 + quarters) else n.toNat + quarters) % 4
  let sr := if neg then sinR.neg else sinR
  match k with
  | 0 => sr
  | 1 => cosR
  | 2 => sr.neg
  | _ => cosR.neg

/-- The functions of VOPs 0x10 to 0x1B (Table 5.7). -/
inductive VFun where
  | exp | exp2 | log | log2 | recip | rsqrt | sqrt | tanh | sigmoid | erf | sin | cos
deriving DecidableEq, Repr

def VFun.code : VFun → Nat
  | .exp => 0x10
  | .exp2 => 0x11
  | .log => 0x12
  | .log2 => 0x13
  | .recip => 0x14
  | .rsqrt => 0x15
  | .sqrt => 0x16
  | .tanh => 0x17
  | .sigmoid => 0x18
  | .erf => 0x19
  | .sin => 0x1A
  | .cos => 0x1B

def one32 : Nat := 0x3F80_0000
def negBit : Nat := 0x8000_0000
def inf32 : Nat := 0x7F80_0000

/-- Apply the sign. -/
def signed32 (neg : Bool) (c : Nat) : Nat := if neg then c + negBit else c

/-- The magnitude `m × 2^e` is at least `k`. -/
def atLeast (m : Nat) (e : Int) (k : Nat) : Bool := !(FV.lt (.num false m e) (.num false k 0))

/-- Is the dyadic value an integer, and which magnitude? -/
def asInteger (m : Nat) (e : Int) : Option Nat :=
  if 0 ≤ e then some (m * 2 ^ e.toNat) else if m % 2 ^ (-e).toNat = 0 then some (m / 2 ^ (-e).toNat) else none

/-- The reciprocal square root of a positive dyadic value, exact or sticky. -/
def frsqrt (m : Nat) (e : Int) : FV :=
  let odd := e % 2 = 1
  let m2 := if odd then 2 * m else m
  let e2 := if odd then e - 1 else e
  let k : Nat := 160
  let q := 2 ^ (2 * k) / m2
  let r := isqrt q
  .num false (2 * r + b2n (r * r * m2 != 2 ^ (2 * k))) (-(e2 / 2) - k - 1)

/-- Settle an enclosure, else a free value. -/
def settle (f : VFun) (x : Nat) (y : Enc) : Nat := (y.round).getD (Config.freeFunction f.code x % 2 ^ 32)

/-- A function of R168 at an FP32 code. -/
def vfun (f : VFun) (x : Nat) : Nat := match f, f32 x with
  | _, .nan => nan32
  | .exp, .inf n => if n then 0 else inf32
  | .exp2, .inf n => if n then 0 else inf32
  | .log, .inf n => if n then nan32 else inf32
  | .log2, .inf n => if n then nan32 else inf32
  | .recip, .inf n => signed32 n 0
  | .rsqrt, .inf n => if n then nan32 else 0
  | .sqrt, .inf n => if n then nan32 else inf32
  | .tanh, .inf n => signed32 n one32
  | .sigmoid, .inf n => if n then 0 else one32
  | .erf, .inf n => signed32 n one32
  | .sin, .inf _ => nan32
  | .cos, .inf _ => nan32
  | .exp, .num n m e =>
    if m = 0 then one32
    else if atLeast m e 105 then (if n then 0 else inf32)
    else settle f x (encExpSigned n m e)
  | .exp2, .num n m e =>
    if m = 0 then one32
    else if atLeast m e 152 then (if n then 0 else inf32)
    else match asInteger m e with
      | some k => toF32 (.num false 1 (if n then -(k : Int) else k))
      | none =>
        let y := encExp ((Enc.ofNum false m e).mul encLn2)
        settle f x (if n then y.inv else y)
  | .log, .num n m e =>
    if m = 0 then signed32 true inf32
    else if n then nan32
    else if x = one32 then 0
    else
      let l := Nat.log2 m
      settle f x ((encLnRat m (2 ^ l)).add (encLn2.mulInt (l + e)))
  | .log2, .num n m e =>
    if m = 0 then signed32 true inf32
    else if n then nan32
    else
      let l := Nat.log2 m
      if m = 2 ^ l then toF32 (.num (decide ((l : Int) + e < 0)) ((l : Int) + e).natAbs 0)
      else settle f x (((encLnRat m (2 ^ l)).mul encLn2.inv).add (Enc.one.mulInt (l + e)))
  | .recip, v => toF32 (fdiv (.num false 1 0) v)
  | .rsqrt, .num n m e => if m = 0 then signed32 n inf32 else if n then nan32 else toF32 (frsqrt m e)
  | .sqrt, v => toF32 (fsqrt v)
  | .tanh, .num n m e =>
    if m = 0 then x
    else if atLeast m e 16 then signed32 n one32
    else
      let y := encExp (Enc.ofNum false (2 * m) e)
      let t := (y.sub Enc.one).mul (y.add Enc.one).inv
      settle f x (if n then t.neg else t)
  | .sigmoid, .num n m e =>
    if m = 0 then 0x3F00_0000
    else if atLeast m e 105 then (if n then 0 else one32)
    else
      let y := encExp (Enc.ofNum false m e)
      settle f x (if n then (y.add Enc.one).inv else y.mul (y.add Enc.one).inv)
  | .erf, .num n m e =>
    if m = 0 then x
    else if atLeast m e 4 then signed32 n one32
    else
      let t := encErf m e
      settle f x (if n then t.neg else t)
  | .sin, .num n m e => if m = 0 then x else settle f x (encSin n m e 0)
  | .cos, .num n m e => if m = 0 then one32 else settle f x (encSin n m e 1)

end Sys2Proof.Machine
end

