-- ==== Sys2Proof/Machine/Vector.lean ====
section
/-! DEFINITION. The vector unit (chapter 05, R166 to R176; R111 to R118 for its conversions and winnow passes). -/

namespace Sys2Proof.Machine

/-! ### Descriptor fields (Table 5.6) -/

def vTypeA (d : List Byte) : Nat := dByte d 9 % 16
def vTypeB (d : List Byte) : Nat := dByte d 9 / 16
def vTypeD (d : List Byte) : Nat := dByte d 10 % 16
def vAcctA (d : List Byte) : Nat := dByte d 11 % 16
def vAcctD (d : List Byte) : Nat := dByte d 11 / 16
def vAaddr (d : List Byte) : Nat := leAt d 12 4
def vBaddr (d : List Byte) : Nat := leAt d 16 4
def vDaddr (d : List Byte) : Nat := leAt d 20 4
def vLen (d : List Byte) : Nat := leAt d 24 3
def vBimm (d : List Byte) : Bool := bitOf (dByte d 27) 0
def vBrow (d : List Byte) : Bool := bitOf (dByte d 27) 1
def vAacc (d : List Byte) : Bool := bitOf (dByte d 27) 2
def vDacc (d : List Byte) : Bool := bitOf (dByte d 27) 3
def vWr (d : List Byte) : Nat := bitsOf (dByte d 27) 5 4
def vRows (d : List Byte) : Nat := leAt d 28 2
def vScidx (d : List Byte) : Nat := leAt d 30 2
def vAstride (d : List Byte) : Nat := leAt d 32 4
def vDstride (d : List Byte) : Nat := leAt d 36 4
def vRound (d : List Byte) : Bool := bitOf (dByte d 40) 0
def vSrbits (d : List Byte) : Nat := bitsOf (dByte d 40) 2 1
def vSatmode (d : List Byte) : Bool := bitOf (dByte d 40) 3
def vScsrc (d : List Byte) : Nat := bitsOf (dByte d 40) 5 4
def vEadj (d : List Byte) : Int := signedOf 8 (dByte d 41)
def vEimm (d : List Byte) : Int := signedOf 8 (dByte d 42)
def vFoldA (d : List Byte) : Nat := leAt d 44 2
def vFoldB (d : List Byte) : Nat := leAt d 46 2
def vTensor (d : List Byte) : Nat := leAt d 48 4
def vEbase (d : List Byte) : Nat := leAt d 52 6
def vErow (d : List Byte) : Nat := leAt d 58 4

/-! ### Shapes of the operations (Table 5.7) -/

/-- Does the VOP read B? -/
def vReadsB (v : Nat) : Bool := [0x01, 0x02, 0x03, 0x04, 0x05, 0x06, 0x09, 0x0A, 0x1C].contains v
/-- Is the VOP a reduction? -/
def vReduces (v : Nat) : Bool := decide (0x20 ≤ v) && decide (v ≤ 0x24)
/-- Elements of a row of D. -/
def vDlen (d : List Byte) : Nat := if vReduces (dOp d) then 1 else vLen d

/-- Bytes an element's address must be a multiple of: packed codes have none but the byte. -/
def elemSize (c : Nat) : Nat := max 1 (fmtBits c / 8)

/-- Bytes of a row of `n` elements of a code. -/
def rowBytes (c n : Nat) : Nat := packedBytes (fmtBits c) n

/-- A region of the operation: in the loft or in an accumulator tile, its start, stride, rows, bytes of a row and element size. -/
structure VRegion where
  acc : Option Nat
  start : Nat
  stride : Nat
  rows : Nat
  bytes : Nat
  size : Nat
deriving DecidableEq, Repr

def VRegion.ranges (r : VRegion) : List (Nat × Nat) := (List.range r.rows).map fun i => (r.start + i * r.stride, r.bytes)

def aRegion (d : List Byte) : VRegion :=
  ⟨if vAacc d then some (vAcctA d) else none, vAaddr d, vAstride d, vRows d, rowBytes (vTypeA d) (vLen d), elemSize (vTypeA d)⟩

def bRegion (d : List Byte) : Option VRegion :=
  if vReadsB (dOp d) && !vBimm d then
    some ⟨none, vBaddr d, if vBrow d then 0 else vAstride d, if vBrow d then 1 else vRows d, rowBytes (vTypeB d) (vLen d), elemSize (vTypeB d)⟩
  else none

def dRegion (d : List Byte) : Option VRegion :=
  if dOp d = 0x31 then none
  else some ⟨if vDacc d then some (vAcctD d) else none, vDaddr d, vDstride d, vRows d, rowBytes (vTypeD d) (vDlen d), elemSize (vTypeD d)⟩

/-- The block-scale codes an MX CONV writes or an MX WIDEN reads (R171). -/
def scaleRegion (d : List Byte) : Option (Nat × Nat) :=
  if (dOp d = 0x30 ∧ isMx (vTypeD d)) ∨ (dOp d = 0x32 ∧ isMx (vTypeA d)) then some (vBaddr d, vRows d * (vLen d / 32)) else none

/-- Do two regions share a byte? -/
def VRegion.meets (r s : VRegion) : Bool :=
  r.acc == s.acc && r.ranges.any fun x => s.ranges.any fun y => overlaps x.1 x.2 y.1 y.2

/-- Do two regions cover the same bytes element for element (R174)? A CONV between elements of one size whose D lies exactly over A is in place by this
definition: DESIGN CHOICE (log entry 77). -/
def VRegion.same (r s : VRegion) : Bool :=
  r.acc == s.acc && r.start == s.start && r.size == s.size && r.rows == s.rows && r.bytes == s.bytes &&
    (r.stride == s.stride || r.rows == 1)

/-! ### The rejects of R174 -/

def vTypesBad (d : List Byte) : Bool :=
  let v := dOp d
  let fp (c : Nat) : Bool := c == 0xB || c == 0x9
  let aOk := if v = 0x32 then (fmtOf (vTypeA d)).isSome && vTypeA d != 0xB else fp (vTypeA d)
  let bOk := (bRegion d).isNone || fp (vTypeB d)
  let dOk := if v = 0x30 then (fmtOf (vTypeD d)).isSome else vTypeD d == 0xB
  !aOk || !bOk || !dOk || (vAacc d && vTypeA d != 0xB) || (vDacc d && vTypeD d != 0xB)

def vRegionBad (b : Block) (t : Nat) (r : VRegion) : Bool :=
  decide (r.start % r.size ≠ 0) || decide (r.stride % r.size ≠ 0) ||
    r.ranges.any fun x => match r.acc with
      | some _ => decide (4096 < x.1 + x.2)
      | none => !thrReach b t x.1 x.2

/-- The conditions of R174 but those that read a scale-table entry. -/
def vecBad (b : Block) (t : Nat) (d : List Byte) : Bool :=
  let v := dOp d
  let j := fld b (uTile t) Fld.tilIdentJob
  let clash (o : Option VRegion) : Bool := match o, dRegion d with
    | some r, some x => x.meets r && !x.same r
    | _, _ => false
  let coded := if v = 0x30 then some (vTypeD d) else if v = 0x32 then some (vTypeA d) else none
  !opDefined d || decide (dByte d 10 / 16 ≠ 0) || decide (dByte d 27 / 64 ≠ 0) || decide (dByte d 40 / 64 ≠ 0) ||
    decide (dByte d 43 ≠ 0) || decide (leAt d 62 2 ≠ 0) || vTypesBad d || decide (vLen d = 0) || decide (vRows d = 0) ||
    vRegionBad b t (aRegion d) || ((bRegion d).any (vRegionBad b t)) || ((dRegion d).any (vRegionBad b t)) ||
    ((scaleRegion d).any fun r => !thrReach b t r.1 r.2) || clash (some (aRegion d)) || clash (bRegion d) ||
    (match coded with
     | some c => if isMx c then decide (vLen d % 32 ≠ 0) else false
     | none => false) ||
    ((v == 0x30 || v == 0x31 || v == 0x0C) && (!foldOk b j (vFoldA d) || !foldOk b j (vFoldB d))) ||
    (v == 0x30 && (vSrbits d == 3 || vScsrc d == 3 || !entryOk b j (vScidx d) || vEimm d == -128 ||
      (vScsrc d == 1 && reg b (uTile t) (Off.vecWinnow (vWr d)) == 0xFFFF_FFFF)))

/-! ### Reading and computing -/

/-- A BF16 or FP32 code as an FP32 code (R167). -/
def toCode32 (ty c : Nat) : Nat := if ty = 0x9 then c * 2 ^ 16 else c

/-- The rows of a region as element codes; none when the loft cannot give them. -/
def readRegion (t : Nat) (ty n : Nat) (r : VRegion) (b : Block) : Option (List (List Nat)) × Block :=
  match r.acc with
  | some a => (some ((List.range r.rows).map fun i => (List.range n).map fun c =>
      accGet (tileOf b t) a ((r.start + i * r.stride) / 4 + c)), b)
  | none =>
    let x := loftReads t r.ranges b
    (x.1.map fun rows => rows.map fun l => unpack (fmtBits ty) l n, x.2)

/-- An FP32 result, a NaN made canonical (R167). -/
def canon (c : Nat) : Nat := if isNan32 c then nan32 else c

/-- The element-wise operations (Table 5.7). -/
def vecElem (v : Nat) (k : Int) (a b d : Nat) : Nat :=
  let nan2 := isNan32 a || isNan32 b
  match v with
  | 0x01 => f32Add a b
  | 0x02 => f32Sub a b
  | 0x03 => f32Mul a b
  | 0x04 => f32Fma a b d
  | 0x05 => if nan2 then nan32 else toF32 (fmaxV (f32 a) (f32 b))
  | 0x06 => if nan2 then nan32 else toF32 (fminV (f32 a) (f32 b))
  | 0x07 => canon (a % 2 ^ 31)
  | 0x08 => canon (Nat.xor a (2 ^ 31))
  | 0x09 => if nan2 then 0 else if (f32 b).lt (f32 a) then one32 else 0
  | 0x0A => if nan2 then 0 else if (f32 b).lt (f32 a) || (f32 a).lt (f32 b) then 0 else one32
  | 0x0B => canon a
  | 0x0C => toF32 ((f32 a).scale k)
  | 0x10 => vfun .exp a
  | 0x11 => vfun .exp2 a
  | 0x12 => vfun .log a
  | 0x13 => vfun .log2 a
  | 0x14 => vfun .recip a
  | 0x15 => vfun .rsqrt a
  | 0x16 => vfun .sqrt a
  | 0x17 => vfun .tanh a
  | 0x18 => vfun .sigmoid a
  | 0x19 => vfun .erf a
  | 0x1A => vfun .sin a
  | 0x1B => vfun .cos a
  | _ => f32Div a b

/-- One lane of RSUM or RSUMSQ: elements l, l + 512, … in rising order (R170). -/
def laneSum (sq : Bool) (l : Nat) (xs : List Nat) : Nat :=
  (xs.zipIdx.filter fun p => p.2 % 512 == l).foldl (fun acc p => if sq then f32Fma p.1 p.1 acc else f32Add acc p.1) 0

/-- One level of the adding tree. -/
def treeStep (w : Nat) (p : List Nat) : List Nat := (List.range w).map fun l => f32Add (p.getD l 0) (p.getD (l + w) 0)

/-- RSUM and RSUMSQ of a row (R170). -/
def rowSum (sq : Bool) (xs : List Nat) : Nat :=
  let p := (List.range 512).map fun l => laneSum sq l xs
  ([256, 128, 64, 32, 16, 8, 4, 2, 1].foldl (fun p w => treeStep w p) p).getD 0 0

/-- The reductions of a row (Table 5.7). -/
def rowReduce (v : Nat) (xs : List Nat) : Nat :=
  let worst (f : FV → FV → FV) (l : List FV) : Nat := match l with
    | [] => 0
    | x :: r => if (x :: r).any (· == .nan) then nan32 else toF32 (r.foldl f x)
  match v with
  | 0x20 => rowSum false xs
  | 0x21 => rowSum true xs
  | 0x22 => worst fmaxV (xs.map f32)
  | 0x23 => worst fminV (xs.map f32)
  | _ => worst fmaxV (xs.map fun x => (f32 x).abs)

/-- Write one row of D. -/
def writeRow (t : Nat) (r : VRegion) (i : Nat) (bits : Nat) (cs : List Nat) (b : Block) : Bool × Block :=
  match r.acc with
  | some a => (true, modTile t (fun x => cs.zipIdx.foldl (fun x p => accSet a ((r.start + i * r.stride) / 4 + p.2) p.1 x) x) b)
  | none => loftWrite t (r.start + i * r.stride) (pack bits cs) b

/-- Write the rows of D. -/
def writeRows (t : Nat) (r : VRegion) (bits : Nat) (rows : List (List Nat)) (b : Block) : Bool × Block :=
  rows.zipIdx.foldl (fun acc p => let w := writeRow t r p.2 bits p.1 acc.2; (acc.1 && w.1, w.2)) (true, b)

/-! ### A result check that disagrees (R176) -/

/-- A free value for each of the first `n` elements of a row, and what is there for the rest. -/
def freeRow (n : Nat) (bits : Nat) (old : List Nat) (b : Block) : List Nat × Block :=
  old.zipIdx.foldl (fun acc p =>
    if p.2 < n then let f := takeFree acc.2; (acc.1 ++ [f.1 % 2 ^ bits], f.2) else (acc.1 ++ [p.1], acc.2)) ([], b)

/-- The elements of D written before the disagreement at flat element `p` are undefined: each takes a free value. Nothing else of D is written. -/
def freeBefore (t : Nat) (d : List Byte) (p : Nat) (b : Block) : Block :=
  match dRegion d with
  | none => b
  | some r =>
    let n := vDlen d
    let perRow := if vReduces (dOp d) then vLen d else n
    (List.range r.rows).foldl (fun b i =>
      let cnt := if vReduces (dOp d) then (if perRow * (i + 1) ≤ p then 1 else 0) else min n (p - perRow * i)
      if cnt = 0 then b
      else
        let old := match r.acc with
          | some a => (List.range n).map fun c => accGet (tileOf b t) a ((r.start + i * r.stride) / 4 + c)
          | none => unpack (fmtBits (vTypeD d)) (bytesAt b (loftBase t + r.start + i * r.stride) r.bytes) n
        let f := freeRow cnt (fmtBits (vTypeD d)) old b
        match r.acc with
        | some _ => (writeRow t r i (fmtBits (vTypeD d)) f.1 f.2).2
        | none => (loftWrite t (r.start + i * r.stride) ((pack (fmtBits (vTypeD d)) f.1).take ((cnt * fmtBits (vTypeD d) + 7) / 8)) f.2).2) b

/-- The record, count and event of a result check that disagreed. -/
def vecResidue (t : Nat) (o : Op) (lane : Nat) (b : Block) : Block :=
  modTile t (fun x => { x with failed := x.failed.put o.k .check }) (finishOp t o.k .opFailed (notify (uTile t) Fld.vecStatusResidue .vecResidue (o.k % 1024 * 2 ^ 16 + lane)
    (bump (uTile t) Off.vecResLo 1 (setReg (uTile t) Off.vecResLast (o.k % 1024 * 2 ^ 16 + lane) b))))

/-! ### The operations -/

/-- The scale-table indices an operation reads. -/
def vecEntries (d : List Byte) : List Nat :=
  if dOp d = 0x30 then [vScidx d, vFoldA d, vFoldB d] else if dOp d = 0x31 ∨ dOp d = 0x0C then [vFoldA d, vFoldB d] else []

/-- The entries as readEntries takes them: SCIDX 65,535 is an entry, not "none" (R115). -/
def vecReadEntries (b : Block) (j : Nat) (d : List Byte) : Bool × Block :=
  let r := readEntries j ((vecEntries d).drop (if dOp d = 0x30 then 1 else 0)) b
  if dOp d = 0x30 then
    let s := readLines [entryAddr b j (vScidx d) / 64] r.2
    (r.1 && s.1, s.2)
  else r

/-- Ea + Eb of the operation's folds. -/
def vecFold (b : Block) (j : Nat) (d : List Byte) : Int := foldExp b j (vFoldA d) + foldExp b j (vFoldB d)

/-- The conversion exponent of R111. -/
def vecExponent (b : Block) (t j : Nat) (d : List Byte) : Int :=
  let w := entryWord b j (vScidx d)
  let es : Int := match vScsrc d, fmtOf (vTypeD d) with
    | 0, _ => (bitsOf w 7 0 : Int) - 127
    | 1, some f => scaleExp (f32 (reg b (uTile t) (Off.vecWinnow (vWr d)))) f (bitsOf w 23 22)
    | _, _ => vEimm d
  es - vecFold b j d + vEadj d

/-- CONV (R171, R172, R122, R136, R175). -/
def runConv (t : Nat) (o : Op) (upset : Option Nat) (rows : List (List Nat)) (r : VRegion) (b : Block) : Block :=
  let d := o.desc
  let j := fld b (uTile t) Fld.tilIdentJob
  let xs := rows.map fun l => l.map fun c => f32 (toCode32 (vTypeA d) c)
  let ctl : ConvCtl := ⟨vTypeD d, vRound d, vSrbits d, vSatmode d, vecExponent b t j d, reg b (uTile t) Off.tilSeed,
    reg b (uTile t) Off.tilStep, vTensor d⟩
  let rank := fld b (uTile t) Fld.tilIdentRank
  let lt := fld b (uTile t) Fld.tilIdentLtile
  let one (keep i : Nat) (l : List FV) : List Nat × List Nat × Chaff :=
    convertUpTo keep ctl (fun c => tileStream rank lt (c % 512)) (fun c => vEbase d + i * vErow d + c) l
  let outs := xs.zipIdx.map fun p => one p.1.length p.2 p.1
  match upset with
  | some p =>
    let before := (xs.zipIdx.map fun (q : List FV × Nat) => (one (p - q.2 * vLen d) q.2 q.1).2.2).foldl Chaff.add Chaff.zero
    let b := bump (uTile t) Off.vecConvNanLo before.nans (countChaff (uTile t) Off.vecChaffSatLo before b)
    vecResidue t o (p % vLen d % 512) (freeBefore t d p b)
  | none =>
    let total := (outs.map fun (x : List Nat × List Nat × Chaff) => x.2.2).foldl Chaff.add Chaff.zero
    let w := writeRows t r (fmtBits (vTypeD d)) (outs.map fun x => x.1) b
    let s := match scaleRegion d with
      | some g => loftWrite t g.1 ((outs.flatMap fun (x : List Nat × List Nat × Chaff) => x.2.1).map (BitVec.ofNat 8)) w.2
      | none => (true, w.2)
    let b := bump (uTile t) Off.vecConvNanLo total.nans (countChaff (uTile t) Off.vecChaffSatLo total s.2)
    if w.1 && s.1 then
      let amax := winnowCode (amaxOf xs.flatten) (-(vecFold b j d))
      let m := mergeEntry (tileIssuer b t) j (vScidx d) amax total b
      finishOp t o.k (if m.1 = .ok then .ok else .opFailed) m.2
    else finishOp t o.k .opFailed b

/-- WIDEN (R171, R172; R72). -/
def widenRows (d : List Byte) (rows : List (List Nat)) (sc : List Byte) : List (List Conv) :=
  match fmtOf (vTypeA d) with
  | none => []
  | some f => rows.zipIdx.map fun p => p.1.zipIdx.map fun q =>
      widen f ((sc.getD (p.2 * (vLen d / 32) + q.2 / 32) 0).toNat) q.1

/-- What an operation reads: the rows of A, of B, of D where it is an operand, and the scale codes of WIDEN; none where the loft cannot give
them. -/
def vecReads (t : Nat) (d : List Byte) (b : Block) :
    Option (List (List Nat) × List (List Nat) × List (List Nat) × List (List Byte)) × Block :=
  let v := dOp d
  let ra := readRegion t (vTypeA d) (vLen d) (aRegion d) b
  let rb := match bRegion d with
    | some r => readRegion t (vTypeB d) (vLen d) r ra.2
    | none => (some [], ra.2)
  let rd := match dRegion d with
    | some r => if v = 0x04 then readRegion t 0xB (vLen d) r rb.2 else (some [], rb.2)
    | none => (some [], rb.2)
  let rs := match scaleRegion d with
    | some g => if v = 0x32 then loftReads t [g] rd.2 else (some [], rd.2)
    | none => (some [], rd.2)
  (match ra.1, rb.1, rd.1, rs.1 with
   | some as, some bs, some ds, some sc => some (as, bs, ds, sc)
   | _, _, _, _ => none, rs.2)

/-- The rows an operation other than CONV, WINNOW and WIDEN computes: one element a row for a reduction, else element by element. -/
def vecRows (d : List Byte) (k : Int) (as bs ds : List (List Nat)) : List (List Nat) :=
  if vReduces (dOp d) then as.map fun l => [rowReduce (dOp d) (l.map (toCode32 (vTypeA d)))]
  else as.zipIdx.map fun q => q.1.zipIdx.map fun c =>
    let x := toCode32 (vTypeA d) c.1
    let y := if vBimm d then vBaddr d
      else toCode32 (vTypeB d) ((bs.getD (if vBrow d then 0 else q.2) []).getD c.2 0)
    vecElem (dOp d) k x y ((ds.getD q.2 []).getD c.2 0)

/-- The saturations and underflows of widened elements count. -/
def countWidened (t : Nat) (l : List (List Conv)) (b : Block) : Block :=
  countWiden (uTile t) Off.vecChaffSatLo ((l.flatten.filter (·.sat)).length) ((l.flatten.filter (·.und)).length) b

/-- Run a started vector operation (R167 to R176). `upset` is the flat element at which a result check disagrees, if one does. -/
def runVector (t : Nat) (o : Op) (upset : Option Nat) (b : Block) : Block :=
  let d := o.desc
  let v := dOp d
  let j := fld b (uTile t) Fld.tilIdentJob
  if vecBad b t d then finishOp t o.k .badArgument b
  else
    let e := vecReadEntries b j d
    if !e.1 then finishOp t o.k .opFailed e.2
    else if v = 0x30 ∧ bitsOf (entryWord b j (vScidx d)) 19 16 ≠ vTypeD d then finishOp t o.k .badArgument e.2
    else
      let m := vecReads t d e.2
      let b := m.2
      match m.1 with
      | none => finishOp t o.k .opFailed b
      | some (as, bs, ds, sc) =>
        let p := match upset with
          | some p => if p < vRows d * vLen d then some p else none
          | none => none
        match dRegion d with
        | none =>
          match p with
          | some p => vecResidue t o (p % vLen d % 512) b
          | none =>
            let m := amaxOf ((as.flatten).map fun c => f32 (toCode32 (vTypeA d) c))
            finishOp t o.k .ok (setReg (uTile t) (Off.vecWinnow (vWr d)) (winnowCode m (-(vecFold b j d))) b)
        | some r =>
          if v = 0x30 then runConv t o p as r b
          else
            let ws := if v = 0x32 then widenRows d as sc.flatten else []
            match p with
            | some p =>
              let b := if v = 0x32 then countWidened t [ws.flatten.take p] b else b
              vecResidue t o (p % vLen d % 512) (freeBefore t d p b)
            | none =>
              let w := writeRows t r 32 (if v = 0x32 then ws.map fun l => l.map (·.code) else vecRows d (vEadj d - vecFold b j d) as bs ds) b
              finishOp t o.k (if w.1 then .ok else .opFailed) (if v = 0x32 then countWidened t ws w.2 else w.2)

end Sys2Proof.Machine
end

