-- ==== Sys2Proof/Machine/Dma.lean ====
section
/-! DEFINITION. The DMA engines (chapter 05, R177 to R181; paged operation of R292), and the writes of loft shares (R186). -/

namespace Sys2Proof.Machine

/-! ### Descriptor fields (Table 5.8) -/

def gSfmt (d : List Byte) : Nat := dByte d 9 % 16
def gDfmt (d : List Byte) : Nat := dByte d 9 / 16
def gVchk (d : List Byte) : Bool := bitOf (dByte d 10) 0
def gPaged (d : List Byte) : Bool := bitOf (dByte d 10) 1
def gEsize (d : List Byte) : Nat := bitsOf (dByte d 10) 3 2
def gRowbytes (d : List Byte) : Nat := leAt d 12 4
def gSrc (d : List Byte) : Nat := leAt d 16 8
def gDst (d : List Byte) : Nat := leAt d 24 8
def gSstride (d : List Byte) : Nat := leAt d 32 4
def gDstride (d : List Byte) : Nat := leAt d 36 4
def gRows (d : List Byte) : Nat := leAt d 40 4
def gList (d : List Byte) : Nat := leAt d 44 4
def gScale (d : List Byte) : Nat := leAt d 48 8
def gFill (d : List Byte) : List Byte := (d.drop 56).take 4

/-- Is the operation one that widens? -/
def gWidens (d : List Byte) : Bool := gSfmt d != gDfmt d
/-- Bytes of an element of the destination of a widening. -/
def gDbytes (d : List Byte) : Nat := if gDfmt d = 0xB then 4 else 2
/-- Source elements of a row. -/
def gElems (d : List Byte) : Nat := 8 * gRowbytes d / max 1 (fmtBits (gSfmt d))
/-- Bytes a row writes. -/
def gOutBytes (d : List Byte) : Nat := if gWidens d then gElems d * gDbytes d else gRowbytes d
/-- Block-scale codes of a row. -/
def gScaleCount (d : List Byte) : Nat := if gWidens d && isMx (gSfmt d) then gElems d / 32 else 0
/-- The session queue of a paged reference, and its byte in the page (R292). -/
def gQueue (a : Nat) : Nat := bitsOf a 63 46

/-! ### What rejects a descriptor (R179, R292) -/

/-- The conditions on the descriptor alone. -/
def dmaFieldsBad (d : List Byte) : Bool :=
  let op := dOp d
  let n := gRowbytes d
  let known (c : Nat) : Bool := (fmtOf c).isSome || c == 0xF
  let whole := if op = 4 then true else if gSfmt d = 0xF then true
    else 8 * n % max 1 (fmtBits (gSfmt d)) == 0 && (!isMx (gSfmt d) || gElems d % 32 == 0)
  let widenOk := !gWidens d || ((op == 0 || op == 1) && gSfmt d != 0xF && gSfmt d != 0xB &&
    (gDfmt d == 0xB || (gDfmt d == 0x9 && decide (gSfmt d ≤ 0x8))))
  let ref := if op = 1 then gSrc d else gDst d
  decide (4 < op) || decide (dByte d 10 / 16 ≠ 0) || decide (dByte d 11 ≠ 0) || decide (leAt d 60 4 ≠ 0) ||
    (op == 3 && gEsize d == 3) || decide (n = 0) || decide (16_777_216 < n) || decide (gRows d = 0) ||
    decide (16_777_216 < gRows d) || !known (gSfmt d) || !known (gDfmt d) || !whole ||
    (op == 3 && decide (n % 2 ^ gEsize d ≠ 0)) || !widenOk ||
    (gPaged d && (!(op == 1 || op == 2) || decide (bitsOf ref 45 16 ≠ 0) || decide (65536 < n + ref % 65536)))

/-- Is a range wholly in the tile's own loft, named through its window? -/
def inOwnLoft (b : Block) (t j : Nat) (a n : Nat) : Bool :=
  decide (a < 2 ^ 64) && a / 2 ^ 54 == rankOf b (some j) &&
    (match regionOf (a % 2 ^ 54) with
     | .loft t' off => t' == t && decide (off + n ≤ loftSize)
     | _ => false)

/-- The list entry of row `i`, from the tile's loft. -/
def listEntry (b : Block) (t : Nat) (d : List Byte) (i : Nat) : Nat := numAt b (loftBase t + gList d + 4 * i) 4

/-- Source and destination of row `i`, outside paged operation (Table 5.9, R177). -/
def rowSrc (b : Block) (t : Nat) (d : List Byte) (i : Nat) : Nat :=
  gSrc d + (if dOp d = 1 then listEntry b t d i else i) * gSstride d
def rowDst (b : Block) (t : Nat) (d : List Byte) (i : Nat) : Nat :=
  gDst d + (if dOp d = 2 then listEntry b t d i else i) * gDstride d

/-- A loft address of the operation lies outside the job's share, or a TRANSPOSE writes elsewhere than in its own loft (R179). -/
def dmaSharesBad (b : Block) (t j : Nat) (d : List Byte) : Bool :=
  let op := dOp d
  ((op == 1 || op == 2) && !inShare b t j (gList d) (4 * gRows d)) ||
  (decide (0 < gScaleCount d) && !loftRangeOk b j (gScale d) (gRows d * gScaleCount d)) ||
  (List.range (gRows d)).any fun i =>
    (op != 4 && !(gPaged d && op == 1) && !loftRangeOk b j (rowSrc b t d i) (gRowbytes d)) ||
    (if op = 3 then (List.range (gRowbytes d / 2 ^ gEsize d)).any fun c =>
        let a := gDst d + c * gDstride d + i * 2 ^ gEsize d
        !inOwnLoft b t j a (2 ^ gEsize d) || !loftRangeOk b j a (2 ^ gEsize d)
      else !(gPaged d && op == 2) && !loftRangeOk b j (rowDst b t d i) (gOutBytes d))

/-! ### Rows -/

/-- Widening of a code to BF16 with its block scale (R178). -/
def widenBf16 (f : Fmt) (sc c : Nat) : Conv :=
  match (if f.mx then e8m0 sc else some 0) with
  | none => ⟨0x7FFF, false, false, false⟩
  | some x =>
    match (decodeFmt f c).scale x with
    | .nan => ⟨0x7FFF, false, false, false⟩
    | .inf n => ⟨infCode fmtBf16 n, false, false, false⟩
    | v =>
      let r := convert fmtBf16 true .nearest v
      let y := decodeFmt fmtBf16 r.code
      ⟨r.code, !y.isFinite, !v.isZero && y.isZero, false⟩

/-- A row widened: the bytes written and the saturations and underflows counted. -/
def widenRow (d : List Byte) (row sc : List Byte) : List Byte × Nat × Nat :=
  match fmtOf (gSfmt d) with
  | none => ([], 0, 0)
  | some f =>
    let cs := (unpack f.bits row (gElems d)).zipIdx.map fun p =>
      let s := (sc.getD (p.2 / 32) 0).toNat
      if gDfmt d = 0xB then widen f s p.1 else widenBf16 f s p.1
    (cs.flatMap fun c => leBytes (gDbytes d) c.code, (cs.filter (·.sat)).length, (cs.filter (·.und)).length)

/-- Do the lines of a source range all match the tile's step (R180, R331)? Loft sources carry no tag. -/
def tagsMatch (b : Block) (t j : Nat) (peers : List Peer) (a n : Nat) : Bool :=
  let ok (x : Nat) : Bool := x == reg b (uTile t) Off.tilStep || x == 0xFFFF_FFFF
  if a / 2 ^ 54 ≠ rankOf b (some j) then
    match peers.find? fun p => decide (p.addr ≤ a) && decide (a + n ≤ p.addr + p.bytes.length) with
    | some p => p.tags.all ok
    | none => true
  else match regionOf (a % 2 ^ 54) with
    | .granary => (linesOf (a % 2 ^ 54) n).all fun l => ok (tagOf b l)
    | _ => true

/-- The outcome of one row: moved, ended with a status (`read`: by an uncorrectable source read, R181), or parked at a page lookup. -/
inductive RowEnd where
  | moved
  | ended (s : Status) (read : Bool)
  | parked
deriving DecidableEq, Repr

/-- Move row `i`. Any OP_FAILED of a source read sets DMA_STATUS.READ, and the bytes of a row whose write fails part-way are not counted in DMA_BYTES:
DESIGN CHOICE (log entry 77). -/
def moveRow (t e : Nat) (o : Op) (i : Nat) (peers : List Peer) (b : Block) : RowEnd × Block :=
  let d := o.desc
  let op := dOp d
  let iss := tileIssuer b t
  let j := fld b (uTile t) Fld.tilIdentJob
  let n := gRowbytes d
  -- the source address of the row, or the page it names
  let src : Nat ⊕ (RowEnd × Block) := if gPaged d && op == 1 then .inl 0 else .inl (rowSrc b t d i)
  let paged (a : Nat) (write : Bool) (b : Block) : (Nat ⊕ RowEnd) × Block :=
    let x := listEntry b t d i
    if 2 ^ 20 ≤ x then (.inr (.ended .badArgument false), b)
    else
      let r := pageLookup t j (gQueue a) x write b
      match r.1 with
      | .page p => (.inl (p * 2 ^ 16 + a % 65536 + rankOf b (some j) * 2 ^ 54), r.2)
      | .fails s => (.inr (.ended s false), failElsewhere r.2)
      | .waits alloc => (.inr .parked, park t o.k (gQueue a) x i write alloc r.2)
  let s : (Nat ⊕ RowEnd) × Block := if gPaged d && op == 1 then paged (gSrc d) false b
    else match src with
      | .inl a => (.inl a, b)
      | .inr r => (.inr r.1, b)
  match s.1 with
  | .inr r => (r, s.2)
  | .inl sa =>
    let r : Status × List Byte × Block :=
      if op = 4 then (.ok, (List.range n).map fun k => (gFill d).getD (k % 4) 0, s.2)
      else devRead iss peers sa n s.2
    if r.1 ≠ .ok then (.ended r.1 (r.1 == .opFailed), r.2.2)
    else if gVchk d && (op == 0 || op == 1) && !tagsMatch r.2.2 t j peers sa n then (.ended .versionFault false, r.2.2)
    else
      let sc : Status × List Byte × Block :=
        if gScaleCount d = 0 then (.ok, [], r.2.2)
        else devRead iss peers (gScale d + i * gScaleCount d) (gScaleCount d) r.2.2
      if sc.1 ≠ .ok then (.ended sc.1 (sc.1 == .opFailed), sc.2.2)
      else if gVchk d && (op == 0 || op == 1) && decide (0 < gScaleCount d) && !tagsMatch sc.2.2 t j peers (gScale d + i * gScaleCount d) (gScaleCount d) then
        (.ended .versionFault false, sc.2.2)
      else
        let w : List Byte × Nat × Nat := if gWidens d then widenRow d r.2.1 sc.2.1 else (r.2.1, 0, 0)
        let b := if gWidens d then countWiden (uTile t) Off.vecChaffSatLo w.2.1 w.2.2 sc.2.2 else sc.2.2
        let q : (Nat ⊕ RowEnd) × Block := if gPaged d && op == 2 then paged (gDst d) true b else (.inl (rowDst b t d i), b)
        match q.1 with
        | .inr r => (r, q.2)
        | .inl da =>
          let x : Status × Block :=
            if op = 3 then
              let es := 2 ^ gEsize d
              (List.range (n / es)).foldl (fun acc c =>
                if acc.1 ≠ .ok then acc
                else devWrite iss peers (gDst d + c * gDstride d + i * es) ((r.2.1.drop (c * es)).take es) none acc.2) (.ok, q.2)
            else devWrite iss peers da w.1 none q.2
          if x.1 ≠ .ok then (.ended x.1 false, x.2) else (.moved, bump (uTile t) (Off.dmaBytesLo e) w.1.length x.2)

/-- Rows from `i` on, in index order. -/
def moveRows (t e : Nat) (o : Op) (peers : List Peer) : Nat → Nat → Block → RowEnd × Nat × Block
  | 0, i, b => (.moved, i, b)
  | n + 1, i, b =>
    let r := moveRow t e o i peers b
    match r.1 with
    | .moved => moveRows t e o peers n (i + 1) r.2
    | x => (x, i, r.2)

/-- The status bits and events an ended transfer leaves (R180, R181, R25). `read` says that an uncorrectable source read ended it. -/
def dmaEnd (t e : Nat) (o : Op) (s : Status) (read : Bool) (b : Block) : Block :=
  let arg := o.k % 1024 * 2 ^ 16 + e
  let b := match s with
    | .versionFault => raise (uTile t) .dmaVersionFault arg (setSq (uTile t) Fld.dmaStatusVersion b e)
    | .opFailed => if read then raise (uTile t) .dmaReadFault arg (setSq (uTile t) Fld.dmaStatusRead b e) else b
    | .notPresent => setSq (uTile t) Fld.dmaStatusAddr b e
    | _ => b
  finishOp t o.k s (modCtx (fun c => { c with dmaRow := c.dmaRow.drop (t * 2 ^ 40 + o.k) }) b)

/-- Run a started DMA operation on engine `e`, or go on with one that was parked. A failed read of the index LIST counts as a source read: DESIGN CHOICE
(log entry 77). -/
def runDma (t e : Nat) (o : Op) (peers : List Peer) (b : Block) : Block :=
  let d := o.desc
  let j := fld b (uTile t) Fld.tilIdentJob
  let key := t * 2 ^ 40 + o.k
  let resumed := b.ctx.dmaRow.find key
  if resumed.isSome && (b.ctx.parked.find? fun p => p.tile = t ∧ p.k = o.k).any (stillWaits b) then b
  else if resumed.isNone && dmaFieldsBad d then finishOp t o.k .badArgument b
  else
    -- the index list is read from the tile's loft first
    let l : Option (List Byte) × Block :=
      if (dOp d = 1 ∨ dOp d = 2) ∧ inShare b t j (gList d) (4 * gRows d) then loftRead t (gList d) (4 * gRows d) b else (some [], b)
    match l.1 with
    | none => dmaEnd t e o .opFailed true l.2
    | some _ =>
      let b := l.2
      if resumed.isNone && dmaSharesBad b t j d then finishOp t o.k .badArgument b
      else
        let first := resumed.getD 0
        let b := if resumed.isSome then unpark t o.k b else b
        let r := moveRows t e o peers (gRows d - first) first b
        match r.1 with
        | .moved => finishOp t o.k .ok (modCtx (fun c => { c with dmaRow := c.dmaRow.drop key }) r.2.2)
        | .ended s read => dmaEnd t e o s read r.2.2
        | .parked => modCtx (fun c => { c with dmaRow := c.dmaRow.put key r.2.1 }) r.2.2

/-- Lookups parked for an allocation fail once ALLOC_WAIT has passed (R285). -/
def parkedAllocExpire (b : Block) : Block :=
  let ms := fld b uCtx Fld.ctxCtrlAllocWait
  (b.ctx.parked.filter fun p => p.charged.isSome && decide (p.since + 1000 * ms ≤ b.face.time)).foldl
    (fun b p => failOp p.tile p.k (
      (notify uCtx Fld.ctxStatusAllocFail .ctxAllocFail (qJob b p.queue * 2 ^ 29) b))) b

/-! ### Loft shares (R186) -/

/-- Does job slot `j` hold a job on the tile? -/
def slotOnTile (b : Block) (t j : Nat) : Bool :=
  tileJob b t == some j ||
    ((lendOf b t).state != .home && ((lendOf b t).tjob == j || (lendOf b t).sjob == j))

/-- Is a value of LFT_SHAREj one the write rejects: the slot holds a job on the tile, the share is empty, past the loft's end or over another, or a
second training share (R186)? -/
def shareBad (b : Block) (t j v : Nat) : Bool :=
  let others := ((List.range 8).filter (· != j)).map (fun i => shareWord b t i) |>.filter fun w => bitOf w 31
  slotOnTile b t j ||
    (bitOf v 31 && (decide (bitsOf v 15 8 = 0) || decide (128 < v % 128 + bitsOf v 15 8) ||
      (others.any fun w => overlaps (v % 128) (bitsOf v 15 8) (w % 128) (bitsOf w 15 8)) ||
      (!bitOf v 30 && others.any fun w => !bitOf w 30)))

/-- A write of LFT_SHAREj on a tile (R186). -/
def shareWrite (t j v : Nat) (b : Block) : Block :=
  if shareBad b t j v then notify (uTile t) Fld.lftStatusShareReject .lftShareReject j b
  else setReg (uTile t) (Off.lftShare j) (Nat.land v 0xC000_FF7F) b

end Sys2Proof.Machine
end

