-- ==== Sys2Proof/Machine/Crypto.lean ====
section
/-! DEFINITION. The cryptographic functions the spec names by their standards: AES-256-GCM (FIPS 197, SP 800-38D), SHA-512 (FIPS 180-4), HKDF
(RFC 5869), X25519 (RFC 7748) and Ed25519 (RFC 8032). PRESUMED from those standards (log entry 40). -/

namespace Sys2Proof.Machine

/-! ### SHA-512 -/

/-- The round constants of SHA-512, eight to a number, the first in the low bits. -/
def shaKs : List Nat :=
  [0xab1c5ed5da6d8118923f82a4af194f9b59f111f1b605d0193956c25bf348b538e9b5dba58189dbbcb5c0fbcfec4d3b2f7137449123ef65cd428a2f98d728ae22,
   0xc19bf174cf6926949bdc06a725c7123580deb1fe3b1696b172be5d74f27b896f550c7dc3d5ffb4e2243185be4ee4b28c12835b0145706fbed807aa98a3030242,
   0x76f988da831153b55cb0a9dcbd41fbd44a7484aa6ea6e4832de92c6f592b0275240ca1cc77ac9c650fc19dc68b8cd5b5efbe4786384f25e3e49b69c19ef14ad2,
   0x142929670a0e6e7006ca6351e003826fd5a79147930aa725c6e00bf33da88fc2bf597fc7beef0ee4b00327c898fb213fa831c66d2db43210983e5152ee66dfab,
   0x92722c851482353b81c2c92e47edaee6766a0abb3c77b2a8650a73548baf63de53380d139d95b3df4d2c6dfc5ac42aed2e1b21385c26c92627b70a8546d22ffc,
   0x106aa07032bbd1b8f40e35855771202ad69906245565a910d192e819d6ef5218c76c51a30654be30c24b8b70d0f89791a81a664bbc423001a2bfe8a14cf10364,
   0x682e6ff3d6b2b8a35b9cca4f7763e3734ed8aa4ae3418acb391c0cb3c5c95a6334b0bcb5e19b48a82748774cdf8eeb991e376c085141ab5319a4c116b8d2d0c8,
   0xc67178f2e372532bbef9a3f7b2c67915a4506cebde82bde990befffa23631e288cc702081a6439ec84c87814a1f0ab7278a5636f43172f60748f82ee5defb2fc,
   0x1b710b35131c471b113f9804bef90dae0a637dc5a2c898a606f067aa72176fbaf57d4f7fee6ed178eada7dd6cde0eb1ed186b8c721c0c207ca273eceea26619c,
   0x6c44198c4a4758175fcb6fab3ad6faec597f299cfc657e2a4cc5d4becb3e42b6431d67c49c100d4c3c9ebe0a15c9bebc32caab7b40c7249328db77f523047d84]

def shaK (i : Nat) : Nat := (shaKs.getD (i / 8) 0 >>> (64 * (i % 8))) % 2 ^ 64

/-- The initial hash value. -/
def shaInit : List Nat :=
  [0x6a09e667f3bcc908, 0xbb67ae8584caa73b, 0x3c6ef372fe94f82b, 0xa54ff53a5f1d36f1,
   0x510e527fade682d1, 0x9b05688c2b3e6c1f, 0x1f83d9abfb41bd6b, 0x5be0cd19137e2179]

def rotr64 (x n : Nat) : Nat := x >>> n + x % 2 ^ n * 2 ^ (64 - n)
def shaS0 (x : Nat) : Nat := Nat.xor (rotr64 x 28) (Nat.xor (rotr64 x 34) (rotr64 x 39))
def shaS1 (x : Nat) : Nat := Nat.xor (rotr64 x 14) (Nat.xor (rotr64 x 18) (rotr64 x 41))
def shaW0 (x : Nat) : Nat := Nat.xor (rotr64 x 1) (Nat.xor (rotr64 x 8) (x >>> 7))
def shaW1 (x : Nat) : Nat := Nat.xor (rotr64 x 19) (Nat.xor (rotr64 x 61) (x >>> 6))

/-- The message schedule slides by one word: the window holds the last sixteen, oldest first. -/
def shaSlide (w : List Nat) : List Nat :=
  w.drop 1 ++ [(w.getD 0 0 + shaW0 (w.getD 1 0) + w.getD 9 0 + shaW1 (w.getD 14 0)) % 2 ^ 64]

/-- Rounds `t` to `t + n - 1` on the working variables a … h. -/
def shaRounds : Nat → Nat → List Nat → List Nat → List Nat
  | 0, _, _, v => v
  | n + 1, t, w, v => match v with
    | [a, b, c, d, e, f, g, h] =>
      let t1 := h + shaS1 e + Nat.xor (Nat.land e f) (Nat.land (2 ^ 64 - 1 - e) g) + shaK t + w.getD 0 0
      let t2 := shaS0 a + Nat.xor (Nat.land a b) (Nat.xor (Nat.land a c) (Nat.land b c))
      shaRounds n (t + 1) (shaSlide w) [(t1 + t2) % 2 ^ 64, a, b, c, (d + t1) % 2 ^ 64, e, f, g]
    | _ => v

/-- Compress `n` blocks of 128 bytes. -/
def shaBlocks : Nat → List Byte → List Nat → List Nat
  | 0, _, h => h
  | n + 1, m, h =>
    let w := (List.range 16).map fun i => beNat ((m.drop (8 * i)).take 8)
    shaBlocks n (m.drop 128) (List.zipWith (fun a b => (a + b) % 2 ^ 64) h (shaRounds 80 0 w h))

/-- SHA-512 of a list of bytes. -/
def sha512 (m : List Byte) : List Byte :=
  let l := m.length
  let padded := m ++ [0x80] ++ List.replicate ((239 - l % 128) % 128) 0 ++ beBytes 16 (8 * l)
  (shaBlocks (padded.length / 128) padded shaInit).flatMap (beBytes 8)

/-- HMAC over SHA-512. -/
def hmac512 (key m : List Byte) : List Byte :=
  let k := (if 128 < key.length then sha512 key else key)
  let k := k ++ List.replicate (128 - k.length) 0
  sha512 (k.map (· ^^^ 0x5C) ++ sha512 (k.map (· ^^^ 0x36) ++ m))

/-- HKDF-Extract (RFC 5869). -/
def hkdfExtract (salt ikm : List Byte) : List Byte := hmac512 salt ikm

/-- HKDF-Expand for at most 64 bytes, its first block (RFC 5869). -/
def hkdfExpand (prk info : List Byte) (n : Nat) : List Byte := (hmac512 prk (info ++ [1])).take n

/-! ### AES-256-GCM -/

/-- The AES S-box, 32 bytes to a number. -/
def aesSs : List Nat :=
  [0xc072a49cafa2d4adf04759fa7dc982ca76abd7fe2b670130c56f6bf27b777c63,
   0x75b227ebe28012079a059618c323c7041531d871f1e5a534ccf73f362693fdb7,
   0xcf584c4a39becb6a5bb1fc20ed00d153842fe329b3d63b52a05a6e1b1a2c8309,
   0xd2f3ff1021dab6bcf5389d928f40a351a89f3c507f02f94585334d43fbaaefd0,
   0xdb0b5ede14b8ee4688902a22dc4f816073195d643d7ea7c41744975fec130ccd,
   0x8ae7a65eaf4566ca94ed58d6d37c8e779e4959162acd3c25c2406490a3a32e0,
   0x9e1dc186b95735610ef6034866b53e708a8bbd4b1f74dde8c6b4a61c2e2578ba,
   0x16bb54b00f2d99416842e6bf0d89a18cdf2855cee9871e9b948ed9691198f8e1]

def aesS (x : Nat) : Nat := (aesSs.getD (x / 32) 0 >>> (8 * (x % 32))) % 256
def xtime (x : Nat) : Nat := if x < 128 then 2 * x else Nat.xor (2 * x - 256) 0x1B

/-- One column of MixColumns. -/
def mixColumn : List Nat → List Nat
  | [a, b, c, d] =>
    let t := Nat.xor (Nat.xor a b) (Nat.xor c d)
    [Nat.xor a (Nat.xor t (xtime (Nat.xor a b))), Nat.xor b (Nat.xor t (xtime (Nat.xor b c))),
     Nat.xor c (Nat.xor t (xtime (Nat.xor c d))), Nat.xor d (Nat.xor t (xtime (Nat.xor d a)))]
  | l => l

/-- The key schedule: the next word from the words so far, newest first. -/
def aesNextWord (i rcon : Nat) (ws : List (List Nat)) : List Nat :=
  let p := ws.headD []
  let p := if i % 8 = 0 then
      (match (p.drop 1 ++ p.take 1).map aesS with
       | a :: r => Nat.xor a rcon :: r
       | [] => [])
    else if i % 8 = 4 then p.map aesS else p
  List.zipWith Nat.xor (ws.getD 7 []) p

def aesExpand : Nat → Nat → Nat → List (List Nat) → List (List Nat)
  | 0, _, _, ws => ws
  | n + 1, i, rcon, ws => aesExpand n (i + 1) (if i % 8 = 0 then xtime rcon else rcon) (aesNextWord i rcon ws :: ws)

/-- The 60 words of the AES-256 key schedule. -/
def aesKeys (key : List Byte) : List (List Nat) :=
  let k := key.map BitVec.toNat
  (aesExpand 52 8 1 ((List.range 8).map fun i => (k.drop (4 * i)).take 4).reverse).reverse

/-- SubBytes and ShiftRows: byte `4c + r` comes from column `c + r`. -/
def aesShift (s : List Nat) : List Nat := (List.range 16).map fun i => aesS (s.getD ((i + 4 * (i % 4)) % 16) 0)

def aesAdd (s : List Nat) (ks : List (List Nat)) : List Nat := List.zipWith Nat.xor s ((ks.take 4).flatten)

def aesRounds : Nat → List (List Nat) → List Nat → List Nat
  | 0, ks, s => aesAdd (aesShift s) ks
  | n + 1, ks, s =>
    let s := aesShift s
    aesRounds n (ks.drop 4)
      (aesAdd (mixColumn (s.take 4) ++ mixColumn ((s.drop 4).take 4) ++ mixColumn ((s.drop 8).take 4) ++ mixColumn (s.drop 12)) ks)

/-- AES-256 of one block under an expanded key. -/
def aesBlock (ks : List (List Nat)) (x : List Byte) : List Byte :=
  (aesRounds 13 (ks.drop 4) (aesAdd (x.map BitVec.toNat) ks)).map (BitVec.ofNat 8)

/-- Multiplication in the GHASH field, both as big-endian numbers. -/
def ghashMul : Nat → Nat → Nat → Nat → Nat
  | 0, _, _, z => z
  | n + 1, x, v, z =>
    let z := if x.testBit n then Nat.xor z v else z
    ghashMul n x (if v % 2 = 1 then Nat.xor (v / 2) 0xE1000000000000000000000000000000 else v / 2) z

/-- GHASH over `n` blocks. -/
def ghash (h : Nat) : Nat → List Byte → Nat → Nat
  | 0, _, y => y
  | n + 1, m, y => ghash h n (m.drop 16) (ghashMul 128 (Nat.xor y (beNat (m.take 16))) h 0)

def pad16 (l : List Byte) : List Byte := l ++ List.replicate ((16 - l.length % 16) % 16) 0

/-- Counter mode from counter value `c`, `n` blocks. -/
def gcmCtr (ks : List (List Nat)) (nonce : List Byte) : Nat → Nat → List Byte → List Byte
  | 0, _, _ => []
  | n + 1, c, m =>
    List.zipWith (· ^^^ ·) (m.take 16) (aesBlock ks (nonce ++ beBytes 4 c)) ++ gcmCtr ks nonce n (c + 1) (m.drop 16)

/-- The tag of a ciphertext. -/
def gcmTag (ks : List (List Nat)) (nonce aad c : List Byte) : List Byte :=
  let h := beNat (aesBlock ks (List.replicate 16 0))
  let m := pad16 aad ++ pad16 c ++ beBytes 8 (8 * aad.length) ++ beBytes 8 (8 * c.length)
  List.zipWith (· ^^^ ·) (beBytes 16 (ghash h (m.length / 16) m 0)) (aesBlock ks (nonce ++ beBytes 4 1))

/-- Seal a plaintext: the ciphertext and the 16-byte tag. -/
def gcmSeal (key nonce aad p : List Byte) : List Byte × List Byte :=
  let ks := aesKeys key
  let c := gcmCtr ks nonce ((p.length + 15) / 16) 2 p
  (c, gcmTag ks nonce aad c)

/-- Open a ciphertext: the plaintext where the tag is right. -/
def gcmOpen (key nonce aad c tag : List Byte) : Option (List Byte) :=
  let ks := aesKeys key
  if gcmTag ks nonce aad c = tag then some (gcmCtr ks nonce ((c.length + 15) / 16) 2 c) else none

/-! ### Curve25519 -/

def edP : Nat := 2 ^ 255 - 19
def fpSub (a b : Nat) : Nat := (a + edP - b % edP) % edP

/-- Modular power by the bits of the exponent, highest first. -/
def fpPowGo (a e : Nat) : Nat → Nat → Nat
  | 0, r => r
  | n + 1, r => fpPowGo a e n (let r := r * r % edP
                               if e.testBit n then r * a % edP else r)

def fpPow (a e : Nat) : Nat := fpPowGo a e 255 1
def fpInv (a : Nat) : Nat := fpPow a (edP - 2)

/-- The Montgomery ladder from bit `n - 1` down: x2, z2, x3, z3 and whether they stand swapped. -/
def ladder (x1 k : Nat) : Nat → Nat → Nat → Nat → Nat → Bool → Nat
  | 0, x2, z2, x3, z3, sw => if sw then x3 * fpInv z3 % edP else x2 * fpInv z2 % edP
  | n + 1, x2, z2, x3, z3, sw =>
    let flip := xor sw (k.testBit n)
    let (x2, z2, x3, z3) := if flip then (x3, z3, x2, z2) else (x2, z2, x3, z3)
    let a := (x2 + z2) % edP
    let b := fpSub x2 z2
    let aa := a * a % edP
    let bb := b * b % edP
    let e := fpSub aa bb
    let da := fpSub x3 z3 * a % edP
    let cb := (x3 + z3) * b % edP
    let s := (da + cb) % edP
    let d := fpSub da cb
    ladder x1 k n (aa * bb % edP) (e * (aa + 121665 * e) % edP) (s * s % edP) (x1 * (d * d % edP) % edP) (k.testBit n)

/-- X25519: scalar bytes and u-coordinate bytes (RFC 7748). -/
def x25519 (k u : List Byte) : List Byte :=
  let k := withBits (withBits (leNat k) 2 0 0) 255 254 1
  let u := leNat u % 2 ^ 255 % edP
  leBytes 32 (ladder u k 255 1 0 u 1 false)

/-- The public key of an X25519 private key. -/
def x25519Public (k : List Byte) : List Byte := x25519 k (leBytes 32 9)

/-- A point of the twisted Edwards curve in extended coordinates. -/
structure EdPt where
  x : Nat
  y : Nat
  z : Nat
  t : Nat
deriving DecidableEq, Repr

def edD : Nat := 0x52036cee2b6ffe738cc740797779e89800700a4d4141d8ab75eb4dca135978a3
def edL : Nat := 2 ^ 252 + 27742317777372353535851937790883648493
def edRoot : Nat := 0x2b8324804fc1df0b2b4d00993dfbd7a72f431806ad2fe478c4ee1b274a0ea0b0
def edBase : EdPt :=
  let x := 0x216936d3cd6e53fec0a4e231fdd6dc5c692cc7609525a7b2c9562d608f25d51a
  let y := 0x6666666666666666666666666666666666666666666666666666666666666658
  ⟨x, y, 1, x * y % edP⟩
def edZero : EdPt := ⟨0, 1, 1, 0⟩

/-- Point addition. -/
def edAdd (p q : EdPt) : EdPt :=
  let a := fpSub p.y p.x * fpSub q.y q.x % edP
  let b := (p.y + p.x) * (q.y + q.x) % edP
  let c := 2 * edD * p.t * q.t % edP
  let d := 2 * p.z * q.z % edP
  let e := fpSub b a
  let f := fpSub d c
  let g := (d + c) % edP
  let h := (b + a) % edP
  ⟨e * f % edP, g * h % edP, f * g % edP, e * h % edP⟩

/-- Scalar multiple by the bits of the scalar, highest first. -/
def edMulGo (k : Nat) (p : EdPt) : Nat → EdPt → EdPt
  | 0, r => r
  | n + 1, r => edMulGo k p n (let r := edAdd r r
                               if k.testBit n then edAdd r p else r)

def edMul (k : Nat) (p : EdPt) : EdPt := edMulGo k p 256 edZero

/-- The 32 bytes of a point. -/
def edEncode (p : EdPt) : List Byte :=
  let zi := fpInv p.z
  leBytes 32 (p.y * zi % edP + p.x * zi % edP % 2 * 2 ^ 255)

/-- The point 32 bytes spell, if any. -/
def edDecode (l : List Byte) : Option EdPt :=
  let n := leNat l
  let y := n % 2 ^ 255
  let sg := n / 2 ^ 255
  let u := fpSub (y * y) 1
  let v := (edD * (y * y % edP) + 1) % edP
  let v3 := v * v * v % edP
  let x := u * v3 % edP * fpPow (u * (v3 * v3 % edP * v) % edP) ((edP - 5) / 8) % edP
  let vxx := v * (x * x % edP) % edP
  if edP ≤ y ∨ l.length ≠ 32 then none
  else
    let x? := if vxx = u then some x else if vxx = fpSub 0 u then some (x * edRoot % edP) else none
    match x? with
    | none => none
    | some x =>
      if x = 0 ∧ sg = 1 then none
      else
        let x := if x % 2 = sg then x else fpSub 0 x
        some ⟨x, y, 1, x * y % edP⟩

/-- Does an Ed25519 signature verify (RFC 8032, the equation without the cofactor)? -/
def edVerify (pub m sig : List Byte) : Bool :=
  let s := leNat (sig.drop 32)
  match edDecode pub, edDecode (sig.take 32) with
  | some a, some r =>
    let k := leNat (sha512 (sig.take 32 ++ pub ++ m)) % edL
    decide (sig.length = 64) && decide (s < edL) && decide (edEncode (edMul s edBase) = edEncode (edAdd r (edMul k a)))
  | _, _ => false

/-- the scalar and the second half of an Ed25519 private key. -/
def edSecret (priv : List Byte) : Nat × List Byte :=
  let h := sha512 priv
  (withBits (withBits (leNat (h.take 32)) 2 0 0) 255 254 1, h.drop 32)

def edPublic (priv : List Byte) : List Byte := edEncode (edMul (edSecret priv).1 edBase)

/-- The Ed25519 signature of a message. -/
def edSign (priv m : List Byte) : List Byte :=
  let (a, pre) := edSecret priv
  let r := leNat (sha512 (pre ++ m)) % edL
  let rp := edEncode (edMul r edBase)
  rp ++ leBytes 32 ((r + leNat (sha512 (rp ++ edPublic priv ++ m)) % edL * a) % edL)

/-! ### CRC-32 (IEEE 802.3) and CRC-32C -/

/-- One bit of a reflected CRC. -/
def crcStep (poly c : Nat) : Nat := if c % 2 = 1 then Nat.xor (c / 2) poly else c / 2

def crcReflected (poly : Nat) (l : List Byte) : Nat :=
  Nat.xor (l.foldl (fun c x => iterate (crcStep poly) 8 (Nat.xor c x.toNat)) (2 ^ 32 - 1)) (2 ^ 32 - 1)

/-- CRC-32 as the IEEE 802.3 frame check sequence (Table 10.2). -/
def crc32 (l : List Byte) : Nat := crcReflected 0xEDB88320 l

/-- CRC-32C (Castagnoli), of black-box records. -/
def crc32c (l : List Byte) : Nat := crcReflected 0x82F63B78 l

end Sys2Proof.Machine
end

