-- ==== Sys2Proof/Machine/Identity.lean ====
section
/-! DEFINITION. The module identity and the entropy source (R519, R520, R527 to R529). -/

namespace Sys2Proof.Machine

/-- The bytes of an ASCII string. -/
def ascii (s : String) : List Byte := s.toList.map fun c => BitVec.ofNat 8 c.toNat

/-- The identity private key (R519). -/
def identityKey : List Byte := (sha512 (ascii "BX40-IDENTITY" ++ Config.identitySeed)).take 32

def identityPub : List Byte := edPublic identityKey

/-- The identity digest (R520). -/
def identityDigest : List Byte := sha512 identityPub

def tallyPub : List Byte := edPublic Config.tallyKey

/-- The next 32 bytes of the entropy source, conditioned by SHA-512 (R528). -/
def drawEntropy (b : Block) : List Byte × Block :=
  ((sha512 (Config.entropy b.face.free)).take 32, { b with face := { b.face with free := b.face.free + 1 } })

/-- The identity was reconstructed and the entropy source is good. -/
def idOk (b : Block) : Bool := flag b uSec Fld.secStateIdOk
def rngOk (b : Block) : Bool := flag b uSec Fld.secStateRngOk

/-- The two keys of a session: host to device, device to host; none where the secret is all zeros (R527, R528). -/
def sessionKeys (label : String) (priv pub hostNonce devNonce : List Byte) (session : Nat) : Option (List Byte × List Byte) :=
  let s := x25519 priv pub
  if s.all (· == 0) then none
  else
    let prk := hkdfExtract (hostNonce ++ devNonce) s
    some (hkdfExpand prk (ascii label ++ ascii "h2d" ++ leBytes 4 session) 32,
      hkdfExpand prk (ascii label ++ ascii "d2h" ++ leBytes 4 session) 32)

end Sys2Proof.Machine
end

