-- ==== Sys2Proof/Machine/Cold.lean ====
section
/-! DEFINITION. The block with nothing in it, and what a power-up or a reset of the module leaves (chapters 14 and 16). -/

namespace Sys2Proof.Machine

/-- A black box with no record, no key enrolled and no limited change counted, as a fresh module's (R500). -/
def storeFresh : TallyStore := ⟨[], 0, 0, 0, [], [], [], 0, 0⟩

/-- The tally die just powered up, with both feeds at 54.0 V. -/
def tallyFresh : Tally :=
  ⟨storeFresh, true, true, true, false, [(0, ⟨540, true, 0⟩), (1, ⟨540, true, 0⟩)], 64000, 0, none, 0, none, [], 0, 0, none, none, 0, 0, [], [], false, false⟩

def granaryFresh : Granary :=
  ⟨[], [], [], [], [], [], [], [], [], [], [], [], [], [], [], [], [], [], [], false, [], [], [], [], [], none, []⟩

def ctxFresh : Ctx := ⟨31, [], [], [], [], [], [], [], [], [], [], [], [], [], [], [], []⟩

def fabricFresh : Fabric := ⟨[], [], [], [], [], [], [], [], [], [], [], [], [], [], [], 0, []⟩

def bootFresh : Boot := ⟨none, [], none, [], [], [], [], 0, 0, [], [], [], false, false⟩

def qcpFresh : Qcp := ⟨[], 1, [], [], none, [], [], [], 0, [], [], [], [], [], []⟩

/-- Every register and every piece of state at its reset value. -/
def blockFresh : Block where
  face := ⟨0, [], [], [], [], [], [], [], 0, []⟩
  grn := granaryFresh
  til := ⟨[], [], [], []⟩
  gln := ⟨[], []⟩
  ctx := ctxFresh
  mac := ⟨[], [], 0⟩
  fab := fabricFresh
  tly := tallyFresh
  trn := ⟨[], [], [], [], [], []⟩
  qcp := qcpFresh
  boot := bootFresh
  rec' := []
  bbQueue := []

/-- The entries of a register-keyed map that belong to the tally interface. -/
def tallyRegs {α : Type} (m : SMap α) (scale : Nat) : SMap α :=
  m.filter fun p => decide (p.1 / scale / 0x10_0000 = uTly)

/-- What the main domain's loss, or a module reset, leaves (Table 14.5): the tally die with its registers and sessions, the tally store with
its repair maps, retired pages and redirections, and the black box; everything else stands at reset. -/
def mainCold (b : Block) : Block :=
  { blockFresh with
    face := { blockFresh.face with
      time := b.face.time
      regs := tallyRegs b.face.regs 1
      sqOwn := tallyRegs b.face.sqOwn 16
      shadow := tallyRegs b.face.shadow 1
      ring := b.face.ring.filter fun p => decide (p.1 / 64 = uTly)
      replies := b.face.replies
      free := b.face.free }
    grn := { granaryFresh with
      spare := b.grn.spare
      retPages := b.grn.retPages
      retired := b.grn.retired
      chRetRows := b.grn.chRetRows
      mapUsed := b.grn.mapUsed }
    mac := { blockFresh.mac with began := b.face.time }
    tly := b.tly
    qcp := { qcpFresh with
      sessions := b.qcp.sessions.filter fun s => s.ring
      nextSess := b.qcp.nextSess
      raOpens := b.qcp.raOpens.filter (·.1)
      ringIn := b.qcp.ringIn
      ra := b.qcp.ra.filter fun r => decide (2 ≤ r.flow.port) }
    bbQueue := b.bbQueue }

/-- Are the main-domain rails up? -/
def railsUp (b : Block) : Bool := flag b uTly Fld.tlyPowerMainOn

/-- Is the module held in reset by its chip's UNIT_RESET.HOLD (R513)? -/
def moduleHeld (b : Block) : Bool := flag b uChip Fld.unitResetHold

/-- Does the main die run: its rails are up and it is not held in reset? -/
def mainOn (b : Block) : Bool := railsUp b && !moduleHeld b

/-- Tally-die state changed by a function. -/
def modTly (f : Tally → Tally) (b : Block) : Block := { b with tly := f b.tly }

def modQcp (f : Qcp → Qcp) (b : Block) : Block := { b with qcp := f b.qcp }

def modBoot (f : Boot → Boot) (b : Block) : Block := { b with boot := f b.boot }

/-! ### The device state (R451) -/

def dsOff : Nat := 0
def dsBoot : Nat := 1
def dsReady : Nat := 2
def dsLoaded : Nat := 3
def dsRunning : Nat := 4
def dsDraining : Nat := 5
def dsSpare : Nat := 6
def dsQuarantined : Nat := 7
def dsFault : Nat := 8

def devState (b : Block) : Nat := fld b uQcp Fld.qcpDevstateState

/-- The device state changes; each change raises QCP_STATE_CHANGE. -/
def setDevState (n : Nat) (b : Block) : Block :=
  let old := devState b
  if old = n then b
  else notify uQcp Fld.qcpStatusStateChange .qcpStateChange (old * 16 + n) (setFld uQcp Fld.qcpDevstateState n b)

end Sys2Proof.Machine
end

