-- ==== Sys2Proof/Machine/Mac.lean ====
section
/-! DEFINITION. The frame MAC (chapter 11): transmission, pause, the pause watchdog, energy-efficient idle, and reception up to the queues and the
fabric path. -/

namespace Sys2Proof.Machine

def portOf (b : Block) (u : Nat) : MacPort := b.mac.ports.get { MacPort.init with tryAt := b.mac.began } u
def setPort (u : Nat) (p : MacPort) (b : Block) : Block := { b with mac := { b.mac with ports := b.mac.ports.put u p } }
def modPort (u : Nat) (f : MacPort → MacPort) (b : Block) : Block := setPort u (f (portOf b u)) b

/-- Is the unit a link? -/
def isLinkUnit (u : Nat) : Bool := decide (128 ≤ u) && decide (u < 152)

/-- A link's MAC works only in Ethernet mode (R403). -/
def macWorks (b : Block) (u : Nat) : Bool := !isLinkUnit u || fld b u Fld.jxlCtrlMode == 2

/-- Count `n` happenings in counter `k` of Table 11.5. -/
def macCount (u k n : Nat) (b : Block) : Block := bump u (Off.macCntLo k) n b

def maxLen (b : Block) (u : Nat) : Nat := fld b u Fld.macMaxlenLen

/-- Quanta of 512 bit times, in ps: 1,280 each at 400 Gb/s, and 320 on a link at 1.6 Tb/s, whose rate scales with its active lanes (R360, R418). -/
def quantaPs (b : Block) (u q : Nat) : Nat :=
  if isLinkUnit u then (match (portOf b u).lanes with
    | 0 => q * 320
    | n => q * 2560 / n)
  else q * 1280

def nowPs (b : Block) : Nat := b.face.time * 1000000

/-- The flow-control mode in force; 3 behaves as 0. -/
def pauseMode (b : Block) (u : Nat) : Nat := let m := fld b u Fld.macPauseCtrlMode; if m = 3 then 0 else m

/-- The port's own address. -/
def macAddrOf (b : Block) (u : Nat) : Nat := reg b u Off.macAddrLo + 2 ^ 32 * (reg b u Off.macAddrHi % 2 ^ 16)

/-! ### Transmission (R416) -/

def txOf (p : MacPort) (c : Nat) : List (List Byte) := p.tx.get [] c

/-- Is a class held by pause, its own or the port's? -/
def classHeld (p : MacPort) (c : Nat) : Bool := (p.held.find c).isSome || (p.held.find 8).isSome

/-- Does a frame wait under the hold that a watch measures? -/
def watchRuns (p : MacPort) (c : Nat) : Bool :=
  if c = 8 then (p.held.find 8).isSome && (List.range 8).any fun k => !(txOf p k).isEmpty
  else (p.held.find c).isSome && !(txOf p c).isEmpty

/-- Bring one watch up to date: it runs while a frame waits held (R421). -/
def settleWatch (now c : Nat) (p : MacPort) : MacPort :=
  let w := p.watch.get ⟨0, none⟩ c
  match watchRuns p c, w.since with
  | true, none => { p with watch := p.watch.put c { w with since := some now } }
  | false, some t => { p with watch := p.watch.put c ⟨w.acc + (now - t), none⟩ }
  | _, _ => p

/-- Does some class wait under a hold? -/
def someHeld (p : MacPort) : Bool := (List.range 8).any fun c => classHeld p c && !(txOf p c).isEmpty

/-- Bring the watches and the held time (counter 24) up to date. -/
def settleTx (u : Nat) (b : Block) : Block :=
  let p := (List.range 9).foldl (fun p c => settleWatch b.face.time c p) (portOf b u)
  match someHeld p, p.heldAt with
  | true, none => setPort u { p with heldAt := some b.face.time } b
  | false, some t => macCount u 24 (1000 * (b.face.time - t)) (setPort u { p with heldAt := none } b)
  | _, _ => setPort u p b

/-- Put a frame on the wire: it is padded to 60 bytes and gets its FCS. -/
def padFcs (f : List Byte) : List Byte :=
  let f := f ++ List.replicate (60 - f.length) 0
  f ++ leBytes 4 (crc32 f)

def putWire (u : Nat) (f : List Byte) (b : Block) : Block :=
  macCount u 17 f.length (macCount u 16 1 { b with mac := { b.mac with wire := b.mac.wire ++ [(u, f)] } })

/-- May the port send now? -/
def maySend (b : Block) (u : Nat) : Bool :=
  let p := portOf b u
  macWorks b u && p.link && flag b u Fld.macCtrlTxEn && p.lpi.isNone && p.wakeEnd.isNone

/-- The highest class with a frame waiting that pause does not hold. -/
def nextClass (p : MacPort) : Option Nat := (List.range 8).reverse.find? fun c => !(txOf p c).isEmpty && !classHeld p c

/-- Send the frame at the head of a class; sending resets the watchdog's measure. -/
def sendHead (u c : Nat) (b : Block) : Block :=
  let p := portOf b u
  match txOf p c with
  | [] => b
  | f :: r => putWire u f (setPort u { p with tx := p.tx.put c r, watch := (p.watch.drop c).drop 8 } b)

/-- Counters 18 and 19, and the classes' own: a PAUSE or PFC frame is sent. -/
def countCtl (u : Nat) (f : List Byte) (b : Block) : Block :=
  if leAt f 14 1 = 0 then macCount u 18 1 b
  else (List.range 8).foldl (fun b c => if bitOf (leAt f 17 1) c then bump u (Off.macPfcTxLo c) 1 b else b) (macCount u 19 1 b)

def sendCtl (u : Nat) (b : Block) : Block :=
  let p := portOf b u
  p.ctl.foldl (fun b f => countCtl u f (putWire u f b)) (setPort u { p with ctl := [] } b)

def sendClasses (u : Nat) : Nat → Block → Block
  | 0, b => b
  | n + 1, b => match nextClass (portOf b u) with
    | some c => sendClasses u n (sendHead u c b)
    | none => b

def waiting (p : MacPort) : Nat := ((List.range 8).map fun c => (txOf p c).length).sum

/-- Send everything that may go: control frames first, then class by class (R416). -/
def pump (u : Nat) (b : Block) : Block :=
  let b := if maySend b u then
      let n := waiting (portOf b u)
      let b := sendClasses u n (sendCtl u b)
      if 0 < n then modPort u (fun p => { p with idleAt := b.face.time }) b else b
    else b
  settleTx u b

/-- MAC_FRAME_TRANSMIT: a unit hands over a frame; too long a frame is refused (R416). A link's MAC that does not work takes none (R403; log entry 70). -/
def macSend (u c : Nat) (f : List Byte) (b : Block) : Status × Block :=
  let f := padFcs f
  if !macWorks b u then (.notPresent, b)
  else if maxLen b u < f.length then (.badArgument, macCount u 20 1 b)
  else (.ok, pump u (modPort u (fun p => { p with tx := p.tx.put (c % 8) (txOf p (c % 8) ++ [f]) }) b))

/-! ### Sending pause (R419, R420) -/

def ctlAddr : Nat := 0x0180_C200_0001

/-- A PAUSE frame. -/
def pauseFrame (b : Block) (u q : Nat) : List Byte :=
  padFcs (beBytes 6 ctlAddr ++ beBytes 6 (macAddrOf b u) ++ [0x88, 0x08, 0, 1] ++ beBytes 2 q)

/-- A PFC frame for one class. -/
def pfcFrame (b : Block) (u c q : Nat) : List Byte :=
  padFcs (beBytes 6 ctlAddr ++ beBytes 6 (macAddrOf b u) ++ [0x88, 0x08, 1, 1] ++ beBytes 2 (2 ^ c) ++
    ((List.range 8).map fun i => beBytes 2 (if i = c then q else 0)).flatten)

/-- Send pause for a class: a PAUSE frame in MODE 1, else a PFC frame. -/
def sendPause (u c q : Nat) (b : Block) : Block :=
  let f := if pauseMode b u = 1 then pauseFrame b u q else pfcFrame b u c q
  pump u (modPort u (fun p => { p with ctl := p.ctl ++ [f] }) b)

def shareUse (p : MacPort) (c : Nat) : Nat := p.used.get 0 c

/-- The use that is held against a class's thresholds: its own share's, in MODE 1 the largest over all classes. -/
def watchedUse (b : Block) (u c : Nat) : Nat :=
  let p := portOf b u
  if pauseMode b u = 1 then (List.range 8).foldl (fun m k => max m (shareUse p k)) 0 else shareUse p c

def xoff (b : Block) (u c : Nat) : Nat := min 512 (fld b u Fld.macPfcThXoff c) * 1024
def xon (b : Block) (u c : Nat) : Nat :=
  let off := min 512 (fld b u Fld.macPfcThXoff c)
  min (fld b u Fld.macPfcThXon c) (off - 1) * 1024

/-- The classes that may send pause: those set in TX_EN, but none in MODE 0 or while the MAC does not work (R403). -/
def pauseClasses (b : Block) (u : Nat) : List Nat :=
  if !macWorks b u || pauseMode b u == 0 then [] else (List.range 8).filter fun c => bitOf (fld b u Fld.macPauseCtrlTxEn) c

/-- Start or end pausing a class as its share fills or empties (R419). -/
def checkPause (u c : Nat) (b : Block) : Block :=
  let p := portOf b u
  if (p.abandon.find c).isSome then b
  else match p.pausing.find c with
  | none =>
    if xoff b u c ≤ watchedUse b u c then
      sendPause u c 0xFFFF (setPort u { p with pausing := p.pausing.put c (b.face.time, b.face.time) } b)
    else b
  | some _ =>
    if watchedUse b u c < xon b u c then sendPause u c 0 (setPort u { p with pausing := p.pausing.drop c } b) else b

def checkPauses (u : Nat) (b : Block) : Block := (pauseClasses b u).foldl (fun b c => checkPause u c b) b

/-- PAUSE_REFRESH: 32,768 quanta after the last, pause is sent again while the use stays at or above XON. -/
def pauseRefresh (u c : Nat) (b : Block) : Block :=
  let p := portOf b u
  match p.pausing.find c with
  | some (start, last) =>
    if macWorks b u ∧ last * 1000000 + quantaPs b u 32768 ≤ nowPs b ∧ xon b u c ≤ watchedUse b u c then
      sendPause u c 0xFFFF (setPort u { p with pausing := p.pausing.put c (start, b.face.time) } b)
    else b
  | none => b

def wdLimit (b : Block) (u : Nat) : Nat := fld b u Fld.macPauseWdLimit * 1000
def wdHold (b : Block) (u : Nat) : Nat := max 1 (fld b u Fld.macPauseWdHold) * 1000

/-- MAC_TX_PAUSE_ABANDON: a class that has paused its peer for LIMIT ms lets it go and stops pausing for HOLD ms (R420). -/
def pauseAbandon (u c : Nat) (b : Block) : Block :=
  let p := portOf b u
  match p.pausing.find c with
  | some (start, _) =>
    if macWorks b u ∧ wdLimit b u ≠ 0 ∧ start + wdLimit b u ≤ b.face.time then
      macCount u 22 1 (sendPause u c 0
        (setPort u { p with pausing := p.pausing.drop c, abandon := p.abandon.put c (b.face.time + wdHold b u) } b))
    else b
  | none => b

/-- PAUSE_ABANDON_HOLD_END: the class may pause again. -/
def abandonEnd (u c : Nat) (b : Block) : Block :=
  match (portOf b u).abandon.find c with
  | some t => if t ≤ b.face.time then
      let b := modPort u (fun p => { p with abandon := p.abandon.drop c }) b
      if (pauseClasses b u).contains c then checkPause u c b else b
    else b
  | none => b

/-! ### Receiving pause (R417, R418, R421, R422) -/

/-- A pause for a class, or for the port: it replaces the hold; quanta 0 ends it; a class in hold-off ignores it. -/
def holdClass (u c q : Nat) (b : Block) : Block :=
  let p := portOf b u
  if (p.holdoff.find c).isSome then macCount u 13 1 b
  else setPort u { p with held := if q = 0 then p.held.drop c else p.held.put c (nowPs b + quantaPs b u q) } b

/-- PAUSE_FRAME_RECEIVE. A MAC that may not receive takes none. -/
def pauseRx (u q : Nat) (b : Block) : Block :=
  if !macWorks b u || !flag b u Fld.macCtrlRxEn then b
  else
    let b := macCount u 11 1 b
    if pauseMode b u = 1 then pump u (holdClass u 8 q b) else macCount u 13 1 b

/-- PFC_FRAME_RECEIVE: the class vector and the eight quanta. -/
def pfcRx (u vec : Nat) (qs : List Nat) (b : Block) : Block :=
  if !macWorks b u || !flag b u Fld.macCtrlRxEn then b
  else
    let b := macCount u 12 1 b
    let b := (List.range 8).foldl (fun b c => if bitOf vec c then bump u (Off.macPfcRxLo c) 1 b else b) b
    if pauseMode b u = 2 then
      pump u ((List.range 8).foldl (fun b c =>
        if bitOf vec c && bitOf (fld b u Fld.macPauseCtrlRxEn) c then holdClass u c (qs.getD c 0) b else b) b)
    else macCount u 13 1 b

/-- PAUSE_HOLD_EXPIRE: a hold whose time has run out ends. -/
def holdExpire (u c : Nat) (b : Block) : Block :=
  match (portOf b u).held.find c with
  | some t => if t ≤ nowPs b then pump u (modPort u (fun p => { p with held := p.held.drop c }) b) else b
  | none => b

/-- What a watch has measured. -/
def watched (b : Block) (p : MacPort) (c : Nat) : Nat :=
  let w := p.watch.get ⟨0, none⟩ c
  w.acc + (match w.since with
    | some t => b.face.time - t
    | none => 0)

/-- MAC_PAUSE_STORM: the watchdog reaches LIMIT, ends the hold and starts the hold-off (R421). -/
def pauseStorm (u c : Nat) (b : Block) : Block :=
  let p := portOf b u
  if macWorks b u && wdLimit b u != 0 && (p.held.find c).isSome && decide (wdLimit b u ≤ watched b p c) then
    let b := setPort u { p with held := p.held.drop c, watch := p.watch.drop c, holdoff := p.holdoff.put c (b.face.time + wdHold b u) } b
    pump u (notify u Fld.macStatusPauseStorm .macPauseStorm c (macCount u 23 1 b))
  else b

/-- MAC_HOLDOFF_END (R422). -/
def holdoffEnd (u c : Nat) (b : Block) : Block :=
  match (portOf b u).holdoff.find c with
  | some t => if t ≤ b.face.time then
      notify u Fld.macStatusHoldoffEnd .macHoldoffEnd c (modPort u (fun p => { p with holdoff := p.holdoff.drop c }) b)
    else b
  | none => b

/-- PAUSE_MODE_WRITE: a write of MAC_PAUSE_CTRL; a change of MODE releases holds, clears hold-offs and restarts watchdogs (R417). A class whose TX_EN is
cleared pauses its peer no longer. -/
def pauseModeWrite (u v : Nat) (b : Block) : Block :=
  let was := fld b u Fld.macPauseCtrlMode
  let b := setReg u Off.macPauseCtrl (maskedWrite (reg b u Off.macPauseCtrl) v 0xFFFF03) b
  if fld b u Fld.macPauseCtrlMode = was then modPort u (fun p => { p with pausing := p.pausing.filter fun e => (pauseClasses b u).contains e.1 }) b
  else pump u (modPort u (fun p => { p with
      held := []
      holdoff := []
      watch := []
      pausing := [] }) b)

/-! ### Energy-efficient idle (R423, R424) -/

/-- LPI_ENTER. -/
def lpiEnter (u : Nat) (b : Block) : Block :=
  let p := portOf b u
  let idle := max 1 (fld b u Fld.macEeeCtrlIdle)
  if macWorks b u && flag b u Fld.macEeeCtrlEn && p.link && p.lpi.isNone && p.wakeEnd.isNone && waiting p == 0 && p.ctl.isEmpty &&
      decide (p.idleAt + idle ≤ b.face.time) then
    macCount u 25 1 (setPort u { p with lpi := some b.face.time } b)
  else b

/-- The time in LPI so far goes to counter 26, and its measure starts anew. -/
def settleLpi (u : Nat) (b : Block) : Block := match (portOf b u).lpi with
  | some t => macCount u 26 (1000 * (b.face.time - t)) (modPort u (fun p => { p with lpi := some b.face.time }) b)
  | none => b

/-- The time that some class has waited held so far goes to counter 24. -/
def settleHeld (u : Nat) (b : Block) : Block := match (portOf b u).heldAt with
  | some t => macCount u 24 (1000 * (b.face.time - t)) (modPort u (fun p => { p with heldAt := some b.face.time }) b)
  | none => b

/-- LPI_WAKE: a frame or a pause is due during LPI. -/
def lpiWake (u : Nat) (b : Block) : Block :=
  let p := portOf b u
  if p.lpi = none ∨ (waiting p = 0 ∧ p.ctl.isEmpty) then b
  else modPort u (fun p => { p with lpi := none, wakeEnd := some (b.face.time + fld b u Fld.macEeeTwTxTw) }) (settleLpi u b)

/-- LPI_WAKE_TIME_END: TX_TW has passed; sending resumes. -/
def lpiWakeEnd (u : Nat) (b : Block) : Block :=
  match (portOf b u).wakeEnd with
  | some t => if t ≤ b.face.time then pump u (modPort u (fun p => { p with wakeEnd := none }) b) else b
  | none => b

/-- RX_LPI_INDICATION: the partner starts or stops signalling LPI. -/
def rxLpi (u : Nat) (on : Bool) (b : Block) : Block :=
  if !macWorks b u then b
  else
    let p := portOf b u
    let b := if on && !p.rxLpi then macCount u 15 1 b else b
    setPort u { p with rxLpi := on } b

/-! ### The link (R404, R426) -/

/-- The PHY type in force: a code not valid for the port behaves as AUTO. -/
def phyCode (b : Block) (u : Nat) : Nat :=
  let c := fld b u Fld.macCtrlPhy
  if isLinkUnit u then (if 4 ≤ c ∧ c ≤ 6 then c else 0) else if 1 ≤ c ∧ c ≤ 3 then c else 0

/-- May a port come up with a type and lanes? The type is the one selected; with AUTO, what auto-negotiation or the C2M try finds (R404). A front-end
port has four lanes, a link up to eight. -/
def phyFits (b : Block) (u phy lanes : Nat) : Bool :=
  let c2m := if isLinkUnit u then 6 else 3
  let typeOk := if phyCode b u ≠ 0 then phy == phyCode b u else if (portOf b u).tryC2m then phy == c2m else decide (c2m - 2 ≤ phy) && decide (phy < c2m)
  typeOk && (if isLinkUnit u then decide (4 ≤ lanes) && decide (lanes ≤ 8) else lanes == 4)

/-- MAC_LINK_UP: the PHY found a partner with a type and lanes. -/
def macLinkUp (u phy lanes : Nat) (b : Block) : Block :=
  if !macWorks b u || (portOf b u).link || !phyFits b u phy lanes then b
  else
    let b := modPort u (fun p => { p with
      link := true
      phy := phy
      lanes := lanes
      idleAt := b.face.time }) b
    pump u (notify u Fld.macStatusLinkUp .macLinkUp (phy * 2 ^ 28 + lanes * 2 ^ 24) b)

/-- MAC_LINK_DOWN: waiting frames are discarded and counted; holds, hold-offs and watchdogs cleared. -/
def macLinkDown (u : Nat) (b : Block) : Block :=
  let p := portOf b u
  if !p.link then b
  else
    let b := settleLpi u b
    let n := waiting p + p.ctl.length
    let p := { p with
      link := false
      phy := 0
      lanes := 0
      tx := []
      ctl := []
      held := []
      holdoff := []
      watch := []
      pausing := []
      lpi := none
      rxLpi := false
      wakeEnd := none
      tryC2m := false
      tryAt := b.face.time }
    notify u Fld.macStatusLinkDown .macLinkDown 0 (settleTx u (macCount u 21 n (setPort u p b)))

/-- A port begins to negotiate: auto-negotiation comes first. -/
def beginTry (u : Nat) (b : Block) : Block := modPort u (fun p => { p with tryC2m := false, tryAt := b.face.time }) b

/-- A write of MAC_CTRL: a port without link that is set to AUTO begins to negotiate (R404), and one whose TX_EN is set sends what waits. -/
def macCtrlWrite (u v : Nat) (b : Block) : Block :=
  let was := phyCode b u
  let b := setReg u Off.macCtrl (maskedWrite (reg b u Off.macCtrl) v 0xF0E03F06) b
  pump u (if was ≠ 0 ∧ phyCode b u = 0 ∧ !(portOf b u).link then beginTry u b else b)

/-- AUTONEG_TIMEOUT: with AUTO and no partner for 500 ms the port alternates between auto-negotiation and the C2M type. -/
def autonegTimeout (u : Nat) (b : Block) : Block :=
  let p := portOf b u
  if macWorks b u && phyCode b u == 0 && !p.link && decide (p.tryAt + 500000 ≤ b.face.time) then
    setPort u { p with tryC2m := !p.tryC2m, tryAt := b.face.time } b
  else b

/-! ### Reception (R405 to R415) -/

/-- The parts of a frame the MAC reads: destination, tag, EtherType. -/
structure EthHead where
  da : Nat
  tagged : Bool
  pcp : Nat
  vid : Nat
  etype : Nat
deriving DecidableEq, Repr

def ethHead (defpri : Nat) (f : List Byte) : EthHead :=
  let at2 := fun (i : Nat) => beNat ((f.drop i).take 2)
  if at2 12 = 0x8100 then ⟨beNat (f.take 6), true, at2 14 / 2 ^ 13, at2 14 % 2 ^ 12, at2 16⟩
  else ⟨beNat (f.take 6), false, defpri, 0, at2 12⟩

/-- The payload after the EtherType. -/
def ethPayload (h : EthHead) (f : List Byte) : List Byte := f.drop (if h.tagged then 18 else 14)

def isGroup (da : Nat) : Bool := bitOf da 40

/-- The address R377 forms for a rank on a link. -/
def fabricMac (b : Block) (j r l : Nat) : Nat := fld b uChip Fld.jxlJobMacPrefix j * 2 ^ 24 + r % 1024 * 2 ^ 14 + l * 2 ^ 9

/-- Is the destination one the port accepts (R405)? -/
def daAccepted (b : Block) (u da : Nat) : Bool :=
  da == macAddrOf b u || isGroup da ||
    (isLinkUnit u && (List.range 8).any fun j =>
      flag b uChip Fld.jxlJobCtrlValid j && da == fabricMac b j (fld b uChip Fld.jxlJobCtrlRank j) (u - 128))

/-- Does a filter entry match? -/
def filterHits (b : Block) (u : Nat) (h : EthHead) (i : Nat) : Bool :=
  let tagm := fld b u Fld.macFiltKeyTagm i
  flag b u Fld.macFiltKeyValid i && !(tagm == 1 && h.tagged) && !(tagm == 2 && !h.tagged) &&
    (!flag b u Fld.macFiltKeyVidEn i || h.vid == fld b u Fld.macFiltKeyVid i) &&
    bitOf (fld b u Fld.macFiltActPcpmask i) h.pcp &&
    (!flag b u Fld.macFiltActEtypeEn i || h.etype == fld b u Fld.macFiltKeyEtype i)

/-- What happens to an accepted frame: dropped, or queue, filter and whether none matched (R410, R411). -/
def steer (b : Block) (u : Nat) (h : EthHead) : Option (Nat × Nat × Bool) :=
  if h.etype = 0x88CC ∨ h.da = 0x0180_C200_000E then some (0, 0, false)
  else match (List.range 256).find? (filterHits b u h) with
  | some i => if flag b u Fld.macFiltActDrop i then none else some (fld b u Fld.macFiltActQueue i, i, false)
  | none => some (fld b u Fld.macCtrlDefq, 0, true)

/-- Who consumes a queue: 0 the reeve, 1 the QCP engine, 3 none (R412). -/
def consumerOf (b : Block) (u q : Nat) : Nat :=
  if q = 0 then 0 else let c := fld b u Fld.macRxqCfgConsumer q; if c = 2 then 3 else c

def rxOf (p : MacPort) (q : Nat) : List RxFrame := p.rx.get [] q

/-- The 16-byte receive record before a frame in its queue (Table 11.2). -/
def rxRecord (q : Nat) (f : RxFrame) : List Byte :=
  leBytes 2 f.bytes.length ++ leBytes 2 f.wirelen ++
    leBytes 1 (b2n f.fcsBad + 2 * b2n f.trunc + 4 * b2n f.tagged + 8 * b2n f.group + 16 * b2n f.dflt) ++ leBytes 1 f.pcp ++ leBytes 2 f.vid ++
    leBytes 1 f.filter ++ leBytes 1 q ++ [0, 0] ++ leBytes 4 f.ttime

/-- What a queue's consumer sees, in order: each frame behind its record (R408). -/
def rxStream (q : Nat) (l : List RxFrame) : List Byte := l.flatMap fun f => rxRecord q f ++ f.bytes

/-- The bytes a queue holds, receive records included. -/
def queueBytes (l : List RxFrame) : Nat := (l.map fun f => 16 + f.bytes.length).sum

/-- Not more often than once per millisecond. -/
def oncePerMs (now : Nat) (last : Option Nat) : Bool := match last with
  | some t => decide (t + 1000 ≤ now)
  | none => true

/-- Counters 0 to 3: a good frame of `n` wire bytes for a destination, delivered or passed to the fabric. -/
def countGood (u n da : Nat) (b : Block) : Block :=
  let b := macCount u 1 n (macCount u 0 1 b)
  let b := if isGroup da then macCount u 2 1 b else b
  if da = 2 ^ 48 - 1 then macCount u 3 1 b else b

/-- Place an accepted frame (R412, R413, R415). -/
def enqueueRx (u q : Nat) (f : RxFrame) (b : Block) : Block :=
  let p := portOf b u
  let l := rxOf p q
  let room := max 1 (fld b u Fld.macRxqCfgLimit q) * 1024
  if consumerOf b u q = 3 then macCount u 8 1 b
  else if 512 * 1024 < shareUse p f.pcp + f.bytes.length then macCount u 10 1 b
  else if room < queueBytes l + 16 + f.bytes.length then
    let b := macCount u 9 1 b
    if oncePerMs b.face.time (p.qfullAt.find q) then
      notify u Fld.macStatusQfull .macQfull q (modPort u (fun p => { p with qfullAt := p.qfullAt.put q b.face.time }) b)
    else b
  else
    let b := setPort u { p with rx := p.rx.put q (l ++ [f]), used := p.used.put f.pcp (shareUse p f.pcp + f.bytes.length) } b
    checkPauses u (if f.fcsBad then b else countGood u f.wirelen (beNat (f.bytes.take 6)) b)

/-- A MAC Control frame (R409): what follows its EtherType, the opcode first. -/
def macControl (u : Nat) (p : List Byte) (b : Block) : Block :=
  let at2 := fun (i : Nat) => beNat ((p.drop i).take 2)
  if at2 0 = 0x0001 then pauseRx u (at2 2) b
  else if at2 0 = 0x0101 then pfcRx u (at2 2) ((List.range 8).map fun c => at2 (4 + 2 * c)) b
  else macCount u 14 1 b

/-- Cut a frame that is too long (R407). -/
def macTrunc (u : Nat) (wire : Nat) (b : Block) : Block :=
  let b := macCount u 6 1 b
  if oncePerMs b.face.time (portOf b u).truncAt then
    notify u Fld.macStatusTrunc .macRxTrunc (min wire 0xFFFF)
      (modPort u (fun p => { p with truncAt := some b.face.time }) b)
  else b

/-- MAC_FRAME_RECEIVE: a frame as it stands on the wire, its FCS included, `cut` by a loss of link or whole; FEC codewords corrected and
uncorrectable meanwhile. A control frame that is too long has no verified FCS: it is cut and counted, and not obeyed (log entry 70). The answer is a fabric frame for the fabric path, with its virtual channel, where the frame was one. -/
def macReceive (u : Nat) (f : List Byte) (cut : Bool) (corr uncorr : Nat) (b : Block) : Option (Nat × List Byte) × Block :=
  if !macWorks b u || !flag b u Fld.macCtrlRxEn then (none, b)
  else
    let b := macCount u 28 uncorr (macCount u 27 corr b)
    let n := f.length
    let body := if maxLen b u < n then f.take (maxLen b u - 4) else f.take (n - 4)
    let long := decide (maxLen b u < n)
    let good := long || leNat (f.drop (n - 4)) == crc32 body
    let h := ethHead (fld b u Fld.macCtrlDefpri) body
    if cut then (none, macCount u 4 1 b)
    else if n < 64 then (none, macCount u 5 1 b)
    else if !good then (none, macCount u 4 1 b)
    else if !daAccepted b u h.da then (none, macCount u 7 1 b)
    else
      let b := if long then macTrunc u n b else b
      if h.etype = 0x8808 then (none, if long then b else macControl u (ethPayload h body) b)
      else if isLinkUnit u ∧ h.etype = fld b uChip Fld.jxlEthertypeType ∧ !long then
        if 512 * 1024 < shareUse (portOf b u) h.pcp + body.length then (none, macCount u 10 1 b)
        else
          (some (h.pcp, ethPayload h body), countGood u n h.da b)
      else match steer b u h with
      | none => (none, macCount u 8 1 b)
      | some (q, i, dflt) =>
        (none, enqueueRx u q ⟨min n 0xFFFF, long, long, h.tagged, isGroup h.da, dflt, h.pcp, h.vid, i, b.face.time % 2 ^ 32, body⟩ b)

/-- RX_FRAME_RELEASE: the consumer of a queue releases its oldest frame. -/
def rxRelease (u q : Nat) (b : Block) : Block :=
  let p := portOf b u
  match rxOf p q with
  | [] => b
  | f :: r =>
    checkPauses u (setPort u { p with rx := p.rx.put q r, used := p.used.put f.pcp (shareUse p f.pcp - f.bytes.length) } b)

/-- RXQ_CFG_WRITE: a write that changes CONSUMER while the queue holds a frame is ignored; queue 0 has no CONSUMER (R412). -/
def rxqCfgWrite (u q v : Nat) (b : Block) : Block :=
  let o := Off.macRxqCfg q
  if q ≠ 0 ∧ bitsOf v 31 30 ≠ fld b u Fld.macRxqCfgConsumer q ∧ rxOf (portOf b u) q ≠ [] then b
  else setReg u o (maskedWrite (reg b u o) v (if q = 0 then 0xFFFF else 0xC000FFFF)) b

/-! ### Views -/

def bitsWhere (p : Nat → Bool) (n : Nat) : Nat := ((List.range n).map fun i => if p i then 2 ^ i else 0).sum

/-- MAC_STATE as it reads. -/
def macState (b : Block) (u : Nat) : Nat :=
  let p := portOf b u
  let held := bitsWhere (fun c => classHeld p c) 8
  let off := bitsWhere (fun c => (p.holdoff.find c).isSome || (p.holdoff.find 8).isSome) 8
  b2n p.link * 2 ^ 31 + p.phy % 8 * 2 ^ 28 + p.lanes % 16 * 2 ^ 24 + held * 2 ^ 16 + off * 2 ^ 8 + b2n p.lpi.isSome * 128 + b2n p.rxLpi * 64

/-- MAC_RXQ_STATE as it reads. -/
def rxqState (b : Block) (u q : Nat) : Nat :=
  let l := rxOf (portOf b u) q
  min l.length 0xFFFF * 2 ^ 16 + (queueBytes l + 1023) / 1024

end Sys2Proof.Machine
end

