-- ==== Sys2Proof/Machine/Link.lean ====
section
/-! DEFINITION. The Jexgaob links (R357 to R365): modes, states, lanes, flits, replay and retraining, and the passing of a fabric frame to a
link's transmitter. -/

namespace Sys2Proof.Machine

def modFab (f : Fabric → Fabric) (b : Block) : Block := { b with fab := f b.fab }
def linkOf (b : Block) (l : Nat) : Link := b.fab.links.get Link.init l
def setLink (l : Nat) (x : Link) (b : Block) : Block := modFab (fun f => { f with links := f.links.put l x }) b
def modLink (l : Nat) (g : Link → Link) (b : Block) : Block := setLink l (g (linkOf b l)) b

/-- Link states (Table 10.3). -/
def lsOff : Nat := 0
def lsTraining : Nat := 1
def lsUp : Nat := 2
def lsRetraining : Nat := 3
def lsFailed : Nat := 4

def linkState (b : Block) (l : Nat) : Nat := fld b (uLink l) Fld.jxlStateState
def linkMode (b : Block) (l : Nat) : Nat := fld b (uLink l) Fld.jxlCtrlMode
def linkUp (b : Block) (l : Nat) : Bool := linkState b l == lsUp

/-- The number of set bits among the low eight. -/
def ones8 (v : Nat) : Nat := ((List.range 8).filter fun i => bitOf v i).length

/-- The active lanes of a direction: those neither excluded nor failed (R360). -/
def txLanes (b : Block) (l : Nat) : Nat := 8 - ones8 (Nat.lor (fld b (uLink l) Fld.jxlLanemapTxex) (linkOf b l).badTx)
def rxLanes (b : Block) (l : Nat) : Nat := 8 - ones8 (Nat.lor (fld b (uLink l) Fld.jxlLanemapRxex) (linkOf b l).badRx)

/-- Lanes that fail adaptation carry nothing until the link adapts again, and show in JXL_LANEMAP (R360). -/
def excludeLanes (l txBad rxBad : Nat) (b : Block) : Block :=
  let u := uLink l
  let b := modLink l (fun x => { x with badTx := txBad % 256, badRx := rxBad % 256 }) b
  let b := setFld u Fld.jxlLanemapTxex (Nat.lor (fld b u Fld.jxlLanemapTxex) (txBad % 256)) b
  setFld u Fld.jxlLanemapRxex (Nat.lor (fld b u Fld.jxlLanemapRxex) (rxBad % 256)) b

/-! ### Flits (Table 10.2, R363, R365) -/

/-- A flit from its fields; CREDIT is what has been freed. -/
def mkFlit (typ vc seq ack : Nat) (nak : Bool) (credits : List Nat) (payload : List Byte) : List Byte :=
  let f := leBytes 1 (typ + 16 * vc) ++ leBytes 3 seq ++ leBytes 3 ack ++ leBytes 1 (b2n nak) ++ credits.flatMap (leBytes 1) ++
    List.replicate 12 0 ++ payload ++ List.replicate (256 - payload.length) 0
  f ++ leBytes 4 (crc32 f)

def seqNext (s : Nat) : Nat := (s + 1) % 2 ^ 24

/-- Put a flit on the wire. -/
def putFlit (l : Nat) (f : List Byte) (b : Block) : Block := modFab (fun x => { x with flits := x.flits ++ [(l, f)] }) b

/-- The credits to return with the next flit, which then carries them. -/
def takeFreed (x : Link) : List Nat × Link := ((List.range 8).map fun v => min 255 (x.freed.get 0 v), { x with freed := [] })

/-- The last sequence this end received in order. -/
def lastInOrder (x : Link) : Nat := (x.rxSeq + 2 ^ 24 - 1) % 2 ^ 24

/-- An IDLE flit: it carries ACK, NAK and credits, and is never replayed. -/
def sendIdle (l : Nat) (nak : Bool) (b : Block) : Block :=
  let c := takeFreed (linkOf b l)
  putFlit l (mkFlit 0 0 c.2.txSeq (lastInOrder c.2) nak c.1 []) (setLink l c.2 b)

def creditOf (x : Link) (vc : Nat) : Nat := x.credit.get 64 vc

/-- The lowest virtual channel that has bytes and a credit. -/
def readyVc (x : Link) : Option Nat := (List.range 8).find? fun v => !(x.txq.get [] v).isEmpty && decide (0 < creditOf x v)

/-- Send the next DATA flit of a virtual channel. -/
def sendData (l vc : Nat) (b : Block) : Block :=
  let c := takeFreed (linkOf b l)
  let x := c.2
  let q := x.txq.get [] vc
  let f := mkFlit 1 vc x.txSeq (lastInOrder x) false c.1 (q.take 256)
  let x := { x with
    txSeq := seqNext x.txSeq
    replay := x.replay ++ [(x.txSeq, f)]
    txq := x.txq.put vc (q.drop 256)
    credit := x.credit.put vc (creditOf x vc - 1) }
  bump (uLink l) Off.jxlFlitsTxLo 1 (putFlit l f (setLink l x b))

def pumpGo (l : Nat) : Nat → Block → Block
  | 0, b => b
  | n + 1, b =>
    let x := linkOf b l
    if 512 ≤ x.replay.length then b
    else match readyVc x with
    | some v => pumpGo l n (sendData l v b)
    | none => b

/-- Send what credits and the 512 unacknowledged flits allow. -/
def pumpLink (l : Nat) (b : Block) : Block := if linkUp b l && linkMode b l == 1 then pumpGo l 512 b else b

/-- Drop from the replay buffer what an ACK covers. -/
def ackTo (ack : Nat) (x : Link) : Link :=
  if x.replay.any fun r => r.1 = ack then
    let kept := (x.replay.dropWhile fun r => r.1 ≠ ack).drop 1
    { x with acked := ack, replay := kept, tries := x.tries.filter fun t => kept.any fun r => r.1 = t.1 }
  else x

/-- NAK_REPLAY: replay from ACK + 1 (R363). -/
def nakReplay (l ack : Nat) (b : Block) : Block :=
  if linkUp b l && linkMode b l == 1 then
    let x := ackTo ack (linkOf b l)
    let x := { x with tries := x.replay.foldl (fun (t : SMap Nat) (r : Nat × List Byte) => t.put r.1 (t.get 0 r.1 + 1)) x.tries }
    let b := x.replay.foldl (fun (b : Block) (r : Nat × List Byte) => putFlit l r.2 b) (setLink l x b)
    bump (uLink l) Off.jxlReplayLo x.replay.length b
  else b

/-- The whole frames at the front of a virtual channel's bytes, and what is left. A zero byte where a header would begin fills the flit. -/
def takeFrames : Nat → List Byte → List (List Byte) × List Byte
  | 0, q => ([], q)
  | n + 1, q =>
    match q with
    | [] => ([], [])
    | h :: _ =>
      if h = 0 then ([], [])
      else
        let len := 48 + leAt q 2 2 % 2 ^ 13
        if q.length < 4 ∨ q.length < len then ([], q)
        else
          let r := takeFrames n (q.drop len)
          (q.take len :: r.1, r.2)

/-- FLIT_RECEIVE: the fabric frames the flit completes, each with its virtual channel. While a replay is awaited later flits are discarded in silence;
a damaged one may be of the replay and asks for it once more (R363). -/
def flitReceive (l : Nat) (f : List Byte) (corr uncorr : Nat) (b : Block) : List (List Byte) × Block :=
  let u := uLink l
  if !(linkUp b l && linkMode b l == 1) then ([], b)
  else
    let b := bump u Off.jxlFecUncorrLo uncorr (bump u Off.jxlFecCorrLo corr b)
    let x := linkOf b l
    let bad := f.length != 288 || leAt f 284 4 != crc32 (f.take 284)
    if bad || leAt f 1 3 != x.rxSeq then
      let b := if bad then bump u Off.jxlCrcErrLo 1 b else b
      if x.nakked && !bad then ([], b) else ([], sendIdle l true (modLink l (fun x => { x with nakked := true }) b))
    else
      let typ := leAt f 0 1 % 16
      let vc := leAt f 0 1 / 16 % 8
      let x := ackTo (leAt f 4 3) { x with nakked := false }
      let x := { x with credit := (List.range 8).foldl (fun (c : SMap Nat) v => c.put v (c.get 64 v + leAt f (8 + v) 1)) x.credit }
      let x := if typ = 0 then x else { x with rxSeq := seqNext x.rxSeq }
      let b := setLink l x b
      let b := if bitOf (leAt f 7 1) 0 then nakReplay l (leAt f 4 3) b else b
      if typ = 1 then
        let q := (linkOf b l).rxq.get [] vc ++ (f.drop 28).take 256
        let r := takeFrames 16 q
        let b := modLink l (fun x => { x with rxq := x.rxq.put vc r.2, freed := x.freed.put vc (x.freed.get 0 vc + 1) }) b
        (r.1, sendIdle l false (pumpLink l (bump u Off.jxlFlitsRxLo 1 b)))
      else ([], pumpLink l b)

/-! ### Handing a fabric frame to a link (R359, R376, R377) -/

/-- An Ethernet frame that carries a fabric frame on a virtual channel. -/
def fabricEth (b : Block) (j l r vc : Nat) (f : List Byte) : List Byte :=
  beBytes 6 (fabricMac b j r l) ++ beBytes 6 (fabricMac b j (fld b uChip Fld.jxlJobCtrlRank j) l) ++ [0x81, 0x00] ++ beBytes 2 (vc % 8 * 2 ^ 13) ++
    beBytes 2 (fld b uChip Fld.jxlEthertypeType) ++ f

/-- Send a frame of a job on a link. -/
def putFrame (j l r vc : Nat) (f : List Byte) (b : Block) : Block :=
  if linkMode b l = 1 then pumpLink l (modLink l (fun x => { x with txq := x.txq.put vc (x.txq.get [] vc ++ f) }) b)
  else if linkMode b l = 2 then (macSend (uLink l) vc (fabricEth b j l r vc f) b).2
  else b

/-! ### Lane records (R361) -/

/-- LANEMAP_COMMIT: a commit that changes the record is counted first; a ninth is refused. -/
def lanemapCommit (l : Nat) (b : Block) : Block :=
  let u := uLink l
  let rec' := reg b u Off.jxlLanemap % 2 ^ 16
  let s := b.tly.store
  let used := s.laneUsed.get 0 l
  if rec' = s.lanes.get 0 l then b
  else if 8 ≤ used then notify u Fld.jxlStatusRemapRefused .jxlRemapRefused used b
  else
    let b := bbRecord 3 .tlyLimitChange (leBytes 4 (l * 2 ^ 8 + 3) ++ leBytes 4 used ++ leBytes 4 (used + 1)) b
    let b := { b with tly := { b.tly with store := { s with lanes := s.lanes.put l rec', laneUsed := s.laneUsed.put l (used + 1) } } }
    setFld u Fld.jxlLanemapUsed (used + 1) b

end Sys2Proof.Machine
end

