-- ==== Sys2Proof/Machine/Fabric.lean ====
section
/-! DEFINITION. Fabric frames on their way out (R366 to R382): header, protection, counters and epochs, routes, requests held until their completion,
resending, link training and failure, heartbeats and key agreement. -/

namespace Sys2Proof.Machine

/-! ### Routes (R375 to R378) -/

def slotSwitched (b : Block) (j : Nat) : Bool := flag b uChip Fld.jxlJobCtrlSwitched j
def jobIdOf (b : Block) (j : Nat) : Nat := reg b uChip (Off.jxlJobId j)

/-- The slot a JOBID maps to. -/
def slotOfJob (b : Block) (id : Nat) : Option Nat := (List.range 8).find? fun j => slotValid b j && jobIdOf b j == id


def rankKey (j r : Nat) : Nat := j * 1024 + r % 1024

/-- The usable links of a rank, in ascending order (R376). In switched mode heartbeats and KEYX frames need no report of a rank that has not been heard of
yet (log entry 41): it is first heard of by them. -/
def usableLinks (b : Block) (j r : Nat) (first : Bool) : List Nat :=
  (List.range 24).filter fun l => bitOf (rtLinks (routeOf b j r)) l && linkUp b l &&
    (!slotSwitched b j || (match (b.fab.beats.find (rankKey j r)).bind (·.live) with
      | some live => bitOf live l
      | none => first))

/-- The link a frame leaves on, and whether it leaves on a detour (R376, R378): a completion returns on the link its request came by, which is a detour
where that link is none of the rank's own. -/
def pickLink (b : Block) (j r h : Nat) (first : Bool) (prefer : Option Nat) : Option (Nat × Bool) :=
  let back := prefer.filter fun l => linkUp b l
  let ls := usableLinks b j r first
  match back, ls with
  | some l, _ => some (l, !slotSwitched b j && !bitOf (rtLinks (routeOf b j r)) l)
  | none, _ :: _ => some (ls.getD (h % ls.length) 0, false)
  | none, [] =>
    if slotSwitched b j then none
    else match rtVia (routeOf b j r) with
    | some v =>
      let vs := usableLinks b j v first
      if vs.isEmpty then none else some (vs.getD (h % vs.length) 0, true)
    | none => none

/-- A link of the rank in RETRAINING, which delays a heartbeat until it is UP again (Table 10.11). -/
def retrainingLink (b : Block) (j r : Nat) : Option Nat :=
  (List.range 24).find? fun l => bitOf (rtLinks (routeOf b j r)) l && linkState b l == lsRetraining

/-! ### Frames (Table 10.4, R367) -/

structure FabHead where
  level : Nat
  kind : Nat
  cls : Nat
  train : Bool
  ltags : Bool
  len : Nat
  src : Nat
  dst : Nat
  jobid : Nat
  ctr : Nat
  epoch : Nat
  detour : Bool
  op : Nat
  addr : Nat
  rlen : Nat
deriving DecidableEq, Repr

def FabHead.bytes (h : FabHead) : List Byte :=
  leBytes 1 h.level ++ leBytes 1 (h.kind + 16 * h.cls + 64 * b2n h.train + 128 * b2n h.ltags) ++ leBytes 2 h.len ++ leBytes 2 h.src ++
    leBytes 2 h.dst ++ leBytes 4 h.jobid ++ leBytes 4 h.ctr ++ leBytes 2 h.epoch ++ leBytes 1 (b2n h.detour) ++ leBytes 1 h.op ++
    leBytes 8 h.addr ++ leBytes 2 h.rlen ++ leBytes 2 0

def fabHead (f : List Byte) : FabHead :=
  let k := leAt f 1 1
  ⟨leAt f 0 1, k % 16, k / 16 % 4, bitOf k 6, bitOf k 7, leAt f 2 2 % 2 ^ 13, leAt f 4 2 % 1024, leAt f 6 2 % 1024, leAt f 8 4, leAt f 12 4,
    leAt f 16 2, bitOf (leAt f 18 1) 0, leAt f 19 1, leAt f 20 8, leAt f 28 2⟩

/-- The nonce of a frame. -/
def fabNonce (h : FabHead) : List Byte :=
  leBytes 12 (h.ctr + h.epoch * 2 ^ 32 + h.src * 2 ^ 48 + h.dst * 2 ^ 58 + h.cls * 2 ^ 68)

/-- The additional data: the header with byte 18 read as 0. -/
def fabAad (hdr : List Byte) : List Byte := hdr.take 18 ++ [0] ++ (hdr.drop 19).take 13

/-- The key of an epoch (R538); epochs count on over rounds. -/
def epochKey (p : Pair) (epoch : Nat) : Option (List Byte) :=
  (p.prks.find (epoch / 65536)).map fun prk => hkdfExpand prk (ascii "JXL" ++ leBytes 2 (epoch % 65536)) 32

def sealFrame (key : List Byte) (h : FabHead) (p : List Byte) : List Byte :=
  let s := gcmSeal key (fabNonce h) (fabAad h.bytes) p
  h.bytes ++ s.1 ++ s.2

def pairOf (b : Block) (j r : Nat) : Option Pair := b.fab.pairs.find (rankKey j r)
def setPair (j r : Nat) (p : Pair) (b : Block) : Block := modFab (fun f => { f with pairs := f.pairs.put (rankKey j r) p }) b

/-- The next value of a class counter; past 0xFFFF_FFFF the epoch advances and every counter restarts at 0 (R368). -/
def nextCtr (cls : Nat) (p : Pair) : Nat × Pair :=
  let c := p.ctrs.get 0 cls
  if c < 2 ^ 32 then (c, { p with ctrs := p.ctrs.put cls (c + 1) })
  else (0, { p with txEpoch := p.txEpoch + 1, ctrs := [(cls, 1)] })

/-- The virtual channel of a class of traffic; the second hop of a detour adds 4 (R365). -/
def vcOf (kind cls : Nat) : Nat := if kind = 6 ∨ kind = 7 then 0 else if kind = 5 then 3 else if cls = 1 then 2 else 1

/-- The choice of link among the usable: `h` of R376. -/
def spread (h : FabHead) : Nat :=
  if h.kind = 1 ∨ h.kind = 2 ∨ h.kind = 3 then Nat.xor (bitsOf h.addr 27 12) (bitsOf h.addr 41 28) else h.ctr

/-- Send a finished frame to a rank; on a detour byte 18 says so. Answers the link taken. -/
def routeFrame (j r : Nat) (prefer : Option Nat) (f : List Byte) (b : Block) : Option Nat × Block :=
  let h := fabHead f
  match pickLink b j r (spread h) (h.kind == 6 || h.kind == 7) prefer with
  | none => match (if h.kind = 6 then retrainingLink b j r else none) with
    | some l => (none, putFrame j l r (vcOf h.kind h.cls) f b)
    | none => (none, b)
  | some (l, detour) =>
    let f := if detour then f.take 18 ++ [1] ++ f.drop 19 else f
    (some l, putFrame j l r (vcOf h.kind h.cls) f b)

/-! ### Key agreement (R535 to R540) -/

def ownLmin (b : Block) : Nat := fld b uChip Fld.jxlNegLmin
def ownLmax (b : Block) : Nat := fld b uChip Fld.jxlNegLmax
def ownAbi (b : Block) : Nat := fld b uChip Fld.jxlNegAbi
def ownRev (b : Block) : Nat := reg b uChip Off.sysArithRev

/-- The highest level both ranges contain (R382). -/
def commonLevel (lmin lmax pmin pmax : Nat) : Option Nat := if max lmin pmin ≤ min lmax pmax then some (min lmax pmax) else none

/-- The KEYX payload of a round (Table 15.5). -/
def keyxPayload (b : Block) (j r : Nat) (a : Agree) : List Byte :=
  let flags := b2n (slotTrains b j) + 2 * b2n (flag b uSec Fld.secStateDebug) + 4 * b2n a.peer.isSome
  let m := a.pub ++ identityPub ++ a.nonce ++ leBytes 4 (jobIdOf b j) ++ leBytes 2 (ownRank b j) ++ leBytes 2 r ++ leBytes 2 a.round ++
    leBytes 1 (ownLmin b) ++ leBytes 1 (ownLmax b) ++ leBytes 1 (ownRev b) ++ leBytes 1 flags ++ leBytes 2 (ownAbi b) ++ List.replicate 16 0
  m ++ edSign identityKey m

/-- Send this side's KEYX of the round in progress. -/
def sendKeyx (j r : Nat) (b : Block) : Block :=
  match b.fab.agree.find (rankKey j r) with
  | none => b
  | some a =>
    let p := keyxPayload b j r a
    let h : FabHead := ⟨1, 7, 2, false, false, p.length, ownRank b j, r, jobIdOf b j, 0, 0, false, 0, 0, 0⟩
    let b := modFab (fun f => { f with agree := f.agree.put (rankKey j r) { a with sentAt := b.face.time } }) b
    (routeFrame j r none (h.bytes ++ p ++ List.replicate 16 0) b).2

/-- Start a round with a rank: a fresh ephemeral key and nonce (R536, R540); none starts once the entropy source has failed (R529). -/
def startAgree (j r round : Nat) (b : Block) : Block :=
  if !rngOk b then b else
  let e := drawEntropy b
  let n := drawEntropy e.2
  sendKeyx j r (modFab (fun f => { f with
    agree := f.agree.put (rankKey j r) ⟨round, some e.1, x25519Public e.1, n.1, none, false, b.face.time⟩ }) n.2)

/-- KEYX_RESEND: each side resends every 10 ms until it holds the peer's KEYX and has seen GOT (R538). -/
def keyxResend (j r : Nat) (b : Block) : Block :=
  match b.fab.agree.find (rankKey j r) with
  | some a => if a.eph.isSome ∧ a.sentAt + 10000 ≤ b.face.time then sendKeyx j r b else b
  | none => b

/-! ### Requests (R370, R372) -/

/-- The bytes of memory a request names. -/
def reqSpan (q : FabReq) : Nat :=
  if q.kind = 2 then q.rlen else if q.kind = 3 then (atomicSize q.op).getD 8 else if q.ltags then q.data.length / 68 * 64 else q.data.length

def reqLines (q : FabReq) : List Nat := if q.kind = 5 then [] else linesOf q.addr (reqSpan q)

/-- Must the request wait: an earlier one of its unit names a line of its own, or 4,096 are outstanding to its destination? -/
def mustWait (b : Block) (q : FabReq) : Bool :=
  (b.fab.held.any fun h => h.req.unit == q.unit && h.req.job == q.job && h.req.rank == q.rank &&
    ((reqLines h.req).any fun l => (reqLines q).contains l)) ||
  decide (4096 ≤ (b.fab.held.filter fun h => h.req.job = q.job ∧ h.req.rank = q.rank).length)

/-- An epoch that reaches 0xFF00 starts the agreement of the next secret, so that it is there when EPOCH restarts (R368), unless the peer has started
that round already. -/
def noteAdvance (j r : Nat) (p p' : Pair) (b : Block) : Block :=
  let n := p'.txEpoch / 65536 + 1
  if p'.txEpoch ≠ p.txEpoch ∧ p'.txEpoch % 65536 = 0xFF00 ∧ !((b.fab.agree.find (rankKey j r)).any fun a => decide (n ≤ a.round)) then
    startAgree j r n b
  else b

/-- Send a request for the first time: it takes the next counter of class 0, is sealed once and held until its completion. -/
def issueReq (q : FabReq) (p : Pair) (b : Block) : Option Block :=
  let c := nextCtr 0 p
  match epochKey c.2 c.2.txEpoch with
  | none => none
  | some key =>
    let h : FabHead := ⟨p.level, q.kind, 0, q.train, q.ltags, q.data.length, ownRank b q.job, q.rank, jobIdOf b q.job, c.1, c.2.txEpoch % 65536, false,
      q.op, q.addr, q.rlen⟩
    let f := sealFrame key h q.data
    let b := noteAdvance q.job q.rank p c.2 (setPair q.job q.rank c.2 b)
    let s := routeFrame q.job q.rank none f b
    some (modFab (fun x => { x with held := x.held ++ [⟨q, c.2.txEpoch, c.1, f, 1, b.face.time, s.1⟩] }) s.2)

/-- The phase of a collective that has lost a frame to a silent member and waits for the reeve's abort. -/
def stuckPhase : Nat := 2 ^ 21

/-- Hand the end of a request to its unit: a collective frame that fails fails its collective, but one to a silent member leaves it waiting until the
reeve aborts it (Table 10.11). -/
def endReq (q : FabReq) (s : Status) (v : Nat) (b : Block) : Block :=
  let refused (b : Block) : Block := if s = .notPresent then addrFault ⟨q.unit, some q.job, q.train, false⟩ (q.rank * 2 ^ 54 + q.addr % 2 ^ 54) b else b
  if q.kind = 5 then
    let stuck := s == .opFailed && b.fab.silent.contains (rankKey q.job q.rank)
    if s = .ok then b
    else refused <| modFab (fun f => { f with colls := f.colls.map fun (e : Nat × List Coll) => (e.1, e.2.map fun c =>
      if c.job = q.job ∧ leAt c.desc 8 4 = q.addr % 2 ^ 32 ∧ leAt c.desc 4 2 = q.addr / 2 ^ 32 % 2 ^ 16 ∧ c.status = none then
        (if stuck then { c with phase := stuckPhase } else { c with status := some s }) else c) }) b
  else answer s v (refused b)

/-- Try to send a request: a rank that is no member answers NOT_PRESENT (R375); one that must wait waits. -/
def tryReq (q : FabReq) (b : Block) : Block :=
  let wait := modFab (fun f => { f with wants := f.wants ++ [q] }) b
  if !slotValid b q.job || !rtValid (routeOf b q.job q.rank) then endReq q .notPresent 0 b
  else match pairOf b q.job q.rank with
  | none => wait
  | some p => if mustWait b q then wait else (issueReq q p b).getD wait

/-- A unit's request to another rank: behind one of the same unit that names a line of its own and still waits, it waits too (R39, R372). -/
def fabricRequest (q : FabReq) (b : Block) : Block :=
  if b.fab.wants.any fun w => w.unit = q.unit ∧ w.job = q.job ∧ w.rank = q.rank ∧ ((reqLines w).any fun l => (reqLines q).contains l) then
    modFab (fun f => { f with wants := f.wants ++ [q] }) b
  else tryReq q b

/-- Offer the waiting requests again, in order. -/
def retryWants (b : Block) : Block :=
  b.fab.wants.foldl (fun b q => fabricRequest q b) (modFab (fun f => { f with wants := [] }) b)

/-- The bytes of a WRITE's payload for a line tag: 64 bytes of data and their tag, or the bytes themselves. -/
def farPayload (tag : Option Nat) (v : List Byte) : List Byte := match tag with
  | some t => (List.range (v.length / 64)).flatMap fun i => (v.drop (64 * i)).take 64 ++ leBytes 4 t
  | none => v

/-- Does a request carry the front of an access that a unit noted? -/
def carries (q : FabReq) (x : FarAccess) : Bool :=
  let n := reqSpan q
  x.unit == q.unit && x.job == some q.job && x.kind == q.kind && x.addr == q.rank * 2 ^ 54 + q.addr && (decide (0 < n) || x.len == 0) && decide (n ≤ x.len) &&
    (match q.kind with
     | 1 => q.ltags == x.tag.isSome && q.data == farPayload x.tag (x.bytes.take n)
     | 2 => true
     | _ => q.op == x.op && q.data == x.bytes)

/-- What is left of a noted access once its first `n` bytes have been sent. -/
def farRest (n : Nat) (x : FarAccess) : List FarAccess :=
  if x.len ≤ n then [] else [{ x with addr := x.addr + n, len := x.len - n, bytes := x.bytes.drop n }]

/-- Does a unit note its accesses to other modules before they are sent? -/
def notesFar (u : Nat) : Bool := kindOf u == some .tile || kindOf u == some .gleaner || kindOf u == some .stack || u == uCtx

/-- Do a request and a noted access of its unit name a line in common? -/
def sameLine (q : FabReq) (x : FarAccess) : Bool :=
  x.unit == q.unit && x.addr / 2 ^ 54 == q.rank && (linesOf (x.addr % 2 ^ 54) x.len).any fun l => (reqLines q).contains l

/-- The notes of the units' accesses once a request has been sent: the first noted access that it carries loses what it carries. None where it carries
none, or where the unit noted an earlier access that names a line of its own (R39). -/
def farSent (q : FabReq) (b : Block) : Option Block :=
  let before := b.til.far.takeWhile fun x => !carries q x
  match b.til.far.dropWhile fun x => !carries q x with
  | [] => none
  | x :: r => if before.any (sameLine q) then none else some { b with til := { b.til with far := before ++ farRest (reqSpan q) x ++ r } }

/-- FABRIC_REQUEST_SEND: a unit's access to another rank leaves. Of a unit that notes its accesses it is the next part of one it noted. -/
def requestSend (q : FabReq) (b : Block) : Block :=
  if notesFar q.unit then match farSent q b with
    | some b => fabricRequest q b
    | none => b
  else fabricRequest q b

/-- A held request ends. -/
def finishReq (h : Held) (s : Status) (v : Nat) (b : Block) : Block :=
  retryWants (endReq h.req s v (modFab (fun f => { f with held := f.held.filter (· != h) }) b))

/-- The resend timeout in µs of the mode a request's link runs in. -/
def rtoOf (b : Block) (h : Held) : Nat :=
  let eth := match h.link with
    | some l => linkMode b l == 2
    | none => slotSwitched b h.req.job
  max 1 (if eth then fld b uChip Fld.jxlE2eRtoEth else fld b uChip Fld.jxlE2eRtoNat)

/-- Send a held request once more on the route in force; after 8 sends it fails (R370). -/
def resend (h : Held) (b : Block) : Block :=
  if 8 ≤ h.sends then
    finishReq h .opFailed 0 (notify uChip Fld.jxlFabStatusE2eFail .jxlE2eFail (h.req.job * 2 ^ 29 + h.req.rank) b)
  else
    let s := routeFrame h.req.job h.req.rank none h.frame b
    let h' := { h with sends := h.sends + 1, at' := b.face.time, link := s.1 }
    bump uChip Off.jxlResendLo 1 (modFab (fun f => { f with held := f.held.map fun x => if x = h then h' else x }) s.2)

def heldOf (b : Block) (j r ctr : Nat) : Option Held := b.fab.held.find? fun h => h.req.job = j ∧ h.req.rank = r ∧ h.ctr = ctr

/-- FABRIC_RESEND_TIMEOUT. -/
def resendTimeout (j r ctr : Nat) (b : Block) : Block :=
  match heldOf b j r ctr with
  | some h => if h.at' + rtoOf b h ≤ b.face.time then resend h b else b
  | none => b

/-- FABRIC_COMPLETION: a completion ends its request, or with RETRY (0x80) leaves it to be resent after RTO, its send not counted. -/
def completionRx (j r ctr op : Nat) (data : List Byte) (b : Block) : Block :=
  match heldOf b j r ctr with
  | none => b
  | some h =>
    if op = 0x80 then
      modFab (fun f => { f with held := f.held.map fun x => if x = h then { h with sends := h.sends - 1, at' := b.face.time } else x }) b
    else finishReq h (match op with
      | 0 => .ok
      | 1 => .badArgument
      | 2 => .notPresent
      | 3 => .versionFault
      | 5 => .resetAbsorbed
      | 6 => .cancelled
      | _ => .opFailed) (leNat data) b

/-- JOB_FLUSH: every outstanding request of the job completes with CANCELLED (R398). -/
def flushJob (j : Nat) (b : Block) : Block :=
  let hs := b.fab.held.filter fun h => h.req.job = j
  let ws := b.fab.wants.filter fun q => q.job = j
  let b := modFab (fun f => { f with
    held := f.held.filter fun h => h.req.job != j
    wants := f.wants.filter fun q => q.job != j }) b
  ws.foldl (fun b q => endReq q .cancelled 0 b) (hs.foldl (fun b h => endReq h.req .cancelled 0 b) b)

/-! ### Links in training, up and failed (R357 to R364) -/

/-- Does a rank look live from here: heard of, with links up, and not silent? -/
def looksLive (b : Block) (j v : Nat) : Bool := !b.fab.silent.contains (rankKey j v) && (match b.fab.beats.find (rankKey j v) with
  | some x => (x.live.getD 0) != 0
  | none => false)

/-- The links that reach a rank: those whose peer has its identity, or in switched mode every plane. -/
def linksTo (b : Block) (j : Nat) (digest : List Byte) : Nat :=
  bitsWhere (fun l => if slotSwitched b j then linkMode b l == 2 else linkMode b l == 1 && pair b (uLink l) Off.jxlPeerLo == leNat (digest.take 8)) 24

/-- LINKS of a member's entry as the links now are. -/
def withLinks (b : Block) (j r e : Nat) : Nat := match b.fab.members.find (rankKey j r) with
  | some d => withBits e 23 0 (linksTo b j d)
  | none => e

/-- The reeve's firmware writes LINKS of every member as the links now are, and sets VIA to the lowest rank that has live direct links to both ends
(R375): here a member with a link UP from this module whose latest heartbeat reports live links (log entry 69). The entry of a silent rank is left
alone, so that it stays silent (R381). -/
def rewriteVia (j : Nat) (b : Block) : Block :=
  let ms := (List.range 1024).filter fun r => rtValid (routeOf b j r) && !rtSelf (routeOf b j r)
  let near := ms.filter fun v => looksLive b j v && (List.range 24).any fun l => bitOf (rtLinks (routeOf b j v)) l && linkUp b l
  ms.foldl (fun b r =>
    let e := routeOf b j r
    let e' := withLinks b j r (match (if slotSwitched b j then none else near.find? fun v => v != r) with
      | some v => withBits e 42 32 (2 ^ 10 + v)
      | none => withBits e 42 32 0)
    if e' = e ∨ b.fab.silent.contains (rankKey j r) then b else tablePut (routeAddr b j r) (leBytes 8 e') b) b

/-- A link has come up or gone: the routes of every job follow. -/
def linksChanged (b : Block) : Block := ((List.range 8).filter (slotValid b)).foldl (fun b j => rewriteVia j b) b

/-- A link has left UP: the requests it carried are resent (R370). -/
def linkLeft (l : Nat) (b : Block) : Block :=
  (b.fab.held.filter fun h => h.link = some l).foldl (fun b h => resend h b) (linksChanged b)

def setLinkState (l s : Nat) (b : Block) : Block := setFld (uLink l) Fld.jxlStateState s b

def showLanes (l : Nat) (b : Block) : Block :=
  let b := setFld (uLink l) Fld.jxlStateTxw (txLanes b l) (setFld (uLink l) Fld.jxlStateRxw (rxLanes b l) b)
  let b := if (portOf b (uLink l)).link then modPort (uLink l) (fun p => { p with lanes := min (txLanes b l) (rxLanes b l) }) b else b
  if txLanes b l < 8 ∨ rxLanes b l < 8 then degrade (uLink l) b else b

/-- The link enters FAILED, losing the flits of its replay buffer. -/
def failLink (l : Nat) (b : Block) : Block :=
  let was := linkUp b l
  let b := notify (uLink l) Fld.jxlStatusFailed .jxlFailed 0 (setLinkState l lsFailed (setLink l Link.init b))
  if was then linkLeft l b else b

/-- A write of JXL_LANEMAP: the exclusions, then the commit if asked. A link that is UP stops using the lanes; it fails where it keeps fewer than four in
a direction (R360, R364). -/
def lanemapWrite (l v : Nat) (b : Block) : Block :=
  let b := setReg (uLink l) Off.jxlLanemap (maskedWrite (reg b (uLink l) Off.jxlLanemap) v 0xFFFF) b
  let b := if bitOf v 31 then lanemapCommit l b else b
  if !linkUp b l then b
  else
    let b := showLanes l b
    if txLanes b l < 4 ∨ rxLanes b l < 4 then failLink l b else b

/-- The link enters UP. -/
def enterUp (l : Nat) (b : Block) : Block :=
  let b := linksChanged (showLanes l (setLinkState l lsUp b))
  notify (uLink l) Fld.jxlStatusUp .jxlUp (fld b (uLink l) Fld.jxlStateLevel * 2 ^ 8 + txLanes b l * 16 + rxLanes b l) b

/-- Are the link controllers released? Before stage SPINES they are in reset, and no link trains (Table 14.3). -/
def linksReleased (b : Block) : Bool := fld b uChip Fld.sysBootStageStage != 0

/-- JXL_MODE_WRITE: a new MODE takes the link OFF and trains it; so does any MODE written to a FAILED link (Table 10.3). 3 is ignored. A MODE written
before the link controllers are released waits for that (log entry 47). -/
def linkModeWrite (l v : Nat) (b : Block) : Block :=
  let m := v % 4
  if m = 3 ∨ (m = linkMode b l ∧ linkState b l ≠ lsFailed) then b
  else
    let up := linkUp b l
    let b := if linkMode b l = 2 then macLinkDown (uLink l) b else b
    let b := setReg (uLink l) Off.jxlState 0 (setLink l Link.init b)
    let b := if up then linkLeft l b else b
    let b := setFld (uLink l) Fld.jxlCtrlMode m b
    if m = 0 || !linksReleased b then b else setLinkState l lsTraining (if m = 2 then beginTry (uLink l) b else b)

/-- This end's NEGOTIATE message: LMIN, LMAX, the link's index and bits [63:0] of the identity digest (R362), in a CONTROL flit, which takes its SEQ and
is replayed like a DATA flit (Table 10.2); the place of each in the payload is log entry 69's. The peer's message takes a SEQ of its own. -/
def sendNegotiate (l : Nat) (b : Block) : Block :=
  let x := linkOf b l
  let f := mkFlit 2 0 x.txSeq (lastInOrder x) false (List.replicate 8 0)
    (leBytes 1 (ownLmin b) ++ leBytes 1 (ownLmax b) ++ leBytes 1 l ++ identityDigest.take 8)
  putFlit l f (setLink l { x with txSeq := seqNext x.txSeq, replay := x.replay ++ [(x.txSeq, f)], rxSeq := seqNext x.rxSeq } b)

/-- NEGOTIATE: once the lanes have adapted, but for those that failed, each end sends its message; the peer's range, link index and identity bits
arrive. -/
def negotiate (l lmin lmax plink pid txBad rxBad : Nat) (b : Block) : Block :=
  let u := uLink l
  if linkMode b l ≠ 1 ∨ linkState b l ≠ lsTraining ∨ linksReleased b = false then b
  else
    let b := excludeLanes l txBad rxBad b
    if txLanes b l < 4 ∨ rxLanes b l < 4 then failLink l b
    else
    let b := sendNegotiate l b
    match commonLevel (ownLmin b) (ownLmax b) lmin lmax with
    | none => notify u Fld.jxlStatusNegFail .jxlNegFail (lmax * 2 ^ 8 + lmin) (setLinkState l lsFailed b)
    | some lv =>
      let b := setReg u Off.jxlPeerHi (pid / 2 ^ 32) (setReg u Off.jxlPeerLo pid b)
      enterUp l (setFld u Fld.jxlStatePeerlink plink (setFld u Fld.jxlStateLevel lv b))

/-- The PHY of an Ethernet-mode link reports link up (R362). -/
def ethLinkUp (l lanes : Nat) (b : Block) : Block :=
  if linkMode b l = 2 ∧ (linkState b l = lsTraining ∨ linkState b l = lsRetraining) then
    let ex := 256 - 2 ^ (min lanes 8)
    enterUp l (setFld (uLink l) Fld.jxlStateLevel 0 (excludeLanes l ex ex b))
  else b

/-- The link goes to RETRAINING, or FAILED the fourth time within a second (R364). -/
def enterRetrain (l : Nat) (b : Block) : Block :=
  let u := uLink l
  let recent := (linkOf b l).retrains.filter fun t => decide (b.face.time < t + 1000000)
  if 3 ≤ recent.length then failLink l b
  else
    let b := modLink l (fun x => { x with retrains := recent ++ [b.face.time] }) b
    linkLeft l (notify u Fld.jxlStatusRetrain .jxlRetrain (reg b u Off.jxlLanemap % 2 ^ 16) (setLinkState l lsRetraining b))

/-- JXL_RETRAIN: one flit has been replayed 16 times, or a lane lost its lock. -/
def retrain (l : Nat) (lostLock : Bool) (b : Block) : Block :=
  if linkUp b l && (lostLock || (linkOf b l).tries.any fun t => decide (16 ≤ t.2)) then enterRetrain l b else b

/-- RETRAIN_DONE: the lanes adapted again, but for those that failed; the link resumes by replay. -/
def retrainDone (l txBad rxBad : Nat) (b : Block) : Block :=
  if linkState b l ≠ lsRetraining then b
  else
    let b := excludeLanes l txBad rxBad b
    if txLanes b l < 4 ∨ rxLanes b l < 4 then failLink l b
    else
      let b := enterUp l (modLink l (fun x => { x with tries := [] }) b)
      pumpLink l (nakReplay l (linkOf b l).acked b)

/-! ### Heartbeats (R379 to R381) -/

/-- The heartbeat interval in µs, and the intervals that make a rank silent. -/
def hbInterval (b : Block) : Nat := let i := fld b uChip Fld.jxlHbCtrlInterval; (if 1 ≤ i ∧ i ≤ 10 then i else 2) * 1000
def hbMiss (b : Block) : Nat := max 1 (fld b uChip Fld.jxlHbCtrlMiss)

/-- The links UP. -/
def liveLinks (b : Block) : Nat := bitsWhere (linkUp b) 24

/-- The heartbeat payload of a job slot (Table 10.7). -/
def beatPayload (b : Block) (j : Nat) : List Byte :=
  leBytes 1 (fld b uQcp Fld.qcpDevstateState) ++ leBytes 1 (ownLmin b) ++ leBytes 1 (ownLmax b) ++ leBytes 1 (ownRev b) ++ leBytes 2 (ownAbi b) ++ [0, 0] ++
    leBytes 4 (liveLinks b) ++ leBytes 4 (reg b uTrn (Off.trnJobDone j)) ++ leBytes 4 b.face.time ++ List.replicate 12 0

/-- Seal a frame of class 1 or 2 to a rank and send it. -/
def sendSealed (j r kind cls op addr : Nat) (ltags : Bool) (prefer : Option Nat) (data : List Byte) (b : Block) : List Byte × Block :=
  match pairOf b j r with
  | none => ([], b)
  | some p =>
    let c := nextCtr cls p
    match epochKey c.2 c.2.txEpoch with
    | none => ([], b)
    | some key =>
      let h : FabHead := ⟨p.level, kind, cls, slotTrains b j, ltags, data.length, ownRank b j, r, jobIdOf b j, c.1, c.2.txEpoch % 65536, false, op, addr, 0⟩
      let f := sealFrame key h data
      (f, (routeFrame j r prefer f (noteAdvance j r p c.2 (setPair j r c.2 b))).2)

/-- The watched ranks of a slot. -/
def watchedRanks (b : Block) (j : Nat) : List Nat :=
  (List.range 1024).filter fun r => rtWatch (routeOf b j r) && rtValid (routeOf b j r)

/-- HEARTBEAT_SEND: every INTERVAL, to every watched rank of every slot; in FAULT the chip sends none (R466). -/
def heartbeatSend (b : Block) : Block :=
  if fld b uQcp Fld.qcpDevstateState = 8 ∨ b.face.time < b.fab.hbAt + hbInterval b then b
  else
    let b := modFab (fun f => { f with hbAt := b.face.time }) b
    ((List.range 8).filter (slotValid b)).foldl (fun b j =>
      (watchedRanks b j).foldl (fun b r => (sendSealed j r 6 2 0 0 false none (beatPayload b j) b).2) b) b

/-- A rank becomes silent. -/
def markSilent (j r : Nat) (b : Block) : Block :=
  if b.fab.silent.contains (rankKey j r) then b
  else notify uChip Fld.jxlFabStatusPeerSilent .jxlPeerSilent (j * 2 ^ 29 + r)
    (modFab (fun f => { f with silent := f.silent ++ [rankKey j r] }) b)

/-- JXL_PEER_SILENT: no heartbeat of a watched rank for MISS intervals (R380). -/
def peerSilent (j r : Nat) (b : Block) : Block :=
  let last := match b.fab.beats.find (rankKey j r) with
    | some x => x.at'
    | none => 0
  if slotValid b j && rtWatch (routeOf b j r) && decide (last + hbMiss b * hbInterval b ≤ b.face.time) then markSilent j r b else b

/-- A HEARTBEAT's payload: of a silent rank it is only counted (R381). -/
def beatRx (j r : Nat) (p : List Byte) (b : Block) : Block :=
  let k := rankKey j r
  if b.fab.silent.contains k then modFab (fun f => { f with ignored := f.ignored.put k (f.ignored.get 0 k + 1) }) b
  else
    let x : Beat := ⟨b.face.time, leAt p 0 1, leAt p 1 1, leAt p 2 1, leAt p 3 1, leAt p 4 2, some (leAt p 8 4 % 2 ^ 24), leAt p 12 4, leAt p 16 4⟩
    let b := modFab (fun f => { f with beats := f.beats.put k x }) b
    match pairOf b j r, commonLevel (ownLmin b) (ownLmax b) x.lmin x.lmax with
    | some q, some lv => setPair j r { q with level := lv } b
    | _, _ => b

/-- The reeve rewrites a rank's route entry: a silent rank is heard again, and its silence is measured from now. -/
def routeWrite (j r e : Nat) (b : Block) : Block :=
  modFab (fun f => { f with
    silent := f.silent.filter (· != rankKey j r)
    beats := f.beats.put (rankKey j r) { f.beats.get ⟨0, 0, 0, 0, 0, 0, none, 0, 0⟩ (rankKey j r) with at' := b.face.time } }) (engineWrite uReeve (routeAddr b j r) (leBytes 8 e) b).2

end Sys2Proof.Machine
end

