-- ==== Sys2Proof/Machine/TrainArea.lean ====
section
/-! DEFINITION. The training-state engine's structures in the granary (Tables 9.2, 9.3): the step control block, the state table, the engine's accesses,
and the SHEAF and PEND areas. -/

namespace Sys2Proof.Machine

/-! ### The step control block and the state table (Tables 9.2, 9.3) -/

def trnPhase (b : Block) (j : Nat) : Nat := fld b uTrn Fld.trnJobStatePhase j
def scbBase (b : Block) (j : Nat) : Nat := reg b uTrn (Off.trnJobScbLo j) + 2 ^ 32 * reg b uTrn (Off.trnJobScbHi j)

/-- A field of the step control block: in a step as the step start read it, else as it stands (R320). -/
def scb (b : Block) (j off n : Nat) : Nat := match (trnOf b j).scbHeld with
  | some l => if trnPhase b j = 0 ∨ trnPhase b j = 7 then numAt b (scbBase b j + off) n else leAt l off n
  | none => numAt b (scbBase b j + off) n

def nState (b : Block) (j : Nat) : Nat := scb b j 8 4
def nLayers (b : Block) (j : Nat) : Nat := scb b j 12 2

/-- One entry of a state table. -/
structure StateEnt where
  arrays : List Nat
  grad : Nat
  blocks : Nat
  wfmt : Nat
  frozen : Bool
  check : Bool
  layer : Nat
  scidx : Nat
  rgroup : Nat
deriving DecidableEq, Repr

def stateEnt (b : Block) (base i : Nat) : StateEnt :=
  let a := base + 64 * i
  ⟨[numAt b a 8, numAt b (a + 8) 8, numAt b (a + 16) 8, numAt b (a + 24) 8], numAt b (a + 32) 8, numAt b (a + 40) 4, numAt b (a + 44) 1 % 16,
    bitOf (numAt b (a + 45) 1) 0, bitOf (numAt b (a + 45) 1) 1, numAt b (a + 46) 2, numAt b (a + 48) 2, numAt b (a + 50) 1⟩

def stateEnts (b : Block) (j : Nat) : List StateEnt := (List.range (nState b j)).map (stateEnt b (scb b j 0 8))

def elemsIn (e : StateEnt) : Nat := 16384 * e.blocks

/-- Bytes of an entry's array: FP32, or the packed working copy with its block scales (R319). -/
def arrayBytes (e : StateEnt) (arr : Nat) : Nat :=
  if arr < 3 then 65536 * e.blocks
  else packedBytes (fmtBits e.wfmt) (elemsIn e) + (if isMx e.wfmt then elemsIn e / 32 else 0)

/-- Is an array present? MASTER always is. -/
def hasArray (e : StateEnt) (arr : Nat) : Bool := arr == 0 || e.arrays.getD arr 0 != 0

/-- The plane count of an array's records (Table 9.6). -/
def planesOf (e : StateEnt) (arr : Nat) : Nat := if arr < 3 then 4 else if fmtBits e.wfmt = 16 then 2 else 1

/-- One mirrored array or area: entry (0xFFFF for the areas), array code, offset, bytes, planes. -/
structure Mirrored where
  entry : Nat
  arr : Nat
  addr : Nat
  bytes : Nat
  es : Nat
deriving DecidableEq, Repr

/-- The mirrored arrays of a state table, in order. -/
def mirroredArrays (es : List StateEnt) : List Mirrored :=
  (es.zipIdx.map fun p => ((List.range 4).filter (hasArray p.1)).map fun a =>
    (⟨p.2, a, p.1.arrays.getD a 0, arrayBytes p.1 a, planesOf p.1 a⟩ : Mirrored)).flatten

/-- The arrays the sweep writes. -/
def sweptArrays (b : Block) (j : Nat) : List Mirrored :=
  (mirroredArrays (stateEnts b j)).filter fun m => !(stateEnt b (scb b j 0 8) m.entry).frozen

/-! ### The engine's accesses (R194 to R198, R281, R288) -/

/-- A structure of the job could not be reached: the command that met it ends with the answer of R463 and R464. -/
def noteTrnFail (j : Nat) (b : Block) : Block := modJob j (fun x => { x with failed := x.failed.or (some (lastFailSite b)) }) b

/-- The engine reads structures of the job; answers whether it could. -/
def trnTouch (j : Nat) (rs : List (Nat × Nat)) (b : Block) : Bool × Block :=
  let r := touchRanges uTrn rs b
  if r.1 = .ok then (true, r.2) else (false, noteTrnFail j r.2)

/-- The engine writes bytes of the job: whole lines take LTAG 0 (R194). -/
def trnWrite (j a : Nat) (v : List Byte) (b : Block) : Block :=
  let r := engineWrite uTrn a v b
  if r.1 = .ok then r.2 else noteTrnFail j r.2

/-- The engine puts kept bytes back, each line with its tag. -/
def putBack (j : Nat) (k : Kept) (b : Block) : Block :=
  ((linesOf k.addr k.bytes.length).zip k.tags).foldl (fun b p =>
    let lo := max k.addr (64 * p.1)
    let hi := min (k.addr + k.bytes.length) (64 * p.1 + 64)
    let r := granaryWrite ⟨uTrn, none, false, false⟩ lo ((k.bytes.drop (lo - k.addr)).take (hi - lo)) (some p.2) b
    if r.1 = .ok then r.2 else noteTrnFail j r.2) b

/-- The structures a command works by: the step control block and the state table. -/
def tableRanges (b : Block) (j : Nat) : List (Nat × Nat) := [(scbBase b j, 256), (scb b j 0 8, 64 * nState b j)]

/-! ### The SHEAF and PEND areas (R320, R333, R342; log entry 68) -/

/-- The places of SHEAF in use: the staged segments of steps that can be undone, and the records not acknowledged. -/
def sheafSpans (x : TrnJob) : List Span := x.sheaf.filter fun s =>
  if s.staged then x.undo.any fun u => u.step == s.step else x.out.any fun r => r.step == s.step

/-- The places of PEND in use: the records pending and retained. -/
def pendSpans (x : TrnJob) : List Span := x.pendAt.filter fun s => (x.pend ++ x.retained).any fun r => r.step == s.step

/-- The first place of an area of `size` bytes where `n` bytes find room. -/
def findRoom (l : List Span) (size n : Nat) : Option Nat :=
  (0 :: l.map fun s => s.off + s.len).find? fun o => decide (o + n ≤ size) &&
    l.all fun s => decide (o + n ≤ s.off) || decide (s.off + s.len ≤ o)

/-- Does SHEAF have room for some bytes? -/
def sheafRoom (b : Block) (j n : Nat) : Bool := (findRoom (sheafSpans (trnOf b j)) (scb b j 80 8) n).isSome

/-- Bytes of a step are put into SHEAF, where they find room. -/
def sheafPut (j : Nat) (staged : Bool) (n : Nat) (v : List Byte) (b : Block) : Block :=
  match findRoom (sheafSpans (trnOf b j)) (scb b j 80 8) v.length with
  | some o => trnWrite j (scb b j 72 8 + o) v (modJob j (fun x => { x with sheaf := sheafSpans x ++ [⟨staged, n, o, v.length⟩] }) b)
  | none => b

end Sys2Proof.Machine
end

