-- ==== Sys2Proof/Machine/Collect.lean ====
section
/-! DEFINITION. The collectives engines (R384 to R397): descriptors, groups, the fixed-order reduction, gathers, exchanges, permutations and
barriers. -/

namespace Sys2Proof.Machine

/-! ### Descriptors and groups (Table 10.8, R385, R386) -/

def kCop (d : List Byte) : Nat := leAt d 0 1
def kDtype (d : List Byte) : Nat := leAt d 1 1 % 16
def kRop (d : List Byte) : Nat := leAt d 1 1 / 16 % 4
def kLtags (d : List Byte) : Bool := bitOf (leAt d 2 1) 0
def kSignal (d : List Byte) : Bool := bitOf (leAt d 2 1) 1
def kSigTok (d : List Byte) : Nat := leAt d 3 1
def kGroup (d : List Byte) : Nat := leAt d 4 2
def kSigTile (d : List Byte) : Nat := leAt d 6 1 % 64
def kSeq (d : List Byte) : Nat := leAt d 8 4
def kRounds (d : List Byte) : Nat := leAt d 12 4
def kSrc (d : List Byte) : Nat := leAt d 16 8
def kDst (d : List Byte) : Nat := leAt d 24 8
def kCount (d : List Byte) : Nat := leAt d 32 8
def kAux (d : List Byte) : Nat := leAt d 40 8
def kAux2 (d : List Byte) : Nat := leAt d 48 8
def kDone (d : List Byte) : Nat := leAt d 56 8

/-- The collectives engine a queue feeds. -/
def engineOf (q : Nat) : Nat := q % 4

def collBase (b : Block) (f lo hi : Nat) : Nat := reg b (uCol f) lo + 2 ^ 32 * reg b (uCol f) hi
def groupBase (b : Block) (f j : Nat) : Nat := collBase b f (Off.colJobGrpLo j) (Off.colJobGrpHi j)
def stageBase (b : Block) (f j : Nat) : Nat := collBase b f (Off.colJobStageLo j) (Off.colJobStageHi j)
def stageLen (b : Block) (f j : Nat) : Nat := fld b (uCol f) Fld.colJobStageLenSize j * 0x20_0000

/-- The ranks of a group, in position order; none where the group is not right (R386). -/
def groupRanks (b : Block) (f j g : Nat) : Option (List Nat) :=
  let e := groupBase b f j + 16 * g
  let n := numAt b e 2
  let lst := numAt b (e + 8) 8
  let rs := (List.range n).map fun i => numAt b (lst + 2 * i) 2
  if decide (2 ≤ n) && decide (n ≤ 1024) && rs.all (fun r => decide (r < 1024)) &&
      (rs.zip (rs.drop 1)).all (fun p => decide (p.1 < p.2)) && rs.contains (ownRank b j) then some rs else none

def posOf (rs : List Nat) (r : Nat) : Nat := rs.findIdx (· = r)

/-- Which element types an operation takes (Table 10.9); 5 and above are reserved but for GRAD8. -/
def dtypeOk (cop dt : Nat) : Bool := match cop with
  | 1 => decide (dt ≤ 3)
  | 2 => decide (dt ≤ 3) || dt == 5
  | 3 => decide (dt ≤ 4)
  | 8 => decide (dt ≤ 5)
  | _ => dt == 4

/-- PERMUTE list entries (Table 10.10): address, stage offset, bytes, rank, round. -/
structure PermEnt where
  addr : Nat
  stage : Nat
  bytes : Nat
  rank : Nat
  round : Nat
  bad : Bool
deriving DecidableEq, Repr

def permEntry (b : Block) (a : Nat) (out : Bool) : PermEnt :=
  ⟨numAt b a 8, numAt b (a + 8) 4, numAt b (a + 12) 4, numAt b (a + 16) 2 % 1024, numAt b (a + 18) 2,
   !((numAt b (a + 20) 12 == 0) && decide (numAt b (a + 16) 2 < (if out then 1024 else 65536)))⟩

def permList (b : Block) (a n : Nat) (out : Bool) : List PermEnt := (List.range n).map fun i => permEntry b (a + 32 * i) out

def outList (b : Block) (d : List Byte) : List PermEnt := permList b (kAux d) (kCount d % 2 ^ 32) true
def inList (b : Block) (d : List Byte) : List PermEnt := permList b (kAux2 d) (kCount d / 2 ^ 32) false

/-- R391: an entry's round is below ROUNDS, its BYTES a multiple of 64, its stage range within the stage area. -/
def permBad (b : Block) (f j : Nat) (d : List Byte) : Bool :=
  kRounds d == 0 || decide (65535 < kRounds d) ||
    (outList b d ++ inList b d).any fun e => e.bad || decide (kRounds d ≤ e.round) || e.bytes % 64 != 0 || decide (stageLen b f j < e.stage + e.bytes)

/-- Does a descriptor complete with BAD_ARGUMENT (R385)? -/
def collBad (b : Block) (f j : Nat) (d : List Byte) : Bool :=
  let cop := kCop d
  let counts := decide (cop ≤ 6)
  cop == 0 || decide (8 < cop) || decide (5 < kDtype d) || kRop d == 3 || decide (64 ≤ leAt d 1 1) || decide (4 ≤ leAt d 2 1) ||
    decide (64 ≤ leAt d 6 1) || leAt d 7 1 != 0 || !dtypeOk cop (kDtype d) || (kDtype d == 5 && kRop d != 0) ||
    (counts && kCount d == 0) || kDone d % 8 != 0 || (groupRanks b f j (kGroup d)).isNone || (cop == 7 && permBad b f j d)

/-- What an engine reads of its job to carry a descriptor: the group entry, the member list, and the lists of a PERMUTE (R386, R391). -/
def collRanges (b : Block) (f j : Nat) (d : List Byte) : List (Nat × Nat) :=
  let e := groupBase b f j + 16 * kGroup d
  (e, 16) :: (numAt b (e + 8) 8, 2 * numAt b e 2) ::
    (if kCop d = 7 then [(kAux d, 32 * (kCount d % 2 ^ 32)), (kAux2 d, 32 * (kCount d / 2 ^ 32))] else [])

/-! ### Shards and reduction (R388 to R390) -/

/-- Bytes of an element on the wire of the granary. -/
def elemBytes (dt : Nat) : Nat := match dt with
  | 1 => 8
  | 3 => 8
  | 4 => 1
  | _ => 4

def shardLen (n c : Nat) : Nat := 32 * ((c + 32 * n - 1) / (32 * n))
/-- The number of elements of shard `k`. -/
def shardCount (n c k : Nat) : Nat := let s := shardLen n c; min ((k + 1) * s) c - min (k * s) c

/-- The largest power of two below `m`, for `m ≥ 2`. -/
def halfPow (m : Nat) : Nat := 2 ^ Nat.log2 (m - 1)

/-- The pairwise sum in the fixed tree (R389), on positions `a` to `e - 1`; the fuel bounds the depth. -/
def treeSum : Nat → (Nat → Nat) → Nat → Nat → Nat
  | 0, x, a, _ => x a
  | n + 1, x, a, e =>
    if e ≤ a + 1 then x a
    else
      let h := halfPow (e - a)
      f32Add (treeSum n x a (a + h)) (treeSum n x (a + h) e)

/-- One reduced element from the members' elements in position order (R389). -/
def reduceElem (dt rop : Nat) (xs : List Nat) : Nat :=
  let bits := 8 * elemBytes dt
  let x0 := xs.headD 0
  match dt, rop with
  | 0, 0 => treeSum 11 (fun i => xs.getD i 0) 0 xs.length
  | 5, _ => treeSum 11 (fun i => xs.getD i 0) 0 xs.length
  | 0, 1 => if xs.any fun x => f32 x = .nan then nan32 else xs.tail.foldl (fun a c => toF32 (fmaxV (f32 a) (f32 c))) x0
  | 0, _ => if xs.any fun x => f32 x = .nan then nan32 else xs.tail.foldl (fun a c => toF32 (fminV (f32 a) (f32 c))) x0
  | _, 0 => xs.foldl (· + ·) 0 % 2 ^ bits
  | 1, 1 => xs.tail.foldl (fun a c => if signedOf bits a < signedOf bits c then c else a) x0
  | 1, _ => xs.tail.foldl (fun a c => if signedOf bits c < signedOf bits a then c else a) x0
  | _, 1 => xs.tail.foldl max x0
  | _, _ => xs.tail.foldl min x0

/-- The elements of a byte string. -/
def elemsOf (w : Nat) (l : List Byte) : List Nat := (List.range (l.length / w)).map fun i => leAt l (w * i) w

/-- GRAD8 on the wire, block by block: 32 codes and the scale's code (log entry 42). -/
def grad8Pack (us : List Nat) : List Byte × List Nat :=
  let n := us.length
  let padded := (us ++ List.replicate ((32 - n % 32) % 32) 0).map f32
  let r := convertRow ⟨4, false, 0, false, 0, 0, 0, 0⟩ (fun _ => 0) (fun i => i) padded
  let wide := (r.1.zipIdx.take n).map fun p => (widen ((fmtOf 4).getD fmtF32) (r.2.1.getD (p.2 / 32) 0) p.1).code
  (((List.range ((n + 31) / 32)).map fun k => ((r.1.drop (32 * k)).take 32).map (BitVec.ofNat 8) ++ leBytes 1 (r.2.1.getD k 0)).flatten, wide)

def grad8Unpack (n : Nat) (l : List Byte) : List Nat :=
  (List.range n).map fun i => (widen ((fmtOf 4).getD fmtF32) (leAt l (i / 32 * 33 + 32) 1) (leAt l (i / 32 * 33 + i % 32) 1)).code

def grad8Bytes (n : Nat) : Nat := (n + 31) / 32 * 33

/-! ### Frames of a collective (log entry 42) -/

/-- Frame types: a contribution, a gathered shard, a block or message, a barrier, a stage range. -/
def tContrib : Nat := 0
def tShard : Nat := 1
def tBlock : Nat := 2
def tBarrier : Nat := 3
def tStage : Nat := 4

/-- The tags of the lines of a range. -/
def rangeTags (b : Block) (a n : Nat) : List Nat := (List.range ((n + 63) / 64)).map fun i => tagOf b (a / 64 + i)

/-- Bytes read from `a` as units of 68: 64 bytes, a last part filled with zeros, and their line's tag. -/
def withTags (b : Block) (a : Nat) (v : List Byte) : List Byte :=
  ((rangeTags b a v.length).zipIdx.map fun p => (((v.drop (64 * p.2)).take 64) ++ List.replicate 64 0).take 64 ++ leBytes 4 p.1).flatten

/-- Send one frame of a collective: the byte offset stands in the high half of ADDR's SEQ and GROUP word and RLEN's place. -/
def sendPiece (f j : Nat) (d : List Byte) (r typ off : Nat) (ltags : Bool) (data : List Byte) (b : Block) : Block :=
  fabricRequest ⟨uCol f, j, r, 5, slotTrains b j, ltags, typ, kSeq d + kGroup d * 2 ^ 32 + off % 2 ^ 16 * 2 ^ 48, off / 2 ^ 16 % 2 ^ 16, data⟩ b

/-- Send a byte string in frames of 4,096 bytes; offsets on the wire count 64-byte units. -/
def sendBytes (f j : Nat) (d : List Byte) (r typ : Nat) (v : List Byte) (b : Block) : Block :=
  (List.range ((v.length + 4095) / 4096)).foldl (fun b i =>
    sendPiece f j d r typ (64 * i) false ((v.drop (4096 * i)).take 4096) b) b

/-- Send what a range of memory holds with its line tags, 60 lines to a frame; offsets of stage ranges count bytes, others lines (log entry 42). -/
def sendTagged (f j : Nat) (d : List Byte) (r typ first a : Nat) (v : List Byte) (b : Block) : Block :=
  (List.range ((v.length + 3839) / 3840)).foldl (fun b i =>
    sendPiece f j d r typ (first + (if typ = tStage then 3840 else 60) * i) true (withTags b (a + 3840 * i) ((v.drop (3840 * i)).take 3840)) b) b

/-! ### The engine's own accesses -/

def collIssuer (b : Block) (f j : Nat) : Issuer := ⟨uCol f, some j, slotTrains b j, false⟩

/-- The local part of a device address of a descriptor. -/
def localOff (a : Nat) : Nat := a % 2 ^ 54

/-- The device address of a local offset. -/
def localAddr (b : Block) (j a : Nat) : Nat := ownRank b j * 2 ^ 54 + localOff a

/-- Read a device address of the module, as a descriptor names it. -/
def engRead (f j a n : Nat) (b : Block) : Status × List Byte × Block := devRead (collIssuer b f j) [] a n b

/-- Write at a device address of the module, each whole line with its tag where tags travel. -/
def engWrite (f j a : Nat) (v : List Byte) (tags : List Nat) (b : Block) : Status × Block :=
  if tags.isEmpty then devWrite (collIssuer b f j) [] a v none b
  else (tags.zipIdx).foldl (fun (acc : Status × Block) p =>
    if acc.1 ≠ .ok then acc
    else devWrite (collIssuer b f j) [] (a + 64 * p.2) ((v.drop (64 * p.2)).take 64) (some p.1) acc.2) (.ok, b)

/-! ### Running collectives -/

def collsOf (b : Block) (f : Nat) : List Coll := b.fab.colls.get [] f
def setColls (f : Nat) (l : List Coll) (b : Block) : Block := modFab (fun x => { x with colls := x.colls.put f l }) b
def sameColl (c d : Coll) : Bool := c.queue == d.queue && c.desc == d.desc && c.job == d.job
def putColl (f : Nat) (c : Coll) (b : Block) : Block := setColls f ((collsOf b f).map fun x => if sameColl x c then c else x) b

/-- The bytes gathered of a type from a position. -/
def gotBytes (c : Coll) (typ pos : Nat) : Nat := ((c.got.filter fun p => p.typ = typ ∧ p.src = pos).map fun p => p.data.length).sum

/-- The pieces of a type from a position, in offset order and joined. -/
def gotData (c : Coll) (typ pos n : Nat) : List Byte :=
  let ps := c.got.filter fun p => p.typ = typ ∧ p.src = pos
  let m := ps.foldl (fun m p => cellsSetAll m (64 * p.off) p.data) []
  (List.range n).map (cellsGet m)

def gotTags (c : Coll) (typ pos n : Nat) : List Nat :=
  let ps := c.got.filter fun p => p.typ = typ ∧ p.src = pos
  (List.range n).map fun i => match ps.find? fun p => decide (p.off ≤ i) && decide (i < p.off + p.tags.length) with
    | some p => p.tags.getD (i - p.off) 0
    | none => 0

/-- The wire bytes of shard `k`'s contribution, or of the shard itself. -/
def contribBytes (d : List Byte) (n k : Nat) : Nat :=
  let m := shardCount n (kCount d) k
  if kDtype d = 5 then grad8Bytes m else m * elemBytes (kDtype d)

def shardBytes (d : List Byte) (n k : Nat) : Nat := shardCount n (kCount d) k * elemBytes (kDtype d)
def shardOff (d : List Byte) (n k : Nat) : Nat := k * shardLen n (kCount d) * elemBytes (kDtype d)

/-- Send every other member its contribution; GRAD8 converts with the error area at AUX (R390, R325). -/
def sendContribs (f j : Nat) (d : List Byte) (rs : List Nat) (b : Block) : Status × Block :=
  let n := rs.length
  let me := posOf rs (ownRank b j)
  (rs.zipIdx).foldl (fun (acc : Status × Block) p =>
    if acc.1 ≠ .ok ∨ p.2 = me then acc
    else
      let m := shardCount n (kCount d) p.2
      let r := engRead f j (kSrc d + shardOff d n p.2) (shardBytes d n p.2) acc.2
      if r.1 ≠ .ok then (r.1, r.2.2)
      else if kDtype d ≠ 5 then (.ok, sendBytes f j d p.1 tContrib r.2.1 r.2.2)
      else
        let ea := kAux d + shardOff d n p.2
        let e := engRead f j ea (4 * m) r.2.2
        if e.1 ≠ .ok then (e.1, e.2.2)
        else
          let us := List.zipWith f32Add (elemsOf 4 r.2.1) (elemsOf 4 e.2.1)
          let q := grad8Pack us
          let w := engWrite f j ea ((List.zipWith f32Sub us q.2).flatMap (leBytes 4)) [] e.2.2
          (w.1, sendBytes f j d p.1 tContrib q.1 w.2)) (.ok, b)

/-- Reduce the own shard once every contribution is here. -/
def reduceOwn (f j : Nat) (c : Coll) (rs : List Nat) (b : Block) : Status × List Byte × Block :=
  let d := c.desc
  let n := rs.length
  let me := posOf rs (ownRank b j)
  let m := shardCount n (kCount d) me
  let w := elemBytes (kDtype d)
  let own := engRead f j (kSrc d + shardOff d n me) (shardBytes d n me) b
  let rows := (List.range n).map fun p =>
    if p = me then elemsOf w own.2.1
    else if kDtype d = 5 then grad8Unpack m (gotData c tContrib p (contribBytes d n me))
    else elemsOf w (gotData c tContrib p (contribBytes d n me))
  let out := (List.range m).map fun i => reduceElem (kDtype d) (kRop d) (rows.map fun r => r.getD i 0)
  (own.1, out.flatMap (leBytes w), own.2.2)

/-- Send the own shard to every other member. -/
def sendShard (f j : Nat) (d : List Byte) (rs : List Nat) (v : List Byte) (b : Block) : Block :=
  let me := ownRank b j
  (rs.filter (· ≠ me)).foldl (fun b r =>
    if kCop d = 3 ∧ kLtags d then sendTagged f j d r tShard 0 (localOff (kSrc d)) v b else sendBytes f j d r tShard v b) b

def sendBarrier (f j : Nat) (d : List Byte) (rs : List Nat) (n : Nat) (b : Block) : Block :=
  let me := ownRank b j
  (rs.filter (· ≠ me)).foldl (fun b r => sendPiece f j d r tBarrier n false [] b) b

/-- Has every other member's barrier `n` been heard? -/
def barrierMet (c : Coll) (rs : List Nat) (me n : Nat) : Bool :=
  (List.range rs.length).all fun p => p == me || c.got.any fun x => x.typ == tBarrier && x.src == p && x.off == n

/-- Move a range with its tags inside the module. -/
def moveRange (f j a dst n : Nat) (b : Block) : Status × Block :=
  let v := engRead f j (localAddr b j a) n b
  if v.1 ≠ .ok then (v.1, v.2.2) else engWrite f j (localAddr b j dst) v.2.1 (rangeTags v.2.2 (localOff a) n) v.2.2

/-- Do a step for each of some entries until one fails. -/
def eachOk (go : PermEnt → Block → Status × Block) (es : List PermEnt) (b : Block) : Status × Block :=
  es.foldl (fun (acc : Status × Block) e => if acc.1 ≠ .ok then acc else go e acc.2) (.ok, b)

/-- A round's outgoing ranges. -/
def sendRound (f j : Nat) (d : List Byte) (r : Nat) (b : Block) : Status × Block :=
  eachOk (fun e b =>
    if e.rank = ownRank b j then moveRange f j e.addr (stageBase b f j + e.stage) e.bytes b
    else
      let v := engRead f j (localAddr b j e.addr) e.bytes b
      (v.1, if v.1 = .ok then sendTagged f j d e.rank tStage e.stage (localOff e.addr) v.2.1 v.2.2 else v.2.2))
    ((outList b d).filter fun e => e.round = r) b

/-- A round's incoming ranges leave the stage area. -/
def copyRound (f j : Nat) (d : List Byte) (r : Nat) (b : Block) : Status × Block :=
  eachOk (fun e b => moveRange f j (stageBase b f j + e.stage) e.addr e.bytes b) ((inList b d).filter fun e => e.round = r) b

/-- Is a collective one of the same job and group with a lower SEQ? -/
def isEarlier (c : Coll) (job : Nat) (d : List Byte) : Bool := job == c.job && kGroup d == kGroup c.desc && decide (kSeq d < kSeq c.desc)

/-- The descriptors a COLLECTIVE queue holds that have not started. -/
def waitingDescs (b : Block) (q : Nat) : List (List Byte) :=
  if qType b q = 3 ∧ qEnabled b q then
    (List.range ((qProd b q + 2 ^ 32 - qCons b q) % 2 ^ 32)).map fun i => bytesAt b (ringAt b q ((qCons b q + i) % 2 ^ 32)) 64
  else []

/-- Have earlier collectives of the same group not completed (R392): on any engine, or in a queue whose descriptor is on the die (log entry 69)? -/
def earlierRuns (b : Block) (c : Coll) : Bool :=
  ((List.range 4).any fun f => (collsOf b f).any fun x => isEarlier c x.job x.desc) ||
    b.ctx.cached.any fun q => (waitingDescs b q.1).any fun d => isEarlier c (qJob b q.1) d

/-- Do frames of a collective other than barrier frames still await their completions? -/
def outstanding (b : Block) (c : Coll) : Bool :=
  let mine (q : FabReq) : Bool := q.kind == 5 && q.job == c.job && q.op != tBarrier && q.addr % 2 ^ 32 == kSeq c.desc &&
    q.addr / 2 ^ 32 % 2 ^ 16 == kGroup c.desc
  b.fab.wants.any mine || b.fab.held.any fun h => mine h.req

/-- The phase of a collective that only waits for the completions of its frames. -/
def endPhase : Nat := 2 ^ 20

/-- Store a gathered shard or block. -/
def storeFrom (f j a : Nat) (c : Coll) (typ p n : Nat) (b : Block) : Status × Block :=
  engWrite f j a (gotData c typ p n) (if kCop c.desc = 3 ∧ kLtags c.desc then gotTags c typ p ((n + 63) / 64) else []) b

/-- Carry a collective one phase on, if what it waits for is here. The phases: 0 started, then per operation. It ends OK once its own frames have
completed too. -/
def collStep (f : Nat) (c : Coll) (b : Block) : Coll × Block :=
  let j := c.job
  let d := c.desc
  let fin (s : Status) (b : Block) : Coll × Block :=
    if s = .ok ∧ outstanding b c then ({ c with phase := endPhase }, b) else ({ c with status := some s }, b)
  if c.phase = stuckPhase then (c, b) else
  if c.phase = endPhase then fin .ok b else
  let t := touchRanges (uCol f) (collRanges b f j d) b
  if t.1 ≠ .ok then fin t.1 t.2 else
  let b := t.2
  match groupRanks b f j (kGroup d) with
  | none => fin .badArgument b
  | some rs =>
    let n := rs.length
    let me := posOf rs (ownRank b j)
    let others := (List.range n).filter (· ≠ me)
    match kCop d, c.phase with
    | 1, 0 | 2, 0 =>
      let r := sendContribs f j d rs b
      if r.1 = .ok then ({ c with phase := 1 }, r.2) else fin r.1 r.2
    | 1, 1 | 2, 1 =>
      if others.all fun p => decide (contribBytes d n me ≤ gotBytes c tContrib p) then
        let r := reduceOwn f j c rs b
        if r.1 ≠ .ok then fin r.1 r.2.2
        else
          let w := engWrite f j (kDst d + (if kCop d = 1 then shardOff d n me else 0)) r.2.1 [] r.2.2
          if kCop d = 2 ∨ w.1 ≠ .ok then fin w.1 w.2
          else ({ c with phase := 2 }, sendShard f j d rs r.2.1 w.2)
      else (c, b)
    | 3, 0 =>
      let r := engRead f j (kSrc d) (shardBytes d n me) b
      let w := engWrite f j (kDst d + shardOff d n me) r.2.1
        (if kLtags d then rangeTags b (localOff (kSrc d)) r.2.1.length else []) r.2.2
      if r.1 ≠ .ok ∨ w.1 ≠ .ok then fin (if r.1 = .ok then w.1 else r.1) w.2
      else ({ c with phase := 2 }, sendShard f j d rs r.2.1 w.2)
    | 1, _ | 3, _ =>
      if others.all fun p => decide (shardBytes d n p ≤ gotBytes c tShard p) then
        let r := others.foldl (fun (acc : Status × Block) p =>
          if acc.1 ≠ .ok then acc else storeFrom f j (kDst d + shardOff d n p) c tShard p (shardBytes d n p) acc.2) (.ok, b)
        fin r.1 r.2
      else (c, b)
    | 4, 0 =>
      let cnt := kCount d
      let r := (rs.zipIdx).foldl (fun (acc : Status × Block) p =>
        if acc.1 ≠ .ok then acc
        else
          let v := engRead f j (kSrc d + p.2 * cnt) cnt acc.2
          if v.1 ≠ .ok then (v.1, v.2.2)
          else if p.2 = me then engWrite f j (kDst d + me * cnt) v.2.1 [] v.2.2
          else (.ok, sendBytes f j d p.1 tBlock v.2.1 v.2.2)) (.ok, b)
      if r.1 = .ok then ({ c with phase := 1 }, r.2) else fin r.1 r.2
    | 4, _ =>
      if others.all fun p => decide (kCount d ≤ gotBytes c tBlock p) then
        let r := others.foldl (fun (acc : Status × Block) p =>
          if acc.1 ≠ .ok then acc else engWrite f j (kDst d + p * kCount d) (gotData c tBlock p (kCount d)) [] acc.2) (.ok, b)
        fin r.1 r.2
      else (c, b)
    | 5, _ =>
      let v := engRead f j (kSrc d) (kCount d) b
      if v.1 ≠ .ok then fin v.1 v.2.2
      else
        let rank := kAux d % 1024
        fin .ok (if kLtags d then sendTagged f j d rank tBlock 0 (localOff (kSrc d)) v.2.1 v.2.2 else sendBytes f j d rank tBlock v.2.1 v.2.2)
    | 6, _ =>
      let p := posOf rs (kAux d % 1024)
      if kCount d ≤ gotBytes c tBlock p then
        let tags := if c.got.any fun x => x.typ == tBlock && x.src == p && !x.tags.isEmpty then gotTags c tBlock p ((kCount d + 63) / 64) else []
        let w := engWrite f j (kDst d) (gotData c tBlock p (kCount d)) tags b
        fin w.1 w.2
      else (c, b)
    | 7, k =>
      let r := k / 4
      if kRounds d ≤ r then fin .ok b
      else if k % 4 = 0 then
        let x := sendRound f j d r b
        if x.1 = .ok then ({ c with phase := k + 1 }, x.2) else fin x.1 x.2
      else if k % 4 = 1 then if outstanding b c then (c, b) else ({ c with phase := k + 1 }, sendBarrier f j d rs (2 * r) b)
      else if k % 4 = 2 then
        if barrierMet c rs me (2 * r) then
          let x := copyRound f j d r b
          if x.1 = .ok then ({ c with phase := k + 1 }, sendBarrier f j d rs (2 * r + 1) x.2) else fin x.1 x.2
        else (c, b)
      else if barrierMet c rs me (2 * r + 1) then ({ c with phase := k + 1 }, b) else (c, b)
    | 8, 0 => if earlierRuns b c then (c, b) else ({ c with phase := 1 }, sendBarrier f j d rs 0 b)
    | 8, _ => if barrierMet c rs me 0 then fin .ok b else (c, b)
    | _, _ => fin .badArgument b

/-- Carry a collective as far as it goes; the fuel bounds the phases. A frame refused on the way has failed it (R375). -/
def collRun (f : Nat) : Nat → Coll → Block → Block
  | 0, _, b => b
  | n + 1, c, b =>
    if c.status.isSome then putColl f c b
    else
      let r := collStep f c b
      let c' := match (collsOf r.2 f).find? (sameColl c) with
        | some x => { r.1 with status := x.status.or r.1.status, phase := if x.phase = stuckPhase then stuckPhase else r.1.phase }
        | none => r.1
      let b := putColl f c' r.2
      if c'.phase = c.phase ∧ c'.status = c.status then b else collRun f n c' b

/-- The fuel a collective's phases need. -/
def collFuel (c : Coll) : Nat := 8 + 5 * kRounds c.desc

/-- Carry every running collective of an engine on. -/
def runColls (f : Nat) (b : Block) : Block :=
  (collsOf b f).foldl (fun b c => match (collsOf b f).find? (sameColl c) with
    | some c => collRun f (collFuel c) c b
    | none => b) b

/-- Carry every running collective on: a completion has come. -/
def runAllColls (b : Block) : Block := (List.range 4).foldl (fun b f => runColls f b) b

/-! ### Starting, completing and aborting -/

/-- Take the early pieces of a collective. -/
def takeEarly (f : Nat) (c : Coll) (b : Block) : Block :=
  let mine (e : Early) : Bool := e.job == c.job && e.group == kGroup c.desc && e.seq == kSeq c.desc
  let l := (b.fab.early.map (·.2)).flatten.filter mine
  match groupRanks b f c.job (kGroup c.desc) with
  | none => b
  | some rs =>
    let ps := l.map fun e => { e.piece with src := posOf rs e.rank }
    let b := modFab (fun x => { x with early := x.early.map fun (e : Nat × List Early) => (e.1, e.2.filter fun y => !mine y) }) b
    putColl f { c with got := c.got ++ ps } b

/-- Copy the staged pieces of a PERMUTE to the stage area as they arrive; one that cannot be written fails the collective. -/
def stagePiece (f : Nat) (c : Coll) (p : Piece) (b : Block) : Block :=
  if p.typ ≠ tStage then b
  else
    let w := engWrite f c.job (localAddr b c.job (stageBase b f c.job + p.off)) p.data p.tags b
    if w.1 = .ok then w.2
    else setColls f ((collsOf w.2 f).map fun x => if sameColl x c ∧ x.status = none then { x with status := some w.1 } else x) w.2

/-- A descriptor begins on an engine: one whose group or lists cannot be read ends with that status (R195 to R197, R232, R234), a bad one with
BAD_ARGUMENT (R385). -/
def collBegin (f q j : Nat) (d : List Byte) (b : Block) : Block :=
  let t := touchRanges (uCol f) (collRanges b f j d) b
  let b := t.2
  let c : Coll := ⟨q, j, d, 0, [], if t.1 ≠ .ok then some t.1 else if collBad b f j d then some .badArgument else none⟩
  let b := setColls f (collsOf b f ++ [c]) b
  if c.status.isSome then b
  else
    let b := takeEarly f c b
    let b := (((collsOf b f).find? (sameColl c)).getD c).got.foldl (fun b p => stagePiece f c p b) b
    collRun f (collFuel c) (((collsOf b f).find? (sameColl c)).getD c) b

/-- The queue number of a collective that the reeve itself starts. -/
def noQueue : Nat := 0x40000

/-- A collective starts: the next descriptor of a COLLECTIVE queue whose COP is the one given, or a reserved one. At most 16 run. An engine in reset
starts none (R513). A descriptor that cannot be read ends with the status of its read, as zeros (log entry 76). -/
def collStart (cop q : Nat) (b : Block) : Block :=
  let f := engineOf q
  let u := useQueue q b
  let b := u.2
  if !u.1 || qType b q != 3 || !qEnabled b q || !qWork b q || decide (16 ≤ (collsOf b f).length) || absorbing b (uCol f) then b
  else
    let raw := bytesAt b (ringAt b q (qCons b q)) 64
    let r := granaryRead ⟨uCol f, none, false, false⟩ (ringAt b q (qCons b q)) 64 b
    let d := if r.1 = .ok then raw else List.replicate 64 0
    let j := qJob b q
    if kCop d ≠ cop ∧ 1 ≤ kCop d ∧ kCop d ≤ 8 then b
    else
      let b := qSet q 8 4 ((qCons b q + 1) % 2 ^ 32) r.2.2
      if r.1 = .ok then collBegin f q j d b else setColls f (collsOf b f ++ [⟨q, j, d, 0, [], some r.1⟩]) b

/-- A PERMUTE that ends during a re-shard tells it how (R346). -/
def permuteEnds (c : Coll) (s : Status) (b : Block) : Block :=
  if kCop c.desc = 7 ∧ trnPhase b c.job = 7 then
    modJob c.job (fun x => { x with moved := some (match x.moved with
      | some m => if m = .ok then s else m
      | none => s) }) b
  else b

/-- A collective ends: the add to its DONE block, the signal, the counters and events (R394, R402). -/
def collEnd (f : Nat) (c : Coll) (s : Status) (peers : List Peer) (b : Block) : Block :=
  let d := c.desc
  let b := setColls f ((collsOf b f).filter fun x => !sameColl x c) b
  let b := permuteEnds c s b
  let b := bump (uCol f) Off.colOpsLo 1 b
  let b := if kDone d = 0 then b else
    (devAtomic (collIssuer b f c.job) peers 0x02 (kDone d + (if s = .ok then 0 else 8)) 1 0 b).2.2
  let arg := c.job * 2 ^ 29 + kSeq d % 2 ^ 16
  let b := match s with
    | .badArgument => notify (uCol f) Fld.colStatusBad .colBad arg b
    | .opFailed => notify (uCol f) Fld.colStatusFailed .colFailed arg b
    | _ => b
  let b := if s = .ok ∧ kSignal d then
      { b with til := { b.til with signals := b.til.signals ++ [(kSigTile d, ⟨kSigTok d, c.job, uCol f⟩)] } }
    else b
  runAllColls b

/-- COLLECTIVE_COMPLETE: the oldest ended collective of an engine completes. -/
def collComplete (f : Nat) (peers : List Peer) (b : Block) : Block :=
  match (collsOf b f).find? fun c => c.status.isSome with
  | some c => collEnd f c (c.status.getD .ok) peers b
  | none => b

/-- An engine's boundary goes up: every collective it runs completes with RESET_ABSORBED (R513 step 2). -/
def absorbColls (f : Nat) (b : Block) : Block :=
  let cs := collsOf b f
  cs.foldl (fun b c => collEnd f c .resetAbsorbed [] b) (absorb cs.length (setColls f [] b))

/-- COL_ABORTED: every collective of the slot on the engine ends with CANCELLED; its staged and early data go (R395). -/
def collAbort (f j : Nat) (b : Block) : Block :=
  let mine := (collsOf b f).filter fun c => c.job = j
  let b := setColls f ((collsOf b f).filter fun c => c.job ≠ j) b
  let b := mine.foldl (fun b c => collEnd f c .cancelled [] b) b
  let b := modFab (fun x => { x with early := x.early.put f ((x.early.get [] f).filter fun e => e.job ≠ j) }) b
  notify (uCol f) Fld.colStatusAborted .colAborted j b

/-! ### Frames that arrive (R387, R393) -/

def earlyBytes (l : List Early) : Nat := (l.map fun e => e.piece.data.length).sum

/-- Take a collective frame: to its running collective, or to the early buffer; a full buffer answers RETRY (0x80), an engine in
reset RESET_ABSORBED (R513). Answers the completion's OP. -/
def collFrame (j r : Nat) (typ addr rlen : Nat) (ltags : Bool) (data : List Byte) (b : Block) : Nat × Block :=
  let seq := addr % 2 ^ 32
  let grp := addr / 2 ^ 32 % 2 ^ 16
  let off := addr / 2 ^ 48 + rlen * 2 ^ 16
  let n := data.length / 68
  let body := if ltags then ((List.range n).map fun i => (data.drop (68 * i)).take 64).flatten else data
  let tags := if ltags then (List.range n).map fun i => leAt data (68 * i + 64) 4 else []
  let isIt (c : Coll) : Bool := c.job == j && kGroup c.desc == grp && kSeq c.desc == seq && c.status.isNone
  match (List.range 4).find? fun f => (collsOf b f).any isIt with
  | some f =>
    match (collsOf b f).find? isIt, groupRanks b f j grp with
    | some c, some rs =>
      let p : Piece := ⟨typ, posOf rs r, off, body, tags⟩
      let b := bump (uCol f) Off.colBytesLo body.length (stagePiece f c p b)
      let c := ((collsOf b f).find? (sameColl c)).getD c
      let c := { c with got := c.got ++ [p] }
      (0, collRun f (collFuel c) c (putColl f c b))
    | _, _ => (0, b)
  | none =>
    let f := grp % 4
    let l := b.fab.early.get [] f
    if absorbing b (uCol f) then (5, absorb 1 b)
    else if 0x40_0000 < earlyBytes l + body.length then (0x80, bump (uCol f) Off.colRetryLo 1 b)
    else (0, bump (uCol f) Off.colBytesLo body.length
      (modFab (fun x => { x with early := x.early.put f (l ++ [⟨j, grp, seq, r, ⟨typ, r, off, body, tags⟩⟩]) }) b))

/-- COL_STATE as it reads. -/
def colState (b : Block) (f : Nat) : Nat :=
  (earlyBytes (b.fab.early.get [] f) + 1023) / 1024 * 2 ^ 16 + (collsOf b f).length

end Sys2Proof.Machine
end

