-- ==== Sys2Proof/Machine/FabricRx.lean ====
section
/-! DEFINITION. Fabric frames as they arrive (R367 to R382, R398): forwarding on a detour, authentication, the record of executed requests, execution,
completions, heartbeats and key exchange. -/

namespace Sys2Proof.Machine

/-! ### Authentication (R369) -/

/-! ### The roster (Table 13.2) -/

def recArea (b : Block) (j : Nat) : Nat := reg b uChip (Off.sysRecAreaLo j) + 2 ^ 32 * reg b uChip (Off.sysRecAreaHi j)
def recSlot (b : Block) (j r : Nat) : Nat := recArea b j + 64 * r
def rosterAt (b : Block) (j r : Nat) : Nat := recArea b j + 0x1_0000 + 8 * r
def roleOf (b : Block) (j r : Nat) : Nat := numAt b (rosterAt b j r) 8 % 4

/-- A module takes another rank: the keys, its identity and its heartbeats stay those of the pair of modules (R368), and the silence of the rank's former
holder ends. -/
def takeRank (j s f : Nat) (b : Block) : Block :=
  let move {α : Type} (x : SMap α) : SMap α := match x.find (rankKey j s) with
    | some v => (x.put (rankKey j f) v).drop (rankKey j s)
    | none => x
  modFab (fun x => { x with
    pairs := move x.pairs
    members := move x.members
    beats := move x.beats
    silent := x.silent.filter (· != rankKey j f)
    fails := x.fails.drop (rankKey j f) }) b

/-- A frame fails authentication: counted, reported, and the fourth from one source within a second silences it. -/
def authFail (j : Option Nat) (src : Nat) (b : Block) : Block :=
  let b := notify uChip Fld.jxlFabStatusAuthFail .jxlAuthFail (j.getD 0 * 2 ^ 29 + src) (bump uChip Off.jxlAuthFailLo 1 b)
  match j with
  | none => b
  | some j =>
    let k := rankKey j src
    let l := ((b.fab.fails.get [] k).filter fun t => decide (b.face.time < t + 1000000)) ++ [b.face.time]
    let b := modFab (fun f => { f with fails := f.fails.put k l }) b
    if 4 ≤ l.length then markSilent j src b else b

/-- The pair epoch a frame names, among those accepted (R368). -/
def frameEpoch (p : Pair) (e : Nat) : Option Nat :=
  if p.rxEpoch % 65536 = e then some p.rxEpoch else if (p.rxEpoch + 1) % 65536 = e then some (p.rxEpoch + 1) else none

/-- Open a frame: its pair epoch and payload. -/
def openFrame (p : Pair) (h : FabHead) (f : List Byte) : Option (Nat × List Byte) :=
  match frameEpoch p h.epoch with
  | none => none
  | some e => match epochKey p e with
    | none => none
    | some key => (gcmOpen key (fabNonce h) (fabAad (f.take 32)) ((f.drop 32).take h.len) (f.drop (32 + h.len))).map fun v => (e, v)

/-- Open a frame with the keys of its source rank's pair. Where the roster says that rank has failed, a spare may have taken it and keeps its own keys
(R368, R476): the first spare whose keys open the frame is its sender, and is answered too. -/
def openFrom (b : Block) (j : Nat) (h : FabHead) (f : List Byte) : Option (Nat × List Byte) × Option Nat :=
  match (pairOf b j h.src).bind fun p => openFrame p h f with
  | some v => (some v, none)
  | none =>
    if roleOf b j h.src ≠ 3 then (none, none)
    else match (List.range 1024).findSome? fun s =>
      if roleOf b j s = 2 then ((pairOf b j s).bind fun p => openFrame p h f).map fun v => (v, s) else none with
    | some (v, s) => (some v, some s)
    | none => (none, none)

/-- The bytes of a fill that arrive at the spare it fills (R477). -/
def noteFill (j n : Nat) (b : Block) : Block := match b.rec'.find j with
  | some r => if r.mine then { b with rec' := b.rec'.put j { r with fillBytes := r.fillBytes + n } } else b
  | none => b

/-- The first frame of the following epoch starts the retirement of the old key (R368). -/
def noteEpoch (j r e : Nat) (b : Block) : Block :=
  match pairOf b j r with
  | some p => if e = p.rxEpoch + 1 ∧ p.nextAt = none then setPair j r { p with nextAt := some b.face.time } b else b
  | none => b

/-- EPOCH_KEY_RETIRE: 100 ms later the old epoch's key is gone. -/
def epochRetire (j r : Nat) (b : Block) : Block :=
  match pairOf b j r with
  | some p => match p.nextAt with
    | some t => if t + 100000 ≤ b.face.time then
        let e := p.rxEpoch + 1
        setPair j r { p with rxEpoch := e, nextAt := none, prks := p.prks.filter fun x => decide (e / 65536 ≤ x.1) || decide (p.txEpoch / 65536 ≤ x.1) } b
      else b
    | none => b
  | none => b

/-! ### Executing requests (R371, R373) -/

/-- May the job reach a local range (R25, R185, R286)? -/
def rangeOk (b : Block) (iss : Issuer) (a n : Nat) (store : Bool) : Bool :=
  match regionOf a with
  | .granary => granaryAllows b iss a n store
  | .loft t off => decide (off + n ≤ loftSize) && issuerInShare b iss t off n
  | _ => false

def remoteIssuer (j : Nat) (train : Bool) : Issuer := ⟨uChip, some j, train, false⟩

/-- Execute a request: the completion's status and payload. -/
def executeReq (j : Nat) (h : FabHead) (v : List Byte) (b : Block) : Status × List Byte × Block :=
  let iss := remoteIssuer j h.train
  let a := h.addr % 2 ^ 54
  let dev := ownRank b j * 2 ^ 54 + a
  match h.kind with
  | 1 =>
    let n := if h.ltags then v.length / 68 * 64 else v.length
    if !rangeOk b iss a n true then (.notPresent, [], b)
    else if h.ltags then
      let r := (List.range (v.length / 68)).foldl (fun (acc : Status × Block) i =>
        if acc.1 ≠ .ok then acc
        else devWrite iss [] (dev + 64 * i) ((v.drop (68 * i)).take 64) (some (leAt v (68 * i + 64) 4)) acc.2) (.ok, b)
      (r.1, [], if r.1 = .ok then noteFill j n r.2 else r.2)
    else
      let r := devWrite iss [] dev v none b
      (r.1, [], r.2)
  | 2 =>
    if !rangeOk b iss a h.rlen false then (.notPresent, [], b)
    else
      let r := devRead iss [] dev h.rlen b
      (r.1, if r.1 = .ok ∧ h.ltags then withTags r.2.2 a r.2.1 else r.2.1, r.2.2)
  | _ =>
    match atomicSize h.op with
    | none => (.badArgument, [], b)
    | some n =>
      if !rangeOk b iss a n true then (.notPresent, [], b)
      else
        let r := devAtomic iss [] h.op dev (leAt v 0 n) (leAt v n n) b
        (r.1, if r.1 = .ok then leBytes n r.2.1 else [], r.2.2)

/-- Where a request's counter stands in the record: its epoch and counter as one number. -/
def recKey (e ctr : Nat) : Nat := e * 2 ^ 32 + ctr

/-- Enter a request in the record, which keeps the 4,096 highest. -/
def recordReq (j r k : Nat) (kept : Option (List Byte)) (b : Block) : Block :=
  match pairOf b j r with
  | some p =>
    let m := p.record.put k kept
    setPair j r { p with record := if 4096 < m.length then m.drop 1 else m } b
  | none => b

/-- Answer a request on its link, and keep the completion of all but a READ. -/
def completeReq (j : Nat) (h : FabHead) (l k op : Nat) (v : List Byte) (ltags : Bool) (b : Block) : Block :=
  let s := sendSealed j h.src 4 1 op h.ctr ltags (some l) v b
  if op = 0x80 then s.2 else recordReq j h.src k (if h.kind = 2 then none else some s.1) s.2

/-- A request arrives: a repeat is answered from the record, one below the record is discarded (R371). -/
def requestRx (j l e : Nat) (h : FabHead) (v : List Byte) (b : Block) : Block :=
  match pairOf b j h.src with
  | none => b
  | some p =>
    let k := recKey e h.ctr
    match p.record.find k with
    | some (some f) => (routeFrame j h.src (some l) f b).2
    | some none =>
      let x := executeReq j h v b
      completeReq j h l k (statusCode x.1) x.2.1 h.ltags x.2.2
    | none =>
      if p.record.length = 4096 ∧ k < (p.record.headD (0, none)).1 then bump uChip Off.jxlDupLo 1 b
      else if h.kind = 5 then
        let r := collFrame j h.src h.op h.addr h.rlen h.ltags v b
        completeReq j h l k r.1 [] false r.2
      else
        let x := executeReq j h v b
        completeReq j h l k (statusCode x.1) x.2.1 (h.ltags && h.kind == 2) x.2.2

/-! ### Key exchange (R536 to R540) -/

/-- A KEYX is rejected; during admission the first failure of the job is kept for JOB_ADMIT (R539). -/
def keyxReject (j : Option Nat) (reason src : Nat) (b : Block) : Block :=
  let b := notify uSec Fld.secStatusKeyxReject .secKeyxFail (j.getD 0 * 2 ^ 29 + reason * 2 ^ 12 + src) (bump uSec Off.secKeyxRejectLo 1 b)
  match j with
  | some j =>
    if (b.fab.admitting.find j).isSome ∧ (b.fab.admitFail.find j) = none then
      modFab (fun f => { f with admitFail := f.admitFail.put j (if reason = 4 ∨ reason = 5 then 1 else 10, src) }) b
    else b
  | none => b

/-- The slot whose job a KEYX names, admitted already or being admitted. -/
def keyxSlot (b : Block) (id : Nat) : Option Nat :=
  (List.range 8).find? fun j => (slotValid b j || (b.fab.admitting.find j).isSome) && jobIdOf b j == id

/-- Why a KEYX is not taken (R537); 0 when it is. -/
def keyxBad (b : Block) (j : Nat) (h : FabHead) (p : List Byte) : Nat :=
  let idkey := (p.drop 32).take 32
  if !edVerify idkey (p.take 128) (p.drop 128) then 1
  else if b.fab.members.find (rankKey j h.src) ≠ some (sha512 idkey) ∨ leAt p 100 2 % 1024 ≠ h.src then 2
  else if leAt p 96 4 ≠ jobIdOf b j ∨ leAt p 102 2 % 1024 ≠ ownRank b j then 3
  else if (commonLevel (ownLmin b) (ownLmax b) (leAt p 106 1) (leAt p 107 1)).isNone then 5
  else if slotTrains b j ∧ (leAt p 108 1 ≠ ownRev b ∨ leAt p 110 2 ≠ ownAbi b) then 4
  else 0

/-- Derive the pair's secret of a round once both sides hold what they need (R538). -/
def deriveKeys (j r : Nat) (a : Agree) (p eph : List Byte) (b : Block) : Block :=
  let s := x25519 eph (p.take 32)
  if s.all (· == 0) then keyxReject (some j) 6 r b
  else
    let peer := sha512 ((p.drop 32).take 32)
    let mine := identityDigest
    let low := decide (beNat mine < beNat peer)
    let lo := if low then mine ++ peer else peer ++ mine
    let ns := if low then a.nonce ++ (p.drop 64).take 32 else (p.drop 64).take 32 ++ a.nonce
    let prk := hkdfExtract (lo ++ leBytes 4 (jobIdOf b j) ++ leBytes 2 a.round) (s ++ ns)
    let lv := (commonLevel (ownLmin b) (ownLmax b) (leAt p 106 1) (leAt p 107 1)).getD 1
    let q := (pairOf b j r).getD ⟨peer, lv, [], 0, [], 0, none, []⟩
    let b := setPair j r { q with peer := peer, level := lv, prks := q.prks.put a.round prk } b
    retryWants (modFab (fun f => { f with agree := f.agree.put (rankKey j r) { a with eph := none } }) b)

/-- A KEYX frame arrives. -/
def keyxRx (h : FabHead) (p : List Byte) (b : Block) : Block :=
  match keyxSlot b h.jobid with
  | none => keyxReject none 3 h.src b
  | some j =>
    let why := keyxBad b j h p
    if p.length ≠ 192 ∨ h.dst ≠ ownRank b j then keyxReject (some j) 3 h.src b
    else if why ≠ 0 then keyxReject (some j) why h.src b
    else
      let k := rankKey j h.src
      let round := leAt p 104 2
      let b := if (b.fab.agree.find k).isNone ∨ (b.fab.agree.find k).any (fun a => decide (a.round < round) && a.eph.isNone) then
          startAgree j h.src round b else b
      match b.fab.agree.find k with
      | none => b
      | some a =>
        if a.round ≠ round then b
        else match a.eph with
        | none => sendKeyx j h.src b
        | some eph =>
          let a := { a with peer := some (a.peer.getD p), got := a.got || bitOf (leAt p 109 1) 2 }
          let b := sendKeyx j h.src (modFab (fun f => { f with agree := f.agree.put k a }) b)
          if a.got then deriveKeys j h.src a (a.peer.getD p) eph b else b

/-! ### Every frame -/

/-- Forward a detoured frame without decrypting it (R378). -/
def forwardFrame (h : FabHead) (f : List Byte) (b : Block) : Block :=
  let drop := notify uChip Fld.jxlFabStatusFwdDrop .jxlFwdDrop h.dst (bump uChip Off.jxlFwdDropLo 1 b)
  match slotOfJob b h.jobid with
  | none => drop
  | some j =>
    let ls := (List.range 24).filter fun l => bitOf (rtLinks (routeOf b j h.dst)) l && linkUp b l
    if ls.isEmpty then drop
    else
      let l := ls.getD (spread h % ls.length) 0
      bump (uLink l) Off.jxlFwdLo 1 (putFrame j l h.dst (vcOf h.kind h.cls + 4) f b)

/-- A fabric frame arrives on a link. Its length must be the header's; a KEYX stands outside R367, R369 and R382. -/
def fabricRx (l : Nat) (f : List Byte) (b : Block) : Block :=
  let h := fabHead f
  if f.length ≠ 48 + h.len ∨ 4096 < h.len then b
  else
    let slot := slotOfJob b h.jobid
    let foreign : Bool := match slot with
      | some j => decide (h.dst ≠ ownRank b j)
      | none => true
    if h.detour ∧ foreign then forwardFrame h f b
    else if h.kind = 7 then keyxRx h ((f.drop 32).take h.len) b
    else if h.kind ≠ 6 ∧ (h.level < ownLmin b ∨ ownLmax b < h.level) then
      setSq uChip Fld.jxlFabStatusLevelDrop (bump uChip Off.jxlLevelDropLo 1 b)
    else match slot with
    | none => authFail none h.src b
    | some j =>
      let o := openFrom b j h f
      let b := (match o.2 with
        | some s => modFab (fun x => { x with takenBy := x.takenBy.put (rankKey j h.src) s }) (takeRank j s h.src b)
        | none => b)
      match o.1 with
        | none => authFail (some j) h.src b
        | some (e, v) =>
          let b := noteEpoch j h.src e b
          match h.kind with
          | 1 => requestRx j l e h v b
          | 2 => requestRx j l e h v b
          | 3 => requestRx j l e h v b
          | 5 => requestRx j l e h v b
          | 4 => runAllColls (completionRx j h.src (h.addr % 2 ^ 32) h.op v b)
          | 6 => beatRx j h.src v b
          | _ => b

/-- A frame of one kind arrives: the command names the kind it carries; a frame of another kind is another command's. -/
def fabricKindRx (kind l : Nat) (f : List Byte) (b : Block) : Block := if (fabHead f).kind = kind then fabricRx l f b else b

/-- FLIT_RECEIVE, with the fabric frames it completes. -/
def flitRx (l : Nat) (f : List Byte) (corr uncorr : Nat) (b : Block) : Block :=
  let r := flitReceive l f corr uncorr b
  r.1.foldl (fun b x => fabricRx l x b) r.2

/-- MAC_FRAME_RECEIVE, with the fabric frame it may carry. -/
def macFrameRx (u : Nat) (f : List Byte) (cut : Bool) (corr uncorr : Nat) (b : Block) : Block :=
  let r := macReceive u f cut corr uncorr b
  match r.1 with
  | some (_, x) => fabricRx (u - 128) (x.take (48 + leAt x 2 2 % 2 ^ 13)) r.2
  | none => r.2

/-- MAC_LINK_UP of a port; on an Ethernet-mode link the link enters UP too (R362). Without REFCLK1 no port comes up (R590). -/
def portUp (u phy lanes : Nat) (b : Block) : Block :=
  if !b.tly.ref1 then b
  else
    let b := macLinkUp u phy lanes b
    if isLinkUnit u && (portOf b u).link then ethLinkUp (u - 128) lanes b else b

/-- MAC_LINK_DOWN of a port; an Ethernet-mode link goes to RETRAINING (R364). -/
def portDown (u : Nat) (b : Block) : Block :=
  let was := (portOf b u).link
  let b := macLinkDown u b
  if was && isLinkUnit u && linkUp b (u - 128) then enterRetrain (u - 128) b else b

end Sys2Proof.Machine
end

