-- ==== Sys2Proof/Machine/Riscv.lean ====
section
/-! DEFINITION. The ordinary instructions of a gleaner core (R240, R241): RV32IMAFC, as the RISC-V unprivileged specification gives them
(log entry 31): decoding, the compressed forms, integer, multiply and divide, scratch loads, stores and atomics, and single-precision
floating point with rounding modes and flags. -/

namespace Sys2Proof.Machine

/-! ### Fields of a 32-bit instruction -/

def iOp (w : Nat) : Nat := w % 128
def iRd (w : Nat) : Nat := bitsOf w 11 7
def iF3 (w : Nat) : Nat := bitsOf w 14 12
def iRs1 (w : Nat) : Nat := bitsOf w 19 15
def iRs2 (w : Nat) : Nat := bitsOf w 24 20
def iF7 (w : Nat) : Nat := bitsOf w 31 25

/-- Sign-extend an `n`-bit number to 32 bits. -/
def sext32 (n v : Nat) : Word := if v % 2 ^ n < 2 ^ (n - 1) then BitVec.ofNat 32 (v % 2 ^ n) else BitVec.ofNat 32 (v % 2 ^ n) - BitVec.ofNat 32 (2 ^ n)

def immI (w : Nat) : Word := sext32 12 (bitsOf w 31 20)
def immS (w : Nat) : Word := sext32 12 (bitsOf w 31 25 * 32 + bitsOf w 11 7)
def immB (w : Nat) : Word :=
  sext32 13 (bitsOf w 31 31 * 4096 + bitsOf w 7 7 * 2048 + bitsOf w 30 25 * 32 + bitsOf w 11 8 * 2)
def immU (w : Nat) : Word := BitVec.ofNat 32 (w / 4096 * 4096)
def immJ (w : Nat) : Word :=
  sext32 21 (bitsOf w 31 31 * 2 ^ 20 + bitsOf w 19 12 * 4096 + bitsOf w 20 20 * 2048 + bitsOf w 30 21 * 2)

/-! ### Compressed forms -/

def encI (op f3 rd rs1 imm : Nat) : Nat := imm % 4096 * 2 ^ 20 + rs1 * 2 ^ 15 + f3 * 4096 + rd * 128 + op
def encR (op f3 f7 rd rs1 rs2 : Nat) : Nat := f7 * 2 ^ 25 + rs2 * 2 ^ 20 + rs1 * 2 ^ 15 + f3 * 4096 + rd * 128 + op
def encS (op f3 rs1 rs2 imm : Nat) : Nat :=
  bitsOf imm 11 5 * 2 ^ 25 + rs2 * 2 ^ 20 + rs1 * 2 ^ 15 + f3 * 4096 + imm % 32 * 128 + op
def encB (f3 rs1 rs2 imm : Nat) : Nat :=
  bitsOf imm 12 12 * 2 ^ 31 + bitsOf imm 10 5 * 2 ^ 25 + rs2 * 2 ^ 20 + rs1 * 2 ^ 15 + f3 * 4096 + bitsOf imm 4 1 * 256 +
    bitsOf imm 11 11 * 128 + 0x63
def encJ (rd imm : Nat) : Nat :=
  bitsOf imm 20 20 * 2 ^ 31 + bitsOf imm 10 1 * 2 ^ 21 + bitsOf imm 11 11 * 2 ^ 20 + bitsOf imm 19 12 * 4096 + rd * 128 + 0x6F

/-- Sign-extend inside a wider immediate. -/
def sextN (n width v : Nat) : Nat := if v < 2 ^ (n - 1) then v else 2 ^ width - 2 ^ n + v

/-- The 32-bit form of a 16-bit instruction; none when it is illegal. -/
def expandC (h : Nat) : Option Nat :=
  let rdp := 8 + bitsOf h 4 2
  let rsp := 8 + bitsOf h 9 7
  let rd := bitsOf h 11 7
  let rs2 := bitsOf h 6 2
  let imm6 := bitsOf h 12 12 * 32 + rs2
  let uLw := bitsOf h 12 10 * 8 + bitsOf h 6 6 * 4 + bitsOf h 5 5 * 64
  let uLwsp := bitsOf h 12 12 * 32 + bitsOf h 6 4 * 4 + bitsOf h 3 2 * 64
  let uSwsp := bitsOf h 12 9 * 4 + bitsOf h 8 7 * 64
  let jmp := bitsOf h 12 12 * 2048 + bitsOf h 11 11 * 16 + bitsOf h 10 9 * 256 + bitsOf h 8 8 * 1024 + bitsOf h 7 7 * 64 +
    bitsOf h 6 6 * 128 + bitsOf h 5 3 * 2 + bitsOf h 2 2 * 32
  let br := bitsOf h 12 12 * 256 + bitsOf h 11 10 * 8 + bitsOf h 6 5 * 64 + bitsOf h 4 3 * 2 + bitsOf h 2 2 * 32
  match h % 4, bitsOf h 15 13 with
  | 0, 0 =>
    let u := bitsOf h 12 11 * 16 + bitsOf h 10 7 * 64 + bitsOf h 6 6 * 4 + bitsOf h 5 5 * 8
    if u = 0 then none else some (encI 0x13 0 rdp 2 u)
  | 0, 2 => some (encI 0x03 2 rdp rsp uLw)
  | 0, 3 => some (encI 0x07 2 rdp rsp uLw)
  | 0, 6 => some (encS 0x23 2 rsp rdp uLw)
  | 0, 7 => some (encS 0x27 2 rsp rdp uLw)
  | 1, 0 => some (encI 0x13 0 rd rd (sextN 6 12 imm6))
  | 1, 1 => some (encJ 1 (sextN 12 21 jmp))
  | 1, 2 => some (encI 0x13 0 rd 0 (sextN 6 12 imm6))
  | 1, 3 =>
    if rd = 2 then
      let u := bitsOf h 12 12 * 512 + bitsOf h 6 6 * 16 + bitsOf h 5 5 * 64 + bitsOf h 4 3 * 128 + bitsOf h 2 2 * 32
      if u = 0 then none else some (encI 0x13 0 2 2 (sextN 10 12 u))
    else if imm6 = 0 then none
    else some (sextN 6 20 imm6 * 4096 + rd * 128 + 0x37)
  | 1, 4 =>
    match bitsOf h 11 10 with
    | 0 => if bitOf h 12 then none else some (encR 0x13 5 0x00 rsp rsp rs2)
    | 1 => if bitOf h 12 then none else some (encR 0x13 5 0x20 rsp rsp rs2)
    | 2 => some (encI 0x13 7 rsp rsp (sextN 6 12 imm6))
    | _ =>
      if bitOf h 12 then none
      else match bitsOf h 6 5 with
      | 0 => some (encR 0x33 0 0x20 rsp rsp rdp)
      | 1 => some (encR 0x33 4 0x00 rsp rsp rdp)
      | 2 => some (encR 0x33 6 0x00 rsp rsp rdp)
      | _ => some (encR 0x33 7 0x00 rsp rsp rdp)
  | 1, 5 => some (encJ 0 (sextN 12 21 jmp))
  | 1, 6 => some (encB 0 rsp 0 (sextN 9 13 br))
  | 1, 7 => some (encB 1 rsp 0 (sextN 9 13 br))
  | 2, 0 => if bitOf h 12 then none else some (encR 0x13 1 0x00 rd rd rs2)
  | 2, 2 => if rd = 0 then none else some (encI 0x03 2 rd 2 uLwsp)
  | 2, 3 => some (encI 0x07 2 rd 2 uLwsp)
  | 2, 4 =>
    if !bitOf h 12 then
      if rs2 = 0 then (if rd = 0 then none else some (encI 0x67 0 0 rd 0)) else some (encR 0x33 0 0 rd 0 rs2)
    else if rs2 = 0 then (if rd = 0 then some 0x0010_0073 else some (encI 0x67 0 1 rd 0))
    else some (encR 0x33 0 0 rd rd rs2)
  | 2, 6 => some (encS 0x23 2 2 rs2 uSwsp)
  | 2, 7 => some (encS 0x27 2 2 rs2 uSwsp)
  | _, _ => none

/-! ### Registers -/

def Core.getX (c : Core) (r : Nat) : Word := if r = 0 then 0 else c.x.get 0 r
def Core.setX (c : Core) (r : Nat) (v : Word) : Core := if r = 0 then c else { c with x := c.x.put r v }
def Core.getF (c : Core) (r : Nat) : Nat := c.f.get 0 r
def Core.setF (c : Core) (r v : Nat) : Core := { c with f := c.f.put r v }
def Core.raiseF (c : Core) (fl : Nat) : Core := { c with fcsr := Nat.lor c.fcsr fl }

/-! ### Floating point -/

/-- Flags of fcsr. -/
def fNX : Nat := 1
def fUF : Nat := 2
def fOF : Nat := 4
def fDZ : Nat := 8
def fNV : Nat := 16

/-- Round up in a mode (0 RNE, 1 RTZ, 2 RDN, 3 RUP, 4 RMM), given the sign, the last kept bit, the remainder and its half. -/
def rmUp (mode : Nat) (neg odd : Bool) (rem half : Nat) : Bool := match mode with
  | 0 => decide (half < rem) || (rem == half && odd)
  | 1 => false
  | 2 => neg && decide (0 < rem)
  | 3 => !neg && decide (0 < rem)
  | _ => decide (half ≤ rem) && decide (0 < rem)

/-- `m × 2^e` in whole units of `2^u`, rounded in a mode, and whether it was inexact. -/
def rmUnits (mode : Nat) (neg : Bool) (m : Nat) (e u : Int) : Nat × Bool :=
  if u ≤ e then (m * 2 ^ (e - u).toNat, false)
  else
    let k := (u - e).toNat
    let q := m / 2 ^ k
    let r := m % 2 ^ k
    (q + b2n (rmUp mode neg (q % 2 = 1) r (2 ^ (k - 1))), decide (0 < r))

/-- Round an exact value to FP32 in a mode, with its flags. -/
def rmRound (mode : Nat) (v : FV) : Nat × Nat := match v with
  | .nan => (nan32, 0)
  | .inf n => (0x7F80_0000 + b2n n * 2 ^ 31, 0)
  | .num neg m e =>
    let s := b2n neg * 2 ^ 31
    if m = 0 then (s, 0)
    else
      let top := topExp m e
      let u := max (top - 23) (-149)
      let q := rmUnits mode neg m e u
      let code := ((u + 149) * 2 ^ 23).toNat + q.1
      if 0x7F80_0000 ≤ code then
        let toInf := match mode with
          | 1 => false
          | 2 => neg
          | 3 => !neg
          | _ => true
        (s + (if toInf then 0x7F80_0000 else 0x7F7F_FFFF), fOF + fNX)
      else
        let wide := rmUnits mode neg m e (top - 23)
        let tiny := decide (topExp wide.1 (top - 23) < -126)
        (s + code, (if q.2 then fNX + (if tiny then fUF else 0) else 0))

/-- Is a code a signalling NaN? -/
def isSnan (c : Nat) : Bool := isNanCode c && !bitOf c 22
where isNanCode (c : Nat) : Bool := decide (0x7F80_0000 < c % 2 ^ 31)

/-- The rounding mode an instruction names; none for a reserved one. -/
def rmOf (c : Core) (rm : Nat) : Option Nat :=
  let m := if rm = 7 then bitsOf c.fcsr 7 5 else rm
  if m ≤ 4 then some m else none

/-- Finish an arithmetic result: NaN from no signalling input and no NaN input is an invalid operation. -/
def finishF (mode : Nat) (ins : List Nat) (exact : FV) : Nat × Nat :=
  let snan := ins.any isSnan
  let nanIn := ins.any fun c => f32 c == .nan
  let r := rmRound mode exact
  (r.1, if snan || (exact == .nan && !nanIn) then fNV else r.2)

/-- An exact sum with the zero of the rounding mode: −0 in RDN where the terms do not agree. -/
def sumIn (mode : Nat) (x y : FV) : FV :=
  let s := fadd x y
  if s.isZero then
    if x.isZero && y.isZero && x.isNeg == y.isNeg then s else .num (mode == 2) 0 0
  else s

/-- Float to integer: bounds and the exact value rounded in a mode. -/
def toInt (mode : Nat) (lo hi : Int) (c : Nat) : Int × Nat := match f32 c with
  | .nan => (hi, fNV)
  | .inf n => (if n then lo else hi, fNV)
  | .num neg m e =>
    let q := rmUnits mode neg m e 0
    let v : Int := if neg then -(q.1 : Int) else q.1
    if v < lo then (lo, fNV) else if hi < v then (hi, fNV) else (v, if q.2 then fNX else 0)

/-- FCLASS.S. -/
def fclass (c : Nat) : Nat := match f32 c with
  | .nan => if isSnan c then 2 ^ 8 else 2 ^ 9
  | .inf n => if n then 2 ^ 0 else 2 ^ 7
  | .num neg m _ =>
    let sub := decide (c / 2 ^ 23 % 256 = 0)
    if m = 0 then (if neg then 2 ^ 3 else 2 ^ 4)
    else if sub then (if neg then 2 ^ 2 else 2 ^ 5)
    else (if neg then 2 ^ 1 else 2 ^ 6)

/-- FMIN.S and FMAX.S. -/
def fminmax (isMax : Bool) (a b : Nat) : Nat × Nat :=
  let fl := if isSnan a || isSnan b then fNV else 0
  match f32 a, f32 b with
  | .nan, .nan => (nan32, fl)
  | .nan, _ => (b, fl)
  | _, .nan => (a, fl)
  | x, y =>
    let aLess := x.lt y || (x.isZero && y.isZero && x.isNeg && !y.isNeg)
    ((if isMax then (if aLess then b else a) else (if aLess then a else b)), fl)

/-! ### Integer operations -/

def toI (v : Word) : Int := v.toInt
def ofI (v : Int) : Word := BitVec.ofInt 32 v

/-- The operations of OP and OP-IMM; none where the encoding is illegal. -/
def aluOp (f3 f7 : Nat) (a b : Word) : Option Word := match f7, f3 with
  | 0x00, 0 => some (a + b)
  | 0x20, 0 => some (a - b)
  | 0x00, 1 => some (a <<< (b.toNat % 32))
  | 0x00, 2 => some (if a.toInt < b.toInt then 1 else 0)
  | 0x00, 3 => some (if a.toNat < b.toNat then 1 else 0)
  | 0x00, 4 => some (a ^^^ b)
  | 0x00, 5 => some (a >>> (b.toNat % 32))
  | 0x20, 5 => some (a.sshiftRight (b.toNat % 32))
  | 0x00, 6 => some (a ||| b)
  | 0x00, 7 => some (a &&& b)
  | 0x01, 0 => some (a * b)
  | 0x01, 1 => some (ofI (toI a * toI b / 2 ^ 32))
  | 0x01, 2 => some (ofI (toI a * b.toNat / 2 ^ 32))
  | 0x01, 3 => some (BitVec.ofNat 32 (a.toNat * b.toNat / 2 ^ 32))
  | 0x01, 4 => some (if b = 0 then ofI (-1) else ofI (Int.tdiv (toI a) (toI b)))
  | 0x01, 5 => some (if b = 0 then ofI (-1) else BitVec.ofNat 32 (a.toNat / b.toNat))
  | 0x01, 6 => some (if b = 0 then a else ofI (Int.tmod (toI a) (toI b)))
  | 0x01, 7 => some (if b = 0 then a else BitVec.ofNat 32 (a.toNat % b.toNat))
  | _, _ => none

/-- The branch test; none where the encoding is illegal. -/
def branchTest (f3 : Nat) (a b : Word) : Option Bool := match f3 with
  | 0 => some (a == b)
  | 1 => some (a != b)
  | 4 => some (decide (a.toInt < b.toInt))
  | 5 => some (decide (b.toInt ≤ a.toInt))
  | 6 => some (decide (a.toNat < b.toNat))
  | 7 => some (decide (b.toNat ≤ a.toNat))
  | _ => none

/-- The new value of an AMO; none where the encoding is illegal. -/
def amoOp (f5 : Nat) (old v : Word) : Option Word := match f5 with
  | 0x01 => some v
  | 0x00 => some (old + v)
  | 0x04 => some (old ^^^ v)
  | 0x0C => some (old &&& v)
  | 0x08 => some (old ||| v)
  | 0x10 => some (if v.toInt < old.toInt then v else old)
  | 0x14 => some (if old.toInt < v.toInt then v else old)
  | 0x18 => some (if v.toNat < old.toNat then v else old)
  | 0x1C => some (if old.toNat < v.toNat then v else old)
  | _ => none

/-! ### One instruction -/

/-- How an ordinary instruction ends: with the core and the scratch after it, or with the status that ends the run (R241, R242). -/
inductive RvEnd where
  | next (c : Core) (m : List Host.Cell)
  | stop (s : Status)
deriving DecidableEq, Repr

def scratchBase : Nat := 0x1_0000
def scratchSize : Nat := 0x4000

/-- The scratch offset of an aligned access of `n` bytes; else the status that ends the run. -/
def scratchAt (a : Word) (n : Nat) : Nat ⊕ Status :=
  if a.toNat % n ≠ 0 then .inr .badArgument
  else if scratchBase ≤ a.toNat ∧ a.toNat + n ≤ scratchBase + scratchSize then .inl (a.toNat - scratchBase)
  else .inr .notPresent

def cellsNat (m : List Host.Cell) (a n : Nat) : Nat := leNat ((List.range n).map fun i => cellsGet m (a + i))

/-- The floating-point computations of OP-FP: result code and flags, integer results by `.inr`; none where illegal. -/
def opFp (c : Core) (w : Nat) : Option (Core) :=
  let f7 := iF7 w
  let rm := iF3 w
  let a := c.getF (iRs1 w)
  let b := c.getF (iRs2 w)
  let va := f32 a
  let vb := f32 b
  let putF (r : Nat × Nat) : Core := (c.setF (iRd w) r.1).raiseF r.2
  let putX (v : Word) (fl : Nat) : Core := (c.setX (iRd w) v).raiseF fl
  let arith (k : Nat → FV) (ins : List Nat) (extra : Nat) : Option Core :=
    (rmOf c rm).map fun mode => (putF (finishF mode ins (k mode))).raiseF extra
  match f7 with
  | 0x00 => arith (fun m => sumIn m va vb) [a, b] 0
  | 0x04 => arith (fun m => sumIn m va vb.negate) [a, b] 0
  | 0x08 => arith (fun _ => fmul va vb) [a, b] 0
  | 0x0C =>
    let dz := vb.isZero && !va.isZero && va.isFinite
    arith (fun _ => fdiv va vb) [a, b] (if dz then fDZ else 0)
  | 0x2C => if iRs2 w = 0 then arith (fun _ => fsqrt va) [a] 0 else none
  | 0x10 =>
    let sb := b / 2 ^ 31 % 2
    let sa := a / 2 ^ 31 % 2
    match rm with
    | 0 => some (c.setF (iRd w) (a % 2 ^ 31 + sb * 2 ^ 31))
    | 1 => some (c.setF (iRd w) (a % 2 ^ 31 + (1 - sb) * 2 ^ 31))
    | 2 => some (c.setF (iRd w) (a % 2 ^ 31 + (sa + sb) % 2 * 2 ^ 31))
    | _ => none
  | 0x14 => if rm = 0 then some (putF (fminmax false a b)) else if rm = 1 then some (putF (fminmax true a b)) else none
  | 0x50 =>
    let unord := va == .nan || vb == .nan
    let quiet := if isSnan a || isSnan b then fNV else 0
    let sig := if unord then fNV else 0
    match rm with
    | 2 => some (putX (if !unord && !va.lt vb && !vb.lt va then 1 else 0) quiet)
    | 1 => some (putX (if !unord && va.lt vb then 1 else 0) sig)
    | 0 => some (putX (if !unord && !vb.lt va then 1 else 0) sig)
    | _ => none
  | 0x60 =>
    match rmOf c rm, iRs2 w with
    | some m, 0 => let r := toInt m (-(2 ^ 31)) (2 ^ 31 - 1) a; some (putX (ofI r.1) r.2)
    | some m, 1 => let r := toInt m 0 (2 ^ 32 - 1) a; some (putX (ofI r.1) r.2)
    | _, _ => none
  | 0x68 =>
    let x := c.getX (iRs1 w)
    match rmOf c rm, iRs2 w with
    | some m, 0 => some (putF (rmRound m (.num (decide (x.toInt < 0)) x.toInt.natAbs 0)))
    | some m, 1 => some (putF (rmRound m (.num false x.toNat 0)))
    | _, _ => none
  | 0x70 =>
    if iRs2 w ≠ 0 then none
    else if rm = 0 then some (putX (BitVec.ofNat 32 a) 0)
    else if rm = 1 then some (putX (BitVec.ofNat 32 (fclass a)) 0)
    else none
  | 0x78 => if iRs2 w = 0 ∧ rm = 0 then some (c.setF (iRd w) (c.getX (iRs1 w)).toNat) else none
  | _ => none

/-- The fused multiply-adds. -/
def fusedFp (c : Core) (w : Nat) : Option Core :=
  let a := c.getF (iRs1 w)
  let b := c.getF (iRs2 w)
  let d := c.getF (bitsOf w 31 27)
  let p := fmul (f32 a) (f32 b)
  let op := iOp w
  let p' := if op = 0x4B ∨ op = 0x4F then p.negate else p
  let d' := if op = 0x47 ∨ op = 0x4F then (f32 d).negate else f32 d
  if bitsOf w 26 25 ≠ 0 then none
  else (rmOf c (iF3 w)).map fun m =>
    let r := finishF m [a, b, d] (sumIn m p' d')
    let nv := if p == .nan && f32 a != .nan && f32 b != .nan then fNV else 0
    ((c.setF (iRd w) r.1).raiseF r.2).raiseF nv

/-- Execute one 32-bit form, whose own length in memory is `len`, but for CSR and custom-0 instructions. -/
def rvExec (c : Core) (m : List Host.Cell) (w len : Nat) : RvEnd :=
  let pc : Word := BitVec.ofNat 32 c.pc
  let a := c.getX (iRs1 w)
  let b := c.getX (iRs2 w)
  let step (c : Core) : RvEnd := .next { c with pc := (c.pc + len) % 2 ^ 32 } m
  let jump (c : Core) (t : Word) : RvEnd := if t.toNat % 2 = 0 then .next { c with pc := t.toNat } m else .stop .badArgument
  let orBad (o : Option Core) : RvEnd := match o with
    | some c => step c
    | none => .stop .badArgument
  let link : Word := pc + BitVec.ofNat 32 len
  match iOp w with
  | 0x37 => step (c.setX (iRd w) (immU w))
  | 0x17 => step (c.setX (iRd w) (pc + immU w))
  | 0x6F => jump (c.setX (iRd w) link) (pc + immJ w)
  | 0x67 => if iF3 w = 0 then jump (c.setX (iRd w) link) ((a + immI w) &&& 0xFFFF_FFFE) else .stop .badArgument
  | 0x63 => match branchTest (iF3 w) a b with
    | some true => jump c (pc + immB w)
    | some false => step c
    | none => .stop .badArgument
  | 0x03 =>
    let ld (n : Nat) (f : Nat → Word) : RvEnd := match scratchAt (a + immI w) n with
      | .inl o => step (c.setX (iRd w) (f (cellsNat m o n)))
      | .inr s => .stop s
    match iF3 w with
    | 0 => ld 1 (sext32 8)
    | 1 => ld 2 (sext32 16)
    | 2 => ld 4 (BitVec.ofNat 32)
    | 4 => ld 1 (BitVec.ofNat 32)
    | 5 => ld 2 (BitVec.ofNat 32)
    | _ => .stop .badArgument
  | 0x23 =>
    let st (n : Nat) : RvEnd := match scratchAt (a + immS w) n with
      | .inl o => .next { c with pc := (c.pc + len) % 2 ^ 32 } (cellsSetAll m o (leBytes n b.toNat))
      | .inr s => .stop s
    match iF3 w with
    | 0 => st 1
    | 1 => st 2
    | 2 => st 4
    | _ => .stop .badArgument
  | 0x13 =>
    let f7 := if iF3 w = 1 ∨ iF3 w = 5 then iF7 w else 0
    if f7 = 0x01 then .stop .badArgument else orBad ((aluOp (iF3 w) f7 a (immI w)).map (c.setX (iRd w)))
  | 0x33 => orBad ((aluOp (iF3 w) (iF7 w) a b).map (c.setX (iRd w)))
  | 0x0F => if iF3 w = 0 then step c else .stop .badArgument
  | 0x2F =>
    if iF3 w ≠ 2 then .stop .badArgument
    else
      let f5 := iF7 w / 4
      match scratchAt a 4 with
      | .inr s => if (f5 = 0x02 ∧ iRs2 w ≠ 0) ∨ (f5 ≠ 0x02 ∧ f5 ≠ 0x03 ∧ (amoOp f5 0 0).isNone) then .stop .badArgument else .stop s
      | .inl o =>
        let old : Word := BitVec.ofNat 32 (cellsNat m o 4)
        if f5 = 0x02 then
          if iRs2 w ≠ 0 then .stop .badArgument else step { c.setX (iRd w) old with resv := some o }
        else if f5 = 0x03 then
          if c.resv = some o then
            .next { (c.setX (iRd w) 0) with pc := (c.pc + len) % 2 ^ 32, resv := none } (cellsSetAll m o (leBytes 4 b.toNat))
          else step { c.setX (iRd w) 1 with resv := none }
        else match amoOp f5 old b with
        | some v => .next { (c.setX (iRd w) old) with pc := (c.pc + len) % 2 ^ 32 } (cellsSetAll m o (leBytes 4 v.toNat))
        | none => .stop .badArgument
  | 0x07 =>
    if iF3 w ≠ 2 then .stop .badArgument
    else match scratchAt (a + immI w) 4 with
    | .inl o => step (c.setF (iRd w) (cellsNat m o 4))
    | .inr s => .stop s
  | 0x27 =>
    if iF3 w ≠ 2 then .stop .badArgument
    else match scratchAt (a + immS w) 4 with
    | .inl o => .next { c with pc := (c.pc + len) % 2 ^ 32 } (cellsSetAll m o (leBytes 4 (c.getF (iRs2 w))))
    | .inr s => .stop s
  | 0x43 => orBad (fusedFp c w)
  | 0x47 => orBad (fusedFp c w)
  | 0x4B => orBad (fusedFp c w)
  | 0x4F => orBad (fusedFp c w)
  | 0x53 => orBad (opFp c w)
  | _ => .stop .badArgument

end Sys2Proof.Machine
end

