-- ==== Sys2Proof/Machine/Gleaner.lean ====
section
/-! DEFINITION. Gleaners (chapter 07): launches, streams and positions, segments, the row-stream instructions, granule operations, the
exact accumulator, conversions and compute grants. A gleaner is numbered 128 × stack + its index. -/

namespace Sys2Proof.Machine

/-! ### Row-stream CSRs (Table 7.6) -/

def csrReset (n : Nat) : Word := if n = 0x7D1 then 0xFFFF_FFFF else 0
def glCsr (x : Gleaner) (n : Nat) : Nat := (x.csr.get (csrReset n) n).toNat
def setCsr (n v : Nat) (x : Gleaner) : Gleaner := { x with csr := x.csr.put n (BitVec.ofNat 32 v) }

/-- The writable bits of a CSR of Table 7.6; none for one the table does not list. -/
def csrMask (n : Nat) : Option Nat :=
  if 0x7C0 ≤ n ∧ n ≤ 0x7C7 then some (if n % 2 = 0 then 0xFFFF_FE00 else 0x3FF)
  else match n with
  | 0x7C8 | 0x7CC | 0x7CD | 0x7CE | 0x7D1 | 0x7D3 | 0x7D4 | 0x7D7 | 0x7DA => some 0xFFFF_FFFF
  | 0x7D0 => some 0xFFFF_FC0F
  | 0x7D2 => some 0x7FFF_FFFF
  | 0x7D5 => some 0xFFFF
  | 0x7D6 => some 0x3FFF
  | 0x7D8 | 0x7D9 => some 0
  | _ => none

/-- A CSR's value as a read gives it. -/
def csrRead (x : Gleaner) (n : Nat) : Nat :=
  if n = 0x7D8 then x.launch.arg % 2 ^ 32 else if n = 0x7D9 then x.launch.arg / 2 ^ 32 else glCsr x n

def rsBase (x : Gleaner) (s : Nat) : Nat := glCsr x (0x7C0 + 2 * s) + 2 ^ 32 * glCsr x (0x7C1 + 2 * s)
def rsLen (x : Gleaner) : Nat := glCsr x 0x7C8

/-! ### Done counts -/

/-- Add 1 to a count of the done block (R247). -/
def doneAdd (x : Gleaner) (unit off : Nat) (b : Block) : Block :=
  (granaryAtomic ⟨unit, some x.launch.job, x.launch.train, false⟩ 0x02 (x.launch.done + off) 1 0 b).2.2

/-! ### Grants (R269 to R272) -/

def grantCap (b : Block) (s : Nat) : Nat :=
  min (min 32 (fld b (uStack s) Fld.grnGrCtrlCap)) (min 32 (fld b (uStack s) Fld.grnGrStateTlycap))

/-- Does a gleaner wait for a grant? -/
def glWaits (b : Block) (g : Nat) : Bool := match (glOf b g).run with
  | .ready => true
  | .paused => true
  | _ => false

/-- The next gleaner in rotation after the last granted. -/
def nextToGrant (b : Block) (s : Nat) : Option Nat :=
  ((List.range 128).map fun i => 128 * s + ((grantsOf b s).last + 1 + i) % 128).find? fun g => glWaits b g && !unitHeld b (uGleaner g)

/-- Grant the next waiting gleaner while a grant is free (R269). -/
def grantIssue (s : Nat) (b : Block) : Block :=
  let r := grantsOf b s
  if r.isOver ∨ grantCap b s ≤ r.order.length then b
  else match nextToGrant b s with
  | none => b
  | some g =>
    let b := bump (uGleaner g) Off.glnGrantNsLo ((b.face.time - (glOf b g).waitFrom) * 1000) b
    setGrants s { r with order := r.order ++ [g], last := g % 128 }
      (modGl g (fun x => { x with run := .running, grantAt := some b.face.time, giveUp := false }) b)

/-- A holder whose quantum is over, while another gleaner waits, gives the grant up at its next commit (R270). -/
def quantumExpire (g : Nat) (b : Block) : Block :=
  let q := max 1 (fld b (uStack (glStack g)) Fld.grnGrCtrlQuantum) * 10
  match (glOf b g).grantAt with
  | some t0 =>
    if decide (t0 + q ≤ b.face.time) && (nextToGrant b (glStack g)).isSome then modGl g (fun x => { x with giveUp := true }) b else b
  | none => b

/-- TLYCAP changes: the most recent grants above it are withdrawn, each at its holder's next commit (R271). -/
def tlycapChange (s cap : Nat) (b : Block) : Block :=
  let b := setFld (uStack s) Fld.grnGrStateTlycap (min 32 cap) b
  let r := grantsOf b s
  (r.order.drop (min 32 cap)).foldl (fun b g => modGl g (fun x => { x with giveUp := true }) b) b

/-- A write of GRN_GR_CTRL: the most recent grants above a lower CAP are withdrawn as those above TLYCAP are (R269, R271). -/
def grantCtrlWrite (s : Nat) (b : Block) : Block :=
  ((grantsOf b s).order.drop (grantCap b s)).foldl (fun b g => modGl g (fun x => { x with giveUp := true }) b) b

/-- The tally die counts more grants than TLYCAP (R272). -/
def grantOver (s count : Nat) (b : Block) : Block :=
  let cap := fld b (uStack s) Fld.grnGrStateTlycap
  if count ≤ cap then b
  else
    let r := grantsOf b s
    let b := r.order.foldl (fun b g => modGl g (fun x => { x with giveUp := true }) b) b
    setOwn (uStack s) hFailed (raise (uStack s) .glnGrantOver (cap * 2 ^ 8 + count % 256) (setGrants s { r with isOver := true } b))

/-- GRN_GR_STATE as it reads. -/
def grState (b : Block) (s : Nat) : Nat :=
  ((List.range 128).filter fun i => glWaits b (128 * s + i)).length * 2 ^ 24 +
    fld b (uStack s) Fld.grnGrStateTlycap * 2 ^ 8 + (grantsOf b s).order.length

/-- GLN_STATE as it reads. -/
def glState (b : Block) (g : Nat) : Nat :=
  let x := glOf b g
  (match x.run with
   | .idle => 0
   | .ready => 1
   | .running => 2
   | .paused => 3) * 2 ^ 29 + b2n x.grantAt.isSome * 2 ^ 28 + b2n x.seg.isSome * 2 ^ 27 + x.launch.job * 2 ^ 24 + x.core.pc % 2 ^ 16

/-! ### Segments (R264 to R267) -/

/-- Discard the open segment (R267). -/
def discard (g : Nat) (b : Block) : Block := modGl g (fun x => { x with seg := none }) b

/-- A run of a training job's sweep ends otherwise than by rs.exit: the sweep is to be undone (R333). -/
def sweepFails (g : Nat) (b : Block) : Block :=
  let l := (glOf b g).launch
  if l.train && trnPhase b l.job == 4 then modJob l.job (fun x => { x with sweepBad := true }) b else b

/-- The run ends in a fault (R248, R255): nothing held is written, nothing further merges. -/
def runFault (g : Nat) (s : Status) (b : Block) : Block :=
  let x := glOf b g
  let u := uGleaner g
  let at' := lastFailSite b
  let word := statusCode s * 2 ^ 29 + x.core.pc % 2 ^ 15
  let b := discard g (sweepFails g b)
  let b := notify u Fld.glnStatusRunFault .glnRunFault word (setReg u Off.glnFault word b)
  dropGrant g (modGl g (fun y => { y with run := .idle, failed := if s = .opFailed then some at' else none, putFail := none }) (doneAdd x u 8 b))

/-- A put that failed as its segment committed ends the run (R255). -/
def putFault (g : Nat) (b : Block) : Block := match (glOf b g).putFail with
  | some f => runFault g f.1 { b with grn := { b.grn with failAt := match f.2 with
    | .line l => some l
    | _ => none } }
  | none => b

/-- The commits a held bank of 1 µs forces (R264). -/
def forcedCommit (g : Nat) (b : Block) : Block :=
  match (glOf b g).seg with
  | some sg => if sg.banks.any fun k => decide (k.2 + 1 ≤ b.face.time) then putFault g (commit g true b) else b
  | none => b

/-! ### Positions (R250 to R253) -/

/-- Where an offset lies, with any redirection under R233. -/
def placeNow (b : Block) (a : Nat) : Place := (servedAt b a).getD (homeOf b a)

/-- The gleaner that owns position `p`. -/
def ownerAt (b : Block) (x : Gleaner) (p : Nat) : Nat := gleanerAt (placeNow b (rsBase x 0 + 512 * p))

/-- The positions a gleaner visits: those it owns, then those it adopts, each in rising order (R251). -/
def visitList (b : Block) (x : Gleaner) (g : Nat) : List Nat :=
  let ps := List.range (rsLen x)
  ps.filter (fun p => ownerAt b x p == g) ++ ps.filter (fun p => x.launch.adopts.contains (ownerAt b x p))

/-- Does rs.open fail (R250)? -/
def openBad (b : Block) (x : Gleaner) (mask : Nat) : Bool :=
  let b0 := rsBase x 0
  let n := 512 * rsLen x
  !bitOf mask 0 || rsLen x == 0 ||
    (List.range 4).any fun s => bitOf mask s &&
      (let a := rsBase x s
       decide (a / 2 ^ 36 ≠ (a + n - 1) / 2 ^ 36) || decide (a % 2 ^ 36 ≠ b0 % 2 ^ 36) ||
         groupLocal b (a / 2 ^ 36) != groupLocal b (b0 / 2 ^ 36))

/-- Is a granule in the gleaner's own banks? -/
def inBank (b : Block) (g a : Nat) : Bool := match servedAt b a with
  | some pl => gleanerAt pl == g
  | none => false

/-- The first get or put after a commit opens a segment (R264). -/
def openSegment (g : Nat) (b : Block) : Block := modGl g (fun x => { x with seg := some (x.seg.getD ⟨[], 0, []⟩) }) b

/-- A segment that holds 16 gets, or 16 puts, commits before the next one (R264). -/
def makeRoom (g s : Nat) (isGet : Bool) (b : Block) : Block :=
  let x := glOf b g
  let full := match x.seg with
    | some sg => decide (16 ≤ if isGet then sg.gets else sg.puts.length)
    | none => false
  if full && bitOf x.opened s && (x.visits.head?.any fun p => inBank b g (rsBase x s + 512 * p)) then putFault g (commit g true b) else b

/-- A get or put whose bank the gleaner does not hold waits while a repair of a row of that bank waits: a released bank serves the repair first
(R266, Table 7.5). -/
def bankWaits (g s : Nat) (b : Block) : Bool :=
  let x := glOf b g
  bitOf x.opened s && x.visits.head?.any fun p =>
    let a := rsBase x s + 512 * p
    let pl := placeNow b a
    inBank b g a && !bankHeld b g pl.bank && b.grn.repairReq.any fun q => q.1 == pl.ch && q.2.1 == pl.bank

/-- The segment that a put of a sweep stages before the granule's new values can reach the bank (R333); none outside a training job's sweep. -/
def stagedBytes (g s buf : Nat) (b : Block) : Option (List Byte) :=
  let x := glOf b g
  let a := rsBase x s + 512 * x.visits.headD 0
  if x.launch.train && trnPhase b x.launch.job == 4 && (sweptArrays b x.launch.job).any (fun m => decide (m.addr ≤ a) && decide (a < m.addr + m.bytes)) then
    some (Config.stagedForm a (bytesAt b a 512) ((List.range 512).map fun i => cellsGet x.scratch (512 * (buf % 32) + i)))
  else none

/-- A put whose staged segment would overrun SHEAF_LEN waits there (R333). -/
def stageWaits (g s buf : Nat) (b : Block) : Bool := match stagedBytes g s buf b with
  | some v => !sheafRoom b (glOf b g).launch.job v.length
  | none => false

/-- The staged segment of a put is durable before the put is taken. -/
def stagePut (g s buf : Nat) (b : Block) : Block := match stagedBytes g s buf b with
  | some v => sheafPut (glOf b g).launch.job true (glOf b g).launch.step v b
  | none => b

/-- Take the bank of a granule into the segment, opening one if none is open. -/
def takeBank (g a : Nat) (isGet : Bool) (b : Block) : Block :=
  let x := glOf b g
  let sg := x.seg.getD ⟨[], 0, []⟩
  let bank := (placeNow b a).bank
  let banks := if (sg.banks.find bank).isSome then sg.banks else sg.banks.put bank b.face.time
  setGl g { x with seg := some { sg with banks := banks, gets := sg.gets + b2n isGet } } b

/-! ### Buffers -/

def bufAt (n : Nat) : Nat := 512 * (n % 32)
def bufBytes (x : Gleaner) (n : Nat) : List Byte := (List.range 512).map fun i => cellsGet x.scratch (bufAt n + i)
def scratchBytes (x : Gleaner) (o n : Nat) : List Byte := (List.range n).map fun i => cellsGet x.scratch (o + i)
def setScratch (o : Nat) (v : List Byte) (x : Gleaner) : Gleaner := { x with scratch := cellsSetAll x.scratch o v }
def bufFloats (x : Gleaner) (n : Nat) : List Nat := (List.range 128).map fun i => cellsNat x.scratch (bufAt n + 4 * i) 4
def setFloats (n : Nat) (v : List Nat) (x : Gleaner) : Gleaner := setScratch (bufAt n) (v.flatMap (leBytes 4)) x

/-! ### The exact accumulator (R260, R261) -/

/-- An exact finite value in units of 2⁻³²⁰. -/
def inUnits (v : FV) : Int := match v with
  | .num neg m e => unitsOf neg m e (-320)
  | _ => 0

/-- Wrap to 640 bits of two's complement. -/
def wrap640 (v : Int) : Int :=
  let r := v % 2 ^ 640
  if r < 2 ^ 639 then r else r - 2 ^ 640

def exactAdd (sq : Bool) (a : Exact) (c : Nat) : Exact := match f32 c with
  | .nan => { a with nan := true }
  | .inf n => if n && !sq then { a with ninf := true } else { a with pinf := true }
  | v => { a with sum := wrap640 (a.sum + inUnits (if sq then fmul v v else v)) }

def exactImage (a : Exact) : List Byte :=
  leBytes 80 (a.sum % 2 ^ 640).toNat ++ leBytes 4 (b2n a.nan + 2 * b2n a.pinf + 4 * b2n a.ninf) ++ leBytes 4 0

def exactAddImage (a : Exact) (l : List Byte) : Exact :=
  let fl := leAt l 80 4
  ⟨wrap640 (a.sum + leAt l 0 80), a.nan || bitOf fl 0, a.pinf || bitOf fl 1, a.ninf || bitOf fl 2⟩

def exactRound (a : Exact) : Nat :=
  if a.nan || (a.pinf && a.ninf) then nan32
  else if a.pinf then 0x7F80_0000
  else if a.ninf then 0xFF80_0000
  else if a.sum = 0 then 0
  else toF32 (.num (decide (a.sum < 0)) a.sum.natAbs (-320))

/-! ### CRC-64 (R259) -/

def crcPoly : Nat := 0x42F0_E1EB_A9EA_3693
def crcBit (c : Nat) : Nat := if bitOf c 63 then Nat.xor (c * 2 % 2 ^ 64) crcPoly else c * 2 % 2 ^ 64
def crc64 (l : List Byte) : Nat := l.foldl (fun c x => iterate crcBit 8 (Nat.xor c (x.toNat * 2 ^ 56))) 0

/-! ### Conversions on gleaners (R258, R262, R263) -/

def cvFmt (x : Gleaner) : Nat := glCsr x 0x7D0 % 16
def cvScsrc (x : Gleaner) : Nat := bitsOf (glCsr x 0x7D0) 15 14
def cvSrbits (x : Gleaner) : Nat := bitsOf (glCsr x 0x7D0) 12 11
def cvEimm (x : Gleaner) : Int := signedOf 8 (bitsOf (glCsr x 0x7D0) 31 24)
def cvEadj (x : Gleaner) : Int := signedOf 8 (bitsOf (glCsr x 0x7D0) 23 16)
def cvFoldA (x : Gleaner) : Nat := glCsr x 0x7D1 % 2 ^ 16
def cvFoldB (x : Gleaner) : Nat := glCsr x 0x7D1 / 2 ^ 16
def cvScidx (x : Gleaner) : Nat := glCsr x 0x7D2 % 2 ^ 16
def cvLstream (x : Gleaner) : Nat := bitsOf (glCsr x 0x7D2) 30 16
def cvSoff (x : Gleaner) : Nat := glCsr x 0x7D6

/-- Merge the pending conversion counts into entry `i` (R262, R122). -/
def mergePending (g i : Nat) (b : Block) : Status × Block :=
  let x := glOf b g
  if x.pend.elems = 0 then (.ok, b)
  else
    let r := mergeEntry (glIssuer x g) x.launch.job i x.pend.amax ⟨x.pend.sat, x.pend.und, x.pend.elems, 0⟩ b
    (r.1, modGl g (fun y => { y with pend := ⟨0, 0, 0, 0⟩ }) r.2)

/-- The stored 4 block-scale codes do not fit the scratch. -/
def soffBad (x : Gleaner) (mx : Bool) : Bool := mx && decide (scratchSize < cvSoff x + 4)

/-- CVT (R258, R262, R263): the status and the gleaner's block after it. -/
def cvt (g d a off : Nat) (b : Block) : Status × Block :=
  let x := glOf b g
  let j := x.launch.job
  match fmtOf (cvFmt x) with
  | none => (.badArgument, b)
  | some f =>
    if 512 < off + packedBytes f.bits 128 ∨ cvScsrc x = 1 ∨ cvScsrc x = 3 ∨ cvSrbits x = 3 ∨ cvEimm x = -128 ∨
        !entryOk b j (cvScidx x) ∨ !foldOk b j (cvFoldA x) ∨ !foldOk b j (cvFoldB x) ∨ soffBad x f.mx then (.badArgument, b)
    else
      let e := readEntries j [cvFoldA x, cvFoldB x] b
      let e2 := readLines [entryAddr b j (cvScidx x) / 64] e.2
      let b := e2.2
      if !e.1 || !e2.1 then (.opFailed, b)
      else
        let w := entryWord b j (cvScidx x)
        if bitsOf w 19 16 ≠ cvFmt x then (.badArgument, b)
        else
          let folds := foldExp b j (cvFoldA x) + foldExp b j (cvFoldB x)
          let es : Int := if cvScsrc x = 0 then (bitsOf w 7 0 : Int) - 127 else cvEimm x
          let ctl : ConvCtl := ⟨cvFmt x, bitOf (glCsr x 0x7D0) 10, cvSrbits x, bitOf (glCsr x 0x7D0) 13, es - folds + cvEadj x,
            x.launch.seed, x.launch.step, glCsr x 0x7D3⟩
          let ebase := glCsr x 0x7D4 + 2 ^ 32 * glCsr x 0x7D5
          let p := x.visits.headD 0
          let vs := (bufFloats x a).map f32
          let r := convertRow ctl (fun _ => gleanerStream x.launch.rank (cvLstream x)) (fun i => ebase + 128 * p + i) vs
          let m := winnowCode (amaxOf vs) (-folds)
          let x := setScratch (bufAt d + off) (pack f.bits r.1) x
          let x := if f.mx then setCsr 0x7D6 ((cvSoff x + 4) % 2 ^ 14) (setScratch (cvSoff x) (r.2.1.map (BitVec.ofNat 8)) x) else x
          let c := r.2.2
          let x := { x with pend := ⟨max x.pend.amax m, x.pend.sat + c.sat, x.pend.und + c.und, x.pend.elems + c.elems⟩ }
          (.ok, bump (uGleaner g) Off.glnConvNanLo c.nans (countChaff (uGleaner g) Off.glnChaffSatLo c (setGl g x b)))

/-- WIDEN (R258). -/
def gWiden (g d a off : Nat) (b : Block) : Status × Block :=
  let x := glOf b g
  match fmtOf (cvFmt x) with
  | none => (.badArgument, b)
  | some f =>
    if cvFmt x = 0xB ∨ 512 < off + packedBytes f.bits 128 ∨ soffBad x f.mx then (.badArgument, b)
    else
      let cs := unpack f.bits ((bufBytes x a).drop off) 128
      let sc := scratchBytes x (cvSoff x) 4
      let rs := cs.zipIdx.map fun p => widen f ((sc.getD (p.2 / 32) 0).toNat) p.1
      let x := setFloats d (rs.map fun (r : Conv) => r.code) x
      let x := if f.mx then setCsr 0x7D6 ((cvSoff x + 4) % 2 ^ 14) x else x
      (.ok, countWiden (uGleaner g) Off.glnChaffSatLo ((rs.filter fun (r : Conv) => r.sat).length)
        ((rs.filter fun (r : Conv) => r.und).length) (setGl g x b))

/-! ### Granule operations (Table 7.4) -/

/-- The element-wise ones, on FP32 codes. -/
def gopElem (f7 s0 s1 a b d : Nat) : Nat :=
  let nan2 := f32 a == .nan || f32 b == .nan
  let canon (c : Nat) : Nat := if f32 c == .nan then nan32 else c
  match f7 with
  | 0x00 => f32Add a b
  | 0x01 => f32Sub a b
  | 0x02 => f32Mul a b
  | 0x03 => f32Fma a b d
  | 0x04 => f32Fma s0 a b
  | 0x05 => f32Fma s0 a s1
  | 0x06 => f32Div a b
  | 0x07 => f32Sqrt a
  | 0x08 => if nan2 then nan32 else toF32 (fmaxV (f32 a) (f32 b))
  | 0x09 => if nan2 then nan32 else toF32 (fminV (f32 a) (f32 b))
  | _ => canon a

/-- A granule operation: buffers D and A, and `bv`, the value of rs2 (a buffer number or a byte offset). -/
def gop (g f7 d a bv : Nat) (b : Block) : Status × Block :=
  let x := glOf b g
  if f7 ≤ 0x0A then
    let av := bufFloats x a
    let bs := bufFloats x bv
    let ds := bufFloats x d
    (.ok, setGl g (setFloats d ((List.range 128).map fun i =>
      gopElem f7 (glCsr x 0x7CD) (glCsr x 0x7CE) (av.getD i 0) (bs.getD i 0) (ds.getD i 0)) x) b)
  else match f7 with
  | 0x10 => cvt g d a bv b
  | 0x11 => gWiden g d a bv b
  | 0x12 => (.ok, setGl g { x with exact' := (bufFloats x a).foldl (exactAdd false) x.exact' } b)
  | 0x13 => (.ok, setGl g { x with exact' := (bufFloats x a).foldl (exactAdd true) x.exact' } b)
  | 0x14 =>
    let m := toF32 (amaxOf ((bufFloats x a).map f32))
    (.ok, setGl g (setCsr 0x7D7 (if (f32 (glCsr x 0x7D7)).lt (f32 m) then m else glCsr x 0x7D7) x) b)
  | 0x15 =>
    if 512 < bv + 8 then (.badArgument, b)
    else (.ok, setGl g (setScratch (bufAt d + bv) (leBytes 8 (crc64 (bufBytes x a))) x) b)
  | _ => (.badArgument, b)

/-! ### Fetching and the row-stream instructions (R241, R242, Table 7.3) -/

/-- May a core fetch at an offset: region 0, or the region of its launch's entry (Table 7.2)? -/
def fetchOk (x : Gleaner) (pc : Nat) : Bool :=
  decide (pc < 0x8000) && (pc / 0x2000 == 0 || pc / 0x2000 == x.launch.entry / 0x2000)

/-- A halfword of instruction memory. -/
def imemHalf (x : Gleaner) (pc : Nat) : Nat := leAt (x.imem.get [] (pc / 0x2000)) (pc % 0x2000) 2

/-- The next instruction: its 32-bit form, if it is legal as a form, and its length; or the status of a fetch that fails. -/
def fetch (x : Gleaner) : Status ⊕ (Option Nat × Nat) :=
  let pc := x.core.pc
  if !fetchOk x pc then .inl .notPresent
  else
    let h := imemHalf x pc
    if h % 4 ≠ 3 then .inr (expandC h, 2)
    else if !fetchOk x (pc + 2) then .inl .notPresent
    else .inr (some (h + 2 ^ 16 * imemHalf x (pc + 2)), 4)

/-- Which command an instruction belongs to. -/
inductive GKind where
  | rsOpen | rsNext | rsGet | rsPut | rsFget | rsFput | rsAmo | rsEnd | rsExit
  | gop (f7 : Nat)
  | xop (f7 : Nat)
  | csr | conv2 | ordinary | illegal
deriving DecidableEq, Repr

/-- The kind of a 32-bit form (Table 7.3; the CSRs of Table 7.6 and those of the F extension). -/
def kindOfInstr (w : Nat) : GKind :=
  let f7 := iF7 w
  if iOp w = 0x0B then
    match iF3 w with
    | 0 => if f7 = 0 then .rsOpen else if f7 = 1 then .rsNext else .illegal
    | 1 => if f7 = 0 then .rsGet else if f7 = 1 then .rsPut else if f7 = 2 then .rsFget else if f7 = 3 then .rsFput else .illegal
    | 2 => if (atomicSize f7).isSome then .rsAmo else .illegal
    | 3 => if f7 = 0 then .rsEnd else .illegal
    | 4 => .gop f7
    | 5 => if f7 ≤ 3 then .xop f7 else .illegal
    | 7 => if f7 = 0 then .rsExit else .illegal
    | _ => .illegal
  else if iOp w = 0x73 then
    if iF3 w % 4 = 0 then .illegal
    else
      let n := w / 2 ^ 20
      if 1 ≤ n ∧ n ≤ 3 then .ordinary else if n = 0x7D2 then .conv2 else .csr
  else .ordinary

/-- The instruction is done: the program counter moves past it. -/
def advancePc (g len : Nat) (b : Block) : Block :=
  modGl g (fun x => { x with core := { x.core with pc := x.core.pc + len } }) b

def setRd (g rd : Nat) (v : Word) (b : Block) : Block := modGl g (fun x => { x with core := x.core.setX rd v }) b

/-- End with a status: go on past the instruction when it is OK, else the run faults. -/
def orFault (g len : Nat) (r : Status × Block) : Block :=
  if r.1 = .ok then advancePc g len r.2 else runFault g r.1 r.2

/-- A CSR instruction: the value read, and what to write if it writes. -/
def csrAccess (x : Gleaner) (w old : Nat) : Option Nat :=
  let src := if bitOf (iF3 w) 2 then iRs1 w else (x.core.getX (iRs1 w)).toNat
  match iF3 w % 4 with
  | 1 => some src
  | 2 => if iRs1 w = 0 then none else some (Nat.lor old src)
  | _ => if iRs1 w = 0 then none else some (old - Nat.land old src)

/-- The CSRs of the F extension: fflags, frm and fcsr. -/
def fcsrRead (c : Core) (n : Nat) : Nat := if n = 1 then c.fcsr % 32 else if n = 2 then bitsOf c.fcsr 7 5 else c.fcsr % 256
def fcsrWrite (c : Core) (n v : Nat) : Core :=
  { c with fcsr := if n = 1 then c.fcsr / 32 * 32 + v % 32 else if n = 2 then v % 8 * 32 + c.fcsr % 32 else v % 256 }

/-- A row-stream CSR instruction (R276, R262). -/
def csrInstr (g w len : Nat) (b : Block) : Block :=
  let x := glOf b g
  let n := w / 2 ^ 20
  match csrMask n with
  | none => runFault g .badArgument b
  | some mask =>
    let old := csrRead x n
    match csrAccess x w old with
    | none => advancePc g len (setRd g (iRd w) (BitVec.ofNat 32 old) b)
    | some v =>
      let new := maskedWrite (glCsr x n) v mask
      let m : Status × Block := if n = 0x7D2 ∧ new % 2 ^ 16 ≠ cvScidx x then mergePending g (cvScidx x) b else (.ok, b)
      if m.1 ≠ .ok then runFault g m.1 m.2
      else advancePc g len (setRd g (iRd w) (BitVec.ofNat 32 old) (modGl g (setCsr n new) m.2))

/-- An F-extension CSR instruction. -/
def fcsrInstr (g w len : Nat) (b : Block) : Block :=
  let x := glOf b g
  let n := w / 2 ^ 20
  let old := fcsrRead x.core n
  let b := match csrAccess x w old with
    | some v => modGl g (fun y => { y with core := fcsrWrite y.core n v }) b
    | none => b
  advancePc g len (setRd g (iRd w) (BitVec.ofNat 32 old) b)

/-- A get of stream `s` into a buffer (R253 to R255, R264). -/
def rsGet (g s buf : Nat) (b : Block) : Status × Block :=
  let x := glOf b g
  match x.visits with
  | [] => (.badArgument, b)
  | p :: _ =>
    if !bitOf x.opened s then (.badArgument, b)
    else
      let a := rsBase x s + 512 * p
      if inBank b g a then
        let b := takeBank g a true b
        let held : Option (Nat × List Byte × Nat) := match (glOf b g).seg with
          | some sg => sg.puts.find? fun q => q.1 = a
          | none => none
        match held with
        | some q => (.ok, bump (uGleaner g) Off.glnInbankLo 512 (modGl g (setScratch (bufAt buf) q.2.1) b))
        | none =>
          let r := bankRead (glIssuer x g) a 512 b
          if r.1 = .ok then (.ok, bump (uGleaner g) Off.glnInbankLo 512 (modGl g (setScratch (bufAt buf) r.2.1) r.2.2))
          else (r.1, r.2.2)
      else
        let r := granaryRead (glIssuer x g) a 512 (openSegment g b)
        if r.1 = .ok then (.ok, bump (uGleaner g) Off.glnFarLo 512 (modGl g (setScratch (bufAt buf) r.2.1) r.2.2))
        else (r.1, r.2.2)

/-- A put of a buffer to stream `s` (R253 to R256, R264). -/
def rsPut (g s buf : Nat) (b : Block) : Status × Block :=
  let x := glOf b g
  match x.visits with
  | [] => (.badArgument, b)
  | p :: _ =>
    if !bitOf x.opened s then (.badArgument, b)
    else
      let a := rsBase x s + 512 * p
      let v := bufBytes x buf
      if !granaryAllows b (glIssuer x g) a 512 true then (.notPresent, addrFault (glIssuer x g) a b)
      else if inBank b g a then
        let b := takeBank g a false (stagePut g s buf b)
        let b := modGl g (fun y => { y with seg := y.seg.map fun sg =>
          { sg with puts := sg.puts.filter (fun q => q.1 != a) ++ [(a, v, glCsr x 0x7DA)] } }) b
        (.ok, bump (uGleaner g) Off.glnInbankLo 512 b)
      else
        let r := granaryWrite (glIssuer x g) a v (some (glCsr x 0x7DA)) (openSegment g (stagePut g s buf b))
        (r.1, if r.1 = .ok then bump (uGleaner g) Off.glnFarLo 512 r.2 else r.2)

def farAddr (x : Gleaner) (lo : Word) : Nat := glCsr x 0x7CC * 2 ^ 32 + lo.toNat

/-- rs.fget and rs.fput (R253, R255). -/
def rsFget (g : Nat) (a buf : Nat) (peers : List Peer) (b : Block) : Status × Block :=
  let x := glOf b g
  if a % 512 ≠ 0 then (.badArgument, b)
  else
    let r := devRead (glIssuer x g) peers a 512 b
    if r.1 = .ok then (.ok, bump (uGleaner g) Off.glnFarLo 512 (modGl g (setScratch (bufAt buf) r.2.1) r.2.2)) else (r.1, r.2.2)

def rsFput (g : Nat) (a buf : Nat) (peers : List Peer) (b : Block) : Status × Block :=
  let x := glOf b g
  if a % 512 ≠ 0 then (.badArgument, b)
  else
    let r := devWrite (glIssuer x g) peers a (bufBytes x buf) (some (glCsr x 0x7DA)) b
    (r.1, if r.1 = .ok then bump (uGleaner g) Off.glnFarLo 512 r.2 else r.2)

/-- rs.amo (Table 7.3, R255): the operand at a scratch offset, the comparand 8 bytes on; the old value replaces the operand. -/
def rsAmo (g code a o : Nat) (peers : List Peer) (b : Block) : Status × Block :=
  let x := glOf b g
  match atomicSize code with
  | none => (.badArgument, b)
  | some n =>
    if a % n ≠ 0 then (.badArgument, b)
    else if scratchSize < o + (if code = 0x0F then 16 else n) then (.notPresent, b)
    else
      let r := devAtomic (glIssuer x g) peers code a (cellsNat x.scratch o n) (cellsNat x.scratch (o + 8) 8) b
      if r.1 = .ok then (.ok, modGl g (setScratch o (leBytes n r.2.1)) r.2.2) else (r.1, r.2.2)

/-- rs.x (R261): 0 XCLR, 1 XST, 2 XADDM, 3 XRND. -/
def rsX (g f7 rd o : Nat) (b : Block) : Status × Block :=
  let x := glOf b g
  match f7 with
  | 0 => (.ok, setGl g { x with exact' := ⟨0, false, false, false⟩ } b)
  | 1 => if scratchSize < o + 88 then (.notPresent, b) else (.ok, setGl g (setScratch o (exactImage x.exact') x) b)
  | 2 => if scratchSize < o + 88 then (.notPresent, b)
      else (.ok, setGl g { x with exact' := exactAddImage x.exact' (scratchBytes x o 88) } b)
  | _ => (.ok, setRd g rd (BitVec.ofNat 32 (exactRound x.exact')) b)

/-- rs.exit (R248): commit, merge, then the done add; the gleaner returns to IDLE. -/
def rsExit (g : Nat) (b : Block) : Block :=
  let b := commit g false (modGl g (fun x => { x with giveUp := false }) b)
  let m := mergePending g (cvScidx (glOf b g)) b
  if (glOf b g).putFail.isSome then putFault g b
  else if m.1 ≠ .ok then runFault g m.1 m.2
  else
    let x := glOf m.2 g
    dropGrant g (modGl g (fun y => { y with run := .idle, opened := 0, visits := [], failed := none }) (doneAdd x (uGleaner g) 0 m.2))

/-- Execute an instruction of a kind, its 32-bit form `w` and length given. A commit that gives the grant up before a get or put leaves the gleaner PAUSED
at it (R270). -/
def doInstr (g : Nat) (k : GKind) (w len : Nat) (peers : List Peer) (b : Block) : Block :=
  let x := glOf b g
  let r1 := x.core.getX (iRs1 w)
  let r2 := x.core.getX (iRs2 w)
  match k with
  | .rsOpen =>
    if openBad b x (r1.toNat % 16) then runFault g .badArgument b
    else
      let vs := visitList b x g
      advancePc g len (setRd g (iRd w) (BitVec.ofNat 32 vs.length) (setGl g { x with opened := r1.toNat % 16, visits := vs } b))
  | .rsNext =>
    let vs := x.visits.tail
    advancePc g len (setRd g (iRd w) (if vs.isEmpty then 0 else 1) (setGl g { x with visits := vs } b))
  | .rsGet =>
    let b := makeRoom g (r1.toNat % 4) true b
    if (glOf b g).run = .running ∧ !bankWaits g (r1.toNat % 4) b then orFault g len (rsGet g (r1.toNat % 4) r2.toNat b) else b
  | .rsPut =>
    let b := makeRoom g (r1.toNat % 4) false b
    if (glOf b g).run = .running ∧ !bankWaits g (r1.toNat % 4) b ∧ !stageWaits g (r1.toNat % 4) r2.toNat b then orFault g len (rsPut g (r1.toNat % 4) r2.toNat b) else b
  | .rsFget => orFault g len (rsFget g (farAddr x r1) r2.toNat peers b)
  | .rsFput => orFault g len (rsFput g (farAddr x r1) r2.toNat peers b)
  | .rsAmo => orFault g len (rsAmo g (iF7 w) (farAddr x r1) r2.toNat peers b)
  | .rsEnd =>
    let b := commit g false b
    if (glOf b g).putFail.isSome then putFault g b else advancePc g len b
  | .rsExit => rsExit g b
  | .gop f7 => orFault g len (gop g f7 (x.core.getX (iRd w)).toNat r1.toNat r2.toNat b)
  | .xop f7 => orFault g len (rsX g f7 (iRd w) r1.toNat b)
  | .csr => csrInstr g w len b
  | .conv2 => csrInstr g w len b
  | .illegal => runFault g .badArgument b
  | .ordinary =>
    if iOp w = 0x73 then fcsrInstr g w len b
    else match rvExec x.core x.scratch w len with
    | .next c m => setGl g { x with core := c, scratch := m } b
    | .stop s => runFault g s b

/-- Run the next instruction of a gleaner when it is of the kind a command names. A fetch the address map forbids ends the run (R241). -/
def runInstr (g : Nat) (sel : GKind → Bool) (peers : List Peer) (hits : List Strike) (b : Block) : Block :=
  let x := glOf b g
  if x.run ≠ .running ∨ unitHeld b (uGleaner g) then b
  else if x.putFail.isSome then putFault g b
  else match fetch x with
  | .inl s => runFault g s b
  | .inr (none, _) => if sel .illegal then runFault g .badArgument b else b
  | .inr (some w, len) => if sel (kindOfInstr w) then doInstr g (kindOfInstr w) w len peers (strike hits b) else b

/-- Run the next instruction when executing it ends the run with BAD_ARGUMENT as R242 says: an illegal encoding, a misaligned access,
ECALL, EBREAK, or a reserved granule operation. -/
def runIllegal (g : Nat) (b : Block) : Block :=
  let x := glOf b g
  if x.run ≠ .running then b
  else if x.putFail.isSome then putFault g b
  else match fetch x with
  | .inl _ => b
  | .inr (none, _) => runFault g .badArgument b
  | .inr (some w, len) => match kindOfInstr w with
    | .illegal => runFault g .badArgument b
    | .gop f7 => if f7 ≤ 0x0A ∨ (0x10 ≤ f7 ∧ f7 ≤ 0x15) then b else runFault g .badArgument b
    | .ordinary => if iOp w = 0x73 then b else match rvExec x.core x.scratch w len with
      | .stop .badArgument => runFault g .badArgument b
      | _ => b
    | _ => b

/-- A lockstep disagreement of a gleaner (R243). -/
def glLockstep (g : Nat) (b : Block) : Block :=
  let x := glOf b g
  let b := setOwn (uGleaner g) hFailed (notify (uGleaner g) Fld.glnStatusLockstep .glnLockstep (x.core.pc % 2 ^ 15) (discard g b))
  if x.run = .idle then b
  else dropGrant g (modGl g (fun y => { y with run := .idle, putFail := none }) (doneAdd x (uStack (glStack g)) 8 b))

/-! ### Launches (R244 to R252) -/

def maskBits (b : Block) (s : Nat) : List Nat :=
  (List.range 128).filter fun i => bitOf (reg b (uStack s) (Off.grnGlMask (i / 32))) (i % 32)

/-- The adopter of a gleaner out of service: the first working one of the mask among its cell, its channel and its stack (R252). -/
def adopterOf (b : Block) (s : Nat) (mask : List Nat) (i : Nat) : Option Nat :=
  let ok (k : Nat) : Bool := k != i && mask.contains k && glWorks b (128 * s + k)
  let cell := if i % 2 = 0 then i + 1 else i - 1
  if ok cell then some cell
  else match ((List.range 8).map (· + i / 8 * 8)).find? ok with
  | some k => some k
  | none => (List.range 128).find? ok

/-- Is an entry's region open to a job slot (R245)? -/
def regionOpen (b : Block) (s entry job : Nat) : Bool :=
  let r := entry / 0x2000
  let v := reg b (uStack s) Off.grnGlRgn
  r == 0 || (bitOf v (4 * r - 1) && bitsOf v (4 * r - 2) (4 * r - 4) == job)

def launchResult (s : Nat) (reject : Bool) (reason n : Nat) (b : Block) : Block :=
  setReg (uStack s) Off.grnGlResult (b2n reject * 2 ^ 31 + reason * 2 ^ 28 + n) b

def launchReject (s reason first : Nat) (b : Block) : Block :=
  raise (uStack s) .glnLaunchReject (reason * 2 ^ 28 + first) (launchResult s true reason 0 b)

/-- LAUNCH (R244, R245, R252). -/
def launch (s : Nat) (b : Block) : Block :=
  let u := uStack s
  let mask := maskBits b s
  let ident := reg b u Off.grnGlIdent
  let job := bitsOf ident 10 8
  let entry := reg b u Off.grnGlEntry
  let works := mask.filter fun i => glWorks b (128 * s + i)
  let down := mask.filter fun i => !glWorks b (128 * s + i)
  match works.find? fun i => (glOf b (128 * s + i)).run != .idle with
  | some i => launchReject s 1 i b
  | none =>
    if !regionOpen b s entry job then launchReject s 2 (works.headD 0) b
    else if works = [] then launchReject s 3 (mask.headD 0) b
    else match down.find? fun i => (adopterOf b s mask i).isNone with
    | some i => launchReject s 4 i b
    | none =>
      let adopted := ((List.range 128).filter fun i => !glWorks b (128 * s + i)).filterMap fun i =>
        (adopterOf b s mask i).map fun k => (i, k)
      let b := adopted.foldl (fun b p => raise u .glnAdopt (p.2 * 2 ^ 8 + p.1) b) b
      let l (i : Nat) : Launch := ⟨entry, bitsOf ident 31 22, job, bitOf ident 0,
        reg b u Off.grnGlArgLo + 2 ^ 32 * reg b u Off.grnGlArgHi, reg b u Off.grnGlDoneLo + 2 ^ 32 * reg b u Off.grnGlDoneHi,
        reg b u Off.grnGlStep, reg b u Off.grnGlSeed, (adopted.filter (·.2 == i)).map fun p => 128 * s + p.1⟩
      let b := works.foldl (fun b i => modGl (128 * s + i) (fun x => { x with
        run := .ready, core := { x.core with pc := entry }, csr := [], exact' := ⟨0, false, false, false⟩, pend := ⟨0, 0, 0, 0⟩,
        launch := l i, opened := 0, visits := [], seg := none, grantAt := none, giveUp := false, waitFrom := b.face.time, failed := none,
        putFail := none }) b) b
      launchResult s false 0 works.length b

/-- ABORT (R249). -/
def abort (s : Nat) (b : Block) : Block :=
  let job := bitsOf (reg b (uStack s) Off.grnGlIdent) 10 8
  ((List.range 128).filter fun i =>
      (glOf b (128 * s + i)).run != .idle && (glOf b (128 * s + i)).launch.job == job).foldl
    (fun b i => dropGrant (128 * s + i) (modGl (128 * s + i) (fun x => { x with run := .idle, seg := none, putFail := none })
      (sweepFails (128 * s + i) b))) b

/-- May a launch register of the stack be written (R278)? -/
def launchWritable (b : Block) (s : Nat) : Bool :=
  let job := bitsOf (reg b (uStack s) Off.grnGlIdent) 10 8
  !((List.range 128).any fun i => (glOf b (128 * s + i)).run != .idle && (glOf b (128 * s + i)).launch.job == job)

end Sys2Proof.Machine
end

