-- ==== Sys2Proof/Machine/Power.lean ====
section
/-! DEFINITION. Power, envelopes and the tally die (chapter 16) and the module's pins and reference clocks (chapter 17). -/

namespace Sys2Proof.Machine

/-! ### Black-box records (R576 to R581) -/

/-- The first nine tally registers as the record's DATA carries them after the argument (log entry 44). -/
def tallyWords (b : Block) : List Byte :=
  [Off.tlyStatus, Off.tlyPower, Off.tlyPowerCmd, Off.tlyFeed, Off.tlyRing, 0x10014, Off.tlyTimeLo, Off.tlyTimeHi, Off.tlyBbHead].flatMap
    fun o => leBytes 4 (reg b uTly o)

/-- A record of KINDs 1, 2, 7, 8 and 9: its argument, then the tally registers at the time. -/
def tallyRecord (kind : Nat) (e : Ev) (arg : Nat) (b : Block) : Block := bbRecord kind e (leBytes 4 arg ++ tallyWords b) b

/-- The bytes of a record (Table 16.6). -/
def bbBytes (rseq : Nat) (r : BbRec) : List Byte :=
  let body := leBytes 4 rseq ++ leBytes 2 r.poweron ++ leBytes 2 r.code ++ leBytes 8 r.ttime ++ leBytes 2 r.source ++ leBytes 1 r.sev ++
    leBytes 1 r.kind ++ (r.data ++ List.replicate 40 0).take 40
  body ++ leBytes 4 (crc32c body)

def bbSlots : Nat := 3145728

/-- May this record be dropped when the bucket is empty (R579)? -/
def bbDroppable (r : BbRec) : Bool := decide (r.kind = 0) && decide (r.sev < 2)

/-- TLY_BB_DROP, at most once per second (R579). -/
def bbDropEvent (b : Block) : Block :=
  let due := match b.tly.dropEvtAt with
    | none => true
    | some t => decide (t + 1000000 ≤ b.face.time)
  if due && mainOn b then
    notify uTly Fld.tlyStatusBbDrop .tlyBbDrop (min (b.tly.dropped) (2 ^ 32 - 1))
      (modTly (fun t => { t with dropEvtAt := some b.face.time, dropped := 0 }) b)
  else b

/-- BB_RECORD_WRITE: the record at the front of the queue is written, or dropped under R579. Writing the last record of a block erases the
next, so the oldest 1,024 records fall away together (R578). -/
def bbWrite (b : Block) : Block :=
  match b.bbQueue with
  | [] => b
  | r :: rest =>
    if !b.tly.powered then b
    else
      let b := { b with bbQueue := rest }
      if b.tly.bucket = 0 ∧ bbDroppable r then
        bbDropEvent (bump uTly Off.tlyBbDropLo 1 (modTly (fun t => { t with dropped := t.dropped + 1 }) b))
      else
        let b := if b.tly.dropped = 0 then b else bbDropEvent b
        let n := b.tly.store.bbHead
        let wiped := if n % 1024 = 1023 then max b.tly.store.wipedTo (n + 1 + 1024 - bbSlots) else b.tly.store.wipedTo
        modTly (fun t => { t with
          bucket := t.bucket - 1
          store := { t.store with
            bb := SMap.put (t.store.bb.filter fun p => decide (wiped ≤ p.1)) n (bbBytes n r)
            bbHead := n + 1
            wipedTo := wiped } }) b

/-- BB_BUCKET_REFILL: 1,000 records a second, up to 64,000. -/
def bbRefill (b : Block) : Block :=
  let n := (b.face.time - b.tly.refillAt) / 1000
  modTly (fun t => { t with bucket := min 64000 (t.bucket + n), refillAt := t.refillAt + 1000 * n }) b

/-- TLY_BB_SEL. -/
def bbSelect (v : Nat) (b : Block) : Block := setReg uTly Off.tlyBbSel v b

/-- The selected record. -/
def bbSelected (b : Block) : Option (List Byte) := b.tly.store.bb.find (reg b uTly Off.tlyBbSel)

/-- TLY_BB_INFO and TLY_BB_DATA as they read (R581). -/
def bbInfo (b : Block) : Nat := match bbSelected b with
  | none => 0
  | some r => 2 ^ 31 + b2n (leAt r 60 4 != crc32c (r.take 60)) * 2 ^ 30

def bbData (b : Block) (n : Nat) : Nat := match bbSelected b with
  | none => 0
  | some r => leAt r (4 * n) 4

/-! ### The main domain goes and comes (R554, R555, R565, R571) -/

/-- PWR_STATE.DSTATE, or 3 while the main domain is off. -/
def powerState (b : Block) : Nat := if railsUp b then fld b uPwr Fld.pwrStateDstate else 3

/-- A power-state change's record (KIND 9). -/
def pstateRecord (old new : Nat) (b : Block) : Block := tallyRecord 9 .tlyPstate (old * 4 + new) b

/-- The main-domain rails are removed: D3, device state OFF. -/
def mainOff (cut : Bool) (b : Block) : Block :=
  if !railsUp b then b
  else
    let old := powerState b
    let b := setFld uTly Fld.tlyPowerMainOn 0 (mainCold b)
    pstateRecord old 3 (if cut then modTly (fun t => { t with cut := true }) b else b)

/-- The security unit after the boot ROM reconstructed the identity, or failed to (R519, R521). -/
def bootIdentity (b : Block) : Block :=
  let b := setFld uSec Fld.secStateRngOk 1 b
  if Config.pufFails (fld b uTly Fld.tlyPowerPoweron) then notify uSec Fld.secStatusPufFail .secPufFail 0 b
  else setFld uSec Fld.secStateIdOk 1 b

/-- TLY_POWER_CMD.ON (R570, R571): the rails rise, reset is released and the boot ROM starts: stage POWERED. -/
def tallyOn (b : Block) : Status × Block :=
  if !b.tly.powered || railsUp b then (.stateConflict, b)
  else if !flag b uTly Fld.tlyPowerHoldupOk then (.busy, b)
  else
    let b := modTly (fun t => { t with
      cut := false, capOff := 0, overAt := none, metSince := none, isOver := false, hot := false, loopAt := b.face.time, sampleAt := b.face.time }) (mainCold b)
    (.ok, pstateRecord 3 0 (bootIdentity (setFld uTly Fld.tlyPowerMainOn 1 b)))

/-- TLY_POWER_CMD.OFF. -/
def tallyOff (b : Block) : Status × Block := (.ok, mainOff false b)

/-- The tally die's bring-up sessions close. -/
def dropRing (b : Block) : Block := modQcp (fun q => { q with sessions := q.sessions.filter fun s => !s.ring }) b

/-- A tally register with no register of the main domain touched: the tally interface back at reset, POWERON kept. -/
def tallyRegsReset (poweron : Nat) (b : Block) : Block :=
  let out {α : Type} (m : SMap α) (scale : Nat) : SMap α := m.filter fun p => decide (p.1 / scale / 0x10_0000 ≠ uTly)
  let b := { b with face := { b.face with
    regs := out b.face.regs 1
    sqOwn := out b.face.sqOwn 16
    shadow := out b.face.shadow 1
    ring := b.face.ring.filter fun p => decide (p.1 / 64 ≠ uTly) } }
  setFld uTly Fld.tlyPowerPoweron poweron b

/-- TLY_POWER_CMD.TRESET, in D3 only: the tally die's own logic restarts, its store is kept; the RAM queue is lost and the sessions close (log entry
45). Tally time runs on. -/
def tallyReset (b : Block) : Status × Block :=
  if railsUp b then (.stateConflict, b)
  else
    let ok := reg b uTly Off.tlyPower / 2 ^ 31
    (.ok, setFld uTly Fld.tlyPowerHoldupOk ok (tallyRegsReset (fld b uTly Fld.tlyPowerPoweron) (dropRing { b with bbQueue := [] })))

/-- TLY_POWER_CMD as written: one action at a time; a write that names none or several has no effect (log entry 46). -/
def tallyCmd (v : Nat) (b : Block) : Status × Block := match v % 8 with
  | 1 => tallyOn b
  | 2 => tallyOff b
  | 4 => tallyReset b
  | _ => (.ok, b)

/-! ### Feeds (R551 to R554) -/

def feedOf (b : Block) (f : Nat) : Feed := b.tly.feeds.get ⟨0, false, 0⟩ f
def setFeed (f : Nat) (x : Feed) (b : Block) : Block := modTly (fun t => { t with feeds := t.feeds.put f x }) b

/-- An event of the tally interface, in its ring while the main die is powered (R585), its status bit in every state. -/
def tallyEvent (f : Field) (e : Ev) (arg : Nat) (b : Block) : Block := if mainOn b then notify uTly f e arg b else setSq uTly f b

/-- TLY_FEED_LOST: a feed is isolated; loss of the last one runs Table 16.1. -/
def feedLost (f cause tenths : Nat) (b : Block) : Block :=
  if !b.tly.powered || !(feedOf b f).on then b
  else
    let arg := cause * 2 ^ 8 + f
    let b := setFeed f ⟨tenths, false, b.face.time⟩ b
    let b := tallyRecord 1 .tlyFeedLost arg (tallyEvent Fld.tlyStatusFeedLost .tlyFeedLost arg (bump uTly Off.tlySwitchLo 1 b))
    if (feedOf b (1 - f)).on then b
    else
      let b := mainOff false b
      let r : BbRec := ⟨fld b uTly Fld.tlyPowerPoweron, evCode .tlyPowerLost, b.face.time, 0xFFFF, evSeverity .tlyPowerLost, 8,
        leBytes 4 0 ++ tallyWords b⟩
      modTly (fun t => { t with lossAt := some b.face.time }) { b with bbQueue := b.bbQueue ++ [r] }

/-- TLY_FEED_BACK: an isolated feed in range for 100 ms reconnects; it cannot have been in range for longer than it is isolated. -/
def feedBack (f tenths : Nat) (b : Block) : Block :=
  if !b.tly.powered || (feedOf b f).on || decide (b.face.time < (feedOf b f).since + 100000) || decide (tenths < 440) || decide (580 < tenths) then b
  else
    let b := modTly (fun t => { t with lossAt := none }) (setFeed f ⟨tenths, true, b.face.time⟩ b)
    tallyRecord 1 .tlyFeedBack f (tallyEvent Fld.tlyStatusFeedBack .tlyFeedBack f b)

/-- HOLDUP_END: both feeds lost for 200 ms at least and the queued records written (R554, Table 16.1), the supercapacitor is empty: the tally die is
unpowered; what it held in RAM is gone, the store stays. -/
def holdupEnd (b : Block) : Block :=
  if !(b.tly.lossAt.any fun t => decide (t + 200000 ≤ b.face.time)) || !b.bbQueue.isEmpty then b
  else
    let b := tallyRegsReset (fld b uTly Fld.tlyPowerPoweron) (dropRing b)
    setFld uTly Fld.tlyRingBypassed 1 (modTly (fun t => { t with powered := false, lossAt := none }) b)

/-- TALLY_POWER_UP: with a feed in range the tally die powers up in D3: tally time 0, POWERON counts, the bypass opens. -/
def tallyPowerUp (va vb : Nat) (b : Block) : Block :=
  let ok (v : Nat) : Bool := decide (440 ≤ v) && decide (v ≤ 580)
  if b.tly.powered || !(ok va || ok vb) then b
  else
    let n := fld b uTly Fld.tlyPowerPoweron + 1
    let b := tallyRegsReset n (mainCold b)
    let b := { b with face := { b.face with time := 0 } }
    modTly (fun t => { t with
      powered := true
      feeds := [(0, ⟨va, ok va, 0⟩), (1, ⟨vb, ok vb, 0⟩)]
      bucket := 64000
      refillAt := 0
      dropEvtAt := none
      dropped := 0
      lossAt := none
      junction := []
      base := [] }) b

/-- HOLDUP_CHARGED: the supercapacitor reaches charge. -/
def holdupCharged (b : Block) : Block :=
  if !b.tly.powered || flag b uTly Fld.tlyPowerHoldupOk then b
  else setSq uTly Fld.tlyStatusHoldup (setFld uTly Fld.tlyPowerHoldupOk 1 b)

/-- TLY_FEED and TLY_POWER as they read. -/
def tlyFeed (b : Block) : Nat :=
  (feedOf b 0).tenths % 1024 * 2 ^ 22 + (feedOf b 1).tenths % 1024 * 2 ^ 12 + b2n (feedOf b 1).on * 2 + b2n (feedOf b 0).on

def tlyPower (b : Block) : Nat :=
  flag b uTly Fld.tlyPowerHoldupOk |> fun h => b2n h * 2 ^ 31 + b2n (railsUp b) * 2 ^ 30 + b2n Config.variantAA * 2 ^ 29 +
    fld b uTly Fld.tlyPowerPoweron

/-- Is ALERT_N driven low (R588)? -/
def alertLow (b : Block) : Bool :=
  b.tly.powered && (!(feedOf b 0).on || !(feedOf b 1).on || b.tly.cut || devState b == dsFault)

/-! ### Rails, references and temperature (R555, R563 to R566, R590) -/

/-- TLY_RAIL_UV: main-die reset, every rail removed, D3, and a record; no event on the main die. -/
def railUv (rail : Nat) (b : Block) : Block :=
  if !railsUp b then b else tallyRecord 2 .tlyRailUv (rail % 16) (mainOff true b)

/-- The ports and Ethernet-mode links REFCLK1 feeds lose their link (R590). -/
def ref1Ports (b : Block) : List Nat := [uFe 0, uFe 1] ++ ((List.range 24).filter fun l => linkMode b l == 2).map uLink

/-- TLY_REFCLK_LOST. -/
def refclkLost (i : Nat) (b : Block) : Block :=
  if i = 0 then
    let b := modTly (fun t => { t with ref0 := false }) b
    if powerState b < 2 then tallyRecord 2 .tlyRefclkLost 0 (mainOff true b) else b
  else
    let b := modTly (fun t => { t with ref1 := false }) b
    if mainOn b then tallyRecord 2 .tlyRefclkLost 1 ((ref1Ports b).foldl (fun b u => portDown u b) b) else b

/-- REFCLK_RETURN: the ports negotiate again, which MAC_LINK_UP ends. -/
def refclkReturn (i : Nat) (b : Block) : Block :=
  if i = 0 then modTly (fun t => { t with ref0 := true }) b else modTly (fun t => { t with ref1 := true }) b

/-- Table 16.3: the temperature term of a stack, the cap term of a power cap. -/
def tempTerm (temp : Nat) : Nat :=
  let t := signedOf 8 temp
  if t < 85 then 32 else if t < 95 then 24 else if t < 100 then 16 else 8

def capBase (b : Block) : Nat := if 900 ≤ fld b uPwr Fld.pwrCapWatts then 32 else 16

/-- The cap term as R561 has lowered it, and its change to `n`. -/
def capTerm (b : Block) : Nat := max 8 (capBase b - b.tly.capOff)
def setCapTerm (n : Nat) (b : Block) : Block := modTly (fun t => { t with capOff := capBase b - n }) b

/-- Every stack's TLYCAP (R566). -/
def setTlycaps (b : Block) : Block :=
  (List.range 32).foldl (fun b s =>
    let c := min (tempTerm (b.tly.base.get 0 s)) (capTerm b)
    if c = fld b (uStack s) Fld.grnGrStateTlycap then b else tlycapChange s c b) b

/-- The index of the hottest of a list of two's-complement bytes. -/
def hottest (l : List Nat) : Nat :=
  (l.zipIdx.foldl (fun acc p => if signedOf 8 (l.getD acc 0) < signedOf 8 p.1 then p.2 else acc) 0)

def throttleTemp (b : Block) : Int := (fld b uPwr Fld.pwrThermThrottle : Int)

/-- Put a list's values under 0, 1, …. -/
def listMap (l : List Nat) : SMap Nat := l.zipIdx.map fun p => (p.2, p.1 % 256)

/-- THERMAL_SAMPLE, every 250 µs: 64 junction readings and 32 base-die readings, in °C as two's-complement bytes. -/
def thermalSample (js bs : List Nat) (b : Block) : Block :=
  if !mainOn b || decide (b.face.time < b.tly.sampleAt + 250) then b
  else
    let hj := hottest js
    let hb := hottest bs
    let tj := js.getD hj 0 % 256
    let tb := bs.getD hb 0 % 256
    let b := modTly (fun t => { t with junction := listMap js, base := listMap bs, sampleAt := b.face.time }) b
    let b := setReg uPwr Off.pwrTemp (tj * 2 ^ 24 + tb * 2 ^ 16 + hj) b
    let overJ := decide ((fld b uPwr Fld.pwrThermShutdown : Int) ≤ signedOf 8 tj)
    let overB := decide (105 ≤ signedOf 8 tb)
    if b.tly.isOver && (overJ || overB) then
      let arg := if overJ then tj * 256 + hj else tb * 256 + (64 + hb)
      tallyRecord 2 .tlyThermShut arg (mainOff true b)
    else
      let hot := decide (throttleTemp b ≤ signedOf 8 tj)
      let b := if hot && !b.tly.hot then notify uPwr Fld.pwrStatusThermal .pwrThermal tj b else b
      setTlycaps (modTly (fun t => { t with isOver := overJ || overB, hot := hot }) b)

/-! ### The cap loop (R556 to R561) -/

/-- VMAX as a code: the lower of VCEIL and the envelope's. -/
def envelopeCode : Nat := if Config.variantAA then 0x1E else 0x32
def envelopeWatts : Nat := if Config.variantAA then 1000 else 1500
def vmax (b : Block) : Nat := min (fld b uPwr Fld.pwrCapVceil) envelopeCode

def vcode (b : Block) : Nat := fld b uPwr Fld.pwrStateVcode

/-- Set V: VCODE, LIMITED, and the measured step rate, core voltage and current, which are the silicon's (free values). -/
def setVcode (v : Nat) (b : Block) : Block :=
  let r := takeFree b
  let m := takeFree r.2
  let b := setFld uPwr Fld.pwrStateRate r.1 (setReg uPwr Off.pwrVcore m.1 m.2)
  setFld uPwr Fld.pwrStateLimited (b2n (decide (v < vmax b))) (setFld uPwr Fld.pwrStateVcode v b)

/-- CAP_LOOP_CHECK, every 100 µs: the 1 ms average of the input power, and whether a rail has reached its current limit. The counters take the time since
the last check. In D1 and D2 V stays at 0.600 V. -/
def capCheck (avg : Nat) (railLimit : Bool) (b : Block) : Block :=
  if !mainOn b || decide (b.face.time < b.tly.loopAt + 100) then b
  else
    let ns := 1000 * (b.face.time - b.tly.loopAt)
    let b := modTly (fun t => { t with loopAt := b.face.time }) (setFld uPwr Fld.pwrPinAvg avg b)
    let v := vcode b
    let b := if v < vmax b then bump uPwr Off.pwrLimitedNsLo ns b else b
    let b := if b.tly.hot then bump uPwr Off.pwrThrottleNsLo ns b else b
    if asleep b then b else
    let watts := fld b uPwr Fld.pwrCapWatts
    let below := decide (avg + fld b uPwr Fld.pwrCapHyst < watts)
    let cool := b.tly.junction.all fun p => decide (signedOf 8 p.2 < throttleTemp b - 3)
    let hot := b.tly.junction.any fun p => decide (throttleTemp b ≤ signedOf 8 p.2)
    let b :=
      if watts < avg ∨ hot ∨ railLimit then
        if v = 0 then setVcode 0 b
        else
          let b' := setVcode (v - 1) b
          if v = vmax b then notify uPwr Fld.pwrStatusCapLimited .pwrCapLimited ((v - 1) * 2 ^ 24 + watts) b' else b'
      else if v < vmax b ∧ below ∧ cool ∧ b.tly.raiseAt + 1000 ≤ b.face.time then
        setVcode (v + 1) (modTly (fun t => { t with raiseAt := b.face.time }) b)
      else setVcode v b
    let exceeds := decide (watts < avg) && decide (vcode b = 0)
    let b := modTly (fun t => { t with overAt := if exceeds then some (t.overAt.getD b.face.time) else none }) b
    if !below || decide (b.tly.capOff = 0) then modTly (fun t => { t with metSince := none }) b
    else match b.tly.metSince with
      | none => modTly (fun t => { t with metSince := some b.face.time }) b
      | some t0 =>
        if t0 + 100000 ≤ b.face.time then
          setTlycaps (modTly (fun t => { t with metSince := some b.face.time }) (setCapTerm (min (capBase b) (capTerm b + 8)) b))
        else b

/-- PWR_CAP_UNMET: another 10 ms over the cap at 0.600 V. -/
def capUnmet (avg : Nat) (b : Block) : Block :=
  if !mainOn b || vcode b ≠ 0 || decide (avg ≤ fld b uPwr Fld.pwrCapWatts) || !(b.tly.overAt.any fun t => decide (t + 10000 ≤ b.face.time)) then b
  else
    let b := modTly (fun t => { t with overAt := some b.face.time, metSince := none }) (setCapTerm (max 8 (capTerm b - 8)) (setFld uPwr Fld.pwrPinAvg avg b))
    notify uPwr Fld.pwrStatusCapUnmet .pwrCapUnmet avg (setTlycaps b)

/-- PWR_CAP_WRITE (R558). -/
def pwrCapWrite (v : Nat) (b : Block) : Status × Block :=
  let w := v % 2 ^ 16
  let ceil := bitsOf v 29 24
  if w < 800 ∨ envelopeWatts < w ∨ envelopeCode < ceil then (.badArgument, setSq uPwr Fld.pwrStatusCapReject b)
  else
    let b := setReg uPwr Off.pwrCap (v % 2 ^ 30) b
    let b := if vmax b < vcode b then setVcode (vmax b) b else setFld uPwr Fld.pwrStateLimited (b2n (decide (vcode b < vmax b))) b
    (.ok, setTlycaps b)

/-! ### Power states (R567, R568) -/

/-- The links' SerDes stop, or train again; an Ethernet-mode link's port goes down with them and negotiates anew (Table 16.4). -/
def linksAsleep (b : Block) : Block :=
  (List.range 24).foldl (fun b l =>
    if linkMode b l = 0 then b
    else
      let up := linkUp b l
      let b := setLinkState l lsOff (setLink l Link.init (if linkMode b l = 2 then macLinkDown (uLink l) b else b))
      if up then linkLeft l b else b) b

def linksAwake (b : Block) : Block := (List.range 24).foldl (fun b l =>
  if linkMode b l = 0 then b else setLinkState l lsTraining (if linkMode b l = 2 then beginTry (uLink l) b else b)) b

def allChannels : List Nat := List.range 512

/-- The change's event, record and DSTATE. -/
def dstateTo (n : Nat) (b : Block) : Block :=
  let old := powerState b
  pstateRecord old n (notify uPwr Fld.pwrStatusDstate .pwrDstate (old * 4 + n) (setFld uPwr Fld.pwrStateDstate n b))

/-- D2's end: self-refresh exit with the centring of R213, and link training. -/
def leaveD2 (b : Block) : Block :=
  let b := { b with grn := { b.grn with selfRef := false } }
  let b := allChannels.foldl (fun b ch => if channelWorks b ch then calResult ch 2 true (calResult ch 1 true b) else b) b
  linksAwake b

/-- The return to D0 (R568); a lost REFCLK0 then removes the rails (Table 17.8). -/
def wakeD0 (b : Block) : Block :=
  let n := powerState b
  if n = 0 ∨ n = 3 then b
  else
    let b := dstateTo 0 (if n = 2 then leaveD2 b else b)
    if b.tly.ref0 then b else tallyRecord 2 .tlyRefclkLost 0 (mainOff true b)

/-- POWER to a state (R567). -/
def powerTo (n : Nat) (b : Block) : Block :=
  let old := powerState b
  if n = old ∨ old = 3 then b
  else match n with
    | 0 => wakeD0 b
    | 1 => dstateTo 1 (setVcode 0 (if old = 2 then leaveD2 b else b))
    | 2 => dstateTo 2 (setVcode 0 (linksAsleep { b with grn := { b.grn with selfRef := true } }))
    | _ => mainOff false b

/-! ### The tally ring (R573 to R575) -/

def bypassClosed (b : Block) : Bool := flag b uTly Fld.tlyRingBypassed || !b.tly.powered

/-- TLY_RING_WRITE: BYPASS 1 closes the bypass; 0 opens it only from a front-end session. -/
def tlyRingWrite (v : Nat) (fromFe : Bool) (b : Block) : Block :=
  let close := bitOf v 31
  if !b.tly.powered || (!close && !fromFe) then b
  else
    let was := flag b uTly Fld.tlyRingBypassed
    let b := setFld uTly Fld.tlyRingBypass (b2n close) (setFld uTly Fld.tlyRingBypassed (b2n close) b)
    if was = close then b else tallyEvent Fld.tlyStatusRing .tlyRing (b2n close) b

/-- TALLY_PORT_LINK_CHANGE. -/
def tallyPortLink (port : Nat) (up : Bool) (b : Block) : Block :=
  if !b.tly.powered then b
  else setFld uTly (if port = 0 then Fld.tlyRingTraUp else Fld.tlyRingTrbUp) (b2n up) b

def tallyMac : List Byte := beBytes 6 (Config.macAddr uTly)

/-- Does the tally die take a frame in, and does it send it on (R574)? -/
def ringTakes (f : List Byte) : Bool := f.take 6 == tallyMac || bitOf (f.headD 0).toNat 0
def ringPasses (f : List Byte) : Bool := f.take 6 != tallyMac

/-- A frame leaves on a tally-ring port: 0 TRA, 1 TRB; none does while the bypass is closed (Table 16.7). -/
def ringSend (port : Nat) (f : List Byte) (b : Block) : Block := if bypassClosed b then b else modTly (fun t => { t with sent := t.sent ++ [(port, f)] }) b

/-- A frame that arrives with the bypass open goes on out of the other port unless it is addressed to the tally die alone. -/
def ringForward (port : Nat) (f : List Byte) (b : Block) : Block := if ringPasses f then ringSend (1 - port) f b else b

end Sys2Proof.Machine
end

