-- ==== Sys2Proof/Machine/Reset.lean ====
section
/-! DEFINITION. Reset boundaries and grains (R511 to R515, R600, R602). -/

namespace Sys2Proof.Machine

def rstOf (b : Block) (u : Nat) : Option Rst := b.boot.resets.find u
def setRst (u : Nat) (r : Option Rst) (b : Block) : Block :=
  modBoot (fun x => { x with resets := match r with
    | some v => x.resets.put u v
    | none => x.resets.drop u }) b

/-- The units a reset written to `u` takes through Table 14.6, `u` itself last; none where the write is ignored. -/
def resetReach (u : Nat) : List Nat := match kindOf u with
  | some .gleaner => [u]
  | some .channel => (List.range 8).map fun j => 4096 + 128 * ((u - 512) / 16) + 8 * ((u - 512) % 16) + j
  | some .stack => (List.range 128).map fun g => 4096 + 128 * (u - 160) + g
  | some .tile => [u]
  | some .quad => (List.range 4).map fun t => 64 + 4 * (u - 32) + t
  | some .field => ((List.range 4).map fun q => ((List.range 4).map fun t => 64 + 4 * (4 * (u - 16) + q) + t) ++ [32 + 4 * (u - 16) + q]).flatten ++
      [24 + (u - 16)]
  | some .fe => [u]
  | _ => []

/-- A channel or stack controller written for its gleaners (R602). -/
def forGleaners (u : Nat) : Bool := kindOf u == some .channel || kindOf u == some .stack

/-- Clear a unit's own registers but its common face and those `keep` names. -/
def clearRegs (u : Nat) (keep : Nat → Bool) (b : Block) : Block :=
  let out (k : Nat) : Bool := k / 0x10_0000 != u || decide (k % 0x10_0000 < 0x1_0000) || keep (k % 0x10_0000)
  { b with face := { b.face with
    regs := b.face.regs.filter fun p => out p.1
    shadow := b.face.shadow.filter fun p => out p.1
    sqOwn := b.face.sqOwn.filter fun p => out (p.1 / 16) } }

/-- MBX_CTRL, MBX_IN and MBX_OUT return to 0 (R600). -/
def clearMbx (u : Nat) (b : Block) : Block :=
  setReg u Off.mbxCtrl 0 ((List.range 16).foldl (fun b n => setReg u (Off.mbxIn n) 0 (setReg u (Off.mbxOut n) 0 b)) b)

/-- Loft shares survive a tile reset (Table 14.5). -/
def isShare (o : Nat) : Bool := (List.range 8).any fun j => o == Off.lftShare j

/-- Step 5 at tile grain; the context store's count of the tile's borrows is no register of the tile and stays (Table 14.5). -/
def clearTile (t : Nat) (b : Block) : Block :=
  let b := setTile t Tile.init (clearRegs (uTile t) isShare b)
  modCtx (fun c => { c with
    xlt := c.xlt.drop t
    parked := c.parked.filter fun p => p.tile != t
    lend := c.lend.put t { lendOf b t with state := .home, due := false, stop := false }
    saved := c.saved.drop t }) (dropRows t b)

/-- Step 5 at core grain: cores, scratch, exact accumulator and counters; the instruction memory stays. An open segment is discarded and the
run's faulted count rises (R512). -/
def clearGleaner (g : Nat) (b : Block) : Block :=
  let x := glOf b g
  let b := discard g b
  let b := if x.run = .idle then b else dropGrant g (doneAdd x (uStack (glStack g)) 8 b)
  clearRegs (uGleaner g) (fun o => decide (o = Off.glnLoadState) || decide (Off.glnLoadMiss 0 ≤ o) && decide (o ≤ Off.glnLoadMiss 7))
    (setGl g { Gleaner.init with imem := x.imem, crcs := x.crcs } b)

/-- Step 5 of a unit's reset. -/
def clearUnit (u : Nat) (b : Block) : Block :=
  let b := clearMbx u b
  match kindOf u with
  | some .tile => clearTile (u - 64) b
  | some .gleaner => clearGleaner (u - 4096) b
  | some .col => modFab (fun f => { f with colls := f.colls.drop (u - 24), early := f.early.drop (u - 24) }) (clearRegs u (fun _ => false) b)
  | some .fe => setPort u { MacPort.init with tryAt := b.face.time } (clearRegs u (fun o => o == Off.macAddrLo || o == Off.macAddrHi) (macLinkDown u b))
  | _ => b

/-- Step 5 happens once the drain of step 3 is over. -/
def clearDrained (u : Nat) (b : Block) : Block := match rstOf b u with
  | some r => if r.out = 0 ∧ !r.cleared then clearUnit u (setRst u (some { r with cleared := true }) b) else b
  | none => b

/-- Step 1 of one unit: the boundary goes up. A serving batch on a tile is abandoned (Table 14.7), and what a
collectives engine runs completes with RESET_ABSORBED. -/
def beginReset (u out : Nat) (hold : Bool) (b : Block) : Block := match rstOf b u with
  | some r => if hold then setRst u (some { r with release := false }) b else b
  | none =>
    let b := setRst u (some ⟨b.face.time, out, !hold, false⟩) b
    let b := setFld u Fld.unitResetInReset 1 (setFld u Fld.unitResetAbsorbing 1 (setOwn u hInReset b))
    let b := match kindOf u with
      | some .tile => (b.ctx.batches.filter fun x => x.tiles.contains (u - 64)).foldl (fun b x => settleCloses (abandonBatch x b)) b
      | some .col => absorbColls (u - 24) b
      | _ => b
    clearDrained u b

/-- The common face of a unit at its reset values. -/
def clearFace (u : Nat) (b : Block) : Block :=
  let out (k : Nat) : Bool := k / 0x10_0000 != u || decide (0x1_0000 ≤ k % 0x10_0000)
  { b with face := { b.face with
    regs := b.face.regs.filter fun p => out p.1
    shadow := b.face.shadow.filter fun p => out p.1
    sqOwn := b.face.sqOwn.filter fun p => out (p.1 / 16)
    ring := b.face.ring.filter fun p => p.1 / 64 != u } }

/-- What a module reset leaves: everything but the tally die at reset (Table 14.5), the common face of every unit with it (R600). -/
def moduleCold (b : Block) : Block := clearFace uTly (mainCold b)

/-- A reset of the whole module: the boot ROM starts again (Table 14.5). -/
def moduleReset (b : Block) : Block := bootIdentity (setFld uTly Fld.tlyPowerMainOn 1 (moduleCold b))

/-- The chip's HOLD = 1: the module is reset and stays in reset, its boundary absorbing, until HOLD = 0 ends the reset (R513). -/
def moduleHold (b : Block) : Block :=
  setFld uChip Fld.unitResetHold 1 (setFld uChip Fld.unitResetInReset 1 (setFld uChip Fld.unitResetAbsorbing 1 (setOwn uChip hInReset (moduleCold b))))

/-- The channels of a stack. -/
def channelsOf (s : Nat) : List Nat := (List.range 16).map fun c => 512 + 16 * (s - 160) + c

/-- IN_RESET at a channel or stack controller written for its gleaners, and at the channels of a stack (R602). -/
def showReset (u : Nat) (b : Block) : Block :=
  ((if kindOf u = some .stack then channelsOf u else []) ++ [u]).foldl (fun b w => setFld w Fld.unitResetInReset 1 b) b

/-- A reset written to a unit; `out` are the outbound requests each unit it reaches has outstanding. -/
def startReset (u out : Nat) (hold : Bool) (b : Block) : Block :=
  if u = uChip then moduleReset b
  else
    let us := resetReach u
    if us = [] then b
    else
      let b := us.foldl (fun b v => beginReset v out hold b) b
      if us.contains u then b
      else if forGleaners u then setRst u (some ⟨b.face.time, 0, !hold, true⟩) (showReset u b)
      else beginReset u 0 hold b

/-- PULSE, unless the unit, or the module, is already in reset. -/
def pulse (u out : Nat) (b : Block) : Block := if moduleHeld b || (rstOf b u).isSome then b else startReset u out false b

/-- The quad and the field whose reset reaches a unit. -/
def stooksOf (u : Nat) : List Nat := ((List.range 4).map (16 + ·) ++ (List.range 16).map (32 + ·)).filter fun v => v != u && (resetReach v).contains u

/-- Is the unit held by its own HOLD or by that of a quad or field it belongs to? -/
def heldBy (b : Block) (u : Nat) : Bool := (u :: stooksOf u).any fun v => flag b v Fld.unitResetHold

/-- HOLD at the unit written, and at each gleaner beneath a channel or stack controller, as if its own had been written (R602). -/
def setHold (u : Nat) (v : Bool) (b : Block) : Block :=
  ((if forGleaners u then resetReach u else []) ++ [u]).foldl (fun b w => setFld w Fld.unitResetHold (b2n v) b) b

/-- A unit that no HOLD holds any more may leave its reset. -/
def freeUnit (b : Block) (u : Nat) : Block := match rstOf b u with
  | some r => if heldBy b u then b else setRst u (some { r with release := true }) b
  | none => b

/-- HOLD written 1: the unit is kept in reset, also after a running one; written 0: the units it reaches that no other HOLD holds are released. At the
chip it holds the whole module, and its release ends the module's reset. -/
def hold (u : Nat) (v : Bool) (out : Nat) (b : Block) : Block :=
  if u = uChip then (if v = moduleHeld b then b else if v then moduleHold b else moduleReset b)
  else if moduleHeld b || (resetReach u).isEmpty then b
  else if v then setHold u true (startReset u out true b)
  else (resetReach u ++ [u]).foldl freeUnit (setHold u false b)

/-- A write of UNIT_RESET. -/
def unitResetWrite (u v out : Nat) (b : Block) : Block :=
  let b := if bitOf v 0 || flag b u Fld.unitResetHold then hold u (bitOf v 0) out b else b
  if bitOf v 1 then pulse u out b else b

/-- RESET_DRAIN_TIMEOUT: 2 ms into a reset the requests still outstanding are abandoned. -/
def drainTimeout (u : Nat) (b : Block) : Block := match rstOf b u with
  | some r =>
    if r.out = 0 ∨ b.face.time < r.since + 2000 then b
    else
      let b := bump uChip Off.sysRstAbandonedLo r.out (setRst u (some { r with out := 0 }) b)
      clearDrained u (notify uChip Fld.sysBootStatusRstAbandon .sysRstAbandon (u * 2 ^ 16 + min r.out 0xFFFF) b)
  | none => b

/-- The loaded instruction regions of a gleaner whose CRC-32C differs from the one recorded at their load (R512). -/
def badRegions (x : Gleaner) : List Nat := (x.imem.filter fun p => match x.crcs.find p.1 with
  | some c => crc32c p.2 != c
  | none => false).map (·.1)

/-- The image the reeve holds of a gleaner's region: the library it loaded, or what the gleaner was last sent. -/
def regionImage (b : Block) (u r : Nat) : Option (List Byte) :=
  if r = 0 then b.boot.verified.map (·.lib)
  else match b.boot.targets.find u with
    | some t => if t.image = r then some ((List.range t.count).flatMap fun n => t.chunks.get [] n) else none
    | none => none

/-- The regions that fail their check are sent to the gleaner again, before RESET_DONE (R512). -/
def mendRegions (u : Nat) (b : Block) : Block :=
  (badRegions (glOf b (u - 4096))).foldl (fun b r => match regionImage b u r with
    | some l => modGl (u - 4096) (fun x => { x with imem := x.imem.put r l }) b
    | none => b) b

/-- A tile's or gleaner's reload after a reset: the sequencer image whole again where its reload was `good` (Table 14.5), the gleaner's regions checked
and mended (R512). -/
def reload (u : Nat) (good : Bool) (b : Block) : Block :=
  match kindOf u with
  | some .tile => match b.boot.targets.find u with
    | some t => if good then setReg u Off.tilLoadState (2 * 2 ^ 29 + t.count % 512) b else b
    | none => b
  | some .gleaner => mendRegions u b
  | _ => b

/-- Do the unit's loaded images pass their checks? -/
def imagesGood (b : Block) (u : Nat) : Bool := kindOf u != some .gleaner || (badRegions (glOf b (u - 4096))).isEmpty

/-- Do members of a written stook still stand in reset? -/
def memberWaits (b : Block) (u : Nat) : Bool := (resetReach u).any fun v => v != u && (rstOf b v).isSome

/-- A gleaner has left reset: a channel that showed IN_RESET for the stack's gleaners shows it no more once its own are all out (R602). -/
def settleChannel (u : Nat) (b : Block) : Block :=
  let ch := 512 + (u - 4096) / 8
  if kindOf u ≠ some .gleaner ∨ (rstOf b ch).isSome ∨ memberWaits b ch then b else setFld ch Fld.unitResetInReset 0 b

/-- SYS_RESET_DONE: drained and released, the unit reloads, checks and leaves reset, GOOD or, where its load or self-test failed, OFFLINE. -/
def resetDone (u : Nat) (good : Bool) (b : Block) : Block := match rstOf b u with
  | some r =>
    if !r.release || memberWaits b u then b
    else
      let b := clearDrained u (setRst u (some { r with out := 0 }) b)
      let b := setRst u none b
      let b := setFld u Fld.unitResetInReset 0 (setFld u Fld.unitResetAbsorbing 0 b)
      let b := if forGleaners u then b else
        let b := reload u good b
        setOwn u (if good && imagesGood b u then hGood else hOffline) b
      notify u Fld.unitStatusResetDone .sysResetDone 0 (settleChannel u b)
  | none => b

/-- RESET_UNIT's check (R514): a tile it reaches is bound to a training job in a step, or lent from one. -/
def resetBusy (b : Block) (u : Nat) : Bool :=
  (resetReach u).any fun v => kindOf v == some .tile &&
    (let t := v - 64
     (match tileJob b t with
      | some j => slotTrains b j && fld b uTrn Fld.trnJobStatePhase j != 0
      | none => false) || (suspendedJob b t).isSome)

end Sys2Proof.Machine
end

