-- ==== Sys2Proof/Machine/Boot.lean ====
section
/-! DEFINITION. Bring-up: the actions of SYS_BOOT_CMD, firmware images and their loads (R502 to R510, R517). -/

namespace Sys2Proof.Machine

/-! ### Image loads (R506, R507) -/

/-- The bytes of a chunk of an image. -/
def chunkOf (image : Nat) (l : List Byte) (n : Nat) : Chunk :=
  let d := (l.drop (4096 * n)).take 4096
  ⟨image, n, (l.length + 4095) / 4096, crc32c d, crc32c l, d⟩

/-- LOAD_STATE and LOAD_MISS stand at the same offsets in a tile and in a gleaner (R517). -/
def loadState (b : Block) (u : Nat) : Nat := fld b u Fld.tilLoadStateState
def setMiss (u : Nat) (n : Nat) (v : Bool) (b : Block) : Block :=
  let o := Off.tilLoadMiss (n / 32 % 8)
  setReg u o (withBits (reg b u o) (n % 32) (n % 32) (b2n v)) b
def missing (b : Block) (u n : Nat) : Bool := bitOf (reg b u (Off.tilLoadMiss (n / 32 % 8))) (n % 32)

/-- Every chunk of a target is marked missing. -/
def allMissing (u count : Nat) (b : Block) : Block :=
  (List.range 8).foldl (fun b k => setReg u (Off.tilLoadMiss k) (2 ^ (min 32 (count - 32 * k)) - 1) b) b

/-- The instruction region an image code loads (R517). -/
def regionOfImage (image : Nat) : Nat := if image = 4 then 0 else image

/-- A whole image stands in its target; a gleaner records its region's CRC-32C (R512). -/
def installImage (u image : Nat) (l : List Byte) (b : Block) : Block := match kindOf u with
  | some .gleaner => modGl (u - 4096) (fun x => { x with
      imem := x.imem.put (regionOfImage image) l, crcs := x.crcs.put (regionOfImage image) (crc32c l) }) b
  | _ => b

/-- A target that sees a chunk of an image it does not hold starts anew (R517). -/
def beginTarget (u : Nat) (c : Chunk) (b : Block) : Block := match b.boot.targets.find u with
  | some t =>
    if t.image = c.image ∧ t.crc = c.imageCrc ∧ t.count = c.count then b
    else startNew b
  | none => startNew b
where
  startNew (b : Block) : Block :=
    let b := modBoot (fun x => { x with targets := x.targets.put u ⟨c.image, c.count, c.imageCrc, []⟩ }) b
    allMissing u c.count (setReg u Off.tilLoadState (1 * 2 ^ 29 + c.image % 16 * 2 ^ 12 + c.count % 512) b)

/-- The whole image is present: its CRC decides COMPLETE or BAD_IMAGE. -/
def checkWhole (u : Nat) (b : Block) : Block := match b.boot.targets.find u with
  | none => b
  | some t =>
    if (List.range t.count).any fun n => (t.chunks.find n).isNone then b
    else
      let l := (List.range t.count).flatMap fun n => t.chunks.get [] n
      if crc32c l = t.crc then installImage u t.image l (setFld u Fld.tilLoadStateState 2 b)
      else allMissing u t.count (setFld u Fld.tilLoadStateState 3
        (modBoot (fun x => { x with targets := x.targets.put u { t with chunks := [] } }) b))

/-- LOAD_CHUNK_RECEIVE: a chunk whose CRC matches is stored, any other discarded. A unit in reset takes none. -/
def chunkReceive (u : Nat) (c : Chunk) (b : Block) : Block :=
  if absorbing b u then absorb 1 b
  else if crc32c c.data ≠ c.crc ∨ c.count ≤ c.num ∨ ownOf b u = hOffline then b
  else
    let b := beginTarget u c b
    match b.boot.targets.find u with
    | none => b
    | some t =>
      if loadState b u = 2 then b
      else
        let b := modBoot (fun x => { x with targets := x.targets.put u { t with chunks := t.chunks.put c.num c.data } }) b
        checkWhole u (setMiss u c.num false (if loadState b u = 3 then setFld u Fld.tilLoadStateState 1 b else b))

/-- Is a target done with its load: COMPLETE, HELD, or out of service? -/
def targetDone (b : Block) (u : Nat) : Bool := loadState b u == 2 || loadState b u == 4 || ownOf b u == hOffline

/-- The broadcast: every chunk to every target, but for the (unit, chunk) pairs lost on the way. -/
def broadcast (image : Nat) (l : List Byte) (targets : List Nat) (lost : List (Nat × Nat)) (b : Block) : Block :=
  let cs := (List.range ((l.length + 4095) / 4096)).map (chunkOf image l)
  targets.foldl (fun b u => cs.foldl (fun b c => if lost.contains (u, c.num) then beginTarget u c b else chunkReceive u c b) b) b

/-- A load begins (R507). -/
def startLoad (image : Nat) (l : List Byte) (targets : List Nat) (lost : List (Nat × Nat)) (b : Block) : Block :=
  let ts := targets.filter fun u => ownOf b u < hOffline
  modBoot (fun x => { x with loads := x.loads ++ [⟨image, l, ts, 0⟩] }) (broadcast image l ts lost b)

/-- A target not COMPLETE after the third repair round is held in reset, OFFLINE; its LOAD registers tell of the load. -/
def holdTarget (u image : Nat) (b : Block) : Block :=
  let told := (List.range 9).map fun k => (Off.tilLoadState + 4 * k, reg b u (Off.tilLoadState + 4 * k))
  let b := told.foldl (fun b p => setReg u p.1 p.2 b) (hold u true 0 b)
  let b := setOwn u hOffline (setFld u Fld.tilLoadStateState 4 b)
  let f := if u < 4096 then Fld.sysBootHeldTiles else Fld.sysBootHeldGleaners
  notify uChip Fld.sysBootStatusLoadHeld .sysLoadHeld (u * 2 ^ 16 + image * 2 ^ 12) (setFld uChip f (fld b uChip f + 1) b)

/-- Loads whose targets are all done leave the list. -/
def settleLoads (b : Block) : Block :=
  modBoot (fun x => { x with loads := x.loads.filter fun l => !(l.targets.all (targetDone b)) }) b

/-- The chunks of an image that a target lacks are sent to it again, but for those lost on the way. -/
def resendChunks (u image : Nat) (l : List Byte) (lost : List (Nat × Nat)) (b : Block) : Block :=
  ((List.range ((l.length + 4095) / 4096)).filter (missing b u)).foldl (fun b n =>
    if lost.contains (u, n) then b else chunkReceive u (chunkOf image l n) b) b

/-- One repair round of one load. A target in reset gets its chunks in the next round, or when it leaves reset (Table 14.7). -/
def repairRound (l : LoadRun) (lost : List (Nat × Nat)) (b : Block) : Block :=
  let r := l.round + 1
  let b := l.targets.foldl (fun b u =>
    if targetDone b u then b
    else
      let b := resendChunks u l.image l.bytes lost (setFld u Fld.tilLoadStateRound r b)
      if r = 3 ∧ !targetDone b u ∧ !absorbing b u then holdTarget u l.image b else b) b
  modBoot (fun x => { x with loads := x.loads.map fun y => if y = l then { y with round := r } else y }) b

/-- LOAD_REPAIR_ROUND: every load in progress runs its next round. -/
def loadRepairRound (lost : List (Nat × Nat)) (b : Block) : Block :=
  settleLoads (b.boot.loads.foldl (fun b l => if l.round < 3 then repairRound l lost b else b) (settleLoads b))

/-- SYS_RESET_DONE, with the chunks that loads without a round left still owe the unit (Table 14.7). -/
def resetDoneCmd (u : Nat) (good : Bool) (b : Block) : Block :=
  let b' := resetDone u good b
  if (rstOf b u).isSome ∧ (rstOf b' u).isNone then
    settleLoads ((b'.boot.loads.filter fun l => l.round == 3 && l.targets.contains u).foldl (fun b l => resendChunks u l.image l.bytes [] b) b')
  else b'

/-! ### Stages and actions (R502) -/

def bootStage (b : Block) : Nat := fld b uChip Fld.sysBootStageStage

/-- An action accepted in its stage runs; any other sets CMD_REJECT. -/
def bootAction (act : Nat) (stages : List Nat) (run : Block → Status × Nat × Block) (b : Block) : Block :=
  if !mainOn b then b
  else if b.boot.running.isSome || !(stages.contains (bootStage b)) then setSq uChip Fld.sysBootStatusCmdReject b
  else
    let r := run (setFld uChip Fld.sysBootStageBusy 1 b)
    modBoot (fun x => { x with running := some ⟨act, r.1, r.2.1⟩ }) r.2.2

/-- SPINES: lane exclusions come from the tally store (R361); its end releases the link controllers. -/
def bootSpines (b : Block) : Block := bootAction 0 [0] (fun b =>
  (.ok, 0, (List.range 24).foldl (fun b l =>
    setFld (uLink l) Fld.jxlLanemapUsed (b.tly.store.laneUsed.get 0 l) (setReg (uLink l) Off.jxlLanemap (b.tly.store.lanes.get 0 l) b)) b)) b

/-- The link controllers leave reset with SPINES: a link whose MODE was written before trains in it (Table 14.3). -/
def releaseLinks (b : Block) : Block :=
  (List.range 24).foldl (fun b l =>
    if linkMode b l = 0 then b else setLinkState l lsTraining (if linkMode b l = 2 then beginTry (uLink l) b else b)) b

/-- TRAIN: every stack trains; `failed` are the channels that fail, which are retired as far as R234 lets them. More than eight of them fail the action
(R503). -/
def bootTrain (failed : List Nat) (b : Block) : Block := bootAction 1 [1] (fun b =>
  let bad := (failed.eraseDups.filter fun ch => (retirementOf b ch).isNone)
  if !b.tly.ref0 then (.opFailed, 0, b)
  else
    let b := b.grn.retired.foldl (fun b r => if r.reformed then b else reformChannel r.ch b) b
    let b := allChannels.foldl (fun b ch => if channelWorks b ch && !(bad.contains ch) then calResult ch 2 true (calResult ch 1 true b) else b) b
    let before := b.grn.retired.length
    let b := bad.foldl (fun b ch => retireChannel ch true b) b
    (if 8 < bad.length then .opFailed else .ok, b.grn.retired.length - before, b)) b

/-! ### The firmware image (R504, R505) -/

def stageBytes : Nat := 64 * 2 ^ 20

/-- RA_BLOB: 8 KiB of image at its offset; the unit is marked received where the write succeeds. -/
def blobWrite (off : Nat) (data : List Byte) (b : Block) : Block :=
  if stageBytes ≤ off ∨ off % 8192 ≠ 0 then b
  else
    let r := engineWrite uReeve off (data.take 8192) b
    if r.1 ≠ .ok then r.2
    else modBoot (fun x => { x with staged := if x.staged.contains (off / 8192) then x.staged else x.staged ++ [off / 8192] }) r.2

/-- A component of the staged image. -/
structure Component where
  typ : Nat
  zero : Bool
  off : Nat
  len : Nat
  crc : Nat
deriving DecidableEq, Repr

def imgCount (b : Block) : Nat := numAt b 20 4

def component (b : Block) (c : Nat) : Component :=
  let a := 160 + 32 * c
  ⟨numAt b a 4, numAt b (a + 4) 4 == 0 && numAt b (a + 24) 8 == 0, numAt b (a + 8) 8, numAt b (a + 16) 4, numAt b (a + 20) 4⟩

def components (b : Block) : List Component := (List.range (min 16 (imgCount b))).map (component b)

/-- The image's length: to the end of its last component, and of its table. -/
def imageLen (b : Block) : Nat := (components b).foldl (fun m c => max m (c.off + c.len)) (160 + 32 * min 16 (imgCount b))

def componentOf (b : Block) (typ : Nat) : List Byte := match (components b).find? fun c => c.typ = typ with
  | some c => bytesAt b c.off c.len
  | none => []

/-- Are the component entries valid (R504)? Each lies behind the header and the table and bears the CRC-32C of its component. -/
def componentsOk (b : Block) : Bool :=
  let cs := components b
  decide (1 ≤ imgCount b) && decide (imgCount b ≤ 16) &&
    (cs.all fun c => c.zero && decide (c.typ < 3) && decide (c.len % 4096 = 0) && decide (160 + 32 * imgCount b ≤ c.off) &&
      decide (c.off + c.len ≤ stageBytes) && crc32c (bytesAt b c.off c.len) == c.crc) &&
    ([0, 1, 2].all fun t => (cs.filter fun c => c.typ = t).length == 1) &&
    (cs.all fun c => (c.typ != 1 || decide (c.len ≤ 65536)) && (c.typ != 2 || c.len == 8192))

/-- The first unit below the image's length that has not arrived. -/
def firstMissing (b : Block) : Option Nat :=
  if !(b.boot.staged.contains 0) then some 0
  else (List.range ((min stageBytes (imageLen b) + 8191) / 8192)).find? fun u => !(b.boot.staged.contains u)

/-- The image checks, in order. A line of the staging area that cannot be read ends VERIFY with its read's status (log entry 76). -/
def verifyImage (b : Block) : Status × Block :=
  match firstMissing b with
  | some u => (.notPresent, setReg uChip Off.sysBootMissing u b)
  | none =>
    let r := touchRanges uReeve [(0, min stageBytes (imageLen b))] b
    let b := r.2
    if r.1 ≠ .ok then r
    else if numAt b 0 4 ≠ 0x5158_3430 ∨ numAt b 4 4 ≠ 1 ∨ !componentsOk b then (.badArgument, b)
    else if sha512 (bytesAt b 160 (imageLen b - 160)) ≠ bytesAt b 32 64 ∨ !edVerify Config.firmwareKey (bytesAt b 0 96) (bytesAt b 96 64) then
      (.authFailed, b)
    else if numAt b 16 4 < b.tly.store.floor then (.authFailed, b)
    else (.ok, b)

/-- The image that stands in the staging area. -/
def imageNow (b : Block) : FwImage := ⟨bytesAt b 32 64, numAt b 8 8, numAt b 16 4, componentOf b 0, componentOf b 1, componentOf b 2⟩

/-- VERIFY: an image that passes is the one LOAD and START use, whatever is staged after it (log entry 19). -/
def bootVerify (b : Block) : Block := bootAction 2 [2] (fun b =>
  let r := verifyImage b
  (r.1, 0, if r.1 = .ok then modBoot (fun x => { x with verified := some (imageNow r.2) }) r.2 else r.2)) b

/-- The image VERIFY passed. -/
def verifiedImage (b : Block) : FwImage := b.boot.verified.getD ⟨[], 0, 0, [], [], []⟩

def allTiles : List Nat := (List.range 64).map uTile
def allGleaners : List Nat := (List.range 4096).map uGleaner

/-- LOAD: the sequencer to the tiles, the gleaner library to region 0 of the gleaners. -/
def bootLoad (lost : List (Nat × Nat)) (b : Block) : Block := bootAction 3 [3] (fun b =>
  let img := verifiedImage b
  (.ok, 0, settleLoads (startLoad 4 img.lib allGleaners lost (startLoad 0 img.seq allTiles lost b)))) b

/-- Every byte of a loft the self-test wrote and read back reads as memory nothing has written (log entry 1). -/
def wipeLoft (t : Nat) (b : Block) : Block :=
  let inside (a : Nat) : Bool := decide (loftBase t ≤ a) && decide (a < loftBase t + loftSize)
  { b with grn := { b.grn with
    mem := b.grn.mem.filter fun c => !inside c.1
    loftErr := b.grn.loftErr.filter fun c => !inside (8 * c.1) } }

/-- One line of every bank of a channel is read, the first of its first row; the channel fails where one cannot be read (R509). -/
def readBanks (acc : List Nat × Block) (ch : Nat) : List Nat × Block :=
  if (retirementOf acc.2 ch).isSome || !(decide (ownOf acc.2 (uChannel ch) < hOffline)) then acc
  else (List.range 16).foldl (fun acc k => match (rowLines acc.2 ch k 0).head? with
    | some l => let r := readOne l acc.2; (if r.1 then acc.1 else acc.1 ++ [uChannel ch], r.2)
    | none => acc) acc

/-- Are the reeve and at least one tile in service? -/
def inService (b : Block) : Bool := decide (ownOf b uReeve < hOffline) && allTiles.any fun u => decide (ownOf b u < hOffline)

/-- SELFTEST: lofts are written and read back, and a line of every bank is read; `failed` are the units that fail their known-answer sets or their loft's
test. Each unit that fails is taken OFFLINE (R509, log entry 20). -/
def bootSelfTest (failed : List Nat) (b : Block) : Block := bootAction 4 [4, 5] (fun b =>
  let x := allChannels.foldl readBanks (failed, b)
  let b := x.2
  let bad := x.1.eraseDups.filter fun u => ownOf b u < hOffline
  let b := (List.range 64).foldl (fun b t => if ownOf b (uTile t) < hOffline then wipeLoft t b else b) b
  let b := (List.range 64).foldl (fun b t => if ownOf b (uTile t) < hOffline then modTile t (fun x => { x with selfTest := true }) b else b) b
  let b := bad.foldl (fun b u => setOwn u hOffline b) b
  (if inService b then .ok else .opFailed, bad.length, b)) b

/-- START: the digests go to the security unit, the boot ROM's sessions on the front end close, and the reeve starts: device state BOOT. -/
def bootStart (b : Block) : Block := bootAction 5 [5] (fun b =>
  let img := verifiedImage b
  let b := modBoot (fun x => { x with
    fwDigest := img.digest
    fwVersion := img.version
    fwSvn := img.svn
    reeve := img.reeve
    programs := [⟨0, 0xFF, 0, img.seq.length, 0, sha512 img.seq⟩, ⟨1, 0xFF, 0, img.lib.length, 0, sha512 img.lib⟩] }) b
  let b := modQcp (fun q => { q with sessions := q.sessions.filter fun s => !s.rom }) b
  (.ok, 0, setDevState dsBoot b)) b

/-- The stage an action that ended with OK leads to. -/
def stageAfter (act : Nat) : Nat := act + 1

/-- On both front-end ports the first filter gives QCP's EtherType to queue 1, whose consumer is the QCP engine (R431, log entry 75). -/
def steerQcp (b : Block) : Block := [uFe 0, uFe 1].foldl (fun b u =>
  let b := setFld u Fld.macFiltKeyEtype (fld b uQcp Fld.qcpEtypeValue) (setFld u Fld.macFiltKeyValid 1 (setReg u (Off.macFiltKey 0) 0 b) 0) 0
  let b := setFld u Fld.macFiltActQueue 1 (setFld u Fld.macFiltActPcpmask 0xFF (setFld u Fld.macFiltActEtypeEn 1 (setReg u (Off.macFiltAct 0) 0 b) 0) 0) 0
  setFld u Fld.macRxqCfgConsumer 1 b 1) b

/-- The firmware's set-up: filters, queues and links (Table 14.3 step 10). -/
def firmwareSetup (b : Block) : Block :=
  steerQcp <| Config.firmwareBytes.foldl (fun b p => (engineWrite uReeve p.1 p.2 b).2) (Config.firmwareRegs.foldl (fun b r => setReg r.1 r.2.1 r.2.2 b) b)

/-- BOOT_ACTION_END: the action's outcome is published; a load must have ended. START leaves the module at STARTED in BOOT; with no action running there,
the command is the end of the firmware's set-up, which makes the device READY (log entry 47). -/
def bootActionEnd (b : Block) : Block := match b.boot.running with
  | none => if bootStage b = 6 ∧ devState b = dsBoot then setDevState dsReady (firmwareSetup b) else b
  | some a =>
    if a.act = 3 ∧ !b.boot.loads.isEmpty then b
    else
      let b := modBoot (fun x => { x with running := none }) b
      let b := if a.act = 4 then (List.range 64).foldl (fun b t => modTile t (fun x => { x with selfTest := false }) b) b else b
      let b := if a.status = .ok then setFld uChip Fld.sysBootStageStage (stageAfter a.act) b else b
      let res := statusCode a.status * 2 ^ 28 + a.act * 2 ^ 24 + a.detail
      let b := setReg uChip Off.sysBootResult res (setFld uChip Fld.sysBootStageBusy 0 b)
      let b := tallyRecord 7 .tlyBootAction res b
      let b := if a.status = .ok then notify uChip Fld.sysBootStatusDone .sysBootDone (res % 2 ^ 28) b
        else notify uChip Fld.sysBootStatusFailed .sysBootFail res b
      if a.act = 0 ∧ a.status = .ok then releaseLinks b else b

end Sys2Proof.Machine
end

