-- ==== Sys2Proof/Machine/Security.lean ====
section
/-! DEFINITION. Operator keys, limited changes, the attestation report, scrubbing and debug (chapter 15). -/

namespace Sys2Proof.Machine

/-! ### Operator keys (R523 to R526) -/

def keySlot (b : Block) (n : Nat) : Option (List Byte) := b.tly.store.keys.find n

/-- A claimable module has no operator key (R500). -/
def unclaimed (b : Block) : Bool := b.tly.store.keys.isEmpty

def zeros (n : Nat) : List Byte := List.replicate n 0

/-- An accepted enrolment: counted and recorded, then the slot changes. The security unit reports it while the main die is powered. -/
def enrol (slot : Nat) (pub : List Byte) (b : Block) : Status × Block :=
  let old := b.tly.store.enrols
  if 16 ≤ old then
    (.noResource, if mainOn b then notify uSec Fld.secStatusLimitRefused .secLimitRefused 0 b else b)
  else
    let b := limitRecord 0 0 old b
    let empty := pub == zeros 32
    let b := modTly (fun t => { t with store := { t.store with
      enrols := old + 1
      keys := if empty then t.store.keys.drop slot else t.store.keys.put slot pub } }) b
    (.ok, if mainOn b then notify uSec Fld.secStatusEnrolled .secEnrol (slot + b2n empty * 2 ^ 8) b else b)

/-- ENROL_KEY's own checks (R524). -/
def enrolKey (sessSlot slot : Nat) (pub : List Byte) (b : Block) : Status × Block :=
  if sessSlot ≠ 0 then (.authFailed, b)
  else if 15 < slot ∨ (slot = 0 ∧ pub = zeros 32) then (.badArgument, b)
  else enrol slot pub b

/-- SEC_STATE, SEC_FLOOR, SEC_LIMITS and SEC_IDKEY as they read. -/
def secState (b : Block) : Nat :=
  let m := b.tly.store.keys.foldl (fun n p => n + 2 ^ p.1) 0
  reg b uSec Off.secState / 2 ^ 27 * 2 ^ 27 + b.tly.store.keys.length * 2 ^ 16 + m
def secLimits (b : Block) : Nat := b.tly.store.enrols * 2 ^ 16 + b.tly.store.floorIncs
def secIdKey (b : Block) (n : Nat) : Nat := if idOk b then leAt identityPub (4 * n) 4 else 0

/-! ### The anti-rollback floor (R542) -/

def floorRaise (v : Nat) (b : Block) : Block :=
  let f := b.tly.store.floor
  let used := b.tly.store.floorIncs
  if v ≤ f ∨ b.boot.fwSvn < v ∨ 4096 < used + (v - f) then notify uSec Fld.secStatusLimitRefused .secLimitRefused 1 b
  else
    let b := bbRecord 3 .tlyLimitChange (leBytes 4 1 ++ leBytes 4 used ++ leBytes 4 (used + (v - f))) b
    notify uSec Fld.secStatusFloorRaised .secFloorRaised v
      (modTly (fun t => { t with store := { t.store with floor := v, floorIncs := used + (v - f) } }) b)

/-! ### Entropy and debug (R529, R546, R547) -/

def rngFail (b : Block) : Block :=
  if !rngOk b then b else notify uSec Fld.secStatusRngFail .secRngFail 0 (setFld uSec Fld.secStateRngOk 0 b)

/-- Set the flags of a debug attachment. -/
def debugFlags (jtag trace : Bool) (b : Block) : Block :=
  let b := setFld uSec Fld.secStateDebug 1 b
  let b := if jtag then setFld uSec Fld.secStateJtag 1 b else b
  let b := if trace then setFld uSec Fld.secStateTrace 1 b else b
  notify uSec Fld.secStatusDebugAttached .secDebugAttached (b2n jtag + b2n trace * 2) b

/-- A JTAG instruction other than IDCODE and BYPASS. -/
def jtagInstr (b : Block) : Block := debugFlags true false b

/-- DEBUG: enables what its bits ask for. -/
def debugCmd (bits : Nat) (b : Block) : Block :=
  if bits % 4 = 0 then b
  else
    let b := modBoot (fun x => { x with jtag := x.jtag || bitOf bits 0, trace := x.trace || bitOf bits 1 }) b
    debugFlags (bitOf bits 0) (bitOf bits 1) b

/-! ### Scrubbing (R543, R544) -/

/-- The granary lines of a frame an access can reach (R232, R234). -/
def reachLines (b : Block) (f : Nat) : List Nat :=
  if frameThere b f then ((List.range 32768).map (· + 32768 * f)).filter fun l => (servedAt b (64 * l)).isSome else []

/-- The lines of the named frames that are redirected. -/
def redirectedLines (sel : Nat → Bool) (b : Block) : List Nat :=
  if b.grn.retired.isEmpty then [] else (((List.range (2 ^ 21)).filter sel).flatMap (reachLines b)).filter fun l => isRedirected b (64 * l)

/-- Write every reachable line of the frames a test names with zero data and LTAG 0, which clears poison too. -/
def scrub (sel : Nat → Bool) (b : Block) : Block :=
  let hit (l : Nat) : Bool := decide (l < granarySize / 64) && sel (l / 32768) && frameThere b (l / 32768) && (servedAt b (64 * l)).isSome
  let b := { b with grn := { b.grn with
    mem := b.grn.mem.filter fun c => !(hit (c.1 / 64))
    ltag := b.grn.ltag.filter fun p => !(hit p.1)
    marks := b.grn.marks.filter fun p => !(hit p.1) } }
  { b with grn := { b.grn with rewritten := (redirectedLines sel b).foldl (fun r l => r.put l ()) b.grn.rewritten } }

/-- The bytes a scrub of the named frames writes. -/
def scrubBytes (sel : Nat → Bool) (b : Block) : Nat :=
  (List.range (2 ^ 21)).foldl (fun n f => if sel f then n + 64 * (reachLines b f).length else n) 0

/-- Is the frame owned by the job slot? -/
def ownedBy (b : Block) (j f : Nat) : Bool := bitOf (frameEntry b f) 35 && bitsOf (frameEntry b f) 34 32 == j

/-- Does a frame-table entry stand in the granary? -/
def isSystem (b : Block) (f : Nat) : Bool := bitOf (frameEntry b f) 39

/-- Scrub a job's frames, then return each to its free list; no tile translates to its pages any more (R296). -/
def scrubJob (j : Nat) (b : Block) : Block :=
  let b := invalidateJob (· == j) b
  let mine := (List.range (2 ^ 21)).filter (ownedBy b j)
  let b := bump uSec Off.secScrubBytesLo (scrubBytes (ownedBy b j) b) (scrub (ownedBy b j) b)
  let b := mine.foldl (fun b f =>
    if bitOf (frameEntry b f) 36 then freeTensor f b
    else (List.range 32).foldl (fun b k => freePage (32 * f + k) b) b) b
  notify uSec Fld.secStatusScrubDone .secScrubDone (j * 2 ^ 29) (retryAllocs b)

/-- RELEASE's scrub: every frame that is not SYSTEM. -/
def scrubAll (b : Block) : Block :=
  let sel (f : Nat) : Bool := !isSystem b f
  notify uSec Fld.secStatusScrubDone .secScrubDone 1 (bump uSec Off.secScrubBytesLo (scrubBytes sel b) (scrub sel b))

/-! ### Attestation (R530 to R534) -/

def jobSlotOf (b : Block) (j : Nat) : Option JobSlot := b.qcp.jobs.find j

/-- The configuration record (Table 15.4). -/
def configRecord (b : Block) : List Byte :=
  ((List.range 16).flatMap fun n => (keySlot b n).getD (zeros 32)) ++ [BitVec.ofNat 8 (b2n Config.variantAA), 0] ++
    leBytes 2 (fld b uPwr Fld.pwrCapWatts) ++ leBytes 1 (ownLmin b) ++ leBytes 1 (ownLmax b) ++ leBytes 2 (ownAbi b) ++
    (List.range 8).flatMap fun j => match jobSlotOf b j with
      | none => zeros 96
      | some x => [1, BitVec.ofNat 8 (b2n x.train + 2 * b2n x.spare), BitVec.ofNat 8 x.ownerSlot, 0] ++ leBytes 4 x.jobId ++
          leBytes 2 (ownRank b j) ++ zeros 6 ++ x.image ++ zeros 16

def progBytes (p : ProgRec) : List Byte :=
  leBytes 1 p.kind ++ leBytes 1 p.job ++ leBytes 1 p.region ++ [0] ++ leBytes 4 p.bytes ++ leBytes 8 p.off ++ p.digest

def tensorBytes (t : TensorRec) : List Byte := leBytes 1 t.job ++ zeros 7 ++ leBytes 8 t.off ++ leBytes 8 t.bytes ++ t.digest

/-- The attestation report, signature included. -/
def attestReport (nonce : List Byte) (b : Block) : List Byte :=
  let ps := b.boot.programs
  let ts := b.boot.tensors
  let len := 512 + 80 * ps.length + 88 * ts.length + 64
  let st := reg b uSec Off.secState
  let head :=
    leBytes 4 0x5158_4154 ++ leBytes 4 len ++ [1] ++ leBytes 1 (ownRev b) ++
    leBytes 1 (b2n (bitOf st 30) + 2 * b2n (bitOf st 29) + 4 * b2n (bitOf st 28)) ++ leBytes 1 (b2n Config.variantAA) ++
    leBytes 4 Config.romRevision ++ leBytes 4 b.tly.store.floor ++ leBytes 4 b.boot.fwSvn ++ leBytes 8 b.boot.fwVersion ++
    identityPub ++ nonce ++ tallyPub ++ edSign identityKey (tallyPub ++ identityPub) ++ b.boot.fwDigest ++ sha512 (configRecord b) ++
    leBytes 2 b.tly.store.enrols ++ leBytes 2 b.tly.store.floorIncs ++
    ((List.range 32).flatMap fun s => leBytes 2 (b.grn.mapUsed.get 0 s)) ++
    ((List.range 24).flatMap fun l => leBytes 1 (b.tly.store.laneUsed.get 0 l)) ++
    leBytes 4 b.face.time ++ leBytes 2 ps.length ++ leBytes 2 ts.length
  let body := (head ++ zeros 512).take 512 ++ ps.flatMap progBytes ++ ts.flatMap tensorBytes
  body ++ edSign identityKey (sha512 body)

/-- The tensor digest of a range: SHA-512 of the chunk digests (R532). -/
def tensorDigest (l : List Byte) : List Byte :=
  sha512 ((List.range ((l.length + 2 ^ 22 - 1) / 2 ^ 22)).flatMap fun i => sha512 ((l.drop (2 ^ 22 * i)).take (2 ^ 22)))

/-- Tensor records stand in ascending job slot, then ascending OFFSET (R531). -/
def insertTensor (t : TensorRec) : List TensorRec → List TensorRec
  | [] => [t]
  | x :: r => if t.job < x.job ∨ (t.job = x.job ∧ t.off < x.off) then t :: x :: r else x :: insertTensor t r

/-- COMMIT's record (R533): NO_RESOURCE past 4,096 records. -/
def commitTensor (t : TensorRec) (b : Block) : Status × Nat × Block :=
  let left := b.boot.tensors.filter fun x => !(x.job == t.job && overlaps x.off x.bytes t.off t.bytes)
  if 4096 ≤ left.length then (.noResource, 0, b)
  else
    let all := insertTensor t left
    (.ok, all.findIdx (· == t), modBoot (fun x => { x with tensors := all }) b)

/-- LOAD_PROGRAM's record; NO_RESOURCE past 1,024. -/
def addProgram (p : ProgRec) (b : Block) : Option Block :=
  if 1024 ≤ b.boot.programs.length then none else some (modBoot (fun x => { x with programs := x.programs ++ [p] }) b)

end Sys2Proof.Machine
end

