-- ==== Sys2Proof/Machine/QcpWire.lean ====
section
/-! DEFINITION. QCP and register-access frames on the wire (R431 to R439, R497): carriers, the header, the tag, the sessions' counters and keys. -/

namespace Sys2Proof.Machine

/-! ### Carriers -/

/-- The Internet checksum's sum of 16-bit words (RFC 1071). -/
def onesSum : List Byte → Nat
  | [] => 0
  | [x] => x.toNat * 256
  | x :: y :: r => x.toNat * 256 + y.toNat + onesSum r

def foldCarry (n : Nat) : Nat := let m := n % 65536 + n / 65536; m % 65536 + m / 65536
def inetSum (l : List Byte) : Nat := foldCarry (onesSum l)
def inetCheck (l : List Byte) : Nat := 0xFFFF - inetSum l

/-- QCP_IPV4 and QCP_IPV6 in network order. -/
def ownIp4 (b : Block) : List Byte := beBytes 4 (reg b uQcp Off.qcpIpv4)
def ownIp6 (b : Block) : List Byte := beBytes 16 ((List.range 4).foldl (fun n i => n + reg b uQcp (Off.qcpIpv6 i) * 2 ^ (32 * i)) 0)

/-- The pseudo header of a UDP datagram. -/
def pseudo (src dst : List Byte) (len : Nat) : List Byte :=
  src ++ dst ++ (if src.length = 4 then [0, 17] ++ beBytes 2 len else beBytes 4 len ++ [0, 0, 0, 17])

def udpOk (src dst seg : List Byte) : Bool := inetSum (pseudo src dst seg.length ++ seg) == 0xFFFF

/-- The far address and port, and the payload, of a UDP datagram for this device; none where R431 discards it. -/
def udpIn (b : Block) (etype : Nat) (p : List Byte) : Option (List Byte × Nat × List Byte) :=
  let port := fld b uQcp Fld.qcpUdpValue
  if etype = 0x0800 then
    let len := beNat ((p.drop 2).take 2)
    let seg := (p.take len).drop 20
    let n := beNat ((seg.drop 4).take 2)
    let src := (p.drop 12).take 4
    if p.headD 0 ≠ 0x45 ∨ beNat ((p.drop 6).take 2) % 0x4000 ≠ 0 ∨ p.getD 9 0 ≠ 17 ∨ !flag b uQcp Fld.qcpCtrlUdp4En ∨ ownIp4 b = zeros 4 ∨
        (p.drop 16).take 4 ≠ ownIp4 b ∨ beNat ((seg.drop 2).take 2) ≠ port ∨ seg.length < 8 ∨ n ≠ seg.length then none
    else if beNat ((seg.drop 6).take 2) ≠ 0 ∧ !udpOk src (ownIp4 b) seg then none
    else some (src, beNat (seg.take 2), seg.drop 8)
  else if etype = 0x86DD then
    let len := beNat ((p.drop 4).take 2)
    let seg := (p.drop 40).take len
    let src := (p.drop 8).take 16
    if p.getD 6 0 ≠ 17 ∨ !flag b uQcp Fld.qcpCtrlUdp6En ∨ ownIp6 b = zeros 16 ∨ (p.drop 24).take 16 ≠ ownIp6 b ∨
        beNat ((seg.drop 2).take 2) ≠ port ∨ seg.length < 8 ∨ beNat ((seg.drop 4).take 2) ≠ seg.length ∨ !udpOk src (ownIp6 b) seg then none
    else some (src, beNat (seg.take 2), seg.drop 8)
  else none

/-- The C-VLAN tag a frame carries, or nothing. -/
def tagBytes (f : List Byte) : List Byte := if beNat ((f.drop 12).take 2) = 0x8100 then (f.drop 12).take 4 else []

/-- The flow and the QCP bytes of a frame at a front-end port (R431); none where the engine does not take it. -/
def qcpIn (b : Block) (port : Nat) (f : List Byte) : Option (Flow × List Byte) :=
  let h := ethHead 0 f
  let p := ethPayload h f
  let mac := (f.drop 6).take 6
  if h.etype = fld b uQcp Fld.qcpEtypeValue ∧ flag b uQcp Fld.qcpCtrlEthEn ∧ h.da = macAddrOf b (uFe port) then some (⟨port, mac, tagBytes f, [], 0⟩, p)
  else (udpIn b h.etype p).map fun r => (⟨port, mac, tagBytes f, r.1, r.2.1⟩, r.2.2)

/-- The flow and the bytes of a register-access frame (R497). -/
def raIn (port : Nat) (f : List Byte) : Option (Flow × List Byte) :=
  let h := ethHead 0 f
  if h.etype = 0x88B7 then some (⟨port, (f.drop 6).take 6, tagBytes f, [], 0⟩, ethPayload h f) else none

/-- The IPv4 or IPv6 and UDP headers before a payload (log entry 49). -/
def udpOut (b : Block) (fl : Flow) (p : List Byte) : List Byte :=
  let len := 8 + p.length
  let src := if fl.ip.length = 4 then ownIp4 b else ownIp6 b
  let head := beBytes 2 (fld b uQcp Fld.qcpUdpValue) ++ beBytes 2 fl.udp ++ beBytes 2 len
  let c := inetCheck (pseudo src fl.ip len ++ head ++ [0, 0] ++ p)
  let udp := head ++ beBytes 2 (if c = 0 then 0xFFFF else c) ++ p
  if fl.ip.length = 4 then
    let ip (c : Nat) : List Byte := [0x45, 0] ++ beBytes 2 (20 + len) ++ [0, 0, 0x40, 0, 64, 17] ++ beBytes 2 c ++ src ++ fl.ip
    ip (inetCheck (ip 0)) ++ udp
  else [0x60, 0, 0, 0] ++ beBytes 2 len ++ [17, 64] ++ src ++ fl.ip ++ udp

/-- The class of a flow: its tag's, or the port's DEFPRI where it has none. -/
def flowClass (fl : Flow) (b : Block) : Nat :=
  if fl.tag = [] then fld b (uFe fl.port) Fld.macCtrlDefpri else beNat ((fl.tag.drop 2).take 2) / 2 ^ 13

/-- Send bytes on a flow, under its class. -/
def flowSend (ra : Bool) (fl : Flow) (p : List Byte) (b : Block) : Block :=
  let etype := if fl.ip ≠ [] then (if fl.ip.length = 4 then 0x0800 else 0x86DD) else if ra then 0x88B7 else fld b uQcp Fld.qcpEtypeValue
  let body := if fl.ip ≠ [] then udpOut b fl p else p
  if 2 ≤ fl.port then ringSend (fl.port - 2) (fl.mac ++ tallyMac ++ fl.tag ++ beBytes 2 etype ++ body) b
  else
    let u := uFe fl.port
    (macSend u (flowClass fl b) (fl.mac ++ beBytes 6 (macAddrOf b u) ++ fl.tag ++ beBytes 2 etype ++ body) b).2

/-! ### The frame (Table 12.1, R433) -/

/-- The header of a frame. -/
structure QHead where
  dev : Bool
  more : Bool
  op : Nat
  sess : Nat
  seq : Nat
  queue : Nat
  len : Nat
  param : List Byte
deriving DecidableEq, Repr

def QHead.bytes (h : QHead) : List Byte :=
  [1, BitVec.ofNat 8 (b2n h.dev + 2 * b2n h.more)] ++ leBytes 2 h.op ++ leBytes 4 h.sess ++ leBytes 8 h.seq ++ leBytes 4 h.queue ++
    leBytes 2 h.len ++ [0, 0] ++ (h.param ++ zeros 8).take 8

/-- Parse a frame: its header, payload and tag; none where R432 discards it. -/
def qcpParse (l : List Byte) : Option (QHead × List Byte × List Byte) :=
  let len := leAt l 20 2
  if l.length < 48 ∨ leAt l 0 1 ≠ 1 ∨ 4 ≤ leAt l 1 1 ∨ 2 ^ 18 ≤ leAt l 16 4 ∨ leAt l 22 2 ≠ 0 ∨ 8960 < len ∨ l.length ≠ 48 + len then none
  else some (⟨bitOf (leAt l 1 1) 0, bitOf (leAt l 1 1) 1, leAt l 2 2, leAt l 4 4, leAt l 8 8, leAt l 16 4, len, (l.drop 24).take 8⟩,
    (l.drop 32).take len, l.drop (32 + len))

def qcpNonce (seq : Nat) (dev : Bool) : List Byte := leBytes 8 seq ++ [BitVec.ofNat 8 (b2n dev), 0, 0, 0]

/-- A frame in the clear, its tag zeros. -/
def clearFrame (op : Nat) (param p : List Byte) : List Byte := (QHead.mk true false op 0 0 0 p.length param).bytes ++ p ++ zeros 16

/-- An engine counter; the engine's registers are the main die's. -/
def qcount (off : Nat) (b : Block) : Block := if mainOn b then bump uQcp off 1 b else b

def sessOf (b : Block) (id : Nat) : Option Sess := b.qcp.sessions.find? fun s => s.id = id
def putSess (s : Sess) (b : Block) : Block := modQcp (fun q => { q with sessions := q.sessions.map fun x => if x.id = s.id then s else x }) b

/-- Send a protected frame in a session; nothing once the session is closed. -/
def sessSend (id : Nat) (fl : Flow) (op queue : Nat) (param p : List Byte) (more : Bool) (b : Block) : Block := match sessOf b id with
  | none => b
  | some s =>
    let seq := s.txSeq + 1
    let h : QHead := ⟨true, more, op, id, seq, queue, p.length, param⟩
    let c := gcmSeal s.kOut (qcpNonce seq true) h.bytes p
    let b := putSess { s with txSeq := seq } b
    flowSend s.ra fl (h.bytes ++ c.1 ++ c.2) (if s.ra then b else qcount Off.qcpTxFramesLo b)

/-- QCP_AUTH_FAIL, at most once per second (R434). -/
def authEvent (id : Nat) (b : Block) : Block :=
  let due := match b.qcp.authEvtAt with
    | none => true
    | some t => decide (t + 1000000 ≤ b.face.time)
  if due && mainOn b then
    notify uQcp Fld.qcpStatusAuthFail .qcpAuthFail (id % 2 ^ 28) (modQcp (fun q => { q with authEvtAt := some b.face.time }) b)
  else b

/-- Is a SEQ acceptable (R434)? -/
def seqOk (s : Sess) (seq : Nat) : Bool :=
  decide (s.rxHigh < seq) || (decide (0 < seq) && decide (s.rxHigh < seq + 4096 + 1) && !s.rxSeen.contains seq)

/-- Note an accepted SEQ. -/
def seqTake (seq : Nat) (s : Sess) : Sess :=
  let high := max s.rxHigh seq
  { s with rxHigh := high, rxSeen := (seq :: s.rxSeen).filter fun x => decide (high ≤ x + 4096) }

/-- Authenticate a protected frame for a server (R433, R434): the session and the payload, or a count. -/
def sessTake (ra ring : Bool) (fl : Flow) (h : QHead) (c tag : List Byte) (b : Block) : Option (Sess × List Byte) × Block :=
  match sessOf b h.sess with
  | none => (none, qcount Off.qcpNosessDropLo b)
  | some s =>
    if s.ra ≠ ra ∨ s.ring ≠ ring then (none, qcount Off.qcpNosessDropLo b)
    else match gcmOpen s.kIn (qcpNonce h.seq false) h.bytes c tag with
    | none => (none, authEvent h.sess (qcount Off.qcpAuthFailLo b))
    | some p =>
      if !seqOk s h.seq then (none, qcount Off.qcpReplayDropLo b)
      else
        let s := { seqTake h.seq s with flow := fl, lastAt := b.face.time }
        (some (s, p), putSess s b)

/-! ### Opening and closing (R435, R436, R500, R527, R528) -/

/-- Frames of one kind in the last second. -/
def recent (b : Block) (l : List Nat) : List Nat := l.filter fun t => decide (b.face.time < t + 1000000)

def refuse (ra : Bool) (fl : Flow) (s : Status) (b : Block) : Block :=
  flowSend ra fl (clearFrame (if ra then 0x0103 else 0x0003) (leBytes 2 (statusCode s)) []) (if ra then b else qcount Off.qcpTxFramesLo b)

/-- A session's first subscription admits severities error and fault from every block (R450). -/
def acceptSess (ra ring : Bool) (fl : Flow) (slot : Nat) (pub p : List Byte) (b : Block) : Block :=
  let d := drawEntropy b
  let n := drawEntropy d.2
  let b := n.2
  let devNonce := n.1.take 16
  let hostNonce := (p.drop 40).take 16
  let id := b.qcp.nextSess
  match sessionKeys (if ra then "RA" else "QCP") d.1 (p.take 32) hostNonce devNonce id with
  | none => refuse ra fl .authFailed b
  | some k =>
    let body := x25519Public d.1 ++ leBytes 1 (devState b) ++ zeros 3 ++ leBytes 4 id ++ hostNonce ++ devNonce ++ identityDigest.take 8
    let sig := edSign (if ring then Config.tallyKey else identityKey) (p ++ body)
    let s : Sess := ⟨id, ra, ring, ra && !ring && decide (bootStage b < 6), slot, pub, k.1, k.2, 0, 0, [], fl, b.face.time, 2, 2 ^ 32 - 1, 0, [], []⟩
    let b := modQcp (fun q => { q with sessions := q.sessions ++ [s], nextSess := id % (2 ^ 32 - 1) + 1 }) b
    let b := if ra then b else notify uQcp Fld.qcpStatusSessionOpen .qcpSessionOpen (slot * 2 ^ 28 + id % 2 ^ 28) b
    flowSend ra fl (clearFrame (if ra then 0x0102 else 0x0002) [] (body ++ sig)) (if ra then b else qcount Off.qcpTxFramesLo b)

/-- Sessions a server holds. -/
def sessCount (ra ring : Bool) (b : Block) : Nat := (b.qcp.sessions.filter fun s => s.ra == ra && s.ring == ring).length

/-- Handle an OPEN or RA_OPEN of a server. -/
def openSess (ra ring : Bool) (fl : Flow) (p : List Byte) (b : Block) : Block :=
  let past := recent b (if ra then (b.qcp.raOpens.filter fun o => o.1 == ring).map (·.2) else b.qcp.opens)
  let slot := leAt p 32 1
  if p.length ≠ 120 ∨ leAt p 33 7 ≠ 0 ∨ 100 ≤ past.length then qcount Off.qcpRxBadLo b
  else
    let b := modQcp (fun q => if ra then { q with raOpens := (q.raOpens.filter fun o => o.1 != ring) ++ (past ++ [b.face.time]).map fun t => (ring, t) } else { q with opens := past ++ [b.face.time] }) b
    if (!ring && !idOk b) || !rngOk b then refuse ra fl .opFailed b
    else match keySlot b slot with
    | none => refuse ra fl .authFailed b
    | some pub =>
      if !edVerify pub (p.take 56) (p.drop 56) then refuse ra fl .authFailed b
      else if (if ra then 2 else 64) ≤ sessCount ra ring b then refuse ra fl .noResource b
      else acceptSess ra ring fl slot pub p b

/-- An RA_CLAIM (R500): on the ring, of a module no key is enrolled in; in any other case it is answered with AUTH_FAILED, but
with NO_RESOURCE once 16 enrolments are counted (R525). While the entropy source has failed it is refused as an RA_OPEN is (R529; log entry 25). -/
def claimSess (ring : Bool) (fl : Flow) (p : List Byte) (b : Block) : Block :=
  let pub := (p.drop 56).take 32
  if !rngOk b then refuse true fl .opFailed b
  else if p.length ≠ 152 ∨ leAt p 33 7 ≠ 0 ∨ !ring ∨ !unclaimed b ∨ leAt p 32 1 ≠ 0 ∨ pub = zeros 32 ∨ !edVerify pub (p.take 88) (p.drop 88) then refuse true fl .authFailed b
  else if 2 ≤ sessCount true true b then refuse true fl .noResource b
  else
    let r := enrol 0 pub b
    if r.1 ≠ .ok then refuse true fl r.1 r.2 else acceptSess true true fl 0 pub p r.2

/-- Close a session; a QCP session's end raises QCP_SESSION_CLOSE. -/
def closeSess (id : Nat) (idle : Bool) (b : Block) : Block := match sessOf b id with
  | none => b
  | some s =>
    let b := modQcp (fun q => { q with
      sessions := q.sessions.filter fun x => x.id != id
      named := q.named.filter fun n => n.2 != id
      ra := q.ra.filter fun r => r.sess != id }) b
    if s.ra then b else notify uQcp Fld.qcpStatusSessionClose .qcpSessionClose (b2n idle * 2 ^ 31 + id % 2 ^ 28) b

/-- SESSION_IDLE_CLOSE: IDLE seconds, or 60 for a bring-up session, without an authentic frame. -/
def idleClose (id : Nat) (b : Block) : Block := match sessOf b id with
  | none => b
  | some s =>
    if !(s.ring || mainOn b) then b else
    let secs := if s.ra then 60 else max 1 (fld b uQcp Fld.qcpCtrlIdle)
    if s.lastAt + secs * 1000000 ≤ b.face.time then closeSess id true b else b

/-- The device closes a session: its CLOSE leaves first (R436). -/
def sendClose (s : Sess) (b : Block) : Block :=
  closeSess s.id false (sessSend s.id s.flow (if s.ra then 0x0104 else 0x0004) 0 [] [] false b)

/-- After an ENROL_KEY: sessions opened under a slot's former key close (R526). -/
def closeKey (slot : Nat) (b : Block) : Block :=
  (b.qcp.sessions.filter fun s => s.slot == slot && keySlot b slot != some s.pub).foldl (fun b s => sendClose s b) b

end Sys2Proof.Machine
end

