-- ==== Sys2Proof/Machine/ScaleClose.lean ====
section
/-! DEFINITION. The close of a scale table (R125 to R131, R139, R140, R605). -/

namespace Sys2Proof.Machine

def runFields (e : List Byte) : RunFields := ⟨leAt e 4 4, leAt e 16 8, leAt e 24 8, leAt e 32 8⟩

/-- The outcome of closing one entry: its new bytes, the flags, and the run fields closed over. -/
structure Closed where
  bytes : List Byte
  high : Bool
  low : Bool
  satOver : Bool
  undOver : Bool
  clamped : Bool
  adapted : Bool
  alarm : Bool
  ecode : Nat
  run : RunFields
deriving DecidableEq, Repr

/-- The formats whose entries have a misfit test: the element formats that take a per-tensor scale (R126, Table 4.1). -/
def misfitFmt (code : Nat) : Bool := !(decide (3 ≤ code) && decide (code ≤ 8)) && decide (code < 0xC)

/-- E′ before the clamp is outside −127 … 127: the clamp test of Table 4.4. -/
def scaleClamped (a : FV) (f : Fmt) (margin : Nat) : Bool := match a with
  | .num _ m e =>
    let raw := topExp (fmtTop f false) (fmtTopUlp f) - topExp m e
    let k : Int := 200
    let sa := m * 2 ^ (e - topExp m e + k).toNat
    let sm := fmtTop f false * 2 ^ (fmtTopUlp f - topExp (fmtTop f false) (fmtTopUlp f) + k).toNat
    let x := raw - (if sm < sa then 1 else 0) - margin
    m != 0 && (decide (x < -127) || decide (127 < x))
  | _ => false

/-- A pending scale-set writes its fields after step 4 (R131). -/
def applySet (s : ScaleSet) (e : List Byte) : List Byte :=
  let w0 := leAt e 0 4
  let w0 := withBits w0 7 0 s.w0
  let w0 := withBits w0 20 20 (bitsOf s.w0 20 20)
  let w0 := withBits w0 26 22 (bitsOf s.w0 26 22)
  leBytes 4 w0 ++ (e.drop 4).take 8 ++ leBytes 4 s.w3 ++ (e.drop 16).take 24 ++ leBytes 4 s.step ++ e.drop 44

/-- Run fields over the modules of a job: the maximum of AMAX_RUN and the sums of the counts (R129). -/
def RunFields.join (x y : RunFields) : RunFields := ⟨max x.amax y.amax, (x.sat + y.sat) % 2 ^ 64, (x.und + y.und) % 2 ^ 64, (x.elem + y.elem) % 2 ^ 64⟩

/-- Close one entry for step `n` (Table 4.4, steps 2 to 4); `others` are the run fields of the job's other modules. -/
def closeEntry (n : Nat) (others : List RunFields) (set' : Option ScaleSet) (e : List Byte) : Closed :=
  let w0 := leAt e 0 4
  let ecode := bitsOf w0 7 0
  let code := bitsOf w0 19 16
  let alarm := bitOf w0 20
  let r := if bitOf w0 21 then others.foldl RunFields.join (runFields e) else runFields e
  let E : Int := (ecode : Int) - 127
  let tested := misfitFmt code && finiteNonneg r.amax && r.amax != 0
  let f := (fmtOf code).getD fmtF32
  let E' := if tested then scaleExp (f32 r.amax) f (bitsOf w0 23 22) else E
  let clamped := tested && scaleClamped (f32 r.amax) f (bitsOf w0 23 22)
  let high := tested && decide (E' < E)
  let low := tested && decide (E + bitsOf w0 26 24 < E')
  let satOver := decide (leAt e 12 2 * r.elem < r.sat * 1000000)
  let undOver := decide (leAt e 14 2 * r.elem < r.und * 1000000)
  let adapted := (high || low) && !alarm
  let ecode' := if adapted then (E' + 127).toNat else ecode
  let misfits := if high || low then min 0xFFFF (leAt e 46 2 + 1) else 0
  let flags := b2n high + 2 * b2n low + 4 * b2n satOver + 8 * b2n undOver + 16 * b2n clamped + 32 * b2n adapted
  let w0' := withBits (withBits w0 15 8 ecode) 7 0 ecode'
  let bytes := leBytes 4 w0' ++ leBytes 4 0 ++ leBytes 4 r.amax ++ leBytes 4 (leAt e 12 4) ++ List.replicate 24 0 ++
    leBytes 4 (if ecode' = ecode then leAt e 40 4 else n + 1) ++ leBytes 4 (flags + misfits * 2 ^ 16) ++
    leBytes 8 (leAt e 48 8 + r.sat) ++ leBytes 8 (leAt e 56 8 + r.und)
  let bytes := match set' with
    | some s => applySet s bytes
    | none => bytes
  ⟨bytes, high, low, satOver, undOver, clamped, adapted, alarm, ecode', r⟩

/-- The number of entries of a slot's table, none while ENABLE is 0 (R114), and its base. -/
def sclSize (b : Block) (j : Nat) : Nat := if flag b uTrn Fld.trnSclCtrlEnable j then fld b uTrn Fld.trnSclCtrlSize j + 1 else 0
def sclBase (b : Block) (j : Nat) : Nat := reg b uTrn (Off.trnSclBaseLo j) + 2 ^ 32 * reg b uTrn (Off.trnSclBaseHi j)

/-- The engine's own access to a job's granary. -/
def trnIssuer (j : Nat) : Issuer := ⟨uTrn, some j, true, false⟩

/-- Close the entries from `i` on, in order: the outcomes, and whether every entry was read and written (R605). `scope` holds the run fields the job's
other modules have for an entry, one for each module (R129). -/
def closeEntries (j n : Nat) (scope : List (Nat × RunFields)) : Nat → Nat → Block → List (Nat × Closed) × Bool × Block
  | 0, _, b => ([], true, b)
  | k + 1, i, b =>
    let a := sclBase b j + 64 * i
    let r := granaryRead { trnIssuer j with job := none } a 64 b
    if r.1 ≠ .ok then ([], false, r.2.2)
    else
      let set' := (trnOf r.2.2 j).sets.reverse.find? fun s => s.entry = i ∧ s.step = n + 1
      let c := closeEntry n ((scope.filter fun s => s.1 = i).map (·.2)) set' r.2.1
      let w := granaryWrite { trnIssuer j with job := none } a c.bytes (some (tagOf r.2.2 (a / 64))) r.2.2
      if w.1 ≠ .ok then ([], false, w.2)
      else
        let rest := closeEntries j n scope k (i + 1) w.2
        ((i, c) :: rest.1, rest.2)

def sat16 (n : Nat) : Nat := min 0xFFFF n

/-- The chaff summary (Table 4.9). -/
def chaffSummary (cs : List (Nat × Closed)) : List Byte :=
  let sum (f : RunFields → Nat) : Nat := (cs.map fun c => f c.2.run).sum % 2 ^ 64
  let count (p : Closed → Bool) : Nat := sat16 (cs.filter fun c => p c.2).length
  leBytes 8 (sum (·.sat)) ++ leBytes 8 (sum (·.und)) ++ leBytes 8 (sum (·.elem)) ++ leBytes 2 (count (·.satOver)) ++
    leBytes 2 (count (·.undOver)) ++ leBytes 2 (count (·.adapted)) ++ leBytes 2 (count fun c => c.alarm && (c.high || c.low))

/-- One kind of event at a close: its status bit once, the event for at most the 16 lowest entries (R139). -/
def closeEvent (j : Nat) (f : Field) (e : Ev) (p : Closed → Bool) (arg : Closed → Nat) (cs : List (Nat × Closed)) (b : Block) : Block :=
  let l := cs.filter fun c => p c.2
  let b := if l.isEmpty then b else setSq uTrn f b j
  (l.take 16).foldl (fun b c => raise uTrn e (j * 2 ^ 29 + arg c.2 + c.1) b) b

/-- Every event of a close, TRN_SCL_STEP and TRN_SCL_FLAGGED. -/
def closeEvents (j stepNo : Nat) (cs : List (Nat × Closed)) (b : Block) : Block :=
  let b := closeEvent j Fld.trnSclStatusSatOver .trnChaffSat (·.satOver) (fun _ => 0) cs b
  let b := closeEvent j Fld.trnSclStatusUndOver .trnChaffUnd (·.undOver) (fun _ => 0) cs b
  let b := closeEvent j Fld.trnSclStatusMisfit .trnScaleMisfit (fun c => c.alarm && (c.high || c.low)) (fun c => b2n c.high * 2 ^ 16) cs b
  let b := closeEvent j Fld.trnSclStatusAdapted .trnScaleAdapt (·.adapted) (fun c => c.ecode * 2 ^ 20) cs b
  let b := closeEvent j Fld.trnSclStatusClamped .trnScaleClamp (·.clamped) (fun _ => 0) cs b
  let flagged := (cs.filter fun c => c.2.high || c.2.low || c.2.satOver || c.2.undOver || c.2.clamped).length
  setReg uTrn (Off.trnSclFlagged j) (sat16 flagged) (setReg uTrn (Off.trnSclStep j) stepNo b)

/-- TRN_SCL_CTRL_WRITE: ENABLE is writable only while the slot is empty; setting it starts the epoch count (R130, Table 4.7). -/
def sclCtrlWrite (j v : Nat) (b : Block) : Block :=
  let empty := !flag b uCtx Fld.ctxJobCtrlValid j
  let b := setReg uTrn (Off.trnSclCtrl j) (maskedWrite (reg b uTrn (Off.trnSclCtrl j)) v (if empty then 0xFF01FFFF else 0xFF00FFFF)) b
  if empty ∧ bitOf v 16 then
    modJob j (fun x => { x with epochAt := b.face.time }) (setReg uTrn (Off.trnSclStep j) 0 b)
  else b

/-- SERVING_EPOCH_CLOSE: every EPOCH milliseconds a serving job's table is closed (R130). A close that cannot read or write an entry stops there; the next
one is due an epoch later, TRN_SCL_STEP keeps its value and the job goes on. An enabled table whose slot holds no job is closed like a serving job's.
Both are the model's choices (log entry 65). -/
def servingClose (j : Nat) (scope : List (Nat × RunFields)) (b : Block) : Block :=
  let ms := max 1 (fld b uTrn Fld.trnSclCtrlEpoch j)
  if !flag b uTrn Fld.trnSclCtrlEnable j || slotTrains b j || decide (b.face.time < (trnOf b j).epochAt + 1000 * ms) then b
  else
    let n := reg b uTrn (Off.trnSclStep j) + 1
    let r := closeEntries j n scope (sclSize b j) 0 b
    let b := modJob j (fun x => { x with epochAt := x.epochAt + 1000 * ms }) r.2.2
    if r.2.1 then closeEvents j n r.1 b else b

/-- SCALE_SET: BAD_ARGUMENT when step s − 1 has already closed (R131), and for an ECODE of 0xFF, which is never stored (R110). One that names step 0, which
has no step before it, is refused; one whose step s − 1 never closes stays pending; a serving job counts its first close as step 1 (log entry 65). -/
def scaleSet (j entry step w0 w3 : Nat) (b : Block) : Status × Block :=
  let closed := reg b uTrn (Off.trnJobClosed j)
  let past := if slotTrains b j then decide (closed ≠ 0xFFFF_FFFF ∧ step ≤ closed + 1) else decide (step ≤ reg b uTrn (Off.trnSclStep j) + 1)
  if past || decide (sclSize b j ≤ entry) || step == 0 || w0 % 256 == 0xFF then (.badArgument, b)
  else (.ok, modJob j (fun x => { x with sets := x.sets ++ [⟨entry, step, w0, w3⟩] }) b)

end Sys2Proof.Machine
end

