-- ==== Sys2Proof/Machine/Train.lean ====
section
/-! DEFINITION. The training step (chapter 09): the step control block, the split, gradients, the sweep, sheaves, replica checks, the close and the
mirror. -/

namespace Sys2Proof.Machine

def logSlots (b : Block) (j : Nat) : Nat := scb b j 104 4
def slotBytes (b : Block) (j : Nat) : Nat := (192 + 16 * nLayers b j + 63) / 64 * 64

/-- The error area, the scale table and the step log. -/
def mirroredAreas (b : Block) (j : Nat) : List Mirrored :=
  [⟨0xFFFF, 4, scb b j 176 8, scb b j 184 8, 4⟩, ⟨0xFFFF, 5, sclBase b j, 64 * sclSize b j, 1⟩,
   ⟨0xFFFF, 6, scb b j 96 8, logSlots b j * slotBytes b j, 1⟩]

def mirroredAll (b : Block) (j : Nat) : List Mirrored := mirroredArrays (stateEnts b j) ++ mirroredAreas b j

def blocksOf (m : Mirrored) : Nat := (m.bytes + 65535) / 65536

/-- The bytes of a block of an array, zeros past the array's end. The engine takes those of a swept block from the staged segments and the sweep's CRCs;
where it reads them itself, the command's reads come first. -/
def blockData (b : Block) (m : Mirrored) (k : Nat) : List Byte :=
  let n := min 65536 (m.bytes - 65536 * k)
  bytesAt b (m.addr + 65536 * k) n ++ List.replicate (65536 - n) 0

/-! ### Undo (R333, R468) -/

def keepRange (b : Block) (a n : Nat) : Kept := ⟨a, bytesAt b a n, (linesOf a n).map (tagOf b)⟩

/-- Remember what a step is about to write. -/
def addUndo (j n : Nat) (ks : List Kept) (swept : Bool) (b : Block) : Block :=
  modJob j (fun x => { x with undo :=
    if (x.undo.any fun u => u.step = n) then
      (x.undo.map fun u => if u.step = n then { u with kept := u.kept ++ ks, swept := u.swept || swept } else u)
    else x.undo ++ [⟨n, ks, swept, x.wasGrad8, x.hold, x.grad8Next⟩] }) b

/-- Undo one step: its writes back in the reverse of their order, and the gradient mode as it stood. -/
def undoStep (j n : Nat) (b : Block) : Block :=
  let us := (trnOf b j).undo.filter fun u => u.step = n
  let b := us.foldl (fun b u => u.kept.reverse.foldl (fun b k => putBack j k b) b) b
  let b := us.foldl (fun b u => modJob j (fun x => { x with wasGrad8 := u.was8, hold := u.hold, grad8Next := u.next8 }) b) b
  modJob j (fun x => { x with undo := x.undo.filter fun u => u.step ≠ n }) b

/-! ### Registers of a job -/

def setPhaseTrn (j p : Nat) (b : Block) : Block := setFld uTrn Fld.trnJobStatePhase p b j
def trnDone (b : Block) (j : Nat) : Nat := reg b uTrn (Off.trnJobDone j)
def trnClosed (b : Block) (j : Nat) : Nat := reg b uTrn (Off.trnJobClosed j)
def noStep : Nat := 0xFFFF_FFFF

/-- The step in progress: the one STEP_START named last. -/
def stepNow (b : Block) (j : Nat) : Nat := (trnOf b j).replay.getD 0

/-! ### The split (R347, R348) -/

def planKeep (b : Block) (j l : Nat) : Nat := numAt b (scb b j 144 8 + 16 * l) 8
def planInputs (b : Block) (j l : Nat) : Nat := numAt b (scb b j 144 8 + 16 * l + 8) 8
def sumRange (f : Nat → Nat) (lo n : Nat) : Nat := ((List.range n).map fun i => f (lo + i)).sum

/-- The local stash's bytes: its area and the pages obtained for it, without the pages in it that are retired (Table 9.8). -/
def stashLen (b : Block) (j : Nat) : Nat :=
  let base := scb b j 112 8
  let len := scb b j 120 8
  len + 0x20_0000 * (trnOf b j).stallPages -
    0x1_0000 * (b.grn.retPages.filter fun p => decide (base ≤ 0x1_0000 * p) && decide (0x1_0000 * p < base + len)).length

def stashPol (b : Block) (j : Nat) : Nat := scb b j 162 1 % 4

/-- The largest number from `n` down that passes. -/
def largestFrom (p : Nat → Bool) : Nat → Option Nat
  | 0 => if p 0 then some 0 else none
  | n + 1 => if p (n + 1) then some (n + 1) else largestFrom p n

/-- The split the policy allows; none when no split fits. Policy 3 is reserved and fits none. -/
def splitOf (b : Block) (j : Nat) : Option Nat :=
  let n := nLayers b j
  let keep (s : Nat) : Nat := sumRange (planKeep b j) 0 s
  match stashPol b j with
  | 0 => largestFrom (fun s => decide (keep s + sumRange (planInputs b j) s (n - s) ≤ stashLen b j)) n
  | 1 => largestFrom (fun s => decide (keep s ≤ stashLen b j) && decide (sumRange (planKeep b j) s (n - s) ≤ scb b j 136 8)) n
  | 2 => if keep n ≤ stashLen b j then some n else none
  | _ => none

/-- The split-table entry with the largest split not above `s`: the address of its program records. -/
def splitEntry (b : Block) (j s : Nat) : Option Nat :=
  let base := scb b j 152 8
  let fit := (List.range (scb b j 160 2)).filter fun i => decide (numAt b (base + 16 * i) 2 ≤ s)
  (fit.foldl (fun (acc : Option Nat) i => match acc with
    | none => some i
    | some k => if numAt b (base + 16 * k) 2 < numAt b (base + 16 * i) 2 then some i else some k) none).map fun i => numAt b (base + 16 * i + 8) 8

/-- The tiles bound to a job slot. -/
def tilesOf (b : Block) (j : Nat) : List Nat := (List.range 64).filter fun t => tileJob b t = some j

/-- Is no tile of a training job lent, or on its way out or back? -/
def tilesHome (b : Block) (j : Nat) : Bool := !((List.range 64).any fun t => lentJob b t == some j)

/-- Start one tile of a step with the program of its logical tile. -/
def startStepTile (j n recs t : Nat) (b : Block) : Block :=
  let u := uTile t
  let a := recs + 16 * fld b u Fld.tilIdentLtile
  let prog := numAt b a 8
  let len := numAt b (a + 8) 4
  let b := setReg u Off.tilSeed (b.ctx.jobSeed.get 0 j) (setReg u Off.tilStep n b)
  startStream t (setReg u Off.tilProgLen len (setReg u Off.tilProgHi (prog / 2 ^ 32) (setReg u Off.tilProgLo prog b)))

/-- Does step `n`'s log slot hold a record of step `n`? -/
def logAddr (b : Block) (j n : Nat) : Nat := scb b j 96 8 + n % max 1 (logSlots b j) * slotBytes b j
def logHolds (b : Block) (j n : Nat) : Bool := decide (0 < logSlots b j) && numAt b (logAddr b j n) 4 == n

/-- What the split reads: the stash plan and the split table. -/
def splitRanges (b : Block) (j : Nat) : List (Nat × Nat) := [(scb b j 144 8, 16 * nLayers b j), (scb b j 152 8, 16 * scb b j 160 2)]

/-- The gradient mode of a step: forced, recorded for a replay, or what the last check decided (R324, R326). -/
def grad8Of (b : Block) (j n : Nat) (replay : Bool) : Bool :=
  if replay && logHolds b j n then bitOf (numAt b (logAddr b j n + 16) 4) 0
  else match scb b j 163 1 % 4 with
    | 0 => (trnOf b j).grad8Next
    | 2 => true
    | _ => false

def gradModeEvent (j : Nat) (was now : Bool) (b : Block) : Block :=
  if was = now then b else notify uTrn Fld.trnStatusGradMode .trnGradMode (j * 2 ^ 29 + b2n now) b

/-- STALL: ask for the pages the stash is short of; they come at once or the step waits (R347). One that cannot be had leaves no split. -/
def stallAsk (j : Nat) (b : Block) : Block :=
  let short := sumRange (planKeep b j) 0 (nLayers b j) - stashLen b j
  let n := (short + 0x1F_FFFF) / 0x20_0000
  if stashPol b j ≠ 2 ∨ n = 0 ∨ (trnOf b j).stallFail ∨ (b.ctx.allocWaits.any fun w => w.job = j ∧ w.stash) then b
  else iterate (allocateFor true j true none) n b

/-- STEP_START: step `n` begins, as a replay or not. Answers whether it could start: false is TRN_STASH_FAIL. -/
def stepStart (j n : Nat) (replay : Bool) (b : Block) : Bool × Block :=
  if !slotTrains b j || trnPhase b j != 0 then (true, b)
  else
    let t := trnTouch j [(scbBase b j, 256)] b
    let t := if t.1 then trnTouch j (splitRanges b j) t.2 else t
    if !t.1 then (true, t.2)
    else
    let b := stallAsk j t.2
    if (b.ctx.allocWaits.any fun w => w.job = j ∧ w.stash) then (true, b)
    else
      let b := if (trnOf b j).stallFail then modJob j (fun x => { x with stallFail := false }) b else b
      match splitOf b j with
      | none => (false, notify uTrn Fld.trnStatusStashFail .trnStashFail (j * 2 ^ 29) b)
      | some s => match splitEntry b j s with
        | none => (false, notify uTrn Fld.trnStatusStashFail .trnStashFail (j * 2 ^ 29) b)
        | some recs =>
          let t := trnTouch j ((recs, 1024) :: if replay && decide (0 < logSlots b j) then [(logAddr b j n, 64)] else []) b
          if !t.1 then (true, t.2)
          else
          let b := t.2
          let ovf := decide (s < nLayers b j)
          let b := if ovf then notify uTrn Fld.trnStatusStashOvf .trnStashOvf (j * 2 ^ 29 + s) (bump uTrn (Off.trnStashOvfLo j) 1 b) else b
          let g := grad8Of b j n replay
          let x := trnOf b j
          let b := gradModeEvent j (flag b uTrn Fld.trnJobStateGrad8 j) g b
          let b := setTrn j { x with
            scbHeld := some (bytesAt b (scbBase b j) 256)
            startAt := b.face.time
            replay := some n
            matched := true
            unresolved := false
            logFlags := x.logFlags % 512 / 128 * 128 + b2n ovf * 2 + stashPol b j * 4 + b2n replay * 16 } b
          let b := setFld uTrn Fld.trnJobStateSplit s (setFld uTrn Fld.trnJobStateStashpol (stashPol b j) (setFld uTrn Fld.trnJobStateGrad8 (b2n g) b j) j) j
          let b := (tilesOf b j).foldl (fun b t => startStepTile j n recs t b) b
          let b := (List.range 4).foldl (fun b f => if hrvBase b f j = 0 then b else hrvRun f j [] b) b
          (true, setPhaseTrn j 1 b)

/-! ### Gradients (R323 to R327) -/

def addArrays (xs ys : List Nat) : List Nat := List.zipWith f32Add xs ys
def f32sAt (b : Block) (a n : Nat) : List Nat := elemsOf 4 (bytesAt b a (4 * n))
def putF32s (j a : Nat) (l : List Nat) (b : Block) : Block := trnWrite j a (l.flatMap (leBytes 4)) b

/-- Has every tile of the job ended its stream (row 1)? -/
def tilesEnded (b : Block) (j : Nat) : Bool := tilesHome b j && (tilesOf b j).all fun t => (tileOf b t).stream == .ended

/-- Every GRAD shard named takes its members' contributions, given in position order and already widened, in the fixed tree (R323). -/
def reduceEntries (j : Nat) (contribs : List (Nat × List (List Byte))) (b : Block) : Block :=
  let es := stateEnts b j
  contribs.foldl (fun b c =>
    let e := es.getD c.1 ⟨[], 0, 0, 0, true, false, 0, 0, 0⟩
    let rows := c.2.map (elemsOf 4)
    let out := (List.range (min (elemsIn e) ((rows.headD []).length))).map fun i => reduceElem 0 0 (rows.map fun r => r.getD i 0)
    putF32s j e.grad out b) b

/-- What goes out for the gradients of this module's contributions, and the error area afterwards: in 8-bit mode the codes, with each element's residue
carried on; in the first FP32 step after, the gradients with their residue, and no residue is left; else the gradients (R325). -/
def sendGrads (g8 was8 : Bool) (gs es : List Nat) : List Byte × List Nat :=
  let us := addArrays gs (es ++ List.replicate (gs.length - es.length) 0)
  if g8 then
    let q := grad8Pack us
    (q.1, (List.zipWith f32Sub us q.2).take es.length ++ es.drop gs.length)
  else if was8 then (us.flatMap (leBytes 4), List.replicate es.length 0)
  else (gs.flatMap (leBytes 4), es)

/-- GRADIENT_REDUCE: after the job-wide barrier every GRAD shard takes its members' contributions, given entry by entry in position order and already
widened, in the fixed tree; the module's own outgoing contributions go out as R325 says. -/
def gradientReduce (j : Nat) (contribs : List (Nat × List (List Byte))) (outgoing : List Byte) (b : Block) : Block :=
  if trnPhase b j ≠ 1 ∨ !tilesEnded b j then b
  else
    let n := stepNow b j
    let g8 := flag b uTrn Fld.trnJobStateGrad8 j
    let x := trnOf b j
    let ea := scb b j 176 8
    let m := scb b j 184 8 / 4
    let residue := g8 || x.wasGrad8
    let t := trnTouch j (tableRanges b j ++ if residue then [(ea, 4 * m)] else []) b
    if !t.1 then t.2
    else
    let b := reduceEntries j contribs t.2
    let r := sendGrads g8 x.wasGrad8 (elemsOf 4 outgoing) (if residue then f32sAt b ea m else [])
    let b := addUndo j n (if residue then [keepRange b ea (4 * m)] else []) false b
    let b := modTrn (fun t => { t with grads := t.grads ++ [(j, r.1)] }) (if residue then putF32s j ea r.2 b else b)
    setPhaseTrn j 2 (modJob j (fun x => { x with wasGrad8 := g8 }) b)

/-- One tied set: each element of TARGET's GRAD takes the contributions in index order (R327). -/
def tiedSet (j i : Nat) (b : Block) : Block :=
  let a := scb b j 208 8 + 64 * i
  let e := stateEnt b (scb b j 0 8) (numAt b a 2)
  let m := elemsIn e
  let parts := (List.range (numAt b (a + 2) 1)).map fun c => numAt b (a + 8 + 8 * c) 8
  let t := trnTouch j ((a, 64) :: (e.grad, 4 * m) :: parts.map fun p => (p, 4 * m)) b
  if t.1 then putF32s j e.grad (parts.foldl (fun acc p => addArrays acc (f32sAt b p m)) (f32sAt b e.grad m)) t.2 else t.2

/-- TIED_PASS. -/
def tiedPass (j : Nat) (b : Block) : Block :=
  if trnPhase b j ≠ 2 then b
  else
    let t := trnTouch j (tableRanges b j) b
    let c := if t.1 then (List.range (scb b j 216 2)).foldl (fun b i => tiedSet j i b) t.2 else t.2
    if (trnOf c j).failed.isSome then c else setPhaseTrn j 3 c

/-! ### The sweep (R328 to R333) -/

/-- The stacks that hold a granule of a swept array. -/
def sweptStacks (b : Block) (j : Nat) : List Nat :=
  (List.range 32).filter fun s => (sweptArrays b j).any fun m =>
    (List.range ((m.bytes + 511) / 512)).any fun g => (placeNow b (m.addr + 512 * g)).ch % 32 == s

/-- Step `n` may sweep once rows 1 to 3 are done and step n − 1 is complete. -/
def sweepReady (b : Block) (j : Nat) : Bool :=
  let n := stepNow b j
  (trnPhase b j == 3 || (trnPhase b j == 2 && scb b j 216 2 == 0)) &&
    (trnDone b j == (n + 2 ^ 32 - 1) % 2 ^ 32 || (trnDone b j == noStep && trnClosed b j == noStep) || (trnDone b j != noStep && decide (n ≤ trnDone b j)))

/-- SWEEP_LAUNCH. A stack that rejects its launch leaves a sweep to be undone. -/
def sweepLaunch (j : Nat) (b : Block) : Block :=
  if !sweepReady b j then b
  else
    let n := stepNow b j
    let t := trnTouch j (tableRanges b j) b
    if !t.1 then t.2
    else
    let b := setPhaseTrn j 4 (modJob j (fun x => { x with sweepBad := false }) t.2)
    let b := addUndo j n ((sweptArrays b j).map fun m => keepRange b m.addr m.bytes) true b
    let rank := ownRank b j
    (sweptStacks b j).foldl (fun b s =>
      let u := uStack s
      let b := launch s (setReg u Off.grnGlIdent (rank * 2 ^ 22 + j * 2 ^ 8 + 1) (setReg u Off.grnGlSeed (b.ctx.jobSeed.get 0 j) (setReg u Off.grnGlStep n b)))
      if (List.range 128).any fun i => (glOf b (128 * s + i)).run != .idle && (glOf b (128 * s + i)).launch.job == j then b
      else modJob j (fun x => { x with sweepBad := true }) b) b

/-- Do gleaners of the job still run? -/
def gleanersRun (b : Block) (j : Nat) : Bool := b.gln.gl.any fun g => g.2.run != .idle && g.2.launch.job == j

/-- TRN_SWEEP_UNDONE: a run of the sweep faulted or was aborted; the staged segments bring the pre-sweep values back (R333). -/
def sweepUndone (j : Nat) (b : Block) : Block :=
  if trnPhase b j ≠ 4 ∨ gleanersRun b j ∨ !(trnOf b j).sweepBad then b
  else
    let n := stepNow b j
    let b := undoStep j n b
    let b := modJob j (fun x => { x with out := x.out.filter (fun r => r.step ≠ n), sweepBad := false }) b
    notify uTrn Fld.trnStatusSweepUndone .trnSweepUndone (j * 2 ^ 29) (setPhaseTrn j 8 b)

/-- SWEEP_UNDO_DONE: PHASE leaves UNDO; the step waits to be replayed. -/
def sweepUndoDone (j : Nat) (b : Block) : Block := if trnPhase b j = 8 then setPhaseTrn j 0 b else b

/-! ### Sheaves (R334, R339 to R341) -/

/-- Plane order of a granule (R340). -/
def toPlanes (es : Nat) (d : List Byte) : List Byte :=
  let w := 512 / es
  (List.range 512).map fun p => d.getD ((p % w) * es + (es - 1 - p / w)) 0

def fromPlanes (es : Nat) (d : List Byte) : List Byte :=
  let w := 512 / es
  (List.range 512).map fun p => d.getD ((es - 1 - p % es) * w + p / es) 0

/-- Decode a segment of tokens (R340). -/
def decodeSeg : Nat → List Byte → List Byte
  | 0, _ => []
  | n + 1, l => match l with
    | [] => []
    | t :: r =>
      if t.toNat < 0x80 then List.replicate (t.toNat + 1) 0 ++ decodeSeg n r
      else r.take (t.toNat - 0x7F) ++ decodeSeg n (r.drop (t.toNat - 0x7F))

/-- Encode: runs of zeros, then runs of literals, each as long as it can be (log entry 43). -/
def encodeSeg : Nat → List Byte → List Byte
  | 0, _ => []
  | n + 1, l => match l with
    | [] => []
    | x :: _ =>
      let run := (l.takeWhile fun y => y == 0).take 128
      let lit := (l.takeWhile fun y => y != 0).take 128
      if x = 0 then leBytes 1 (run.length - 1) ++ encodeSeg n (l.drop run.length)
      else leBytes 1 (lit.length + 0x7F) ++ lit ++ encodeSeg n (l.drop lit.length)

/-- A granule's segment with its word: RAW where tokens would not be shorter. -/
def segment (es : Nat) (d : List Byte) : Nat × List Byte :=
  let p := toPlanes es d
  let s := encodeSeg 512 p
  if s.length < 512 then (s.length, s) else (2 ^ 15 + 512, p)

/-- The segment words and segments of a block. -/
def codeBlock (es : Nat) (d : List Byte) : List Byte :=
  let ss := (List.range 128).map fun g => segment es ((d.drop (512 * g)).take 512)
  ss.flatMap (fun s => leBytes 2 s.1) ++ (ss.map (·.2)).flatten

/-- The granules of a record in order, from the segment words on. -/
def decodeGranules (es : Nat) (words : List Nat) (l : List Byte) : List Byte := match words with
  | [] => []
  | w :: r =>
    let n := w % 1024
    let s := l.take n
    fromPlanes es (if bitOf w 15 then s else decodeSeg n s) ++ decodeGranules es r (l.drop n)

def decodeBlock (es : Nat) (code : List Byte) : List Byte :=
  decodeGranules es ((List.range 128).map fun g => leAt code (2 * g) 2) (code.drop 256)

def xorBytes (x y : List Byte) : List Byte := List.zipWith (· ^^^ ·) x y

/-- A record's header (Table 9.6). -/
def sheafHeader (r : SheafRec) : List Byte :=
  leBytes 4 r.step ++ leBytes 2 r.entry ++ leBytes 1 r.array ++ leBytes 1 r.kind ++ leBytes 4 r.block ++ leBytes 2 r.src ++ leBytes 1 r.es ++ [0] ++
    leBytes 8 r.newcrc ++ leBytes 4 r.code.length ++ List.replicate 36 0

/-- A sheaf: the header, then the segment words and segments (R339). -/
def sheafBytes (r : SheafRec) : List Byte := sheafHeader r ++ r.code

/-- The record a sheaf's bytes hold. -/
def sheafOf (l : List Byte) : SheafRec :=
  ⟨leAt l 0 4, leAt l 4 2, leAt l 6 1, leAt l 7 1, leAt l 8 4, leAt l 12 2 % 1024, leAt l 14 1, leAt l 16 8, (l.drop 64).take (leAt l 24 4)⟩

/-- Send a record to the buddy, keeping it until the step is complete: in SHEAF, but for a BASE record, whose block stands in its array (log entry 68). -/
def sendRec (j : Nat) (r : SheafRec) (b : Block) : Block :=
  (fun b => if r.kind = 1 then b else sheafPut j false r.step (sheafBytes r) b) <|
  bump uTrn (Off.trnSheafBytesLo j) (sheafBytes r).length
    (modTrn (fun t => { t with sent := t.sent ++ [(j, sheafBytes r)] }) (modJob j (fun x => { x with out := x.out ++ [r] }) b))

/-- The old bytes of a block, from what the step's undo kept. -/
def oldBlock (b : Block) (j n : Nat) (m : Mirrored) (k : Nat) : List Byte :=
  let ks := ((trnOf b j).undo.filter fun u => u.step = n).flatMap (·.kept)
  (List.range (min 65536 (m.bytes - 65536 * k))).map (fun i =>
    let a := m.addr + 65536 * k + i
    match ks.find? fun q => decide (q.addr ≤ a) && decide (a < q.addr + q.bytes.length) with
    | some q => q.bytes.getD (a - q.addr) 0
    | none => byteAt b a) ++ List.replicate (65536 - min 65536 (m.bytes - 65536 * k)) 0

/-- The XOR records of the blocks of some arrays that step `n` changed (R341). -/
def changedRecs (b : Block) (j n : Nat) (ms : List Mirrored) : List SheafRec :=
  ms.flatMap fun m => (List.range (blocksOf m)).filterMap fun k =>
    let old := oldBlock b j n m k
    let new := blockData b m k
    if old = new then none else some ⟨n, m.entry, m.arr, 0, k, ownRank b j, m.es, crc64 new, codeBlock m.es (xorBytes old new)⟩

/-- Emit them. -/
def emitChanged (j n : Nat) (ms : List Mirrored) (b : Block) : Block := (changedRecs b j n ms).foldl (fun b r => sendRec j r b) b

/-- Do some records all find room in SHEAF, one after another? -/
def recsFit (b : Block) (j : Nat) (rs : List SheafRec) : Bool :=
  (rs.foldl (fun (acc : Bool × List Span) r => match findRoom acc.2 (scb b j 80 8) (sheafBytes r).length with
    | some o => (acc.1, acc.2 ++ [⟨false, r.step, o, (sheafBytes r).length⟩])
    | none => (false, acc.2)) (true, sheafSpans (trnOf b j))).1

/-- The block CRCs of the arrays, in the order of the CRCS area. -/
def blockCrcs (b : Block) (ms : List Mirrored) : List Nat := (ms.map fun m => (List.range (blocksOf m)).map fun k => crc64 (blockData b m k)).flatten

/-- The checked arrays: MASTER, M1 and M2 of the entries with CHECK (R335). -/
def checkedArrays (b : Block) (j : Nat) : List Mirrored :=
  (mirroredArrays (stateEnts b j)).filter fun m => decide (m.arr < 3) && (stateEnt b (scb b j 0 8) m.entry).check

def shardRoot (b : Block) (j : Nat) : Nat := crc64 ((blockCrcs b (checkedArrays b j)).flatMap (leBytes 8))

/-- SHEAF_EMIT: every gleaner has ended by rs.exit; the block CRCs, the root and the records of the swept blocks (row 5), once SHEAF has room for them
(R333). -/
def sheafEmit (j : Nat) (b : Block) : Block :=
  if trnPhase b j ≠ 4 ∨ gleanersRun b j ∨ (trnOf b j).sweepBad then b
  else
    let n := stepNow b j
    let t := trnTouch j (tableRanges b j) b
    let ms := mirroredArrays (stateEnts b j)
    if !t.1 ∨ !recsFit b j (changedRecs b j n ms) then t.2
    else
    let b := trnWrite j (scb b j 88 8) ((blockCrcs b ms).flatMap (leBytes 8)) t.2
    let b := emitChanged j n ms b
    setPhaseTrn j 5 (modJob j (fun x => { x with root := if (checkedArrays b j).isEmpty then 0 else shardRoot b j }) b)

/-! ### Replica checks (R336 to R338, R351) -/

/-- The decision of a differing block (Table 9.5): the offenders and the rank copied from; none when unresolved. -/
def decideBlock (rs : List Replica) (i : Nat) : Option (List Nat × Nat) :=
  let vs := rs.map fun r => (r.rank, r.crcs.getD i 0, r.mirror.getD i 0)
  let n := vs.length
  match vs.find? fun v => decide (n < 2 * (vs.filter fun w => w.2.1 = v.2.1).length) with
  | some v =>
    let good := vs.filter fun w => w.2.1 = v.2.1
    some ((vs.filter fun w => w.2.1 ≠ v.2.1).map (·.1), (good.map (·.1)).foldl min 1023)
  | none =>
    match vs.filter fun w => w.2.1 ≠ w.2.2 with
    | [w] => some ([w.1], ((vs.filter fun x => x.1 ≠ w.1).map (·.1)).foldl min 1023)
    | _ => none

/-- The blocks of the checked arrays, with array and index. -/
def checkedBlocks (b : Block) (j : Nat) : List (Mirrored × Nat) :=
  ((checkedArrays b j).map fun m => (List.range (blocksOf m)).map fun k => (m, k)).flatten

/-- The ranks of an entry's replica group (Table 9.3, RGTAB). -/
def groupOfEntry (b : Block) (j entry : Nat) : List Nat :=
  let g := (stateEnt b (scb b j 0 8) entry).rgroup
  let a := scb b j 16 8 + 32 * g
  if g = 0xFF then [] else (List.range (numAt b a 1)).map fun m => numAt b (a + 16 + 2 * m) 2 % 1024

/-- The offences within WINDOW steps: each is measured in the steps of the job it was charged in (log entry 68). -/
def offencesNow (b : Block) : List (Nat × Nat) :=
  let w := max 1 (fld b uTrn Fld.trnDivCtrlWindow)
  b.trn.offences.filter fun o => decide (stepNow b o.1 < o.2 + w)

/-- TRN_OFFENCES as it reads (R355). -/
def trnOffences (b : Block) : Nat := min 0xFF (offencesNow b).length

/-- The blocks of an array that some kept bytes touch. -/
def touchedBlocks (m : Mirrored) (ks : List Kept) : List Nat := (List.range (blocksOf m)).filter fun i =>
  ks.any fun k => decide (k.addr < m.addr + 65536 * (i + 1)) && decide (m.addr + 65536 * i < k.addr + k.bytes.length)

/-- Copy a decided block and the WORK bytes of its elements onto this module, and send a REPAIR record of each block copied (R337). -/
def repairBlock (j n : Nat) (mk : Mirrored × Nat) (c : Copy) (b : Block) : Block :=
  let works := (mirroredArrays (stateEnts b j)).filter fun m => m.entry == mk.1.entry && m.arr == 3
  let olds := (mk :: works.flatMap fun w => (touchedBlocks w c.work).map fun i => (w, i)).map fun p => (p, blockData b p.1 p.2)
  let b := putBack j ⟨mk.1.addr + 65536 * mk.2, c.bytes, c.tags⟩ b
  let b := c.work.foldl (fun b k => putBack j k b) b
  olds.foldl (fun b o =>
    let m := o.1.1
    let v := blockData b m o.1.2
    sendRec j ⟨n, m.entry, m.arr, 2, o.1.2, ownRank b j, m.es, crc64 v, codeBlock m.es (xorBytes o.2 v)⟩ b) b

/-- The offence of a repaired module: events, black box (job slot, step, entry of the first block, blocks), count; answers whether TRN_OFFENDER was
raised. -/
def chargeOffence (j n entry blocks : Nat) (b : Block) : Bool × Block :=
  let arg := j * 2 ^ 29 + sat16 blocks
  let b := notify uTrn Fld.trnStatusRepaired .trnRepaired arg b
  let b := bbRecord 4 .trnSilent (leBytes 4 j ++ leBytes 4 n ++ leBytes 4 entry ++ leBytes 4 blocks) b
  let b := raise uTrn .trnSilent arg b
  let b := modTrn (fun t => { t with offences := t.offences ++ [(j, n)] }) b
  let lim := fld b uTrn Fld.trnDivCtrlLimit
  if lim ≠ 0 ∧ lim ≤ (offencesNow b).length then (true, notify uTrn Fld.trnStatusOffender .trnOffender (trnOffences b) b) else (false, b)

/-- The outcome of a replica check: nothing, this module became an offender over the limit, or a block stayed unresolved. -/
inductive CheckEnd where
  | fine | offender | unresolved
deriving DecidableEq, Repr

/-- The gradient mode of the next step from the job-wide minimum of usable GB/s (R324). -/
def nextGradMode (j minimum : Nat) (b : Block) : Block :=
  let x := trnOf b j
  let gth := scb b j 164 4
  let hold := if minimum < gth then 0 else x.hold + 1
  let next := decide (minimum < gth) || (flag b uTrn Fld.trnJobStateGrad8 j && decide (hold < scb b j 168 2))
  setTrn j { x with hold := hold, grad8Next := next } b

/-- The norms of the layers from the all-gathered images: weights, gradients, updates (R351). -/
def normOf (images : List (List Byte)) : Nat := f32Sqrt (exactRound (images.foldl exactAddImage ⟨0, false, false, false⟩))

/-- The members whose routes this module's gradient traffic takes. -/
def gradPeers (b : Block) (j : Nat) : List Nat := (List.range 1024).filter fun r => rtValid (routeOf b j r) && !rtSelf (routeOf b j r)

/-- The links that carry the job's gradient traffic: those of its members' routes that are up. -/
def gradLinks (b : Block) (j : Nat) : List Nat :=
  let ls := (gradPeers b j).map fun r => rtLinks (routeOf b j r)
  (List.range 24).filter fun l => linkUp b l && ls.any fun m => bitOf m l

/-- This module's report: the usable payload rate of those links in whole GB/s, 256 in native and 190 in Ethernet mode, by the lanes in use (Table 10.1,
R324, R360); without another member nothing limits it (log entry 68). -/
def ownCapacity (b : Block) (j : Nat) : Nat :=
  if (gradPeers b j).isEmpty then 2 ^ 32
  else ((gradLinks b j).map fun l => (if linkMode b l = 1 then 256 else 190) * txLanes b l).sum / 8

/-- REPLICA_CHECK (row 6). `capacity` is what the other modules report, `mine` are the CRCs the buddy computes for this module's mirror. -/
def replicaCheck (j : Nat) (others : List Replica) (mine : List Nat) (copies : List Copy) (capacity : List Nat)
    (images : List (List (List Byte) × List (List Byte) × List (List Byte))) (b : Block) : CheckEnd × Block :=
  if trnPhase b j ≠ 5 then (.fine, b)
  else
    let n := stepNow b j
    let t := trnTouch j (tableRanges b j) b
    if !t.1 then (.fine, t.2)
    else
    let b := nextGradMode j (capacity.foldl min (ownCapacity b j)) t.2
    let b := modJob j (fun x => { x with norms := images.map fun i => (normOf i.1, normOf i.2.1, normOf i.2.2) }) b
    let own := ownRank b j
    let blocks := checkedBlocks b j
    let all := (⟨own, (trnOf b j).root, blockCrcs b (checkedArrays b j), mine⟩ : Replica) :: others
    let close (b : Block) : Block := setPhaseTrn j 6 b
    if (all.all fun r => r.root = (trnOf b j).root) then (.fine, close b)
    else
      let diff := (blocks.zipIdx).filter fun p =>
        let g := (groupOfEntry b j p.1.1.entry)
        let rs := all.filter fun r => g.contains r.rank
        rs.any fun r => r.crcs.getD p.2 0 ≠ (rs.headD ⟨0, 0, [], []⟩).crcs.getD p.2 0
      match diff with
      | [] => (.fine, close b)
      | d :: _ =>
        let b := modJob j (fun x => { x with logFlags := Nat.lor x.logFlags 32 })
          (notify uTrn Fld.trnStatusDiverge .trnDiverge (j * 2 ^ 29 + d.1.1.entry) b)
        let dec := diff.map fun p => (p, decideBlock (all.filter fun r => (groupOfEntry b j p.1.1.entry).contains r.rank) p.2)
        let b := bump uTrn (Off.trnDivergeLo j) (dec.filter fun p => p.2.isSome).length b
        if (dec.any fun p => p.2.isNone) then (.unresolved, modJob j (fun x => { x with unresolved := true }) b)
        else
          let bad := dec.filter fun p => (p.2.map fun q => q.1.contains own).getD false
          if bad.isEmpty then (.fine, close b)
          else
            let b := bad.foldl (fun b p => match copies.find? fun c => c.index = p.1.2 with
              | some c => repairBlock j n p.1.1 c b
              | none => b) b
            let r := chargeOffence j n ((bad.map fun p => p.1.1.1.entry).headD 0) bad.length (modJob j (fun x => { x with logFlags := Nat.lor x.logFlags 64 }) b)
            (if r.1 then .offender else .fine, close r.2)

/-! ### The close (row 7, R352, R353) -/

/-- The late totals of the job slot, cause by cause. -/
def lateTotals (b : Block) (j : Nat) : List Byte :=
  (List.range 8).flatMap fun c => leBytes 8 (((List.range 4).map fun f => pair b (hrvUnit f) (Off.grnHrvLateLo j c)).sum)

/-- The step-log record (Table 9.7). -/
def logRecord (b : Block) (j n : Nat) (chaff : List Byte) : List Byte :=
  let x := trnOf b j
  let nl := nLayers b j
  let flags := Nat.lor (b2n (flag b uTrn Fld.trnJobStateGrad8 j) + x.logFlags / 2 * 2) (128 * b2n x.shrunk)
  let head := leBytes 4 n ++ bytesAt b (scb b j 192 8) 4 ++ bytesAt b (scb b j 200 8) 8 ++ leBytes 4 flags ++
    leBytes 2 (fld b uTrn Fld.trnJobStateSplit j) ++ leBytes 2 nl ++ List.replicate 8 0 ++ chaff ++ lateTotals b j ++ leBytes 8 x.root ++
    leBytes 4 b.face.time ++ leBytes 4 (b.face.time - x.startAt) ++ List.replicate 48 0
  let norms := (List.range nl).flatMap fun l =>
    let v := x.norms.getD l (0, 0, 0)
    leBytes 4 v.1 ++ leBytes 4 v.2.1 ++ leBytes 4 v.2.2 ++ leBytes 2 l ++ leBytes 2 0
  head ++ norms ++ List.replicate (slotBytes b j - (192 + 16 * nl)) 0

/-- A close ends closed, or stopped at an entry it could not read or write (R605). -/
inductive CloseEnd where
  | none | closed | failed
deriving DecidableEq, Repr

/-- The scale table as it stood when the step began: its run fields zero, as every close leaves them (R132). -/
def tableBefore (b : Block) (j : Nat) : Kept :=
  let k := keepRange b (sclBase b j) (64 * sclSize b j)
  { k with bytes := k.bytes.zipIdx.map fun p => if p.2 % 64 / 4 = 1 ∨ 16 ≤ p.2 % 64 ∧ p.2 % 64 < 40 then 0 else p.1 }

/-- What a close reads besides the scale table: the loss word, the data position, the log slot and the areas whose records it forms. -/
def closeRanges (b : Block) (j n : Nat) : List (Nat × Nat) :=
  (scb b j 192 8, 4) :: (scb b j 200 8, 8) :: ((if 0 < logSlots b j then [(logAddr b j n, 64)] else []) ++ (mirroredAreas b j).map fun m => (m.addr, m.bytes))

/-- STEP_CLOSE: `scope` holds the job-wide run fields of the entries with SCOPE = 1. -/
def stepClose (j : Nat) (scope : List (Nat × RunFields)) (b : Block) : CloseEnd × Block :=
  if trnPhase b j ≠ 6 ∨ (trnOf b j).unresolved ∨ gleanersRun b j then (.none, b)
  else
    let n := stepNow b j
    let enabled := flag b uTrn Fld.trnSclCtrlEnable j
    let b := if enabled then addUndo j n [tableBefore b j] false b else b
    let r := if enabled then closeEntries j n scope (sclSize b j) 0 b else ([], true, b)
    if !r.2.1 then (.failed, r.2.2)
    else
      let b := if enabled then closeEvents j n r.1 r.2.2 else r.2.2
      let t := trnTouch j (closeRanges b j n) b
      if !t.1 then (.none, t.2)
      else
      let b := t.2
      let x := trnOf b j
      let replay := bitOf x.logFlags 4
      let same := !logHolds b j n || numAt b (logAddr b j n + 4) 4 == numAt b (scb b j 192 8) 4
      let old := (mirroredAreas b j).getD 2 ⟨0, 0, 0, 0, 1⟩
      let before := keepRange b old.addr old.bytes
      let b := if replay && !same then
          modJob j (fun x => { x with matched := false }) (notify uTrn Fld.trnStatusReplayMismatch .trnReplayMismatch n b)
        else if 0 < logSlots b j then trnWrite j (logAddr b j n) (logRecord b j n (chaffSummary r.1)) b else b
      -- the records of the areas: the log's old bytes stand in `before` only while they are compared
      let b := emitChanged j n ((mirroredAreas b j).take 2) b
      let b := (List.range (blocksOf old)).foldl (fun b k =>
        let o := (before.bytes.drop (65536 * k)).take 65536
        let o := o ++ List.replicate (65536 - o.length) 0
        let v := blockData b old k
        if o = v then b else sendRec j ⟨n, 0xFFFF, 6, 0, k, ownRank b j, 1, crc64 v, codeBlock 1 (xorBytes o v)⟩ b) b
      let count := ((trnOf b j).out.filter fun q => q.step = n ∧ q.kind ≠ 3).length
      let b := sendRec j ⟨n, 0xFFFF, 0, 3, count, ownRank b j, 1, 0, []⟩ b
      let b := modJob j (fun x => { x with logFlags := 0 }) b
      (.closed, setPhaseTrn j 0 (setReg uTrn (Off.trnJobClosed j) n b))

/-- Is the sweep's undo of step `k` no longer needed (R467)? `peerDone` is one more than the least DONE of the other working members' heartbeats. -/
def dropUndo (j peerDone : Nat) (frozen : Bool) (b : Block) : Block :=
  let d := trnDone b j
  if frozen ∨ d = noStep then b
  else modJob j (fun x => { x with undo := x.undo.filter fun u => !(decide (u.step + 1 ≤ d) && decide (u.step + 1 < peerDone)) }) b

/-- TRN_STEP_DONE: the buddy's acknowledgement completes the step (row 9). -/
def stepDone (j n : Nat) (b : Block) : Block :=
  if trnClosed b j = noStep ∨ trnClosed b j < n ∨ !((trnOf b j).out.any fun r => r.step = n ∧ r.kind = 3) then b
  else
    let b := modJob j (fun x => { x with out := x.out.filter fun r => r.step ≠ n }) b
    let b := setReg uTrn (Off.trnJobDone j) n b
    let b := if fld b uTrn Fld.trnJobStateMirror j = 1 then b else setFld uTrn Fld.trnJobStateMirror 2 (setFld uTrn Fld.trnJobStateRollback 1 b j) j
    notify uTrn Fld.trnStatusStepDone .trnStepDone n b

/-! ### The mirror (R342 to R345, R469, R480) -/

/-- PRED's mirrored arrays and areas as the mirror area holds them: each rounded up to 64 KiB, one after another. -/
def mirrorPlaces (b : Block) (j : Nat) : List (Mirrored × Nat) :=
  let base := scb b j 40 8
  let es := (List.range (nState b j)).map (stateEnt b (scb b j 32 8))
  ((mirroredArrays es ++ mirroredAreas b j).foldl (fun (acc : List (Mirrored × Nat) × Nat) m =>
    (acc.1 ++ [(m, acc.2)], acc.2 + 65536 * blocksOf m)) ([], base)).1

/-- Where a record's block stands in the mirror area, if the area reaches so far (MIRROR_LEN). -/
def mirrorBlock (b : Block) (j : Nat) (r : SheafRec) : Option Nat :=
  match (mirrorPlaces b j).find? fun p => p.1.entry = r.entry ∧ p.1.arr = r.array with
  | some p =>
    let a := p.2 + 65536 * r.block
    if r.block < blocksOf p.1 ∧ a + 65536 ≤ scb b j 40 8 + scb b j 48 8 then some a else none
  | none => none

/-- Apply a record to its mirror block; answers whether NEWCRC holds afterwards. -/
def applyRec (j : Nat) (r : SheafRec) (b : Block) : Bool × Block :=
  match mirrorBlock b j r with
  | none => (false, b)
  | some a =>
    let d := decodeBlock r.es r.code
    let v := if r.kind = 1 then d else xorBytes (bytesAt b a 65536) d
    let t := if r.kind = 1 then (true, b) else trnTouch j [(a, 65536)] b
    if t.1 then (decide (crc64 v = r.newcrc), trnWrite j a v t.2) else (false, t.2)

/-- A block failed its check: the buddy asks the source for it again (R343). -/
def mirrorBad (j : Nat) (r : SheafRec) (b : Block) : Block :=
  let b := modJob j (fun x => { x with bad := x.bad ++ [(r.entry, r.array, r.block)] }) b
  let b := modTrn (fun t => { t with asks := t.asks ++ [(j, r.entry, r.array, r.block)] }) b
  notify uTrn Fld.trnStatusMirrorBad .trnMirrorBad (j * 2 ^ 29 + r.src * 2 ^ 16 + r.entry) b

/-- A step's records are all here: END, and as many as it counts. -/
def stepWhole (l : List SheafRec) (n : Nat) : Bool :=
  l.any fun r => r.kind == 3 && r.step == n && r.block == (l.filter fun q => q.step = n ∧ q.kind ≠ 3).length

/-- Do a step's records all verify: does each leave the block it names with its NEWCRC? -/
def recsVerify (j : Nat) (rs : List SheafRec) (b : Block) : Bool :=
  (rs.foldl (fun acc r => let a := applyRec j r acc.2; (acc.1 && a.1, a.2)) (true, b)).1

/-- The records of a step that are held, without its END. -/
def heldRecs (b : Block) (j n : Nat) : List SheafRec := (trnOf b j).pend.filter fun r => r.step = n ∧ r.kind ≠ 3

/-- A step's records are pending no longer. -/
def dropPend (j n : Nat) (b : Block) : Block := modJob j (fun x => { x with pend := x.pend.filter fun r => r.step ≠ n }) b

/-- A received record takes a place in PEND; one that finds none is not taken, and its sender sends it again (R342, log entry 68). -/
def pendPut (j : Nat) (r : SheafRec) (b : Block) : Block :=
  let l := sheafBytes r
  match findRoom (pendSpans (trnOf b j)) (scb b j 64 8) l.length with
  | some o => trnWrite j (scb b j 56 8 + o) l
      (modJob j (fun x => { x with pend := x.pend ++ [r], pendAt := pendSpans x ++ [⟨false, r.step, o, l.length⟩] }) b)
  | none => b

/-- Where a step's records stand in PEND. -/
def pendRanges (b : Block) (j n : Nat) : List (Nat × Nat) :=
  ((trnOf b j).pendAt.filter fun s => s.step = n).map fun s => (scb b j 56 8 + s.off, s.len)

def sendAck (j n : Nat) (b : Block) : Block := modTrn (fun t => { t with acks := t.acks ++ [(j, n)] }) b

/-- Apply a whole step's records, then acknowledge unless a block failed or the job is frozen; a frozen job's step is applied only where every record
verifies (R469). -/
def applyStep (j n : Nat) (frozen : Bool) (b : Block) : Block :=
  let rs := heldRecs b j n
  let build := !rs.isEmpty && rs.all fun r => r.kind == 1
  if frozen && !recsVerify j rs b then dropPend j n b
  else
    let b := rs.foldl (fun b r =>
      let a := applyRec j r b
      if a.1 then a.2 else mirrorBad j r a.2) b
    let b := modJob j (fun x => { x with
      pend := x.pend.filter fun r => r.step ≠ n
      retained := if build then [] else rs
      mirrorStep := if n = noStep then none else some n }) b
    if (trnOf b j).bad.isEmpty ∧ !frozen then sendAck j n b else b

/-- A step not above the mirror's is acknowledged without being applied; its checks run where it is the mirror's own step (R480), and a block that fails
one withholds the acknowledgement. -/
def passStep (j n : Nat) (own : Bool) (b : Block) : Block :=
  let b := if own then (heldRecs b j n).foldl (fun b r => match mirrorBlock b j r with
    | some a =>
      let t := trnTouch j [(a, 65536)] b
      if t.1 && crc64 (bytesAt b a 65536) == r.newcrc then t.2 else mirrorBad j r t.2
    | none => b) b else b
  let b := dropPend j n b
  if own ∧ !(trnOf b j).bad.isEmpty then b else sendAck j n b

/-- A step whose records are all here is applied, or passed over. -/
def takeStep (j : Nat) (frozen : Bool) (n : Nat) (b : Block) : Block :=
  let m := (trnOf b j).mirrorStep
  let base := (heldRecs b j n).any fun r => r.kind == 1
  let t := trnTouch j (pendRanges b j n) b
  if !t.1 then t.2
  else if !base && (m.map fun k => decide (n ≤ k)).getD false then passStep j n (m == some n) t.2 else applyStep j n frozen t.2

/-- BASE records that were asked for: each that applies cleanly clears its block, and with the last one the withheld acknowledgement goes (R343). -/
def takeAsked (j : Nat) (asked : List SheafRec) (frozen : Bool) (b : Block) : Block :=
  let b := asked.foldl (fun b r =>
    let a := applyRec j r b
    if a.1 then modJob j (fun x => { x with bad := x.bad.filter (· != (r.entry, r.array, r.block)) }) a.2 else mirrorBad j r a.2) b
  if asked.isEmpty ∨ !(trnOf b j).bad.isEmpty ∨ frozen then b else sendAck j ((trnOf b j).mirrorStep.getD noStep) b

/-- MIRROR_APPLY: records of PRED arrive. A frozen job keeps none that do not make a whole step (R469). -/
def mirrorApply (j : Nat) (recs : List SheafRec) (frozen : Bool) (b : Block) : Block :=
  let t := trnTouch j [(scbBase b j, 256), (scb b j 32 8, 64 * nState b j)] b
  if !t.1 then t.2
  else
    let b := t.2
    let asked := recs.filter fun r => r.kind = 1 ∧ (trnOf b j).bad.contains (r.entry, r.array, r.block)
    let b := takeAsked j asked frozen b
    let rest := recs.filter fun r => !asked.contains r
    let b := rest.foldl (fun b r => pendPut j r b) b
    let steps := ((rest.filter fun r => r.kind = 3).map (·.step)).filter fun n => stepWhole (trnOf b j).pend n
    let b := steps.foldl (fun b n => takeStep j frozen n b) b
    if frozen then modJob j (fun x => { x with pend := [] }) b else b

/-- One BASE record. -/
def sendBase (j n : Nat) (m : Mirrored) (k : Nat) (b : Block) : Block :=
  let d := blockData b m k
  let t := trnTouch j [(m.addr + 65536 * k, min 65536 (m.bytes - 65536 * k))] b
  if !t.1 then t.2
  else sendRec j ⟨n, m.entry, m.arr, 1, k, ownRank b j, m.es, crc64 d, codeBlock m.es d⟩ t.2

/-- The source answers the buddy's request for a block (R343). -/
def sendAsked (j : Nat) (a : Nat × Nat × Nat) (b : Block) : Block :=
  match (mirroredAll b j).find? fun m => m.entry = a.1 ∧ m.arr = a.2.1 ∧ a.2.2 < blocksOf m with
  | some m => sendBase j (trnClosed b j) m a.2.2 b
  | none => b

/-- MIRROR_BUILD: the source sends BASE records of every block of every mirrored array, or of the blocks `asked` for (R343); `acked`: the buddy has
acknowledged them all (R345). The STEP of BASE records is the last closed step, 0xFFFF_FFFF before the first (log entry 68). -/
def mirrorBuild (j : Nat) (acked : Bool) (asked : List (Nat × Nat × Nat)) (b : Block) : Block :=
  let n := trnClosed b j
  let t := trnTouch j (tableRanges b j) b
  if !t.1 then t.2
  else
  let b := t.2
  if !asked.isEmpty then asked.foldl (fun b a => sendAsked j a b) b
  else if acked then
    if fld b uTrn Fld.trnJobStateMirror j = 1 then
      setFld uTrn Fld.trnJobStateMirror 2 (modJob j (fun x => { x with out := x.out.filter fun r => r.kind ≠ 1 }) b) j
    else b
  else
    let b := setFld uTrn Fld.trnJobStateMirror 1 (setFld uTrn Fld.trnJobStateRollback 0 b j) j
    let ms := mirroredAll b j
    let b := ms.foldl (fun b m => (List.range (blocksOf m)).foldl (fun b k => sendBase j n m k b) b) b
    if (trnOf b j).failed.isSome then b
    else
    let last : SheafRec := ⟨n, 0xFFFF, 0, 3, (ms.map blocksOf).sum, ownRank b j, 1, 0, []⟩
    bump uTrn (Off.trnSheafBytesLo j) (sheafBytes last).length (modTrn (fun t => { t with sent := t.sent ++ [(j, sheafBytes last)] })
      (modJob j (fun x => { x with logFlags := Nat.lor x.logFlags 256 }) b))

/-- TRN_VERSION_ABORT (R332). -/
def versionAbort (j t : Nat) (b : Block) : Block := notify uTrn Fld.trnStatusVersion .trnVersionAbort (j * 2 ^ 29 + t) b

/-- Roll the mirror back in place by one step: its retained records once more (R344). -/
def mirrorRollback (j : Nat) (b : Block) : Block :=
  let b := (trnOf b j).retained.foldl (fun b r => if r.kind = 1 then b else (applyRec j r b).2) b
  modJob j (fun x => { x with retained := [], mirrorStep := x.mirrorStep.map fun k => k - 1 }) b

end Sys2Proof.Machine
end

