-- ==== Sys2Proof/Machine/RegAccess.lean ====
section
/-! DEFINITION. Reads and writes of registers (R9 to R15, R25, R27, R33, R34, R427, R498): the values registers read as, what a read clears, and what
a write sets going. -/

namespace Sys2Proof.Machine

/-! ### Reads -/

/-- The 16 bytes of an event record (Table 1.8). -/
def evtBytes (r : EvtRec) : List Byte :=
  leBytes 2 (evCode r.ev) ++ leBytes 2 r.source ++ leBytes 2 r.rseq ++ leBytes 2 (evSeverity r.ev) ++ leBytes 4 r.arg ++ leBytes 4 r.ttime

/-- A word of EVT_RING. -/
def evtRingWord (b : Block) (u i : Nat) : Nat := match b.face.ring.find (u * 64 + i / 4) with
  | some r => leAt (evtBytes r) (4 * (i % 4)) 4
  | none => 0

/-- Is an offset the `i`-th of an array that starts at `o0` with a stride? -/
def arrayIdx (o o0 stride n : Nat) : Option Nat := if o0 ≤ o ∧ (o - o0) % stride = 0 ∧ (o - o0) / stride < n then some ((o - o0) / stride) else none

/-- QCP_DEVSTATE as it reads. -/
def qcpDevstate (b : Block) : Nat :=
  devState b * 2 ^ 28 + (b.qcp.jobs.foldl (fun n p => n + 2 ^ p.1) 0) * 2 ^ 8 + (sessCount false false b) % 128

/-- What a common-face register of a unit reads as, where the value is not simply held. -/
def commonView (b : Block) (u o : Nat) : Option Nat :=
  if o = Off.unitId then some (unitId u)
  else if o = Off.unitSummary then some (unitSummary b u)
  else (arrayIdx o (Off.evtRing 0) 4 256).map (evtRingWord b u)

/-- What a block register of a unit reads as, where the value is not simply held. -/
def blockView (b : Block) (u o : Nat) : Option Nat := match kindOf u with
  | some .chip =>
    if o = Off.grnCapacity then some (grnCapacity b) else if o = Off.grnRetire then some (grnRetire b)
    else if o = Off.grnRedir then some (grnRedir b) else none
  | some .tile =>
    if o = Off.tilStream then some (tilStream b (u - 64)) else if o = Off.tilToken then some (tilToken b (u - 64))
    else if o = Off.thrSlot then some (thrSlot (tileOf b (u - 64))) else none
  | some .stack =>
    if absentHere u o then none
    else if o = Off.grnStkMapused then some (b.grn.mapUsed.get 0 (u - 160))
    else if o = Off.grnGrState then some (grState b (u - 160))
    else (arrayIdx o (Off.grnHrvState 0) 0x20 8).map (hrvState b ((u - 160) / 8))
  | some .channel =>
    let ch := 32 * ((u - 512) % 16) + (u - 512) / 16
    if o = Off.grnChState then some (grnChState b ch) else if o = Off.grnChSpare then some (grnChSpare b ch)
    else if o = Off.grnChRmap then some (grnChRmap b ch) else if o = Off.grnChFail then some (grnChFail b ch) else none
  | some .gleaner => if o = Off.glnState then some (glState b (u - 4096)) else none
  | some .ctx =>
    if o = Off.ctxQcache then some (b.ctx.cached.length) else (arrayIdx o (Off.ctxTileLend 0) 4 64).map (tileLend b)
  | some .col => if o = Off.colState then some (colState b (u - 24)) else none
  | some .fe | some .link =>
    if o = Off.macState then some (macState b u) else (arrayIdx o (Off.macRxqState 0) 8 64).map (rxqState b u)
  | some .trn => if o = Off.trnOffences then some (trnOffences b) else none
  | some .qcp => if o = Off.qcpDevstate then some (qcpDevstate b) else none
  | some .sec =>
    if o = Off.secState then some (secState b) else if o = Off.secFloor then some b.tly.store.floor
    else if o = Off.secLimits then some (secLimits b) else (arrayIdx o (Off.secIdkey 0) 4 8).map (secIdKey b)
  | some .tly =>
    if o = Off.tlyPower then some (tlyPower b) else if o = Off.tlyFeed then some (tlyFeed b)
    else if o = Off.tlyTimeLo then some (b.face.time % 2 ^ 32) else if o = Off.tlyBbHead then some b.tly.store.bbHead
    else if o = Off.tlyBbInfo then some (bbInfo b) else (arrayIdx o (Off.tlyBbData 0) 4 16).map (bbData b)
  | _ => none

/-- The value a register shows, before anything a read clears. -/
def regValue (b : Block) (u o : Nat) : Nat := match commonView b u o with
  | some v => v % 2 ^ 32
  | none => match blockView b u o with
    | some v => v % 2 ^ 32
    | none => match rowAt u o with
      | none => 0
      | some r => if r.acc = .wo then 0 else reg b u o

/-- Is an offset the low, or the high, word of a 64-bit counter (R12)? EVT_DROP is a counter of one word. -/
def isPairLo (u o : Nat) : Bool :=
  (u == uTly && o == Off.tlyTimeLo) || (o % 8 == 0 && o != Off.evtDrop && (match rowAt u o with
    | some r => r.acc == .rc
    | none => false))
def isPairHi (u o : Nat) : Bool := o % 8 == 4 && isPairLo u (o - 4)

/-- The shadow of a counter's high word. -/
def shadowOf (b : Block) (u o : Nat) : Nat := (b.face.shadow.get 0 (regKey u o)).toNat
def setShadow (u o v : Nat) (b : Block) : Block :=
  { b with face := { b.face with shadow := b.face.shadow.put (regKey u o) (BitVec.ofNat 32 v) } }

/-- The high word of a counter. -/
def pairHigh (b : Block) (u o : Nat) : Nat := if u = uTly ∧ o = Off.tlyTimeLo then b.face.time / 2 ^ 32 else reg b u (o + 4)

/-- Is it a MAC counter register, which only the reeve reads (R427)? -/
def isMacCounter (u o : Nat) : Bool :=
  (kindOf u == some .fe || kindOf u == some .link) && ((decide (Off.macCntLo 0 ≤ o) && decide (o < Off.macCntLo 29)) ||
    (decide (Off.macPfcRxLo 0 ≤ o) && decide (o < Off.macPfcTxHi 7 + 4)))

/-- Clear what a read of a register clears. -/
def readClears (u o : Nat) (b : Block) : Block := match rowAt u o with
  | some r => if r.acc = .rc then (if isPairLo u o then setReg u (o + 4) 0 (setReg u o 0 b) else if isPairHi u o then b else setReg u o 0 b) else b
  | none => b

/-- Can a unit's window answer at all: it exists, and the main die is up for it (R25, R499)? -/
def windowThere (b : Block) (u : Nat) : Bool := (kindOf u).isSome && (u == uTly || railsUp b)

/-- Does a module held in reset absorb the access (R513)? All of the main die does, but for UNIT_RESET and the other common-face registers of the chip,
whose HOLD releases it. -/
def heldAway (b : Block) (u o : Nat) : Bool := railsUp b && moduleHeld b && u != uTly && !(u == uChip && decide (o < 0x1_0000))

/-- Is it a counter of waits that contention inside a unit brings: LFT_CONFLICT (R183), and the stalls of causes 0 to 3 and 5 with the wait of
causes 0 to 5 (R223, R224)? Nothing the spec says fixes how long the units contend. -/
def isWaitCounter (u o : Nat) : Bool := isPairLo u o && match kindOf u with
  | some .tile => o == Off.lftConflictLo
  | some .stack => [0, 1, 2, 3, 5].any (fun c => o == Off.grnStallEvtLo c) || (List.range 6).any (fun c => o == Off.grnStallNsLo c)
  | _ => false

/-- Can such a counter have gained since it was last looked at? LFT_CONFLICT only where its loft has been accessed (R183). -/
def hasWaited (u : Nat) (b : Block) : Bool := kindOf u != some .tile || b.grn.loftUsed.contains (u - 64)

/-- What such a counter gained since it was last looked at: a free value (log entry 59). -/
def addWaits (u o : Nat) (b : Block) : Block :=
  if isWaitCounter u o && hasWaited u b then
    let r := takeFree b
    bump u o r.1 { r.2 with grn := { r.2.grn with loftUsed := r.2.grn.loftUsed.filter fun t => uTile t != u } }
  else b

/-- Counters 24 and 26 measure up to the moment of the read (R429). -/
def macMeasures (u o : Nat) (b : Block) : Block :=
  if (kindOf u == some .fe || kindOf u == some .link) && o == Off.macCntLo 24 then settleHeld u b
  else if (kindOf u == some .fe || kindOf u == some .link) && o == Off.macCntLo 26 then settleLpi u b
  else b

/-- A read of a register by unit `rdr`: status and value. A misaligned offset in the window of a unit that does not exist meets R9 and R11 both; it
answers BAD_ARGUMENT (log entry 63). -/
def regRead (rdr u o : Nat) (b : Block) : Status × Nat × Block :=
  if o % 4 ≠ 0 then (.badArgument, 0, b)
  else if heldAway b u o then (.resetAbsorbed, 0, absorb 1 b)
  else if !windowThere b u then (.notPresent, 0, if mainOn b then raise rdr .sysAddrFault ((u * 2 ^ 20 + o) % 2 ^ 32) b else b)
  else if isMacCounter u o && rdr != uReeve then (.notPresent, 0, b)
  else if isPairHi u o then (.ok, shadowOf b u o, b)
  else
    let b := macMeasures u o (addWaits u o b)
    let v := regValue b u o
    let b := if isPairLo u o then setShadow u (o + 4) (pairHigh b u o) b else b
    (.ok, v, readClears u o b)

/-! ### Mailboxes (R33 to R35, R599) -/

/-- A write of MBX_CTRL: a new POST_SEQ posts, or is rejected while a post is unanswered or the unit is in reset. -/
def mbxPost (u v : Nat) (b : Block) : Block :=
  let c := reg b u Off.mbxCtrl
  let post := v / 2 ^ 16 % 2 ^ 16
  if post = c / 2 ^ 16 then b
  else if c / 2 ^ 16 ≠ c % 2 ^ 16 ∨ inReset b u then setSq u Fld.unitStatusMbxReject b
  else setReg u Off.mbxCtrl (post * 2 ^ 16 + c % 2 ^ 16) b

/-- MBX_REPLY: the unit answers the open post: no chapter defines an opcode, so the status is BAD_ARGUMENT (R35); the spec states nothing else of
the reply, so the rest of MBX_OUT is free values (log entry 50). While the main die is off the tally interface answers and raises nothing (R585). -/
def mbxReply (u : Nat) (b : Block) : Block :=
  let c := reg b u Off.mbxCtrl
  if c / 2 ^ 16 = c % 2 ^ 16 ∨ inReset b u then b
  else
    let b := (List.range 16).foldl (fun b n =>
      let r := takeFree b
      setReg u (Off.mbxOut n) (if n = 0 then r.1 % 2 ^ 16 * 2 ^ 16 + statusCode .badArgument else r.1) r.2) b
    let b := setReg u Off.mbxCtrl (c / 2 ^ 16 * 2 ^ 16 + c / 2 ^ 16) b
    let b := setSq u Fld.unitStatusMbxReply b
    if mainOn b then raise u .sysMbxReply (c / 2 ^ 16) b else b

/-! ### Writes -/

/-- Does a job slot hold a job (R315, R400, R495)? -/
def slotHolds (b : Block) (j : Nat) : Bool := (b.qcp.jobs.find j).isSome

/-- A write that only sets bits, as its row's access type states (Table 0.4). -/
def plainWrite (u o v : Nat) (b : Block) : Block := match rowAt u o with
  | none => b
  | some r => match r.acc with
    | .rw => setReg u o (maskedWrite (reg b u o) v r.wmask) b
    | .sq => writeSq u o v b
    | _ => b

/-- A write of SYS_BOOT_CMD: one action at a time (R502). -/
def bootCmdWrite (v : Nat) (b : Block) : Block := match v % 64 with
  | 0 => b
  | 1 => bootSpines b
  | 2 => bootTrain [] b
  | 4 => bootVerify b
  | 8 => bootLoad [] b
  | 16 => bootSelfTest [] b
  | 32 => bootStart b
  | _ => setSq uChip Fld.sysBootStatusCmdReject b

/-- Registers of a tile that take writes only in IDLE; TIL_STEP also in ENDED. -/
def tileIdleOnly (o : Nat) : Bool :=
  o == Off.tilProgLo || o == Off.tilProgHi || o == Off.tilProgLen || o == Off.tilStep || (arrayIdx o (Off.tilLmap 0) 4 16).isSome

/-- A write of a tile's block register. -/
def tileRegWrite (u o v : Nat) (b : Block) : Block :=
  let t := u - 64
  let x := tileOf b t
  if o = Off.tilCtrl then tilCtrlWrite t v b
  else if o = Off.tilIdent then tilIdentWrite t v b
  else if o = Off.thrCtrl then thrCtrlWrite t v b
  else if tileIdleOnly o then
    if x.stream = .idle ∨ (o = Off.tilStep ∧ x.stream = .ended) then plainWrite u o v b else ctrlReject t b
  else match arrayIdx o (Off.lftShare 0) 4 8 with
  | some j => shareWrite t j v b
  | none => plainWrite u o v b

/-- A write of a stack controller's block register. -/
def stackRegWrite (u o v : Nat) (b : Block) : Block :=
  let s := u - 160
  if absentHere u o then b
  else if o = Off.grnGlCmd then
    let b := if bitOf v 0 then launch s b else b
    if bitOf v 1 then abort s b else b
  else if Off.grnGlEntry ≤ o ∧ o ≤ Off.grnGlMask 3 then
    if launchWritable b s then plainWrite u o v b else b
  else if o = Off.grnGrCtrl then grantCtrlWrite s (plainWrite u o v b)
  else match arrayIdx (o / 0x20 * 0x20) 0x11000 0x20 8 with
  | some j =>
    if o = Off.grnHrvCmd j then
      let b := if bitOf v 0 then hrvRun (s / 8) j [] b else b
      if bitOf v 1 then hrvStop (s / 8) j b else b
    else if (harvestOf b (s / 8) j).phase = .idle then plainWrite u o v b else b
  | none => plainWrite u o v b

/-- A write of a chip block register. -/
def chipRegWrite (u o v : Nat) (b : Block) : Block :=
  if o = Off.grnLocalLo then grnLocalWrite false v b
  else if o = Off.grnLocalHi then grnLocalWrite true v b
  else if o = Off.sysBootCmd then bootCmdWrite v b
  else if o = Off.grnScrubCtrl then
    let h := v % 32
    plainWrite u o (if 1 ≤ h ∧ h ≤ 24 then v else withBits v 4 0 (reg b u o % 32)) b
  else match arrayIdx (o / 0x20 * 0x20) 0x30100 0x20 8 with
  | some j =>
    let b := if slotHolds b j then b else plainWrite u o v b
    if o = Off.jxlJobCtrl j ∧ bitOf v 29 then flushJob j b else b
  | none => match arrayIdx (o / 0x40 * 0x40) 0x40000 0x40 8 with
    | some j => if (o = Off.sysRecAreaLo j ∨ o = Off.sysRecAreaHi j) ∧ slotHolds b j then b else plainWrite u o v b
    | none => plainWrite u o v b

/-- A write of a MAC register of a port or link. -/
def macRegWrite (u o v : Nat) (b : Block) : Block :=
  if o = Off.macPauseCtrl then pauseModeWrite u v b
  else if o = Off.macCtrl then macCtrlWrite u v b
  else if o = Off.macMaxlen then
    if 1518 ≤ v % 2 ^ 14 ∧ v % 2 ^ 14 ≤ 16000 then plainWrite u o v b else b
  else match arrayIdx o (Off.macRxqCfg 0) 8 64 with
  | some q => rxqCfgWrite u q v b
  | none => plainWrite u o v b

/-- A write of a training-state register. -/
def trnRegWrite (u o v : Nat) (b : Block) : Block := match arrayIdx o (Off.trnSclCtrl 0) 0x20 8 with
  | some j => sclCtrlWrite j v b
  | none => plainWrite u o v b

/-- A write of a power manager register; the status of a rejected cap (R558). -/
def pwrRegWrite (u o v : Nat) (b : Block) : Status × Block :=
  if o = Off.pwrCap then pwrCapWrite v b
  else if o = Off.pwrTherm then (.ok, if 80 ≤ v % 256 ∧ v % 256 ≤ 105 then plainWrite u o v b else b)
  else (.ok, plainWrite u o v b)

/-- A write of a tally interface register. -/
def tlyRegWrite (fromFe : Bool) (u o v : Nat) (b : Block) : Status × Block :=
  if o = Off.tlyPowerCmd then tallyCmd v b
  else if o = Off.tlyRing then (.ok, tlyRingWrite v fromFe b)
  else if o = Off.tlyBbSel then (.ok, bbSelect v b)
  else (.ok, plainWrite u o v b)

/-- A write of a block register by kind of unit. -/
def blockRegWrite (fromFe : Bool) (u o v : Nat) (b : Block) : Status × Block := match kindOf u with
  | some .chip => (.ok, chipRegWrite u o v b)
  | some .tile => (.ok, tileRegWrite u o v b)
  | some .stack => (.ok, stackRegWrite u o v b)
  | some .channel => (.ok, if o = Off.grnChRepair then chRepairWrite (32 * ((u - 512) % 16) + (u - 512) / 16) v b else plainWrite u o v b)
  | some .trn => (.ok, trnRegWrite u o v b)
  | some .ctx => (.ok, match arrayIdx (o / 0x20 * 0x20) 0x10100 0x20 8 with
    | some j => if slotHolds b j then b else plainWrite u o v b
    | none => plainWrite u o v b)
  | some .link =>
    if o = Off.jxlCtrl then (.ok, linkModeWrite (u - 128) v b)
    else if o = Off.jxlLanemap then (.ok, lanemapWrite (u - 128) v b)
    else (.ok, if 0x2_0000 ≤ o then macRegWrite u o v b else plainWrite u o v b)
  | some .fe => (.ok, macRegWrite u o v b)
  | some .col => (.ok, if o = Off.colCmd then (if bitOf v 3 then collAbort (u - 24) (v % 8) b else b) else plainWrite u o v b)
  | some .sec => (.ok, if o = Off.secFloorRaise then floorRaise v b else plainWrite u o v b)
  | some .pwr => pwrRegWrite u o v b
  | some .tly => tlyRegWrite fromFe u o v b
  | _ => (.ok, plainWrite u o v b)

/-- Is it a register whose write the tally die answers with a change of its store (R361, R542)? -/
def changesStore (u o : Nat) : Bool := (u == uSec && o == Off.secFloorRaise) || (decide (128 ≤ u) && decide (u < 152) && o == Off.jxlLanemap)

/-- A write of a register by unit `wr`; `fromFe` says the writer is a front-end session (R575). A misaligned offset in the window of a unit that does
not exist answers BAD_ARGUMENT and raises nothing: the spec gives R9 and R11 no order (log entry 63). -/
def writeAny (wr : Nat) (fromFe : Bool) (u o v : Nat) (b : Block) : Status × Block :=
  let v := v % 2 ^ 32
  if o % 4 ≠ 0 then (.badArgument, b)
  else if heldAway b u o then (.resetAbsorbed, absorb 1 b)
  else if !windowThere b u then (.notPresent, if mainOn b then raise wr .sysAddrFault ((u * 2 ^ 20 + o) % 2 ^ 32) b else b)
  else if o = Off.unitReset then (.ok, unitResetWrite u v 0 b)
  else if o = Off.mbxCtrl then (.ok, mbxPost u v b)
  else if o < 0x1_0000 then (.ok, plainWrite u o v b)
  else blockRegWrite fromFe u o v b

/-- A write of a register by unit `wr` (R15). Only the registers of `changesStore` reach the tally store. -/
def regWrite (wr : Nat) (fromFe : Bool) (u o v : Nat) (b : Block) : Status × Block :=
  let r := writeAny wr fromFe u o v b
  (r.1, if changesStore u o then r.2 else keepTally (fun _ => r.2) b)

/-! ### Health on its way up (R29) and the handshake watchdog (R42) -/

/-- A member's WORST reaches its parent; SYS_MEMBER_HEALTH is raised there where it changed. -/
def memberHealth (m : Nat) (b : Block) : Block := match parentOf m with
  | none => b
  | some p =>
    let w := worstOf b m
    if w = b.face.seen.get 0 m then b
    else notify p Fld.unitStatusMemberHealth .sysMemberHealth (m * 2 ^ 16 + w) { b with face := { b.face with seen := b.face.seen.put m w } }

/-- The stall watchdog fires for a request of a unit's port, unacknowledged since `since` (R42, R43). -/
def hsStall (u port since : Nat) (b : Block) : Block :=
  if b.face.time < since + 8000 then b
  else notify u Fld.unitStatusHsStall .sysHsStall port (setOwn u hFailed b)

end Sys2Proof.Machine
end

