-- ==== Sys2Proof/Machine/Qcp.lean ====
section
/-! DEFINITION. The QCP engine (R431 to R450, R454, R456): what it does with each frame the host sends, and the frames it sends of itself. -/

namespace Sys2Proof.Machine

/-! ### Frames at the head of a receive queue -/

/-- Opcodes a host may send (Table 12.2). -/
def hostOp (op : Nat) : Bool := [0x01, 0x04, 0x10, 0x11, 0x13, 0x30, 0x32, 0x33, 0x41].contains op

/-- The engine takes the oldest frame of a front-end receive queue with CONSUMER = 1. A frame R431 or R432 discards is counted; one with
another opcode is left to that opcode's command. -/
def engineTake (port q op : Nat) (run : Flow → QHead → List Byte → List Byte → Block → Block) (b : Block) : Block :=
  let u := uFe port
  if !mainOn b || consumerOf b u q != 1 then b
  else match rxOf (portOf b u) q with
  | [] => b
  | f :: _ =>
    let bad := qcount Off.qcpRxBadLo (rxRelease u q b)
    match qcpIn b port f.bytes with
    | none => bad
    | some (fl, p) => match qcpParse p with
      | none => bad
      | some (h, c, tag) =>
        if h.dev || !hostOp h.op then bad else if h.op = op then run fl h c tag (rxRelease u q b) else b

/-- An authentic frame of a session (R433, R434). -/
def engineAuth (port q op : Nat) (run : Sess → Flow → QHead → List Byte → Block → Block) (b : Block) : Block :=
  engineTake port q op (fun fl h c tag b =>
    let r := sessTake false false fl h c tag b
    match r.1 with
    | some (s, p) => run s fl h p r.2
    | none => r.2) b

/-! ### Queues -/

/-- How far an index lies from another, modulo 2³² (R441). -/
def ahead (base i : Nat) : Nat := (i + 2 ^ 32 - base % 2 ^ 32) % 2 ^ 32
def isBelow (base i : Nat) : Bool := decide (2 ^ 31 ≤ ahead base i)

def queueRunOf (b : Block) (q : Nat) : QueueRun := b.qcp.queues.get ⟨[], [], [], [], 0⟩ q
def setQueueRun (q : Nat) (r : QueueRun) (b : Block) : Block := modQcp (fun x => { x with queues := x.queues.put q r }) b
def modQueueRun (q : Nat) (f : QueueRun → QueueRun) (b : Block) : Block := setQueueRun q (f (queueRunOf b q)) b

/-- May a key name a job slot (R437)? A slot without a job belongs to nobody. -/
def mayName (b : Block) (pub : List Byte) (j : Nat) : Bool := match b.qcp.jobs.find j with
  | some x => x.owner == pub
  | none => true

/-- Why a frame that names a queue is refused: it is not there as one of the types, or belongs to another key. -/
def queueRefusal (s : Sess) (q : Nat) (types : List Nat) (b : Block) : Option Status × Block :=
  let u := useQueue q b
  let b := u.2
  if !u.1 || !types.contains (qType b q) || !qEnabled b q then (some .notPresent, b)
  else if !mayName b s.pub (qJob b q) then (some .authFailed, b)
  else (none, b)

/-- Is a page of the queue on its way in or out? -/
def pagesMove (b : Block) (q : Nat) : Bool := (b.ctx.pageIns.any fun x => x.queue == q) || b.ctx.moves.any fun m => m.queue == q

/-- Why a page frame is refused: it names no session, or another key's. One that is disabled or closing ends what is under way for it (R300, R302). -/
def pageRefusal (s : Sess) (q : Nat) (b : Block) : Option Status × Block :=
  let u := useQueue q b
  let b := u.2
  if !u.1 || qType b q != 1 || !(qEnabled b q || pagesMove b q) then (some .notPresent, b)
  else if !mayName b s.pub (qJob b q) then (some .authFailed, b)
  else (none, b)

/-- QSTATUS: PROD and DSEQ as they stand; FIRST_MISSING is a free value where R442 does not give it. -/
def qstatus (id : Nat) (fl : Flow) (q : Nat) (st : Status) (missing : Option Nat) (b : Block) : Block :=
  let m := match missing with
    | some i => (i, b)
    | none => takeFree b
  sessSend id fl 0x12 q [] (leBytes 2 (statusCode st) ++ [0, 0] ++ leBytes 4 (qProd m.2 q) ++ leBytes 4 (qDseq m.2 q) ++ leBytes 4 m.1) false m.2

/-! ### CMD_WRITE (R440) -/

/-- The index has arrived since it was last consumed. -/
def hasArrived (b : Block) (q i : Nat) : Bool := (queueRunOf b q).arrived.contains i

/-- Indices below CONS have been consumed: their arrival is forgotten. -/
def pruneArrived (q : Nat) (b : Block) : Block :=
  let c := qCons b q
  modQueueRun q (fun r => { r with arrived := r.arrived.filter fun i => !isBelow c i }) b

/-- Write one entry; an index below PROD was already made visible. -/
def writeEntry (q i : Nat) (e : List Byte) (b : Block) : Block :=
  if isBelow (qProd b q) i then qcount Off.qcpCmdLateLo b
  else
    let b := (granaryWrite ⟨uQcp, none, false, false⟩ (ringAt b q i) e none b).2
    modQueueRun q (fun r => { r with arrived := if r.arrived.contains i then r.arrived else r.arrived ++ [i] }) b

/-! ### Doorbells (R441, R442) -/

/-- Has every index from PROD up to a doorbell's PROD − 1 arrived? -/
def allArrived (b : Block) (q prod : Nat) : Bool :=
  let n := ahead (qProd b q) prod
  decide (n ≤ 2 ^ qDepth b q) && (List.range n).all fun k => hasArrived b q ((qProd b q + k) % 2 ^ 32)

/-- A doorbell acts: PROD and DSEQ in one write, and QSTATUS with OK. -/
def actBell (q prod dseq : Nat) (w : Who) (b : Block) : Block :=
  let old := qProd b q
  let b := modQueueRun q (fun r => { r with spans := r.spans ++ [(old, prod, w)] }) b
  qstatus w.sess w.flow q .ok none (qSet q 44 4 dseq (qSet q 4 4 prod b))

/-- The held doorbells that can act do, one after another; one that has become old is answered. -/
def settleBells (q : Nat) : Nat → Block → Block
  | 0, b => b
  | n + 1, b =>
    let r := queueRunOf b q
    match r.bells.find? fun x =>
        let d := ahead (qDseq b q) x.dseq
        d = 0 ∨ 2 ^ 31 ≤ d ∨ (d = 1 ∧ allArrived b q x.prod ∧ ahead (qCons b q) x.prod ≤ 2 ^ qDepth b q) with
    | none => b
    | some x =>
      let b := setQueueRun q { r with bells := r.bells.filter (· != x) } b
      settleBells q n (if ahead (qDseq b q) x.dseq = 1 then actBell q x.prod x.dseq x.who b else qstatus x.who.sess x.who.flow q .ok none b)

/-- The lowest index from PROD on that has not arrived. -/
def firstMissingFrom (b : Block) (q : Nat) : Nat → Nat → Nat
  | 0, i => i
  | n + 1, i => if hasArrived b q i then firstMissingFrom b q n ((i + 1) % 2 ^ 32) else i

def firstMissingIdx (b : Block) (q : Nat) : Nat := firstMissingFrom b q (queueRunOf b q).arrived.length (qProd b q)

def whoOf (s : Sess) (fl : Flow) : Who := ⟨s.id, s.slot, s.pub, fl⟩

/-- CMD_WRITE. -/
def cmdWrite (port q : Nat) (b : Block) : Block := engineAuth port q 0x10 (fun s fl h p b =>
  let n := (p.length - 8) / 64
  if p.length < 72 ∨ p.length % 64 ≠ 8 ∨ 139 < n ∨ leAt p 4 4 ≠ 0 then qcount Off.qcpRxBadLo b
  else
    let c := queueRefusal s h.queue [1, 2] b
    match c.1 with
    | some st => qstatus s.id fl h.queue st none c.2
    | none =>
      let b := pruneArrived h.queue c.2
      let idx (k : Nat) : Nat := (leAt p 0 4 + k) % 2 ^ 32
      if (List.range n).any fun k => !isBelow (qProd b h.queue) (idx k) && decide (2 ^ qDepth b h.queue ≤ ahead (qCons b h.queue) (idx k)) then
        qstatus s.id fl h.queue .noResource none b
      else
        settleBells h.queue 17 ((List.range n).foldl (fun b k => writeEntry h.queue (idx k) ((p.drop (8 + 64 * k)).take 64) b) b)) b

/-- DOORBELL; in FAULT every doorbell is answered with STATE_CONFLICT (R454). -/
def doorbell (port q : Nat) (b : Block) : Block := engineAuth port q 0x11 (fun s fl h _ b =>
  let k := h.queue
  let prod := leAt h.param 0 4
  let dseq := leAt h.param 4 4
  if devState b = dsFault then qstatus s.id fl k .stateConflict none b
  else
    let c := queueRefusal s k [1, 2] b
    match c.1 with
    | some st => qstatus s.id fl k st none c.2
    | none =>
      let b := pruneArrived k c.2
      let d := ahead (qDseq b k) dseq
      if d = 0 ∨ 2 ^ 31 ≤ d then qstatus s.id fl k .ok none b
      else if 2 ^ qDepth b k < ahead (qCons b k) prod then qstatus s.id fl k .badArgument none b
      else if d = 1 ∧ allArrived b k prod then settleBells k 16 (actBell k prod dseq (whoOf s fl) b)
      else if (queueRunOf b k).bells.any fun x => x.dseq = dseq ∧ x.prod = prod then
        qstatus s.id fl k .doorbellAhead (some (firstMissingIdx b k)) b
      else if 16 ≤ (queueRunOf b k).bells.length then qstatus s.id fl k .busy none b
      else qcount Off.qcpDbHeldLo (modQueueRun k (fun r => { r with bells := r.bells ++ [⟨prod, dseq, whoOf s fl, b.face.time, false⟩] }) b)) b

/-- DOORBELL_AHEAD_TIMEOUT: the doorbells of a queue held for 10 ms are told so, once. -/
def bellTimeout (q : Nat) (b : Block) : Block :=
  if !mainOn b then b
  else ((queueRunOf b q).bells.filter fun x => !x.told && decide (x.since + 10000 ≤ b.face.time)).foldl (fun b x =>
    let b := modQueueRun q (fun r => { r with bells := r.bells.map fun y => if y = x then { y with told := true } else y }) b
    let b := notify uQcp Fld.qcpStatusDbAhead .qcpDoorbellAhead q (qcount Off.qcpDbAheadLo b)
    qstatus x.who.sess x.who.flow q .doorbellAhead (some (firstMissingIdx b q)) b) b

/-- Destroying a queue answers every held doorbell with CANCELLED, and its untaken entries never run. -/
def cancelBells (q : Nat) (b : Block) : Block :=
  let b := (queueRunOf b q).bells.foldl (fun b x => qstatus x.who.sess x.who.flow q .cancelled none b) b
  modQcp (fun x => { x with queues := x.queues.drop q }) b

/-! ### COMP_QUERY (R446) -/

def compQuery (port q : Nat) (b : Block) : Block := engineAuth port q 0x13 (fun s fl h _ b =>
  let c := queueRefusal s h.queue [2] b
  match c.1 with
  | some st => qstatus s.id fl h.queue st none c.2
  | none => match (queueRunOf c.2 h.queue).kept.find? fun k => k.1 = leAt h.param 0 4 with
    | some k => sessSend s.id fl 0x21 h.queue [] k.2 false c.2
    | none => qstatus s.id fl h.queue .notPresent none c.2) b

/-! ### DATA and pages (R448, R449) -/

/-- A DATA frame's bytes go to its window, under the job's slot. -/
def dataRx (port q : Nat) (b : Block) : Block := engineAuth port q 0x30 (fun s fl h p b =>
  if p.length < 16 ∨ leAt p 4 4 ≠ 0 then qcount Off.qcpRxBadLo b
  else match s.windows.find (leAt p 0 4) with
  | none => qstatus s.id fl h.queue .notPresent none b
  | some w =>
    let v := p.drop 16
    let off := leAt p 8 8
    if w.bytes < off + v.length then qstatus s.id fl h.queue .badArgument none b
    else (granaryWrite ⟨uQcp, some w.job, slotTrains b w.job, false⟩ (w.base + off) v none b).2) b

/-- A PAGE_IN chunk: the page is installed once all eight with the requested GEN are here; one of another GEN is refused (R297). -/
def pageInChunk (port q : Nat) (b : Block) : Block := engineAuth port q 0x32 (fun s fl h p b =>
  if p.length ≠ 16 + 8192 ∨ leAt p 12 4 ≠ 0 ∨ 8 ≤ leAt p 8 4 then qcount Off.qcpRxBadLo b
  else
    let c := pageRefusal s h.queue b
    match c.1 with
    | some st => qstatus s.id fl h.queue st none c.2
    | none =>
      let b := c.2
      let n := leAt p 0 4
      match b.ctx.pageIns.find? fun x => x.queue = h.queue ∧ x.page = n ∧ ptLoc (ptGet b h.queue n) = 2 with
      | none => b
      | some x => if x.gen ≠ leAt p 4 4 then qstatus s.id fl h.queue .badArgument none b
      else
        let x' := { x with chunks := x.chunks.put (leAt p 8 4) (p.drop 16) }
        let b := modCtx (fun c => { c with pageIns := c.pageIns.map fun y => if y = x then x' else y }) b
        if x'.chunks.length < 8 ∨ x'.full.isSome then b else settleCloses (landPage x' b)) b

/-- The home session of a job: the open session of its key that latest named it (R449). -/
def homeSession (b : Block) (j : Nat) : Option Sess := match b.qcp.jobs.find j with
  | none => none
  | some x => ((b.qcp.named.filter fun n => n.1 = j).filterMap fun n => sessOf b n.2).find? fun s => s.pub = x.owner

/-- A session that has just named a job stands first. -/
def nameJob (j id : Nat) (b : Block) : Block :=
  modQcp (fun q => { q with named := (j, id) :: q.named.filter fun n => !(n.1 == j && n.2 == id) }) b

/-- An export's copy fails: the entry is LOCAL again and the job's eviction stops. -/
def exportFailed (q n : Nat) (b : Block) : Block :=
  let j := qJob b q
  settleCloses (modCtx (fun c => { c with evicting := c.evicting.drop j }) (evictFailed q n b))

/-- PAGE_OUT: a page leaves as eight chunks. -/
def sendPageOut (s : Sess) (m : Move) (v : List Byte) (b : Block) : Block :=
  (List.range 8).foldl (fun b k => sessSend s.id s.flow 0x31 m.queue []
    (leBytes 4 m.page ++ leBytes 4 m.gen ++ leBytes 4 k ++ zeros 4 ++ (v.drop (8192 * k)).take 8192) (k < 7) b) b

/-- Page requests and exports not yet sent go to the job's home session. -/
def sendPages (b : Block) : Block :=
  let ins := b.ctx.pageIns.filter fun x => ptLoc (ptGet b x.queue x.page) == 2 && !b.qcp.toldIn.contains (x.queue, x.page, x.gen)
  let outs := b.ctx.moves.filter fun m => m.peer.isNone && !b.qcp.toldOut.contains (m.queue, m.page, m.gen)
  let b := modQcp (fun q => { q with
    toldIn := q.toldIn.filter fun t => b.ctx.pageIns.any fun x => (x.queue, x.page, x.gen) = t
    toldOut := q.toldOut.filter fun t => b.ctx.moves.any fun m => (m.queue, m.page, m.gen) = t }) b
  let b := ins.foldl (fun b x => match homeSession b (qJob b x.queue) with
    | none => b
    | some s => sessSend s.id s.flow 0x34 x.queue [] (leBytes 4 x.page ++ leBytes 4 x.gen) false
        (modQcp (fun q => { q with toldIn := q.toldIn ++ [(x.queue, x.page, x.gen)] }) b)) b
  outs.foldl (fun b m => match homeSession b (qJob b m.queue) with
    | none => exportFailed m.queue m.page b
    | some s =>
      let v := granaryRead ctxIssuer (m.local' * 65536) 65536 b
      if v.1 ≠ .ok then exportFailed m.queue m.page v.2.2
      else sendPageOut s m v.2.1 (modQcp (fun q => { q with toldOut := q.toldOut ++ [(m.queue, m.page, m.gen)] }) v.2.2)) b

/-- PAGE_ACK ends the copy of an export. -/
def pageAck (port q : Nat) (b : Block) : Block := engineAuth port q 0x33 (fun s fl h p b =>
  if p.length ≠ 8 then qcount Off.qcpRxBadLo b
  else
    let c := pageRefusal s h.queue b
    match c.1 with
    | some st => qstatus s.id fl h.queue st none c.2
    | none =>
      let b := c.2
      if b.ctx.moves.any fun m => m.queue = h.queue ∧ m.page = leAt p 0 4 ∧ m.gen = leAt p 4 4 ∧ m.peer = none then
        sendPages (settleCloses (evictDone h.queue (leAt p 0 4) b))
      else b) b

/-- EXPORT_ACK_TIMEOUT: no PAGE_ACK within HOST_TMO. -/
def exportTimeout (q n : Nat) (b : Block) : Block :=
  let tmo := max 1 (fld b uCtx Fld.ctxCtrlHostTmo) * 10000
  match b.ctx.moves.find? fun m => m.queue = q ∧ m.page = n ∧ m.peer = none with
  | some m => if m.since + tmo ≤ b.face.time then exportFailed q n b else b
  | none => b

/-! ### OPEN and CLOSE (R435, R436) -/

def openRx (port q : Nat) (b : Block) : Block := engineTake port q 0x01 (fun fl _ c _ b => openSess false false fl c b) b

def closeRx (port q : Nat) (b : Block) : Block := engineAuth port q 0x04 (fun s _ _ _ b => closeSess s.id false b) b

/-! ### SYNC (R454, R456) -/

/-- The reeve's total of a counter. -/
def totalOf (b : Block) (u o : Nat) : Nat := b.qcp.totals.get 0 (regKey u o) + (if isPairLo u o then pair b u o else reg b u o)
def totalOver (b : Block) (us : List Nat) (o : Nat) : Nat := (us.map fun u => totalOf b u o).sum

/-- A total the reeve keeps of an event. -/
def eventTotal (b : Block) (e : Ev) : Nat := b.face.counts.get 0 (evCode e)

def macUnits : List Nat := [8, 9] ++ (List.range 24).map uLink

/-- The 32 totals of Table 12.9. -/
def syncTotals (b : Block) : List Byte :=
  let chans := allChannels.map uChannel
  let ts := allTiles
  ([eventTotal b .trnStepDone, totalOver b ts Off.thrResCorrLo, totalOver b ts Off.lftCorrLo, eventTotal b .lftEccUncorr,
    totalOver b chans Off.grnChCorrLo, totalOver b chans Off.grnChUncorrLo, b.grn.retPages.length, b.grn.retired.length,
    eventTotal b .jxlRetrain, totalOf b uChip Off.jxlAuthFailLo, totalOf b uChip Off.jxlResendLo,
    totalOver b macUnits (Off.macCntLo 4) + totalOver b macUnits (Off.macCntLo 9) + totalOver b macUnits (Off.macCntLo 10),
    totalOf b uQcp Off.qcpAuthFailLo, totalOf b uQcp Off.qcpReplayDropLo, totalOf b uQcp Off.qcpDbHeldLo, totalOf b uQcp Off.qcpDbAheadLo]
    ++ List.replicate 16 0).flatMap (leBytes 8)

/-- The first 256 bytes of the summary. -/
def syncHeader (len nqueue : Nat) (b : Block) : List Byte :=
  let h := leBytes 4 len ++ [1] ++ leBytes 1 (devState b) ++ leBytes 1 (sessCount false false b) ++ leBytes 1 b.qcp.jobs.length ++
    leBytes 4 b.qcp.eseq ++ leBytes 4 b.face.time ++ leBytes 1 (ownLmin b) ++ leBytes 1 (ownLmax b) ++ leBytes 2 (ownAbi b) ++
    leBytes 1 (ownRev b) ++ [0] ++ leBytes 2 nqueue ++ leBytes 8 b.boot.fwVersion ++ leBytes 4 Config.romRevision ++
    leBytes 4 b.tly.store.floor ++ identityDigest.take 8 ++ (b.boot.fwDigest ++ zeros 64).take 64
  (h ++ zeros 256).take 256

def jobRecord (b : Block) (j : Nat) : List Byte := match b.qcp.jobs.find j with
  | none => zeros 128
  | some x =>
    let r := leBytes 1 x.jstate ++ leBytes 1 (b2n x.train + 2 * b2n x.spare) ++ leBytes 1 x.ownerSlot ++ [0] ++ leBytes 4 x.jobId ++
      leBytes 2 (ownRank b j) ++ [0, 0] ++ leBytes 4 (trnDone b j) ++ leBytes 4 (trnClosed b j) ++ leBytes 4 (reg b uTrn (Off.trnJobState j))
    (r ++ zeros 128).take 128

def sessRecord (s : Sess) : List Byte := leBytes 4 s.id ++ leBytes 1 s.slot ++ zeros 3 ++ leBytes 4 s.eseq ++ leBytes 4 s.rxHigh

def queueRecord (b : Block) (q : Nat) : List Byte :=
  leBytes 4 q ++ leBytes 1 (qType b q) ++ leBytes 1 (qJob b q) ++ [0, 0] ++ leBytes 4 (qProd b q) ++ leBytes 4 (qCons b q) ++
    leBytes 4 (qDseq b q) ++ leBytes 4 (queueRunOf b q).bells.length ++ leBytes 8 (queueRunOf b q).lastTag

/-- The HOSTCMD queues. -/
def hostQueues (b : Block) : List Nat := (List.range 0x40000).filter fun q => qType b q == 2 && qEnabled b q

/-- The whole summary, taken between commands. -/
def syncSummary (b : Block) : List Byte :=
  let qs := (hostQueues b).take 1024
  let ss := ((b.qcp.sessions.filter fun s => !s.ra).take 64).flatMap sessRecord
  syncHeader (2560 + 32 * qs.length) qs.length b ++ ((List.range 8).flatMap (jobRecord b)) ++ (ss ++ zeros 1024).take 1024 ++
    syncTotals b ++ qs.flatMap (queueRecord b)

def syncRx (port q : Nat) (b : Block) : Block := engineAuth port q 0x41 (fun s fl _ _ b =>
  if devState b = dsOff then b
  else
    let l := if devState b = dsFault then syncHeader 256 0 b else syncSummary b
    let n := (l.length + 8191) / 8192
    (List.range n).foldl (fun b k =>
      sessSend s.id fl 0x42 0 (leBytes 4 (8192 * k)) ((l.drop (8192 * k)).take 8192) (decide (k + 1 < n)) b) b) b

/-! ### Neighbours (R431): ARP, ICMP and IPv6 neighbour discovery on queue 0 (log entry 51) -/

/-- The answer to a frame's network request, if it is one: EtherType, destination MAC, payload. -/
def netReply (b : Block) (u : Nat) (f : List Byte) : Option (Nat × List Byte × List Byte) :=
  let h := ethHead 0 f
  let p := ethPayload h f
  let mac := beBytes 6 (macAddrOf b u)
  let from' := (f.drop 6).take 6
  let ip4 := ownIp4 b
  let ip6 := ownIp6 b
  let sum (l : List Byte) : List Byte := beBytes 2 (inetCheck l)
  if h.etype = 0x0806 then
    if p.take 8 = [0, 1, 8, 0, 6, 4, 0, 1] ∧ ip4 ≠ zeros 4 ∧ (p.drop 24).take 4 = ip4 then
      some (0x0806, (p.drop 8).take 6, [0, 1, 8, 0, 6, 4, 0, 2] ++ mac ++ ip4 ++ (p.drop 8).take 10)
    else none
  else if h.etype = 0x0800 then
    let m := (p.take (beNat ((p.drop 2).take 2))).drop 20
    if p.headD 0 = 0x45 ∧ p.getD 9 0 = 1 ∧ ip4 ≠ zeros 4 ∧ (p.drop 16).take 4 = ip4 ∧ beNat ((p.drop 6).take 2) % 0x4000 = 0 ∧ m.take 2 = [8, 0] ∧ 8 ≤ m.length then
      let rest := m.drop 4
      let icmp := [0, 0] ++ sum ([0, 0, 0, 0] ++ rest) ++ rest
      let ip (c : List Byte) : List Byte := [0x45, 0] ++ beBytes 2 (20 + icmp.length) ++ [0, 0, 0x40, 0, 64, 1] ++ c ++ ip4 ++ (p.drop 12).take 4
      some (0x0800, from', ip (sum (ip [0, 0])) ++ icmp)
    else none
  else if h.etype = 0x86DD then
    let m := (p.drop 40).take (beNat ((p.drop 4).take 2))
    let src := (p.drop 8).take 16
    let out (body : List Byte) : List Byte :=
      let ps := ip6 ++ src ++ beBytes 4 body.length ++ [0, 0, 0, 58]
      let c := sum (ps ++ body)
      [0x60, 0, 0, 0] ++ beBytes 2 body.length ++ [58, 255] ++ ip6 ++ src ++ body.take 2 ++ c ++ body.drop 4
    if p.getD 6 0 ≠ 58 ∨ ip6 = zeros 16 then none
    else if m.take 2 = [128, 0] ∧ (p.drop 24).take 16 = ip6 then some (0x86DD, from', out ([129, 0, 0, 0] ++ m.drop 4))
    else if m.take 2 = [135, 0] ∧ (m.drop 8).take 16 = ip6 then
      some (0x86DD, from', out ([136, 0, 0, 0, 0x60, 0, 0, 0] ++ ip6 ++ [2, 1] ++ mac))
    else none
  else none

/-- The EEE TLV of an LLDP frame, if it carries one: the partner's receive wake time, and the receive wake time of ours that it echoes (R425, log entry
61). -/
def eeeTlv : Nat → List Byte → Option (Nat × Nat)
  | 0, _ => none
  | n + 1, l =>
    let h := beNat (l.take 2)
    let v := (l.drop 2).take (h % 512)
    if l.length < 2 ∨ h / 512 = 0 then none
    else if h / 512 = 127 ∧ v.take 4 = [0, 0x12, 0x0F, 5] ∧ v.length = 14 then some (beNat ((v.drop 6).take 2), beNat ((v.drop 12).take 2))
    else eeeTlv n (l.drop (2 + h % 512))

/-- The LLDP frame that advertises the port's wake times, and echoes the partner's. -/
def eeeFrame (b : Block) (u rx : Nat) : List Byte :=
  let mac := beBytes 6 (macAddrOf b u)
  let tw (n : Nat) : List Byte := beBytes 2 n
  [0x01, 0x80, 0xC2, 0, 0, 0x0E] ++ mac ++ [0x88, 0xCC] ++ [2, 7, 4] ++ mac ++ [4, 7, 3] ++ mac ++ [6, 2, 0, 120] ++
    [0xFE, 14, 0, 0x12, 0x0F, 5] ++ tw rx ++ tw (fld b u Fld.macEeeTwRxTw) ++ tw (fld b u Fld.macEeeTwRxTw) ++ tw rx ++ tw rx ++ [0, 0]

/-- The reeve takes the partner's receive wake time into TX_TW, and advertises its own where the partner has not yet seen it (R425). -/
def eeeExchange (u : Nat) (f : List Byte) (b : Block) : Block :=
  let h := ethHead 0 f
  if h.etype ≠ 0x88CC then b
  else match eeeTlv 64 (ethPayload h f) with
  | none => b
  | some (rx, echo) =>
    let b := setFld u Fld.macEeeTwTxTw rx b
    if echo = fld b u Fld.macEeeTwRxTw then b else (macSend u 7 (eeeFrame b u rx) b).2

/-- RX_FRAME_RELEASE, with the reeve's answer where the frame is a neighbour's request on queue 0 of a front-end port, or LLDP. -/
def rxReleaseCmd (u q : Nat) (b : Block) : Block :=
  match rxOf (portOf b u) q with
  | [] => b
  | f :: _ =>
    let b' := rxRelease u q b
    if q ≠ 0 ∨ devState b = dsOff ∨ devState b = dsFault then b'
    else if (ethHead 0 f.bytes).etype = 0x88CC then eeeExchange u f.bytes b'
    else if !(u == uFe 0 || u == uFe 1) then b'
    else match netReply b u f.bytes with
    | none => b'
    | some (t, dst, p) =>
      let tag := tagBytes f.bytes
      (macSend u f.pcp (dst ++ beBytes 6 (macAddrOf b u) ++ tag ++ beBytes 2 t ++ p) b').2

/-! ### Register access (R497 to R501) -/

def raOp (op : Nat) : Bool := [0x101, 0x104, 0x105, 0x110, 0x120].contains op

/-- Ports 0 and 1 are FE0 and FE1, which the reeve serves; 2 and 3 are TRA and TRB, which the tally die serves. -/
def onRing (port : Nat) : Bool := decide (2 ≤ port)

/-- The oldest register-access frame of a server's queue. -/
def raHead (port q : Nat) (b : Block) : Option (List Byte) :=
  if onRing port then (if b.tly.powered then (b.qcp.ringIn.find? fun x => x.1 = port).map (·.2) else none)
  else if mainOn b && consumerOf b (uFe port) q == 0 then (rxOf (portOf b (uFe port)) q).head?.map (·.bytes)
  else none

def dropFirst {α : Type} (p : α → Bool) : List α → List α
  | [] => []
  | x :: r => if p x then r else x :: dropFirst p r

def raDrop (port q : Nat) (b : Block) : Block :=
  if onRing port then modQcp (fun x => { x with ringIn := dropFirst (fun y => y.1 == port) x.ringIn }) b else rxRelease (uFe port) q b

/-- Take the frame at the head if it has the opcode; malformed and reserved ones are discarded and counted. -/
def raTake (port q op : Nat) (run : Flow → QHead → List Byte → List Byte → Block → Block) (b : Block) : Block :=
  match raHead port q b with
  | none => b
  | some f =>
    let bad := qcount Off.qcpRxBadLo (raDrop port q b)
    match raIn port f with
    | none => if onRing port then bad else b
    | some (fl, p) => match qcpParse p with
      | none => bad
      | some (h, c, tag) =>
        if h.dev || !raOp h.op || h.queue != 0 then bad else if h.op = op then run fl h c tag (raDrop port q b) else b

def raAuth (port q op : Nat) (run : Sess → Flow → List Byte → Block → Block) (b : Block) : Block :=
  raTake port q op (fun fl h c tag b =>
    let r := sessTake true (onRing port) fl h c tag b
    match r.1 with
    | some (s, p) => run s fl p r.2
    | none => r.2) b

def raOpen (port q : Nat) (b : Block) : Block := raTake port q 0x101 (fun fl _ c _ b => openSess true (onRing port) fl c b) b
def raClaim (port q : Nat) (b : Block) : Block := raTake port q 0x105 (fun fl _ c _ b => claimSess (onRing port) fl c b) b
def raClose (port q : Nat) (b : Block) : Block := raAuth port q 0x104 (fun s _ _ b => closeSess s.id false b) b

/-- Has START handed over? -/
def started (b : Block) : Bool := mainOn b && devState b != dsOff

/-- May a session write registers (R501)? -/
def raMayWrite (ring : Bool) (b : Block) : Bool :=
  !started b || devState b == dsReady || devState b == dsQuarantined || (ring && devState b == dsFault)

/-- RA_BLOB: image bytes for the staging area; they are written in the states a register may be written in. -/
def raBlob (port q : Nat) (b : Block) : Block := raAuth port q 0x120 (fun _ _ p b =>
  if p.length ≠ 8 + 8192 then qcount Off.qcpRxBadLo b
  else if mainOn b && raMayWrite (onRing port) b then blobWrite (leAt p 0 8) (p.drop 8) b else b) b

/-- The run a server executes. -/
def raRun (port : Nat) (b : Block) : Option RaRun := b.qcp.ra.find? fun r => onRing r.flow.port == onRing port && (sessOf b r.sess).isSome

def raEntryOk (e : List Byte) : Bool :=
  let op := leAt e 0 1
  decide (1 ≤ op) && decide (op ≤ 4) && leAt e 1 3 == 0 && (op != 4 || (decide (1 ≤ leAt e 4 4) && decide (leAt e 4 4 ≤ 10000)))

def raWord (s : Status) (v : Nat) : List Byte := leBytes 2 (statusCode s) ++ [0, 0] ++ leBytes 4 v

/-- Values of results the spec gives no value for are free. -/
def freeResults (s : Status) : Nat → Block → List (List Byte) × Block
  | 0, b => ([], b)
  | n + 1, b =>
    let v := takeFree b
    let r := freeResults s n v.2
    (raWord s v.1 :: r.1, r.2)

/-- An entry completes: with OK the next is due; any other status cancels the rest. After the last, RA_REPLY. -/
def raResult (port : Nat) (s : Status) (v : Option Nat) (b : Block) : Block :=
  match raRun port b with
  | none => b
  | some r =>
    let x := match v with
      | some n => (n, b)
      | none => takeFree b
    let left := r.left.drop 1
    let c := if s = .ok then ([], x.2) else freeResults .cancelled left.length x.2
    let left := if s = .ok then left else []
    let results := r.results ++ [raWord s x.1] ++ c.1
    let r' : RaRun := { r with left := left, results := results, pollAt := none }
    if left.isEmpty then
      sessSend r.sess r.flow 0x111 0 [] results.flatten false (modQcp (fun q => { q with ra := q.ra.filter (· != r) }) c.2)
    else modQcp (fun q => { q with ra := q.ra.map fun y => if y = r then r' else y }) c.2

/-- An entry with an OP that is reserved, or a field that is not in range, completes with BAD_ARGUMENT. -/
def raRefuseBad (port : Nat) (b : Block) : Block := match raRun port b with
  | some r => match r.left with
    | e :: _ => if raEntryOk e then b else raResult port .badArgument none b
    | [] => b
  | none => b

/-- Begin the RA_OPS at the head when the server executes none. -/
def raBegin (port q : Nat) (b : Block) : Block :=
  if (raRun port b).isSome then b
  else raAuth port q 0x110 (fun s fl p b =>
    let n := p.length / 24
    if p.length % 24 ≠ 0 ∨ n = 0 ∨ 256 < n then qcount Off.qcpRxBadLo b
    else raRefuseBad port (modQcp (fun x => { x with ra := x.ra ++ [⟨s.id, fl, (List.range n).map fun i => (p.drop (24 * i)).take 24, [], none⟩] }) b)) b

/-- Unit and offset of a register's device address; a rank in it names another module. -/
def raAddr (e : List Byte) : Option (Nat × Nat) := match regionOf (leAt e 8 8) with
  | .window u off => some (u, off)
  | _ => none

/-- Execute the server's next entry if it has the OP. -/
def raEntry (port q op : Nat) (run : List Byte → Block → Block) (b : Block) : Block :=
  let b := raBegin port q b
  match raRun port b with
  | some r => match r.left with
    | e :: _ => if leAt e 0 1 = op then raRefuseBad port (run e b) else b
    | [] => b
  | none => b

def raUnit (port : Nat) : Nat := if onRing port then uTly else uReeve

/-- An entry whose ADDR is no register's is recorded in the ring of the server's unit (R25, R498); in D3 no event is raised (R585). -/
def raFault (port : Nat) (e : List Byte) (b : Block) : Block :=
  if mainOn b then raise (raUnit port) .sysAddrFault (leAt e 8 8 % 2 ^ 32) b else b

def raRead (port q : Nat) (b : Block) : Block := raEntry port q 1 (fun e b => match raAddr e with
  | none => raResult port .notPresent none (raFault port e b)
  | some (u, o) =>
    let r := regRead (raUnit port) u o b
    raResult port r.1 (if r.1 = .ok then some r.2.1 else none) r.2.2) b

/-- A register write from a bring-up session returns a sleeping module to D0 (R568). -/
def raWakes (b : Block) : Block := if mainOn b then wakeD0 b else b

def raWrite (port q : Nat) (b : Block) : Block := raEntry port q 2 (fun e b => match raAddr e with
  | none => raResult port .notPresent none (raFault port e b)
  | some (u, o) =>
    if !raMayWrite (onRing port) b then raResult port .stateConflict none b
    else
      let r := regWrite (raUnit port) (!onRing port) u o (leAt e 16 4) (raWakes b)
      raResult port r.1 none r.2) b

/-- A read-modify-write as one access; the new value is what the register then shows. -/
def regRmw (rdr : Nat) (fromFe : Bool) (u o v mask : Nat) (b : Block) : Status × Nat × Block :=
  let r := regRead rdr u o b
  if r.1 ≠ .ok then (r.1, 0, r.2.2)
  else
    let w := regWrite rdr fromFe u o (maskedWrite r.2.1 v mask) r.2.2
    (w.1, regValue w.2 u o, w.2)

def raRmw (port q : Nat) (b : Block) : Block := raEntry port q 3 (fun e b => match raAddr e with
  | none => raResult port .notPresent none (raFault port e b)
  | some (u, o) =>
    if !raMayWrite (onRing port) b then raResult port .stateConflict none b
    else
      let r := regRmw (raUnit port) (!onRing port) u o (leAt e 16 4) (leAt e 20 4) (raWakes b)
      raResult port r.1 (if r.1 = .ok then some r.2.1 else none) r.2.2) b

/-- One read of a POLL. -/
def raPoll (port q : Nat) (b : Block) : Block := raEntry port q 4 (fun e b => match raAddr e with
  | none => raResult port .notPresent none (raFault port e b)
  | some (u, o) =>
    let r := regRead (raUnit port) u o b
    let b := r.2.2
    if r.1 ≠ .ok then raResult port r.1 none b
    else if Nat.land r.2.1 (leAt e 20 4) = leAt e 16 4 then raResult port .ok (some r.2.1) b
    else modQcp (fun x => { x with ra := x.ra.map fun y =>
      if (raRun port b == some y) then { y with pollAt := some (y.pollAt.getD b.face.time) } else y }) b) b

/-- RA_POLL_TIMEOUT: TIMEOUT has passed since the POLL's first read. -/
def raPollTimeout (port : Nat) (b : Block) : Block := match raRun port b with
  | some r => match r.left, r.pollAt with
    | e :: _, some t => if t + 1000 * leAt e 4 4 ≤ b.face.time then raResult port .busy none b else b
    | _, _ => b
  | none => b

end Sys2Proof.Machine
end

