-- ==== Sys2Proof/Machine/Recovery.lean ====
section
/-! DEFINITION. Jobs leaving the module, and detection and recovery (chapter 13). -/

namespace Sys2Proof.Machine

/-! ### Job slots and the device state (Table 12.7, Table 12.9) -/

def modSlot (j : Nat) (f : JobSlot → JobSlot) (b : Block) : Block := match b.qcp.jobs.find j with
  | some x => modQcp (fun q => { q with jobs := q.jobs.put j (f x) }) b
  | none => b

def jEmpty : Nat := 0
def jLoaded : Nat := 1
def jRunning : Nat := 2
def jSpare : Nat := 3
def jFrozen : Nat := 4
def jStopping : Nat := 5

def jobStateOf (b : Block) (j : Nat) : Nat := match b.qcp.jobs.find j with
  | some x => x.jstate
  | none => jEmpty

def someJob (b : Block) (p : JobSlot → Bool) : Bool := b.qcp.jobs.any fun e => p e.2

/-- The device state follows the jobs where Table 12.7 says so. A frozen job counts as one that runs, for ADOPT leads to RUNNING and RESUME leaves it
(log entry 72). -/
def settleDev (b : Block) : Block :=
  let d := devState b
  if d = dsDraining then (if b.qcp.jobs.isEmpty then setDevState dsReady b else b)
  else if d = dsReady ∨ d = dsLoaded ∨ d = dsRunning ∨ d = dsSpare then
    let runs := someJob b fun x => [jRunning, jStopping, jFrozen].contains x.jstate
    setDevState (if runs then dsRunning else if someJob b fun x => x.spare then dsSpare else if b.qcp.jobs.isEmpty then dsReady else dsLoaded) b
  else b

def setJState (j n : Nat) (b : Block) : Block := settleDev (modSlot j (fun x => { x with jstate := n }) b)

/-- A job that runs is frozen; one that is only loaded, and a spare's, stays what it is. -/
def freezeSlot (j : Nat) (b : Block) : Block :=
  if jobStateOf b j = jRunning ∨ jobStateOf b j = jStopping then setJState j jFrozen b else b

/-! ### Commands under way -/

def entryOp (c : Cmd) : Nat := leAt c.entry 0 2
def entryJob (c : Cmd) : Nat := leAt c.entry 3 1 % 8

def modCmd (q i : Nat) (f : Cmd → Cmd) (b : Block) : Block :=
  modQcp (fun x => { x with cmds := x.cmds.map fun c => if c.queue = q ∧ c.idx = i then f c else c }) b

def finishCmd (c : Cmd) (s : Status) (b : Block) : Block := modCmd c.queue c.idx (fun x => { x with phase := .finished s }) b

/-- The commands of a job slot with an opcode that wait for what they set going. -/
def waitingCmds (b : Block) (p : Cmd → Bool) : List Cmd := b.qcp.cmds.filter fun c => c.phase == .waiting && p c

def opStep : Nat := 0x22

/-- A job's STEP ends with CANCELLED (Table 12.10). -/
def cancelStep (j : Nat) (b : Block) : Block :=
  modSlot j (fun x => { x with steps := none })
    ((waitingCmds b fun c => entryOp c == opStep && entryJob c == j).foldl (fun b c => finishCmd c .cancelled b) b)

/-! ### Stopping and destroying a job (R461, R465, R543) -/

/-- Steps 1 to 3 of R461: the tiles stop, lent ones are reclaimed and stop when they are back (R312), schedules and sweeps and collectives are cut off. -/
def stopJob (j : Nat) (b : Block) : Block :=
  let b := modJob j (fun x => { x with aborted := true }) b
  let b := (List.range 64).foldl (fun b t =>
    if suspendedJob b t = some j then reclaim t (setLend t { lendOf b t with stop := true } b)
    else if tileJob b t = some j ∧ (tileOf b t).stream = .running then tilCtrlWrite t (2 ^ Fld.tilCtrlStop.lo) b else b) b
  let b := (List.range 4).foldl (fun b f => if (harvestOf b f j).phase = .idle then b else hrvStop f j b) b
  let b := (List.range 32).foldl (fun b s => if bitsOf (reg b (uStack s) Off.grnGlIdent) 10 8 = j then abort s b else b) b
  (List.range 4).foldl (fun b f => collAbort f j b) b

/-- A module leaves a job's fabric: binding and keys go. -/
def dropKeys (j : Nat) (b : Block) : Block :=
  let keep {α : Type} (m : SMap α) : SMap α := m.filter fun p => p.1 / 1024 != j
  modFab (fun f => { f with
    pairs := keep f.pairs
    agree := keep f.agree
    members := keep f.members
    beats := keep f.beats
    silent := f.silent.filter fun k => k / 1024 != j
    admitting := f.admitting.drop j
    admitFail := f.admitFail.drop j }) (setFld uChip Fld.jxlJobCtrlValid 0 (flushJob j b) j)

/-- A queue goes: its doorbells are cancelled; a session's pages are freed once no batch or move holds them (Table 8.7). -/
def dropQueue (q : Nat) (b : Block) : Block :=
  if qType b q = 1 then
    settleCloses (modCtx (fun c => { c with closing := if c.closing.contains q then c.closing else c.closing ++ [q] }) (clearEnabled q (cancelBells q b)))
  else qSet q 0 1 0 (cancelBells q b)

/-- The job's registers that say a slot is in use, its programs, tensors, windows and records, and its tiles and shares. -/
def clearSlot (j : Nat) (b : Block) : Block :=
  let mine := (List.range 64).filter fun t => tileJob b t = some j ∨ ((lendOf b t).state ≠ .home ∧ ((lendOf b t).tjob = j ∨ (lendOf b t).sjob = j))
  let b := mine.foldl (fun b t => setLend t { lendOf b t with state := .home } (modCtx (fun c => { c with saved := c.saved.drop t }) (pulse (uTile t) 0 b))) b
  let b := (List.range 64).foldl (fun b t => setReg (uTile t) (Off.lftShare j) 0 b) b
  let b := (List.range 32).foldl (fun b s => (List.range 3).foldl (fun b r =>
    let w := reg b (uStack s) Off.grnGlRgn
    let lo := 4 * r
    if bitOf w (lo + 3) ∧ bitsOf w (lo + 2) lo = j then setReg (uStack s) Off.grnGlRgn (withBits w (lo + 3) lo 0) b else b) b) b
  let gone := b.boot.programs.filter fun p => p.job = j ∧ p.kind = 2
  let b := { b with til := { b.til with progRanges := b.til.progRanges.filter fun r => !(gone.any fun p => p.off == r.1 && p.bytes == r.2) } }
  let b := modBoot (fun x => { x with programs := x.programs.filter fun p => p.job != j, tensors := x.tensors.filter fun t => t.job != j }) b
  let b := modCtx (fun c => { c with
    batches := c.batches.filter fun x => x.job != j
    evicting := c.evicting.drop j
    allocWaits := c.allocWaits.filter fun w => w.job != j }) b
  let b := modQcp (fun q => { q with
    jobs := q.jobs.drop j
    named := q.named.filter fun n => n.1 != j
    sessions := q.sessions.map fun s => { s with windows := s.windows.filter fun w => w.2.job != j } }) b
  setFld uCtx Fld.ctxJobCtrlValid 0 { (modTrn (fun t => { t with jobs := t.jobs.drop j }) b) with rec' := b.rec'.drop j } j

/-- Does a command name the job of its JOB field? JOB_CREATE makes the job, SPARE_ASSIGN names it by JOBID. -/
def namesJob (op : Nat) : Bool := decide (0x11 ≤ op) && op != 0x27

/-- What waits for something of a job that leaves is cancelled (log entry 76); JOB_STOP has its end, and a JOB_DESTROY waits for its tiles. -/
def cancelJob (j : Nat) (b : Block) : Block :=
  (waitingCmds b fun d => namesJob (entryOp d) && entryJob d == j && entryOp d != 0x11 && entryOp d != 0x24).foldl (fun b d => finishCmd d .cancelled b) b

/-- The job leaves the module: it stops, its queues and keys go, its slot becomes free; `scrubs` writes its frames over and frees them. -/
def takeJobOut (scrubs : Bool) (j : Nat) (b : Block) : Block :=
  let b := stopJob j (cancelJob j (cancelStep j b))
  let b := ((List.range 0x40000).filter fun q => qType b q != 0 && qJob b q == j).foldl (fun b q => dropQueue q b) b
  let b := clearSlot j (dropKeys j b)
  if scrubs then scrubJob j b else b

/-- The job leaves, and the device state follows (Table 12.7). -/
def removeJob (scrubs : Bool) (j : Nat) (b : Block) : Block := settleDev (takeJobOut scrubs j b)

/-! ### The recovery area (R470) -/

def recOf (b : Block) (j : Nat) : RecJob := b.rec'.get RecJob.init j
def setRec (j : Nat) (r : RecJob) (b : Block) : Block := { b with rec' := b.rec'.put j r }
def modRec (j : Nat) (f : RecJob → RecJob) (b : Block) : Block := setRec j (f (recOf b j)) b

/-- The reeve writes a roster entry. -/
def setRole (j r v : Nat) (b : Block) : Block := (engineWrite uReeve (rosterAt b j r) (leBytes 8 v) b).2

/-- The shrink plan for the loss of a rank: its offset and length. -/
def planOf (b : Block) (j r : Nat) : Nat × Nat := (numAt b (recArea b j + 0x1_2000 + 16 * r) 8, numAt b (recArea b j + 0x1_2000 + 16 * r + 8) 4)

def working (b : Block) (j : Nat) : List Nat := (List.range 1024).filter fun r => roleOf b j r = 1
def spares (b : Block) (j : Nat) : List Nat := (List.range 1024).filter fun r => roleOf b j r = 2
def isSilent (b : Block) (j r : Nat) : Bool := b.fab.silent.contains (rankKey j r)

/-- The lead, as this member sees it (R471). -/
def leadOf (b : Block) (j : Nat) : Option Nat := (working b j).find? fun r => r == ownRank b j || !isSilent b j r
def isLead (b : Block) (j : Nat) : Bool := leadOf b j == some (ownRank b j)

/-- A recovery message. -/
structure RecMsg where
  epoch : Nat
  kind : Nat
  src : Nat
  seq : Nat
  step : Nat
  ranks : List Nat
  arg : Nat
deriving DecidableEq, Repr

def RecMsg.bytes (m : RecMsg) : List Byte :=
  leBytes 4 m.epoch ++ leBytes 1 m.kind ++ [0] ++ leBytes 2 m.src ++ leBytes 4 m.seq ++ leBytes 4 m.step ++
    ((m.ranks ++ List.replicate 8 0xFFFF).take 8).flatMap (leBytes 2) ++ leBytes 8 m.arg ++ zeros 24

def recMsg (l : List Byte) : RecMsg :=
  ⟨leAt l 0 4, leAt l 4 1, leAt l 6 2 % 1024, leAt l 8 4, leAt l 12 4,
    ((List.range 8).map fun i => leAt l (16 + 2 * i) 2).filter fun r => r < 1024, leAt l 32 8⟩

def kFail : Nat := 1
def kWithdrawn : Nat := 2
def kFreeze : Nat := 3
def kFrozen : Nat := 4
def kAdopt : Nat := 5
def kAdopted : Nat := 6
def kFilled : Nat := 7
def kReplay : Nat := 8
def kReplayed : Nat := 9
def kResume : Nat := 10
def kHalt : Nat := 11
def kRepeat : Nat := 12

/-- Put a message into this module's slot in the areas of some ranks, its own included (Table 13.3). -/
def recSendAs (epoch j : Nat) (dests : List Nat) (kind step : Nat) (ranks : List Nat) (arg : Nat) (b : Block) : Block :=
  let r := recOf b j
  let own := ownRank b j
  let m : RecMsg := ⟨epoch, kind, own, (r.sent + 1) % 2 ^ 32, step, ranks, arg⟩
  let b := setRec j { r with sent := r.sent + 1 } b
  dests.foldl (fun b d =>
    if d = own then (engineWrite uReeve (recSlot b j own) m.bytes b).2
    else fabricRequest ⟨uReeve, j, d, 1, true, false, 0, recSlot b j own, 64, m.bytes⟩ b) b

/-- A message of the recovery epoch accepted last. -/
def recSend (j : Nat) (dests : List Nat) (kind step : Nat) (ranks : List Nat) (arg : Nat) (b : Block) : Block :=
  recSendAs (recOf b j).epoch j dests kind step ranks arg b

/-- Every member: working ranks and spares. -/
def everyone (b : Block) (j : Nat) : List Nat := (List.range 1024).filter fun r => roleOf b j r = 1 ∨ roleOf b j r = 2

def toLead (b : Block) (j : Nat) : List Nat := match leadOf b j with
  | some r => [r]
  | none => []

/-- The message of a rank whose SEQ has changed. -/
def newMsg (b : Block) (j r : Nat) : Option RecMsg :=
  let m := recMsg (bytesAt b (recSlot b j r) 64)
  if m.seq = (recOf b j).seen.get 0 r then none else some m

/-! ### Phases and events -/

def recPhase (b : Block) (j : Nat) : Nat := fld b uChip Fld.sysRecStatePhase j
def setRecPhase (j p : Nat) (b : Block) : Block := setFld uChip Fld.sysRecStatePhase p b j

def pNone : Nat := 0
def pFreezing : Nat := 1
def pFrozen : Nat := 2
def pAdopting : Nat := 3
def pFilling : Nat := 4
def pReplaying : Nat := 5
def pResharding : Nat := 6
def pHalted : Nat := 7
def pCkptNeeded : Nat := 8

/-- Is the job frozen: has it accepted a FREEZE, and neither halted nor begun its replay? The records of a replay are acknowledged (R480, log entry 72). -/
def recFrozen (b : Block) (j : Nat) : Bool := (1 ≤ recPhase b j && recPhase b j ≤ 4) || recPhase b j == pResharding

/-- A recovery event in the chip's ring, with its status bit. -/
def recEvent (j : Nat) (f : Field) (e : Ev) (arg : Nat) (b : Block) : Block := raise uChip e (j * 2 ^ 29 + arg % 2 ^ 29) (setSq uChip f b j)

/-! ### REPEAT and WITHDRAW (R461 to R465) -/

/-- Clear the run fields of the job's scale table. -/
def clearRunFields (j : Nat) (b : Block) : Block :=
  (List.range (sclSize b j)).foldl (fun b i =>
    let a := sclBase b j + 64 * i
    trnWrite j (a + 16) (zeros 24) (trnWrite j (a + 4) (zeros 4) b)) b

/-- A REPEAT of step `n` at this member: the units stop, what the step wrote is undone, and the step starts again once every tile is IDLE, as
STEP_START finds them. Only a step that has not closed is repeated; the records of it that came from PRED are discarded (Table 9.8). -/
def repeatStep (j n : Nat) (b : Block) : Block :=
  let b := modJob j (fun x => { x with pend := x.pend.filter fun r => r.step ≠ n }) b
  if trnPhase b j = 0 ∨ trnPhase b j = 7 ∨ stepNow b j ≠ n then b
  else
    let swept := decide (4 ≤ trnPhase b j)
    let b := clearRunFields j (stopJob j b)
    let b := if swept then (if trnPhase b j = 8 then b else setPhaseTrn j 4 (modJob j (fun x => { x with sweepBad := true }) b))
      else setPhaseTrn j 0 (undoStep j n b)
    let b := modJob j (fun x => { x with repeats := x.repeats + 1, out := x.out.filter fun r => r.step ≠ n }) b
    recEvent j Fld.sysRecStatusRepeat .sysRecRepeat n (bump uChip (Off.sysRecRepeatsLo j) 1 b)

/-- MODULE_WITHDRAW (R465). -/
def withdraw (j : Nat) (b : Block) : Block :=
  if (b.qcp.jobs.find j).isNone then b
  else
    let own := ownRank b j
    let b := recSend j (toLead b j) kWithdrawn 0 [] 0 b
    removeJob true j (recEvent j Fld.sysRecStatusWithdrawn .sysRecWithdrawn own b)

/-- A fault that calls for REPEAT arose on this module in the running step: past REPEAT_MAX it withdraws (R462); else the lead has every member repeat. -/
def repeatFault (j : Nat) (b : Block) : Block :=
  if trnPhase b j = 0 ∨ trnPhase b j = 7 then b
  else if fld b uChip Fld.sysRecCtrlRepeatMax j ≤ (trnOf b j).repeats then withdraw j b
  else if isLead b j then recSend j (everyone b j) kRepeat (stepNow b j) [] 0 b
  else recSend j (toLead b j) kRepeat (stepNow b j) [] 0 b

/-- Where an address stands among some arrays: the array and the block. -/
def blockAt (ms : List Mirrored) (a : Nat) : Option (Mirrored × Nat) :=
  (ms.find? fun m => m.addr ≤ a ∧ a < m.addr + m.bytes).map fun m => (m, (a - m.addr) / 65536)

/-- The regions a step writes before it reads them: GRAD, stash, spill and the stages of the collectives. -/
def rewrittenRegion (b : Block) (j a : Nat) : Bool :=
  ((stateEnts b j).any fun e => decide (e.grad ≤ a) && decide (a < e.grad + 4 * elemsIn e)) ||
    (decide (scb b j 112 8 ≤ a) && decide (a < scb b j 112 8 + scb b j 120 8)) ||
    (decide (scb b j 128 8 % 2 ^ 54 ≤ a) && decide (a < scb b j 128 8 % 2 ^ 54 + scb b j 136 8)) ||
    (List.range 4).any fun f => decide (stageBase b f j ≤ a) && decide (a < stageBase b f j + stageLen b f j)

/-- A line of the job failed a read at `a`, outside the arrays BLOCK_RESTORE rebuilds: a region the step writes before it reads it calls for REPEAT,
any other withdraws the module (R464). -/
def lineFailed (j a : Nat) (b : Block) : Block := if rewrittenRegion b j a then repeatFault j b else withdraw j b

/-- The arrays of R463: MASTER, M1, M2, WORK and the error area. -/
def restoredArrays (b : Block) (j : Nat) : List Mirrored := mirroredArrays (stateEnts b j) ++ (mirroredAreas b j).filter fun m => m.arr == 4

/-- The job's answer to an access that failed at a line (R463, R464). -/
def lineFault (j l : Nat) (b : Block) : Block := if (blockAt (restoredArrays b j) (64 * l)).isSome then b else lineFailed j (64 * l) b

/-- The answer to a failed access by its place: a line as R463 and R464 say, and a loft's word or an access elsewhere with REPEAT (Table 13.1). -/
def siteFault (j : Nat) (at' : FailSite) (b : Block) : Block := match at' with
  | .line l => lineFault j l b
  | _ => repeatFault j b

/-- What the engine could not reach is answered: a line as R463 and R464 say, and a place no line answers for by a withdrawal. -/
def engineEnd (j : Nat) (b : Block) : Block := match (trnOf b j).failed with
  | none => b
  | some s =>
    let b := modJob j (fun x => { x with failed := none }) b
    match s with
    | .line l => lineFault j l b
    | _ => withdraw j b

/-- A harvest's read or write failed: the job answers as to one of its own accesses (Table 13.1). -/
def harvestEnd (j : Nat) (b : Block) : Block := match (trnOf b j).failed with
  | none => b
  | some s => siteFault j s (modJob j (fun x => { x with failed := none }) b)

/-- Where the operation failed that TIL_FAULT names. -/
def faultSite (b : Block) (t : Nat) : Option FailSite :=
  ((tileOf b t).failed.filter fun p => p.1 % 1024 == fld b (uTile t) Fld.tilFaultWslot).getLast?.map (·.2)

/-- A vector mismatch of a job's tile calls for REPEAT, a second one on the same tile in one step for WITHDRAW (Table 13.1). -/
def vectorFault (j t : Nat) (b : Block) : Block :=
  let n := (recOf b j).vecFaults.get 0 t
  let key := stepNow b j * 2 + 1
  if n = key then withdraw j b else repeatFault j (modRec j (fun r => { r with vecFaults := r.vecFaults.put t key }) b)

/-- The arithmetic of a tile that a training job has lent fails while it serves: a failure of the training job (R494). -/
def lentFault (j t : Nat) (b : Block) : Block :=
  if (b.qcp.jobs.find j).isNone then b
  else if (tileOf b t).thrStopped then withdraw j b
  else if faultSite b t = some .check then vectorFault j t b else b

/-- A stream fault of a training job's tile, as Table 13.1 answers it: stale shards, lofts and vector results call for REPEAT, a second vector
mismatch on a tile in one step and a thresher's for WITHDRAW; a line of the granary as R463 (by BLOCK_RESTORE) and R464 say. -/
def streamFaultResponse (t : Nat) (b : Block) : Block := match suspendedJob b t, tileJob b t with
  | some j, _ => if fld b (uTile t) Fld.tilFaultStatus = 4 then lentFault j t b else b
  | none, none => b
  | none, some j =>
    let st := fld b (uTile t) Fld.tilFaultStatus
    if !slotTrains b j ∨ (b.qcp.jobs.find j).isNone then b
    else if st = 3 then repeatFault j b
    else if st ≠ 4 then b
    else if (tileOf b t).thrStopped then withdraw j b
    else match faultSite b t with
    | some (.line l) => lineFault j l b
    | some .check => vectorFault j t b
    | _ => repeatFault j b

/-! ### Declaring a failure (R471, R472) -/

/-- The failed ranks that no spare has taken yet. -/
def untaken (b : Block) (j : Nat) : List Nat := (recOf b j).failed.filter fun f => ((recOf b j).adopted.find f).isNone

/-- The lead declares a failed set: a FREEZE with an epoch above every one seen. A rank that a spare has taken is in it only when it has failed again
(log entry 72). -/
def declare (j : Nat) (ranks : List Nat) (b : Block) : Block :=
  let r := recOf b j
  let named := ranks.filter fun k => (working b j).contains k
  let silent := (working b j).filter fun k => isSilent b j k && k != ownRank b j
  let failed := ((List.range 1024).filter fun k => (untaken b j).contains k || named.contains k || silent.contains k).take 8
  if recPhase b j ≠ pNone ∧ failed = untaken b j then b
  else
    let e := max r.high r.epoch + 1
    let b := setFld uChip Fld.sysRecStateLead 1 (modRec j (fun r => { r with high := e }) b) j
    recSendAs e j (everyone b j) kFreeze 0 failed 0 (recEvent j Fld.sysRecStatusDeclared .sysRecDeclared (failed.headD 0) b)

/-- FAIL: a member names silent ranks to the lead. -/
def failRx (j : Nat) (m : RecMsg) (b : Block) : Block := if isLead b j then declare j m.ranks b else b

/-- WITHDRAWN: the sender has left. -/
def withdrawnRx (j : Nat) (m : RecMsg) (b : Block) : Block := if isLead b j then declare j [m.src] b else b

/-- What a member does when it finds a working rank silent: FAIL to the lead. -/
def silentResponse (j r : Nat) (b : Block) : Block :=
  if slotTrains b j ∧ isSilent b j r ∧ roleOf b j r = 1 ∧ roleOf b j (ownRank b j) = 1 then
    recSend j (toLead b j) kFail 0 [r] 0 b
  else b

/-- MAJORITY_SILENCE_WITHDRAW: more than half of the working members silent for 20 ms. -/
def majoritySilence (j : Nat) (b : Block) : Block :=
  let ws := working b j
  let quiet := ws.filter fun r => isSilent b j r && (match b.fab.beats.find (rankKey j r) with
    | some x => decide (x.at' + 20000 ≤ b.face.time)
    | none => true)
  if ws.contains (ownRank b j) ∧ ws.length < 2 * quiet.length then withdraw j b else b

/-! ### The freeze (R469, R474) -/

/-- The step of this module's mirror of PRED, reported when PRED has failed and the mirror is CURRENT. -/
def mirrorReport (b : Block) (j : Nat) : Nat :=
  let pred := scb b j 28 2 % 1024
  if (recOf b j).failed.contains pred ∧ (trnOf b j).bad = [] then (trnOf b j).mirrorStep.getD noStep else noStep

/-- Once no tile of the job holds a slot, FROZEN goes to the lead. -/
def checkFrozen (j : Nat) (b : Block) : Block :=
  if recPhase b j ≠ pFreezing ∨ !tilesHome b j ∨ !((tilesOf b j).all fun t => (tileOf b t).ops.isEmpty) then b
  else
    let b := setRecPhase j pFrozen (recEvent j Fld.sysRecStatusFrozen .sysRecFrozen ((recOf b j).epoch % 65536) b)
    recSend j (match (recOf b j).lead with
      | some l => [l]
      | none => []) kFrozen (trnDone b j) [] (mirrorReport b j) b

/-- A step that has not completed is abandoned: what it swept is undone with the steps above the base, its records are not sent. -/
def abandonSteps (j : Nat) (b : Block) : Block :=
  let d := trnDone b j
  let b := if trnPhase b j = 0 ∨ trnPhase b j = 7 then b else clearRunFields j b
  let b := modJob j (fun x => { x with
    out := x.out.filter fun r => d ≠ noStep ∧ r.step ≤ d
    pend := []
    replay := none }) b
  setPhaseTrn j 0 b

/-- FREEZE accepted. The ranks that failed before and are not resumed stay failed (Table 13.5); a rank that fails again is taken and filled anew. -/
def acceptFreeze (j : Nat) (m : RecMsg) (b : Block) : Block :=
  let b := modRec j (fun r => { r with
    epoch := m.epoch
    high := max r.high m.epoch
    lead := some m.src
    failed := (List.range 1024).filter fun k => r.failed.contains k || m.ranks.contains k
    adopted := r.adopted.filter fun p => !m.ranks.contains p.1
    filled := r.filled.filter fun k => !m.ranks.contains k
    fills := r.fills.filter fun k => !m.ranks.contains k
    frozen := []
    replayed := [] }) b
  let b := setFld uChip Fld.sysRecStateEpoch (m.epoch % 65536) b j
  let b := if m.src = ownRank b j then b else setFld uChip Fld.sysRecStateLead 0 b j
  if m.ranks.contains (ownRank b j) then withdraw j b
  else
    let b := if m.ranks = [] then cancelStep j b else b
    let b := abandonSteps j (flushJob j (stopJob j b))
    let b := rewriteVia j (m.ranks.foldl (fun b r => setRole j r 3 (routeWrite j r 0 b)) b)
    checkFrozen j (setRecPhase j pFreezing (freezeSlot j b))

/-- FREEZE: accepted when its epoch is above every accepted one, or equal and from a lower-ranked lead. -/
def freezeRx (j : Nat) (m : RecMsg) (b : Block) : Block :=
  let r := recOf b j
  let newer := decide (r.epoch < m.epoch) || (r.epoch == m.epoch && (match r.lead with
    | some l => decide (m.src < l)
    | none => true))
  if newer then acceptFreeze j m b else b

/-! ### Base step, adoption, HALT (R475, R476, R485, R493) -/

/-- HALT goes to every member; its STEP carries the base step as it stands. -/
def sendHalt (j reason : Nat) (b : Block) : Block := recSend j (everyone b j) kHalt (reg b uChip (Off.sysRecStep j)) [] reason b

/-- The mirror steps that the live buddies of failed ranks have reported: each failed rank has one buddy, and each member is one rank's (R475). -/
def reports (b : Block) (j : Nat) : List Nat :=
  (((recOf b j).frozen.filter fun p => !(recOf b j).failed.contains p.1).map fun p => p.2.2).filter fun m => m != noStep

/-- The step before another. -/
def stepBefore (n : Nat) : Nat := (n + (2 ^ 32 - 1)) % 2 ^ 32

/-- Every member has sent FROZEN. -/
def allFrozen (b : Block) (j : Nat) : Bool := ((working b j).filter fun r => r == ownRank b j || !isSilent b j r).all fun r => ((recOf b j).frozen.find r).isSome

/-- Spares that are live and have no rank to take. -/
def freeSpares (b : Block) (j : Nat) : List Nat :=
  (spares b j).filter fun k => !isSilent b j k && !((recOf b j).adopting.any fun p => p.2 == k)

/-- The spare that is to take a failed rank, if it is still there to do it. -/
def takerOf (b : Block) (j f : Nat) : Option Nat := match (recOf b j).adopting.find f with
  | some s => if (spares b j).contains s && !isSilent b j s then some s else none
  | none => none

/-- Each failed rank without a taker gets the lowest free spare (R476); the ranks that got one. -/
def assignSpares (j : Nat) : List Nat → Block → List Nat × Block
  | [], b => ([], b)
  | f :: fs, b =>
    if (takerOf b j f).isSome then assignSpares j fs b
    else
      let b := modRec j (fun r => { r with adopting := r.adopting.drop f }) b
      match freeSpares b j with
      | [] => assignSpares j fs b
      | s :: _ =>
        let r := assignSpares j fs (modRec j (fun r => { r with adopting := r.adopting.put f s }) b)
        (f :: r.1, r.2)

/-- ADOPT of each rank goes to its spare, and to the working members for the base step. -/
def sendAdopts (j : Nat) (fs : List Nat) (b : Block) : Block := fs.foldl (fun b f => match (recOf b j).adopting.find f with
  | some s => recSend j (s :: working b j) kAdopt (recOf b j).base [f] 0 b
  | none => b) b

/-- May the loss of a rank be met by SHRINK (R485)? -/
def mayShrink (b : Block) (j f : Nat) : Bool := !flag b uChip Fld.sysRecCtrlExhaust j && (planOf b j f).2 != 0

/-- SHRINK is announced by an ADOPT that names no rank: the spec gives no message of its own (log entry 72). -/
def announceShrink (j : Nat) (b : Block) : Block := recSend j (working b j) kAdopt (recOf b j).base [] 0 (setRecPhase j pResharding b)

/-- The lead chooses the base step and sends ADOPT or HALT. A fill is kept where its base is unchanged (Table 13.5). -/
def chooseBase (j : Nat) (b : Block) : Block :=
  let r := recOf b j
  if r.failed = [] then sendHalt j 2 (setReg uChip (Off.sysRecStep j) (trnDone b j) b)
  else if (reports b j).length < r.failed.length then sendHalt j 3 b
  else
    let s := stepBefore ((reports b j).foldl max 0)
    if (reports b j).any fun m => m != s && m != (s + 1) % 2 ^ 32 then sendHalt j 3 b
    else
      let b := setReg uChip (Off.sysRecStep j) s (modRec j (fun x => { x with base := s, filled := if x.base = s then x.filled else [] }) b)
      if flag b uChip Fld.sysRecCtrlManual j then sendHalt j 2 b else
      let a := assignSpares j (untaken b j) b
      let lacking := (untaken b j).filter fun f => (takerOf a.2 j f).isNone
      if lacking = [] ∨ (lacking.length = 1 ∧ mayShrink b j (lacking.headD 0)) then
        if untaken b j = [] then setRecPhase j pFilling a.2
        else if lacking = r.failed then announceShrink j a.2
        else sendAdopts j (if r.base = s then a.1 else untaken b j) (setRecPhase j pAdopting a.2)
      else sendHalt j 1 a.2

/-- A spare fell silent before it took its rank: the lead gives the rank to the next (Table 13.5). -/
def spareLost (j s : Nat) (b : Block) : Block :=
  if isLead b j ∧ (recOf b j).lead = some (ownRank b j) ∧ (recPhase b j = pAdopting ∨ recPhase b j = pFilling) ∧
      (untaken b j).any fun f => (recOf b j).adopting.find f = some s then
    chooseBase j b
  else b

/-- FROZEN. -/
def frozenRx (j : Nat) (m : RecMsg) (b : Block) : Block :=
  if !isLead b j ∨ (recOf b j).lead ≠ some (ownRank b j) then b
  else
    let b := modRec j (fun r => { r with frozen := r.frozen.put m.src (m.step, m.arg % 2 ^ 32) }) b
    if allFrozen b j ∧ recPhase b j = pFrozen then chooseBase j b else b

/-- The tiles with a training share of the job are bound to it, in rising index (log entry 53). -/
def bindTiles (j : Nat) (b : Block) : Block :=
  let ts := (List.range 64).filter fun t => bitOf (shareWord b t j) 31 && !bitOf (shareWord b t j) 30
  let maps (w : Nat) : Nat := (List.range 4).foldl (fun acc k => match ts.drop (4 * w + k) with
    | x :: _ => acc + (0x80 + x) * 2 ^ (8 * k)
    | [] => acc) 0
  ts.zipIdx.foldl (fun b p =>
    let u := uTile p.1
    let b := tilIdentWrite p.1 (ownRank b j * 2 ^ 22 + p.2 * 2 ^ 16 + 2 ^ 8 + j) b
    (List.range 16).foldl (fun b w => setReg u (Off.tilLmap w) (maps w) b) b) b

/-- The spare's tiles take the adopted rank; tiles that no JOB_START has bound are bound (log entry 72). -/
def adoptTiles (j f : Nat) (b : Block) : Block :=
  let b := if (tilesOf b j).isEmpty then bindTiles j b else b
  (tilesOf b j).foldl (fun b t => clearTokens t (setFld (uTile t) Fld.tilIdentRank f b)) b

/-- The spare takes a rank (R476). -/
def adoptRank (j f : Nat) (b : Block) : Block :=
  let former := ownRank b j
  let b := setFld uChip Fld.jxlJobCtrlValid 0 b j
  let b := setFld uChip Fld.jxlJobCtrlRank f b j
  let b := adoptTiles j f b
  let b := (List.range 32).foldl (fun b s => setFld (uStack s) Fld.grnGlIdentRank f b) b
  let b := setFld uChip Fld.jxlJobCtrlValid 1 b j
  let at' := Config.spareScb j f
  let b := setReg uTrn (Off.trnJobScbHi j) (at' / 2 ^ 32) (setReg uTrn (Off.trnJobScbLo j) at' b)
  let b := rewriteVia j (routeWrite j f (2 ^ 31 + 2 ^ 30) (routeWrite j former 0 b))
  let b := setRole j f 1 (setRole j former 0 b)
  let b := modRec j (fun r => { r with mine := true, adopted := r.adopted.put f former, fillBytes := 0 }) b
  let b := setReg uChip (Off.sysRecLast j) (2 ^ 31 + f * 2 ^ 16 + former) b
  let b := setJState j jFrozen (modSlot j (fun x => { x with spare := false }) b)
  let b := ((List.range 24).filter fun l => linkUp b l).foldl (fun b l =>
    (watchedRanks b j).foldl (fun b r => (sendSealed j r 6 2 0 0 false (some l) (beatPayload b j) b).2) b) b
  let b := recEvent j Fld.sysRecStatusAdopted .sysRecAdopted f b
  recSend j (everyone b j) kAdopted 0 [] 0 (setRecPhase j pFilling b)

/-- The base step as a member learns it: a fill for another base is sent anew (Table 13.5). -/
def learnBase (j s : Nat) (b : Block) : Block :=
  setReg uChip (Off.sysRecStep j) s (modRec j (fun r => { r with
    base := s, fills := if r.base = s then r.fills else [], fillBytes := if r.base = s then r.fillBytes else 0 }) b)

/-- ADOPT: members learn the base and which spare takes the failed rank; that spare takes it. One that names no rank announces SHRINK. -/
def adoptRx (j : Nat) (m : RecMsg) (b : Block) : Block :=
  let b := learnBase j m.step b
  match m.ranks with
  | f :: _ => if roleOf b j (ownRank b j) = 2 then adoptRank j f b else setRecPhase j pAdopting (assignSpares j [f] b).2
  | [] => setRecPhase j pResharding b

/-- Which module took a rank: the one whose frames in the rank's name the pair keys showed, else the spare to which the lead's ADOPT went. -/
def adopterOfRank (b : Block) (j f : Nat) : Option Nat :=
  (b.fab.takenBy.find (rankKey j f)).or (takerOf (assignSpares j [f] b).2 j f)

/-- ADOPTED: the adopted rank's route leads to the spare, whose former rank is no more; the keys stay those of the pair of modules. -/
def adoptedRx (j : Nat) (m : RecMsg) (b : Block) : Block :=
  let f := m.src
  match adopterOfRank b j f with
  | none => b
  | some s =>
    if f = ownRank b j then b
    else
      let route := routeOf b j s
      let b := takeRank j s f b
      let b := rewriteVia j (routeWrite j s 0 (routeWrite j f route b))
      let b := setRole j f 1 (setRole j s 0 b)
      let b := modRec j (fun r => { r with adopted := r.adopted.put f s }) b
      let b := setReg uChip (Off.sysRecLast j) (2 ^ 31 + f * 2 ^ 16 + s) b
      let b := if scb b j 26 2 % 1024 = f then setFld uTrn Fld.trnJobStateMirror 3 b j else b
      setRecPhase j pFilling b

/-! ### Fill, undo and replay (R477 to R481) -/

/-- Cut bytes into WRITE frames of at most 60 lines with their tags; a last part of a line goes without one (log entry 72). -/
def fillFrames (j f a tag : Nat) (v : List Byte) (b : Block) : Block :=
  let n := v.length / 64 * 64
  let b := (List.range ((n + 3839) / 3840)).foldl (fun b k =>
    let part := ((v.take n).drop (3840 * k)).take 3840
    let data := (List.range (part.length / 64)).flatMap fun i => (part.drop (64 * i)).take 64 ++ leBytes 4 tag
    fabricRequest ⟨uTrn, j, f, 1, true, true, 0, a + 3840 * k, part.length, data⟩ b) b
  if n = v.length then b else fabricRequest ⟨uTrn, j, f, 1, true, false, 0, a + n, v.length - n, v.drop n⟩ b

/-- A mirrored block of PRED as it stood at the base. -/
def fillBlock (b : Block) (j : Nat) (m : Mirrored) (at' k : Nat) : List Byte :=
  let v := bytesAt b (at' + 65536 * k) 65536
  if (trnOf b j).mirrorStep = some (((recOf b j).base + 1) % 2 ^ 32) then
    ((trnOf b j).retained.filter fun r => r.entry = m.entry ∧ r.array = m.arr ∧ r.block = k).foldl (fun v r => xorBytes v (decodeBlock r.es r.code)) v
  else v

/-- The buddy sends a failed rank's mirrored state to the spare that took it, the lines of the areas with LTAG 0 (log entry 72). The log goes as the
mirror holds it. -/
def sendFill (j f : Nat) (b : Block) : Block :=
  let base := (recOf b j).base
  let t := trnTouch j ((scbBase b j, 256) :: (scb b j 32 8, 64 * nState b j) :: (mirrorPlaces b j).map fun p => (p.2, 65536 * blocksOf p.1)) b
  if !t.1 then t.2
  else (mirrorPlaces b j).foldl (fun b p =>
    let m := p.1
    let tag := if m.entry = 0xFFFF then 0 else if (stateEnt b (scb b j 32 8) m.entry).frozen then noStep else (base + 1) % 2 ^ 32
    (List.range (blocksOf m)).foldl (fun b k =>
      let n := min 65536 (m.bytes - 65536 * k)
      let v := if m.arr == 6 then bytesAt b (p.2 + 65536 * k) n else (fillBlock b j m p.2 k).take n
      fillFrames j f (m.addr + 65536 * k) tag v b) b) t.2

/-- The bytes that a fill brings in whole lines. -/
def fillTotal (b : Block) (j : Nat) : Nat := ((mirroredAll b j).map fun m => ((List.range (blocksOf m)).map fun k =>
  min 65536 (m.bytes - 65536 * k) / 64 * 64).sum).sum

/-- The mode of the last step as the filled log records it: the first FP32 step after it sends what the error area holds (R325). -/
def modeAt (b : Block) (j n : Nat) : Bool := logHolds b j n && bitOf (numAt b (logAddr b j n + 16) 4) 0

/-- The spare stands at the base: its fill has arrived whole. -/
def standAtBase (j : Nat) (b : Block) : Block :=
  let base := (recOf b j).base
  let b := if reg b uChip (Off.sysRecStep j) = noStep then b
    else setReg uTrn (Off.trnJobClosed j) base (setReg uTrn (Off.trnJobDone j) base b)
  modJob j (fun x => { x with wasGrad8 := modeAt b j base }) b

/-- RANK_FILL: on the buddy, the fill is sent; on the spare that took the rank, once every WRITE of the fill has completed, FILLED goes out. -/
def rankFill (j f : Nat) (b : Block) : Block :=
  let r := recOf b j
  if (r.adopted.find f).isNone ∨ r.fills.contains f then b
  else if ownRank b j = f ∧ r.mine then
    if r.fillBytes < fillTotal b j then b
    else
      let b := standAtBase j (modRec j (fun x => { x with fills := x.fills ++ [f] }) b)
      recSend j (everyone b j) kFilled 0 [] 0 (recEvent j Fld.sysRecStatusFilled .sysRecFilled f b)
  else if scb b j 28 2 % 1024 = f then sendFill j f (modRec j (fun x => { x with fills := x.fills ++ [f] }) b)
  else b

/-- The steps this module has to undo to stand at the base, newest first. -/
def stepsAbove (b : Block) (j base : Nat) : List Nat :=
  (((trnOf b j).undo.map (·.step)).filter fun s => base < s).eraseDups.foldl (fun acc s => (acc.takeWhile fun x => s < x) ++ [s] ++ acc.dropWhile fun x => s < x) []

/-- Return to the completion of a step (R478). -/
def returnTo (j base : Nat) (b : Block) : Block :=
  let b := (stepsAbove b j base).foldl (fun b s => undoStep j s b) b
  setReg uTrn (Off.trnJobClosed j) base (setReg uTrn (Off.trnJobDone j) base (modJob j (fun x => { x with out := x.out.filter fun r => r.step ≤ base }) b))

/-- Does this module stand at the base: is nothing above it left to undo (R478)? -/
def atBase (b : Block) (j base : Nat) : Bool := trnDone b j == base && (stepsAbove b j base).isEmpty

/-- STEP_UNDO: a survivor undoes every step above the base, and a filled spare the replay it swept (Table 13.5). -/
def stepUndo (j : Nat) (b : Block) : Block :=
  let p := recPhase b j
  if (p = pAdopting ∨ p = pFilling ∨ p = pResharding) ∧ (!(recOf b j).mine ∨ (recOf b j).fills.contains (ownRank b j)) then returnTo j (recOf b j).base b else b

/-- Every failed rank is filled and every working member stands at the base: the lead sends REPLAY. With one rank left that no spare can take, SHRINK
follows (R485). -/
def checkReplay (j : Nat) (b : Block) : Block :=
  let r := recOf b j
  let own := ownRank b j
  let there := (working b j).all fun k =>
    if k = own then atBase b j r.base else r.filled.contains k || (match b.fab.beats.find (rankKey j k) with
      | some x => x.done == r.base
      | none => false)
  if isLead b j ∧ r.lead = some own ∧ recPhase b j = pFilling ∧ r.failed ≠ [] ∧ there then
    match r.failed.filter fun f => !r.filled.contains f with
    | [] => recSend j (everyone b j) kReplay (r.base + 1) [] 0 b
    | [f] => if (r.adopted.find f).isNone ∧ (takerOf b j f).isNone ∧ mayShrink b j f then announceShrink j b else b
    | _ => b
  else b

def filledRx (j : Nat) (m : RecMsg) (b : Block) : Block :=
  checkReplay j (modRec j (fun r => { r with filled := if r.filled.contains m.src then r.filled else r.filled ++ [m.src] }) b)

/-- May the job's tiles start: none is lent, runs or drains. A drained faulted stream can be cleared (Table 5.1). -/
def tilesRest (b : Block) (j : Nat) : Bool := tilesHome b j && (tilesOf b j).all fun t =>
  let x := tileOf b t
  x.stream == .idle || x.stream == .ended || (x.stream == .faulted && x.ops.isEmpty && !x.lockstep)

/-- Step `n` of a job starts on tiles at rest; the last streams are cleared first, and after an abort every token count too (Table 5.1). The answer is false where R348 lets no step start. -/
def beginStep (j n : Nat) (replay : Bool) (b : Block) : Bool × Block :=
  if !tilesRest b j then (true, b)
  else
    let b := if stepNow b j = n then b else modJob j (fun x => { x with repeats := 0 }) b
    let fresh := (trnOf b j).aborted
    stepStart j n replay ((tilesOf b j).foldl (fun b t => modTile t (fun x => { x with stream := .idle, ops := [], tokens := if fresh then [] else x.tokens }) b)
      (modJob j (fun x => { x with aborted := false }) b))

def opReplay : Nat := 0x26

/-- Start step `n`; where R348 lets no step start, the job's step commands complete with NO_RESOURCE. -/
def startOrFail (j n : Nat) (replay : Bool) (b : Block) : Block :=
  let r := beginStep j n replay b
  if r.1 then r.2
  else modSlot j (fun y => { y with steps := none })
    ((waitingCmds b fun c => (entryOp c == opStep || entryOp c == opReplay) && entryJob c == j).foldl (fun b c => finishCmd c .noResource b) r.2)

/-- REPLAY of a step: the member returns to the step before it if it does not stand there, and runs it as a replay. -/
def replayFrom (j n : Nat) (b : Block) : Block :=
  let b := if atBase b j (stepBefore n) then b else returnTo j (stepBefore n) b
  let b := modRec j (fun r => { r with replayed := [], base := stepBefore n }) b
  startOrFail j n true (setRecPhase j pReplaying b)

def replayRx (j : Nat) (m : RecMsg) (b : Block) : Block :=
  if roleOf b j (ownRank b j) = 1 then replayFrom j m.step b else setRecPhase j pReplaying b

/-- A replayed step has closed: REPLAYED says whether its loss matched the record (R488). -/
def sendReplayed (j : Nat) (b : Block) : Block :=
  if recPhase b j ≠ pReplaying then b
  else
    let ok := (trnOf b j).matched
    let b := if ok then b else setSq uChip Fld.sysRecStatusMismatch b j
    recSend j (match (recOf b j).lead with
      | some l => [l]
      | none => toLead b j) kReplayed 0 [] (b2n ok) b

def replayedRx (j : Nat) (m : RecMsg) (b : Block) : Block :=
  if !isLead b j ∨ recPhase b j ≠ pReplaying then b
  else
    let b := modRec j (fun r => { r with replayed := r.replayed.put m.src (bitOf m.arg 0) }) b
    let rs := (recOf b j).replayed
    if rs.any fun x => !x.2 then sendHalt j 4 b
    else if (working b j).all fun r => (rs.find r).isSome then recSend j (everyone b j) kResume ((recOf b j).base + 2) [] 0 b
    else b

/-- The recovery is over. -/
def recOver (j : Nat) (b : Block) : Block :=
  setFld uChip Fld.sysRecStateLead 0 (setRecPhase j pNone (modRec j (fun r => { r with
    failed := [], frozen := [], adopting := [], adopted := [], filled := [], replayed := [], mine := false, fills := [] }) b)) j

/-- A frozen job runs again from step `n`; one that JOB_STOP was stopping goes on stopping. -/
def unfreeze (j n : Nat) (b : Block) : Block :=
  let b := modSlot j (fun x => { x with steps := x.steps.map fun s => (n, s.2) }) b
  if jobStateOf b j = jFrozen ∧ roleOf b j (ownRank b j) = 1 then
    setJState j (if (waitingCmds b fun c => entryOp c == 0x24 && entryJob c == j).isEmpty then jRunning else jStopping) b
  else b

/-- RESUME: the job goes on; a survivor whose buddy was replaced builds its mirror anew (R482). -/
def resumeRx (j : Nat) (m : RecMsg) (b : Block) : Block :=
  let lost := fld b uTrn Fld.trnJobStateMirror j = 3
  let b := recOver j b
  let b := recEvent j Fld.sysRecStatusResumed .sysRecResumed m.step (bump uChip (Off.sysRecRecoveriesLo j) 1 b)
  let b := unfreeze j m.step b
  if lost then mirrorBuild j false [] b else b

/-- HALT: the job stays frozen; the lead reports it, and whether the durable checkpoint is needed (R487, R493). A member that
met an unresolved divergence tells the lead by a HALT of its own (log entry 72). -/
def haltRx (j : Nat) (m : RecMsg) (b : Block) : Block :=
  let why := m.arg % 16
  if why = 5 ∧ isLead b j ∧ m.src ≠ ownRank b j then sendHalt j 5 b else
  let ckpt := decide (3 ≤ why ∧ why ≤ 5)
  let b := setRecPhase j (if ckpt then pCkptNeeded else pHalted) (freezeSlot j b)
  let b := if why = 1 ∨ why = 2 then learnBase j m.step b else b
  if m.src ≠ ownRank b j then b
  else
    let b := recEvent j Fld.sysRecStatusHalted .sysRecHalted why b
    if ckpt then recEvent j Fld.sysRecStatusCkptNeeded .sysRecCkptNeeded why b else b

/-- REPEAT: the lead has every member repeat a step; to the lead, a member's request for it. -/
def repeatRx (j : Nat) (m : RecMsg) (b : Block) : Block :=
  if leadOf b j = some m.src then repeatStep j m.step b
  else if isLead b j then recSend j (everyone b j) kRepeat m.step [] 0 b
  else b

/-! ### Messages -/

/-- Act on one message. -/
def recAct (j : Nat) (m : RecMsg) (b : Block) : Block := match m.kind with
  | 1 => failRx j m b
  | 2 => withdrawnRx j m b
  | 3 => freezeRx j m b
  | 4 => frozenRx j m b
  | 5 => adoptRx j m b
  | 6 => adoptedRx j m b
  | 7 => filledRx j m b
  | 8 => replayRx j m b
  | 9 => replayedRx j m b
  | 10 => resumeRx j m b
  | 11 => haltRx j m b
  | 12 => repeatRx j m b
  | _ => b

/-- Is this slot's recovery area watched: the slot holds a training job that takes part in one? -/
def recWatched (b : Block) (j : Nat) : Bool :=
  (b.qcp.jobs.find j).isSome && slotTrains b j && recArea b j != 0 && mainOn b && devState b != dsFault

/-- Take rank `r`'s message if it is new and of a kind the reader asks for. A reserved KIND is seen and does nothing.
A slot that cannot be read withdraws the module (R464). -/
def recTake (p : Nat → Bool) (j r : Nat) (b : Block) : Block :=
  if !recWatched b j then b
  else match newMsg b j r with
  | none => b
  | some m =>
    if !p m.kind then b
    else
      let t := touchRanges uReeve [(recSlot b j r, 64)] b
      if t.1 ≠ .ok then withdraw j t.2
      else recAct j m (modRec j (fun x => { x with seen := x.seen.put r m.seq, high := max x.high m.epoch }) t.2)

/-- The row of one KIND. -/
def recMessage (kind j r : Nat) (b : Block) : Block := recTake (fun k => k == kind) j r b

/-- RECOVERY_AREA_POLL: every changed slot is acted on; a freeze that has drained and a fill that has ended go on. -/
def areaPoll (j : Nat) (b : Block) : Block :=
  if !recWatched b j then b
  else checkReplay j (checkFrozen j ((List.range 1024).foldl (fun b r => recTake (fun _ => true) j r b) b))

/-! ### Block restores (R463, R464) -/

/-- Count a restore in its step; more than 64 withdraw the module. -/
def countRestore (j : Nat) (b : Block) : Nat × Block :=
  let n := stepNow b j
  let r := (recOf b j).restores
  let c := if r.1 = n then r.2 + 1 else 1
  (c, modRec j (fun x => { x with restores := (n, c) }) b)

/-- The LTAG that R330 gives the lines of a mirrored array as they stand: before the first close the job's first step, which is the step in progress. -/
def standingTag (b : Block) (j : Nat) (m : Mirrored) : Option Nat :=
  if m.entry = 0xFFFF then none
  else if (stateEnt b (scb b j 0 8) m.entry).frozen then some noStep
  else if trnClosed b j = noStep then some (stepNow b j)
  else some ((trnClosed b j + 1) % 2 ^ 32)

/-- A block as the buddy's mirror of step `ms` has it, with the module's held records of every closed step above that (R463). -/
def rebuilt (b : Block) (j : Nat) (m : Mirrored) (k ms : Nat) (v : List Byte) : List Byte :=
  let closed := trnClosed b j
  ((trnOf b j).out.filter fun r => decide (r.entry = m.entry ∧ r.array = m.arr ∧ r.block = k ∧ r.kind = 0) && closed != noStep &&
    (ms == noStep || decide (ms < r.step)) && decide (r.step ≤ closed)).foldl (fun v r => xorBytes v (decodeBlock r.es r.code)) v

/-- BLOCK_RESTORE: a line of the job failed its read at `a`. `mirror` is the buddy's mirror block and the step it is current to, none when the
buddy is silent. While the step runs, the lead is first asked to have it aborted, and the block is rebuilt once it is (R463). -/
def blockRestore (j a : Nat) (mirror : Option (Nat × List Byte)) (b : Block) : Block :=
  if (b.qcp.jobs.find j).isNone ∨ !slotTrains b j then b
  else match blockAt (restoredArrays b j) a with
  | none => lineFailed j a b
  | some (m, k) =>
    let at' := m.addr + 65536 * k
    let known := (recOf b j).owed.contains at'
    let c := if known then ((recOf b j).restores.2, b) else countRestore j b
    match mirror with
    | none => withdraw j c.2
    | some (ms, v) =>
      if 64 < c.1 then withdraw j c.2
      else if trnPhase b j ≠ 0 ∧ trnPhase b j ≠ 7 then
        if known then b else repeatFault j (modRec j (fun x => { x with owed := x.owed ++ [at'] }) c.2)
      else
        let n := min 65536 (m.bytes - 65536 * k)
        let w := granaryWrite ⟨uReeve, none, false, false⟩ at' ((rebuilt b j m k ms v).take n) (standingTag b j m) c.2
        if w.1 = .ok then modRec j (fun x => { x with owed := x.owed.filter (· != at') }) w.2 else withdraw j w.2

/-! ### Re-sharding, shrinking, localising (R346, R486, R489) -/

/-- Has a step started that has not closed? -/
def stepOpen (b : Block) (j : Nat) : Bool := (trnPhase b j != 0 && trnPhase b j != 7) || (match (trnOf b j).replay with
  | some n => trnClosed b j != n
  | none => false)

/-- Do PERMUTEs of the job still run? -/
def permuteRuns (b : Block) (j : Nat) : Bool := (List.range 4).any fun f => (collsOf b f).any fun c => c.job == j && kCop c.desc == 7

/-- The PERMUTE descriptors that stand after the new step control block in a re-shard's argument block (log entry 72). -/
def moveDescs (l : List Byte) : List (List Byte) := (List.range ((l.length - 256) / 64)).map fun i => (l.drop (256 + 64 * i)).take 64

/-- The end of a re-shard: the new step control block stands, the mirrors are built anew and the next log record says RESHARD. -/
def reshard (j : Nat) (block : List Byte) (b : Block) : Block :=
  let b := mirrorBuild j false [] (engineWrite uReeve (scbBase b j) (block.take 256) b).2
  setPhaseTrn j 0 (modJob j (fun x => { x with logFlags := Nat.lor x.logFlags 128, mirrorStep := none, retained := [], reshardTo := none }) b)

/-- A RESHARD waits for row 7 of a step that runs (Table 9.8). PHASE is then RESHARD, and its own PERMUTEs start; once a PERMUTE has moved the arrays and
none of the job runs, its end follows, or it ends as the PERMUTE failed (R346). Answers how it has ended, if it has. -/
def reshardDue (j : Nat) (b : Block) : Option Status × Block := match (trnOf b j).reshardTo with
  | none => (none, b)
  | some l =>
    if stepOpen b j ∨ !tilesRest b j then (none, b)
    else if trnPhase b j ≠ 7 then
      (none, (moveDescs l).foldl (fun b d => collBegin 0 noQueue j d b) (setPhaseTrn j 7 (modJob j (fun x => { x with moved := none }) b)))
    else if permuteRuns b j then (none, b)
    else match (trnOf b j).moved with
    | none => (none, b)
    | some .ok => (some .ok, reshard j l b)
    | some s => (some s, setPhaseTrn j 0 (modJob j (fun x => { x with reshardTo := none }) b))

/-- SHRINK, as the lead chose under R485: base step, mirror rollback on the buddy, the plan's RESHARD, and on as a new computation once that has ended. A
plan that cannot be read withdraws the module. -/
def shrink (j : Nat) (b : Block) : Block :=
  let r := recOf b j
  match untaken b j with
  | [] => b
  | f :: _ =>
    if recPhase b j ≠ pResharding ∨ (planOf b j f).2 = 0 then b
    else
      let b := returnTo j r.base b
      let b := if scb b j 28 2 % 1024 = f ∧ (trnOf b j).mirrorStep = some ((r.base + 1) % 2 ^ 32) then mirrorRollback j b else b
      let p := granaryRead ⟨uReeve, none, false, false⟩ (planOf b j f).1 (planOf b j f).2 b
      if p.1 ≠ .ok then withdraw j p.2.2
      else
        let c := reshardDue j (if (trnOf b j).reshardTo.isSome then p.2.2 else modJob j (fun x => { x with reshardTo := some p.2.1 }) p.2.2)
        if c.1 ≠ some .ok then c.2
        else
          let b := modJob j (fun x => { x with shrunk := true }) c.2
          unfreeze j ((r.base + 1) % 2 ^ 32) (recOver j (setReg uChip (Off.sysRecLast j) (2 ^ 31 + 2 ^ 30 + f * 2 ^ 16) b))

/-- Every job leaves the module, and with it its keys (R453). -/
def quarantine (b : Block) : Block :=
  setDevState dsQuarantined (b.qcp.jobs.foldl (fun b e => takeJobOut false e.1 b) b)

/-- LOCALISATION: `failed` are the units whose known answers differ; with none here and none elsewhere a module that adopted a rank in this
recovery is quarantined (R488). -/
def localise (failed : List Nat) (noneElsewhere : Bool) (b : Block) : Block :=
  let bad := failed.eraseDups.filter fun u => ownOf b u < hOffline ∧ (kindOf u = some .tile ∨ kindOf u = some .gleaner)
  let adopter := b.rec'.any fun r => r.2.mine && recPhase b r.1 == pCkptNeeded
  let b := bad.foldl (fun b u => setOwn u hOffline b) b
  let tiles := (bad.filter fun u => kindOf u = some .tile).length
  let b := raise uChip .sysRecLocalised (min 0xFFFF bad.length * 2 ^ 16 + tiles) b
  if bad ≠ [] ∨ (noneElsewhere ∧ adopter) then quarantine b else b

/-! ### REEVE_FAULT (R454, R466) -/

/-- In FAULT every doorbell is answered with STATE_CONFLICT, those that were held too (R454). -/
def faultBells (b : Block) : Block := b.qcp.queues.foldl (fun b e =>
  setQueueRun e.1 { queueRunOf b e.1 with bells := [] }
    ((queueRunOf b e.1).bells.foldl (fun b x => qstatus x.who.sess x.who.flow e.1 .stateConflict none b) b)) b

def reeveFault (b : Block) : Block :=
  if !started b then b else faultBells (setDevState dsFault (setOwn uReeve hFailed b))

end Sys2Proof.Machine
end

