-- ==== Sys2Proof/Machine/Reeve.lean ====
section
/-! DEFINITION. The reeve's commands (R443 to R446, R450, R455): taking them from the queues, the catalogue of Table 12.8, and completions. -/

namespace Sys2Proof.Machine

/-! ### Entries (Table 12.4) -/

def entryAfter (c : Cmd) : Bool := bitOf (leAt c.entry 2 1) 0
def entryArgblk (c : Cmd) : Bool := bitOf (leAt c.entry 2 1) 1
def entryTag (c : Cmd) : Nat := leAt c.entry 4 8

/-- Are the entry's reserved fields 0? -/
def entryClean (c : Cmd) : Bool := decide (leAt c.entry 2 1 < 4) && decide (leAt c.entry 3 1 < 8) && leAt c.entry 12 4 == 0

/-- The states a command is legal in (Table 12.8); none for a reserved opcode. -/
def legalIn (op : Nat) : Option (List Nat) :=
  let all := [dsBoot, dsReady, dsLoaded, dsRunning, dsDraining, dsSpare, dsQuarantined]
  match op with
  | 0x01 => some all
  | 0x02 => some all
  | 0x03 => some all
  | 0x04 => some [dsReady]
  | 0x05 => some [dsReady, dsLoaded, dsRunning, dsSpare]
  | 0x06 => some (all.drop 1)
  | 0x07 => some all
  | 0x08 => some (all.drop 1)
  | 0x09 => some [dsReady, dsLoaded]
  | 0x0A => some [dsReady, dsLoaded, dsRunning, dsSpare, dsQuarantined]
  | 0x0B => some [dsReady, dsLoaded, dsRunning, dsSpare]
  | 0x0C => some [dsQuarantined]
  | 0x0D => some [dsReady, dsLoaded, dsRunning, dsDraining, dsSpare]
  | 0x10 => some [dsReady, dsLoaded, dsRunning, dsSpare]
  | 0x11 => some (all.drop 2)
  | 0x12 => some [dsLoaded, dsRunning, dsDraining, dsSpare]
  | 0x13 => some (all.drop 2)
  | 0x14 => some [dsLoaded, dsRunning, dsDraining, dsSpare]
  | 0x15 => some (all.drop 2)
  | 0x16 => some [dsLoaded, dsSpare]
  | 0x17 => some [dsLoaded, dsRunning, dsSpare]
  | 0x18 => some (all.drop 2)
  | 0x19 => some [dsLoaded, dsRunning]
  | 0x20 => some [dsLoaded, dsSpare]
  | 0x21 => some [dsLoaded, dsSpare]
  | 0x22 => some [dsRunning]
  | 0x23 => some [dsLoaded, dsRunning]
  | 0x24 => some [dsRunning]
  | 0x25 => some [dsRunning]
  | 0x26 => some [dsLoaded, dsRunning]
  | 0x27 => some [dsReady, dsLoaded]
  | 0x28 => some [dsSpare]
  | 0x29 => some [dsLoaded, dsRunning]
  | 0x2A => some [dsRunning]
  | 0x2B => some [dsLoaded, dsRunning, dsSpare]
  | _ => none

/-- The checks of R444 that come before the command's own. -/
def startCheck (c : Cmd) (b : Block) : Status :=
  let op := entryOp c
  match legalIn op with
  | none => .badArgument
  | some ss =>
    if !entryClean c then .badArgument
    else if !ss.contains (devState b) then .stateConflict
    else if namesJob op && !mayName b c.who.pub (entryJob c) then .authFailed
    else .ok

/-! ### Taking commands (R443) -/

/-- Whose doorbell made an index visible. -/
def ownerOf (b : Block) (q i : Nat) : Who := match (queueRunOf b q).spans.find? fun s => ahead s.1 i < ahead s.1 s.2.1 with
  | some s => s.2.2
  | none => ⟨0, 0, [], ⟨0, [], [], [], 0⟩⟩

/-- Take the next entry of a queue: CONS advances; the index must arrive anew to be used again. An entry that cannot be read completes with the read's
status, as one of zeros (log entry 76). -/
def takeEntry (q : Nat) (b : Block) : Block :=
  let i := qCons b q
  let r := granaryRead ⟨uReeve, none, false, false⟩ (ringAt b q i) 64 b
  let c : Cmd := ⟨q, i, ownerOf b q i, if r.1 = .ok then r.2.1 else zeros 64, if r.1 = .ok then .taken else .finished r.1, 0, sha512 [], [], 0⟩
  let b := r.2.2
  let b := modQueueRun q (fun r => { r with
    arrived := r.arrived.filter (· != i)
    spans := r.spans.filter fun s => s.2.1 != (i + 1) % 2 ^ 32 && !isBelow ((i + 1) % 2 ^ 32) s.2.1 }) b
  modQcp (fun x => { x with cmds := x.cmds ++ [c] }) (qSet q 8 4 ((i + 1) % 2 ^ 32) b)

/-- Does a command return the module from D1 or D2 (R568)? -/
def wakes (op : Nat) : Bool := !([0x01, 0x02, 0x03, 0x06, 0x07, 0x09].contains op)

/-- Start a taken command: it passes R444's checks or completes, with no other effect; one that runs wakes the module first where it must (R568). -/
def startCmd (c : Cmd) (b : Block) : Block :=
  if !mainOn b then b
  else
    let s := startCheck c b
    let b := if s = .ok && wakes (entryOp c) then wakeD0 b else b
    let b := if namesJob (entryOp c) && s == .ok then nameJob (entryJob c) c.who.sess b else b
    modCmd c.queue c.idx (fun x => { x with phase := if s = .ok then .started else .finished s }) b

/-- Does the reeve execute commands now? -/
def reeveRuns (b : Block) : Bool := mainOn b && devState b != dsOff && devState b != dsFault

/-- COMMAND_START: the reeve takes the next entry of a HOSTCMD queue and starts it; an entry with AFTER waits for every earlier one. -/
def commandStart (q : Nat) (b : Block) : Block :=
  let u := useQueue q b
  let b := u.2
  if !u.1 || !reeveRuns b || qType b q != 2 || !qEnabled b q then b
  else
    let held := b.qcp.cmds.any fun c => c.queue = q ∧ c.phase = .taken
    let b := if held ∨ qCons b q = qProd b q then b else takeEntry q b
    match b.qcp.cmds.find? fun c => c.queue = q ∧ c.phase = .taken with
    | none => b
    | some c => if entryAfter c && (b.qcp.cmds.any fun d => d.queue = q ∧ d.idx ≠ c.idx) then b else startCmd c b

/-! ### Results (R445) -/

def noteResult (c : Cmd) (l : List Byte) (b : Block) : Block :=
  modCmd c.queue c.idx (fun x => { x with bytes := l.length, digest := sha512 l }) b

/-- RESULT frames of some bytes, in order, on the command's flow. -/
def sendResults (c : Cmd) (l : List Byte) (b : Block) : Block :=
  let n := (l.length + 8943) / 8944
  (List.range n).foldl (fun b k =>
    sessSend c.who.sess c.who.flow 0x20 c.queue [] (leBytes 8 (entryTag c) ++ leBytes 8 (8944 * k) ++ (l.drop (8944 * k)).take 8944)
      (decide (k + 1 < n)) b) (noteResult c l b)

def setRet (c : Cmd) (v : List Byte) (b : Block) : Block := modCmd c.queue c.idx (fun x => { x with ret := v }) b

/-- The command waits for what it set going. -/
def waitCmd (c : Cmd) (mark : Nat) (b : Block) : Block := modCmd c.queue c.idx (fun x => { x with phase := .waiting, mark := mark }) b

/-- Results, then OK. -/
def answerWith (c : Cmd) (l : List Byte) (b : Block) : Block := finishCmd c .ok (sendResults c l b)

/-- The argument block of a command: bytes of the granary at the window offset the entry gives. -/
def argBlock (c : Cmd) (b : Block) : Status × List Byte × Block :=
  if entryArgblk c then
    let off := leAt c.entry 16 8
    let len := leAt c.entry 24 4
    if granarySize < off + len then (.badArgument, [], b) else granaryRead ⟨uReeve, none, false, false⟩ off len b
  else (.ok, [], b)

/-- Run the first started command of a queue that has the opcode, with its arguments, entry bytes 16 to 63. -/
def runCmd (op q : Nat) (f : Cmd → List Byte → Block → Block) (b : Block) : Block :=
  if !reeveRuns b then b
  else match b.qcp.cmds.find? fun c => c.queue = q ∧ c.phase = .started ∧ entryOp c = op with
  | none => b
  | some c => f c (c.entry.drop 16) b

/-- As `runCmd`, for a command whose arguments or data stand in an argument block. JOB_CREATE and JOB_ADMIT take their bytes 16 to 63 from the
block's first 48 (log entry 52). -/
def runBlk (op q : Nat) (inBlock : Bool) (f : Cmd → List Byte → List Byte → Block → Block) (b : Block) : Block :=
  runCmd op q (fun c args b =>
    let r := argBlock c b
    if r.1 ≠ .ok ∨ !entryArgblk c ∨ (inBlock ∧ r.2.1.length < 48) then finishCmd c .badArgument r.2.2
    else if inBlock then f c (r.2.1.take 48) (r.2.1.drop 48) r.2.2
    else f c args r.2.1 r.2.2) b

/-- As `runCmd`, for a command that needs a job in the slot it names. -/
def runJob (op q : Nat) (f : Cmd → JobSlot → Nat → List Byte → Block → Block) (b : Block) : Block :=
  runCmd op q (fun c args b => match b.qcp.jobs.find (entryJob c) with
    | none => finishCmd c .notPresent b
    | some x => f c x (entryJob c) args b) b

/-! ### Module commands -/

def cmdNop (q : Nat) (b : Block) : Block := runCmd 0x01 q (fun c _ b => finishCmd c .ok b) b
def cmdIdentify (q : Nat) (b : Block) : Block := runCmd 0x02 q (fun c _ b => answerWith c (syncHeader 256 0 b) b) b
def cmdAttest (q : Nat) (b : Block) : Block := runCmd 0x03 q (fun c args b =>
  if idOk b then answerWith c (attestReport (args.take 32) b) b else finishCmd c .opFailed b) b

def cmdEnrolKey (q : Nat) (b : Block) : Block := runCmd 0x04 q (fun c args b =>
  let r := enrolKey c.who.slot (leAt args 32 1) (args.take 32) b
  finishCmd c r.1 r.2) b

/-- Units CONFIG reaches: those with MAC_, JXL_, PWR_ or QCP_ registers of their own. -/
def configUnit (u : Nat) : Bool := match kindOf u with
  | some .fe => true
  | some .link => true
  | some .pwr => true
  | some .qcp => true
  | _ => false

def cmdConfig (q : Nat) (b : Block) : Block := runCmd 0x05 q (fun c args b =>
  let u := leAt args 0 4
  if !configUnit u then finishCmd c .notPresent b
  else
    let r := regRmw uReeve true u (leAt args 4 4) (leAt args 8 4) (leAt args 12 4) b
    finishCmd c r.1 (if r.1 = .ok then setRet c (leBytes 4 r.2.1) r.2.2 else r.2.2)) b

/-- The counters of a unit in offset order: low words of 64-bit counters, and EVT_DROP. -/
def countersOf (u : Nat) : List Nat := match kindOf u with
  | none => []
  | some k =>
    let all := (rowsOf k).flatMap fun r => (List.range r.n1).flatMap fun i => (List.range r.n2).filterMap fun m =>
      let o := r.off + r.s1 * i + r.s2 * m
      if r.acc = .rc ∧ (isPairLo u o ∨ o = Off.evtDrop) ∧ !absentHere u o then some o else none
    (all.foldl (fun (m : SMap Unit) o => m.put o ()) []).map (·.1)

/-- The reeve reads a counter out, which clears it, into its total. -/
def drainCounter (u o : Nat) (b : Block) : Block :=
  let b := addWaits u o b
  let n := totalOf b u o
  readClears u o (modQcp (fun q => { q with totals := q.totals.put (regKey u o) n }) b)

def cmdCounters (q : Nat) (b : Block) : Block := runCmd 0x06 q (fun c args b =>
  let u := leAt args 0 4
  if (kindOf u).isNone then finishCmd c .notPresent b
  else
    let os := countersOf u
    let b := os.foldl (fun b o => drainCounter u o b) b
    answerWith c (os.flatMap fun o => leBytes 8 (totalOf b u o)) b) b

def cmdEvents (q : Nat) (b : Block) : Block := runCmd 0x07 q (fun c args b =>
  if 3 < leAt args 0 1 then finishCmd c .badArgument b
  else match sessOf b c.who.sess with
  | none => finishCmd c .ok b
  | some s => finishCmd c .ok (putSess { s with evSev := leAt args 0 1, evBlocks := leAt args 4 4 } b)) b

def cmdDebug (q : Nat) (b : Block) : Block := runCmd 0x08 q (fun c args b => finishCmd c .ok (debugCmd (leAt args 0 1) b)) b

/-- Does a LOAD_PROGRAM run on another queue? -/
def loadElsewhere (b : Block) (q : Nat) : Bool :=
  b.qcp.cmds.any fun c => c.queue != q && entryOp c == 0x16 && (c.phase == .started || c.phase == .waiting)

/-- POWER 2 waits for a LOAD_PROGRAM on another queue (Table 16.7). POWER 3 takes the main die down once its completion has left (its `mark`). -/
def cmdPower (q : Nat) (b : Block) : Block := runCmd 0x09 q (fun c args b =>
  let n := leAt args 0 1
  if n = 0 ∨ 3 < n then finishCmd c .badArgument b
  else if n = 2 ∧ loadElsewhere b q then b
  else if n = 3 then finishCmd c .ok (modCmd c.queue c.idx (fun x => { x with mark := 3 }) b)
  else finishCmd c .ok (powerTo n b)) b

/-- Units RESET_UNIT reaches: cores, tiles and fields (Table 14.5). -/
def resetUnit (u : Nat) : Bool := match kindOf u with
  | some .gleaner => true
  | some .channel => true
  | some .stack => true
  | some .tile => true
  | some .quad => true
  | some .field => true
  | _ => false

def cmdResetUnit (q : Nat) (b : Block) : Block := runCmd 0x0A q (fun c args b =>
  let u := leAt args 0 4
  if (kindOf u).isNone then finishCmd c .notPresent b
  else if !resetUnit u then finishCmd c .badArgument b
  else if resetBusy b u then finishCmd c .busy b
  else waitCmd c u (pulse u 0 b)) b

/-! ### Stopping, draining, quarantine (R452, R453) -/

def servingDone (b : Block) (j : Nat) : Bool := !(b.ctx.batches.any fun x => x.job == j)

/-- A job that stops has reached its boundary: no batch runs, no step is in progress. In DRAINING a serving job ends there: it leaves the module
(R452). -/
def settleStop (j : Nat) (b : Block) : Block := match b.qcp.jobs.find j with
  | none => b
  | some x =>
    let atEnd := if x.train then trnPhase b j == 0 else servingDone b j
    if atEnd && !x.train && devState b == dsDraining then removeJob true j b
    else if atEnd && x.jstate == jStopping then setJState j jLoaded (cancelStep j b)
    else b

def settleStops (b : Block) : Block := (List.range 8).foldl (fun b j => settleStop j b) b

def cmdDrain (q : Nat) (b : Block) : Block := runCmd 0x0B q (fun c _ b =>
  if devState b = dsReady then finishCmd c .ok b else waitCmd c 0 (settleStops (setDevState dsDraining b))) b

/-- Every frame that is not SYSTEM is scrubbed and free. -/
def freeAll (b : Block) : Block :=
  let b := invalidateJob (fun _ => true) b
  let fs := (List.range (2 ^ 21)).filter fun f => frameEntry b f != 0 && !isSystem b f
  fs.foldl (fun b f =>
    if bitOf (frameEntry b f) 36 then freeTensor f b else (List.range 32).foldl (fun b k => freePage (32 * f + k) b) b) b

def cmdRelease (q : Nat) (b : Block) : Block := runCmd 0x0C q (fun c _ b => finishCmd c .ok (setDevState dsReady (freeAll (scrubAll b)))) b
def cmdQuarantine (q : Nat) (b : Block) : Block := runCmd 0x0D q (fun c _ b => finishCmd c .ok (quarantine b)) b

/-! ### Jobs (R303, R437, R543) -/

/-- Is a register one of job slot `j`'s own? -/
def slotReg (j u o : Nat) : Bool :=
  let within (base size : Nat) : Bool := decide (base + size * j ≤ o) && decide (o < base + size * j + size)
  match kindOf u with
  | some .ctx => within 0x1_0100 0x20
  | some .chip => within 0x3_0100 0x20 || within 0x4_0000 0x40
  | some .trn => within 0x1_0800 0x20 || within 0x1_1000 0x40
  | some .col => within 0x1_0100 0x20
  | some .tile => o == Off.lftShare j
  | some .stack => (u - 160) % 8 == 0 && (within 0x1_1000 0x20 || within 0x1_2000 0x40)
  | _ => false

/-- The pairs of a register image: unit, offset, value. -/
def imagePairs (l : List Byte) : List (Nat × Nat × Nat) :=
  (List.range (l.length / 8)).map fun i => (leAt l (8 * i) 4 / 2 ^ 20, leAt l (8 * i) 4 % 2 ^ 20, leAt l (8 * i + 4) 4)

def trainingJobs (b : Block) : Nat := (b.qcp.jobs.filter fun e => e.2.train).length

/-- The job registers a new job starts with. -/
def freshJobRegs (j : Nat) (b : Block) : Block :=
  let b := setReg uChip (Off.sysRecLast j) 0 (setReg uChip (Off.sysRecStep j) noStep (setReg uChip (Off.sysRecState j) 0 b))
  let b := setReg uTrn (Off.trnJobClosed j) noStep (setReg uTrn (Off.trnJobDone j) noStep (setReg uTrn (Off.trnJobState j) 0 b))
  setReg uCtx (Off.ctxJobUsed j) 0 b

def newSlot (c : Cmd) (train spare : Bool) (jobId : Nat) (image : List Byte) : JobSlot :=
  ⟨if spare then jSpare else jLoaded, train, spare, c.who.pub, c.who.slot, jobId, image, none⟩

def cmdJobCreate (q : Nat) (b : Block) : Block := runBlk 0x10 q true (fun c args image b =>
  let j := entryJob c
  let train := bitOf (leAt args 0 1) 0
  if slotHolds b j then finishCmd c (if 8 ≤ b.qcp.jobs.length then .noResource else .stateConflict) b
  else if image.length % 8 ≠ 0 ∨ (imagePairs image).any (fun p => !slotReg j p.1 p.2.1) then finishCmd c .badArgument b
  else if train && decide (2 ≤ trainingJobs b) then finishCmd c .noResource b
  else
    let b := freshJobRegs j b
    let b := (imagePairs image).foldl (fun b p => (regWrite uReeve false p.1 p.2.1 p.2.2 b).2) b
    let b := setReg uChip (Off.jxlJobId j) (leAt args 4 4) b
    let b := setFld uCtx Fld.ctxJobCtrlTrain (b2n train) (setFld uCtx Fld.ctxJobCtrlValid 1 b j) j
    let b := modCtx (fun x => { x with jobSeed := x.jobSeed.put j (leAt args 8 4) }) b
    let b := modQcp (fun x => { x with jobs := x.jobs.put j (newSlot c train (bitOf (leAt args 0 1) 1) (leAt args 4 4) (sha512 image)) }) b
    finishCmd c .ok (nameJob j c.who.sess (settleDev b))) b

/-- The tiles in reset, as bits. -/
def tilesInReset (b : Block) : Nat := bitsWhere (fun t => (rstOf b (uTile t)).isSome) 64

def cmdJobDestroy (q : Nat) (b : Block) : Block := runJob 0x11 q (fun c _ j _ b =>
  let b := removeJob true j b
  waitCmd c (tilesInReset b) b) b

/-! ### Windows and ranges (R445, R448, R532) -/

def freshWindow (ws : SMap Window) : Nat := ((List.range 17).find? fun i => (ws.find i).isNone).getD 16

def cmdWindowOpen (q : Nat) (b : Block) : Block := runJob 0x12 q (fun c _ j args b =>
  let off := leAt args 0 8
  let n := leAt args 8 8
  let size := 2 ^ 21
  if off % size ≠ 0 ∨ n = 0 ∨ n % size ≠ 0 ∨ granarySize < off + n then finishCmd c .badArgument b
  else if (List.range (n / size)).any fun i => !ownedBy b j (off / size + i) || !bitOf (frameEntry b (off / size + i)) 36 then finishCmd c .notPresent b
  else match sessOf b c.who.sess with
  | none => finishCmd c .notPresent b
  | some s =>
    if 16 ≤ s.windows.length then finishCmd c .noResource b
    else
      let w := freshWindow s.windows
      finishCmd c .ok (setRet c (leBytes 4 w) (putSess { s with windows := s.windows.put w ⟨j, off, n⟩ } b))) b

def cmdWindowClose (q : Nat) (b : Block) : Block := runCmd 0x13 q (fun c args b => match sessOf b c.who.sess with
  | none => finishCmd c .notPresent b
  | some s =>
    if (s.windows.find (leAt args 0 4)).isNone then finishCmd c .notPresent b
    else finishCmd c .ok (putSess { s with windows := s.windows.drop (leAt args 0 4) } b)) b

/-- The reeve reads a range a command of a job names; no frame refuses it (R286). -/
def readRange (off n : Nat) (b : Block) : Status × List Byte × Block :=
  if granarySize < off + n then (.badArgument, [], b) else granaryRead ⟨uReeve, none, false, false⟩ off n b

def cmdCommit (q : Nat) (b : Block) : Block := runJob 0x14 q (fun c _ j args b =>
  let off := leAt args 0 8
  let n := leAt args 8 8
  let r := readRange off n b
  if r.1 ≠ .ok then finishCmd c r.1 r.2.2
  else
    let b := noteResult c r.2.1 r.2.2
    let t := commitTensor ⟨j, off, n, tensorDigest r.2.1⟩ b
    finishCmd c t.1 (if t.1 = .ok then setRet c (leBytes 2 t.2.1) t.2.2 else t.2.2)) b

def cmdFetch (q : Nat) (b : Block) : Block := runCmd 0x15 q (fun c args b =>
  let n := leAt args 8 8
  if 2 ^ 40 < n then finishCmd c .badArgument b
  else
    let r := readRange (leAt args 0 8) n b
    if r.1 = .ok then answerWith c r.2.1 r.2.2 else finishCmd c r.1 r.2.2) b

/-- Does a gleaner run, or wait to run, from a region (R508)? -/
def regionBusy (b : Block) (r : Nat) : Bool := b.gln.gl.any fun g => g.2.run != .idle && g.2.launch.entry / 0x2000 == r

/-- LOAD_PROGRAM: `lost` are the chunks the broadcast loses. -/
def cmdLoadProgram (q : Nat) (lost : List (Nat × Nat)) (b : Block) : Block := runJob 0x16 q (fun c _ j args b =>
  let kind := leAt args 0 1
  let r := leAt args 1 1
  let off := leAt args 8 8
  let n := leAt args 16 4
  let taken := (List.range 32).any fun s => bitOf (reg b (uStack s) Off.grnGlRgn) (4 * r - 1) && bitsOf (reg b (uStack s) Off.grnGlRgn) (4 * r - 2) (4 * r - 4) != j
  if 1 < kind ∨ n = 0 ∨ (kind = 1 ∧ (r = 0 ∨ 3 < r ∨ 8192 < n)) then finishCmd c .badArgument b
  else if kind = 1 ∧ regionBusy b r then finishCmd c .busy b
  else if kind = 1 ∧ taken then finishCmd c .noResource b
  else
    let x := readRange off n b
    if x.1 ≠ .ok then finishCmd c x.1 x.2.2
    else match addProgram ⟨kind + 2, j, if kind = 1 then r else 0, n, if kind = 1 then 0 else off, sha512 x.2.1⟩ x.2.2 with
    | none => finishCmd c .noResource x.2.2
    | some b =>
      if kind = 0 then finishCmd c .ok { b with til := { b.til with progRanges := b.til.progRanges ++ [(off, n)] } }
      else
        let b := (List.range 32).foldl (fun b s => setReg (uStack s) Off.grnGlRgn (withBits (reg b (uStack s) Off.grnGlRgn) (4 * r - 1) (4 * r - 4) (8 + j)) b) b
        waitCmd c r (settleLoads (startLoad r x.2.1 allGleaners lost b))) b

/-! ### Queues and pages -/

/-- The descriptor QUEUE_CREATE writes. -/
def newDescriptor (j : Nat) (args : List Byte) : List Byte :=
  leBytes 1 (leAt args 4 1 + 8 + 16 * leAt args 6 1) ++ leBytes 1 j ++ zeros 10 ++ leBytes 1 (leAt args 5 1) ++ zeros 3 ++
    (args.drop 8).take 16 ++ leBytes 4 (leAt args 24 4) ++ zeros 28

def cmdQueueCreate (q : Nat) (b : Block) : Block := runJob 0x17 q (fun c _ j args b =>
  let k := leAt args 0 4
  let typ := leAt args 4 1
  if 2 ^ 18 ≤ k ∨ typ = 0 ∨ 4 < typ ∨ 20 < leAt args 5 1 ∨ 15 < leAt args 6 1 ∨ leAt args 8 8 % 64 ≠ 0 ∨ leAt args 16 8 % 64 ≠ 0 ∨ 2 ^ 20 < leAt args 24 4 then
    finishCmd c .badArgument b
  else if qType b k ≠ 0 then finishCmd c .stateConflict b
  else if typ = 2 ∧ 1024 ≤ (hostQueues b).length then finishCmd c .noResource b
  else finishCmd c .ok (setQueueRun k ⟨[], [], [], [], 0⟩ (newQueue k (newDescriptor j args) b))) b

/-- A queue of the job, or none. -/
def jobQueue (b : Block) (j k : Nat) : Bool := decide (k < 2 ^ 18) && qType b k != 0 && qJob b k == j

def cmdQueueDestroy (q : Nat) (b : Block) : Block := runCmd 0x18 q (fun c args b =>
  let k := leAt args 0 4
  if !jobQueue b (entryJob c) k then finishCmd c .notPresent b else waitCmd c k (dropQueue k b)) b

/-- PAGE_EVICT: `peer` is the page the target allocated, where eviction goes to a peer. -/
def cmdPageEvict (q : Nat) (peer : Option Nat) (b : Block) : Block := runJob 0x19 q (fun c _ j args b =>
  let k := leAt args 0 4
  let n := leAt args 4 4
  if !jobQueue b j k ∨ qType b k ≠ 1 ∨ qPtLen b k ≤ n ∨ !entryQualifies b k n then finishCmd c .notPresent b
  else if inBatch b k then finishCmd c .busy b
  else
    let b := sendPages (beginEvict k n (flag b uCtx Fld.ctxJobEvictExport j) (fld b uCtx Fld.ctxJobEvictRank j) peer b)
    waitCmd c (k * 2 ^ 32 + n) b) b

/-! ### Admission (R375, R383, R535 to R539) -/

/-- The members a list names: rank and identity digest. -/
def memberList (l : List Byte) : List (Nat × List Byte) :=
  (List.range (l.length / 72)).map fun i => (leAt l (72 * i) 2 % 1024, (l.drop (72 * i + 8)).take 64)

/-- The route table the reeve writes at admission (R375). -/
def admitRoutes (j : Nat) (ms : List (Nat × List Byte)) (b : Block) : Block :=
  let b := (List.range 1024).foldl (fun b r => (engineWrite uReeve (routeAddr b j r) (zeros 8) b).2) b
  rewriteVia j (ms.foldl (fun b m =>
    let own := decide (m.1 = ownRank b j)
    routeWrite j m.1 (2 ^ 31 + (if own then 2 ^ 30 else 2 ^ 29 + linksTo b j m.2)) b) b)

def cmdJobAdmit (q : Nat) (b : Block) : Block := runBlk 0x20 q true (fun c args l b =>
  let j := entryJob c
  let own := leAt args 0 2
  let ms := memberList l
  if (b.qcp.jobs.find j).isNone then finishCmd c .notPresent b
  else if 1024 ≤ own ∨ l.length % 72 ≠ 0 ∨ ms.find? (fun m => m.1 = own) ≠ some (own, identityDigest) then finishCmd c .badArgument b
  else if !rngOk b ∨ !idOk b then finishCmd c .opFailed b
  else
    let b := setFld uChip Fld.jxlJobCtrlRank own b j
    let b := modFab (fun f => { f with
      members := ms.foldl (fun m x => SMap.put m (rankKey j x.1) x.2) f.members
      admitting := f.admitting.put j b.face.time
      admitFail := f.admitFail.drop j }) b
    let b := admitRoutes j ms b
    waitCmd c 0 ((ms.filter fun m => m.1 != own).foldl (fun b m => startAgree j m.1 0 b) b)) b

/-- The members of a job other than this module without keys. -/
def keyless (b : Block) (j : Nat) : List Nat :=
  ((b.fab.members.filter fun m => m.1 / 1024 = j).map fun m => m.1 % 1024).filter fun r => r != ownRank b j && (pairOf b j r).isNone

/-- An admission ends: RETURN carries the first failing rank. -/
def admitEnd (c : Cmd) (s : Status) (rank : Nat) (b : Block) : Block :=
  let j := entryJob c
  let b := modFab (fun f => { f with admitting := f.admitting.drop j, admitFail := f.admitFail.drop j }) b
  if s = .ok then finishCmd c .ok (setFld uChip Fld.jxlJobCtrlValid 1 b j) else finishCmd c s (setRet c (leBytes 2 rank) b)

/-- JOB_ADMIT_TIMEOUT: two seconds have passed. -/
def admitTimeout (j : Nat) (b : Block) : Block := match b.fab.admitting.find j, (waitingCmds b fun c => entryOp c == 0x20 && entryJob c == j) with
  | some t, c :: _ =>
    if t + 2000000 ≤ b.face.time ∧ b.fab.admitFail.find j = none then match keyless b j with
      | r :: _ => admitEnd c .opFailed r b
      | [] => b
    else b
  | _, _ => b

/-! ### Running jobs -/

def cmdJobStart (q : Nat) (b : Block) : Block := runJob 0x21 q (fun c x j _ b =>
  if x.jstate ≠ jLoaded then finishCmd c .stateConflict b
  else if x.train then
    if spares b j = [] then finishCmd c .noResource b else finishCmd c .ok (setJState j jRunning (bindTiles j b))
  else finishCmd c .ok (setJState j jRunning b)) b

/-- The tags the initial working copies carry (R330, R492). -/
def tagArrays (j first : Nat) (b : Block) : Block :=
  (mirroredArrays (stateEnts b j)).foldl (fun b m =>
    let tag := if (stateEnt b (scb b j 0 8) m.entry).frozen then noStep else first
    (linesOf m.addr m.bytes).foldl (fun b l => { b with grn := { b.grn with ltag := if tag = 0 then b.grn.ltag.drop l else b.grn.ltag.put l tag } }) b) b

def cmdStep (q : Nat) (b : Block) : Block := runJob 0x22 q (fun c x j args b =>
  let n := leAt args 0 4
  let first := leAt args 4 4
  let closed := trnClosed b j
  if !x.train ∨ x.jstate ≠ jRunning ∨ recPhase b j ≠ pNone then finishCmd c .stateConflict b
  else if x.steps.isSome then finishCmd c .busy b
  else if n = 0 ∨ first = noStep ∨ (closed ≠ noStep ∧ first ≠ closed + 1) ∨ noStep ≤ first + n - 1 then finishCmd c .badArgument b
  else
    let b := if closed = noStep then mirrorBuild j false [] (tagArrays j first b) else b
    waitCmd c (first + n - 1) (modSlot j (fun y => { y with steps := some (first, first + n - 1) }) b)) b

/-- STEP_START: the next step a STEP command asks for begins, or a replay that still waits for its tiles, once every block that failed is restored (R463); a step that cannot start completes the
command with NO_RESOURCE (R348). -/
def stepStartCmd (j : Nat) (b : Block) : Block := match b.qcp.jobs.find j with
  | none => b
  | some x =>
    if trnPhase b j ≠ 0 ∨ ((trnOf b j).reshardTo.isSome ∧ !stepOpen b j) then b
    else if (recOf b j).owed ≠ [] then b
    else if recPhase b j = pReplaying then
      (if trnClosed b j = (recOf b j).base + 1 then b else startOrFail j ((recOf b j).base + 1) true b)
    else match x.steps with
    | none => b
    | some (n, last) =>
      if x.jstate ≠ jRunning ∨ last < n then b
      else startOrFail j n false b

/-- A step has closed: the STEP command goes on with the next; a replay's outcome goes to the lead. -/
def stepClosed (j n : Nat) (b : Block) : Block :=
  let b := modSlot j (fun x => { x with steps := x.steps.map fun s => if s.1 = n then (n + 1, s.2) else s }) b
  settleStop j (sendReplayed j b)

def cmdScaleSet (q : Nat) (b : Block) : Block := runJob 0x23 q (fun c _ j args b =>
  let r := scaleSet j (leAt args 0 2) (leAt args 4 4) (leAt args 8 4) (leAt args 12 4) b
  finishCmd c r.1 r.2) b

/-- The tiles a training job has lent come back (R312). -/
def callBack (j : Nat) (b : Block) : Block :=
  (List.range 64).foldl (fun b t => if (lendOf b t).state ≠ .home ∧ (lendOf b t).tjob = j then reclaim t b else b) b

def cmdJobStop (q : Nat) (b : Block) : Block := runJob 0x24 q (fun c x j _ b =>
  if x.jstate = jRunning then waitCmd c 0 (settleStop j (setJState j jStopping (callBack j b))) else finishCmd c .stateConflict b) b

/-! ### Recovery commands (R483) -/

def cmdFreeze (q : Nat) (b : Block) : Block := runJob 0x25 q (fun c x j _ b =>
  if !x.train then finishCmd c .stateConflict b
  else
    let b := cancelStep j b
    finishCmd c .ok (if isLead b j then declare j [] b else recSend j (toLead b j) kFail 0 [] 0 b)) b

def cmdReplay (q : Nat) (b : Block) : Block := runJob 0x26 q (fun c x j args b =>
  let n := leAt args 0 4
  if !x.train ∨ (trnPhase b j ≠ 0) then finishCmd c .stateConflict b
  else if n = 0 then finishCmd c .badArgument b
  else replayFrom j n (waitCmd c n b)) b

def cmdSpareAssign (q : Nat) (b : Block) : Block := runCmd 0x27 q (fun c args b =>
  let id := leAt args 0 4
  let j := entryJob c
  match b.qcp.jobs.find j with
  | some x =>
    if x.owner ≠ c.who.pub then finishCmd c .authFailed b
    else if x.jobId ≠ id then finishCmd c .badArgument b
    else finishCmd c .ok (settleDev (modSlot j (fun y => { y with spare := true, jstate := jSpare }) b))
  | none =>
    if 2 ≤ trainingJobs b then finishCmd c .noResource b
    else
      let b := setFld uCtx Fld.ctxJobCtrlTrain 1 (setFld uCtx Fld.ctxJobCtrlValid 1 (setReg uChip (Off.jxlJobId j) id (freshJobRegs j b)) j) j
      finishCmd c .ok (nameJob j c.who.sess (settleDev (modQcp (fun y => { y with jobs := y.jobs.put j (newSlot c true true id (sha512 [])) }) b)))) b

def cmdAdopt (q : Nat) (b : Block) : Block := runJob 0x28 q (fun c x j args b =>
  let f := leAt args 0 2
  if 1024 ≤ f then finishCmd c .badArgument b
  else if !x.spare then finishCmd c .stateConflict b
  else waitCmd c f (adoptRank j f b)) b

def cmdReshard (q : Nat) (b : Block) : Block := runBlk 0x29 q false (fun c _ l b =>
  let j := entryJob c
  if (b.qcp.jobs.find j).isNone then finishCmd c .notPresent b
  else if l.length < 256 ∨ l.length % 64 ≠ 0 then finishCmd c .badArgument b
  else if (trnOf b j).reshardTo.isSome then finishCmd c .busy b
  else
    let r := reshardDue j (modJob j (fun x => { x with reshardTo := some l }) b)
    match r.1 with
    | some s => finishCmd c s r.2
    | none => waitCmd c 0 r.2) b

/-! ### SNAPSHOT and CHECKPOINT (R490, R491) -/

/-- Read ranges of the granary for the reeve, one after another (R195, R196). -/
def readRanges (rs : List (Nat × Nat)) (b : Block) : Status × List Byte × Block :=
  rs.foldl (fun (acc : Status × List Byte × Block) r =>
    if acc.1 ≠ .ok then acc
    else
      let v := granaryRead ⟨uReeve, none, false, false⟩ r.1 r.2 acc.2.2
      (v.1, acc.2.1 ++ v.2.1, v.2.2)) (.ok, [], b)

/-- What some ranges hold is a command's result; a line that cannot be read fails it. -/
def answerRanges (c : Cmd) (rs : List (Nat × Nat)) (b : Block) : Block :=
  let v := readRanges rs b
  if v.1 = .ok then answerWith c v.2.1 v.2.2 else finishCmd c v.1 v.2.2

/-- Every MASTER array, in state-table order. -/
def masterRanges (b : Block) (j : Nat) : List (Nat × Nat) :=
  ((mirroredArrays (stateEnts b j)).filter fun m => m.arr = 0).map fun m => (m.addr, m.bytes)

/-- A step has completed: the SNAPSHOTs of it are sent. -/
def snapshotDue (j n : Nat) (b : Block) : Block :=
  (waitingCmds b fun c => entryOp c == 0x2A && entryJob c == j && c.mark == n).foldl (fun b c => answerRanges c (masterRanges b j) b) b

def cmdSnapshot (q : Nat) (b : Block) : Block := runJob 0x2A q (fun c x j args b =>
  let n := leAt args 0 4
  let d := trnDone b j
  if !x.train then finishCmd c .stateConflict b
  else if d = n ∧ d ≠ noStep then answerRanges c (masterRanges b j) b
  else if d ≠ noStep ∧ n < d then finishCmd c .badArgument b
  else waitCmd c n b) b

/-- The mirror area this module holds for PRED, in offset order. -/
def mirrorRanges (b : Block) (j : Nat) : List (Nat × Nat) := (mirrorPlaces b j).map fun p => (p.2, 65536 * blocksOf p.1)

def ckptStride (b : Block) (j : Nat) : Nat := max 1 (fld b uChip Fld.sysRecCtrlCkptStride j)

/-- The mirror is a CHECKPOINT's result; a line of it that cannot be read fails the command and withdraws the module (R464). -/
def answerMirror (c : Cmd) (j : Nat) (b : Block) : Block :=
  let v := readRanges (mirrorRanges b j) b
  if v.1 = .ok then answerWith c v.2.1 v.2.2 else withdraw j (finishCmd c v.1 v.2.2)

/-- The mirror has reached a step: the CHECKPOINTs it suits are exported as it stands. -/
def checkpointDue (j : Nat) (b : Block) : Block := match (trnOf b j).mirrorStep with
  | none => b
  | some s =>
    if s % ckptStride b j ≠ 0 ∨ (trnOf b j).bad ≠ [] then b
    else (waitingCmds b fun c => entryOp c == 0x2B && entryJob c == j).foldl (fun b c => answerMirror c j (setRet c (leBytes 4 s) b)) b

def cmdCheckpoint (q : Nat) (b : Block) : Block := runJob 0x2B q (fun c x j args b =>
  if !x.train then finishCmd c .stateConflict b
  else if leAt args 0 2 ≠ scb b j 28 2 % 1024 then finishCmd c .notPresent b
  else checkpointDue j (waitCmd c 0 b)) b

/-- MIRROR_APPLY, with the exports that fall due between steps. -/
def mirrorApplyCmd (j : Nat) (recs : List SheafRec) (b : Block) : Block :=
  let frozen := recFrozen b j
  let steps := (recs.map (·.step)).eraseDups
  engineEnd j (steps.foldl (fun b n => checkpointDue j (mirrorApply j (recs.filter fun r => r.step = n) frozen b)) b)

/-! ### Completion (R445, R446) -/

/-- What a waiting command waits for, looked at once more. -/
def resolveWait (c : Cmd) (b : Block) : Block :=
  let j := entryJob c
  match entryOp c with
  | 0x0A => if (rstOf b c.mark).isNone then finishCmd c .ok b else b
  | 0x0B => if devState b = dsReady then finishCmd c .ok b else b
  | 0x11 => if (List.range 64).any fun t => bitOf c.mark t && (rstOf b (uTile t)).isSome then b else finishCmd c .ok b
  | 0x16 => if b.boot.loads.any fun l => l.image == c.mark then b else finishCmd c .ok b
  | 0x18 => if b.ctx.closing.contains c.mark then b else finishCmd c .ok b
  | 0x19 =>
    let k := c.mark / 2 ^ 32
    let n := c.mark % 2 ^ 32
    if b.ctx.moves.any fun m => m.queue = k ∧ m.page = n then b
    else finishCmd c (if ptLoc (ptGet b k n) = 0 then .opFailed else .ok) b
  | 0x20 => if !slotHolds b j then finishCmd c .cancelled b else match b.fab.admitFail.find j with
    | some f => admitEnd c (if f.1 = 1 then .badArgument else .authFailed) f.2 b
    | none => if keyless b j = [] then admitEnd c .ok 0 b else b
  | 0x22 => if trnDone b j = c.mark then finishCmd c .ok (setRet c (leBytes 4 c.mark) (modSlot j (fun x => { x with steps := none }) b)) else b
  | 0x24 =>
    let b := settleStop j b
    if jobStateOf b j = jStopping ∨ jobStateOf b j = jFrozen then b else finishCmd c .ok b
  | 0x26 => if trnPhase b j = 0 ∧ trnClosed b j = c.mark then finishCmd c (if (trnOf b j).matched then .ok else .opFailed) b else b
  | 0x28 => if (recOf b j).fills.contains c.mark then finishCmd c .ok b else b
  | 0x29 =>
    let r := reshardDue j b
    match r.1 with
    | some s => finishCmd c s r.2
    | none => r.2
  | _ => b

/-- The completion's payload (Table 12.5). -/
def completionBytes (c : Cmd) (s : Status) (b : Block) : List Byte :=
  leBytes 8 (entryTag c) ++ leBytes 4 c.idx ++ leBytes 2 (statusCode s) ++ leBytes 1 (devState b) ++ [0] ++ leBytes 8 c.bytes ++ c.digest ++
    (c.ret ++ zeros 40).take 40

/-- How far below CONS a ring index lies. -/
def ageOf (b : Block) (q i : Nat) : Nat := ahead i (qCons b q)

/-- The completions of the 256 highest indices: past that number the one farthest below CONS goes. -/
def keepHighest (b : Block) (q : Nat) (ks : List (Nat × List Byte)) : List (Nat × List Byte) :=
  if ks.length ≤ 256 then ks
  else
    let far := ks.foldl (fun m k => max m (ageOf b q k.1)) 0
    ks.filter fun k => ageOf b q k.1 != far

def keepCompletion (q i : Nat) (p : List Byte) (tag : Nat) (b : Block) : Block :=
  if (b.qcp.queues.find q).isNone then b
  else modQueueRun q (fun r => { r with kept := keepHighest b q ((r.kept.filter fun k => k.1 != i) ++ [(i, p)]), lastTag := tag }) b

/-- COMMAND_COMPLETION: a finished command's completion leaves on its flow and is kept. -/
def commandCompletion (q i : Nat) (b : Block) : Block :=
  if !reeveRuns b then b
  else match b.qcp.cmds.find? fun c => c.queue = q ∧ c.idx = i with
  | none => b
  | some c0 =>
    let b := if c0.phase = .waiting then resolveWait c0 b else b
    match b.qcp.cmds.find? fun c => c.queue = q ∧ c.idx = i with
    | none => b
    | some c => match c.phase with
      | .finished s =>
        let p := completionBytes c s b
        let b := keepCompletion q i p (entryTag c) (sessSend c.who.sess c.who.flow 0x21 q [] p false b)
        let b := modQcp (fun x => { x with cmds := x.cmds.filter fun d => !(d.queue == q && d.idx == i) }) b
        if entryOp c = 0x04 ∧ s = .ok then closeKey (leAt c.entry 48 1) b
        else if entryOp c = 0x09 ∧ s = .ok ∧ c.mark = 3 then powerTo 3 b
        else b
      | _ => b

/-! ### EVENT_FORWARD (R450) -/

/-- A subscription's answer to a record. -/
def subscribed (s : Sess) (r : EvtRec) : Bool :=
  !s.ra && decide (s.evSev ≤ evSeverity r.ev) && bitOf s.evBlocks (evCode r.ev / 256)

/-- Can a flow take an EVENT frame: does its class at the port have nothing waiting (log entry 75)? -/
def flowTakes (fl : Flow) (b : Block) : Bool :=
  decide (2 ≤ fl.port) || (txOf (portOf b (uFe fl.port)) (flowClass fl b % 8)).isEmpty

/-- EVENT frames a session waits for leave while its flow takes them. -/
def flushEvents (id : Nat) : Nat → Block → Block
  | 0, b => b
  | n + 1, b => match sessOf b id with
    | none => b
    | some s => match s.evWait with
      | [] => b
      | (e, r) :: rest =>
        if flowTakes s.flow b then flushEvents id n (sessSend id s.flow 0x40 0 [] r false (putSess { s with evWait := rest, eseq := e } b)) else b

/-- A record joins a session's waiting ones, of which Config.eventHold are kept; the oldest are lost first (R450). -/
def queueEvent (s : Sess) (e : Nat) (r : List Byte) (b : Block) : Block :=
  let b := flushEvents s.id (s.evWait.length + 1) b
  match sessOf b s.id with
  | none => b
  | some x =>
    if x.evWait.isEmpty && flowTakes x.flow b then sessSend x.id x.flow 0x40 0 [] r false (putSess { x with eseq := e } b)
    else
      let l := x.evWait ++ [(e, r)]
      putSess { x with evWait := l.drop (l.length - Config.eventHold) } b

/-- Forward one record. -/
def forwardRecord (r : EvtRec) (b : Block) : Block :=
  let ss := b.qcp.sessions.filter fun s => subscribed s r
  if ss = [] then b
  else
    let e := (b.qcp.eseq + 1) % 2 ^ 32
    ss.foldl (fun b s => queueEvent s e (leBytes 4 e ++ leBytes 4 1 ++ evtBytes r) b) (modQcp (fun q => { q with eseq := e }) b)

/-- EVENT_FORWARD: the records of a unit's ring, oldest first; EVT_TAIL follows. Records that wait for a session's flow go when it takes them. -/
def eventForward (u : Nat) (b : Block) : Block :=
  if !reeveRuns b || (kindOf u).isNone then b
  else
    let head := reg b u Off.evtHead % 64
    let tail := reg b u Off.evtTail % 64
    let n := (head + 64 - tail) % 64
    let rs := (List.range n).filterMap fun i => b.face.ring.find (u * 64 + (tail + i) % 64)
    b.qcp.sessions.foldl (fun b s => flushEvents s.id s.evWait.length b) (rs.foldl (fun b r => forwardRecord r b) (setReg u Off.evtTail head b))

/-! ### What the engines' commands set going at the reeve -/

/-- BATCH_DISPATCH for a job that runs; in DRAINING serving jobs stop dispatching (R452). -/
def dispatchCmd (j : Nat) (b : Block) : Block := if jobStateOf b j = jRunning ∧ devState b ≠ dsDraining then dispatch j b else b

def batchEndCmd (j num : Nat) (b : Block) : Block := settleStop j (batchEnd j num b)

/-- STEP_CLOSE; an entry it cannot read or write withdraws the module (R605). -/
def stepCloseCmd (j : Nat) (scope : List (Nat × RunFields)) (b : Block) : Block :=
  let n := stepNow b j
  let r := stepClose j scope b
  match r.1 with
  | .none => engineEnd j r.2
  | .closed => engineEnd j (stepClosed j n r.2)
  | .failed => withdraw j r.2

/-- The least step that the latest heartbeat of every other working member says it has done, plus 1; 0 while one has reported none (R467). -/
def doneByAll (b : Block) (j : Nat) : Nat :=
  ((working b j).filter fun r => r != ownRank b j).foldl (fun m r => min m (match b.fab.beats.find (rankKey j r) with
    | some x => if x.done = noStep then 0 else x.done + 1
    | none => 0)) noStep

/-- TRN_STEP_DONE, with what waits for the step. -/
def stepDoneCmd (j n : Nat) (b : Block) : Block :=
  let b' := stepDone j n b
  dropUndo j (doneByAll b' j) (recPhase b' j != pNone) (if trnDone b' j = n then snapshotDue j n b' else b')

/-- REPLICA_CHECK: an offender past the limit is quarantined (R338); an unresolved divergence has the lead halt the job (R493). -/
def replicaCheckCmd (j : Nat) (others : List Replica) (mine : List Nat) (copies : List Copy) (capacity : List Nat)
    (images : List (List (List Byte) × List (List Byte) × List (List Byte))) (b : Block) : Block :=
  let r := replicaCheck j others mine copies capacity images b
  match r.1 with
  | .fine => engineEnd j r.2
  | .offender => quarantine r.2
  | .unresolved =>
    if isLead r.2 j then sendHalt j 5 r.2
    else recSend j (toLead r.2 j) kHalt (reg r.2 uChip (Off.sysRecStep j)) [] 5 r.2

/-- A rank that has become silent is named to the lead; a spare lost before it has taken its rank makes the lead choose the next (R472, Table 13.5). -/
def rankSilent (j r : Nat) (b : Block) : Block := spareLost j r (silentResponse j r b)

/-- The ranks that a frame has made silent (R369) are named to the lead. -/
def frameRx (rx : Block → Block) (b : Block) : Block :=
  let c := rx b
  (c.fab.silent.filter fun k => !b.fab.silent.contains k).foldl (fun c k => rankSilent (k / 1024) (k % 1024) c) c

/-- JXL_PEER_SILENT, and the FAIL it calls for; a spare lost before it has taken its rank makes the lead choose the next (Table 13.5). -/
def peerSilentCmd (j r : Nat) (b : Block) : Block :=
  let was := isSilent b j r
  let b := peerSilent j r b
  if isSilent b j r && !was then rankSilent j r b else b

/-- TIL_OP_FAULT once drained, and the job's response; a serving job's batch is abandoned (R308). -/
def opFaultCmd (t : Nat) (b : Block) : Block :=
  let b' := opFaultDrained t b
  if (tileOf b' t).faultTold && !(tileOf b t).faultTold then
    streamFaultResponse t (match b'.ctx.batches.find? fun x => x.tiles.contains t with
      | some x => settleCloses (abandonBatch x b')
      | none => b')
  else b'

/-- TIL_LOCKSTEP: the module of a training job's tile withdraws; a serving job's batch is abandoned (R494). -/
def tileLockstepCmd (t : Nat) (b : Block) : Block :=
  let b := tileLockstep t b
  let b := match b.ctx.batches.find? fun x => x.tiles.contains t with
    | some x => settleCloses (abandonBatch x b)
    | none => b
  match suspendedJob b t, tileJob b t with
  | some j, _ => withdraw j b
  | none, some j => if slotTrains b j then withdraw j b else b
  | none, none => b

/-- GLN_LOCKSTEP: a run of a training job's step is repeated, its positions adopted (Table 13.1). -/
def glLockstepCmd (g : Nat) (b : Block) : Block :=
  let x := glOf b g
  let b := glLockstep g b
  if x.run != .idle && x.launch.train && slotHolds b x.launch.job then repeatFault x.launch.job b else b

/-- Where a run that stood as `x` has ended with OP_FAILED, its training job answers: a line of the granary as R463 and R464 say, a loft's word with
REPEAT (Table 13.1). -/
def runEnded (g : Nat) (x : Gleaner) (b : Block) : Block := match (glOf b g).failed with
  | some at' =>
    if x.run = .running ∧ (glOf b g).run = .idle ∧ x.launch.train ∧ slotHolds b x.launch.job then siteFault x.launch.job at' b else b
  | none => b

/-- The training job of a run answers the failures the run met, its own and the training engine's for it. -/
def runAnswered (g : Nat) (x : Gleaner) (b : Block) : Block :=
  if x.launch.train then engineEnd x.launch.job (runEnded g x b) else runEnded g x b

/-- A gleaner's next instruction. -/
def glInstr (g : Nat) (sel : GKind → Bool) (peers : List Peer) (hits : List Strike) (b : Block) : Block :=
  runAnswered g (glOf b g) (runInstr g sel peers hits b)

/-- An illegal instruction (R242). -/
def glIllegal (g : Nat) (b : Block) : Block := runAnswered g (glOf b g) (runIllegal g b)

/-- SEGMENT_FORCED_COMMIT. -/
def glForced (g : Nat) (b : Block) : Block := runAnswered g (glOf b g) (forcedCommit g b)

/-- SYS_HS_STALL: the response of the stalled unit's kind (Table 13.1); a batch on a stalled tile is abandoned, and a lent tile's is the failure of the
training job that lent it (R494). -/
def hsStallCmd (u port since : Nat) (b : Block) : Block :=
  if b.face.time < since + 8000 then b
  else
    let t := u - 64
    let b := hsStall u port since b
    let b := match if kindOf u = some .tile then b.ctx.batches.find? (fun x => x.tiles.contains t) else none with
      | some x => settleCloses (abandonBatch x b)
      | none => b
    (List.range 8).foldl (fun b j =>
      if !slotHolds b j || !slotTrains b j then b
      else match kindOf u with
      | some .gleaner => if (glOf b (u - 4096)).launch.job = j then repeatFault j b else b
      | some .tile => if (suspendedJob b t).or (tileJob b t) = some j then withdraw j b else b
      | some .link => b
      | some .channel => repeatFault j b
      | _ => withdraw j b) b

end Sys2Proof.Machine
end

