-- ==== Sys2Proof/Machine/Entry.lean ====
section
/-! DEFINITION. What a command does around the shared operations of its chapter: register accesses with their answers, the sequencer's
steps with what they set going elsewhere (lending, version aborts, page requests), and the module's own commands. -/

namespace Sys2Proof.Machine

/-- A command of the main die does nothing while the main domain is not powered: no unit there is running (Table 16.4). -/
def whenMain (f : Block → Block) (b : Block) : Block := if mainOn b then f b else b

/-! ### Registers (R9 to R15, R46) and tally time (R32, R43) -/

/-- Is the register at an offset of an access type? -/
def hasAccess (a : Acc) (u o : Nat) : Bool := match rowAt u o with
  | some r => r.acc == a
  | none => false

/-- A write of a register, answered with its status. An access that is not of four bytes fails with BAD_ARGUMENT and has no effect (R9). -/
def registerWrite (width wr : Nat) (fromFe : Bool) (u o v : Nat) (b : Block) : Block :=
  if width ≠ 4 then answer .badArgument 0 b
  else
    let r := regWrite wr fromFe u o v b
    answer r.1 0 r.2

/-- A read of a register of the kind a command names, answered with status and value; of any other width it fails with BAD_ARGUMENT (R9). -/
def registerRead (p : Nat → Nat → Bool) (width rdr u o : Nat) (b : Block) : Block :=
  if width ≠ 4 then answer .badArgument 0 b
  else if p u o || !windowThere b u then
    let r := regRead rdr u o b
    answer r.1 r.2.1 r.2.2
  else b

/-- A sequence-cleared write (R46), of four bytes (R9). -/
def sqRegisterWrite (width wr u o w mask : Nat) (b : Block) : Block :=
  if width ≠ 4 ∨ o % 4 ≠ 0 then answer .badArgument 0 b
  else if !windowThere b u then answer .notPresent 0 (if mainOn b then raise wr .sysAddrFault ((u * 2 ^ 20 + o) % 2 ^ 32) b else b)
  else if hasAccess .sq u o then answer .ok 0 (writeSq u o (w * 2 ^ 16 + mask) b)
  else b

/-- MBX_REPLY: a unit answers while it is out of reset; the tally interface in every power state (R599, R584). -/
def mbxReplyCmd (u : Nat) (b : Block) : Block := if windowThere b u then mbxReply u b else b

/-- One tick of the tally die: tally time and with it every watchdog's count of it (R32, R43). -/
def usTick (b : Block) : Block := if b.tly.powered then { b with face := { b.face with time := b.face.time + 1 } } else b

/-! ### The sequencer's steps (R149 to R162) -/

/-- A tile whose stream is being saved or restored (R311), or that stands still, issues and starts nothing. -/
def tileHeld (b : Block) (t : Nat) : Bool := lendHolds b t || unitHeld b (uTile t)

/-- DESCRIPTOR_ISSUE. -/
def opIssue (t : Nat) (b : Block) : Block := if tileHeld b t then b else issueNext t b

/-- OPERATION_START of a unit queue; a head left waiting on a token makes the harvest entries that land the token late (R225). -/
def opStart (t uq : Nat) (b : Block) : Block :=
  if tileHeld b t then b
  else
    let b := startHead t uq b
    match queueHead (tileOf b t) uq with
    | some o =>
      if (tileOf b t).stream == .running && dWait o.desc && !o.satisfied then markLate t (dWaitTok o.desc) o.k b else b
    | none => b

/-- OPERATION_COMPLETE of a unit queue, with what a completion sets going: the version abort of a training job (R332) and the lending of the
tile at a FENCE (R310). -/
def opComplete (t uq : Nat) (b : Block) : Block :=
  match nextToSignal (tileOf b t) uq with
  | some o => match o.phase with
    | .finished s =>
      let job := tileJob b t
      let b := lendSettle t (completeOp t o s b)
      let b := match s, job with
        | .versionFault, some j => if slotTrains b j then versionAbort j t b else b
        | _, _ => b
      if isCop o.desc 3 && s == .ok then fenceLend t o.desc b else b
    | _ => b
  | none => b

/-- The add of an END at its DONE_ADDR; the END then finishes with the add's status (R162). -/
def endAdd (t : Nat) (peers : List Peer) (o : Op) (b : Block) : Block :=
  let a := leAt o.desc 16 8
  if a = 0 then finishOp t o.k .ok b
  else if a % 8 ≠ 0 then finishOp t o.k .badArgument b
  else
    let r := devAtomic (tileIssuer b t) peers 0x02 a 1 0 b
    finishOp t o.k r.1 r.2.2

/-- A control operation starts at the head of its queue, does its work and completes (Table 5.4). -/
def controlCmd (t cop : Nat) (peers : List Peer) (b : Block) : Block :=
  let b := match queueHead (tileOf b t) 0 with
    | some o => if isCop o.desc cop then opStart t 0 b else b
    | none => b
  match (tileOf b t).ops.find? fun o => o.queue == 0 && o.isStarted && isCop o.desc cop with
  | some o => opComplete t 0 (if cop = 1 then endAdd t peers o b else finishOp t o.k .ok b)
  | none => b

/-- LOOP. -/
def loopCmd (t : Nat) (b : Block) : Block := if tileHeld b t then b else openLoop t b

/-- NOP, at either of the two places that share the name. -/
def nopCmd (site : NopSite) (b : Block) : Block := match site with
  | .tile t => controlCmd t 0 [] b
  | .queue q => cmdNop q b

/-- REMOTE_SIGNAL_ARRIVE: a signal on its way reaches its tile; one for the training job of a lent tile, at which it is held, or of one being saved
calls the tile back (R158, R312). Signals add, so
which one arrives first is the command's to say. -/
def signalArrive (i : Nat) (b : Block) : Block :=
  match b.til.signals[i]? with
  | none => b
  | some (t, s) =>
    let r := remoteArrive t s (suspendedJob b t) b
    if r.2 then
      callHome s.job t { r.1 with til := { r.1.til with signals := r.1.til.signals.eraseIdx i } }
    else r.1

/-- A started vector operation with the VOP given. -/
def vectorCmd (vop t w : Nat) (upset : Option Nat) (hits : List Strike) (b : Block) : Block :=
  onStarted t w 2 vop (fun o b => runVector t o upset b) (strike hits b)

/-- A started DMA operation with the DOP given, on the engine of its class (3 for engine 0, 4 for engine 1), with the page requests it makes. -/
def dmaCmd (dop t w : Nat) (peers : List Peer) (hits : List Strike) (b : Block) : Block :=
  match opInSlot b t w with
  | some o =>
    if o.isStarted && (dClass o.desc == 3 || dClass o.desc == 4) && dOp o.desc == dop then
      sendPages (runDma t (dClass o.desc - 3) o peers (strike hits b))
    else b
  | none => b

/-! ### Pages at peers (R300, R301) -/

/-- EVICTION_COPY_DONE for a page that moved to a peer; the end of an export is its PAGE_ACK (R449). -/
def peerCopyDone (q n : Nat) (b : Block) : Block :=
  if b.ctx.moves.any fun m => m.queue = q ∧ m.page = n ∧ m.peer.isSome then sendPages (settleCloses (evictDone q n b)) else b

/-- CTX_PAGE_LOST: rank `r` holds a PEER page of the session and has left its job. -/
def peerPageLost (q r : Nat) (b : Block) : Block :=
  if qType b q == 1 && ((List.range (qPtLen b q)).any fun n =>
      ptValid (ptGet b q n) && ptLoc (ptGet b q n) == 1 && ptRank (ptGet b q n) == r) then settleCloses (pageLost q b)
  else b

/-! ### Ports -/

/-- The unit of a MAC: FE0, FE1, then the MACs of links 0 to 23. -/
def macUnit (m : Nat) : Nat := if m < 2 then uFe m else uLink (m - 2)

/-- MAC_FRAME_TRANSMIT, answered with its status. -/
def macTransmit (u c : Nat) (f : List Byte) (b : Block) : Block :=
  let r := macSend u c f b
  answer r.1 0 r.2

/-! ### The tally die and the module -/

def answered (r : Status × Block) : Block := answer r.1 0 r.2
def powered (f : Block → Block) (b : Block) : Block := if b.tly.powered then f b else b

def capWriteCmd (v : Nat) (b : Block) : Block := answered (pwrCapWrite v b)
def powerOnCmd (b : Block) : Block := powered (fun b => answered (tallyOn b)) b
def powerOffCmd (b : Block) : Block := powered (fun b => answered (tallyOff b)) b
def tallyResetCmd (b : Block) : Block := powered (fun b => answered (tallyReset b)) b

/-- TALLY_RING_FRAME: a frame on TRA (0) or TRB (1) with the bypass open is taken in when it is for the tally die, and goes on unless it is for it
alone (R574). With the bypass closed the two ports are joined and the die sees nothing (R573). -/
def ringFrameCmd (port : Nat) (f : List Byte) (b : Block) : Block :=
  if bypassClosed b then b
  else ringForward port f (if ringTakes f then modQcp (fun q => { q with ringIn := q.ringIn ++ [(2 + port, f)] }) b else b)

/-- MODULE_INSERT with feeds live: the tally die powers up and the module is in D3 (Table 17.8); the supercapacitor is not charged yet. -/
def moduleInsert (va vb : Nat) (b : Block) : Block :=
  if b.tly.powered then b
  else
    let b := tallyPowerUp va vb b
    if b.tly.powered then setFld uTly Fld.tlyPowerHoldupOk 0 b else b

end Sys2Proof.Machine
end

