-- ==== Sys2Proof/Machine/State.lean ====
section
/-! DEFINITION. The state of the machine: everything the spec gives the block, and the queue of commands that wait. The reasons a step can stop,
and the state after reset. -/

namespace Sys2Proof.Machine

/-- The block, and the commands that wait, first in, first out. -/
structure State where
  blk : Block
  pending : List Instr
deriving DecidableEq, Repr

/-- The faults a step can end in: none. Every error the spec describes is a status the block answers, a status bit or an event, and the block goes
on; so no command raises a fault, and none is safe or unsafe. -/
inductive Fault where
deriving DecidableEq, Repr

/-- The refusals a step can end in. -/
inductive Refusal where
  /-- A command without a meaning, raised by the dispatch alone; safe: the machine stops where the hardware goes on. No arm raises it. -/
  | notModelled (mnemonic : String)
deriving DecidableEq, Repr

/-- The machine right after reset: the tally die just powered up with both feeds at 54.0 V (log entry 54), the module in D3 with the main domain off,
every register at the reset value of its table, no byte of memory listed, no command waiting. -/
def State.reset : State := ⟨blockFresh, []⟩

/-- An effect on the block, with the queue as it was. -/
def State.runAll (s : State) (f : Block → Block) : Host.Outcome State Fault Refusal := .next { s with blk := f s.blk }

/-- An effect outside the tally store and tally time (R32, R576). -/
def State.run (s : State) (f : Block → Block) : Host.Outcome State Fault Refusal := s.runAll (keepTally f)

/-- An effect of a unit of the main die, which does nothing while the main domain is not powered. -/
def State.runMain (s : State) (f : Block → Block) : Host.Outcome State Fault Refusal := s.run (whenMain f)

end Sys2Proof.Machine
end

