-- ==== Sys2Proof/Machine/BringUpCmds.lean ====
section
/-! DEFINITION. The commands of bring-up and reset (chapter 14): one meaning per command. -/

namespace Sys2Proof.Machine

/-- An RA_OPEN opens a bring-up session on a tally or front-end server. (R500) -/
def execRaOpen (port : Fin 4) (q : Fin 64) (s : State) : Host.Outcome State Fault Refusal := s.run (raOpen port q)

/-- An RA_CLOSE closes a bring-up session. (R500) -/
def execRaClose (port : Fin 4) (q : Fin 64) (s : State) : Host.Outcome State Fault Refusal := s.run (raClose port q)

/-- An RA_CLAIM on the tally ring of an unclaimed module enrols the claimant's key in slot 0. (R500) -/
def execRaClaim (port : Fin 4) (q : Fin 64) (s : State) : Host.Outcome State Fault Refusal := s.runAll (raClaim port q)

/-- An RA_BLOB writes 8 KiB of firmware image into the staging area and marks it received. (R505) -/
def execRaBlob (port : Fin 4) (q : Fin 64) (s : State) : Host.Outcome State Fault Refusal := s.run (raBlob port q)

/-- An RA_OPS READ entry reads a register. (R498) -/
def execRaRead (port : Fin 4) (q : Fin 64) (s : State) : Host.Outcome State Fault Refusal := s.run (raRead port q)

/-- An RA_OPS WRITE entry writes a register. (R498) -/
def execRaWrite (port : Fin 4) (q : Fin 64) (s : State) : Host.Outcome State Fault Refusal := s.runAll (raWrite port q)

/-- An RA_OPS RMW entry read-modify-writes a register as one access. (R498) -/
def execRaRmw (port : Fin 4) (q : Fin 64) (s : State) : Host.Outcome State Fault Refusal := s.runAll (raRmw port q)

/-- An RA_OPS POLL entry reads a register until the masked value matches. (R498) -/
def execRaPoll (port : Fin 4) (q : Fin 64) (s : State) : Host.Outcome State Fault Refusal := s.run (raPoll port q)

/-- A POLL whose TIMEOUT passes completes with BUSY and cancels later entries. (R498) -/
def execRaPollTimeout (port : Fin 4) (s : State) : Host.Outcome State Fault Refusal := s.run (raPollTimeout port)

/-- Bring-up action SPINES releases field spines and link controllers and loads lane exclusions. (R502) -/
def execSpines (s : State) : Host.Outcome State Fault Refusal := s.runMain bootSpines

/-- Bring-up action TRAIN trains every stack, applies repair maps and completes re-forming. (R503) -/
def execTrain (failed : List Nat) (s : State) : Host.Outcome State Fault Refusal := s.runMain (bootTrain failed)

/-- Bring-up action VERIFY checks the staged image's completeness, header, digest, signature and SVN. (R505) -/
def execVerify (s : State) : Host.Outcome State Fault Refusal := s.runMain bootVerify

/-- Bring-up action LOAD broadcasts the sequencer and gleaner images and runs repair rounds. (R507) -/
def execLoad (lost : List (Nat × Nat)) (s : State) : Host.Outcome State Fault Refusal := s.runMain (bootLoad lost)

/-- Bring-up action SELFTEST tests every loft, thresher, vector unit, gleaner and bank and takes failures OFFLINE. (R509) -/
def execSelftest (failed : List Nat) (s : State) : Host.Outcome State Fault Refusal := s.runMain (bootSelfTest failed)

/-- Bring-up action START records digests and starts the reeve, entering BOOT. (R510) -/
def execBootStart (s : State) : Host.Outcome State Fault Refusal := s.runMain bootStart

/-- A bring-up action ends with DONE or FAILED, SYS_BOOT_RESULT and SYS_BOOT_DONE or SYS_BOOT_FAIL. (R502) -/
def execBootActionEnd (s : State) : Host.Outcome State Fault Refusal := s.runMain bootActionEnd

/-- A target stores an image chunk whose CRC matches and, with all chunks present, checks the whole image. (R506) -/
def execLoadChunkReceive (u : Fin 8192) (chunk : Chunk) (s : State) : Host.Outcome State Fault Refusal := s.runMain (chunkReceive u chunk)

/-- A repair round resends missing chunks and, after the third, holds incomplete targets. (R507) -/
def execLoadRepairRound (lost : List (Nat × Nat)) (s : State) : Host.Outcome State Fault Refusal := s.runMain (loadRepairRound lost)

/-- A write of UNIT_RESET.PULSE resets the unit once, absorbing its traffic and draining it. (R513) -/
def execPulse (u : Fin 8192) (out : Nat) (s : State) : Host.Outcome State Fault Refusal := s.run fun b => if railsUp b then pulse u out b else b

/-- A write of UNIT_RESET.HOLD = 1 holds the unit in reset; HOLD = 0 releases it. (R513) -/
def execHold (u : Fin 8192) (v : Bool) (out : Nat) (s : State) : Host.Outcome State Fault Refusal := s.run fun b => if railsUp b then hold u v out b else b

/-- Outbound requests still outstanding 2 ms into a reset are abandoned and SYS_RST_ABANDON raised. (R513) -/
def execResetDrainTimeout (u : Fin 8192) (s : State) : Host.Outcome State Fault Refusal := s.runMain (drainTimeout u)

/-- A unit leaving reset reloads and checks, clears IN_RESET, sets RESET_DONE and becomes GOOD or OFFLINE. (R513) -/
def execSysResetDone (u : Fin 8192) (good : Bool) (s : State) : Host.Outcome State Fault Refusal := s.runMain (resetDoneCmd u good)

end Sys2Proof.Machine
end

