-- ==== Sys2Proof/Machine/ContextCmds.lean ====
section
/-! DEFINITION. The commands of the context store (chapter 08): one meaning per command. -/

namespace Sys2Proof.Machine

/-- A context allocation takes the lowest free page of the job's split frames or splits a whole free frame. (R283) -/
def execContextAllocation (j : Fin 8) (stack : Option (Fin 32)) (s : State) : Host.Outcome State Fault Refusal :=
  s.runMain (allocate j false (stack.map Fin.val))

/-- A tensor allocation takes a whole free frame and marks it TENSOR. (R284) -/
def execTensorAllocation (j : Fin 8) (stack : Option (Fin 32)) (s : State) : Host.Outcome State Fault Refusal :=
  s.runMain (allocate j true (stack.map Fin.val))

/-- An allocation still without an eligible frame after ALLOC_WAIT completes with NO_RESOURCE and raises CTX_ALLOC_FAIL. (R285) -/
def execAllocWaitExpire (s : State) : Host.Outcome State Fault Refusal := s.runMain (fun b => settleCloses (pageInExpire (parkedAllocExpire (allocExpire b))))

/-- Freeing the last page of a split frame without retired pages returns the frame whole and free. (R283) -/
def execPageFree (p : Fin 0x4000000) (s : State) : Host.Outcome State Fault Refusal := s.runMain (pageFreeCmd p)

/-- A page-in copies a PEER or EXPORTED page to a local page and writes the entry LOCAL, releasing waiting lookups. (R295) -/
def execPageIn (q : Fin 0x40000) (n : Nat) (status : Status) (data : List Byte) (s : State) : Host.Outcome State Fault Refusal :=
  s.runMain (fun b => sendPages (pageInCmd q n (status, data) b))

/-- When no page arrives within HOST_TMO, waiting operations complete with OP_FAILED and the entry stays EXPORTED. (R297) -/
def execHostPageinTimeout (q : Fin 0x40000) (n : Nat) (s : State) : Host.Outcome State Fault Refusal :=
  s.runMain (fun b => settleCloses (hostTimeout q n b))

/-- The context store invalidates a LOCAL entry's line in every tile and waits for every acknowledgement. (R296) -/
def execTranslationInvalidate (q : Fin 0x40000) (n : Nat) (s : State) : Host.Outcome State Fault Refusal := s.runMain (invalidate q n)

/-- An eviction marks the entry MOVING, invalidates, allocates or assigns GEN and starts copying the page out. (R300) -/
def execPageEviction (j : Fin 8) (peer : Option Nat) (s : State) : Host.Outcome State Fault Refusal :=
  s.runMain (fun b => sendPages (autoEvict j peer b))

/-- When the target holds the page, the entry is written PEER or EXPORTED and the local page freed. (R300) -/
def execEvictionCopyDone (q : Fin 0x40000) (n : Nat) (s : State) : Host.Outcome State Fault Refusal := s.runMain (peerCopyDone q n)

/-- A peer holding a session's page leaving or failing a page-in disables the session and fails its waiters. (R301) -/
def execCtxPageLost (q : Fin 0x40000) (r : Fin 1024) (s : State) : Host.Outcome State Fault Refusal := s.runMain (peerPageLost q r)

/-- When a tile group is free, the context store forms a batch of ready sessions, writes its record and starts the group's streams. (R306) -/
def execBatchDispatch (j : Fin 8) (s : State) : Host.Outcome State Fault Refusal := s.runMain (dispatchCmd j)

/-- When every tile of the group has ENDed, CONS of each session advances and the group returns to the free set. (R307) -/
def execBatchEnd (j : Fin 8) (num : Nat) (s : State) : Host.Outcome State Fault Refusal := s.runMain (batchEndCmd j num)

/-- When the borrow save completes, the training stream is SUSPENDED and the serving stream starts. (R311) -/
def execBorrowSaveDone (t : Fin 64) (s : State) : Host.Outcome State Fault Refusal := s.runMain (borrowSaved t)

/-- BUDGET microseconds after the lending FENCE the context store reclaims the tile. (R312) -/
def execLendBudgetExpire (t : Fin 64) (s : State) : Host.Outcome State Fault Refusal := s.runMain (budgetExpire t)

/-- A reclaim stops the serving stream on a lent tile and abandons its batch. (R313) -/
def execReclaim (t : Fin 64) (s : State) : Host.Outcome State Fault Refusal := s.runMain (reclaim t)

/-- Once INFLIGHT is 0 the saved state is restored, slots emptied, held signals applied and the training stream resumed. (R313) -/
def execReclaimDone (t : Fin 64) (s : State) : Host.Outcome State Fault Refusal := s.runMain (reclaimDone t)

/-- When no PAGE_ACK for an exported page arrives within CTX_CTRL.HOST_TMO, the entry returns to LOCAL and eviction stops. (R449) -/
def execExportAckTimeout (q : Fin 0x40000) (n : Nat) (s : State) : Host.Outcome State Fault Refusal := s.runMain (exportTimeout q n)

end Sys2Proof.Machine
end

