-- ==== Sys2Proof/Machine/DmaCmds.lean ====
section
/-! DEFINITION. The commands of the DMA engines and loft shares (chapter 05): one meaning per command. -/

namespace Sys2Proof.Machine

/-- A DMA COPY moves ROWS rows from SRC to DST, widening when DFMT differs. (R177) -/
def execDmaCopy (t : Fin 64) (w : Fin 1024) (peers : List Peer) (hits : List Strike) (s : State) : Host.Outcome State Fault Refusal :=
  s.runMain (dmaCmd 0 t w peers hits)

/-- A DMA GATHER reads rows through the index list, optionally paged or version-checked. (R177) -/
def execDmaGather (t : Fin 64) (w : Fin 1024) (peers : List Peer) (hits : List Strike) (s : State) : Host.Outcome State Fault Refusal :=
  s.runMain (dmaCmd 1 t w peers hits)

/-- A DMA SCATTER writes rows through the index list, the higher index winning on repeats. (R177) -/
def execDmaScatter (t : Fin 64) (w : Fin 1024) (peers : List Peer) (hits : List Strike) (s : State) : Host.Outcome State Fault Refusal :=
  s.runMain (dmaCmd 2 t w peers hits)

/-- A DMA TRANSPOSE writes source elements transposed into the issuing tile's loft. (R179) -/
def execDmaTranspose (t : Fin 64) (w : Fin 1024) (peers : List Peer) (hits : List Strike) (s : State) : Host.Outcome State Fault Refusal :=
  s.runMain (dmaCmd 3 t w peers hits)

/-- A DMA FILL writes the FILLV pattern into every destination row. (R177) -/
def execDmaFill (t : Fin 64) (w : Fin 1024) (peers : List Peer) (hits : List Strike) (s : State) : Host.Outcome State Fault Refusal :=
  s.runMain (dmaCmd 4 t w peers hits)

/-- A write of LFT_SHAREj sets or removes job slot j's loft share, or is rejected with LFT_SHARE_REJECT. (R186) -/
def execLftShareWrite (t : Fin 64) (j : Fin 8) (v : Word) (s : State) : Host.Outcome State Fault Refusal :=
  s.runMain (shareWrite t j v.toNat)

end Sys2Proof.Machine
end

