-- ==== Sys2Proof/Machine/FabricCmds.lean ====
section
/-! DEFINITION. The commands of the links, the fabric and the collective engines (chapter 10): one meaning per command. -/

namespace Sys2Proof.Machine

/-- A write of JXL_CTRL.MODE takes the link OFF and trains it in the new mode. (R357) -/
def execJxlModeWrite (l : Fin 24) (v : Word) (s : State) : Host.Outcome State Fault Refusal := s.runMain (linkModeWrite l v.toNat)

/-- A NEGOTIATE control message settles the link's level and brings it UP, or FAILED with JXL_NEG_FAIL. (R362) -/
def execNegotiate (l : Fin 24) (lmin : Fin 256) (lmax : Fin 256) (plink : Fin 32) (pid : Nat) (txBad : Fin 256) (rxBad : Fin 256) (s : State) : Host.Outcome State Fault Refusal :=
  s.runMain (negotiate l lmin lmax plink pid txBad rxBad)

/-- A write of JXL_LANEMAP.COMMIT records the lane exclusions in the tally store or is refused at the limit. (R361) -/
def execLanemapCommit (l : Fin 24) (v : Word) (s : State) : Host.Outcome State Fault Refusal := s.runAll (whenMain (lanemapWrite l v.toNat))

/-- A received flit is accepted in sequence or, on a bad CRC or sequence, discarded with a NAK. (R363) -/
def execFlitReceive (l : Fin 24) (flit : List Byte) (corr : Nat) (uncorr : Nat) (s : State) : Host.Outcome State Fault Refusal :=
  s.runMain (frameRx (flitRx l flit corr uncorr))

/-- A NAK makes the sender replay from ACK + 1 out of its replay buffer. (R363) -/
def execNakReplay (l : Fin 24) (ack : Fin 0x1000000) (s : State) : Host.Outcome State Fault Refusal := s.runMain (nakReplay l ack)

/-- Sixteen replays of one flit or a lost lane lock send the link to RETRAINING, or FAILED past the limits. (R364) -/
def execJxlRetrain (l : Fin 24) (lostLock : Bool) (s : State) : Host.Outcome State Fault Refusal := s.runMain (retrain l lostLock)

/-- Retraining succeeds and the link resumes UP by replay. (R364) -/
def execRetrainDone (l : Fin 24) (txBad : Fin 256) (rxBad : Fin 256) (s : State) : Host.Outcome State Fault Refusal :=
  s.runMain (retrainDone l txBad rxBad)

/-- A unit's access to another rank is sent as an authenticated fabric frame on a chosen link and held until its completion. (R370) -/
def execFabricRequestSend (req : FabReq) (s : State) : Host.Outcome State Fault Refusal := s.runMain (requestSend req)

/-- A request without completion after RTO is resent unchanged, or after 8 sends fails with JXL_E2E_FAIL. (R370) -/
def execFabricResendTimeout (j : Fin 8) (r : Fin 1024) (ctr : Nat) (s : State) : Host.Outcome State Fault Refusal :=
  s.runMain (resendTimeout j r ctr)

/-- A received WRITE frame is authenticated, de-duplicated and executed, and answered with a COMPLETION. (R373) -/
def execFabricWrite (l : Fin 24) (frame : List Byte) (s : State) : Host.Outcome State Fault Refusal := s.runMain (frameRx (fabricKindRx 1 l frame))

/-- A received READ frame is executed and answered with a COMPLETION carrying the data. (R373) -/
def execFabricRead (l : Fin 24) (frame : List Byte) (s : State) : Host.Outcome State Fault Refusal := s.runMain (frameRx (fabricKindRx 2 l frame))

/-- A received ATOMIC frame is executed once and answered with a COMPLETION. (R373) -/
def execFabricAtomic (l : Fin 24) (frame : List Byte) (s : State) : Host.Outcome State Fault Refusal := s.runMain (frameRx (fabricKindRx 3 l frame))

/-- A received COMPLETION ends its held request, or with RETRY schedules a resend. (R370) -/
def execFabricCompletion (l : Fin 24) (frame : List Byte) (s : State) : Host.Outcome State Fault Refusal :=
  s.runMain (frameRx (fabricKindRx 4 l frame))

/-- A received collective frame is matched to its collective or held in the early buffer, or answered RETRY. (R393) -/
def execFabricColl (l : Fin 24) (frame : List Byte) (s : State) : Host.Outcome State Fault Refusal := s.runMain (frameRx (fabricKindRx 5 l frame))

/-- A received HEARTBEAT frame refreshes the sender's liveness and its live-link report. (R379) -/
def execHeartbeat (l : Fin 24) (frame : List Byte) (s : State) : Host.Outcome State Fault Refusal := s.runMain (frameRx (fabricKindRx 6 l frame))

/-- A received KEYX frame is verified against the member list and taken, or discarded with SEC_KEYX_FAIL. (R537) -/
def execKeyx (l : Fin 24) (frame : List Byte) (s : State) : Host.Outcome State Fault Refusal := s.runMain (frameRx (fabricKindRx 7 l frame))

/-- An epoch's key is retired 100 ms after the first frame of the following epoch arrives. (R368) -/
def execEpochKeyRetire (j : Fin 8) (r : Fin 1024) (s : State) : Host.Outcome State Fault Refusal := s.runMain (epochRetire j r)

/-- Every INTERVAL milliseconds the chip sends a HEARTBEAT to every watched rank of each job slot. (R379) -/
def execHeartbeatSend (s : State) : Host.Outcome State Fault Refusal := s.runMain heartbeatSend

/-- A watched rank without an authentic heartbeat for MISS intervals becomes silent. (R380) -/
def execJxlPeerSilent (j : Fin 8) (r : Fin 1024) (s : State) : Host.Outcome State Fault Refusal := s.runMain (peerSilentCmd j r)

/-- A write of JXL_JOB_CTRL.FLUSH completes every outstanding request of the job with CANCELLED. (R398) -/
def execJobFlush (j : Fin 8) (s : State) : Host.Outcome State Fault Refusal := s.runMain (flushJob j)

/-- Collective ALL_REDUCE reduces in fixed tree order and gathers the owners' shards to all. (R389) -/
def execAllReduce (q : Fin 0x40000) (s : State) : Host.Outcome State Fault Refusal := s.runMain (collStart 1 q)

/-- Collective REDUCE_SCATTER reduces shard k on its owner in fixed tree order. (R389) -/
def execReduceScatter (q : Fin 0x40000) (s : State) : Host.Outcome State Fault Refusal := s.runMain (collStart 2 q)

/-- Collective ALL_GATHER collects every member's shard at every member. (R384) -/
def execAllGather (q : Fin 0x40000) (s : State) : Host.Outcome State Fault Refusal := s.runMain (collStart 3 q)

/-- Collective ALL_TO_ALL exchanges one block between every pair of members. (R384) -/
def execAllToAll (q : Fin 0x40000) (s : State) : Host.Outcome State Fault Refusal := s.runMain (collStart 4 q)

/-- Collective SEND sends COUNT bytes to rank AUX. (R384) -/
def execColSend (q : Fin 0x40000) (s : State) : Host.Outcome State Fault Refusal := s.runMain (collStart 5 q)

/-- Collective RECV receives COUNT bytes from rank AUX into DST. (R384) -/
def execRecv (q : Fin 0x40000) (s : State) : Host.Outcome State Fault Refusal := s.runMain (collStart 6 q)

/-- Collective PERMUTE moves listed ranges with their tags through the stage area in barrier-separated rounds. (R391) -/
def execPermute (q : Fin 0x40000) (s : State) : Host.Outcome State Fault Refusal := s.runMain (collStart 7 q)

/-- Collective BARRIER completes once the barrier frame of every other member has arrived. (R392) -/
def execBarrier (q : Fin 0x40000) (s : State) : Host.Outcome State Fault Refusal := s.runMain (collStart 8 q)

/-- A finishing collective adds to its DONE block and, on OK with SIGNAL, signals its token. (R394) -/
def execCollectiveComplete (e : CollEnd) (s : State) : Host.Outcome State Fault Refusal := s.runMain (collComplete e.engine e.peers)

/-- A write of COL_CMD.ABORT cancels every collective of the job slot and discards its staged and early data. (R395) -/
def execColAborted (f : Fin 4) (j : Fin 8) (s : State) : Host.Outcome State Fault Refusal := s.runMain (collAbort f j)

end Sys2Proof.Machine
end

