-- ==== Sys2Proof/Machine/FaceCmds.lean ====
section
/-! DEFINITION. The commands of the common face (chapters 00 and 01): one meaning per command. -/

namespace Sys2Proof.Machine

/-- A write to a register field that has no behaviour of its own sets or ignores the field as its access type states. (R15) -/
def execRegisterWrite (wr : Access) (fromFe : Bool) (u : Fin 8192) (o : Fin 0x100000) (v : Word) (s : State) : Host.Outcome State Fault Refusal :=
  s.runAll (registerWrite wr.width wr.unit fromFe u o v.toNat)

/-- A read of a 64-bit counter's low word latches the high word into the shadow and, for a clear-on-read counter, clears both words as one event. (R13) -/
def execCounterLowRead (rdr : Access) (u : Fin 8192) (o : Fin 0x100000) (s : State) : Host.Outcome State Fault Refusal :=
  s.run (registerRead (fun u o => isPairLo u o) rdr.width rdr.unit u o)

/-- A read of an RC register returns its current value and then clears it. (R15) -/
def execRcRegisterRead (rdr : Access) (u : Fin 8192) (o : Fin 0x100000) (s : State) : Host.Outcome State Fault Refusal :=
  s.run (registerRead (fun u o => hasAccess .rc u o) rdr.width rdr.unit u o)

/-- A write of a sequence and a mask to an SQ register clears each masked bit whose own sequence is not later than the written sequence. (R46) -/
def execSqRegisterWrite (wr : Access) (u : Fin 8192) (o : Fin 0x100000) (v : SqClear) (s : State) : Host.Outcome State Fault Refusal :=
  s.run (sqRegisterWrite wr.width wr.unit u o v.sq v.mask)

/-- A change of a unit's WORST reaches its parent's UNIT_SUMMARY within 1 µs per level and raises SYS_MEMBER_HEALTH there. (R29) -/
def execSysMemberHealth (u : Fin 8192) (s : State) : Host.Outcome State Fault Refusal := s.runMain (memberHealth u)

/-- A write of a new MBX_CTRL.POST_SEQ posts MBX_IN0 to MBX_IN15 to the unit, or is rejected under R34 or R599. (R33) -/
def execMbxPost (u : Fin 8192) (sq : Fin 65536) (s : State) : Host.Outcome State Fault Refusal := s.runMain (fun b =>
  if windowThere b u then mbxPost u (sq.val * 2 ^ 16) b else raise uReeve .sysAddrFault ((u.val * 2 ^ 20 + Off.mbxCtrl) % 2 ^ 32) b)

/-- The unit answers a post within 100 µs by writing MBX_OUT, then REPLY_SEQ, then setting MBX_REPLY and raising SYS_MBX_REPLY. (R599) -/
def execMbxReply (u : Fin 8192) (s : State) : Host.Outcome State Fault Refusal := s.run (mbxReplyCmd u)

/-- The stall watchdog fires on an unacknowledged handshake request, and the requesting unit raises SYS_HS_STALL and becomes FAILED. (R42) -/
def execSysHsStall (u : Fin 8192) (port : Fin 256) (since : Nat) (s : State) : Host.Outcome State Fault Refusal :=
  s.runMain (hsStallCmd u port since)

/-- The tally die's 1 µs tick advances tally time and the watchdog counts in every field spine. (R43) -/
def execTallyUsTick (s : State) : Host.Outcome State Fault Refusal := s.runAll usTick

end Sys2Proof.Machine
end

