-- ==== Sys2Proof/Machine/GleanerCmds.lean ====
section
/-! DEFINITION. The commands of the gleaners and their stack controllers (chapter 07): one meaning per command. -/

namespace Sys2Proof.Machine

/-- GRN_GL_CMD.LAUNCH starts every named working gleaner with the launch registers, or is rejected whole. (R244) -/
def execLaunch (st : Fin 32) (s : State) : Host.Outcome State Fault Refusal := s.runMain (launch st)

/-- GRN_GL_CMD.ABORT stops every gleaner of the named job at its next instruction boundary, discarding open segments. (R249) -/
def execAbort (st : Fin 32) (s : State) : Host.Outcome State Fault Refusal := s.runMain (abort st)

/-- The stack controller grants a READY or PAUSED gleaner in rotation within 0.2 µs of a grant falling free. (R269) -/
def execGrantIssue (st : Fin 32) (s : State) : Host.Outcome State Fault Refusal := s.runMain (grantIssue st)

/-- A gleaner that has held its grant for QUANTUM while another waits gives it up at its next commit and pauses. (R270) -/
def execGrantQuantumExpire (g : Fin 4096) (s : State) : Host.Outcome State Fault Refusal := s.runMain (quantumExpire g)

/-- A lower TLYCAP withdraws the most recent grants at their holders' next commits. (R271) -/
def execTlycapChange (st : Fin 32) (cap : Fin 256) (s : State) : Host.Outcome State Fault Refusal := s.runMain (tlycapChange st cap)

/-- The tally die counting more grants than TLYCAP withdraws every grant of the stack and fails the stack controller. (R272) -/
def execGlnGrantOver (st : Fin 32) (count : Fin 256) (s : State) : Host.Outcome State Fault Refusal := s.runMain (grantOver st count)

/-- A gleaner lockstep disagreement discards the open segment, fails the gleaner and counts a fault. (R243) -/
def execGlnLockstep (g : Fin 4096) (s : State) : Host.Outcome State Fault Refusal := s.runMain (glLockstepCmd g)

/-- An illegal instruction, misaligned access, ECALL or EBREAK ends the run with BAD_ARGUMENT. (R242) -/
def execGlnIllegalInstruction (g : Fin 4096) (s : State) : Host.Outcome State Fault Refusal := s.runMain (glIllegal g)

/-- A write of a row-stream CSR sets it, is ignored when RO, or is an illegal instruction when unlisted. (R276) -/
def execGlnCsrWrite (g : Fin 4096) (s : State) : Host.Outcome State Fault Refusal := s.runMain (glInstr g (fun k => k == .csr) [] [])

/-- A write of RS_CONV2 with a different SCIDX merges the pending conversion counts under R122. (R262) -/
def execRsConv2Write (g : Fin 4096) (hits : List Strike) (s : State) : Host.Outcome State Fault Refusal :=
  s.runMain (glInstr g (fun k => k == .conv2) [] hits)

/-- rs.open opens the masked congruent streams and returns the positions this gleaner will visit. (R250) -/
def execRsOpen (g : Fin 4096) (s : State) : Host.Outcome State Fault Refusal := s.runMain (glInstr g (fun k => k == .rsOpen) [] [])

/-- rs.next makes the next visited position current. (R251) -/
def execRsNext (g : Fin 4096) (s : State) : Host.Outcome State Fault Refusal := s.runMain (glInstr g (fun k => k == .rsNext) [] [])

/-- rs.get reads a stream granule at the current position into a buffer, opening or extending a segment. (R254) -/
def execRsGet (g : Fin 4096) (hits : List Strike) (s : State) : Host.Outcome State Fault Refusal :=
  s.runMain (glInstr g (fun k => k == .rsGet) [] hits)

/-- rs.put places a buffer into the segment's commit buffer for a stream granule. (R254) -/
def execRsPut (g : Fin 4096) (hits : List Strike) (s : State) : Host.Outcome State Fault Refusal :=
  s.runMain (glInstr g (fun k => k == .rsPut) [] hits)

/-- rs.fget reads a granule at a far device address as an ordinary access. (R253) -/
def execRsFget (g : Fin 4096) (peers : List Peer) (hits : List Strike) (s : State) : Host.Outcome State Fault Refusal :=
  s.runMain (glInstr g (fun k => k == .rsFget) peers hits)

/-- rs.fput writes a buffer to a far device address as an ordinary write. (R253) -/
def execRsFput (g : Fin 4096) (peers : List Peer) (hits : List Strike) (s : State) : Host.Outcome State Fault Refusal :=
  s.runMain (glInstr g (fun k => k == .rsFput) peers hits)

/-- rs.amo performs an atomic of Table 6.4 at a far address with operands from scratch. (R256) -/
def execRsAmo (g : Fin 4096) (peers : List Peer) (hits : List Strike) (s : State) : Host.Outcome State Fault Refusal :=
  s.runMain (glInstr g (fun k => k == .rsAmo) peers hits)

/-- rs.end commits the open segment, writing its held puts and releasing its banks. (R265) -/
def execRsEnd (g : Fin 4096) (hits : List Strike) (s : State) : Host.Outcome State Fault Refusal :=
  s.runMain (glInstr g (fun k => k == .rsEnd) [] hits)

/-- rs.exit commits, drains writes and atomics, merges conversion counts and makes the done add. (R248) -/
def execRsExit (g : Fin 4096) (hits : List Strike) (s : State) : Host.Outcome State Fault Refusal :=
  s.runMain (glInstr g (fun k => k == .rsExit) [] hits)

/-- A segment is committed when a held bank reaches 1 µs or before a 17th get or put, counted in GLN_FORCED. (R264) -/
def execSegmentForcedCommit (g : Fin 4096) (s : State) : Host.Outcome State Fault Refusal := s.runMain (glForced g)

/-- Granule operation ADD: D = A + B. (R257) -/
def execGopAdd (g : Fin 4096) (s : State) : Host.Outcome State Fault Refusal := s.runMain (glInstr g (fun k => k == .gop 0x00) [] [])

/-- Granule operation SUB: D = A − B. (R257) -/
def execGopSub (g : Fin 4096) (s : State) : Host.Outcome State Fault Refusal := s.runMain (glInstr g (fun k => k == .gop 0x01) [] [])

/-- Granule operation MUL: D = A × B. (R257) -/
def execGopMul (g : Fin 4096) (s : State) : Host.Outcome State Fault Refusal := s.runMain (glInstr g (fun k => k == .gop 0x02) [] [])

/-- Granule operation FMA: D = A × B + D with one rounding. (R257) -/
def execGopFma (g : Fin 4096) (s : State) : Host.Outcome State Fault Refusal := s.runMain (glInstr g (fun k => k == .gop 0x03) [] [])

/-- Granule operation AXPY: D = s0 × A + B with one rounding. (R257) -/
def execAxpy (g : Fin 4096) (s : State) : Host.Outcome State Fault Refusal := s.runMain (glInstr g (fun k => k == .gop 0x04) [] [])

/-- Granule operation AFFINE: D = s0 × A + s1 with one rounding. (R257) -/
def execAffine (g : Fin 4096) (s : State) : Host.Outcome State Fault Refusal := s.runMain (glInstr g (fun k => k == .gop 0x05) [] [])

/-- Granule operation DIV: D = A / B. (R257) -/
def execGopDiv (g : Fin 4096) (s : State) : Host.Outcome State Fault Refusal := s.runMain (glInstr g (fun k => k == .gop 0x06) [] [])

/-- Granule operation SQRT: D = √A. (R257) -/
def execGopSqrt (g : Fin 4096) (s : State) : Host.Outcome State Fault Refusal := s.runMain (glInstr g (fun k => k == .gop 0x07) [] [])

/-- Granule operation MAX as VOP MAX. (R257) -/
def execGopMax (g : Fin 4096) (s : State) : Host.Outcome State Fault Refusal := s.runMain (glInstr g (fun k => k == .gop 0x08) [] [])

/-- Granule operation MIN as VOP MIN. (R257) -/
def execGopMin (g : Fin 4096) (s : State) : Host.Outcome State Fault Refusal := s.runMain (glInstr g (fun k => k == .gop 0x09) [] [])

/-- Granule operation MOVE: D = A. (R257) -/
def execGopMove (g : Fin 4096) (s : State) : Host.Outcome State Fault Refusal := s.runMain (glInstr g (fun k => k == .gop 0x0A) [] [])

/-- Granule operation CVT converts A to the RS_CONV0 target and accumulates its chaff for RS_CONV2.SCIDX. (R262) -/
def execCvt (g : Fin 4096) (hits : List Strike) (s : State) : Host.Outcome State Fault Refusal :=
  s.runMain (glInstr g (fun k => k == .gop 0x10) [] hits)

/-- Granule operation WIDEN widens narrow codes of A to FP32 in D. (R258) -/
def execGopWiden (g : Fin 4096) (s : State) : Host.Outcome State Fault Refusal := s.runMain (glInstr g (fun k => k == .gop 0x11) [] [])

/-- Granule operation XSUM adds the exact sum of A to the exact accumulator. (R260) -/
def execXsum (g : Fin 4096) (s : State) : Host.Outcome State Fault Refusal := s.runMain (glInstr g (fun k => k == .gop 0x12) [] [])

/-- Granule operation XSUMSQ adds the exact sum of squares of A to the exact accumulator. (R260) -/
def execXsumsq (g : Fin 4096) (s : State) : Host.Outcome State Fault Refusal := s.runMain (glInstr g (fun k => k == .gop 0x13) [] [])

/-- Granule operation AMAX raises RS_AMAX to the largest finite magnitude in A. (R256) -/
def execAmax (g : Fin 4096) (s : State) : Host.Outcome State Fault Refusal := s.runMain (glInstr g (fun k => k == .gop 0x14) [] [])

/-- Granule operation CRC writes the CRC-64 of A's 512 bytes into D. (R259) -/
def execCrc (g : Fin 4096) (s : State) : Host.Outcome State Fault Refusal := s.runMain (glInstr g (fun k => k == .gop 0x15) [] [])

/-- rs.x XCLR clears the exact accumulator. (R260) -/
def execXclr (g : Fin 4096) (s : State) : Host.Outcome State Fault Refusal := s.runMain (glInstr g (fun k => k == .xop 0) [] [])

/-- rs.x XST stores the 88-byte accumulator image to scratch. (R261) -/
def execXst (g : Fin 4096) (s : State) : Host.Outcome State Fault Refusal := s.runMain (glInstr g (fun k => k == .xop 1) [] [])

/-- rs.x XADDM adds an image from scratch to the accumulator and ORs its flags. (R261) -/
def execXaddm (g : Fin 4096) (s : State) : Host.Outcome State Fault Refusal := s.runMain (glInstr g (fun k => k == .xop 2) [] [])

/-- rs.x XRND returns the accumulator rounded once to FP32. (R261) -/
def execXrnd (g : Fin 4096) (s : State) : Host.Outcome State Fault Refusal := s.runMain (glInstr g (fun k => k == .xop 3) [] [])

/-- A gleaner core executes one ordinary RV32IMAFC instruction, including scratch loads, stores and RV32A atomics, under the address map of Table 7.2. (R240) -/
def execRv32imafcInstruction (g : Fin 4096) (s : State) : Host.Outcome State Fault Refusal :=
  s.runMain (glInstr g (fun k => k == .ordinary) [] [])

end Sys2Proof.Machine
end

