-- ==== Sys2Proof/Machine/GranaryCmds.lean ====
section
/-! DEFINITION. The commands of the granary (chapter 06): one meaning per command. -/

namespace Sys2Proof.Machine

/-- A granary read is served on the narrow or streaming path by its channel controller. (R203) -/
def execGranaryRead (u : Fin 8192) (job : Option (Fin 8)) (a : Nat) (n : Nat) (hits : List Strike) (s : State) : Host.Outcome State Fault Refusal :=
  s.runMain (grnReadCmd u (job.map Fin.val) a n hits)

/-- A granary write sets whole lines with their tags or merges partial lines as one action. (R205) -/
def execGranaryWrite (u : Fin 8192) (job : Option (Fin 8)) (a : Nat) (data : List Byte) (tag : Option Nat) (hits : List Strike) (s : State) : Host.Outcome State Fault Refusal :=
  s.runMain (grnWriteCmd u (job.map Fin.val) a data tag hits)

/-- Atomic 32-bit integer add at the channel controller. (R206) -/
def execAddI32 (u : Fin 8192) (job : Option (Fin 8)) (a : Nat) (v : Nat) (hits : List Strike) (s : State) : Host.Outcome State Fault Refusal :=
  s.runMain (grnAtomicCmd 0x01 u (job.map Fin.val) a v 0 hits)

/-- Atomic 64-bit integer add at the channel controller. (R206) -/
def execAddI64 (u : Fin 8192) (job : Option (Fin 8)) (a : Nat) (v : Nat) (hits : List Strike) (s : State) : Host.Outcome State Fault Refusal :=
  s.runMain (grnAtomicCmd 0x02 u (job.map Fin.val) a v 0 hits)

/-- Atomic FP32 add, refused with GRN_ATOMIC_REJECT for a training job. (R207) -/
def execAddF32 (u : Fin 8192) (job : Option (Fin 8)) (a : Nat) (v : Nat) (hits : List Strike) (s : State) : Host.Outcome State Fault Refusal :=
  s.runMain (grnAtomicCmd 0x03 u (job.map Fin.val) a v 0 hits)

/-- Atomic BF16 add, refused with GRN_ATOMIC_REJECT for a training job. (R207) -/
def execAddBf16 (u : Fin 8192) (job : Option (Fin 8)) (a : Nat) (v : Nat) (hits : List Strike) (s : State) : Host.Outcome State Fault Refusal :=
  s.runMain (grnAtomicCmd 0x04 u (job.map Fin.val) a v 0 hits)

/-- Atomic signed 32-bit max. (R206) -/
def execMaxS32 (u : Fin 8192) (job : Option (Fin 8)) (a : Nat) (v : Nat) (hits : List Strike) (s : State) : Host.Outcome State Fault Refusal :=
  s.runMain (grnAtomicCmd 0x05 u (job.map Fin.val) a v 0 hits)

/-- Atomic signed 32-bit min. (R206) -/
def execMinS32 (u : Fin 8192) (job : Option (Fin 8)) (a : Nat) (v : Nat) (hits : List Strike) (s : State) : Host.Outcome State Fault Refusal :=
  s.runMain (grnAtomicCmd 0x06 u (job.map Fin.val) a v 0 hits)

/-- Atomic unsigned 32-bit max. (R206) -/
def execMaxU32 (u : Fin 8192) (job : Option (Fin 8)) (a : Nat) (v : Nat) (hits : List Strike) (s : State) : Host.Outcome State Fault Refusal :=
  s.runMain (grnAtomicCmd 0x07 u (job.map Fin.val) a v 0 hits)

/-- Atomic unsigned 32-bit min. (R206) -/
def execMinU32 (u : Fin 8192) (job : Option (Fin 8)) (a : Nat) (v : Nat) (hits : List Strike) (s : State) : Host.Outcome State Fault Refusal :=
  s.runMain (grnAtomicCmd 0x08 u (job.map Fin.val) a v 0 hits)

/-- Atomic signed 64-bit max. (R206) -/
def execMaxS64 (u : Fin 8192) (job : Option (Fin 8)) (a : Nat) (v : Nat) (hits : List Strike) (s : State) : Host.Outcome State Fault Refusal :=
  s.runMain (grnAtomicCmd 0x09 u (job.map Fin.val) a v 0 hits)

/-- Atomic signed 64-bit min. (R206) -/
def execMinS64 (u : Fin 8192) (job : Option (Fin 8)) (a : Nat) (v : Nat) (hits : List Strike) (s : State) : Host.Outcome State Fault Refusal :=
  s.runMain (grnAtomicCmd 0x0A u (job.map Fin.val) a v 0 hits)

/-- Atomic unsigned 64-bit max. (R206) -/
def execMaxU64 (u : Fin 8192) (job : Option (Fin 8)) (a : Nat) (v : Nat) (hits : List Strike) (s : State) : Host.Outcome State Fault Refusal :=
  s.runMain (grnAtomicCmd 0x0B u (job.map Fin.val) a v 0 hits)

/-- Atomic unsigned 64-bit min. (R206) -/
def execMinU64 (u : Fin 8192) (job : Option (Fin 8)) (a : Nat) (v : Nat) (hits : List Strike) (s : State) : Host.Outcome State Fault Refusal :=
  s.runMain (grnAtomicCmd 0x0C u (job.map Fin.val) a v 0 hits)

/-- Atomic FP32 max following VOP MAX. (R206) -/
def execMaxF32 (u : Fin 8192) (job : Option (Fin 8)) (a : Nat) (v : Nat) (hits : List Strike) (s : State) : Host.Outcome State Fault Refusal :=
  s.runMain (grnAtomicCmd 0x0D u (job.map Fin.val) a v 0 hits)

/-- Atomic FP32 min following VOP MIN. (R206) -/
def execMinF32 (u : Fin 8192) (job : Option (Fin 8)) (a : Nat) (v : Nat) (hits : List Strike) (s : State) : Host.Outcome State Fault Refusal :=
  s.runMain (grnAtomicCmd 0x0E u (job.map Fin.val) a v 0 hits)

/-- Atomic 64-bit compare-and-swap. (R206) -/
def execCas64 (u : Fin 8192) (job : Option (Fin 8)) (a : Nat) (v : Nat) (cmp : Nat) (hits : List Strike) (s : State) : Host.Outcome State Fault Refusal :=
  s.runMain (grnAtomicCmd 0x0F u (job.map Fin.val) a v cmp hits)

/-- Patrol scrub reads lines in turn so that each is read once every HOURS period, correcting but never poisoning. (R199) -/
def execPatrolScrubRead (ch : Fin 512) (hits : List Strike) (s : State) : Host.Outcome State Fault Refusal := s.runMain (patrolRead ch hits)

/-- A bank's refresh falls due and holds the bank for 140 ns, postponed at most 8 intervals. (R209) -/
def execRefresh (ch : Fin 512) (bank : Fin 16) (bankBusy : Bool) (s : State) : Host.Outcome State Fault Refusal :=
  s.runMain (refreshDue ch bank bankBusy)

/-- A calibration task's interval expires and a piece of at most 1 µs runs on the channel. (R212) -/
def execCalibrationPiece (ch : Fin 512) (task : Fin 4) (good : Bool) (s : State) : Host.Outcome State Fault Refusal :=
  s.runMain (calPiece ch task good)

/-- A die temperature move of more than 5 °C runs read and write centring at once. (R213) -/
def execCentringTempTrigger (ch : Fin 512) (temp : Fin 256) (readGood : Bool) (writeGood : Bool) (s : State) : Host.Outcome State Fault Refusal :=
  s.runMain (centringTemp ch temp readGood writeGood)

/-- A write of GRN_LOCAL_LO or HI changes group modes, or is rejected with GRN_LOCAL_REJECT for an allocated group. (R202) -/
def execGrnLocalWrite (hi : Bool) (v : Word) (s : State) : Host.Outcome State Fault Refusal := s.runMain (grnLocalWrite hi v.toNat)

/-- GRN_HRV_CMD.RUN in IDLE starts a harvest pass by reading the schedule header. (R217) -/
def execHrvRun (f : Fin 4) (j : Fin 8) (hits : List Strike) (s : State) : Host.Outcome State Fault Refusal := s.runMain (fun b => harvestEnd j (hrvRun f j hits b))

/-- GRN_HRV_CMD.STOP drops unstarted entries, lets started entries finish and returns the slot to IDLE. (R222) -/
def execHrvStop (f : Fin 4) (j : Fin 8) (s : State) : Host.Outcome State Fault Refusal := s.runMain (hrvStop f j)

/-- A harvest entry starts once depth allows, earlier entries have started and its gate token count suffices. (R217) -/
def execHrvEntryStart (f : Fin 4) (j : Fin 8) (hits : List Strike) (s : State) : Host.Outcome State Fault Refusal :=
  s.runMain (fun b => harvestEnd j (hrvStart f j (tileAway b j) (callHome j) hits b))

/-- A harvest entry completes when its bytes are held in the loft and signals LAND_TOK if LAND is set. (R219) -/
def execHrvEntryLand (f : Fin 4) (j : Fin 8) (cause : Fin 8) (peers : List Peer) (hits : List Strike) (s : State) : Host.Outcome State Fault Refusal :=
  s.runMain (fun b => harvestEnd j (hrvLand f j cause (tileAway b j) (callHome j) peers hits b))

/-- A write of GRN_CH_REPAIR with GO requests a repair of the named row. (R226) -/
def execGrnChRepairWrite (ch : Fin 512) (v : Word) (s : State) : Host.Outcome State Fault Refusal := s.runMain (chRepairWrite ch v.toNat)

/-- A row repair takes a spare, counts and records it in the tally die, remaps the row and writes back its lines. (R227) -/
def execRowRepair (ch : Fin 512) (hits : List Strike) (s : State) : Host.Outcome State Fault Refusal :=
  s.runAll (whenMain (rowRepair ch hits))

/-- A failed or silent channel is retired, its accesses fail and the reeve assigns redirect targets. (R232) -/
def execGrnChannelRetired (ch : Fin 512) (silent : Bool) (s : State) : Host.Outcome State Fault Refusal :=
  s.runMain (retireChannel ch silent)

end Sys2Proof.Machine
end

