-- ==== Sys2Proof/Machine/MacCmds.lean ====
section
/-! DEFINITION. The commands of the Ethernet MACs (chapter 11): one meaning per command. -/

namespace Sys2Proof.Machine

/-- A received frame is checked, filtered and placed in a receive queue or the fabric path, or discarded and counted. (R411) -/
def execMacFrameReceive (m : Fin 26) (frame : List Byte) (cut : Bool) (corr : Nat) (uncorr : Nat) (s : State) : Host.Outcome State Fault Refusal :=
  s.runMain (frameRx (macFrameRx (macUnit m) frame cut corr uncorr))

/-- A received PAUSE in MODE 1 holds every class for its quanta, or is ignored in another mode or hold-off. (R418) -/
def execPauseFrameReceive (m : Fin 26) (quanta : Fin 65536) (s : State) : Host.Outcome State Fault Refusal :=
  s.runMain (pauseRx (macUnit m) quanta)

/-- A received PFC frame in MODE 2 holds each named enabled class for its quanta. (R418) -/
def execPfcFrameReceive (m : Fin 26) (vec : Fin 256) (quanta : List Nat) (s : State) : Host.Outcome State Fault Refusal :=
  s.runMain (pfcRx (macUnit m) vec quanta)

/-- A class's pause time runs out and the class may transmit again. (R418) -/
def execPauseHoldExpire (m : Fin 26) (c : Fin 9) (s : State) : Host.Outcome State Fault Refusal := s.runMain (holdExpire (macUnit m) c)

/-- A consumer releases a received frame, freeing its class share. (R415) -/
def execRxFrameRelease (m : Fin 26) (q : Fin 64) (s : State) : Host.Outcome State Fault Refusal := s.runMain (rxReleaseCmd (macUnit m) q)

/-- Every 32,768 quanta while use stays at or above XON the pause frame is sent again. (R419) -/
def execPauseRefresh (m : Fin 26) (c : Fin 9) (s : State) : Host.Outcome State Fault Refusal := s.runMain (pauseRefresh (macUnit m) c)

/-- A class pausing its peer for LIMIT ms without falling below XON releases it and stops pausing for HOLD ms. (R420) -/
def execMacTxPauseAbandon (m : Fin 26) (c : Fin 9) (s : State) : Host.Outcome State Fault Refusal := s.runMain (pauseAbandon (macUnit m) c)

/-- The HOLD period after an abandon ends and the class may send pause again. (R420) -/
def execPauseAbandonHoldEnd (m : Fin 26) (c : Fin 9) (s : State) : Host.Outcome State Fault Refusal := s.runMain (abandonEnd (macUnit m) c)

/-- The pause watchdog reaching LIMIT ends the hold, sets HOLDOFF and raises MAC_PAUSE_STORM. (R421) -/
def execMacPauseStorm (m : Fin 26) (c : Fin 9) (s : State) : Host.Outcome State Fault Refusal := s.runMain (pauseStorm (macUnit m) c)

/-- HOLD ms after a watchdog trip the class's HOLDOFF clears and MAC_HOLDOFF_END is raised. (R422) -/
def execMacHoldoffEnd (m : Fin 26) (c : Fin 9) (s : State) : Host.Outcome State Fault Refusal := s.runMain (holdoffEnd (macUnit m) c)

/-- A change of MAC_PAUSE_CTRL.MODE releases holds, clears hold-offs and restarts watchdogs. (R417) -/
def execPauseModeWrite (m : Fin 26) (v : Word) (s : State) : Host.Outcome State Fault Refusal :=
  s.runMain (pauseModeWrite (macUnit m) v.toNat)

/-- A unit hands a frame to the MAC, which pads, checks length, queues by class and sends by priority. (R416) -/
def execMacFrameTransmit (m : Fin 26) (c : Fin 8) (frame : List Byte) (s : State) : Host.Outcome State Fault Refusal :=
  s.runMain (macTransmit (macUnit m) c frame)

/-- With EEE enabled, IDLE µs without a frame or pause to send puts the transmitter into LPI. (R423) -/
def execLpiEnter (m : Fin 26) (s : State) : Host.Outcome State Fault Refusal := s.runMain (lpiEnter (macUnit m))

/-- A frame or pause falling due during LPI wakes the transmitter, which then waits TX_TW. (R424) -/
def execLpiWake (m : Fin 26) (s : State) : Host.Outcome State Fault Refusal := s.runMain (lpiWake (macUnit m))

/-- TX_TW after leaving LPI the transmitter resumes sending. (R424) -/
def execLpiWakeTimeEnd (m : Fin 26) (s : State) : Host.Outcome State Fault Refusal := s.runMain (lpiWakeEnd (macUnit m))

/-- The port's link comes up and MAC_LINK_UP is raised. (R430) -/
def execMacLinkUp (m : Fin 26) (phy : Fin 16) (lanes : Fin 9) (s : State) : Host.Outcome State Fault Refusal :=
  s.runMain (portUp (macUnit m) phy lanes)

/-- Loss of link discards waiting frames, clears holds and watchdogs and raises MAC_LINK_DOWN. (R426) -/
def execMacLinkDown (m : Fin 26) (s : State) : Host.Outcome State Fault Refusal := s.runMain (portDown (macUnit m))

/-- With PHY AUTO, no partner within 500 ms switches between auto-negotiation and the C2M type. (R404) -/
def execAutonegTimeout (m : Fin 26) (s : State) : Host.Outcome State Fault Refusal := s.runMain (autonegTimeout (macUnit m))

/-- A write of MAC_RXQ_CFG sets a queue's consumer and limit, ignored while the queue holds a frame. (R412) -/
def execRxqCfgWrite (m : Fin 26) (q : Fin 64) (v : Word) (s : State) : Host.Outcome State Fault Refusal :=
  s.runMain (rxqCfgWrite (macUnit m) q v.toNat)

/-- The link partner starts or stops signalling LPI, which sets or clears MAC_STATE.RX_LPI and counts in MAC_RX_LPI. (R423) -/
def execRxLpiIndication (m : Fin 26) (on : Bool) (s : State) : Host.Outcome State Fault Refusal := s.runMain (rxLpi (macUnit m) on)

end Sys2Proof.Machine
end

