-- ==== Sys2Proof/Machine/PowerCmds.lean ====
section
/-! DEFINITION. The commands of the tally die, the power manager and the module (chapters 16 and 17): one meaning per command. -/

namespace Sys2Proof.Machine

/-- A feed under-voltage, over-voltage or reverse current isolates the feed within 20 µs. (R552) -/
def execTlyFeedLost (feed : Fin 2) (cause : Fin 4) (tenths : Nat) (s : State) : Host.Outcome State Fault Refusal :=
  s.run (feedLost feed cause tenths)

/-- The supercapacitor's hold-up ends, the tally die loses power and the ring bypass closes. (R554) -/
def execHoldupEnd (s : State) : Host.Outcome State Fault Refusal := s.run holdupEnd

/-- An isolated feed within range for 100 ms reconnects. (R553) -/
def execTlyFeedBack (feed : Fin 2) (tenths : Nat) (s : State) : Host.Outcome State Fault Refusal := s.run (feedBack feed tenths)

/-- A main-domain rail below 92 % for 1 µs resets the main die, removes every rail and enters D3. (R555) -/
def execTlyRailUv (rail : Fin 16) (s : State) : Host.Outcome State Fault Refusal := s.run (railUv rail)

/-- Every 100 µs the power manager lowers or raises the core voltage by 4 mV against the cap and temperature. (R559) -/
def execCapLoopCheck (avg : Nat) (railLimit : Bool) (s : State) : Host.Outcome State Fault Refusal := s.runMain (capCheck avg railLimit)

/-- Power still over the cap after 10 ms at 0.600 V lowers the gleaner cap term every 10 ms and raises PWR_CAP_UNMET. (R561) -/
def execPwrCapUnmet (avg : Nat) (s : State) : Host.Outcome State Fault Refusal := s.runMain (capUnmet avg)

/-- A write of PWR_CAP sets the cap, hysteresis and ceiling, or is rejected with CAP_REJECT. (R558) -/
def execPwrCapWrite (v : Word) (s : State) : Host.Outcome State Fault Refusal := s.runMain (capWriteCmd v.toNat)

/-- Every 250 µs the tally die samples every junction and stack sensor and updates TLYCAP. (R563) -/
def execThermalSample (junctions : List Nat) (bases : List Nat) (s : State) : Host.Outcome State Fault Refusal :=
  s.run (thermalSample junctions bases)

/-- TLY_POWER_CMD.ON in D3 raises the main rails, releases reset and starts the boot ROM. (R571) -/
def execOn (s : State) : Host.Outcome State Fault Refusal := s.run powerOnCmd

/-- TLY_POWER_CMD.OFF removes the main rails within 10 ms and enters D3. (R571) -/
def execOff (s : State) : Host.Outcome State Fault Refusal := s.run powerOffCmd

/-- TLY_POWER_CMD.TRESET in D3 restarts the tally die's logic, keeping its store. (R571) -/
def execTreset (s : State) : Host.Outcome State Fault Refusal := s.run tallyResetCmd

/-- The supercapacitor reaches charge and HOLDUP_OK changes. (R570) -/
def execHoldupCharged (s : State) : Host.Outcome State Fault Refusal := s.run holdupCharged

/-- The tally die powers up, starts tally time at 0, counts POWERON and opens the bypass. (R572) -/
def execTallyPowerUp (va : Nat) (vb : Nat) (s : State) : Host.Outcome State Fault Refusal := s.runAll (tallyPowerUp va vb)

/-- A write of TLY_RING.BYPASS closes the bypass, or opens it only from a front-end session. (R575) -/
def execTlyRingWrite (v : Word) (fromFe : Bool) (s : State) : Host.Outcome State Fault Refusal := s.run (tlyRingWrite v.toNat fromFe)

/-- A frame on TRA or TRB is taken in when addressed to the tally die and forwarded out the other port otherwise. (R574) -/
def execTallyRingFrame (port : Fin 2) (frame : List Byte) (s : State) : Host.Outcome State Fault Refusal := s.run (ringFrameCmd port frame)

/-- The tally die writes a queued black-box record in RSEQ order, erasing ahead of the ring. (R578) -/
def execBbRecordWrite (s : State) : Host.Outcome State Fault Refusal := s.runAll bbWrite

/-- The black-box pacing bucket refills at 1,000 records per second. (R579) -/
def execBbBucketRefill (s : State) : Host.Outcome State Fault Refusal := s.run bbRefill

/-- A write of TLY_BB_SEL selects a record for TLY_BB_DATA and TLY_BB_INFO. (R581) -/
def execTlyBbSelWrite (v : Word) (s : State) : Host.Outcome State Fault Refusal := s.run (bbSelect v.toNat)

/-- A reference input lost for 10 µs removes the rails for REFCLK0 or drops the Ethernet ports for REFCLK1. (R590) -/
def execTlyRefclkLost (clk : Fin 2) (s : State) : Host.Outcome State Fault Refusal := s.run (refclkLost clk)

/-- A returning REFCLK1 lets FE0, FE1 and Ethernet-mode links renegotiate. (R590) -/
def execRefclkReturn (clk : Fin 2) (s : State) : Host.Outcome State Fault Refusal := s.run (refclkReturn clk)

/-- Inserting the module with live feeds powers the tally die and leaves the module in D3. (R598) -/
def execModuleInsert (va : Nat) (vb : Nat) (s : State) : Host.Outcome State Fault Refusal := s.runAll (moduleInsert va vb)

/-- A reeve lockstep or firmware failure puts the device in FAULT, and the chip stops sending heartbeats for every job slot. (R466) -/
def execReeveFault (s : State) : Host.Outcome State Fault Refusal := s.runMain reeveFault

/-- The 1000BASE-X link on TRA or TRB comes up or goes down, which changes TLY_RING.TRA_UP or TRB_UP. (R573) -/
def execTallyPortLinkChange (port : Fin 2) (up : Bool) (s : State) : Host.Outcome State Fault Refusal := s.run (tallyPortLink port up)

end Sys2Proof.Machine
end

