-- ==== Sys2Proof/Machine/QcpCmds.lean ====
section
/-! DEFINITION. The frames of the control protocol and the engine behind them (chapter 12): one meaning per command. -/

namespace Sys2Proof.Machine

/-- A QCP OPEN is answered with ACCEPT creating a session, or REFUSE, or discarded past the rate limit. (R435) -/
def execOpenSession (port : Fin 2) (q : Fin 64) (s : State) : Host.Outcome State Fault Refusal := s.runMain (openRx port q)

/-- A CLOSE from either side closes the session. (R436) -/
def execCloseSession (port : Fin 2) (q : Fin 64) (s : State) : Host.Outcome State Fault Refusal := s.runMain (closeRx port q)

/-- A session with no authentic host frame for IDLE seconds closes. (R436) -/
def execSessionIdleClose (id : Nat) (s : State) : Host.Outcome State Fault Refusal := s.run (idleClose id)

/-- A CMD_WRITE writes command entries into a queue ring and may let a held doorbell act. (R440) -/
def execCmdWrite (port : Fin 2) (q : Fin 64) (s : State) : Host.Outcome State Fault Refusal := s.runMain (cmdWrite port q)

/-- A DOORBELL acts by setting PROD and DSEQ once its commands have arrived, or is held, old or refused. (R441) -/
def execDoorbell (port : Fin 2) (q : Fin 64) (s : State) : Host.Outcome State Fault Refusal := s.runMain (doorbell port q)

/-- A doorbell held 10 ms reports DOORBELL_AHEAD with FIRST_MISSING and stays held. (R442) -/
def execDoorbellAheadTimeout (q : Fin 0x40000) (s : State) : Host.Outcome State Fault Refusal := s.runMain (bellTimeout q)

/-- A COMP_QUERY is answered with the kept completion of that index or NOT_PRESENT. (R446) -/
def execCompQuery (port : Fin 2) (q : Fin 64) (s : State) : Host.Outcome State Fault Refusal := s.runMain (compQuery port q)

/-- A DATA frame writes its bytes into an open window of the job's tensor pages. (R448) -/
def execData (port : Fin 2) (q : Fin 64) (s : State) : Host.Outcome State Fault Refusal := s.runMain (dataRx port q)

/-- A host PAGE_IN frame delivers a chunk of a requested page, installed once all eight arrive with the right GEN. (R449) -/
def execPageInChunk (port : Fin 2) (q : Fin 64) (s : State) : Host.Outcome State Fault Refusal := s.runMain (pageInChunk port q)

/-- A PAGE_ACK from the home session ends the copy step of an export. (R449) -/
def execPageAck (port : Fin 2) (q : Fin 64) (s : State) : Host.Outcome State Fault Refusal := s.runMain (pageAck port q)

/-- A SYNC is answered with the summary snapshot in SYNC_REPLY fragments. (R456) -/
def execSync (port : Fin 2) (q : Fin 64) (s : State) : Host.Outcome State Fault Refusal := s.runMain (syncRx port q)

/-- The reeve takes the next command entry of a queue and checks opcode, state and ownership before it runs. (R444) -/
def execCommandStart (q : Fin 0x40000) (s : State) : Host.Outcome State Fault Refusal := s.runMain (commandStart q)

/-- Once a command's writes are held and results handed to the MAC, its COMPLETION is sent on its flow. (R445) -/
def execCommandCompletion (q : Fin 0x40000) (idx : Nat) (s : State) : Host.Outcome State Fault Refusal :=
  s.runMain (commandCompletion q idx)

/-- The reeve forwards drained event records to each subscribing session as EVENT frames with ESEQ. (R450) -/
def execEventForward (u : Fin 8192) (s : State) : Host.Outcome State Fault Refusal := s.runMain (eventForward u)

end Sys2Proof.Machine
end

