-- ==== Sys2Proof/Machine/RecoveryCmds.lean ====
section
/-! DEFINITION. The messages and actions of recovery (chapter 13): one meaning per command. -/

namespace Sys2Proof.Machine

/-- Each reeve polls its recovery area at least every 100 µs and acts on each slot whose SEQ changed. (R470) -/
def execRecoveryAreaPoll (j : Fin 8) (s : State) : Host.Outcome State Fault Refusal := s.runMain (areaPoll j)

/-- A FAIL message names silent ranks to the lead, which declares them failed. (R472) -/
def execFail (j : Fin 8) (r : Fin 1024) (s : State) : Host.Outcome State Fault Refusal := s.runMain (recMessage 1 j r)

/-- A WITHDRAWN message makes the lead declare the sender failed. (R472) -/
def execWithdrawn (j : Fin 8) (r : Fin 1024) (s : State) : Host.Outcome State Fault Refusal := s.runMain (recMessage 2 j r)

/-- A FREEZE message with a higher epoch stops the job, flushes requests and marks failed ranks. (R474) -/
def execRecFreeze (j : Fin 8) (r : Fin 1024) (s : State) : Host.Outcome State Fault Refusal := s.runMain (recMessage 3 j r)

/-- FROZEN messages from every member let the lead choose the base step and send ADOPT or HALT. (R475) -/
def execFrozen (j : Fin 8) (r : Fin 1024) (s : State) : Host.Outcome State Fault Refusal := s.runMain (recMessage 4 j r)

/-- An ADOPT message makes the spare take the failed rank's identity and programs. (R476) -/
def execRecAdopt (j : Fin 8) (r : Fin 1024) (s : State) : Host.Outcome State Fault Refusal := s.runMain (recMessage 5 j r)

/-- An ADOPTED message makes each member reroute the adopted rank to the spare and starts its fill. (R476) -/
def execAdopted (j : Fin 8) (r : Fin 1024) (s : State) : Host.Outcome State Fault Refusal := s.runMain (recMessage 6 j r)

/-- The buddy sends the rank's mirrored state to the spare, which sends FILLED when every write has completed. (R477) -/
def execRankFill (j : Fin 8) (r : Fin 1024) (s : State) : Host.Outcome State Fault Refusal := s.runMain (fun b => engineEnd j (rankFill j r b))

/-- FILLED from every spare, with survivors at the base step, makes the lead send REPLAY. (R479) -/
def execFilled (j : Fin 8) (r : Fin 1024) (s : State) : Host.Outcome State Fault Refusal := s.runMain (recMessage 7 j r)

/-- A survivor undoes every swept step above the base step, newest first. (R478) -/
def execStepUndo (j : Fin 8) (s : State) : Host.Outcome State Fault Refusal := s.runMain (fun b => engineEnd j (stepUndo j b))

/-- A REPLAY message makes every member run step b + 1 as a replay. (R479) -/
def execRecReplay (j : Fin 8) (r : Fin 1024) (s : State) : Host.Outcome State Fault Refusal := s.runMain (recMessage 8 j r)

/-- REPLAYED messages with matches make the lead send RESUME, or on a mismatch HALT and localisation. (R481) -/
def execReplayed (j : Fin 8) (r : Fin 1024) (s : State) : Host.Outcome State Fault Refusal := s.runMain (recMessage 9 j r)

/-- A RESUME message continues the job at step b + 2 and counts a recovery. (R481) -/
def execResume (j : Fin 8) (r : Fin 1024) (s : State) : Host.Outcome State Fault Refusal := s.runMain (recMessage 10 j r)

/-- A HALT message leaves the job frozen with its reason. (R487) -/
def execHalt (j : Fin 8) (r : Fin 1024) (s : State) : Host.Outcome State Fault Refusal := s.runMain (recMessage 11 j r)

/-- A REPEAT message stops the job's units, clears the scale run fields and restarts the step. (R461) -/
def execRepeatMsg (j : Fin 8) (r : Fin 1024) (s : State) : Host.Outcome State Fault Refusal := s.runMain (recMessage 12 j r)

/-- The reeve withdraws the module from a job: WITHDRAWN, stop, unbind, delete keys, destroy. (R465) -/
def execModuleWithdraw (j : Fin 8) (s : State) : Host.Outcome State Fault Refusal := s.runMain (withdraw j)

/-- A failed read of a mirrored array rebuilds its block from the buddy's mirror and the held records. (R463) -/
def execBlockRestore (j : Fin 8) (a : Nat) (mirror : Option (Nat × List Byte)) (s : State) : Host.Outcome State Fault Refusal :=
  s.runMain (blockRestore j a mirror)

/-- Without a spare, the job returns to the base step and re-shards by the shrink plan. (R486) -/
def execShrink (j : Fin 8) (s : State) : Host.Outcome State Fault Refusal := s.runMain (fun b => engineEnd j (shrink j b))

/-- Localisation runs known-answer tests on every tile and gleaner and takes differing units OFFLINE. (R489) -/
def execLocalisation (failed : List Nat) (noneElsewhere : Bool) (s : State) : Host.Outcome State Fault Refusal :=
  s.runMain (localise failed noneElsewhere)

/-- A working member that has found more than half of the working members silent for 20 ms withdraws from the job. (R472) -/
def execMajoritySilenceWithdraw (j : Fin 8) (s : State) : Host.Outcome State Fault Refusal := s.runMain (majoritySilence j)

end Sys2Proof.Machine
end

