-- ==== Sys2Proof/Machine/ReeveCmds.lean ====
section
/-! DEFINITION. The commands the reeve runs for its queues (Table 12.8): one meaning per command. -/

namespace Sys2Proof.Machine

/-- Command IDENTIFY returns the 256-byte summary header. (R455) -/
def execIdentify (q : Fin 0x40000) (s : State) : Host.Outcome State Fault Refusal := s.runMain (cmdIdentify q)

/-- Command ATTEST returns the signed attestation report. (R530) -/
def execAttest (q : Fin 0x40000) (s : State) : Host.Outcome State Fault Refusal := s.runMain (cmdAttest q)

/-- Command ENROL_KEY writes or empties an operator key slot, counted against the limit. (R524) -/
def execEnrolKey (q : Fin 0x40000) (s : State) : Host.Outcome State Fault Refusal := s.runAll (whenMain (cmdEnrolKey q))

/-- Command CONFIG read-modify-writes one register of a MAC_, JXL_, PWR_ or QCP_ unit. (R455) -/
def execConfig (q : Fin 0x40000) (s : State) : Host.Outcome State Fault Refusal := s.runAll (whenMain (cmdConfig q))

/-- Command COUNTERS returns the reeve's 64-bit totals of a unit's counters. (R455) -/
def execCounters (q : Fin 0x40000) (s : State) : Host.Outcome State Fault Refusal := s.runMain (cmdCounters q)

/-- Command EVENTS sets the session's event subscription. (R450) -/
def execEvents (q : Fin 0x40000) (s : State) : Host.Outcome State Fault Refusal := s.runMain (cmdEvents q)

/-- Command DEBUG enables JTAG debug or trace and sets the debug flags. (R547) -/
def execDebug (q : Fin 0x40000) (s : State) : Host.Outcome State Fault Refusal := s.runMain (cmdDebug q)

/-- Command POWER moves the module to D1, D2 or D3. (R567) -/
def execPower (q : Fin 0x40000) (s : State) : Host.Outcome State Fault Refusal := s.runMain (cmdPower q)

/-- Command RESET_UNIT resets a core, tile or field, or completes BUSY during a training step. (R514) -/
def execResetUnit (q : Fin 0x40000) (s : State) : Host.Outcome State Fault Refusal := s.runMain (cmdResetUnit q)

/-- Command DRAIN moves the device to DRAINING and completes when READY is reached. (R452) -/
def execDrainCommand (q : Fin 0x40000) (s : State) : Host.Outcome State Fault Refusal := s.runMain (cmdDrain q)

/-- Command RELEASE scrubs the granary and returns a QUARANTINED device to READY. (R453) -/
def execRelease (q : Fin 0x40000) (s : State) : Host.Outcome State Fault Refusal := s.runMain (cmdRelease q)

/-- Command QUARANTINE removes every job and its keys and enters QUARANTINED. (R453) -/
def execQuarantine (q : Fin 0x40000) (s : State) : Host.Outcome State Fault Refusal := s.runMain (cmdQuarantine q)

/-- Command JOB_CREATE creates a job in a slot from its register image, or NO_RESOURCE past the limits. (R303) -/
def execJobCreate (q : Fin 0x40000) (s : State) : Host.Outcome State Fault Refusal := s.runMain (cmdJobCreate q)

/-- Command JOB_DESTROY stops the job, resets its tiles, clears its shares and keys and scrubs its frames. (R543) -/
def execJobDestroy (q : Fin 0x40000) (s : State) : Host.Outcome State Fault Refusal := s.runMain (cmdJobDestroy q)

/-- Command WINDOW_OPEN grants the session a window over the job's tensor pages. (R448) -/
def execWindowOpen (q : Fin 0x40000) (s : State) : Host.Outcome State Fault Refusal := s.runMain (cmdWindowOpen q)

/-- Command WINDOW_CLOSE closes a window so later DATA frames to it fail. (R455) -/
def execWindowClose (q : Fin 0x40000) (s : State) : Host.Outcome State Fault Refusal := s.runMain (cmdWindowClose q)

/-- Command COMMIT digests a range and records its tensor record. (R532) -/
def execCommit (q : Fin 0x40000) (s : State) : Host.Outcome State Fault Refusal := s.runMain (cmdCommit q)

/-- Command FETCH sends a range of device memory as RESULT frames, then the completion. (R445) -/
def execFetch (q : Fin 0x40000) (s : State) : Host.Outcome State Fault Refusal := s.runMain (cmdFetch q)

/-- Command LOAD_PROGRAM protects a program range or loads a gleaner region and records its digest. (R531) -/
def execLoadProgram (q : Fin 0x40000) (lost : List (Nat × Nat)) (s : State) : Host.Outcome State Fault Refusal :=
  s.runMain (cmdLoadProgram q lost)

/-- Command QUEUE_CREATE writes a queue descriptor. (R455) -/
def execQueueCreate (q : Fin 0x40000) (s : State) : Host.Outcome State Fault Refusal := s.runMain (cmdQueueCreate q)

/-- Command QUEUE_DESTROY cancels held doorbells and frees the queue's pages. (R442) -/
def execQueueDestroy (q : Fin 0x40000) (s : State) : Host.Outcome State Fault Refusal := s.runMain (cmdQueueDestroy q)

/-- Command PAGE_EVICT evicts a named context page as Table 8.6 states. (R300) -/
def execPageEvict (q : Fin 0x40000) (peer : Option Nat) (s : State) : Host.Outcome State Fault Refusal := s.runMain (cmdPageEvict q peer)

/-- Command JOB_ADMIT checks the member list and runs the KEYX exchange with every member. (R539) -/
def execJobAdmit (q : Fin 0x40000) (s : State) : Host.Outcome State Fault Refusal := s.runMain (cmdJobAdmit q)

/-- A pair not finished within 2 s makes JOB_ADMIT complete with OP_FAILED. (R539) -/
def execJobAdmitTimeout (j : Fin 8) (s : State) : Host.Outcome State Fault Refusal := s.runMain (admitTimeout j)

/-- Command JOB_START starts serving scheduling or readies a training job, NO_RESOURCE without a spare. (R473) -/
def execJobStart (q : Fin 0x40000) (s : State) : Host.Outcome State Fault Refusal := s.runMain (cmdJobStart q)

/-- Command STEP runs a count of training steps and completes when the last is done. (R455) -/
def execStep (q : Fin 0x40000) (s : State) : Host.Outcome State Fault Refusal := s.runMain (cmdStep q)

/-- Command SCALE_SET changes a scale-table entry with effect from a named step. (R131) -/
def execScaleSet (q : Fin 0x40000) (s : State) : Host.Outcome State Fault Refusal := s.runMain (cmdScaleSet q)

/-- Command JOB_STOP stops scheduling or steps at a step boundary. (R455) -/
def execJobStop (q : Fin 0x40000) (s : State) : Host.Outcome State Fault Refusal := s.runMain (cmdJobStop q)

/-- Command FREEZE makes the lead declare an empty failed set and halt with reason 2. (R483) -/
def execFreeze (q : Fin 0x40000) (s : State) : Host.Outcome State Fault Refusal := s.runMain (cmdFreeze q)

/-- Command REPLAY returns members to the base step and replays the next step. (R483) -/
def execReplay (q : Fin 0x40000) (s : State) : Host.Outcome State Fault Refusal := s.runMain (cmdReplay q)

/-- Command SPARE_ASSIGN gives the module the spare role of a job. (R455) -/
def execSpareAssign (q : Fin 0x40000) (s : State) : Host.Outcome State Fault Refusal := s.runMain (cmdSpareAssign q)

/-- Command ADOPT makes a spare take a rank and be filled. (R483) -/
def execAdopt (q : Fin 0x40000) (s : State) : Host.Outcome State Fault Refusal := s.runMain (cmdAdopt q)

/-- Command RESHARD permutes the arrays under new state tables and rebuilds every mirror. (R346) -/
def execReshard (q : Fin 0x40000) (s : State) : Host.Outcome State Fault Refusal := s.runMain (cmdReshard q)

/-- Command SNAPSHOT sends every MASTER array after the named step completes. (R455) -/
def execSnapshot (q : Fin 0x40000) (s : State) : Host.Outcome State Fault Refusal := s.runMain (cmdSnapshot q)

/-- Command CHECKPOINT exports a rank's mirror at the next stride step as RESULT frames. (R490) -/
def execCheckpoint (q : Fin 0x40000) (s : State) : Host.Outcome State Fault Refusal := s.runMain (cmdCheckpoint q)

end Sys2Proof.Machine
end

