-- ==== Sys2Proof/Machine/SecurityCmds.lean ====
section
/-! DEFINITION. The commands of the security unit (chapter 15): one meaning per command. -/

namespace Sys2Proof.Machine

/-- A write of SEC_FLOOR_RAISE raises the anti-rollback floor or is refused. (R542) -/
def execSecFloorRaise (v : Word) (s : State) : Host.Outcome State Fault Refusal := s.runAll (whenMain (floorRaise v.toNat))

/-- Every 10 ms each side resends its KEYX of the round until it holds the peer's and has seen GOT. (R538) -/
def execKeyxResend (j : Fin 8) (r : Fin 1024) (s : State) : Host.Outcome State Fault Refusal := s.runMain (keyxResend j r)

/-- The entropy source failing its health test refuses every new session and key exchange until reset. (R529) -/
def execSecRngFail (s : State) : Host.Outcome State Fault Refusal := s.runMain rngFail

/-- A JTAG instruction other than IDCODE or BYPASS sets the debug flags and raises SEC_DEBUG_ATTACHED. (R546) -/
def execJtagInstruction (s : State) : Host.Outcome State Fault Refusal := s.runMain jtagInstr

end Sys2Proof.Machine
end

