-- ==== Sys2Proof/Machine/ThresherCmds.lean ====
section
/-! DEFINITION. The commands of the thresher (chapter 03): one meaning per command. -/

namespace Sys2Proof.Machine

/-- A thresher MMA descriptor runs MCOUNT fills against a stationary slot into accumulator tiles. (R86) -/
def execMma (t : Fin 64) (w : Fin 1024) (hits : List Strike) (s : State) : Host.Outcome State Fault Refusal :=
  s.runMain (fun b => onStarted t w 1 0 (runMma t) (strike hits b))

/-- A thresher LOADB descriptor loads a block of B from the loft into a stationary slot along its axis. (R82) -/
def execLoadb (t : Fin 64) (w : Fin 1024) (hits : List Strike) (s : State) : Host.Outcome State Fault Refusal :=
  s.runMain (fun b => onStarted t w 1 1 (runLoadb t) (strike hits b))

/-- A thresher DRAIN descriptor writes accumulator tiles to the loft in FP32 under its mask. (R98) -/
def execDrain (t : Fin 64) (w : Fin 1024) (hits : List Strike) (s : State) : Host.Outcome State Fault Refusal :=
  s.runMain (fun b => onStarted t w 1 2 (runDrain t) (strike hits b))

/-- A thresher ZERO descriptor clears accumulator tiles to +0 one per step after earlier fills to them are written. (R95) -/
def execZero (t : Fin 64) (w : Fin 1024) (hits : List Strike) (s : State) : Host.Outcome State Fault Refusal :=
  s.runMain (fun b => onStarted t w 1 3 (runZero t) (strike hits b))

/-- The thresher starts one fill of 1,024 dot products once its operands, slot and accumulator input are ready. (R78) -/
def execFill (t : Fin 64) (obs : FillObs) (starved : Bool) (hits : List Strike) (s : State) : Host.Outcome State Fault Refusal :=
  s.runMain (fun b => startFill t obs starved (strike hits b))

/-- A fill's results are written to its accumulator tile within 20 steps of its start. (R95) -/
def execFillResultWrite (t : Fin 64) (s : State) : Host.Outcome State Fault Refusal := s.runMain (fillResult t)

/-- A write of THR_CTRL sets the event enables and residue limit and re-evaluates the residue-limit condition. (R103) -/
def execThrCtrlWrite (t : Fin 64) (v : Word) (s : State) : Host.Outcome State Fault Refusal := s.runMain (thrCtrlWrite t v.toNat)

end Sys2Proof.Machine
end

