-- ==== Sys2Proof/Machine/TileCmds.lean ====
section
/-! DEFINITION. The commands of the tile sequencer (chapter 05): one meaning per command. -/

namespace Sys2Proof.Machine

/-- A write of TIL_CTRL.START in IDLE with a bound tile starts the descriptor stream from TIL_PROG. (R141) -/
def execTilStart (t : Fin 64) (s : State) : Host.Outcome State Fault Refusal := s.runMain (tilCtrlWrite t 1)

/-- A write of TIL_CTRL.STOP moves a RUNNING stream to STOPPING and cancels every operation not yet started. (R145) -/
def execTilStop (t : Fin 64) (s : State) : Host.Outcome State Fault Refusal := s.runMain (tilCtrlWrite t 2)

/-- A write of TIL_CTRL.CLEAR returns an ENDED stream, or a drained FAULTED stream, to IDLE. (R145) -/
def execTilClear (t : Fin 64) (s : State) : Host.Outcome State Fault Refusal := s.runMain (tilCtrlWrite t 4)

/-- A write of TIL_CTRL.TCLEAR in IDLE sets every token count to 0. (R153) -/
def execTclear (t : Fin 64) (s : State) : Host.Outcome State Fault Refusal := s.runMain (tilCtrlWrite t 8)

/-- A write of TIL_IDENT in IDLE binds the tile to a job slot and identity and sets every token count to 0. (R153) -/
def execTilIdentWrite (t : Fin 64) (v : Word) (s : State) : Host.Outcome State Fault Refusal := s.runMain (tilIdentWrite t v.toNat)

/-- The sequencer issues the next descriptor into its window slot once that slot is free, at most one per step. (R149) -/
def execDescriptorIssue (t : Fin 64) (hits : List Strike) (s : State) : Host.Outcome State Fault Refusal :=
  s.runMain (fun b => opIssue t (strike hits b))

/-- An operation starts when it heads its unit queue, its token wait is satisfied, ORDERED allows and the unit accepts it. (R150) -/
def execOperationStart (t : Fin 64) (uq : Fin 6) (s : State) : Host.Outcome State Fault Refusal := s.runMain (opStart t uq)

/-- An operation completes once its writes are held and reads done, releases slots in order and signals its token or TIL_OP_DONE. (R152) -/
def execOperationComplete (t : Fin 64) (uq : Fin 6) (s : State) : Host.Outcome State Fault Refusal := s.runMain (opComplete t uq)

/-- When a faulted stream's INFLIGHT reaches 0 the tile raises TIL_OP_FAULT with TIL_FAULT. (R161) -/
def execTilOpFault (t : Fin 64) (s : State) : Host.Outcome State Fault Refusal := s.runMain (opFaultCmd t)

/-- A STOPPING stream whose INFLIGHT reaches 0 returns to IDLE. (R145) -/
def execStreamStopDrained (t : Fin 64) (s : State) : Host.Outcome State Fault Refusal := s.runMain (stopDrained t)

/-- A sequencer lockstep disagreement faults the stream, sets the tile FAILED and starts no further operation. (R146) -/
def execTilLockstep (t : Fin 64) (s : State) : Host.Outcome State Fault Refusal := s.runMain (tileLockstepCmd t)

/-- A remote token signal arrives over the spine and raises the named token on the receiving tile. (R155) -/
def execRemoteSignalArrive (n : Nat) (s : State) : Host.Outcome State Fault Refusal := s.runMain (signalArrive n)

/-- A control NOP completes when it starts; the QCP NOP command shares this name in Table 12.8. (R144) -/
def execNop (site : NopSite) (s : State) : Host.Outcome State Fault Refusal := s.runMain (nopCmd site)

/-- An END starts after every earlier operation completes, makes its DONE_ADDR add and ends the stream with TIL_STREAM_END. (R162) -/
def execEndOp (t : Fin 64) (seen : EndSeen) (s : State) : Host.Outcome State Fault Refusal :=
  s.runMain (fun b => controlCmd t 1 seen.peers (strike seen.hits b))

/-- A LOOP repeats its body COUNT times with patched words, or faults the stream under R165. (R164) -/
def execLoop (t : Fin 64) (s : State) : Host.Outcome State Fault Refusal := s.runMain (loopCmd t)

/-- A FENCE starts after every earlier operation completes and holds back issue until it completes. (R159) -/
def execFence (t : Fin 64) (s : State) : Host.Outcome State Fault Refusal := s.runMain (controlCmd t 3 [])

/-- A control SIGNAL completes when it starts, serving only to wait, signal or both. (R154) -/
def execSignal (t : Fin 64) (s : State) : Host.Outcome State Fault Refusal := s.runMain (controlCmd t 4 [])

end Sys2Proof.Machine
end

