-- ==== Sys2Proof/Machine/TrainCmds.lean ====
section
/-! DEFINITION. The commands of the training-state engine (chapters 04 and 09): one meaning per command. -/

namespace Sys2Proof.Machine

/-- A write of TRN_SCL_CTRL sets size and epoch and, by setting ENABLE, starts a serving job's epoch count. (R130) -/
def execTrnSclCtrlWrite (j : Fin 8) (v : Word) (s : State) : Host.Outcome State Fault Refusal := s.runMain (sclCtrlWrite j v.toNat)

/-- At a step start the engine chooses the split and the reeve starts each tile with the matching program, or the step fails with TRN_STASH_FAIL. (R348) -/
def execStepStart (j : Fin 8) (s : State) : Host.Outcome State Fault Refusal := s.runMain (fun b => engineEnd j (stepStartCmd j b))

/-- After the job-wide barrier the gradients are reduced in fixed rank order into every GRAD shard. (R323) -/
def execGradientReduce (j : Fin 8) (contribs : List (Nat × List (List Byte))) (outgoing : List Byte) (s : State) : Host.Outcome State Fault Refusal :=
  s.runMain (fun b => engineEnd j (gradientReduce j contribs outgoing b))

/-- A gleaner pass adds each tied set's contributions into the target GRAD in index order. (R327) -/
def execTiedPass (j : Fin 8) (s : State) : Host.Outcome State Fault Refusal := s.runMain (fun b => engineEnd j (tiedPass j b))

/-- The engine launches the update sweep once rows 1 to 3 of step n and step n − 1's completion are done. (R328) -/
def execSweepLaunch (j : Fin 8) (s : State) : Host.Outcome State Fault Refusal := s.runMain (fun b => engineEnd j (sweepLaunch j b))

/-- As swept blocks finish the engine combines CRCs and streams XOR records to the buddy. (R341) -/
def execSheafEmit (j : Fin 8) (s : State) : Host.Outcome State Fault Refusal := s.runMain (fun b => engineEnd j (sheafEmit j b))

/-- Replica groups all-gather roots and norms, decide differing blocks and take the gradient capacity minimum. (R336) -/
def execReplicaCheck (j : Fin 8) (others : List Replica) (mine : List Nat) (copies : List Copy) (capacity : List Nat) (images : List (List (List Byte) × List (List Byte) × List (List Byte))) (s : State) : Host.Outcome State Fault Refusal :=
  s.runMain (replicaCheckCmd j others mine copies capacity images)

/-- The engine closes the step: scale-table close, step-log record, SCALE and LOG records and END. (R125) -/
def execStepClose (j : Fin 8) (scope : List (Nat × RunFields)) (s : State) : Host.Outcome State Fault Refusal :=
  s.runMain (stepCloseCmd j scope)

/-- Every EPOCH milliseconds a serving job's scale table is closed over the conversions since the last close. (R130) -/
def execServingEpochClose (j : Fin 8) (scope : List (Nat × RunFields)) (s : State) : Host.Outcome State Fault Refusal :=
  s.runMain (servingClose j scope)

/-- The buddy, holding END and every counted record, applies them to the mirror, checks NEWCRC and acknowledges. (R342) -/
def execMirrorApply (j : Fin 8) (recs : List SheafRec) (s : State) : Host.Outcome State Fault Refusal := s.runMain (mirrorApplyCmd j recs)

/-- The buddy's acknowledgement completes the step, sets TRN_JOB_DONE and frees its outgoing records. (R321) -/
def execTrnStepDone (j : Fin 8) (n : Nat) (s : State) : Host.Outcome State Fault Refusal := s.runMain (stepDoneCmd j n)

/-- The source sends BASE records of every mirrored block and the mirror is BUILDING until all are acknowledged, or those of the blocks the buddy asked for. (R343, R345) -/
def execMirrorBuild (j : Fin 8) (buddy : BuddyAnswer) (s : State) : Host.Outcome State Fault Refusal :=
  s.runMain (fun b => engineEnd j (mirrorBuild j buddy.acked buddy.asked b))

/-- A faulted or aborted sweep run makes the engine apply the staged segments to restore pre-sweep values. (R333) -/
def execTrnSweepUndone (j : Fin 8) (s : State) : Host.Outcome State Fault Refusal := s.runMain (fun b => engineEnd j (sweepUndone j b))

/-- When the restore completes PHASE leaves UNDO and the step awaits replay. (R333) -/
def execSweepUndoDone (j : Fin 8) (s : State) : Host.Outcome State Fault Refusal := s.runMain (sweepUndoDone j)

end Sys2Proof.Machine
end

