-- ==== Sys2Proof/Machine/VectorCmds.lean ====
section
/-! DEFINITION. The commands of the vector unit (chapters 04 and 05): one meaning per command. -/

namespace Sys2Proof.Machine

/-- Vector ADD writes a + b, correctly rounded. (R167) -/
def execVecAdd (t : Fin 64) (w : Fin 1024) (upset : Option Nat) (hits : List Strike) (s : State) : Host.Outcome State Fault Refusal :=
  s.runMain (vectorCmd 0x01 t w upset hits)

/-- Vector SUB writes a − b, correctly rounded. (R167) -/
def execVecSub (t : Fin 64) (w : Fin 1024) (upset : Option Nat) (hits : List Strike) (s : State) : Host.Outcome State Fault Refusal :=
  s.runMain (vectorCmd 0x02 t w upset hits)

/-- Vector MUL writes a × b, correctly rounded. (R167) -/
def execVecMul (t : Fin 64) (w : Fin 1024) (upset : Option Nat) (hits : List Strike) (s : State) : Host.Outcome State Fault Refusal :=
  s.runMain (vectorCmd 0x03 t w upset hits)

/-- Vector FMA writes a × b + d with one rounding. (R167) -/
def execVecFma (t : Fin 64) (w : Fin 1024) (upset : Option Nat) (hits : List Strike) (s : State) : Host.Outcome State Fault Refusal :=
  s.runMain (vectorCmd 0x04 t w upset hits)

/-- Vector MAX writes the larger of a and b. (R167) -/
def execVecMax (t : Fin 64) (w : Fin 1024) (upset : Option Nat) (hits : List Strike) (s : State) : Host.Outcome State Fault Refusal :=
  s.runMain (vectorCmd 0x05 t w upset hits)

/-- Vector MIN writes the smaller of a and b. (R167) -/
def execVecMin (t : Fin 64) (w : Fin 1024) (upset : Option Nat) (hits : List Strike) (s : State) : Host.Outcome State Fault Refusal :=
  s.runMain (vectorCmd 0x06 t w upset hits)

/-- Vector ABS writes |a|. (R167) -/
def execVecAbs (t : Fin 64) (w : Fin 1024) (upset : Option Nat) (hits : List Strike) (s : State) : Host.Outcome State Fault Refusal :=
  s.runMain (vectorCmd 0x07 t w upset hits)

/-- Vector NEG writes −a. (R167) -/
def execVecNeg (t : Fin 64) (w : Fin 1024) (upset : Option Nat) (hits : List Strike) (s : State) : Host.Outcome State Fault Refusal :=
  s.runMain (vectorCmd 0x08 t w upset hits)

/-- Vector CMPGT writes 1.0 where a > b and +0 otherwise. (R167) -/
def execVecCmpgt (t : Fin 64) (w : Fin 1024) (upset : Option Nat) (hits : List Strike) (s : State) : Host.Outcome State Fault Refusal :=
  s.runMain (vectorCmd 0x09 t w upset hits)

/-- Vector CMPEQ writes 1.0 where a = b and +0 otherwise. (R167) -/
def execVecCmpeq (t : Fin 64) (w : Fin 1024) (upset : Option Nat) (hits : List Strike) (s : State) : Host.Outcome State Fault Refusal :=
  s.runMain (vectorCmd 0x0A t w upset hits)

/-- Vector MOVE copies a. (R167) -/
def execVecMove (t : Fin 64) (w : Fin 1024) (upset : Option Nat) (hits : List Strike) (s : State) : Host.Outcome State Fault Refusal :=
  s.runMain (vectorCmd 0x0B t w upset hits)

/-- Vector RESCALE multiplies a by the power of two given by EADJ and the fold exponents in force. (R135) -/
def execVecRescale (t : Fin 64) (w : Fin 1024) (upset : Option Nat) (hits : List Strike) (s : State) : Host.Outcome State Fault Refusal :=
  s.runMain (vectorCmd 0x0C t w upset hits)

/-- Vector EXP writes the correctly rounded exponential of a. (R168) -/
def execVecExp (t : Fin 64) (w : Fin 1024) (upset : Option Nat) (hits : List Strike) (s : State) : Host.Outcome State Fault Refusal :=
  s.runMain (vectorCmd 0x10 t w upset hits)

/-- Vector EXP2 writes the correctly rounded 2 to the power a. (R168) -/
def execVecExp2 (t : Fin 64) (w : Fin 1024) (upset : Option Nat) (hits : List Strike) (s : State) : Host.Outcome State Fault Refusal :=
  s.runMain (vectorCmd 0x11 t w upset hits)

/-- Vector LOG writes the correctly rounded natural logarithm of a. (R168) -/
def execVecLog (t : Fin 64) (w : Fin 1024) (upset : Option Nat) (hits : List Strike) (s : State) : Host.Outcome State Fault Refusal :=
  s.runMain (vectorCmd 0x12 t w upset hits)

/-- Vector LOG2 writes the correctly rounded base-2 logarithm of a. (R168) -/
def execVecLog2 (t : Fin 64) (w : Fin 1024) (upset : Option Nat) (hits : List Strike) (s : State) : Host.Outcome State Fault Refusal :=
  s.runMain (vectorCmd 0x13 t w upset hits)

/-- Vector RECIP writes the correctly rounded reciprocal of a. (R168) -/
def execVecRecip (t : Fin 64) (w : Fin 1024) (upset : Option Nat) (hits : List Strike) (s : State) : Host.Outcome State Fault Refusal :=
  s.runMain (vectorCmd 0x14 t w upset hits)

/-- Vector RSQRT writes the correctly rounded reciprocal square root of a. (R168) -/
def execVecRsqrt (t : Fin 64) (w : Fin 1024) (upset : Option Nat) (hits : List Strike) (s : State) : Host.Outcome State Fault Refusal :=
  s.runMain (vectorCmd 0x15 t w upset hits)

/-- Vector SQRT writes the correctly rounded square root of a. (R168) -/
def execVecSqrt (t : Fin 64) (w : Fin 1024) (upset : Option Nat) (hits : List Strike) (s : State) : Host.Outcome State Fault Refusal :=
  s.runMain (vectorCmd 0x16 t w upset hits)

/-- Vector TANH writes the correctly rounded hyperbolic tangent of a. (R168) -/
def execVecTanh (t : Fin 64) (w : Fin 1024) (upset : Option Nat) (hits : List Strike) (s : State) : Host.Outcome State Fault Refusal :=
  s.runMain (vectorCmd 0x17 t w upset hits)

/-- Vector SIGMOID writes the correctly rounded logistic function of a. (R168) -/
def execVecSigmoid (t : Fin 64) (w : Fin 1024) (upset : Option Nat) (hits : List Strike) (s : State) : Host.Outcome State Fault Refusal :=
  s.runMain (vectorCmd 0x18 t w upset hits)

/-- Vector ERF writes the correctly rounded error function of a. (R168) -/
def execVecErf (t : Fin 64) (w : Fin 1024) (upset : Option Nat) (hits : List Strike) (s : State) : Host.Outcome State Fault Refusal :=
  s.runMain (vectorCmd 0x19 t w upset hits)

/-- Vector SIN writes the correctly rounded sine of a. (R168) -/
def execVecSin (t : Fin 64) (w : Fin 1024) (upset : Option Nat) (hits : List Strike) (s : State) : Host.Outcome State Fault Refusal :=
  s.runMain (vectorCmd 0x1A t w upset hits)

/-- Vector COS writes the correctly rounded cosine of a. (R168) -/
def execVecCos (t : Fin 64) (w : Fin 1024) (upset : Option Nat) (hits : List Strike) (s : State) : Host.Outcome State Fault Refusal :=
  s.runMain (vectorCmd 0x1B t w upset hits)

/-- Vector DIV writes the correctly rounded a / b. (R168) -/
def execVecDiv (t : Fin 64) (w : Fin 1024) (upset : Option Nat) (hits : List Strike) (s : State) : Host.Outcome State Fault Refusal :=
  s.runMain (vectorCmd 0x1C t w upset hits)

/-- Vector RSUM reduces each row to its sum in the fixed lane-and-tree order. (R170) -/
def execVecRsum (t : Fin 64) (w : Fin 1024) (upset : Option Nat) (hits : List Strike) (s : State) : Host.Outcome State Fault Refusal :=
  s.runMain (vectorCmd 0x20 t w upset hits)

/-- Vector RSUMSQ reduces each row to its sum of squares in the fixed order. (R170) -/
def execVecRsumsq (t : Fin 64) (w : Fin 1024) (upset : Option Nat) (hits : List Strike) (s : State) : Host.Outcome State Fault Refusal :=
  s.runMain (vectorCmd 0x21 t w upset hits)

/-- Vector RMAX writes the largest element of each row. (R167) -/
def execVecRmax (t : Fin 64) (w : Fin 1024) (upset : Option Nat) (hits : List Strike) (s : State) : Host.Outcome State Fault Refusal :=
  s.runMain (vectorCmd 0x22 t w upset hits)

/-- Vector RMIN writes the smallest element of each row. (R167) -/
def execVecRmin (t : Fin 64) (w : Fin 1024) (upset : Option Nat) (hits : List Strike) (s : State) : Host.Outcome State Fault Refusal :=
  s.runMain (vectorCmd 0x23 t w upset hits)

/-- Vector RAMAX writes the largest magnitude in each row. (R167) -/
def execVecRamax (t : Fin 64) (w : Fin 1024) (upset : Option Nat) (hits : List Strike) (s : State) : Host.Outcome State Fault Refusal :=
  s.runMain (vectorCmd 0x24 t w upset hits)

/-- Vector CONV converts A to TYPE_D under its scale source and merges its maximum and chaff into entry SCIDX. (R171) -/
def execVecConv (t : Fin 64) (w : Fin 1024) (upset : Option Nat) (hits : List Strike) (s : State) : Host.Outcome State Fault Refusal :=
  s.runMain (vectorCmd 0x30 t w upset hits)

/-- Vector WINNOW finds the folded largest finite magnitude of A and writes it to a winnow register. (R173) -/
def execVecWinnow (t : Fin 64) (w : Fin 1024) (upset : Option Nat) (hits : List Strike) (s : State) : Host.Outcome State Fault Refusal :=
  s.runMain (vectorCmd 0x31 t w upset hits)

/-- Vector WIDEN widens narrow or half codes of A to FP32 by R72. (R172) -/
def execVecWiden (t : Fin 64) (w : Fin 1024) (upset : Option Nat) (hits : List Strike) (s : State) : Host.Outcome State Fault Refusal :=
  s.runMain (vectorCmd 0x32 t w upset hits)

end Sys2Proof.Machine
end

