-- ==== Sys2Proof/Machine/Dispatch.lean ====
section
/-! DEFINITION. The dispatch of every command to its meaning. -/

namespace Sys2Proof.Machine

def exec (i : Instr) (s : State) : Host.Outcome State Fault Refusal :=
  match i with
  | .registerWrite wr fromFe u o v => Sys2Proof.Machine.execRegisterWrite wr fromFe u o v s
  | .counterLowRead rdr u o => Sys2Proof.Machine.execCounterLowRead rdr u o s
  | .rcRegisterRead rdr u o => Sys2Proof.Machine.execRcRegisterRead rdr u o s
  | .sqRegisterWrite wr u o v => Sys2Proof.Machine.execSqRegisterWrite wr u o v s
  | .sysMemberHealth u => Sys2Proof.Machine.execSysMemberHealth u s
  | .mbxPost u sq => Sys2Proof.Machine.execMbxPost u sq s
  | .mbxReply u => Sys2Proof.Machine.execMbxReply u s
  | .sysHsStall u port since => Sys2Proof.Machine.execSysHsStall u port since s
  | .tallyUsTick => Sys2Proof.Machine.execTallyUsTick s
  | .mma t w hits => Sys2Proof.Machine.execMma t w hits s
  | .loadb t w hits => Sys2Proof.Machine.execLoadb t w hits s
  | .drain t w hits => Sys2Proof.Machine.execDrain t w hits s
  | .zero t w hits => Sys2Proof.Machine.execZero t w hits s
  | .fill t obs starved hits => Sys2Proof.Machine.execFill t obs starved hits s
  | .fillResultWrite t => Sys2Proof.Machine.execFillResultWrite t s
  | .thrCtrlWrite t v => Sys2Proof.Machine.execThrCtrlWrite t v s
  | .tilStart t => Sys2Proof.Machine.execTilStart t s
  | .tilStop t => Sys2Proof.Machine.execTilStop t s
  | .tilClear t => Sys2Proof.Machine.execTilClear t s
  | .tclear t => Sys2Proof.Machine.execTclear t s
  | .tilIdentWrite t v => Sys2Proof.Machine.execTilIdentWrite t v s
  | .descriptorIssue t hits => Sys2Proof.Machine.execDescriptorIssue t hits s
  | .operationStart t uq => Sys2Proof.Machine.execOperationStart t uq s
  | .operationComplete t uq => Sys2Proof.Machine.execOperationComplete t uq s
  | .tilOpFault t => Sys2Proof.Machine.execTilOpFault t s
  | .streamStopDrained t => Sys2Proof.Machine.execStreamStopDrained t s
  | .tilLockstep t => Sys2Proof.Machine.execTilLockstep t s
  | .remoteSignalArrive n => Sys2Proof.Machine.execRemoteSignalArrive n s
  | .nop site => Sys2Proof.Machine.execNop site s
  | .endOp t seen => Sys2Proof.Machine.execEndOp t seen s
  | .loop t => Sys2Proof.Machine.execLoop t s
  | .fence t => Sys2Proof.Machine.execFence t s
  | .signal t => Sys2Proof.Machine.execSignal t s
  | .vecAdd t w upset hits => Sys2Proof.Machine.execVecAdd t w upset hits s
  | .vecSub t w upset hits => Sys2Proof.Machine.execVecSub t w upset hits s
  | .vecMul t w upset hits => Sys2Proof.Machine.execVecMul t w upset hits s
  | .vecFma t w upset hits => Sys2Proof.Machine.execVecFma t w upset hits s
  | .vecMax t w upset hits => Sys2Proof.Machine.execVecMax t w upset hits s
  | .vecMin t w upset hits => Sys2Proof.Machine.execVecMin t w upset hits s
  | .vecAbs t w upset hits => Sys2Proof.Machine.execVecAbs t w upset hits s
  | .vecNeg t w upset hits => Sys2Proof.Machine.execVecNeg t w upset hits s
  | .vecCmpgt t w upset hits => Sys2Proof.Machine.execVecCmpgt t w upset hits s
  | .vecCmpeq t w upset hits => Sys2Proof.Machine.execVecCmpeq t w upset hits s
  | .vecMove t w upset hits => Sys2Proof.Machine.execVecMove t w upset hits s
  | .vecRescale t w upset hits => Sys2Proof.Machine.execVecRescale t w upset hits s
  | .vecExp t w upset hits => Sys2Proof.Machine.execVecExp t w upset hits s
  | .vecExp2 t w upset hits => Sys2Proof.Machine.execVecExp2 t w upset hits s
  | .vecLog t w upset hits => Sys2Proof.Machine.execVecLog t w upset hits s
  | .vecLog2 t w upset hits => Sys2Proof.Machine.execVecLog2 t w upset hits s
  | .vecRecip t w upset hits => Sys2Proof.Machine.execVecRecip t w upset hits s
  | .vecRsqrt t w upset hits => Sys2Proof.Machine.execVecRsqrt t w upset hits s
  | .vecSqrt t w upset hits => Sys2Proof.Machine.execVecSqrt t w upset hits s
  | .vecTanh t w upset hits => Sys2Proof.Machine.execVecTanh t w upset hits s
  | .vecSigmoid t w upset hits => Sys2Proof.Machine.execVecSigmoid t w upset hits s
  | .vecErf t w upset hits => Sys2Proof.Machine.execVecErf t w upset hits s
  | .vecSin t w upset hits => Sys2Proof.Machine.execVecSin t w upset hits s
  | .vecCos t w upset hits => Sys2Proof.Machine.execVecCos t w upset hits s
  | .vecDiv t w upset hits => Sys2Proof.Machine.execVecDiv t w upset hits s
  | .vecRsum t w upset hits => Sys2Proof.Machine.execVecRsum t w upset hits s
  | .vecRsumsq t w upset hits => Sys2Proof.Machine.execVecRsumsq t w upset hits s
  | .vecRmax t w upset hits => Sys2Proof.Machine.execVecRmax t w upset hits s
  | .vecRmin t w upset hits => Sys2Proof.Machine.execVecRmin t w upset hits s
  | .vecRamax t w upset hits => Sys2Proof.Machine.execVecRamax t w upset hits s
  | .vecConv t w upset hits => Sys2Proof.Machine.execVecConv t w upset hits s
  | .vecWinnow t w upset hits => Sys2Proof.Machine.execVecWinnow t w upset hits s
  | .vecWiden t w upset hits => Sys2Proof.Machine.execVecWiden t w upset hits s
  | .dmaCopy t w peers hits => Sys2Proof.Machine.execDmaCopy t w peers hits s
  | .dmaGather t w peers hits => Sys2Proof.Machine.execDmaGather t w peers hits s
  | .dmaScatter t w peers hits => Sys2Proof.Machine.execDmaScatter t w peers hits s
  | .dmaTranspose t w peers hits => Sys2Proof.Machine.execDmaTranspose t w peers hits s
  | .dmaFill t w peers hits => Sys2Proof.Machine.execDmaFill t w peers hits s
  | .lftShareWrite t j v => Sys2Proof.Machine.execLftShareWrite t j v s
  | .granaryRead u job a n hits => Sys2Proof.Machine.execGranaryRead u job a n hits s
  | .granaryWrite u job a data tag hits => Sys2Proof.Machine.execGranaryWrite u job a data tag hits s
  | .addI32 u job a v hits => Sys2Proof.Machine.execAddI32 u job a v hits s
  | .addI64 u job a v hits => Sys2Proof.Machine.execAddI64 u job a v hits s
  | .addF32 u job a v hits => Sys2Proof.Machine.execAddF32 u job a v hits s
  | .addBf16 u job a v hits => Sys2Proof.Machine.execAddBf16 u job a v hits s
  | .maxS32 u job a v hits => Sys2Proof.Machine.execMaxS32 u job a v hits s
  | .minS32 u job a v hits => Sys2Proof.Machine.execMinS32 u job a v hits s
  | .maxU32 u job a v hits => Sys2Proof.Machine.execMaxU32 u job a v hits s
  | .minU32 u job a v hits => Sys2Proof.Machine.execMinU32 u job a v hits s
  | .maxS64 u job a v hits => Sys2Proof.Machine.execMaxS64 u job a v hits s
  | .minS64 u job a v hits => Sys2Proof.Machine.execMinS64 u job a v hits s
  | .maxU64 u job a v hits => Sys2Proof.Machine.execMaxU64 u job a v hits s
  | .minU64 u job a v hits => Sys2Proof.Machine.execMinU64 u job a v hits s
  | .maxF32 u job a v hits => Sys2Proof.Machine.execMaxF32 u job a v hits s
  | .minF32 u job a v hits => Sys2Proof.Machine.execMinF32 u job a v hits s
  | .cas64 u job a v cmp hits => Sys2Proof.Machine.execCas64 u job a v cmp hits s
  | .patrolScrubRead ch hits => Sys2Proof.Machine.execPatrolScrubRead ch hits s
  | .refresh ch bank bankBusy => Sys2Proof.Machine.execRefresh ch bank bankBusy s
  | .calibrationPiece ch task good => Sys2Proof.Machine.execCalibrationPiece ch task good s
  | .centringTempTrigger ch temp readGood writeGood => Sys2Proof.Machine.execCentringTempTrigger ch temp readGood writeGood s
  | .grnLocalWrite hi v => Sys2Proof.Machine.execGrnLocalWrite hi v s
  | .hrvRun f j hits => Sys2Proof.Machine.execHrvRun f j hits s
  | .hrvStop f j => Sys2Proof.Machine.execHrvStop f j s
  | .hrvEntryStart f j hits => Sys2Proof.Machine.execHrvEntryStart f j hits s
  | .hrvEntryLand f j cause peers hits => Sys2Proof.Machine.execHrvEntryLand f j cause peers hits s
  | .grnChRepairWrite ch v => Sys2Proof.Machine.execGrnChRepairWrite ch v s
  | .rowRepair ch hits => Sys2Proof.Machine.execRowRepair ch hits s
  | .grnChannelRetired ch silent => Sys2Proof.Machine.execGrnChannelRetired ch silent s
  | .launch st => Sys2Proof.Machine.execLaunch st s
  | .abort st => Sys2Proof.Machine.execAbort st s
  | .grantIssue st => Sys2Proof.Machine.execGrantIssue st s
  | .grantQuantumExpire g => Sys2Proof.Machine.execGrantQuantumExpire g s
  | .tlycapChange st cap => Sys2Proof.Machine.execTlycapChange st cap s
  | .glnGrantOver st count => Sys2Proof.Machine.execGlnGrantOver st count s
  | .glnLockstep g => Sys2Proof.Machine.execGlnLockstep g s
  | .glnIllegalInstruction g => Sys2Proof.Machine.execGlnIllegalInstruction g s
  | .glnCsrWrite g => Sys2Proof.Machine.execGlnCsrWrite g s
  | .rsConv2Write g hits => Sys2Proof.Machine.execRsConv2Write g hits s
  | .rsOpen g => Sys2Proof.Machine.execRsOpen g s
  | .rsNext g => Sys2Proof.Machine.execRsNext g s
  | .rsGet g hits => Sys2Proof.Machine.execRsGet g hits s
  | .rsPut g hits => Sys2Proof.Machine.execRsPut g hits s
  | .rsFget g peers hits => Sys2Proof.Machine.execRsFget g peers hits s
  | .rsFput g peers hits => Sys2Proof.Machine.execRsFput g peers hits s
  | .rsAmo g peers hits => Sys2Proof.Machine.execRsAmo g peers hits s
  | .rsEnd g hits => Sys2Proof.Machine.execRsEnd g hits s
  | .rsExit g hits => Sys2Proof.Machine.execRsExit g hits s
  | .segmentForcedCommit g => Sys2Proof.Machine.execSegmentForcedCommit g s
  | .gopAdd g => Sys2Proof.Machine.execGopAdd g s
  | .gopSub g => Sys2Proof.Machine.execGopSub g s
  | .gopMul g => Sys2Proof.Machine.execGopMul g s
  | .gopFma g => Sys2Proof.Machine.execGopFma g s
  | .axpy g => Sys2Proof.Machine.execAxpy g s
  | .affine g => Sys2Proof.Machine.execAffine g s
  | .gopDiv g => Sys2Proof.Machine.execGopDiv g s
  | .gopSqrt g => Sys2Proof.Machine.execGopSqrt g s
  | .gopMax g => Sys2Proof.Machine.execGopMax g s
  | .gopMin g => Sys2Proof.Machine.execGopMin g s
  | .gopMove g => Sys2Proof.Machine.execGopMove g s
  | .cvt g hits => Sys2Proof.Machine.execCvt g hits s
  | .gopWiden g => Sys2Proof.Machine.execGopWiden g s
  | .xsum g => Sys2Proof.Machine.execXsum g s
  | .xsumsq g => Sys2Proof.Machine.execXsumsq g s
  | .amax g => Sys2Proof.Machine.execAmax g s
  | .crc g => Sys2Proof.Machine.execCrc g s
  | .xclr g => Sys2Proof.Machine.execXclr g s
  | .xst g => Sys2Proof.Machine.execXst g s
  | .xaddm g => Sys2Proof.Machine.execXaddm g s
  | .xrnd g => Sys2Proof.Machine.execXrnd g s
  | .contextAllocation j stack => Sys2Proof.Machine.execContextAllocation j stack s
  | .tensorAllocation j stack => Sys2Proof.Machine.execTensorAllocation j stack s
  | .allocWaitExpire => Sys2Proof.Machine.execAllocWaitExpire s
  | .pageFree p => Sys2Proof.Machine.execPageFree p s
  | .pageIn q n status data => Sys2Proof.Machine.execPageIn q n status data s
  | .hostPageinTimeout q n => Sys2Proof.Machine.execHostPageinTimeout q n s
  | .translationInvalidate q n => Sys2Proof.Machine.execTranslationInvalidate q n s
  | .pageEviction j peer => Sys2Proof.Machine.execPageEviction j peer s
  | .evictionCopyDone q n => Sys2Proof.Machine.execEvictionCopyDone q n s
  | .ctxPageLost q r => Sys2Proof.Machine.execCtxPageLost q r s
  | .batchDispatch j => Sys2Proof.Machine.execBatchDispatch j s
  | .batchEnd j num => Sys2Proof.Machine.execBatchEnd j num s
  | .borrowSaveDone t => Sys2Proof.Machine.execBorrowSaveDone t s
  | .lendBudgetExpire t => Sys2Proof.Machine.execLendBudgetExpire t s
  | .reclaim t => Sys2Proof.Machine.execReclaim t s
  | .reclaimDone t => Sys2Proof.Machine.execReclaimDone t s
  | .trnSclCtrlWrite j v => Sys2Proof.Machine.execTrnSclCtrlWrite j v s
  | .stepStart j => Sys2Proof.Machine.execStepStart j s
  | .gradientReduce j contribs outgoing => Sys2Proof.Machine.execGradientReduce j contribs outgoing s
  | .tiedPass j => Sys2Proof.Machine.execTiedPass j s
  | .sweepLaunch j => Sys2Proof.Machine.execSweepLaunch j s
  | .sheafEmit j => Sys2Proof.Machine.execSheafEmit j s
  | .replicaCheck j others mine copies capacity images => Sys2Proof.Machine.execReplicaCheck j others mine copies capacity images s
  | .stepClose j scope => Sys2Proof.Machine.execStepClose j scope s
  | .servingEpochClose j scope => Sys2Proof.Machine.execServingEpochClose j scope s
  | .mirrorApply j recs => Sys2Proof.Machine.execMirrorApply j recs s
  | .trnStepDone j n => Sys2Proof.Machine.execTrnStepDone j n s
  | .mirrorBuild j buddy => Sys2Proof.Machine.execMirrorBuild j buddy s
  | .trnSweepUndone j => Sys2Proof.Machine.execTrnSweepUndone j s
  | .sweepUndoDone j => Sys2Proof.Machine.execSweepUndoDone j s
  | .jxlModeWrite l v => Sys2Proof.Machine.execJxlModeWrite l v s
  | .negotiate l lmin lmax plink pid txBad rxBad => Sys2Proof.Machine.execNegotiate l lmin lmax plink pid txBad rxBad s
  | .lanemapCommit l v => Sys2Proof.Machine.execLanemapCommit l v s
  | .flitReceive l flit corr uncorr => Sys2Proof.Machine.execFlitReceive l flit corr uncorr s
  | .nakReplay l ack => Sys2Proof.Machine.execNakReplay l ack s
  | .jxlRetrain l lostLock => Sys2Proof.Machine.execJxlRetrain l lostLock s
  | .retrainDone l txBad rxBad => Sys2Proof.Machine.execRetrainDone l txBad rxBad s
  | .fabricRequestSend req => Sys2Proof.Machine.execFabricRequestSend req s
  | .fabricResendTimeout j r ctr => Sys2Proof.Machine.execFabricResendTimeout j r ctr s
  | .fabricWrite l frame => Sys2Proof.Machine.execFabricWrite l frame s
  | .fabricRead l frame => Sys2Proof.Machine.execFabricRead l frame s
  | .fabricAtomic l frame => Sys2Proof.Machine.execFabricAtomic l frame s
  | .fabricCompletion l frame => Sys2Proof.Machine.execFabricCompletion l frame s
  | .fabricColl l frame => Sys2Proof.Machine.execFabricColl l frame s
  | .heartbeat l frame => Sys2Proof.Machine.execHeartbeat l frame s
  | .keyx l frame => Sys2Proof.Machine.execKeyx l frame s
  | .epochKeyRetire j r => Sys2Proof.Machine.execEpochKeyRetire j r s
  | .heartbeatSend => Sys2Proof.Machine.execHeartbeatSend s
  | .jxlPeerSilent j r => Sys2Proof.Machine.execJxlPeerSilent j r s
  | .jobFlush j => Sys2Proof.Machine.execJobFlush j s
  | .allReduce q => Sys2Proof.Machine.execAllReduce q s
  | .reduceScatter q => Sys2Proof.Machine.execReduceScatter q s
  | .allGather q => Sys2Proof.Machine.execAllGather q s
  | .allToAll q => Sys2Proof.Machine.execAllToAll q s
  | .colSend q => Sys2Proof.Machine.execColSend q s
  | .recv q => Sys2Proof.Machine.execRecv q s
  | .permute q => Sys2Proof.Machine.execPermute q s
  | .barrier q => Sys2Proof.Machine.execBarrier q s
  | .collectiveComplete e => Sys2Proof.Machine.execCollectiveComplete e s
  | .colAborted f j => Sys2Proof.Machine.execColAborted f j s
  | .macFrameReceive m frame cut corr uncorr => Sys2Proof.Machine.execMacFrameReceive m frame cut corr uncorr s
  | .pauseFrameReceive m quanta => Sys2Proof.Machine.execPauseFrameReceive m quanta s
  | .pfcFrameReceive m vec quanta => Sys2Proof.Machine.execPfcFrameReceive m vec quanta s
  | .pauseHoldExpire m c => Sys2Proof.Machine.execPauseHoldExpire m c s
  | .rxFrameRelease m q => Sys2Proof.Machine.execRxFrameRelease m q s
  | .pauseRefresh m c => Sys2Proof.Machine.execPauseRefresh m c s
  | .macTxPauseAbandon m c => Sys2Proof.Machine.execMacTxPauseAbandon m c s
  | .pauseAbandonHoldEnd m c => Sys2Proof.Machine.execPauseAbandonHoldEnd m c s
  | .macPauseStorm m c => Sys2Proof.Machine.execMacPauseStorm m c s
  | .macHoldoffEnd m c => Sys2Proof.Machine.execMacHoldoffEnd m c s
  | .pauseModeWrite m v => Sys2Proof.Machine.execPauseModeWrite m v s
  | .macFrameTransmit m c frame => Sys2Proof.Machine.execMacFrameTransmit m c frame s
  | .lpiEnter m => Sys2Proof.Machine.execLpiEnter m s
  | .lpiWake m => Sys2Proof.Machine.execLpiWake m s
  | .lpiWakeTimeEnd m => Sys2Proof.Machine.execLpiWakeTimeEnd m s
  | .macLinkUp m phy lanes => Sys2Proof.Machine.execMacLinkUp m phy lanes s
  | .macLinkDown m => Sys2Proof.Machine.execMacLinkDown m s
  | .autonegTimeout m => Sys2Proof.Machine.execAutonegTimeout m s
  | .rxqCfgWrite m q v => Sys2Proof.Machine.execRxqCfgWrite m q v s
  | .openSession port q => Sys2Proof.Machine.execOpenSession port q s
  | .closeSession port q => Sys2Proof.Machine.execCloseSession port q s
  | .sessionIdleClose id => Sys2Proof.Machine.execSessionIdleClose id s
  | .cmdWrite port q => Sys2Proof.Machine.execCmdWrite port q s
  | .doorbell port q => Sys2Proof.Machine.execDoorbell port q s
  | .doorbellAheadTimeout q => Sys2Proof.Machine.execDoorbellAheadTimeout q s
  | .compQuery port q => Sys2Proof.Machine.execCompQuery port q s
  | .data port q => Sys2Proof.Machine.execData port q s
  | .pageInChunk port q => Sys2Proof.Machine.execPageInChunk port q s
  | .pageAck port q => Sys2Proof.Machine.execPageAck port q s
  | .sync port q => Sys2Proof.Machine.execSync port q s
  | .commandStart q => Sys2Proof.Machine.execCommandStart q s
  | .commandCompletion q idx => Sys2Proof.Machine.execCommandCompletion q idx s
  | .eventForward u => Sys2Proof.Machine.execEventForward u s
  | .identify q => Sys2Proof.Machine.execIdentify q s
  | .attest q => Sys2Proof.Machine.execAttest q s
  | .enrolKey q => Sys2Proof.Machine.execEnrolKey q s
  | .config q => Sys2Proof.Machine.execConfig q s
  | .counters q => Sys2Proof.Machine.execCounters q s
  | .events q => Sys2Proof.Machine.execEvents q s
  | .debug q => Sys2Proof.Machine.execDebug q s
  | .power q => Sys2Proof.Machine.execPower q s
  | .resetUnit q => Sys2Proof.Machine.execResetUnit q s
  | .drainCommand q => Sys2Proof.Machine.execDrainCommand q s
  | .release q => Sys2Proof.Machine.execRelease q s
  | .quarantine q => Sys2Proof.Machine.execQuarantine q s
  | .jobCreate q => Sys2Proof.Machine.execJobCreate q s
  | .jobDestroy q => Sys2Proof.Machine.execJobDestroy q s
  | .windowOpen q => Sys2Proof.Machine.execWindowOpen q s
  | .windowClose q => Sys2Proof.Machine.execWindowClose q s
  | .commit q => Sys2Proof.Machine.execCommit q s
  | .fetch q => Sys2Proof.Machine.execFetch q s
  | .loadProgram q lost => Sys2Proof.Machine.execLoadProgram q lost s
  | .queueCreate q => Sys2Proof.Machine.execQueueCreate q s
  | .queueDestroy q => Sys2Proof.Machine.execQueueDestroy q s
  | .pageEvict q peer => Sys2Proof.Machine.execPageEvict q peer s
  | .jobAdmit q => Sys2Proof.Machine.execJobAdmit q s
  | .jobAdmitTimeout j => Sys2Proof.Machine.execJobAdmitTimeout j s
  | .jobStart q => Sys2Proof.Machine.execJobStart q s
  | .step q => Sys2Proof.Machine.execStep q s
  | .scaleSet q => Sys2Proof.Machine.execScaleSet q s
  | .jobStop q => Sys2Proof.Machine.execJobStop q s
  | .freeze q => Sys2Proof.Machine.execFreeze q s
  | .replay q => Sys2Proof.Machine.execReplay q s
  | .spareAssign q => Sys2Proof.Machine.execSpareAssign q s
  | .adopt q => Sys2Proof.Machine.execAdopt q s
  | .reshard q => Sys2Proof.Machine.execReshard q s
  | .snapshot q => Sys2Proof.Machine.execSnapshot q s
  | .checkpoint q => Sys2Proof.Machine.execCheckpoint q s
  | .recoveryAreaPoll j => Sys2Proof.Machine.execRecoveryAreaPoll j s
  | .fail j r => Sys2Proof.Machine.execFail j r s
  | .withdrawn j r => Sys2Proof.Machine.execWithdrawn j r s
  | .recFreeze j r => Sys2Proof.Machine.execRecFreeze j r s
  | .frozen j r => Sys2Proof.Machine.execFrozen j r s
  | .recAdopt j r => Sys2Proof.Machine.execRecAdopt j r s
  | .adopted j r => Sys2Proof.Machine.execAdopted j r s
  | .rankFill j r => Sys2Proof.Machine.execRankFill j r s
  | .filled j r => Sys2Proof.Machine.execFilled j r s
  | .stepUndo j => Sys2Proof.Machine.execStepUndo j s
  | .recReplay j r => Sys2Proof.Machine.execRecReplay j r s
  | .replayed j r => Sys2Proof.Machine.execReplayed j r s
  | .resume j r => Sys2Proof.Machine.execResume j r s
  | .halt j r => Sys2Proof.Machine.execHalt j r s
  | .repeatMsg j r => Sys2Proof.Machine.execRepeatMsg j r s
  | .moduleWithdraw j => Sys2Proof.Machine.execModuleWithdraw j s
  | .blockRestore j a mirror => Sys2Proof.Machine.execBlockRestore j a mirror s
  | .shrink j => Sys2Proof.Machine.execShrink j s
  | .localisation failed noneElsewhere => Sys2Proof.Machine.execLocalisation failed noneElsewhere s
  | .raOpen port q => Sys2Proof.Machine.execRaOpen port q s
  | .raClose port q => Sys2Proof.Machine.execRaClose port q s
  | .raClaim port q => Sys2Proof.Machine.execRaClaim port q s
  | .raBlob port q => Sys2Proof.Machine.execRaBlob port q s
  | .raRead port q => Sys2Proof.Machine.execRaRead port q s
  | .raWrite port q => Sys2Proof.Machine.execRaWrite port q s
  | .raRmw port q => Sys2Proof.Machine.execRaRmw port q s
  | .raPoll port q => Sys2Proof.Machine.execRaPoll port q s
  | .raPollTimeout port => Sys2Proof.Machine.execRaPollTimeout port s
  | .spines => Sys2Proof.Machine.execSpines s
  | .train failed => Sys2Proof.Machine.execTrain failed s
  | .verify => Sys2Proof.Machine.execVerify s
  | .load lost => Sys2Proof.Machine.execLoad lost s
  | .selftest failed => Sys2Proof.Machine.execSelftest failed s
  | .bootStart => Sys2Proof.Machine.execBootStart s
  | .bootActionEnd => Sys2Proof.Machine.execBootActionEnd s
  | .loadChunkReceive u chunk => Sys2Proof.Machine.execLoadChunkReceive u chunk s
  | .loadRepairRound lost => Sys2Proof.Machine.execLoadRepairRound lost s
  | .pulse u out => Sys2Proof.Machine.execPulse u out s
  | .hold u v out => Sys2Proof.Machine.execHold u v out s
  | .resetDrainTimeout u => Sys2Proof.Machine.execResetDrainTimeout u s
  | .sysResetDone u good => Sys2Proof.Machine.execSysResetDone u good s
  | .secFloorRaise v => Sys2Proof.Machine.execSecFloorRaise v s
  | .keyxResend j r => Sys2Proof.Machine.execKeyxResend j r s
  | .secRngFail => Sys2Proof.Machine.execSecRngFail s
  | .jtagInstruction => Sys2Proof.Machine.execJtagInstruction s
  | .tlyFeedLost feed cause tenths => Sys2Proof.Machine.execTlyFeedLost feed cause tenths s
  | .holdupEnd => Sys2Proof.Machine.execHoldupEnd s
  | .tlyFeedBack feed tenths => Sys2Proof.Machine.execTlyFeedBack feed tenths s
  | .tlyRailUv rail => Sys2Proof.Machine.execTlyRailUv rail s
  | .capLoopCheck avg railLimit => Sys2Proof.Machine.execCapLoopCheck avg railLimit s
  | .pwrCapUnmet avg => Sys2Proof.Machine.execPwrCapUnmet avg s
  | .pwrCapWrite v => Sys2Proof.Machine.execPwrCapWrite v s
  | .thermalSample junctions bases => Sys2Proof.Machine.execThermalSample junctions bases s
  | .on => Sys2Proof.Machine.execOn s
  | .off => Sys2Proof.Machine.execOff s
  | .treset => Sys2Proof.Machine.execTreset s
  | .holdupCharged => Sys2Proof.Machine.execHoldupCharged s
  | .tallyPowerUp va vb => Sys2Proof.Machine.execTallyPowerUp va vb s
  | .tlyRingWrite v fromFe => Sys2Proof.Machine.execTlyRingWrite v fromFe s
  | .tallyRingFrame port frame => Sys2Proof.Machine.execTallyRingFrame port frame s
  | .bbRecordWrite => Sys2Proof.Machine.execBbRecordWrite s
  | .bbBucketRefill => Sys2Proof.Machine.execBbBucketRefill s
  | .tlyBbSelWrite v => Sys2Proof.Machine.execTlyBbSelWrite v s
  | .tlyRefclkLost clk => Sys2Proof.Machine.execTlyRefclkLost clk s
  | .refclkReturn clk => Sys2Proof.Machine.execRefclkReturn clk s
  | .moduleInsert va vb => Sys2Proof.Machine.execModuleInsert va vb s
  | .reeveFault => Sys2Proof.Machine.execReeveFault s
  | .exportAckTimeout q n => Sys2Proof.Machine.execExportAckTimeout q n s
  | .majoritySilenceWithdraw j => Sys2Proof.Machine.execMajoritySilenceWithdraw j s
  | .rxLpiIndication m on => Sys2Proof.Machine.execRxLpiIndication m on s
  | .tallyPortLinkChange port up => Sys2Proof.Machine.execTallyPortLinkChange port up s
  | .rv32imafcInstruction g => Sys2Proof.Machine.execRv32imafcInstruction g s

end Sys2Proof.Machine
end

