-- ==== Sys2Proof/WellFormed.lean ====
section
/-! DEFINITION. Which commands are well formed: the sizes of numbers, frames and lists that an operand's type does not already bound. -/

namespace Sys2Proof

open Sys2Proof.Machine

/-- Does a number fit in so many bits? -/
def fits (bits n : Nat) : Bool := decide (n < 2 ^ bits)

def optFits (bits : Nat) : Option Nat → Bool
  | none => true
  | some n => fits bits n

/-- A list of so many numbers of so many bits. -/
def numsOk (len bits : Nat) (l : List Nat) : Bool := l.length == len && l.all (fits bits)

/-- Upsets strike bytes that exist: the granary's 4 TiB (R193) and the 64 lofts at their local addresses (R185). -/
def hitsOk (l : List Strike) : Bool := l.all fun x => match x with
  | .symbols a es => fits 42 a && es.all fun e => decide (e.1 < 72)
  | .line a _ => fits 42 a
  | .word a _ => decide (0x1000_0000_0000 ≤ a) && decide (a < 0x1000_8000_0000)

/-- A peer's answer stands at an address of its own rank (R24). -/
def peersOk (l : List Peer) : Bool := l.all fun p => fits 64 (p.addr + p.bytes.length)

/-- A page a peer answers with is whole (R295). -/
def pageOk (s : Status) (d : List Byte) : Bool := s != .ok || d.length == 65536

/-- A chunk of an image: at most 4,096 bytes, its number below the count (R506). -/
def chunkOk (c : Chunk) : Bool := decide (c.data.length ≤ 4096) && decide (c.num < c.count) && fits 32 c.crc && fits 32 c.imageCrc

/-- A mirror block is 64 KiB (R342). -/
def mirrorOk : Option (Nat × List Byte) → Bool
  | none => true
  | some (n, v) => fits 32 n && v.length == 65536

/-- A fabric request is a WRITE, READ, ATOMIC or collective frame of at most 4 KiB (Table 10.4). -/
def reqOk (r : FabReq) : Bool :=
  decide (r.job < 8) && fits 10 r.rank && (r.kind == 1 || r.kind == 2 || r.kind == 3 || r.kind == 5) && fits 64 r.addr && fits 13 r.rlen &&
    decide (r.data.length ≤ 4096)

/-- A sheaf record belongs to a step and an element size of 4, 2 or 1 bytes (Table 9.6). -/
def recOk (r : SheafRec) : Bool := fits 32 r.step && (r.es == 1 || r.es == 2 || r.es == 4)

/-- A residue is seen at one of the 1,024 dot-product units (R99). -/
def obsOk : FillObs → Bool
  | .clean => true
  | .residue u => fits 10 u
  | .fatal u v => fits 10 u && fits 10 v
  | .parity _ => true

/-- Is a command well formed? -/
def wellFormed : Instr → Bool
  | .mma _ _ hits => hitsOk hits
  | .loadb _ _ hits => hitsOk hits
  | .drain _ _ hits => hitsOk hits
  | .zero _ _ hits => hitsOk hits
  | .fill _ obs _ hits => obsOk obs && hitsOk hits
  | .descriptorIssue _ hits => hitsOk hits
  | .endOp _ seen => peersOk seen.peers && hitsOk seen.hits
  | .vecAdd _ _ _ hits => hitsOk hits
  | .vecSub _ _ _ hits => hitsOk hits
  | .vecMul _ _ _ hits => hitsOk hits
  | .vecFma _ _ _ hits => hitsOk hits
  | .vecMax _ _ _ hits => hitsOk hits
  | .vecMin _ _ _ hits => hitsOk hits
  | .vecAbs _ _ _ hits => hitsOk hits
  | .vecNeg _ _ _ hits => hitsOk hits
  | .vecCmpgt _ _ _ hits => hitsOk hits
  | .vecCmpeq _ _ _ hits => hitsOk hits
  | .vecMove _ _ _ hits => hitsOk hits
  | .vecRescale _ _ _ hits => hitsOk hits
  | .vecExp _ _ _ hits => hitsOk hits
  | .vecExp2 _ _ _ hits => hitsOk hits
  | .vecLog _ _ _ hits => hitsOk hits
  | .vecLog2 _ _ _ hits => hitsOk hits
  | .vecRecip _ _ _ hits => hitsOk hits
  | .vecRsqrt _ _ _ hits => hitsOk hits
  | .vecSqrt _ _ _ hits => hitsOk hits
  | .vecTanh _ _ _ hits => hitsOk hits
  | .vecSigmoid _ _ _ hits => hitsOk hits
  | .vecErf _ _ _ hits => hitsOk hits
  | .vecSin _ _ _ hits => hitsOk hits
  | .vecCos _ _ _ hits => hitsOk hits
  | .vecDiv _ _ _ hits => hitsOk hits
  | .vecRsum _ _ _ hits => hitsOk hits
  | .vecRsumsq _ _ _ hits => hitsOk hits
  | .vecRmax _ _ _ hits => hitsOk hits
  | .vecRmin _ _ _ hits => hitsOk hits
  | .vecRamax _ _ _ hits => hitsOk hits
  | .vecConv _ _ _ hits => hitsOk hits
  | .vecWinnow _ _ _ hits => hitsOk hits
  | .vecWiden _ _ _ hits => hitsOk hits
  | .dmaCopy _ _ peers hits => peersOk peers && hitsOk hits
  | .dmaGather _ _ peers hits => peersOk peers && hitsOk hits
  | .dmaScatter _ _ peers hits => peersOk peers && hitsOk hits
  | .dmaTranspose _ _ peers hits => peersOk peers && hitsOk hits
  | .dmaFill _ _ peers hits => peersOk peers && hitsOk hits
  | .granaryRead _ _ a n hits => fits 64 a && fits 32 n && hitsOk hits
  | .granaryWrite _ _ a data tag hits => fits 64 a && decide (data.length ≤ 2 ^ 32) && optFits 32 tag && hitsOk hits
  | .addI32 _ _ a v hits => fits 64 a && fits 64 v && hitsOk hits
  | .addI64 _ _ a v hits => fits 64 a && fits 64 v && hitsOk hits
  | .addF32 _ _ a v hits => fits 64 a && fits 64 v && hitsOk hits
  | .addBf16 _ _ a v hits => fits 64 a && fits 64 v && hitsOk hits
  | .maxS32 _ _ a v hits => fits 64 a && fits 64 v && hitsOk hits
  | .minS32 _ _ a v hits => fits 64 a && fits 64 v && hitsOk hits
  | .maxU32 _ _ a v hits => fits 64 a && fits 64 v && hitsOk hits
  | .minU32 _ _ a v hits => fits 64 a && fits 64 v && hitsOk hits
  | .maxS64 _ _ a v hits => fits 64 a && fits 64 v && hitsOk hits
  | .minS64 _ _ a v hits => fits 64 a && fits 64 v && hitsOk hits
  | .maxU64 _ _ a v hits => fits 64 a && fits 64 v && hitsOk hits
  | .minU64 _ _ a v hits => fits 64 a && fits 64 v && hitsOk hits
  | .maxF32 _ _ a v hits => fits 64 a && fits 64 v && hitsOk hits
  | .minF32 _ _ a v hits => fits 64 a && fits 64 v && hitsOk hits
  | .cas64 _ _ a v cmp hits => fits 64 a && fits 64 v && fits 64 cmp && hitsOk hits
  | .patrolScrubRead _ hits => hitsOk hits
  | .hrvRun _ _ hits => hitsOk hits
  | .hrvEntryStart _ _ hits => hitsOk hits
  | .hrvEntryLand _ _ _ peers hits => peersOk peers && hitsOk hits
  | .rowRepair _ hits => hitsOk hits
  | .rsConv2Write _ hits => hitsOk hits
  | .rsGet _ hits => hitsOk hits
  | .rsPut _ hits => hitsOk hits
  | .rsFget _ peers hits => peersOk peers && hitsOk hits
  | .rsFput _ peers hits => peersOk peers && hitsOk hits
  | .rsAmo _ peers hits => peersOk peers && hitsOk hits
  | .rsEnd _ hits => hitsOk hits
  | .rsExit _ hits => hitsOk hits
  | .cvt _ hits => hitsOk hits
  | .pageIn _ n status data => fits 20 n && pageOk status data
  | .hostPageinTimeout _ n => fits 20 n
  | .translationInvalidate _ n => fits 20 n
  | .pageEviction _ peer => optFits 26 peer
  | .evictionCopyDone _ n => fits 20 n
  | .batchEnd _ num => fits 32 num
  | .replicaCheck _ others _ _ _ _ => others.all fun r => fits 10 r.rank
  | .stepClose _ scope => scope.all fun p => fits 16 p.1
  | .servingEpochClose _ scope => scope.all fun p => fits 16 p.1
  | .mirrorApply _ recs => recs.all recOk
  | .trnStepDone _ n => fits 32 n
  | .negotiate _ _ _ _ pid _ _ => fits 64 pid
  | .flitReceive _ flit _ _ => flit.length == 288
  | .fabricRequestSend req => reqOk req
  | .fabricResendTimeout _ _ ctr => fits 32 ctr
  | .fabricWrite _ frame => decide (frame.length ≤ 4144)
  | .fabricRead _ frame => decide (frame.length ≤ 4144)
  | .fabricAtomic _ frame => decide (frame.length ≤ 4144)
  | .fabricCompletion _ frame => decide (frame.length ≤ 4144)
  | .fabricColl _ frame => decide (frame.length ≤ 4144)
  | .heartbeat _ frame => decide (frame.length ≤ 4144)
  | .keyx _ frame => decide (frame.length ≤ 4144)
  | .macFrameReceive _ frame _ _ _ => decide (frame.length ≤ 16384)
  | .pfcFrameReceive _ _ quanta => numsOk 8 16 quanta
  | .macFrameTransmit _ _ frame => decide (frame.length ≤ 16384)
  | .sessionIdleClose id => fits 32 id
  | .commandCompletion _ idx => fits 32 idx
  | .loadProgram _ lost => lost.all fun p => fits 13 p.1
  | .pageEvict _ peer => optFits 26 peer
  | .blockRestore _ a mirror => fits 64 a && mirrorOk mirror
  | .localisation failed _ => failed.all (fits 13)
  | .train failed => failed.all (fits 13)
  | .load lost => lost.all fun p => fits 13 p.1
  | .selftest failed => failed.all (fits 13)
  | .loadChunkReceive _ chunk => chunkOk chunk
  | .loadRepairRound lost => lost.all fun p => fits 13 p.1
  | .tlyFeedLost _ _ tenths => fits 10 tenths
  | .tlyFeedBack _ tenths => fits 10 tenths
  | .capLoopCheck avg _ => fits 16 avg
  | .pwrCapUnmet avg => fits 16 avg
  | .thermalSample junctions bases => numsOk 64 8 junctions && numsOk 32 8 bases
  | .tallyPowerUp va vb => fits 10 va && fits 10 vb
  | .tallyRingFrame _ frame => decide (frame.length ≤ 16384)
  | .moduleInsert va vb => fits 10 va && fits 10 vb
  | .exportAckTimeout _ n => fits 20 n
  | .registerWrite _ _ _ _ _ => true
  | .counterLowRead _ _ _ => true
  | .rcRegisterRead _ _ _ => true
  | .sqRegisterWrite _ _ _ _ => true
  | .sysMemberHealth _ => true
  | .mbxPost _ _ => true
  | .mbxReply _ => true
  | .sysHsStall _ _ _ => true
  | .tallyUsTick => true
  | .fillResultWrite _ => true
  | .thrCtrlWrite _ _ => true
  | .tilStart _ => true
  | .tilStop _ => true
  | .tilClear _ => true
  | .tclear _ => true
  | .tilIdentWrite _ _ => true
  | .operationStart _ _ => true
  | .operationComplete _ _ => true
  | .tilOpFault _ => true
  | .streamStopDrained _ => true
  | .tilLockstep _ => true
  | .remoteSignalArrive _ => true
  | .nop _ => true
  | .loop _ => true
  | .fence _ => true
  | .signal _ => true
  | .lftShareWrite _ _ _ => true
  | .refresh _ _ _ => true
  | .calibrationPiece _ _ _ => true
  | .centringTempTrigger _ _ _ _ => true
  | .grnLocalWrite _ _ => true
  | .hrvStop _ _ => true
  | .grnChRepairWrite _ _ => true
  | .grnChannelRetired _ _ => true
  | .launch _ => true
  | .abort _ => true
  | .grantIssue _ => true
  | .grantQuantumExpire _ => true
  | .tlycapChange _ _ => true
  | .glnGrantOver _ _ => true
  | .glnLockstep _ => true
  | .glnIllegalInstruction _ => true
  | .glnCsrWrite _ => true
  | .rsOpen _ => true
  | .rsNext _ => true
  | .segmentForcedCommit _ => true
  | .gopAdd _ => true
  | .gopSub _ => true
  | .gopMul _ => true
  | .gopFma _ => true
  | .axpy _ => true
  | .affine _ => true
  | .gopDiv _ => true
  | .gopSqrt _ => true
  | .gopMax _ => true
  | .gopMin _ => true
  | .gopMove _ => true
  | .gopWiden _ => true
  | .xsum _ => true
  | .xsumsq _ => true
  | .amax _ => true
  | .crc _ => true
  | .xclr _ => true
  | .xst _ => true
  | .xaddm _ => true
  | .xrnd _ => true
  | .contextAllocation _ _ => true
  | .tensorAllocation _ _ => true
  | .allocWaitExpire => true
  | .pageFree _ => true
  | .ctxPageLost _ _ => true
  | .batchDispatch _ => true
  | .borrowSaveDone _ => true
  | .lendBudgetExpire _ => true
  | .reclaim _ => true
  | .reclaimDone _ => true
  | .trnSclCtrlWrite _ _ => true
  | .stepStart _ => true
  | .gradientReduce _ _ _ => true
  | .tiedPass _ => true
  | .sweepLaunch _ => true
  | .sheafEmit _ => true
  | .mirrorBuild _ buddy => buddy.asked.all fun a => decide (a.1 < 2 ^ 16) && decide (a.2.1 < 8) && decide (a.2.2 < 2 ^ 32)
  | .trnSweepUndone _ => true
  | .sweepUndoDone _ => true
  | .jxlModeWrite _ _ => true
  | .lanemapCommit _ _ => true
  | .nakReplay _ _ => true
  | .jxlRetrain _ _ => true
  | .retrainDone _ _ _ => true
  | .epochKeyRetire _ _ => true
  | .heartbeatSend => true
  | .jxlPeerSilent _ _ => true
  | .jobFlush _ => true
  | .allReduce _ => true
  | .reduceScatter _ => true
  | .allGather _ => true
  | .allToAll _ => true
  | .colSend _ => true
  | .recv _ => true
  | .permute _ => true
  | .barrier _ => true
  | .collectiveComplete e => peersOk e.peers
  | .colAborted _ _ => true
  | .pauseFrameReceive _ _ => true
  | .pauseHoldExpire _ _ => true
  | .rxFrameRelease _ _ => true
  | .pauseRefresh _ _ => true
  | .macTxPauseAbandon _ _ => true
  | .pauseAbandonHoldEnd _ _ => true
  | .macPauseStorm _ _ => true
  | .macHoldoffEnd _ _ => true
  | .pauseModeWrite _ _ => true
  | .lpiEnter _ => true
  | .lpiWake _ => true
  | .lpiWakeTimeEnd _ => true
  | .macLinkUp _ _ _ => true
  | .macLinkDown _ => true
  | .autonegTimeout _ => true
  | .rxqCfgWrite _ _ _ => true
  | .openSession _ _ => true
  | .closeSession _ _ => true
  | .cmdWrite _ _ => true
  | .doorbell _ _ => true
  | .doorbellAheadTimeout _ => true
  | .compQuery _ _ => true
  | .data _ _ => true
  | .pageInChunk _ _ => true
  | .pageAck _ _ => true
  | .sync _ _ => true
  | .commandStart _ => true
  | .eventForward _ => true
  | .identify _ => true
  | .attest _ => true
  | .enrolKey _ => true
  | .config _ => true
  | .counters _ => true
  | .events _ => true
  | .debug _ => true
  | .power _ => true
  | .resetUnit _ => true
  | .drainCommand _ => true
  | .release _ => true
  | .quarantine _ => true
  | .jobCreate _ => true
  | .jobDestroy _ => true
  | .windowOpen _ => true
  | .windowClose _ => true
  | .commit _ => true
  | .fetch _ => true
  | .queueCreate _ => true
  | .queueDestroy _ => true
  | .jobAdmit _ => true
  | .jobAdmitTimeout _ => true
  | .jobStart _ => true
  | .step _ => true
  | .scaleSet _ => true
  | .jobStop _ => true
  | .freeze _ => true
  | .replay _ => true
  | .spareAssign _ => true
  | .adopt _ => true
  | .reshard _ => true
  | .snapshot _ => true
  | .checkpoint _ => true
  | .recoveryAreaPoll _ => true
  | .fail _ _ => true
  | .withdrawn _ _ => true
  | .recFreeze _ _ => true
  | .frozen _ _ => true
  | .recAdopt _ _ => true
  | .adopted _ _ => true
  | .rankFill _ _ => true
  | .filled _ _ => true
  | .stepUndo _ => true
  | .recReplay _ _ => true
  | .replayed _ _ => true
  | .resume _ _ => true
  | .halt _ _ => true
  | .repeatMsg _ _ => true
  | .moduleWithdraw _ => true
  | .shrink _ => true
  | .raOpen _ _ => true
  | .raClose _ _ => true
  | .raClaim _ _ => true
  | .raBlob _ _ => true
  | .raRead _ _ => true
  | .raWrite _ _ => true
  | .raRmw _ _ => true
  | .raPoll _ _ => true
  | .raPollTimeout _ => true
  | .spines => true
  | .verify => true
  | .bootStart => true
  | .bootActionEnd => true
  | .pulse _ _ => true
  | .hold _ _ _ => true
  | .resetDrainTimeout _ => true
  | .sysResetDone _ _ => true
  | .secFloorRaise _ => true
  | .keyxResend _ _ => true
  | .secRngFail => true
  | .jtagInstruction => true
  | .holdupEnd => true
  | .tlyRailUv _ => true
  | .pwrCapWrite _ => true
  | .on => true
  | .off => true
  | .treset => true
  | .holdupCharged => true
  | .tlyRingWrite _ _ => true
  | .bbRecordWrite => true
  | .bbBucketRefill => true
  | .tlyBbSelWrite _ => true
  | .tlyRefclkLost _ => true
  | .refclkReturn _ => true
  | .reeveFault => true
  | .majoritySilenceWithdraw _ => true
  | .rxLpiIndication _ _ => true
  | .tallyPortLinkChange _ _ => true
  | .rv32imafcInstruction _ => true

end Sys2Proof
end

