-- ==== Sys2Proof/Safety.lean ====
section
/-! DEFINITION. The terms the statements use: what a command answers, the limits no step may pass, and what is never lowered. -/

namespace Sys2Proof.Machine

/-- The command answers a next state: the block changed by `f`, the queue as it was. -/
def Answers (i : Instr) (s : State) (f : Block → Block) : Prop := exec i s = .next { s with blk := f s.blk }

/-- The command answers a next state of which `p` holds, with the queue as it was. -/
def AnswersWith (i : Instr) (s : State) (p : Block → Prop) : Prop := ∃ b, exec i s = .next { s with blk := b } ∧ p b

/-- The command answers a next state: `g` has acted on the block, with the tally store, its counters and tally time as they were (R32, R576), and
the queue as it was. -/
def Acts (i : Instr) (s : State) (g : Block → Block) : Prop := Answers i s (keepTally g)

/-- The counters of the changes that are limited stand within their limits (Table 15.6), and the floor is no higher than the increments counted. -/
structure Limits (b : Block) : Prop where
  enrols : b.tly.store.enrols ≤ 16
  floorIncs : b.tly.store.floorIncs ≤ 4096
  floor : b.tly.store.floor ≤ b.tly.store.floorIncs
  maps : ∀ st, b.grn.mapUsed.get 0 st ≤ 1024
  lanes : ∀ l, b.tly.store.laneUsed.get 0 l ≤ 8

/-- No counter of Table 15.6, and not the floor, is lower in `c` than in `b` (R541). -/
structure NotLowered (b c : Block) : Prop where
  enrols : b.tly.store.enrols ≤ c.tly.store.enrols
  floorIncs : b.tly.store.floorIncs ≤ c.tly.store.floorIncs
  floor : b.tly.store.floor ≤ c.tly.store.floor
  maps : ∀ st, b.grn.mapUsed.get 0 st ≤ c.grn.mapUsed.get 0 st
  lanes : ∀ l, b.tly.store.laneUsed.get 0 l ≤ c.tly.store.laneUsed.get 0 l

/-- A run is safe when every state it reaches is within the limits and lowers nothing the one before had counted. -/
def SafeStep (s s' : State) : Prop := Limits s'.blk ∧ NotLowered s.blk s'.blk

/-- A started operation of the class and code given stands in a window slot of a tile. -/
def Started (b : Block) (t w cls op : Nat) (o : Op) : Prop :=
  opInSlot b t w = some o ∧ o.isStarted = true ∧ dClass o.desc = cls ∧ dOp o.desc = op

/-- A protocol frame stands at the head of a front-end receive queue the engine consumes (R412, R431, R432): its flow, header, sealed payload and tag. -/
def FrameAt (b : Block) (port q : Nat) (fl : Flow) (h : QHead) (sealed tag : List Byte) : Prop :=
  consumerOf b (uFe port) q = 1 ∧ ∃ f r bytes, rxOf (portOf b (uFe port)) q = f :: r ∧ qcpIn b port f.bytes = some (fl, bytes) ∧
    qcpParse bytes = some (h, sealed, tag) ∧ h.dev = false ∧ hostOp h.op = true

/-- The frame at the head is authentic (R433, R434): its session, flow, header and payload, and the block once it is taken. -/
def Arrived (b : Block) (port q op : Nat) (x : Sess) (fl : Flow) (h : QHead) (p : List Byte) (c : Block) : Prop :=
  ∃ sealed tag, FrameAt b port q fl h sealed tag ∧ h.op = op ∧ sessTake false false fl h sealed tag (rxRelease (uFe port) q b) = (some (x, p), c)

/-- The first started command of a queue that has the opcode, the reeve executing commands (R443). -/
def Runs (b : Block) (q op : Nat) (c : Cmd) : Prop :=
  reeveRuns b = true ∧ (b.qcp.cmds.find? fun c => c.queue = q ∧ c.phase = .started ∧ entryOp c = op) = some c

/-- The vector commands with their VOP codes (Table 5.7). -/
def vectorCommands (t : Fin 64) (w : Fin 1024) (upset : Option Nat) (hits : List Strike) : List (Nat × Instr) :=
  [(0x01, .vecAdd t w upset hits), (0x02, .vecSub t w upset hits), (0x03, .vecMul t w upset hits), (0x04, .vecFma t w upset hits),
   (0x05, .vecMax t w upset hits), (0x06, .vecMin t w upset hits), (0x07, .vecAbs t w upset hits), (0x08, .vecNeg t w upset hits),
   (0x09, .vecCmpgt t w upset hits), (0x0A, .vecCmpeq t w upset hits), (0x0B, .vecMove t w upset hits), (0x0C, .vecRescale t w upset hits),
   (0x10, .vecExp t w upset hits), (0x11, .vecExp2 t w upset hits), (0x12, .vecLog t w upset hits), (0x13, .vecLog2 t w upset hits),
   (0x14, .vecRecip t w upset hits), (0x15, .vecRsqrt t w upset hits), (0x16, .vecSqrt t w upset hits), (0x17, .vecTanh t w upset hits),
   (0x18, .vecSigmoid t w upset hits), (0x19, .vecErf t w upset hits), (0x1A, .vecSin t w upset hits), (0x1B, .vecCos t w upset hits),
   (0x1C, .vecDiv t w upset hits), (0x20, .vecRsum t w upset hits), (0x21, .vecRsumsq t w upset hits), (0x22, .vecRmax t w upset hits),
   (0x23, .vecRmin t w upset hits), (0x24, .vecRamax t w upset hits), (0x30, .vecConv t w upset hits), (0x31, .vecWinnow t w upset hits),
   (0x32, .vecWiden t w upset hits)]

/-- The DMA commands with their DOP codes (Table 5.9). -/
def dmaCommands (t : Fin 64) (w : Fin 1024) (peers : List Peer) (hits : List Strike) : List (Nat × Instr) :=
  [(0, .dmaCopy t w peers hits), (1, .dmaGather t w peers hits), (2, .dmaScatter t w peers hits), (3, .dmaTranspose t w peers hits),
   (4, .dmaFill t w peers hits)]

/-- The memory-side atomics with their codes (Table 6.4). -/
def atomicCommands (u : Fin 8192) (job : Option (Fin 8)) (a v cmp : Nat) : List (Nat × Instr) :=
  [(0x01, .addI32 u job a v []), (0x02, .addI64 u job a v []), (0x03, .addF32 u job a v []), (0x04, .addBf16 u job a v []),
   (0x05, .maxS32 u job a v []), (0x06, .minS32 u job a v []), (0x07, .maxU32 u job a v []), (0x08, .minU32 u job a v []),
   (0x09, .maxS64 u job a v []), (0x0A, .minS64 u job a v []), (0x0B, .maxU64 u job a v []), (0x0C, .minU64 u job a v []),
   (0x0D, .maxF32 u job a v []), (0x0E, .minF32 u job a v []), (0x0F, .cas64 u job a v cmp [])]

end Sys2Proof.Machine
end

