-- ==== Sys2Proof/Certificates/Slice0/Obligations.lean ====
section
/-! DEFINITION. What the model is asked to satisfy. `Answers i s f` says that command `i` answers a next state: the block changed by `f`, the queue of
waiting commands as it was. -/

open Sys2Proof Sys2Proof.Machine

/-! ### The common face -/

/-- A write of a register whose field has no behaviour of its own sets the writable bits of an RW register, ignores an RO, RC or WO one, and is
answered OK (R15, R10); the common face's RW registers are among them.
A register access that is not of four bytes, or not aligned to four, fails with BAD_ARGUMENT and has no effect (R9); one to a missing unit's window fails with
NOT_PRESENT and is recorded in the ring of the unit that made it (R11, R25).
A read of the low word of a clear-on-read counter answers it, latches the high word and clears both words at once; the high word then reads
as latched (R12, R13). A counter of waits first gains the wait that nobody measured, a free value (log entry 59), LFT_CONFLICT only where the loft was
accessed since; a MAC's counters of holds and of low power idle first gain what has passed up to the read (R429).
The model's choices in log entries 26, 59, 63 stand behind it. -/
def Obligations.RegisterAccesses : Prop :=
  ((∀ (s : State) (wr u : Fin 8192) (fe : Bool) (o : Fin 0x100000) (v : Word) (r : RegRow),
      mainOn s.blk = true → o.val % 4 = 0 → o.val ≠ Off.unitReset → o.val ≠ Off.mbxCtrl → rowAt u o = some r →
      (o.val < 0x1_0000 ∨ kindOf u = some .qcp ∨ kindOf u = some .reeve ∨ kindOf u = some .gleaner) →
      (r.acc = .rw → Answers (.registerWrite ⟨4, wr⟩ fe u o v) s (fun b => answer .ok 0 (setReg u o (maskedWrite (reg b u o) v.toNat r.wmask) b))) ∧
      (r.acc = .ro ∨ r.acc = .rc ∨ r.acc = .wo → Answers (.registerWrite ⟨4, wr⟩ fe u o v) s (answer .ok 0))) ∧
    (∀ (s : State) (wr u : Fin 8192) (fe : Bool) (o : Fin 0x100000) (v : Word),
      (o.val % 4 ≠ 0 → Answers (.registerWrite ⟨4, wr⟩ fe u o v) s (answer .badArgument 0)) ∧
      (∀ width w mask, width ≠ 4 → ∀ i ∈ [Instr.registerWrite ⟨width, wr⟩ fe u o v, .counterLowRead ⟨width, wr⟩ u o, .rcRegisterRead ⟨width, wr⟩ u o,
        .sqRegisterWrite ⟨width, wr⟩ u o ⟨w, mask⟩], Answers i s (answer .badArgument 0)) ∧
      (o.val % 4 = 0 → mainOn s.blk = true → kindOf u = none →
        Answers (.registerWrite ⟨4, wr⟩ fe u o v) s (fun b => answer .notPresent 0 (raise wr .sysAddrFault ((u.val * 2 ^ 20 + o.val) % 2 ^ 32) b))))) ∧
  (∀ (s : State) (rdr u : Fin 8192) (o : Fin 0x100000) (r : RegRow),
    mainOn s.blk = true → isPairLo u o = true → rowAt u o = some r → r.acc = .rc → (isMacCounter u o = false ∨ rdr.val = uReeve) →
    u.val ≠ uTly →
    let w := macMeasures u o (addWaits u o s.blk)
    (isWaitCounter u o = false ∨ hasWaited u s.blk = false → isMacCounter u o = false → w = s.blk) ∧
    Answers (.counterLowRead ⟨4, rdr⟩ u o) s
      (fun _ => answer .ok (regValue w u o) (setReg u (o.val + 4) 0 (setReg u o 0 (setShadow u (o.val + 4) (reg w u (o.val + 4)) w)))) ∧
    ∀ c, exec (.counterLowRead ⟨4, rdr⟩ u o) s = .next { s with blk := c } → shadowOf c u (o.val + 4) = reg w u (o.val + 4))

/-! ### The thresher -/

/-- A started MMA reads its mask once and stands before its first live M-block, the blocks passed over counted (R96, R97); a started ZERO clears
exactly its accumulator tiles; a started DRAIN writes its live rows as FP32 (R98).
A thresher descriptor with an address at fault, or meeting another condition of Table 3.5, is done BAD_ARGUMENT, and no slot, accumulator or
loft byte changes (R91, R604).
A started LOADB fills its slot and is done OK (R81, R82); a loft word that cannot be corrected empties the slot and fails it.
A fill that meets nothing wrong reads its operands once, joins the fills in flight with the results of the dot products and steps to the next live
M-block; the oldest fill's results then reach their accumulator tile and the counters (R85, R86, R95, R97, R105).
A write of THR_CTRL sets its enables and limit, and sees whether the corrected residues have reached the limit: then once the tile becomes
DEGRADED, with the status bit and the event (R103).
The model's choices in log entries 6, 64 stand behind it. -/
def Obligations.Thresher : Prop :=
  ((∀ (s : State) (t : Fin 64) (w : Fin 1024) (hits : List Strike) (o : Op),
      mainOn s.blk = true → thrCheck t o (strike hits s.blk) = (true, strike hits s.blk) →
      (Started (strike hits s.blk) t w 1 0 o → (tileOf (strike hits s.blk) t).run = none →
        ∀ mask c, readMask t o.desc (strike hits s.blk) = (some mask, c) →
        Acts (.mma t w hits) s (fun _ => settleMma t o (setRun t (some ⟨o.k, (skipBlocks o.desc mask 16 0 0).1, mask, [], 0, 0⟩)
          (bump (uTile t) Off.thrSkippedLo (skipBlocks o.desc mask 16 0 0).2 c)))) ∧
      (Started (strike hits s.blk) t w 1 3 o →
        Acts (.zero t w hits) s (fun b => finishOp t o.k .ok (modTile t (fun x => { x with
          acc := x.acc.filter fun e => !(decide (mAcc o.desc * 1024 ≤ e.1) && decide (e.1 < mAcc o.desc * 1024 + mCount o.desc * 1024)) })
          (strike hits b)))) ∧
      (Started (strike hits s.blk) t w 1 2 o → ∀ mask c, readMask t o.desc (strike hits s.blk) = (some mask, c) →
        Acts (.drain t w hits) s (fun _ => finishOp t o.k (if (drainWrites t o.desc mask (tileOf s.blk t) c).1 then .ok else .opFailed)
          (drainWrites t o.desc mask (tileOf s.blk t) c).2))) ∧
    (∀ (s : State) (t : Fin 64) (w : Fin 1024) (hits : List Strike) (o : Op) (op : Nat) (i : Instr),
      (op, i) ∈ [(0, Instr.mma t w hits), (1, .loadb t w hits), (2, .drain t w hits), (3, .zero t w hits)] →
      mainOn s.blk = true → Started (strike hits s.blk) t w 1 op o → (tileOf (strike hits s.blk) t).run = none →
      (∀ f, operandFault (strike hits s.blk) t o.desc = some f →
        Acts i s (fun b => finishOp t o.k .badArgument
          (notify (uTile t) Fld.thrStatusOperand .thrOperandFault (o.k % 1024 * 2 ^ 16 + f) (strike hits b)))) ∧
      (operandFault (strike hits s.blk) t o.desc = none → thrBad (strike hits s.blk) t o.desc = true →
        Acts i s (fun b => finishOp t o.k .badArgument (strike hits b))))) ∧
  (∀ (s : State) (t : Fin 64) (w : Fin 1024) (hits : List Strike) (o : Op),
    mainOn s.blk = true → Started (strike hits s.blk) t w 1 1 o → thrCheck t o (strike hits s.blk) = (true, strike hits s.blk) →
    (∀ rows sc c d, loftReads t (bRanges o.desc) (strike hits s.blk) = (some rows, c) → loftReads t (bScaleRanges o.desc) c = (some sc, d) →
      Acts (.loadb t w hits) s (fun _ => finishOp t o.k .ok (setSlot t (mSlot o.desc) (some (slotFrom o.desc rows sc.flatten)) d))) ∧
    (∀ c, loftReads t (bRanges o.desc) (strike hits s.blk) = (none, c) →
      Acts (.loadb t w hits) s (fun _ => finishOp t o.k .opFailed (setSlot t (mSlot o.desc) none (loftReads t (bScaleRanges o.desc) c).2)))) ∧
  ((∀ (s : State) (t : Fin 64) (hits : List Strike) (starved : Bool) (o : Op) (r : MmaRun),
      mainOn s.blk = true → (tileOf s.blk t).run = some r → ((tileOf s.blk t).ops.find? fun p => p.k = r.k) = some o →
      (r.next < mCount o.desc → (tileOf s.blk t).thrStopped = false → (mAccin o.desc = 1 → ∀ f ∈ r.fills, f.j ≠ r.next) →
        ∀ sl rows sc cs c, slotOf (tileOf s.blk t) (mSlot o.desc) = some sl →
          fillReads t o.desc r.mask r.next (if starved && !mRef o.desc then bump (uTile t) Off.thrStarvedLo 1 (strike hits s.blk)
            else strike hits s.blk) = (some (rows, sc, cs), c) →
        Acts (.fill t .clean starved hits) s (fun _ => setRun t (some { r with
          next := (skipBlocks o.desc r.mask 16 (r.next + 1) 0).1
          fills := r.fills ++ [⟨r.next, fillOut o.desc sl r.mask (tileOf s.blk t) r.next rows sc cs⟩] })
          (bump (uTile t) Off.thrSkippedLo (skipBlocks o.desc r.mask 16 (r.next + 1) 0).2 c))) ∧
      (∀ f fs, r.fills = f :: fs → Acts (.fillResultWrite t) s (fun b => settleMma t o (writeFill t o.desc f b)))) ∧
    (∀ (s : State) (t : Fin 64) (v : Word),
      mainOn s.blk = true → (tileOf s.blk t).resOver = false →
      let b := setReg (uTile t) Off.thrCtrl (Nat.land v.toNat 0xFF03) s.blk
      let lim := fld b (uTile t) Fld.thrCtrlResLimit
      (lim = 0 ∨ reg s.blk (uTile t) Off.thrResTotal < lim →
        Acts (.thrCtrlWrite t v) s (fun _ => modTile t (fun x => { x with resOver := false }) b)) ∧
      (0 < lim ∧ lim ≤ reg s.blk (uTile t) Off.thrResTotal →
        Acts (.thrCtrlWrite t v) s (fun _ => notify (uTile t) Fld.thrStatusResLimit .thrResLimit (reg s.blk (uTile t) Off.thrResTotal)
          (degrade (uTile t) (modTile t (fun x => { x with resOver := true }) b))))))

/-! ### The tile sequencer -/

/-- TIL_CTRL acts where Table 5.1 lets it: START with the tile bound, STOP, CLEAR and TCLEAR; an action the state does not allow only sets CTRL_REJECT
(R141, R145, R153). A write of TIL_IDENT in IDLE binds the tile and clears its tokens. -/
def Obligations.TileControl : Prop := ∀ (s : State) (t : Fin 64) (v : Word), mainOn s.blk = true →
  ((tileOf s.blk t).stream = .idle → flag s.blk (uTile t) Fld.tilIdentBound = true → Acts (.tilStart t) s (startStream t)) ∧
  ((tileOf s.blk t).stream = .running → Acts (.tilStop t) s (fun b => cancelWaiting t (modTile t (fun x => { x with stream := .stopping }) b))) ∧
  ((tileOf s.blk t).stream = .ended ∨ ((tileOf s.blk t).stream = .faulted ∧ (tileOf s.blk t).ops = [] ∧ (tileOf s.blk t).lockstep = false) →
    Acts (.tilClear t) s (modTile t (fun x => { x with stream := .idle, ops := [] }))) ∧
  ((tileOf s.blk t).stream = .idle → Acts (.tclear t) s (modTile t (fun x => { x with tokens := [] }))) ∧
  ((tileOf s.blk t).stream = .idle → Acts (.tilIdentWrite t v) s
    (fun b => modTile t (fun x => { x with tokens := [] }) (setReg (uTile t) Off.tilIdent (Nat.land v.toNat 0xFFFF_0107) b))) ∧
  ((tileOf s.blk t).stream ≠ .idle → ∀ i ∈ [Instr.tilStart t, .tclear t, .tilIdentWrite t v], Acts i s (setSq (uTile t) Fld.tilStatusCtrlReject)) ∧
  ((tileOf s.blk t).stream ≠ .running → Acts (.tilStop t) s (setSq (uTile t) Fld.tilStatusCtrlReject))

/-- The sequencer issues the descriptor at its place, with the patches of its loops, into window slot k mod 1,024 and steps on; the operation waits in
its unit's queue (R149, R164). Beyond TIL_PROG_LEN the stream faults with BAD_ARGUMENT and nothing issues (R142).
The head of a unit queue starts when its wait, ORDERED and its unit allow it, and a token wait takes its count at that moment (R150, R154, R159);
every other token, operation and tile is as it was.
An operation whose work is done signals its completion when it is its queue's next in starting order (R151, R152); the last one of a reclaimed tile
lets its training stream be restored (R313), a version fault of a training job aborts (R332), and a FENCE that completes may lend its tile (R310).
The model's choices in log entries 64, 66 stand behind it. -/
def Obligations.OperationLife : Prop :=
  (∀ (s : State) (t : Fin 64) (hits : List Strike) (d : List Byte) (c : Block),
    mainOn s.blk = true → tileHeld s.blk t = false → mayIssue (tileOf s.blk t) = true →
    (nextDesc (strike hits s.blk) t = some d → isCop d 2 = false → (∀ o ∈ (tileOf s.blk t).ops, o.k % 1024 ≠ (tileOf s.blk t).issued % 1024) →
      ∀ line, granaryRead { tileIssuer (strike hits s.blk) t with program := false } (progBase (strike hits s.blk) t + 64 * (tileOf s.blk t).pc) 64
        (strike hits s.blk) = (.ok, line, c) →
      Acts (.descriptorIssue t hits) s (fun _ => setTile t { tileOf s.blk t with
        pc := (advance 4 ((tileOf s.blk t).pc + 1) (tileOf s.blk t).loops).1
        loops := (advance 4 ((tileOf s.blk t).pc + 1) (tileOf s.blk t).loops).2
        issued := (tileOf s.blk t).issued + 1
        winWait := false
        endIssued := isCop d 1
        ops := (tileOf s.blk t).ops ++ [⟨(tileOf s.blk t).issued, d, queueOf d, false, .waiting, 0⟩] } c)) ∧
    (fld s.blk (uTile t) Fld.tilProgLenLen ≤ (tileOf s.blk t).pc →
      Acts (.descriptorIssue t hits) s (fun b => streamFault t .badArgument 0 (tileOf s.blk t).issued 0 (strike hits b)))) ∧
  (∀ (s : State) (t : Fin 64) (uq : Fin 6) (o : Op),
    let x := tileOf s.blk t
    mainOn s.blk = true → tileHeld s.blk t = false → queueHead x uq = some o → x.stream = .running → x.lockstep = false →
    (x.thrStopped = true → uq.val ≠ 1 ∧ uq.val ≠ 2) → headerBad s.blk t o.desc = false → opDefined o.desc = true → unitAccepts x o = true → (needsOrder o.desc = true → earlierDone x o = true) →
    (∀ p ∈ x.ops, p.k = o.k → p = o) → (o.satisfied = true ∨ dWait o.desc = false ∨ waitReady x o = true) →
    AnswersWith (.operationStart t uq) s (fun b =>
      tileOf b t = { x with
        startCount := x.startCount + 1
        tokens := if o.satisfied || !dWait o.desc then x.tokens
          else x.tokens.put (dWaitTok o.desc) (x.tokens.get 0 (dWaitTok o.desc) - dWaitCnt o.desc)
        ops := x.ops.map fun p => if p.k = o.k then { o with
          phase := .started, order := x.startCount, satisfied := o.satisfied || dWait o.desc } else p } ∧
      (∀ t', t' ≠ t.val → tileOf b t' = tileOf s.blk t') ∧ b.face = s.blk.face ∧ b.grn.mem = s.blk.grn.mem)) ∧
  (∀ (s : State) (t : Fin 64) (uq : Fin 6) (o : Op) (st : Status),
    mainOn s.blk = true → nextToSignal (tileOf s.blk t) uq = some o → o.phase = .finished st →
    let done := fun (b : Block) => lendSettle t (completeOp t o st b)
    (st ≠ .versionFault → ¬ (isCop o.desc 3 = true ∧ st = .ok) → Acts (.operationComplete t uq) s done) ∧
    (st = .ok → isCop o.desc 3 = true → Acts (.operationComplete t uq) s (fun b => fenceLend t o.desc (done b))) ∧
    (st = .versionFault → ∀ j, tileJob s.blk t = some j → slotTrains (done s.blk) j = true →
      Acts (.operationComplete t uq) s (fun b => versionAbort j t (done b))))

/-- When an operation with SIGNAL = 1 completes with OK, the count of its token rises by one; a count of 65,535 stays and faults the stream (R155,
R156).
When an operation completes with a status other than OK, a running stream faults: TIL_FAULT keeps the first status, and every operation that had
not started is cancelled (R148, R161).
The model's choices in log entries 6, 66 stand behind it. -/
def Obligations.TokensAndFaults : Prop :=
  (∀ (s : State) (t : Fin 64) (uq : Fin 6) (o : Op), mainOn s.blk = true →
    nextToSignal (tileOf s.blk t) uq = some o → o.phase = .finished .ok → (tileOf s.blk t).lockstep = false → dSignal o.desc = true →
    dRemote o.desc = false →
    AnswersWith (.operationComplete t uq) s (fun b =>
      (tileOf b t).tokens.get 0 (dSigTok o.desc) = (if (tileOf s.blk t).tokens.get 0 (dSigTok o.desc) < 65535 then
        (tileOf s.blk t).tokens.get 0 (dSigTok o.desc) + 1 else (tileOf s.blk t).tokens.get 0 (dSigTok o.desc))) ∧
    ((tileOf s.blk t).tokens.get 0 (dSigTok o.desc) = 65535 → (tileOf s.blk t).stream = .running →
      AnswersWith (.operationComplete t uq) s (fun b => (tileOf b t).stream = .faulted))) ∧
  (∀ (s : State) (t : Fin 64) (uq : Fin 6) (o : Op) (st : Status), mainOn s.blk = true →
    nextToSignal (tileOf s.blk t) uq = some o → o.phase = .finished st → st ≠ .ok → statusCode st < 8 →
    (tileOf s.blk t).stream = .running →
    AnswersWith (.operationComplete t uq) s (fun b => (tileOf b t).stream = .faulted ∧ (∀ p ∈ (tileOf b t).ops, p.isWaiting = false) ∧
      reg b (uTile t) Off.tilFault = (if reg s.blk (uTile t) Off.tilFault = 0 then faultWord st (dClass o.desc) o.k (dTag o.desc) % 2 ^ 32
        else reg s.blk (uTile t) Off.tilFault)))

/-- A control operation at the head of its queue starts and, its work done, completes: NOP, FENCE and SIGNAL at once, END after the add at DONE_ADDR,
here or at another module (R159, R162); a LOOP opens its body, or faults the stream (R147, R164, R165).
The model's choices in log entries 66, 73 stand behind it. -/
def Obligations.ControlOperations : Prop := ∀ (s : State) (t : Fin 64) (hits : List Strike) (o p : Op), mainOn s.blk = true →
  (∀ (cop : Nat) (i : Instr), (cop, i) ∈ [(0, Instr.nop (.tile t)), (3, .fence t), (4, .signal t)] →
    queueHead (tileOf s.blk t) 0 = some o → isCop o.desc cop = true →
    ((tileOf (opStart t 0 s.blk) t).ops.find? fun q => q.queue == 0 && q.isStarted && isCop q.desc cop) = some p →
    Acts i s (fun b => opComplete t 0 (finishOp t p.k .ok (opStart t 0 b)))) ∧
  (queueHead (tileOf s.blk t) 0 = some o → isCop o.desc 1 = true →
    ((tileOf (opStart t 0 (strike hits s.blk)) t).ops.find? fun q => q.queue == 0 && q.isStarted && isCop q.desc 1) = some p →
    ∀ peers, Acts (.endOp t ⟨peers, hits⟩) s (fun b => opComplete t 0 (endAdd t peers p (opStart t 0 (strike hits b))))) ∧
  (∀ d, tileHeld s.blk t = false → mayIssue (tileOf s.blk t) = true → nextDesc s.blk t = some d → isCop d 2 = true →
    (headerBad s.blk t d = false → loopBad s.blk t (tileOf s.blk t) d = false →
      Acts (.loop t) s (modTile t (fun x => { x with
        pc := x.pc + 1, loops := ⟨x.pc + 1, dByte d 9, leAt d 12 4, 0, loopPatches d⟩ :: x.loops }))) ∧
    (headerBad s.blk t d = true ∨ loopBad s.blk t (tileOf s.blk t) d = true →
      Acts (.loop t) s (streamFault t .badArgument 0 (tileOf s.blk t).issued (dTag d))))

/-- A faulted stream that has drained raises TIL_OP_FAULT once (R161), and a serving tile's batch is abandoned (R308); a stopped one that has drained is IDLE again (R145); a lockstep disagreement
faults the stream and fails the tile (R146), and its training job withdraws; a remote signal raises its token, is rejected at a tile bound to another
job, and is held at a suspended one (R155, R157, R158); one for the job a tile is lent from calls the tile home (R312). -/
def Obligations.TileEvents : Prop := ∀ (s : State) (t : Fin 64), mainOn s.blk = true →
  ((tileOf s.blk t).stream = .faulted → (tileOf s.blk t).ops = [] → (tileOf s.blk t).faultTold = false →
    let told := fun (b : Block) => raise (uTile t) .tilOpFault (reg b (uTile t) Off.tilFault) (setTile t { tileOf b t with faultTold := true } b)
    ((s.blk.ctx.batches.find? fun x => x.tiles.contains t.val) = none → Acts (.tilOpFault t) s (fun b => streamFaultResponse t (told b))) ∧
    (∀ x, (s.blk.ctx.batches.find? fun x => x.tiles.contains t.val) = some x →
      Acts (.tilOpFault t) s (fun b => streamFaultResponse t (settleCloses (abandonBatch x (told b)))))) ∧
  ((tileOf s.blk t).stream = .stopping → (tileOf s.blk t).ops = [] →
    Acts (.streamStopDrained t) s (fun b => setTile t { tileOf b t with stream := .idle } b)) ∧
  ((s.blk.ctx.batches.find? fun x => x.tiles.contains t.val) = none →
    suspendedJob (tileLockstep t s.blk) t = none →
    (tileJob (tileLockstep t s.blk) t = none → Acts (.tilLockstep t) s (tileLockstep t)) ∧
    (∀ j, tileJob (tileLockstep t s.blk) t = some j → slotTrains (tileLockstep t s.blk) j = true →
      Acts (.tilLockstep t) s (fun b => withdraw j (tileLockstep t b)))) ∧
  (∀ (n : Nat) (g : RemoteSig), s.blk.til.signals[n]? = some (t.val, g) → absorbing s.blk (uTile t) = false →
    let took := fun (b : Block) => { b with til := { b.til with signals := b.til.signals.eraseIdx n } }
    (suspendedJob s.blk t = none → tileJob s.blk t = some g.job → Acts (.remoteSignalArrive n) s (fun b => callHome g.job t (took (tokenUp t g.tok b)))) ∧
    (suspendedJob s.blk t = none → tileJob s.blk t ≠ some g.job → Acts (.remoteSignalArrive n) s
      (fun b => callHome g.job t (took (notify (uTile t) Fld.tilStatusSigReject .tilSigReject (g.sender * 2 ^ 16 + g.job * 2 ^ 8 + g.tok) b)))) ∧
    (suspendedJob s.blk t = some g.job → (tileOf s.blk t).held.length < 64 → Acts (.remoteSignalArrive n) s
      (fun b => reclaim t (took (setTile t { tileOf b t with held := (tileOf b t).held ++ [g] } b)))))

/-! ### The vector unit -/

/-- Every started vector operation whose descriptor passes R174 reads its operands and writes what its VOP computes (R166, R167, Table 5.7): a
reduction or an element-wise operation its rows as FP32, WIDEN the widened elements with their counts (R171, R172), WINNOW the largest magnitude
into its register, CONV the converted codes (R122, R171).
A vector operation that meets a condition of R174 is done BAD_ARGUMENT and has no other effect.
The model's choices in log entries 3, 6, 32, 77 stand behind it. -/
def Obligations.VectorOperations : Prop :=
  (∀ (s : State) (t : Fin 64) (w : Fin 1024) (hits : List Strike) (o : Op) (vop : Nat) (i : Instr)
      (c d : Block) (as bs ds : List (List Nat)) (sc : List (List Byte)),
    (vop, i) ∈ vectorCommands t w none hits → mainOn s.blk = true → Started (strike hits s.blk) t w 2 vop o →
    vecBad (strike hits s.blk) t o.desc = false →
    vecReadEntries (strike hits s.blk) (fld (strike hits s.blk) (uTile t) Fld.tilIdentJob) o.desc = (true, c) →
    (vop = 0x30 → bitsOf (entryWord (strike hits s.blk) (fld (strike hits s.blk) (uTile t) Fld.tilIdentJob) (vScidx o.desc)) 19 16 = vTypeD o.desc) →
    vecReads t o.desc c = (some (as, bs, ds, sc), d) →
    (∀ r, dRegion o.desc = some r → vop ≠ 0x30 → vop ≠ 0x32 →
      let z := writeRows t r 32 (vecRows o.desc (vEadj o.desc - vecFold d (fld (strike hits s.blk) (uTile t) Fld.tilIdentJob) o.desc) as bs ds) d
      Acts i s (fun _ => finishOp t o.k (if z.1 then .ok else .opFailed) z.2)) ∧
    (∀ r, dRegion o.desc = some r → vop = 0x32 →
      let z := writeRows t r 32 ((widenRows o.desc as sc.flatten).map fun l => l.map (·.code)) d
      Acts i s (fun _ => finishOp t o.k (if z.1 then .ok else .opFailed) (countWidened t (widenRows o.desc as sc.flatten) z.2))) ∧
    (∀ r, dRegion o.desc = some r → vop = 0x30 → Acts i s (fun _ => runConv t o none as r d)) ∧
    (dRegion o.desc = none → Acts i s (fun _ => finishOp t o.k .ok (setReg (uTile t) (Off.vecWinnow (vWr o.desc))
      (winnowCode (amaxOf ((as.flatten).map fun c => f32 (toCode32 (vTypeA o.desc) c)))
        (-(vecFold d (fld (strike hits s.blk) (uTile t) Fld.tilIdentJob) o.desc))) d)))) ∧
  (∀ (s : State) (t : Fin 64) (w : Fin 1024) (upset : Option Nat) (hits : List Strike) (o : Op) (vop : Nat)
      (i : Instr), (vop, i) ∈ vectorCommands t w upset hits → mainOn s.blk = true → Started (strike hits s.blk) t w 2 vop o →
    vecBad (strike hits s.blk) t o.desc = true → Acts i s (fun b => finishOp t o.k .badArgument (strike hits b)))

/-- The element-wise results of Table 5.7 by value: ABS, NEG and MOVE keep the number and set its sign; the comparisons answer 1.0 or +0, and +0 with
a NaN; MAX and MIN do not depend on the order of their operands.
Every arithmetic result that is a NaN is the canonical one (R49, R167).
The model's choices in log entry 32 stand behind it. -/
def Obligations.ElementValues : Prop :=
  (∀ (k : Int) (a c d : Nat), a < 2 ^ 32 → c < 2 ^ 32 →
    f32 (vecElem 0x07 k a c d) = (f32 a).abs ∧
    f32 (vecElem 0x08 k a c d) = (f32 a).negate ∧
    f32 (vecElem 0x0B k a c d) = f32 a ∧
    (vecElem 0x09 k a c d = one32 ↔ (f32 c).lt (f32 a) = true) ∧
    (vecElem 0x09 k a c d = 0 ↔ (f32 c).lt (f32 a) = false) ∧
    (vecElem 0x0A k a c d = one32 ↔ (f32 a ≠ .nan ∧ f32 c ≠ .nan ∧ (f32 c).lt (f32 a) = false ∧ (f32 a).lt (f32 c) = false)) ∧
    vecElem 0x05 k a c d = vecElem 0x05 k c a d ∧ vecElem 0x06 k a c d = vecElem 0x06 k c a d) ∧
  (∀ (v : Nat) (k : Int) (a c d : Nat), v ∈ [0x01, 0x02, 0x03, 0x04, 0x05, 0x06, 0x07, 0x08, 0x0B, 0x0C, 0x1C] →
    a < 2 ^ 32 → isNan32 (vecElem v k a c d) = true → vecElem v k a c d = nan32)

/-! ### The DMA engines and the loft shares -/

/-- A started DMA operation of either engine whose descriptor and shares are good moves its rows in index order and is done OK; one with bad fields is
done BAD_ARGUMENT (R177 to R180).
A write of LFT_SHAREj sets the share, unless R186 rejects it: then the share stays, LFT_STATUS.SHARE_REJECT is set and LFT_SHARE_REJECT is
raised.
The model's choices in log entries 6, 73, 77 stand behind it. -/
def Obligations.DmaOperations : Prop :=
  (∀ (s : State) (t : Fin 64) (w : Fin 1024) (peers : List Peer) (hits : List Strike) (o : Op) (e dop : Nat)
      (i : Instr), (dop, i) ∈ dmaCommands t w peers hits → mainOn s.blk = true → e < 2 → Started (strike hits s.blk) t w (3 + e) dop o →
    s.blk.ctx.dmaRow.find (t.val * 2 ^ 40 + o.k) = none →
    (dmaFieldsBad o.desc = true → Acts i s (fun b => sendPages (finishOp t o.k .badArgument (strike hits b)))) ∧
    (∀ l c n d, dmaFieldsBad o.desc = false →
      (if (dop = 1 ∨ dop = 2) ∧ inShare (strike hits s.blk) t (fld (strike hits s.blk) (uTile t) Fld.tilIdentJob) (gList o.desc) (4 * gRows o.desc)
        then loftRead t (gList o.desc) (4 * gRows o.desc) (strike hits s.blk) else (some [], strike hits s.blk)) = (some l, c) →
      dmaSharesBad c t (fld (strike hits s.blk) (uTile t) Fld.tilIdentJob) o.desc = false →
      moveRows t e o peers (gRows o.desc) 0 c = (.moved, n, d) →
      Acts i s (fun _ => sendPages (finishOp t o.k .ok (modCtx (fun c => { c with dmaRow := c.dmaRow.drop (t.val * 2 ^ 40 + o.k) }) d))))) ∧
  (∀ (s : State) (t : Fin 64) (j : Fin 8) (v : Word), mainOn s.blk = true →
    (shareBad s.blk t j v.toNat = false → Acts (.lftShareWrite t j v) s (setReg (uTile t) (Off.lftShare j) (Nat.land v.toNat 0xC000_FF7F))) ∧
    (shareBad s.blk t j v.toNat = true → Acts (.lftShareWrite t j v) s (notify (uTile t) Fld.lftStatusShareReject .lftShareReject j)))

/-! ### The granary -/

/-- A read of granary lines with nothing wrong answers their bytes and changes no byte; narrow accesses are counted at the channel that serves them
(R203, R233). An access R286 does not
let through, by frame, table or range, answers NOT_PRESENT, is recorded in the issuer's ring, and reads and writes no byte. A read of a line whose bank a
gleaner's segment holds sees what that segment has committed (Table 7.5).
The model's choices in log entries 1, 62, 67, 71 stand behind it. -/
def Obligations.GranaryReads : Prop := ∀ (s : State) (u : Fin 8192) (job : Option (Fin 8)) (a n : Nat), mainOn s.blk = true →
  (granaryAllows s.blk (accessIssuer s.blk u (job.map Fin.val)) a n false = true →
    let c := releaseBanks a n s.blk
    (anySegment s.blk = false → c = s.blk) ∧
    ((∀ l ∈ linesOf a n, (servedAt c (64 * l)).isSome = true ∧ markOf c l = none) →
      Answers (.granaryRead u job a n []) s (fun _ => answer .ok (leNat (bytesAt c a n))
        (if n ≤ 32 ∧ a / 32 = (a + n - 1) / 32 then bump (uChannel (channelAt c a)) Off.grnChNarrowLo 1 c else c)))) ∧
  (granaryAllows s.blk (accessIssuer s.blk u (job.map Fin.val)) a n false = false →
    Answers (.granaryRead u job a n []) s (fun b => answer .notPresent 0 (raise u .sysAddrFault (a % 2 ^ 32) b))) ∧
  (∀ pl sg, 0 < n → a / 64 = (a + n - 1) / 64 → servedAt s.blk (64 * (a / 64)) = some pl → (glOf s.blk (bankGleaner pl.ch pl.bank)).seg = some sg →
    (sg.banks.find pl.bank).isSome = true → releaseBanks a n s.blk = commit (bankGleaner pl.ch pl.bank) true s.blk)

/-- A granary write that R286 lets through, to lines with nothing wrong, leaves its bytes in memory and every other byte as it was; a wholly written
line takes the tag the issuer supplies, or 0, and every other line keeps its tag (R194, R205). One that is not let through changes no byte. Where a
segment holds a bank of the range the write comes after its commit (Table 7.5).
The model's choices in log entries 1, 62, 65, 67, 71 stand behind it. -/
def Obligations.GranaryWrites : Prop := ∀ (s : State) (u : Fin 8192) (job : Option (Fin 8)) (a : Nat) (data : List Byte) (tag : Option Nat),
  mainOn s.blk = true → data ≠ [] →
  (granaryAllows s.blk (accessIssuer s.blk u (job.map Fin.val)) a data.length true = true →
    let c := releaseBanks a data.length s.blk
    (anySegment s.blk = false → c = s.blk) ∧
    ((∀ l ∈ linesOf a data.length, (servedAt c (64 * l)).isSome = true ∧ markOf c l = none) →
      AnswersWith (.granaryWrite u job a data tag []) s (fun b =>
        b.face.replies = s.blk.face.replies ++ [⟨.ok, 0⟩] ∧
        (∀ x, byteAt b x = if a ≤ x ∧ x < a + data.length then data.getD (x - a) 0 else byteAt c x) ∧
        (∀ l, b.grn.ltag.get 0 l = if a ≤ 64 * l ∧ 64 * l + 64 ≤ a + data.length then tag.getD 0 else c.grn.ltag.get 0 l) ∧
        b.ctx = s.blk.ctx ∧ b.til = s.blk.til ∧ b.gln = c.gln ∧ b.trn = s.blk.trn))) ∧
  (granaryAllows s.blk (accessIssuer s.blk u (job.map Fin.val)) a data.length true = false →
    Answers (.granaryWrite u job a data tag []) s (fun b => answer .notPresent 0 (raise u .sysAddrFault (a % 2 ^ 32) b)))

/-- A memory-side atomic at an aligned offset of a line with nothing wrong stores the result of Table 6.4, answers the old value, and changes no
other byte (R206): each of the fifteen, first where no gleaner has a segment open. Where a segment holds the bank it comes after the segment's commit
(Table 7.5).
A training job's ADD_F32 or ADD_BF16 is rejected with BAD_ARGUMENT: no byte changes, GRN_CH_STATUS.ATOMIC_REJECT is set and GRN_ATOMIC_REJECT is
raised (R207). A misaligned atomic is rejected too.
The model's choices in log entries 62, 63, 67, 71 stand behind it. -/
def Obligations.Atomics : Prop :=
  (∀ (s : State) (u : Fin 8192) (job : Option (Fin 8)) (a v cmp code n : Nat) (i : Instr),
    (code, n, i) ∈ [(0x01, 4, Instr.addI32 u job a v []), (0x02, 8, .addI64 u job a v []), (0x03, 4, .addF32 u job a v []),
      (0x04, 2, .addBf16 u job a v []), (0x05, 4, .maxS32 u job a v []), (0x06, 4, .minS32 u job a v []), (0x07, 4, .maxU32 u job a v []),
      (0x08, 4, .minU32 u job a v []), (0x09, 8, .maxS64 u job a v []), (0x0A, 8, .minS64 u job a v []), (0x0B, 8, .maxU64 u job a v []),
      (0x0C, 8, .minU64 u job a v []), (0x0D, 4, .maxF32 u job a v []), (0x0E, 4, .minF32 u job a v [])] ∧ cmp = 0 ∨
      code = 0x0F ∧ n = 8 ∧ i = .cas64 u job a v cmp [] →
    mainOn s.blk = true → anySegment s.blk = false → a % n = 0 →
    ¬ ((code = 0x03 ∨ code = 0x04) ∧ (accessIssuer s.blk u (job.map Fin.val)).train = true) →
    granaryAllows s.blk (accessIssuer s.blk u (job.map Fin.val)) a n true = true → (servedAt s.blk a).isSome = true → markOf s.blk (a / 64) = none →
    let c := uChannel (channelAt s.blk a)
    Answers i s (fun b => answer .ok (numAt b a n) (bump c Off.grnChAtomicLo 1 (poke a
      (leBytes n (atomicResult code (numAt b a n) (v % 2 ^ (8 * n)) cmp)) (bump c Off.grnChNarrowLo 1 b))))) ∧
  (∀ (s : State) (u : Fin 8192) (job : Option (Fin 8)) (a v cmp code n : Nat) (i : Instr),
    (code, i) ∈ atomicCommands u job a v cmp → mainOn s.blk = true → (code ≠ 0x0F → cmp = 0) → atomicSize code = some n → a % n = 0 →
    ¬ ((code = 0x03 ∨ code = 0x04) ∧ (accessIssuer s.blk u (job.map Fin.val)).train = true) →
    granaryAllows s.blk (accessIssuer s.blk u (job.map Fin.val)) a n true = true →
    let d := releaseBanks a n s.blk
    let u := uChannel (channelAt d a)
    (servedAt d a).isSome = true → markOf d (a / 64) = none →
    Answers i s (fun _ => answer .ok (numAt d a n) (bump u Off.grnChAtomicLo 1
      (poke a (leBytes n (atomicResult code (numAt d a n) (v % 2 ^ (8 * n)) cmp)) (bump u Off.grnChNarrowLo 1 d)))) ∧
    (∀ c x, exec i s = .next c → (x < a ∨ a + n ≤ x) → byteAt c.blk x = byteAt d x) ∧ (anySegment s.blk = false → d = s.blk)) ∧
  (∀ (s : State) (u : Fin 8192) (job : Option (Fin 8)) (a v code n : Nat) (i : Instr),
    (code, i) ∈ atomicCommands u job a v 0 → mainOn s.blk = true → atomicSize code = some n →
    (a % n ≠ 0 → Answers i s (answer .badArgument 0)) ∧
    (a % n = 0 → code = 0x03 ∨ code = 0x04 → (accessIssuer s.blk u (job.map Fin.val)).train = true →
      Answers i s (fun b => answer .badArgument 0 (notify (uChannel (channelAt b a)) Fld.grnChStatusAtomicReject .grnAtomicReject
        (u.val * 2 ^ 16 + (job.map Fin.val).getD 0 * 2 ^ 8 + code) b))))

/-- The integer atomics leave the same value in either order of two operands: the memory they leave does not depend on the order in which they
arrive (R206, R207). -/
def Obligations.AtomicOrder : Prop := ∀ (code n old v w : Nat), code ∈ [0x01, 0x02, 0x05, 0x06, 0x07, 0x08, 0x09, 0x0A, 0x0B, 0x0C] →
  atomicSize code = some n → old < 2 ^ (8 * n) → v < 2 ^ (8 * n) → w < 2 ^ (8 * n) →
  atomicResult code (atomicResult code old v 0) w 0 = atomicResult code (atomicResult code old w 0) v 0

/-- Every granary offset has one home: the offset homed at the channel and place R201 gives an offset is that offset, in interleaved and in
stack-local groups. -/
def Obligations.OneHome : Prop := ∀ (b : Block) (a : Nat), a < granarySize →
  addrHomed b (homeOf b a).ch (homeOf b a).p = a ∧ (homeOf b a).ch < 512 ∧ (homeOf b a).p < 2 ^ 33 ∧ (homeOf b a).bank < 16 ∧ (homeOf b a).row < 2 ^ 18

/-- The channel controllers' standing work: a patrol read steps to the next line and counts a correction, the last line of a pass raises
GRN_SCRUB_PASS (R199); a refresh of a busy bank is postponed up to eight times, else all owed are done (R209, R210); a calibration task runs piece
by piece and its result is recorded (R212, R214); a temperature more than 5 °C from the last centring runs both centrings (R213). What meets a bank that
a segment holds waits for its commit, a refresh is postponed (Table 7.5).
The model's choices in log entries 62, 71 stand behind it. -/
def Obligations.ChannelService : Prop := ∀ (s : State) (ch : Fin 512) (hits : List Strike), mainOn s.blk = true →
  channelWorks s.blk ch = true → s.blk.grn.selfRef = false →
  (∀ m k, let l := addrServed (strike hits s.blk) ch (64 * s.blk.grn.scrubPos.get 0 ch) / 64
    let d := releaseBanks (64 * l) 64 (strike hits s.blk)
    markOf d l = m → k ≤ 1 → (k = 1 ↔ m = some .corr ∨ ∃ n ≤ 2, m = some (.transient n)) →
    let c := (readLine l d).2
    (s.blk.grn.scrubPos.get 0 ch + 1 < 2 ^ 27 → Acts (.patrolScrubRead ch hits) s (fun b => { c with grn := { c.grn with
      scrubPos := c.grn.scrubPos.put ch (b.grn.scrubPos.get 0 ch + 1), scrubCorr := c.grn.scrubCorr.put ch (c.grn.scrubCorr.get 0 ch + k) } })) ∧
    (s.blk.grn.scrubPos.get 0 ch + 1 = 2 ^ 27 → Acts (.patrolScrubRead ch hits) s (fun _ =>
      raise (uChannel ch) .grnScrubPass (min 0xFFFF_FFFF (c.grn.scrubCorr.get 0 ch + k)) { c with grn := { c.grn with
        scrubPos := c.grn.scrubPos.put ch 0, scrubCorr := c.grn.scrubCorr.put ch 0 } }))) ∧
  (∀ bank : Fin 16, (s.blk.grn.refPost.get 0 (ch.val * 16 + bank.val) < 8 → Acts (.refresh ch bank true) s (fun b => { b with grn := { b.grn with
      refPost := b.grn.refPost.put (ch.val * 16 + bank.val) (b.grn.refPost.get 0 (ch.val * 16 + bank.val) + 1) } })) ∧
    (s.blk.grn.refPost.get 0 (ch.val * 16 + bank.val) < 8 → bankHeld s.blk (bankGleaner ch bank) bank = true → Acts (.refresh ch bank false) s
      (fun b => { b with grn := { b.grn with
        refPost := b.grn.refPost.put (ch.val * 16 + bank.val) (b.grn.refPost.get 0 (ch.val * 16 + bank.val) + 1) } })) ∧
    (bankHeld s.blk (bankGleaner ch bank) bank = false → Acts (.refresh ch bank false) s (fun b => { b with grn := { b.grn with
      refPost := b.grn.refPost.put (ch.val * 16 + bank.val) 0
      refDone := b.grn.refDone.put (ch.val * 16 + bank.val)
        (b.grn.refDone.get 0 (ch.val * 16 + bank.val) + b.grn.refPost.get 0 (ch.val * 16 + bank.val) + 1) } }))) ∧
  (∀ (task : Fin 4) (good : Bool), 0 < s.blk.grn.calRun.get 0 (ch.val * 4 + task.val) ∨ 0 < (s.blk.grn.cal.get ⟨0, 0⟩ (ch.val * 4 + task.val)).fails ∨
      (s.blk.grn.cal.get ⟨0, 0⟩ (ch.val * 4 + task.val)).last + calInterval task ≤ s.blk.face.time →
    (s.blk.grn.calRun.get 0 (ch.val * 4 + task.val) + 1 < calPieces task → Acts (.calibrationPiece ch task good) s (fun b =>
      let c := releaseChannel ch b
      { c with grn := { c.grn with calRun := c.grn.calRun.put (ch.val * 4 + task.val) (b.grn.calRun.get 0 (ch.val * 4 + task.val) + 1) } })) ∧
    (calPieces task ≤ s.blk.grn.calRun.get 0 (ch.val * 4 + task.val) + 1 → Acts (.calibrationPiece ch task good) s
      (fun b => calResult ch task good (releaseChannel ch b)))) ∧
  (∀ (temp : Fin 256) (rg wg : Bool), let c := { s.blk with grn := { s.blk.grn with dieTemp := s.blk.grn.dieTemp.put ch temp.val } }
    (tempGap temp (s.blk.grn.centredAt.get 0 ch) ≤ 5 → Acts (.centringTempTrigger ch temp rg wg) s (fun _ => c)) ∧
    (5 < tempGap temp (s.blk.grn.centredAt.get 0 ch) → Acts (.centringTempTrigger ch temp rg wg) s (fun _ => calResult ch 2 wg (calResult ch 1 rg (releaseChannel ch c)))))

/-- A write of a group's mode register takes effect when no group it changes holds an allocated page, what its cells hold being then found at the
offsets the new mode places there (R201), and is rejected whole otherwise (R202);
GRN_CH_REPAIR asks for a row's repair; a repair uses a spare row of the bank, counts against the stack's limit and is recorded (R227, R541), and
without a spare is refused with its pages retired (R228); a failed, silent or worn channel is retired (R231).
The model's choices in log entries 62, 67, 77 stand behind it. -/
def Obligations.GroupsAndRepair : Prop := ∀ (s : State) (ch : Fin 512) (hi : Bool) (v : Word) (hits : List Strike), mainOn s.blk = true →
  ((∀ g < 32, bitOf (reg s.blk uChip (if hi then Off.grnLocalHi else Off.grnLocalLo)) g ≠ bitOf v.toNat g →
      groupHolds s.blk (if hi then 32 + g else g) = false) →
    Acts (.grnLocalWrite hi v) s (fun b => replaceGroups (((List.range 32).filter fun g =>
        bitOf (reg b uChip (if hi then Off.grnLocalHi else Off.grnLocalLo)) g != bitOf v.toNat g).map fun g => if hi then 32 + g else g) b
      (setReg uChip (if hi then Off.grnLocalHi else Off.grnLocalLo) v.toNat b))) ∧
  (∀ g < 32, bitOf (reg s.blk uChip (if hi then Off.grnLocalHi else Off.grnLocalLo)) g ≠ bitOf v.toNat g →
    groupHolds s.blk (if hi then 32 + g else g) = true →
    (∀ g' < g, bitOf (reg s.blk uChip (if hi then Off.grnLocalHi else Off.grnLocalLo)) g' = bitOf v.toNat g') →
    Acts (.grnLocalWrite hi v) s (notify uChip Fld.grnStatusLocalReject .grnLocalReject (if hi then 32 + g else g))) ∧
  (bitOf v.toNat 31 = true → (ch.val, bitsOf v.toNat 21 18, bitsOf v.toNat 17 0) ∉ s.blk.grn.repairReq →
    Acts (.grnChRepairWrite ch v) s (fun b => { b with grn := { b.grn with
      repairReq := b.grn.repairReq ++ [(ch.val, bitsOf v.toNat 21 18, bitsOf v.toNat 17 0)] } })) ∧
  (∀ bank row, (s.blk.grn.repairReq.find? fun q => q.1 = ch.val) = some (ch.val, bank, row) → channelWorks (strike hits s.blk) ch = true →
    (∀ k < 2, s.blk.grn.spare.find (ch.val * 32 + bank * 2 + k) = none → (∀ k' < k, s.blk.grn.spare.find (ch.val * 32 + bank * 2 + k') ≠ none) →
      s.blk.grn.mapUsed.get 0 (ch.val % 32) < 1024 →
      AnswersWith (.rowRepair ch hits) s (fun b => b.grn.mapUsed = s.blk.grn.mapUsed.put (ch.val % 32) (s.blk.grn.mapUsed.get 0 (ch.val % 32) + 1) ∧
        b.grn.spare = s.blk.grn.spare.put (ch.val * 32 + bank * 2 + k) row ∧ (ch.val, bank, row) ∉ b.grn.repairReq)) ∧
    (s.blk.grn.spare.find (ch.val * 32 + bank * 2) ≠ none → s.blk.grn.spare.find (ch.val * 32 + bank * 2 + 1) ≠ none →
      Answers (.rowRepair ch hits) s (fun b => repairRefused 1 ch bank row (releaseBank ch bank (strike hits { b with grn := { b.grn with
        repairReq := b.grn.repairReq.filter (· != (ch.val, bank, row)) } }))))) ∧
  (∀ silent, retirementOf s.blk ch = none → silent = true ∨ s.blk.grn.chFailed.contains ch.val = true ∨ 256 < (s.blk.grn.chRetRows.get [] ch).length →
    s.blk.grn.retired.length < 8 →
    AnswersWith (.grnChannelRetired ch silent) s (fun b => (retirementOf b ch).isSome = true ∧ ownOf b (uChannel ch) = hFailed ∧
      b.grn.retired.length = s.blk.grn.retired.length + 1))

/-- A harvest pass: RUN reads the header and starts at entry 0 (R217); an entry whose gate is open and that passes Table 6.8 starts (R217), calling back
its tile if that is lent (R312), and is late from the moment a queue's head began to wait for its token (R225); the earliest-started entry lands its bytes in its tile's loft and signals (R218, R220); STOP ends the pass once nothing is in
progress (R222).
The model's choices in log entries 6, 23, 73 stand behind it. -/
def Obligations.Harvests : Prop := ∀ (s : State) (f : Fin 4) (j : Fin 8) (hits : List Strike) (c : Block) (bytes : List Byte), mainOn s.blk = true →
  (trnOf s.blk j).failed = none →
  ((harvestOf s.blk f j).phase = .idle →
    granaryRead (hrvIssuer (strike hits s.blk) f j) (hrvBase (strike hits s.blk) f j) 128 (strike hits s.blk) = (.ok, bytes, c) →
    0 < leAt bytes 0 4 → leAt bytes 0 4 ≤ 0x10_0000 →
    Acts (.hrvRun f j hits) s (fun _ => setHarvest f j ⟨.running, leAt bytes 0 4, bytes.drop 64, 0, [], false⟩ c)) ∧
  ((harvestOf s.blk f j).phase = .running → (harvestOf s.blk f j).prog = [] →
    Acts (.hrvStop f j) s (fun b => setHarvest f j { harvestOf b f j with phase := .idle, stopped := false }
      (setHarvest f j { harvestOf b f j with stopped := true } b))) ∧
  (let h := harvestOf s.blk f j
   let d := fld s.blk (hrvUnit f) Fld.grnHrvCtrlDepth j
   let t := (h.tmap.getD ((bytes.getD 16 0).toNat % 64) 0).toNat % 64
   let b := callHome j t c
   h.phase = .running → h.stopped = false → h.next < h.count → h.prog.length < (if d = 0 then 1 else min d 16) →
    granaryRead (hrvIssuer (strike hits s.blk) f j) (hrvBase (strike hits s.blk) f j + 128 + 32 * h.next) 32 (strike hits s.blk) = (.ok, bytes, c) →
    hrvEntryBad c j h bytes = false → (bytes.getD 18 0).toNat = 0 →
    Acts (.hrvEntryStart f j hits) s (fun _ => setHarvest f j { h with next := h.next + 1, prog := h.prog ++
      [⟨h.next, leAt bytes 0 8, leAt bytes 8 4, t, leAt bytes 12 4, bitOf (bytes.getD 22 0).toNat 0, (bytes.getD 19 0).toNat,
        if bitOf (bytes.getD 22 0).toNat 0 then awaitedSince b t (bytes.getD 19 0).toNat else none⟩] } b)) ∧
  (∀ (cause : Fin 8) (peers : List Peer) (r : HrvRun) (rest : List HrvRun), let h := harvestOf s.blk f j
    h.prog = r :: rest → tileAway s.blk j r.tile = false → r.lateSince = none → h.phase = .running → h.stopped = false → h.next < h.count →
    devRead (hrvIssuer (strike hits s.blk) f j) peers r.src r.bytes (strike hits s.blk) = (.ok, bytes, c) → absorbing c (uTile r.tile) = false →
    ∀ d, loftWrite r.tile r.dst bytes (setHarvest f j { h with prog := rest } c) = (true, d) →
    Acts (.hrvEntryLand f j cause peers hits) s (fun _ => hrvSettle f j (if r.land then { d with til := { d.til with
      signals := d.til.signals ++ [(r.tile, ⟨r.landTok, j.val, hrvUnit f⟩)] } } else d)))

/-! ### The gleaners -/

/-- LAUNCH starts every named gleaner in service: it is READY at the entry with the launch registers, its exact accumulator, CSRs and pending counts
cleared and its scratch as it was; the result says how many started (R244). A busy gleaner, a closed region or a mask with none in service rejects the
launch whole (R245). ABORT stops the job's gleaners of the stack (R249). -/
def Obligations.Launches : Prop := ∀ (s : State) (st : Fin 32), mainOn s.blk = true →
  let mask := maskBits s.blk st
  let job := bitsOf (reg s.blk (uStack st) Off.grnGlIdent) 10 8
  (mask ≠ [] → (∀ k < 128, glWorks s.blk (128 * st + k) = true) → (∀ k ∈ mask, (glOf s.blk (128 * st + k)).run = .idle) →
    regionOpen s.blk st (reg s.blk (uStack st) Off.grnGlEntry) job = true →
    AnswersWith (.launch st) s (fun b =>
      (∀ k ∈ mask, (glOf b (128 * st + k)).run = .ready ∧ (glOf b (128 * st + k)).core.pc = reg s.blk (uStack st) Off.grnGlEntry ∧
        (glOf b (128 * st + k)).launch.job = job ∧ (glOf b (128 * st + k)).exact' = ⟨0, false, false, false⟩ ∧
        (glOf b (128 * st + k)).pend = ⟨0, 0, 0, 0⟩ ∧ (glOf b (128 * st + k)).scratch = (glOf s.blk (128 * st + k)).scratch) ∧
      (∀ g, (∀ k ∈ mask, g ≠ 128 * st + k) → glOf b g = glOf s.blk g) ∧
      reg b (uStack st) Off.grnGlResult = mask.length ∧ b.grn = s.blk.grn ∧ b.til = s.blk.til)) ∧
  (∀ k ∈ mask, glWorks s.blk (128 * st + k) = true → (glOf s.blk (128 * st + k)).run ≠ .idle →
    AnswersWith (.launch st) s (fun b => b.gln = s.blk.gln ∧ bitOf (reg b (uStack st) Off.grnGlResult) 31 = true)) ∧
  AnswersWith (.abort st) s (fun b => ∀ k < 128,
    ((glOf s.blk (128 * st + k)).run ≠ .idle ∧ (glOf s.blk (128 * st + k)).launch.job = job →
      (glOf b (128 * st + k)).run = .idle ∧ (glOf b (128 * st + k)).seg = none ∧ (128 * st + k) ∉ (grantsOf b st).order) ∧
    (¬ ((glOf s.blk (128 * st + k)).run ≠ .idle ∧ (glOf s.blk (128 * st + k)).launch.job = job) →
      glOf b (128 * st + k) = glOf s.blk (128 * st + k)))

/-- A free grant goes to the next waiting gleaner in rotation, never past min(CAP, TLYCAP) (R269); a quantum that is over, and a cap that falls below
the grants held, make holders give up at their next commit (R270, R271); more grants than TLYCAP stop the stack's grants and fail it (R272). -/
def Obligations.Grants : Prop := ∀ (s : State) (st : Fin 32) (g : Fin 4096), mainOn s.blk = true →
  (∀ n, (grantsOf s.blk st).isOver = false → (grantsOf s.blk st).order.length < grantCap s.blk st → nextToGrant s.blk st = some n →
    Acts (.grantIssue st) s (fun b => setGrants st { grantsOf b st with order := (grantsOf b st).order ++ [n], last := n % 128 }
      (modGl n (fun x => { x with run := .running, grantAt := some b.face.time, giveUp := false })
        (bump (uGleaner n) Off.glnGrantNsLo ((b.face.time - (glOf b n).waitFrom) * 1000) b)))) ∧
  (∀ t0, (glOf s.blk g).grantAt = some t0 → t0 + max 1 (fld s.blk (uStack (glStack g)) Fld.grnGrCtrlQuantum) * 10 ≤ s.blk.face.time →
    (nextToGrant s.blk (glStack g)).isSome = true → Acts (.grantQuantumExpire g) s (modGl g (fun x => { x with giveUp := true }))) ∧
  (∀ cap : Fin 256, (grantsOf s.blk st).order.length ≤ min 32 cap.val →
    Acts (.tlycapChange st cap) s (setFld (uStack st) Fld.grnGrStateTlycap (min 32 cap.val))) ∧
  (∀ (cap : Fin 256) (l : List Nat) (n : Nat), (grantsOf s.blk st).order = l ++ [n] → l.length = min 32 cap.val →
    Acts (.tlycapChange st cap) s (fun b => modGl n (fun x => { x with giveUp := true }) (setFld (uStack st) Fld.grnGrStateTlycap (min 32 cap.val) b))) ∧
  (∀ count : Fin 256, fld s.blk (uStack st) Fld.grnGrStateTlycap < count.val →
    AnswersWith (.glnGrantOver st count) s (fun b => (grantsOf b st).isOver = true ∧ ownOf b (uStack st) = hFailed ∧
      ∀ n ∈ (grantsOf s.blk st).order, (glOf b n).giveUp = true)) ∧
  ((grantsOf s.blk st).isOver = true → nextToGrant s.blk st ≠ none → Acts (.grantIssue st) s id)

/-- The row-stream instructions of a running gleaner (Table 7.3): rs.open takes the mask and answers the positions to visit, rs.next steps on, rs.get,
rs.put, rs.fget, rs.fput and rs.amo move their bytes and go on when they complete OK; a get or put that meets a full segment commits it first and stands
PAUSED where that gives the grant up (R264, R270), one whose bank waits for a repair, or whose staged form finds no room, does nothing yet (R266, R333),
and one that fails ends the run with a fault, a training job answering the line that failed it (R464); rs.end commits the open segment, rs.exit commits,
merges and makes the done add, and a put that fails at a commit ends the run (R248, R250, R253 to R255, R264).
The model's choices in log entries 10, 62, 68, 73 stand behind it. -/
def Obligations.RowStreams : Prop := ∀ (s : State) (g : Fin 4096) (w len : Nat) (peers : List Peer) (hits : List Strike) (c : Block),
  let x := glOf s.blk g
  let r1 := x.core.getX (iRs1 w)
  let r2 := x.core.getX (iRs2 w)
  let ends := runAnswered g x
  mainOn s.blk = true → unitHeld s.blk (uGleaner g) = false → x.run = .running → x.putFail = none → fetch x = .inr (some w, len) →
  (kindOfInstr w = .rsOpen → openBad s.blk x (r1.toNat % 16) = false → Acts (.rsOpen g) s (fun b => ends (advancePc g len (setRd g (iRd w)
    (BitVec.ofNat 32 (visitList b x g).length) (setGl g { x with opened := r1.toNat % 16, visits := visitList b x g } b))))) ∧
  (kindOfInstr w = .rsNext → Acts (.rsNext g) s (fun b => ends (advancePc g len (setRd g (iRd w) (if x.visits.tail.isEmpty then 0 else 1)
    (setGl g { x with visits := x.visits.tail } b))))) ∧
  (∀ (isGet : Bool) (i : Instr), (kindOfInstr w = .rsGet ∧ isGet = true ∧ i = .rsGet g hits ∨ kindOfInstr w = .rsPut ∧ isGet = false ∧ i = .rsPut g hits) →
    let b := makeRoom g (r1.toNat % 4) isGet (strike hits s.blk)
    let waits := bankWaits g (r1.toNat % 4) b || !isGet && stageWaits g (r1.toNat % 4) r2.toNat b
    ((glOf b g).run ≠ .running ∨ waits = true → Acts i s (fun _ => ends b)) ∧
    ((glOf b g).run = .running → waits = false →
      (if isGet then rsGet g (r1.toNat % 4) r2.toNat b else rsPut g (r1.toNat % 4) r2.toNat b) = (.ok, c) →
      Acts i s (fun _ => ends (advancePc g len c))) ∧
    (∀ st, st ≠ .ok → (glOf b g).run = .running → waits = false →
      (if isGet then rsGet g (r1.toNat % 4) r2.toNat b else rsPut g (r1.toNat % 4) r2.toNat b) = (st, c) →
      Acts i s (fun _ => ends (runFault g st c)))) ∧
  (kindOfInstr w = .rsFget → rsFget g (farAddr x r1) r2.toNat peers (strike hits s.blk) = (.ok, c) →
    Acts (.rsFget g peers hits) s (fun _ => ends (advancePc g len c))) ∧
  (kindOfInstr w = .rsFput → rsFput g (farAddr x r1) r2.toNat peers (strike hits s.blk) = (.ok, c) →
    Acts (.rsFput g peers hits) s (fun _ => ends (advancePc g len c))) ∧
  (kindOfInstr w = .rsAmo → rsAmo g (iF7 w) (farAddr x r1) r2.toNat peers (strike hits s.blk) = (.ok, c) →
    Acts (.rsAmo g peers hits) s (fun _ => ends (advancePc g len c))) ∧
  (kindOfInstr w = .rsEnd → let d := commit g false (strike hits s.blk)
    ((glOf d g).putFail = none → Acts (.rsEnd g hits) s (fun _ => ends (advancePc g len d))) ∧
    ((glOf d g).putFail ≠ none → Acts (.rsEnd g hits) s (fun _ => ends (putFault g d)))) ∧
  (kindOfInstr w = .rsExit →
    let d := commit g false (modGl g (fun x => { x with giveUp := false }) (strike hits s.blk))
    ((glOf d g).putFail ≠ none → Acts (.rsExit g hits) s (fun _ => ends (putFault g d))) ∧
    ((glOf d g).putFail = none → mergePending g (cvScidx (glOf d g)) d = (.ok, c) → Acts (.rsExit g hits) s (fun _ => ends (dropGrant g
      (modGl g (fun y => { y with run := .idle, opened := 0, visits := [], failed := none }) (doneAdd (glOf c g) (uGleaner g) 0 c))))))

/-- The CSR instructions write the writable bits and answer the old value (R276), RS_CONV2 with another SCIDX after the pending counts have merged
(R262); an ordinary RV32IMAFC instruction does what that architecture says (R240); an illegal one ends the run with BAD_ARGUMENT and adds to the
done block's second count (R242, R247).
A bank held for 1 µs forces the segment's commit (R264), and a put that fails there ends the run; a lockstep disagreement discards the segment, fails the gleaner and ends its run with no
further merge (R243).
The model's choices in log entries 10, 31 stand behind it. -/
def Obligations.CoreInstructions : Prop :=
  (∀ (s : State) (g : Fin 4096) (w len : Nat) (hits : List Strike) (c : Block),
    let x := glOf s.blk g
    mainOn s.blk = true → unitHeld s.blk (uGleaner g) = false → x.run = .running → x.putFail = none → fetch x = .inr (some w, len) →
    (x.launch.train = true → (trnOf s.blk x.launch.job).failed = none) →
    (∀ mask v, kindOfInstr w = .csr → csrMask (w / 2 ^ 20) = some mask → csrAccess x w (csrRead x (w / 2 ^ 20)) = some v →
      Acts (.glnCsrWrite g) s (fun b => advancePc g len (setRd g (iRd w) (BitVec.ofNat 32 (csrRead x (w / 2 ^ 20)))
        (modGl g (setCsr (w / 2 ^ 20) (maskedWrite (glCsr x (w / 2 ^ 20)) v mask)) b)))) ∧
    (∀ v, kindOfInstr w = .conv2 → csrAccess x w (csrRead x 0x7D2) = some v → maskedWrite (glCsr x 0x7D2) v 0x7FFF_FFFF % 2 ^ 16 ≠ cvScidx x →
      mergePending g (cvScidx x) (strike hits s.blk) = (.ok, c) → Acts (.rsConv2Write g hits) s (fun _ => runAnswered g x (advancePc g len (setRd g (iRd w)
        (BitVec.ofNat 32 (csrRead x 0x7D2)) (modGl g (setCsr 0x7D2 (maskedWrite (glCsr x 0x7D2) v 0x7FFF_FFFF)) c))))) ∧
    (∀ d m, kindOfInstr w = .ordinary → iOp w ≠ 0x73 → rvExec x.core x.scratch w len = .next d m →
      Acts (.rv32imafcInstruction g) s (setGl g { x with core := d, scratch := m })) ∧
    (kindOfInstr w = .illegal ∨ kindOfInstr w = .ordinary ∧ iOp w ≠ 0x73 ∧ rvExec x.core x.scratch w len = .stop .badArgument →
      Acts (.glnIllegalInstruction g) s (runFault g .badArgument))) ∧
  (∀ (s : State) (g : Fin 4096), mainOn s.blk = true →
    (∀ sg k, (glOf s.blk g).seg = some sg → k ∈ sg.banks → k.2 + 1 ≤ s.blk.face.time →
      let d := commit g true s.blk
      ((glOf d g).putFail = none → Acts (.segmentForcedCommit g) s (fun _ => runAnswered g (glOf s.blk g) d)) ∧
      ((glOf d g).putFail ≠ none → Acts (.segmentForcedCommit g) s (fun _ => runAnswered g (glOf s.blk g) (putFault g d)))) ∧
    ((glOf s.blk g).run = .idle → AnswersWith (.glnLockstep g) s (fun b => ownOf b (uGleaner g) = hFailed ∧ (glOf b g).seg = none ∧
      (glOf b g).run = .idle ∧ b.grn.mem = s.blk.grn.mem)) ∧
    ((glOf s.blk g).run ≠ .idle → (glOf s.blk g).launch.train = false → AnswersWith (.glnLockstep g) s (fun b => ownOf b (uGleaner g) = hFailed ∧
      (glOf b g).seg = none ∧ (glOf b g).run = .idle ∧ g.val ∉ (grantsOf b (glStack g)).order)))

/-- The granule operations of a running gleaner: the element-wise ones write 128 results to buffer D (R257); CVT and WIDEN convert (R258, R262); XSUM and
XSUMSQ add to the exact accumulator (R260), AMAX keeps the largest magnitude, CRC stores the CRC-64 of the granule (R259); XCLR, XST, XADDM and XRND
clear, store, add and round the accumulator (R261).
The model's choices in log entry 10 stand behind it. -/
def Obligations.GranuleOperations : Prop := ∀ (s : State) (g : Fin 4096) (w len : Nat) (hits : List Strike) (c : Block),
  let x := glOf s.blk g
  let d := (x.core.getX (iRd w)).toNat
  let a := (x.core.getX (iRs1 w)).toNat
  let bv := (x.core.getX (iRs2 w)).toNat
  mainOn s.blk = true → unitHeld s.blk (uGleaner g) = false → x.run = .running → x.putFail = none → fetch x = .inr (some w, len) →
  (x.launch.train = true → (trnOf s.blk x.launch.job).failed = none) →
  (∀ f i, (f, i) ∈ [(0x00, Instr.gopAdd g), (0x01, .gopSub g), (0x02, .gopMul g), (0x03, .gopFma g), (0x04, .axpy g), (0x05, .affine g), (0x06, .gopDiv g),
      (0x07, .gopSqrt g), (0x08, .gopMax g), (0x09, .gopMin g), (0x0A, .gopMove g)] → kindOfInstr w = .gop f →
    Acts i s (fun b => advancePc g len (setGl g (setFloats d ((List.range 128).map fun k => gopElem f (glCsr x 0x7CD) (glCsr x 0x7CE)
      ((bufFloats x a).getD k 0) ((bufFloats x bv).getD k 0) ((bufFloats x d).getD k 0)) x) b))) ∧
  (kindOfInstr w = .gop 0x10 → cvt g d a bv (strike hits s.blk) = (.ok, c) → Acts (.cvt g hits) s (fun _ => runAnswered g x (advancePc g len c))) ∧
  (kindOfInstr w = .gop 0x11 → gWiden g d a bv s.blk = (.ok, c) → Acts (.gopWiden g) s (fun _ => advancePc g len c)) ∧
  (kindOfInstr w = .gop 0x12 → Acts (.xsum g) s (fun b => advancePc g len (setGl g { x with
    exact' := (bufFloats x a).foldl (exactAdd false) x.exact' } b))) ∧
  (kindOfInstr w = .gop 0x13 → Acts (.xsumsq g) s (fun b => advancePc g len (setGl g { x with
    exact' := (bufFloats x a).foldl (exactAdd true) x.exact' } b))) ∧
  (kindOfInstr w = .gop 0x14 → let m := toF32 (amaxOf ((bufFloats x a).map f32))
    Acts (.amax g) s (fun b => advancePc g len (setGl g (setCsr 0x7D7 (if (f32 (glCsr x 0x7D7)).lt (f32 m) then m else glCsr x 0x7D7) x) b))) ∧
  (kindOfInstr w = .gop 0x15 → bv + 8 ≤ 512 → Acts (.crc g) s (fun b => advancePc g len (setGl g (setScratch (bufAt d + bv)
    (leBytes 8 (crc64 (bufBytes x a))) x) b))) ∧
  (kindOfInstr w = .xop 0 → Acts (.xclr g) s (fun b => advancePc g len (setGl g { x with exact' := ⟨0, false, false, false⟩ } b))) ∧
  (kindOfInstr w = .xop 1 → a + 88 ≤ scratchSize → Acts (.xst g) s (fun b => advancePc g len (setGl g (setScratch a (exactImage x.exact') x) b))) ∧
  (kindOfInstr w = .xop 2 → a + 88 ≤ scratchSize → Acts (.xaddm g) s (fun b => advancePc g len (setGl g { x with
    exact' := exactAddImage x.exact' (scratchBytes x a 88) } b))) ∧
  (kindOfInstr w = .xop 3 → Acts (.xrnd g) s (fun b => advancePc g len (setRd g (iRd w) (BitVec.ofNat 32 (exactRound x.exact')) b)))

/-- The exact accumulator does not depend on the order of its terms (R260), and the image that XST stores, added to a cleared accumulator by XADDM,
gives it back (R261). -/
def Obligations.ExactAccumulator : Prop := ∀ (a : Exact) (sq : Bool) (c d : Nat),
  exactAdd sq (exactAdd sq a c) d = exactAdd sq (exactAdd sq a d) c ∧
  (-2 ^ 639 ≤ a.sum → a.sum < 2 ^ 639 → exactAddImage ⟨0, false, false, false⟩ (exactImage a) = a)

/-! ### The context store -/

/-- An allocation hands out an eligible page or frame, and answers its number; past its quota a job is refused with NO_RESOURCE; with none eligible it
waits ALLOC_WAIT, or fails at once where that is 0 (R283 to R285).
A wait that has lasted ALLOC_WAIT fails (R285); a freed page leaves its frame's map, lowers its job's count (R283, R230) and is translated no more
(R296); an invalidation
takes the entry's line out of every tile's translation cache (R296).
The model's choices in log entries 13, 22, 48, 67, 74 stand behind it. -/
def Obligations.AllocationsAndFrees : Prop :=
  (∀ (s : State) (j : Fin 8) (stack : Option (Fin 32)), mainOn s.blk = true →
    (∀ p c, overQuota s.blk j = false → takePage j (stack.map Fin.val) s.blk = some (p, c) →
      Acts (.contextAllocation j stack) s (fun _ => answer .ok p c)) ∧
    (∀ f c, takeTensor j (stack.map Fin.val) s.blk = some (f, c) → Acts (.tensorAllocation j stack) s (fun _ => answer .ok f c)) ∧
    (overQuota s.blk j = true → Acts (.contextAllocation j stack) s (answer .noResource 0)) ∧
    (takeTensor j (stack.map Fin.val) s.blk = none → fld s.blk uCtx Fld.ctxCtrlAllocWait = 0 → Acts (.tensorAllocation j stack) s
      (fun b => answer .noResource 0 (notify uCtx Fld.ctxStatusAllocFail .ctxAllocFail (j.val * 2 ^ 29 + 1) b))) ∧
    (takeTensor j (stack.map Fin.val) s.blk = none → fld s.blk uCtx Fld.ctxCtrlAllocWait ≠ 0 → AnswersWith (.tensorAllocation j stack) s
      (fun b => b.ctx.allocWaits = s.blk.ctx.allocWaits ++ [⟨j, true, stack.map Fin.val, s.blk.face.time, allocStack s.blk (stack.map Fin.val), false⟩]))) ∧
  (∀ (s : State) (p : Fin 0x4000000) (q : Fin 0x40000) (n : Nat), mainOn s.blk = true →
    (∀ w, s.blk.ctx.allocWaits = [w] → s.blk.ctx.parked = [] → (∀ x ∈ s.blk.ctx.pageIns, x.full = none) → w.since + 1000 * fld s.blk uCtx Fld.ctxCtrlAllocWait ≤ s.blk.face.time →
      Acts .allocWaitExpire s (fun b => settleCloses (allocFail w.job w.tensor (stashLost w.stash w.job
        (chargeWait w (modCtx (fun c => { c with allocWaits := [] }) b)))))) ∧
    (s.blk.ctx.allocWaits = [] → (∀ x ∈ s.blk.ctx.pageIns, x.full = none) → bitOf (frameEntry s.blk (p.val / 32)) 36 = true → Acts (.pageFree p) s (freeTensor (p.val / 32))) ∧
    (s.blk.ctx.allocWaits = [] → (∀ x ∈ s.blk.ctx.pageIns, x.full = none) → bitOf (frameEntry s.blk (p.val / 32)) 36 = false → bitOf (frameEntry s.blk (p.val / 32)) 37 = true →
      pageAllocated s.blk p = true → s.blk.grn.retPages.contains p.val = false →
      AnswersWith (.pageFree p) s (fun b => jobUsed b (bitsOf (frameEntry s.blk (p.val / 32)) 34 32) =
        (jobUsed s.blk (bitsOf (frameEntry s.blk (p.val / 32)) 34 32) - 1) ∧ b.ctx = (invalidatePage p s.blk).ctx ∧ b.til = s.blk.til)) ∧
    AnswersWith (.translationInvalidate q n) s (fun b => (∀ t, ∀ l ∈ b.ctx.xlt.get [] t, ¬ (l.queue = q.val ∧ l.line = n / 8)) ∧ b.face = s.blk.face ∧ b.grn = s.blk.grn))

/-- A page the context store hands out was free, belongs to the job's frame afterwards, and raises the job's count by one (R283).
The model's choices in log entries 22, 67 stand behind it. -/
def Obligations.PagesAreExclusive : Prop := ∀ (b c : Block) (j : Fin 8) (stack : Option Nat) (p : Nat),
  takePage j stack b = some (p, c) →
  bitOf (frameEntry b (p / 32)) (p % 32) = false ∧
  bitOf (frameEntry c (p / 32)) (p % 32) = true ∧ bitsOf (frameEntry c (p / 32)) 34 32 = j.val ∧
  bitOf (frameEntry c (p / 32)) 35 = true ∧ bitOf (frameEntry c (p / 32)) 37 = true ∧
  (jobUsed b j < 2 ^ 32 - 1 → jobUsed c j = jobUsed b j + 1)

/-- Pages come and go: an exported page's page-in asks its host once (R295, R297); a page at a peer is copied in and freed there (R295); a page-in the
host leaves unanswered for HOST_TMO fails what waits on it (R297); an eviction begins with the entry MOVING (R298); a finished copy makes the entry
PEER (R300); an export left unacknowledged goes back (R449); a page lost with its peer disables its session (R301).
The model's choices in log entries 6, 24, 67, 74 stand behind it. -/
def Obligations.PageMoves : Prop := ∀ (s : State) (q : Fin 0x40000) (n : Nat) (c : Block), mainOn s.blk = true →
  (∀ st data, useQueue q s.blk = (true, c) → qType c q = 1 → n < qPtLen c q → ptValid (ptGet c q n) = true →
    (ptLoc (ptGet c q n) = 2 → Acts (.pageIn q n st data) s (fun _ => sendPages (hostPageIn q n (ptGen (ptGet c q n)) c))) ∧
    (∀ d, ptLoc (ptGet c q n) = 1 → (∀ x ∈ c.ctx.pageIns, ¬ (x.queue = q.val ∧ x.page = n)) →
      installPage q n data (modCtx (fun x => { x with pageIns := x.pageIns ++ [⟨q, n, 0, s.blk.face.time, [(0, data)], none⟩] })
        (peerPage (qJob c q) (ptRank (ptGet c q n)) (ptPage (ptGet c q n)) false [] c)) = (true, d) →
      Acts (.pageIn q n .ok data) s (fun _ => sendPages (dropPageIn q n (peerPage (qJob d q) (ptRank (ptGet c q n)) (ptPage (ptGet c q n)) true [] d))))) ∧
  (∀ p, (s.blk.ctx.pageIns.find? fun p => p.queue = q.val ∧ p.page = n) = some p → p.full = none →
    p.since + max 1 (fld s.blk uCtx Fld.ctxCtrlHostTmo) * 10000 ≤ s.blk.face.time →
    Acts (.hostPageinTimeout q n) s (fun b => settleCloses (dropPageIn q n (failParked (fun x => x.queue = q ∧ x.page = n) b)))) ∧
  (∀ (j : Fin 8) (peer : Option Nat) (e : Nat), let w := fld s.blk uCtx Fld.ctxJobEvictLowater j * 16
    w ≠ 0 → s.blk.ctx.evicting.find j = none → jobQuota s.blk j - jobUsed s.blk j < w →
    let b := evictLow j s.blk
    oldestSession b j [] = some q.val → firstFrom (entryQualifies b q) (qPtLen b q) 0 = some e →
    Acts (.pageEviction j peer) s (fun _ => sendPages (beginEvict q e (flag b uCtx Fld.ctxJobEvictExport j) (fld b uCtx Fld.ctxJobEvictRank j) peer
      (modCtx (fun c => { c with evicting := c.evicting.put j ⟨q, 1, []⟩ }) b)))) ∧
  (∀ m, (s.blk.ctx.moves.find? fun m => m.queue = q.val ∧ m.page = n) = some m → m.peer.isSome = true →
    Acts (.evictionCopyDone q n) s (fun b => sendPages (settleCloses (evictDone q n b)))) ∧
  (∀ m, (s.blk.ctx.moves.find? fun m => m.queue = q.val ∧ m.page = n ∧ m.peer = none) = some m →
    m.since + max 1 (fld s.blk uCtx Fld.ctxCtrlHostTmo) * 10000 ≤ s.blk.face.time → Acts (.exportAckTimeout q n) s (exportFailed q n)) ∧
  (∀ r : Fin 1024, qType s.blk q = 1 → n < qPtLen s.blk q → ptValid (ptGet s.blk q n) = true → ptLoc (ptGet s.blk q n) = 1 →
    ptRank (ptGet s.blk q n) = r.val → Acts (.ctxPageLost q r) s (fun b => settleCloses (pageLost q b)))

/-- A batch of a running serving job is dispatched, and ends when every tile of its group has ended, its sessions' consumer indices moving on, or when
one has faulted (R304 to R308).
Lending: a save that is done suspends the training stream, lends the tile and leaves memory outside the tile's save area alone (R311), and one of a
stream that has meanwhile stopped or faulted lends nothing; the budget's end and RECLAIM take the tile back, during the save too, stopping the serving
stream (R312); once that has drained the tile is RESTORING, and the training stream goes on with its tokens, registers and held signals (R313), its slots
EMPTY (R84), or is stopped where its job was stopped meanwhile (R461).
The model's choices in log entries 60, 67 stand behind it. -/
def Obligations.BatchesAndLending : Prop :=
  (∀ (s : State) (j : Fin 8) (num : Nat), mainOn s.blk = true →
    (jobStateOf s.blk j = jRunning → devState s.blk ≠ dsDraining → flag s.blk uCtx Fld.ctxJobCtrlValid j = true → slotTrains s.blk j = false →
      (s.blk.ctx.batches.filter (·.job == j.val)).length < 16 →
      let b := scanQueues s.blk
      groupSize b j ≤ ((List.range 64).filter (groupTile b j)).length → readyOrder b j ≠ [] →
      AnswersWith (.batchDispatch j) s (fun c =>
        c.ctx.batches = b.ctx.batches ++ [⟨j, b.ctx.nextBatch.get 0 j, ((readyOrder b j).take (batchMax b j)).map fun q => (q, qCons b q),
          ((List.range 64).filter (groupTile b j)).take (groupSize b j), s.blk.face.time⟩] ∧
        ∀ t ∈ ((List.range 64).filter (groupTile b j)).take (groupSize b j), (tileOf c t).stream = .running)) ∧
    (∀ x, (s.blk.ctx.batches.find? fun x => x.job = j.val ∧ x.num = num) = some x →
      ((∃ t ∈ x.tiles, (tileOf s.blk t).stream = .faulted) → Acts (.batchEnd j num) s (fun b => settleStop j (settleCloses (abandonBatch x b)))) ∧
      ((∀ t ∈ x.tiles, (tileOf s.blk t).stream = .ended) → Acts (.batchEnd j num) s (fun b => settleStop j (settleCloses (abandonBatch x
        (x.tiles.foldl (fun b t => modTile t (fun y => { y with stream := .idle, ops := [] }) b)
          (x.sessions.foldl (fun b z => qSet z.1 40 4 (x.since % 2 ^ 32) (qSet z.1 8 4 ((qCons b z.1 + 1) % 2 ^ 32) b)) b)))))))) ∧
  (∀ (s : State) (t : Fin 64), mainOn s.blk = true →
    ((lendOf s.blk t).state = .saving → (tileOf s.blk t).stream ≠ .running →
      Acts (.borrowSaveDone t) s (setLend t { lendOf s.blk t with state := .home, due := false })) ∧
    ((lendOf s.blk t).state = .saving → (tileOf s.blk t).stream = .running → (lendOf s.blk t).due = false → anySegment s.blk = false →
      AnswersWith (.borrowSaveDone t) s (fun b =>
      (lendOf b t).state = .lent ∧ (lendOf b t).lends = (lendOf s.blk t).lends + 1 ∧ (tileOf b t).stream = .idle ∧
      (tileOf b t).held = (tileOf s.blk t).held ∧ (tileOf b t).acc = (tileOf s.blk t).acc ∧
      b.ctx.saved.find t = some ⟨{ tileOf s.blk t with stream := .suspended }, savedOffsets.map fun o => (o, getReg s.blk (uTile t) o)⟩ ∧
      ∀ a, let base := pair s.blk uCtx Off.ctxSaveLo
        base = 0 ∨ a < base + 0x1_2000 * t.val ∨ base + 0x1_2000 * (t.val + 1) ≤ a → byteAt b a = byteAt s.blk a)) ∧
    ((lendOf s.blk t).budget ≠ 0 → (lendOf s.blk t).since + (lendOf s.blk t).budget ≤ s.blk.face.time → Acts (.lendBudgetExpire t) s (reclaim t)) ∧
    ((lendOf s.blk t).state = .lent → (s.blk.ctx.batches.find? fun x => x.tiles.contains t.val) = none →
      let back := fun (b : Block) => setLend t { lendOf b t with state := .reclaiming, trigger := b.face.time, due := false } b
      ((tileOf s.blk t).stream = .running → Acts (.reclaim t) s (fun b =>
        lendSettle t (cancelWaiting t (modTile t (fun x => { x with stream := .stopping }) (back b))))) ∧
      ((tileOf s.blk t).stream ≠ .running → Acts (.reclaim t) s (fun b => lendSettle t (back b)))) ∧
    ((lendOf s.blk t).state = .saving → Acts (.reclaim t) s (fun b => setLend t { lendOf b t with due := true } b)) ∧
    (∀ sv, (lendOf s.blk t).state = .restoring → s.blk.ctx.saved.find t = some sv → (tileOf s.blk t).ops = [] → (tileOf s.blk t).held = [] →
      (tileOf s.blk t).lockstep = false →
      ((lendOf s.blk t).stop = false → AnswersWith (.reclaimDone t) s (fun b =>
        tileOf b t = { sv.tile with
          slot0 := none, slot1 := none, thrStopped := (tileOf s.blk t).thrStopped, resOver := (tileOf s.blk t).resOver,
          lockstep := false, held := [], stream := .running } ∧
        (lendOf b t).state = .home)) ∧
      ((lendOf s.blk t).stop = true → AnswersWith (.reclaimDone t) s (fun b =>
        (tileOf b t).stream = .stopping ∧ (lendOf b t).state = .home ∧ (lendOf b t).stop = false))))

/-! ### The training step -/

/-- TRN_SCL_CTRL: ENABLE is writable only while the slot is empty, and its setting starts the epochs (R130); a serving job's table closes every EPOCH
milliseconds, entry by entry, with the events of R139.
The model's choices in log entries 38, 65 stand behind it. -/
def Obligations.ScaleTables : Prop := ∀ (s : State) (j : Fin 8) (v : Word) (scope : List (Nat × RunFields)), mainOn s.blk = true →
  (flag s.blk uCtx Fld.ctxJobCtrlValid j = true → Acts (.trnSclCtrlWrite j v) s
    (fun b => setReg uTrn (Off.trnSclCtrl j) (maskedWrite (reg b uTrn (Off.trnSclCtrl j)) v.toNat 0xFF00FFFF) b)) ∧
  (flag s.blk uCtx Fld.ctxJobCtrlValid j = false → bitOf v.toNat 16 = true →
    Acts (.trnSclCtrlWrite j v) s (fun b => modJob j (fun x => { x with epochAt := b.face.time }) (setReg uTrn (Off.trnSclStep j) 0
      (setReg uTrn (Off.trnSclCtrl j) (maskedWrite (reg b uTrn (Off.trnSclCtrl j)) v.toNat 0xFF01FFFF) b)))) ∧
  (∀ cs c, flag s.blk uTrn Fld.trnSclCtrlEnable j = true → slotTrains s.blk j = false →
    (trnOf s.blk j).epochAt + 1000 * max 1 (fld s.blk uTrn Fld.trnSclCtrlEpoch j) ≤ s.blk.face.time →
    closeEntries j (reg s.blk uTrn (Off.trnSclStep j) + 1) scope (sclSize s.blk j) 0 s.blk = (cs, true, c) →
    Acts (.servingEpochClose j scope) s (fun b => closeEvents j (reg b uTrn (Off.trnSclStep j) + 1) cs
      (modJob j (fun x => { x with epochAt := x.epochAt + 1000 * max 1 (fld b uTrn Fld.trnSclCtrlEpoch j) }) c)))

/-- The close of an entry (Table 4.4): the exponent in force before goes to bits 15 to 8, the run fields read 0 and the totals rise by them; an entry
that is not tested for a misfit, or only alarmed, keeps its exponent (R126, R128). -/
def Obligations.EntryClose : Prop := ∀ (n : Nat) (e : List Byte), e.length = 64 → n < 2 ^ 32 - 1 →
  let c := closeEntry n [] none e
  c.bytes.length = 64 ∧ leAt c.bytes 16 8 = 0 ∧ leAt c.bytes 24 8 = 0 ∧ leAt c.bytes 32 8 = 0 ∧ leAt c.bytes 4 4 = 0 ∧
  leAt c.bytes 8 4 = leAt e 4 4 ∧ leAt c.bytes 48 8 = (leAt e 48 8 + leAt e 16 8) % 2 ^ 64 ∧ leAt c.bytes 56 8 = (leAt e 56 8 + leAt e 24 8) % 2 ^ 64 ∧
  bitsOf (leAt c.bytes 0 4) 15 8 = bitsOf (leAt e 0 4) 7 0 ∧
  (misfitFmt (bitsOf (leAt e 0 4) 19 16) = false ∨ bitOf (leAt e 0 4) 20 = true → bitsOf (leAt c.bytes 0 4) 7 0 = bitsOf (leAt e 0 4) 7 0)

/-- STEP_START begins the next step a STEP command asks for once the tiles rest, and one that cannot start ends its command with NO_RESOURCE (R347,
R348); a RESHARD that is due goes before it (R354). The start puts the
split, the gradient mode and the step into the job's state and every tile of the job runs its program (R348).
The replica check passes when every root is the same (R336); a close ends the step as CLOSED at phase IDLE, and what waited for it goes on (R352);
the buddy's acknowledgement completes it: TRN_JOB_DONE is the step and TRN_STEP_DONE is raised (Table 9.4, row 9). What the engine could not read or write
of the training area the job answers (R464). The capacity of this member's own gradient links counts in the check's minimum (R324).
The model's choices in log entries 56, 67, 68 stand behind it. -/
def Obligations.StepStartAndEnd : Prop :=
  (∀ (s : State) (j : Fin 8) (x : JobSlot) (n last : Nat) (c : Block), mainOn s.blk = true →
    s.blk.qcp.jobs.find j = some x → trnPhase s.blk j = 0 → recPhase s.blk j ≠ pReplaying → x.steps = some (n, last) → x.jstate = jRunning → n ≤ last →
    (recOf s.blk j).owed = [] →
    ((trnOf s.blk j).reshardTo = none ∨ stepOpen s.blk j = true →
      (beginStep j n false s.blk = (true, c) → Acts (.stepStart j) s (fun _ => engineEnd j c)) ∧
      Acts (.stepStart j) s (fun b => engineEnd j (startOrFail j n false b))) ∧
    ((trnOf s.blk j).reshardTo ≠ none → stepOpen s.blk j = false → Acts (.stepStart j) s (engineEnd j)) ∧
    (∀ sp recs b1 d e, slotTrains s.blk j = true → trnTouch j [(scbBase s.blk j, 256)] s.blk = (true, b1) → trnTouch j (splitRanges b1 j) b1 = (true, d) →
      stallAsk j d = d → (d.ctx.allocWaits.any fun w => w.job = j ∧ w.stash) = false →
      (trnOf d j).stallFail = false → splitOf d j = some sp → sp = nLayers d j → splitEntry d j sp = some recs → trnTouch j [(recs, 1024)] d = (true, e) →
      (stepStart j n false s.blk).1 = true ∧
      trnPhase (stepStart j n false s.blk).2 j = 1 ∧ stepNow (stepStart j n false s.blk).2 j = n ∧
      (trnOf (stepStart j n false s.blk).2 j).startAt = s.blk.face.time)) ∧
  (∀ (s : State) (j : Fin 8) (others : List Replica) (mine : List Nat) (copies : List Copy) (capacity : List Nat)
      (images : List (List (List Byte) × List (List Byte) × List (List Byte))) (scope : List (Nat × RunFields)) (n : Nat), mainOn s.blk = true →
    (∀ d, trnPhase s.blk j = 5 → (∀ r ∈ others, r.root = (trnOf s.blk j).root) → trnTouch j (tableRanges s.blk j) s.blk = (true, d) →
      Acts (.replicaCheck j others mine copies capacity images) s (fun _ => engineEnd j (setPhaseTrn j 6 (modJob j (fun x => { x with
        norms := images.map fun i => (normOf i.1, normOf i.2.1, normOf i.2.2) }) (nextGradMode j (capacity.foldl min (ownCapacity d j)) d))))) ∧
    (∀ c, stepClose j scope s.blk = (.closed, c) →
      Acts (.stepClose j scope) s (fun b => engineEnd j (stepClosed j (stepNow b j) c)) ∧ trnPhase c j = 0 ∧ trnClosed c j = stepNow s.blk j % 2 ^ 32) ∧
    (trnClosed s.blk j ≠ noStep → n ≤ trnClosed s.blk j → ((trnOf s.blk j).out.any fun r => r.step = n ∧ r.kind = 3) = true →
      AnswersWith (.trnStepDone j n) s (fun b => trnDone b j = n ∧ (trnOf b j).out = (trnOf s.blk j).out.filter fun r => r.step ≠ n)))

/-- The rows of a step up to its sweep (Table 9.4): the reduction of the gradients once every tile has ended, and what is sent and kept of them in 8
bits and in the first step after (R323, R325), the tied pass (R327), the
launch of the sweep with what it writes kept for the undo (R328, R333), the record of the swept blocks and the shard root (R334, R335, R341), and the undo of
a sweep in which a run faulted (R333). What the engine could not read or write of the training area the job answers (R464).
The mirror: a whole step's records are applied and acknowledged (R342); a build sends every block, and a block asked for again (R343), and is done
when all are acknowledged (R345).
The model's choices in log entries 6, 67, 68 stand behind it. -/
def Obligations.StepRows : Prop :=
  (∀ (s : State) (j : Fin 8) (contribs : List (Nat × List (List Byte))) (out : List Byte), mainOn s.blk = true →
    (∀ d, trnPhase s.blk j = 1 → tilesEnded s.blk j = true → flag s.blk uTrn Fld.trnJobStateGrad8 j = false → (trnOf s.blk j).wasGrad8 = false →
      trnTouch j (tableRanges s.blk j) s.blk = (true, d) →
      Acts (.gradientReduce j contribs out) s (fun b => engineEnd j (setPhaseTrn j 2 (modJob j (fun x => { x with wasGrad8 := false })
        (modTrn (fun t => { t with grads := t.grads ++ [(j.val, (elemsOf 4 out).flatMap (leBytes 4))] })
          (addUndo j (stepNow b j) [] false (reduceEntries j contribs d))))))) ∧
    (∀ (g8 was8 : Bool) (d0 : Block), let ea := scb s.blk j 176 8
      let m := scb s.blk j 184 8 / 4
      trnPhase s.blk j = 1 → tilesEnded s.blk j = true → flag s.blk uTrn Fld.trnJobStateGrad8 j = g8 →
      (trnOf s.blk j).wasGrad8 = was8 → g8 = true ∨ was8 = true → trnTouch j (tableRanges s.blk j ++ [(ea, 4 * m)]) s.blk = (true, d0) →
      Acts (.gradientReduce j contribs out) s (fun b =>
        let d := reduceEntries j contribs d0
        let r := sendGrads g8 was8 (elemsOf 4 out) (f32sAt d ea m)
        engineEnd j (setPhaseTrn j 2 (modJob j (fun x => { x with wasGrad8 := g8 }) (modTrn (fun t => { t with grads := t.grads ++ [(j.val, r.1)] })
          (putF32s j ea r.2 (addUndo j (stepNow b j) [keepRange d ea (4 * m)] false d))))))) ∧
    (∀ d, trnPhase s.blk j = 2 → trnTouch j (tableRanges s.blk j) s.blk = (true, d) →
      let c := (List.range (scb s.blk j 216 2)).foldl (fun b i => tiedSet j i b) d
      ((trnOf c j).failed = none → Acts (.tiedPass j) s (fun _ => setPhaseTrn j 3 c)) ∧
      ((trnOf c j).failed ≠ none → Acts (.tiedPass j) s (fun _ => engineEnd j c))) ∧
    (∀ d, sweepReady s.blk j = true → trnTouch j (tableRanges s.blk j) s.blk = (true, d) → Acts (.sweepLaunch j) s (fun b =>
      let e := setPhaseTrn j 4 (modJob j (fun x => { x with sweepBad := false }) d)
      let c := addUndo j (stepNow b j) ((sweptArrays e j).map fun m => keepRange e m.addr m.bytes) true e
      engineEnd j ((sweptStacks c j).foldl (fun d st =>
        let l := launch st (setReg (uStack st) Off.grnGlIdent (ownRank c j * 2 ^ 22 + j.val * 2 ^ 8 + 1)
          (setReg (uStack st) Off.grnGlSeed (d.ctx.jobSeed.get 0 j) (setReg (uStack st) Off.grnGlStep (stepNow b j) d)))
        if (List.range 128).any fun i => (glOf l (128 * st + i)).run != .idle && (glOf l (128 * st + i)).launch.job == j then l
        else modJob j (fun x => { x with sweepBad := true }) l) c))) ∧
    (∀ d, let ms := mirroredArrays (stateEnts s.blk j)
      trnPhase s.blk j = 4 → gleanersRun s.blk j = false → (trnOf s.blk j).sweepBad = false → trnTouch j (tableRanges s.blk j) s.blk = (true, d) →
      recsFit s.blk j (changedRecs s.blk j (stepNow s.blk j) ms) = true → Acts (.sheafEmit j) s (fun b =>
      let c := emitChanged j (stepNow b j) ms (trnWrite j (scb b j 88 8) ((blockCrcs b ms).flatMap (leBytes 8)) d)
      engineEnd j (setPhaseTrn j 5 (modJob j (fun x => { x with root := if (checkedArrays c j).isEmpty then 0 else shardRoot c j }) c)))) ∧
    (trnPhase s.blk j = 4 → gleanersRun s.blk j = false → (trnOf s.blk j).sweepBad = true →
      (trnOf (undoStep j (stepNow s.blk j) s.blk) j).failed = none → AnswersWith (.trnSweepUndone j) s (fun b => trnPhase b j = 8 ∧
      (trnOf b j).undo = (trnOf s.blk j).undo.filter fun u => u.step ≠ stepNow s.blk j)) ∧
    (trnPhase s.blk j = 8 → Acts (.sweepUndoDone j) s (setPhaseTrn j 0))) ∧
  (∀ (s : State) (j : Fin 8) (recs : List SheafRec) (n : Nat), mainOn s.blk = true →
    (recs ≠ [] → (∀ r ∈ recs, r.step = n) → recFrozen s.blk j = false →
      Acts (.mirrorApply j recs) s (fun b => engineEnd j (checkpointDue j (mirrorApply j recs false b)))) ∧
    (∀ d, fld d uTrn Fld.trnJobStateMirror j = 1 → trnTouch j (tableRanges s.blk j) s.blk = (true, d) →
      Acts (.mirrorBuild j ⟨true, []⟩) s (fun _ => engineEnd j (setFld uTrn Fld.trnJobStateMirror 2
        (modJob j (fun x => { x with out := x.out.filter fun r => r.kind ≠ 1 }) d) j))) ∧
    (∀ acked asked d, asked ≠ [] → trnTouch j (tableRanges s.blk j) s.blk = (true, d) →
      Acts (.mirrorBuild j ⟨acked, asked⟩) s (fun _ => engineEnd j (asked.foldl (fun b a => sendAsked j a b) d))) ∧
    ((trnOf (mirrorBuild j false [] s.blk) j).failed = none → AnswersWith (.mirrorBuild j ⟨false, []⟩) s (fun b =>
      fld b uTrn Fld.trnJobStateMirror j = 1 ∧ fld b uTrn Fld.trnJobStateRollback j = 0 ∧ ∀ r ∈ (trnOf s.blk j).out, r ∈ (trnOf b j).out)))

/-- A differing block is decided by the majority of its group (Table 9.5): where more than half of the members hold one copy, exactly those that
hold another are the offenders. -/
def Obligations.BlockDecision : Prop := ∀ (rs : List Replica) (k v : Nat), rs.length < 2 * (rs.filter fun r => r.crcs.getD k 0 = v).length →
  ∃ from', decideBlock rs k = some ((rs.filter fun r => r.crcs.getD k 0 ≠ v).map (·.rank), from')

/-- A sheaf's coding loses nothing: what decodes a block's segments gives the block back, for every plane count (R339, R340).
The model's choices in log entry 43 stand behind it. -/
def Obligations.SheafCoding : Prop := ∀ (es : Nat) (d : List Byte), es = 1 ∨ es = 2 ∨ es = 4 → d.length = 65536 → decodeBlock es (codeBlock es d) = d

/-! ### Status, mailboxes, health and time -/

/-- An event sets its bit of an SQ register, raises SEQ by one and records it as the bit's own sequence (R44); a sequence-cleared write clears exactly
those masked bits whose own sequence is not later than the one written (R46), and leaves SEQ as it was (R47). -/
def Obligations.SequenceClearedStatus : Prop := ∀ (s : State) (u : Fin 8192) (o : Fin 0x100000) (f : Field) (j : Nat) (b : Block),
  (f.lo < 16 → f.off + f.stride * j < 0x100000 → let r := f.off + f.stride * j
    let c := setSq u f b j
    reg c u r / 2 ^ 16 = (reg b u r / 2 ^ 16 + 1) % 2 ^ 16 ∧ bitOf (reg c u r) f.lo = true ∧
    (∀ i < 16, i ≠ f.lo → bitOf (reg c u r) i = bitOf (reg b u r) i) ∧
    c.face.sqOwn.get 0 (regKey u r * 16 + f.lo) = reg c u r / 2 ^ 16 ∧
    (∀ k, k ≠ regKey u r * 16 + f.lo → c.face.sqOwn.get 0 k = b.face.sqOwn.get 0 k)) ∧
  (∀ (wr : Fin 8192) (w mask : Fin 65536), mainOn s.blk = true ∨ u.val = uTly → o.val % 4 = 0 → hasAccess .sq u o = true → AnswersWith (.sqRegisterWrite ⟨4, wr⟩ u o ⟨w, mask⟩) s (fun c =>
    reg c u o / 2 ^ 16 = reg s.blk u o / 2 ^ 16 ∧
    (∀ i < 16, bitOf (reg c u o) i = (bitOf (reg s.blk u o) i &&
      !(bitOf mask i && decide ((reg s.blk u o / 2 ^ 16 + 2 ^ 16 - w) % 2 ^ 16 ≤
        (reg s.blk u o / 2 ^ 16 + 2 ^ 16 - s.blk.face.sqOwn.get 0 (regKey u o * 16 + i)) % 2 ^ 16)))) ∧
    (∀ u' o', (u', o') ≠ (u.val, o.val) → u' < 8192 → o' < 0x100000 → reg c u' o' = reg s.blk u' o') ∧
    c.face.sqOwn = s.blk.face.sqOwn ∧ c.grn = s.blk.grn ∧ c.til = s.blk.til))

/-- An event is written into slot HEAD of its unit's ring, and HEAD and RSEQ advance (R30); with the ring full the record is dropped, EVT_DROP and RSEQ
count and EVT_LOST is set (R31). -/
def Obligations.EventRings : Prop := ∀ (b : Block) (u : Fin 8192) (e : Ev) (arg : Nat),
  let head := reg b u Off.evtHead % 64
  let rseq := reg b u Off.evtHead / 2 ^ 16
  let c := ringPut u e arg b
  reg c u Off.evtHead / 2 ^ 16 = (rseq + 1) % 2 ^ 16 ∧ reg c u Off.evtTail = reg b u Off.evtTail ∧
  (∀ k, k ≠ u * 64 + head → c.face.ring.find k = b.face.ring.find k) ∧
  ((reg b u Off.evtHead % 64 + 64 - reg b u Off.evtTail % 64) % 64 ≠ 63 →
    c.face.ring.find (u * 64 + head) = some ⟨e, u, rseq, arg % 2 ^ 32, b.face.time % 2 ^ 32⟩ ∧
    reg c u Off.evtHead % 64 = (head + 1) % 64 ∧ reg c u Off.evtDrop = reg b u Off.evtDrop ∧ reg c u Off.unitStatus = reg b u Off.unitStatus) ∧
  ((reg b u Off.evtHead % 64 + 64 - reg b u Off.evtTail % 64) % 64 = 63 →
    c.face.ring = b.face.ring ∧ reg c u Off.evtHead % 64 = head ∧ reg c u Off.evtDrop = (reg b u Off.evtDrop + 1) % 2 ^ 32 ∧
    flag c u Fld.unitStatusEvtLost = true)

/-- A read of a clear-on-read register of one word answers its value and clears it (R15). A new POST_SEQ posts a message, or is rejected while a post is
unanswered or the unit is in reset (R33, R34, R599); the unit answers with BAD_ARGUMENT, REPLY_SEQ, the status bit and the event, the tally interface
with the main domain off too (R33, R35, R599). A change of a
unit's WORST reaches its parent (R29); a handshake stalled for 8 ms fails the unit (R42, R43); a tick of the powered tally die adds one to tally time,
and changes nothing else (R32).
The model's choices in log entry 50 stand behind it. -/
def Obligations.MailboxesAndHealth : Prop := ∀ (s : State) (u rdr : Fin 8192),
  (∀ o : Fin 0x100000, mainOn s.blk = true → o.val % 4 = 0 → hasAccess .rc u o = true → isPairLo u o = false → isPairHi u o = false →
    (isMacCounter u o = false ∨ rdr.val = uReeve) →
    Answers (.rcRegisterRead ⟨4, rdr⟩ u o) s (fun b => answer .ok (regValue b u o) (setReg u o 0 b))) ∧
  (∀ q : Fin 65536, mainOn s.blk = true → windowThere s.blk u = false →
    Acts (.mbxPost u q) s (raise uReeve .sysAddrFault ((u * 2 ^ 20 + Off.mbxCtrl) % 2 ^ 32))) ∧
  (∀ q : Fin 65536, mainOn s.blk = true → windowThere s.blk u = true → let c := reg s.blk u Off.mbxCtrl
    (q.val = c / 2 ^ 16 → Answers (.mbxPost u q) s id) ∧
    (q.val ≠ c / 2 ^ 16 → c / 2 ^ 16 = c % 2 ^ 16 → inReset s.blk u = false →
      Answers (.mbxPost u q) s (setReg u Off.mbxCtrl (q.val * 2 ^ 16 + c % 2 ^ 16))) ∧
    (q.val ≠ c / 2 ^ 16 → c / 2 ^ 16 ≠ c % 2 ^ 16 ∨ inReset s.blk u = true →
      Answers (.mbxPost u q) s (setSq u Fld.unitStatusMbxReject))) ∧
  (windowThere s.blk u = true → inReset s.blk u = false → reg s.blk u Off.mbxCtrl / 2 ^ 16 ≠ reg s.blk u Off.mbxCtrl % 2 ^ 16 →
    AnswersWith (.mbxReply u) s (fun c => reg c u (Off.mbxOut 0) % 2 ^ 16 = 1 ∧
      reg c u Off.mbxCtrl / 2 ^ 16 = reg s.blk u Off.mbxCtrl / 2 ^ 16 ∧ reg c u Off.mbxCtrl % 2 ^ 16 = reg s.blk u Off.mbxCtrl / 2 ^ 16 ∧
      flag c u Fld.unitStatusMbxReply = true ∧ c.grn = s.blk.grn ∧ c.til = s.blk.til)) ∧
  (∀ p, mainOn s.blk = true → parentOf u = some p → worstOf s.blk u ≠ s.blk.face.seen.get 0 u →
    AnswersWith (.sysMemberHealth u) s (fun c => c.face.seen.get 0 u = worstOf s.blk u ∧ flag c p Fld.unitStatusMemberHealth = true ∧
      (∀ m, m ≠ u.val → c.face.seen.get 0 m = s.blk.face.seen.get 0 m) ∧ c.face.own = s.blk.face.own)) ∧
  (∀ (port : Fin 256) (since : Nat), mainOn s.blk = true →
    (s.blk.face.time < since + 8000 → Answers (.sysHsStall u port since) s id) ∧
    (since + 8000 ≤ s.blk.face.time → s.blk.qcp.jobs = [] → s.blk.ctx.batches = [] → Acts (.sysHsStall u port since) s (fun b =>
      notify u Fld.unitStatusHsStall .sysHsStall port (setOwn u hFailed b)))) ∧
  (s.blk.tly.powered = true → Answers .tallyUsTick s (fun b => { b with face := { b.face with time := b.face.time + 1 } }))

/-! ### Links and the fabric -/

/-- A new MODE takes the link OFF and trains it (R357); a trained link sends its NEGOTIATE, and the other end's brings it UP at the highest common level, or FAILED with fewer than four lanes or no
common level (R360, R362); a lane commit is counted, and at eight refused (R361); a flit whose CRC or sequence is wrong is discarded with one NAK, a damaged one
with another, a right one taken (R363); a NAK replays all that follows ACK (R363); sixteen replays or a lost lock retrain the link, the fourth time in a second FAILED (R364).
The model's choices in log entries 6, 18, 47, 69 stand behind it. -/
def Obligations.LinkCommands : Prop := ∀ (s : State) (l : Fin 24) (v : Word), mainOn s.blk = true →
  (v.toNat % 4 = 3 ∨ (v.toNat % 4 = linkMode s.blk l ∧ linkState s.blk l ≠ lsFailed) → Acts (.jxlModeWrite l v) s id) ∧
  (v.toNat % 4 ≠ 3 → v.toNat % 4 ≠ linkMode s.blk l ∨ linkState s.blk l = lsFailed → linkMode s.blk l ≠ 2 → linkUp s.blk l = false →
    AnswersWith (.jxlModeWrite l v) s (fun b => linkMode b l = v.toNat % 4 ∧ linkState b l = (if v.toNat % 4 = 0 ∨ linksReleased s.blk = false then lsOff else lsTraining) ∧
      linkOf b l = Link.init ∧ (∀ l' : Fin 24, l' ≠ l → linkOf b l' = linkOf s.blk l' ∧ linkState b l' = linkState s.blk l') ∧ b.fab.held = s.blk.fab.held)) ∧
  (∀ (lmin lmax tb rb : Fin 256) (pl : Fin 32) (pid : Nat), linkMode s.blk l = 1 → linkState s.blk l = lsTraining → linksReleased s.blk = true →
    let b := excludeLanes l tb rb s.blk
    (txLanes b l < 4 ∨ rxLanes b l < 4 → Acts (.negotiate l lmin lmax pl pid tb rb) s (fun _ => failLink l b)) ∧
    (4 ≤ txLanes b l → 4 ≤ rxLanes b l → min (ownLmax b) lmax < max (ownLmin b) lmin → Acts (.negotiate l lmin lmax pl pid tb rb) s (fun _ =>
      notify (uLink l) Fld.jxlStatusNegFail .jxlNegFail (lmax * 2 ^ 8 + lmin) (setLinkState l lsFailed (sendNegotiate l b)))) ∧
    (4 ≤ txLanes b l → 4 ≤ rxLanes b l → max (ownLmin b) lmin ≤ min (ownLmax b) lmax → Acts (.negotiate l lmin lmax pl pid tb rb) s (fun _ =>
      enterUp l (setFld (uLink l) Fld.jxlStatePeerlink pl (setFld (uLink l) Fld.jxlStateLevel (min (ownLmax b) lmax)
        (setReg (uLink l) Off.jxlPeerHi (pid / 2 ^ 32) (setReg (uLink l) Off.jxlPeerLo pid (sendNegotiate l b)))))))) ∧
  (v.toNat % 2 ^ 16 ≠ s.blk.tly.store.lanes.get 0 l → bitOf v.toNat 31 = true →
    (s.blk.tly.store.laneUsed.get 0 l < 8 → AnswersWith (.lanemapCommit l v) s (fun b =>
      b.tly.store.lanes.get 0 l = v.toNat % 2 ^ 16 ∧ b.tly.store.laneUsed.get 0 l = s.blk.tly.store.laneUsed.get 0 l + 1 ∧
      (∀ l' : Nat, l' ≠ l.val → b.tly.store.lanes.get 0 l' = s.blk.tly.store.lanes.get 0 l' ∧
        b.tly.store.laneUsed.get 0 l' = s.blk.tly.store.laneUsed.get 0 l'))) ∧
    (8 ≤ s.blk.tly.store.laneUsed.get 0 l → AnswersWith (.lanemapCommit l v) s (fun b =>
      b.tly.store = s.blk.tly.store ∧ flag b (uLink l) Fld.jxlStatusRemapRefused = true))) ∧
  (∀ (f : List Byte) (corr uncorr : Nat), linkUp s.blk l = true → linkMode s.blk l = 1 → f.length = 288 →
    (leAt f 284 4 ≠ crc32 (f.take 284) ∨ leAt f 1 3 ≠ (linkOf s.blk l).rxSeq → AnswersWith (.flitReceive l f corr uncorr) s (fun b =>
      (linkOf b l).nakked = true ∧ (linkOf b l).rxSeq = (linkOf s.blk l).rxSeq ∧ (linkOf b l).rxq = (linkOf s.blk l).rxq ∧
      b.fab.flits.length = s.blk.fab.flits.length + (if (linkOf s.blk l).nakked = true ∧ leAt f 284 4 = crc32 (f.take 284) then 0 else 1) ∧ b.grn = s.blk.grn)) ∧
    (leAt f 284 4 = crc32 (f.take 284) → leAt f 1 3 = (linkOf s.blk l).rxSeq → leAt f 0 1 % 16 = 1 → bitOf (leAt f 7 1) 0 = false →
      let vc := leAt f 0 1 / 16 % 8
      let q := (linkOf s.blk l).rxq.get [] vc ++ (f.drop 28).take 256
      (takeFrames 16 q).1 = [] → AnswersWith (.flitReceive l f corr uncorr) s (fun b =>
        (linkOf b l).nakked = false ∧ (linkOf b l).rxSeq = ((linkOf s.blk l).rxSeq + 1) % 2 ^ 24 ∧
        (linkOf b l).rxq.get [] vc = (takeFrames 16 q).2 ∧ b.grn = s.blk.grn))) ∧
  (∀ ack : Fin 0x1000000, linkUp s.blk l = true → linkMode s.blk l = 1 → let x := ackTo ack (linkOf s.blk l)
    AnswersWith (.nakReplay l ack) s (fun b => (linkOf b l).replay = x.replay ∧ b.fab.flits = s.blk.fab.flits ++ x.replay.map (fun r => (l.val, r.2)) ∧
      (∀ r ∈ x.replay, x.tries.get 0 r.1 < (linkOf b l).tries.get 0 r.1) ∧ (linkOf b l).txSeq = (linkOf s.blk l).txSeq)) ∧
  (∀ lost : Bool, linkUp s.blk l = true → lost = true ∨ (∃ t ∈ (linkOf s.blk l).tries, 16 ≤ t.2) →
    let recent := (linkOf s.blk l).retrains.filter fun t => decide (s.blk.face.time < t + 1000000)
    (3 ≤ recent.length → Acts (.jxlRetrain l lost) s (failLink l)) ∧
    (recent.length < 3 → Acts (.jxlRetrain l lost) s (fun b => linkLeft l (notify (uLink l) Fld.jxlStatusRetrain .jxlRetrain
      (reg b (uLink l) Off.jxlLanemap % 2 ^ 16) (setLinkState l lsRetraining
        (modLink l (fun x => { x with retrains := recent ++ [b.face.time] }) b)))))) ∧
  (∀ tb rb : Fin 256, linkState s.blk l = lsRetraining → let b := excludeLanes l tb rb s.blk
    (txLanes b l < 4 ∨ rxLanes b l < 4 → Acts (.retrainDone l tb rb) s (fun _ => failLink l b)) ∧
    (4 ≤ txLanes b l → 4 ≤ rxLanes b l → Acts (.retrainDone l tb rb) s (fun _ =>
      let d := enterUp l (modLink l (fun x => { x with tries := [] }) b)
      pumpLink l (nakReplay l (linkOf d l).acked d))))

/-- A request to a rank that is no member answers NOT_PRESENT (R375); one that must wait waits, another takes the next counter and is held (R370, R372); of
a unit that notes its accesses, a request no note carries is not sent. A held request is resent unchanged after RTO, and fails after eight sends (R370). An authentic WRITE, READ, ATOMIC or collective frame is executed on arrival
(R373), a repeat answered from the record (R371), one on a detour forwarded as it is (R378), a COMPLETION ends its request, a HEARTBEAT is noted (R379); a frame that does not authenticate is counted
(R369). A KEYX of no known job or failing a check is rejected (R537).
The model's choices in log entries 11, 12, 16, 41, 69, 73 stand behind it. -/
def Obligations.FabricFrames : Prop := ∀ (s : State), mainOn s.blk = true →
  (∀ q : FabReq, notesFar q.unit = true → farSent q s.blk = none → Acts (.fabricRequestSend q) s id) ∧
  (∀ (q : FabReq) (d : Block), s.blk.fab.wants = [] → (if notesFar q.unit = true then farSent q s.blk else some s.blk) = some d →
    (q.kind ≠ 5 → slotValid s.blk q.job = false ∨ rtValid (routeOf s.blk q.job q.rank) = false → Acts (.fabricRequestSend q) s (fun _ =>
      answer .notPresent 0 (addrFault ⟨q.unit, some q.job, q.train, false⟩ (q.rank * 2 ^ 54 + q.addr % 2 ^ 54) d))) ∧
    (q.kind = 5 → slotValid s.blk q.job = false ∨ rtValid (routeOf s.blk q.job q.rank) = false →
      Acts (.fabricRequestSend q) s (fun _ => endReq q .notPresent 0 d)) ∧
    (∀ p, slotValid s.blk q.job = true → rtValid (routeOf s.blk q.job q.rank) = true → pairOf s.blk q.job q.rank = some p →
      (mustWait s.blk q = true → AnswersWith (.fabricRequestSend q) s (fun b => b.fab.wants = [q] ∧ b.fab.held = s.blk.fab.held)) ∧
      (∀ key, mustWait s.blk q = false → p.ctrs.get 0 0 < 2 ^ 32 → epochKey p p.txEpoch = some key → AnswersWith (.fabricRequestSend q) s (fun b =>
        b.fab.wants = [] ∧ (∃ h, b.fab.held = s.blk.fab.held ++ [h] ∧ h.req = q ∧ h.ctr = p.ctrs.get 0 0 ∧ h.epoch = p.txEpoch ∧ h.sends = 1 ∧
          h.at' = s.blk.face.time) ∧
        ∃ p', pairOf b q.job q.rank = some p' ∧ p'.ctrs.get 0 0 = p.ctrs.get 0 0 + 1)))) ∧
  (∀ (j : Fin 8) (r : Fin 1024) (ctr : Nat) (h : Held), heldOf s.blk j r ctr = some h → h.at' + rtoOf s.blk h ≤ s.blk.face.time →
    (h.sends < 8 → AnswersWith (.fabricResendTimeout j r ctr) s (fun b => ∃ h', h'.frame = h.frame ∧ h'.sends = h.sends + 1 ∧ h'.req = h.req ∧
      h'.at' = s.blk.face.time ∧ b.fab.held = s.blk.fab.held.map (fun x => if x = h then h' else x))) ∧
    (8 ≤ h.sends → Acts (.fabricResendTimeout j r ctr) s (fun b =>
      finishReq h .opFailed 0 (notify uChip Fld.jxlFabStatusE2eFail .jxlE2eFail (h.req.job * 2 ^ 29 + h.req.rank) b)))) ∧
  (∀ (l : Fin 24) (f : List Byte) (j : Nat) (kind : Nat) (i : Instr), let h := fabHead f
    f.length = 48 + h.len → h.len ≤ 4096 → h.kind = kind → slotOfJob s.blk h.jobid = some j → h.detour = false ∨ h.dst = ownRank s.blk j →
    kind = 6 ∨ (ownLmin s.blk ≤ h.level ∧ h.level ≤ ownLmax s.blk) →
    (kind, i) ∈ [(1, Instr.fabricWrite l f), (2, .fabricRead l f), (3, .fabricAtomic l f), (4, .fabricCompletion l f), (5, .fabricColl l f), (6, .heartbeat l f)] →
    (openFrom s.blk j h f = (none, none) → Acts i s (frameRx (authFail (some j) h.src))) ∧
    (∀ e v t, openFrom s.blk j h f = (some (e, v), t) →
      let start (b : Block) : Block := noteEpoch j h.src e (match t with
        | some sp => modFab (fun x => { x with takenBy := x.takenBy.put (rankKey j h.src) sp }) (takeRank j sp h.src b)
        | none => b)
      (kind ∈ [1, 2, 3, 5] → Acts i s (frameRx fun b => requestRx j l e h v (start b)) ∧
        ∀ p g, pairOf (start s.blk) j h.src = some p → p.record.find (recKey e h.ctr) = some (some g) →
          Acts i s (frameRx fun b => (routeFrame j h.src (some l) g (start b)).2)) ∧
      (kind = 4 → Acts i s (frameRx fun b => runAllColls <| completionRx j h.src (h.addr % 2 ^ 32) h.op v (start b))) ∧
      (kind = 6 → Acts i s (frameRx fun b => beatRx j h.src v (start b))))) ∧
  (∀ (l : Fin 24) (f : List Byte) (j : Nat) (i : Instr), let h := fabHead f
    f.length = 48 + h.len → h.len ≤ 4096 → h.detour = true → slotOfJob s.blk h.jobid = some j → h.dst ≠ ownRank s.blk j →
    (h.kind, i) ∈ [(1, Instr.fabricWrite l f), (2, .fabricRead l f), (3, .fabricAtomic l f), (4, .fabricCompletion l f), (5, .fabricColl l f), (6, .heartbeat l f),
      (7, .keyx l f)] → Acts i s (frameRx (forwardFrame h f))) ∧
  (∀ (l : Fin 24) (f : List Byte), let h := fabHead f
    let p := (f.drop 32).take h.len
    f.length = 48 + h.len → h.len ≤ 4096 → h.kind = 7 → h.detour = false →
    (keyxSlot s.blk h.jobid = none → Acts (.keyx l f) s (frameRx (keyxReject none 3 h.src))) ∧
    (∀ j, keyxSlot s.blk h.jobid = some j → h.len = 192 → h.dst = ownRank s.blk j →
      (keyxBad s.blk j h p ≠ 0 → Acts (.keyx l f) s (frameRx (keyxReject (some j) (keyxBad s.blk j h p) h.src))) ∧
      (keyxBad s.blk j h p = 0 → AnswersWith (.keyx l f) s (fun b => (b.fab.agree.find (rankKey j h.src)).isSome = true)))) ∧
  (∀ (j : Fin 8) (r : Fin 1024),
    (∀ p t, pairOf s.blk j r = some p → p.nextAt = some t → t + 100000 ≤ s.blk.face.time → AnswersWith (.epochKeyRetire j r) s (fun b =>
      ∃ p', pairOf b j r = some p' ∧ p'.rxEpoch = p.rxEpoch + 1 ∧ p'.nextAt = none ∧ p'.record = p.record ∧ p'.ctrs = p.ctrs)) ∧
    (slotValid s.blk j = true → rtWatch (routeOf s.blk j r) = true → s.blk.fab.silent.contains (rankKey j r) = false →
      (s.blk.fab.beats.get ⟨0, 0, 0, 0, 0, 0, none, 0, 0⟩ (rankKey j r)).at' + hbMiss s.blk * hbInterval s.blk ≤ s.blk.face.time →
      Acts (.jxlPeerSilent j r) s (fun b => rankSilent j r (notify uChip Fld.jxlFabStatusPeerSilent .jxlPeerSilent (j * 2 ^ 29 + r)
        (modFab (fun f => { f with silent := f.silent ++ [rankKey j r] }) b)))) ∧
    AnswersWith (.jobFlush j) s (fun b => b.fab.held = s.blk.fab.held.filter (fun h => h.req.job != j.val) ∧
      b.fab.wants = s.blk.fab.wants.filter (fun q => q.job != j.val) ∧ b.grn.mem = s.blk.grn.mem)) ∧
  (fld s.blk uQcp Fld.qcpDevstateState ≠ 8 → s.blk.fab.hbAt + hbInterval s.blk ≤ s.blk.face.time →
    AnswersWith .heartbeatSend s (fun b => b.fab.hbAt = s.blk.face.time ∧ b.fab.held = s.blk.fab.held ∧ b.grn.mem = s.blk.grn.mem)) ∧
  (fld s.blk uQcp Fld.qcpDevstateState = 8 → Acts .heartbeatSend s id)

/-- A collective of an enabled queue whose next descriptor is right leaves the ring and joins the engine's running ones (R384); one that is not right ends
with BAD_ARGUMENT (R385); one whose descriptor, group entry or lists cannot be read ends with that read's status (log entry 76). An engine in reset starts
none (R513).
An ended collective adds one to its DONE block, counts, reports, and on OK signals its token (R394); an abort ends every collective of the job slot
on the engine and drops what came early for it (R395).
The model's choices in log entries 42, 69, 73, 76 stand behind it. -/
def Obligations.Collectives : Prop :=
  (∀ (s : State) (q : Fin 0x40000) (cop : Nat) (i : Instr) (c : Block), mainOn s.blk = true →
    (cop, i) ∈ [(1, Instr.allReduce q), (2, .reduceScatter q), (3, .allGather q), (4, .allToAll q), (5, .colSend q), (6, .recv q), (7, .permute q),
      (8, .barrier q)] →
    useQueue q s.blk = (true, c) → qType c q = 3 → qEnabled c q = true → qWork c q = true → (collsOf c (engineOf q)).length < 16 →
    let f := engineOf q
    (absorbing c (uCol f) = true → Acts i s (fun _ => c)) ∧ (absorbing c (uCol f) = false →
    let d := bytesAt c (ringAt c q (qCons c q)) 64
    let k : Coll := ⟨q, qJob c q, d, 0, [], none⟩
    let r := granaryRead ⟨uCol f, none, false, false⟩ (ringAt c q (qCons c q)) 64 c
    let a := qSet q 8 4 ((qCons c q + 1) % 2 ^ 32) r.2.2
    let t := touchRanges (uCol f) (collRanges a f (qJob c q) d) a
    let b := t.2
    (r.1 ≠ .ok → Acts i s (fun _ => setColls f (collsOf a f ++ [{ k with desc := List.replicate 64 0, status := some r.1 }]) a)) ∧
    (r.1 = .ok → t.1 ≠ .ok → kCop d = cop ∨ kCop d = 0 ∨ 8 < kCop d →
      Acts i s (fun _ => setColls f (collsOf b f ++ [{ k with status := some t.1 }]) b)) ∧
    (r.1 = .ok → t.1 = .ok → collBad b f (qJob c q) d = true → kCop d = cop ∨ kCop d = 0 ∨ 8 < kCop d →
      Acts i s (fun _ => setColls f (collsOf b f ++ [{ k with status := some .badArgument }]) b)) ∧
    (r.1 = .ok → t.1 = .ok → collBad b f (qJob c q) d = false → kCop d = cop → Acts i s (fun _ =>
      let b := takeEarly f k (setColls f (collsOf b f ++ [k]) b)
      let e := (((collsOf b f).find? (sameColl k)).getD k).got.foldl (fun b p => stagePiece f k p b) b
      collRun f (collFuel k) (((collsOf e f).find? (sameColl k)).getD k) e)) ∧
    (r.1 = .ok → kCop d ≠ cop → 1 ≤ kCop d → kCop d ≤ 8 → Acts i s (fun _ => c)))) ∧
  (∀ (s : State) (f : Fin 4) (j : Fin 8), mainOn s.blk = true →
    (∀ k st peers, collsOf s.blk f = [k] → k.status = some st → let b := bump (uCol f) Off.colOpsLo 1 (permuteEnds k st (setColls f [] s.blk))
      let c := if kDone k.desc = 0 then b else
        (devAtomic (collIssuer b f k.job) peers 0x02 (kDone k.desc + (if st = .ok then 0 else 8)) 1 0 b).2.2
      (st = .ok → kSignal k.desc = true → Acts (.collectiveComplete ⟨f, peers⟩) s (fun _ =>
        runAllColls { c with til := { c.til with signals := c.til.signals ++ [(kSigTile k.desc, ⟨kSigTok k.desc, k.job, uCol f⟩)] } })) ∧
      (st = .ok → kSignal k.desc = false → Acts (.collectiveComplete ⟨f, peers⟩) s (fun _ => runAllColls c)) ∧
      (st = .badArgument → Acts (.collectiveComplete ⟨f, peers⟩) s (fun _ =>
        runAllColls (notify (uCol f) Fld.colStatusBad .colBad (k.job * 2 ^ 29 + kSeq k.desc % 2 ^ 16) c))) ∧
      (st = .opFailed → Acts (.collectiveComplete ⟨f, peers⟩) s (fun _ =>
        runAllColls (notify (uCol f) Fld.colStatusFailed .colFailed (k.job * 2 ^ 29 + kSeq k.desc % 2 ^ 16) c))) ∧
      (st ≠ .ok → st ≠ .badArgument → st ≠ .opFailed → Acts (.collectiveComplete ⟨f, peers⟩) s (fun _ => runAllColls c))) ∧
    AnswersWith (.colAborted f j) s (fun b => (∀ k ∈ collsOf b f, k.job ≠ j.val) ∧ (∀ e ∈ b.fab.early.get [] f, e.job ≠ j.val) ∧
      flag b (uCol f) Fld.colStatusAborted = true))

/-- What a member reduces depends on the contributions alone, taken in position order, and not on the order their frames arrived in (R389): two engines
that hold the same pieces in different orders, no two pieces of one contribution overlapping, reduce their shard alike.
The model's choices in log entry 42 stand behind it. -/
def Obligations.ReductionOrder : Prop := ∀ (f j : Nat) (c d : Coll) (rs : List Nat) (b : Block), c.desc = d.desc → c.got.Perm d.got →
  (c.got.Pairwise fun x y => x.typ = y.typ → x.src = y.src →
    64 * x.off + x.data.length ≤ 64 * y.off ∨ 64 * y.off + y.data.length ≤ 64 * x.off) →
  reduceOwn f j c rs b = reduceOwn f j d rs b

/-! ### The frame MACs -/

/-- A frame shorter than 64 bytes, with a bad FCS or for another address is discarded and counted (R405, R406); one that is accepted and fits joins its queue
and its class share (R411, R413, R415), and its release gives the share back; a frame longer than MAC_MAXLEN is refused at transmission, another queues by
class (R416), and a MAC whose link is not in Ethernet mode sends nothing (R403, log entry 70); a queue's configuration changes its consumer only while it is empty (R412).
The model's choices in log entries 17, 61, 70 stand behind it. -/
def Obligations.MacFrames : Prop := ∀ (s : State) (m : Fin 26), mainOn s.blk = true → let u := macUnit m
  (∀ (f : List Byte) (corr uncorr : Nat), macWorks s.blk u = true → flag s.blk u Fld.macCtrlRxEn = true →
    let b := macCount u 28 uncorr (macCount u 27 corr s.blk)
    let body := f.take (f.length - 4)
    let h := ethHead (fld s.blk u Fld.macCtrlDefpri) body
    (f.length < 64 → Acts (.macFrameReceive m f false corr uncorr) s (fun _ => macCount u 5 1 b)) ∧
    (64 ≤ f.length → f.length ≤ maxLen s.blk u → leNat (f.drop (f.length - 4)) ≠ crc32 body →
      Acts (.macFrameReceive m f false corr uncorr) s (fun _ => macCount u 4 1 b)) ∧
    (64 ≤ f.length → f.length ≤ maxLen s.blk u → leNat (f.drop (f.length - 4)) = crc32 body → daAccepted s.blk u h.da = false →
      Acts (.macFrameReceive m f false corr uncorr) s (fun _ => macCount u 7 1 b)) ∧
    (∀ q i dflt, 64 ≤ f.length → f.length ≤ maxLen s.blk u → leNat (f.drop (f.length - 4)) = crc32 body → daAccepted s.blk u h.da = true →
      h.etype ≠ 0x8808 → isLinkUnit u = false ∨ h.etype ≠ fld s.blk uChip Fld.jxlEthertypeType → steer s.blk u h = some (q, i, dflt) →
      consumerOf s.blk u q ≠ 3 → shareUse (portOf s.blk u) h.pcp + body.length ≤ 512 * 1024 →
      queueBytes (rxOf (portOf s.blk u) q) + 16 + body.length ≤ max 1 (fld s.blk u Fld.macRxqCfgLimit q) * 1024 →
      AnswersWith (.macFrameReceive m f false corr uncorr) s (fun c =>
        rxOf (portOf c u) q = rxOf (portOf s.blk u) q ++ [⟨min f.length 0xFFFF, false, false, h.tagged, isGroup h.da, dflt, h.pcp, h.vid, i,
          s.blk.face.time % 2 ^ 32, body⟩] ∧
        shareUse (portOf c u) h.pcp = shareUse (portOf s.blk u) h.pcp + body.length ∧ (∀ q', q' ≠ q → rxOf (portOf c u) q' = rxOf (portOf s.blk u) q') ∧
        (∀ u', u' ≠ u → portOf c u' = portOf s.blk u') ∧ c.grn = s.blk.grn ∧ c.til = s.blk.til))) ∧
  (∀ (q : Fin 64) (f : RxFrame) (r : List RxFrame), rxOf (portOf s.blk u) q = f :: r → AnswersWith (.rxFrameRelease m q) s (fun c =>
    rxOf (portOf c u) q = r ∧ shareUse (portOf c u) f.pcp = shareUse (portOf s.blk u) f.pcp - f.bytes.length ∧
    (∀ q' : Fin 64, q' ≠ q → rxOf (portOf c u) q' = rxOf (portOf s.blk u) q') ∧ c.grn = s.blk.grn ∧ c.til = s.blk.til)) ∧
  (∀ (c : Fin 8) (f : List Byte), macWorks s.blk u = false → Acts (.macFrameTransmit m c f) s (answer .notPresent 0)) ∧
  (∀ (c : Fin 8) (f : List Byte), macWorks s.blk u = true →
    (maxLen s.blk u < (padFcs f).length → Acts (.macFrameTransmit m c f) s (fun b => answer .badArgument 0 (macCount u 20 1 b))) ∧
    ((padFcs f).length ≤ maxLen s.blk u → Acts (.macFrameTransmit m c f) s (fun b =>
      answer .ok 0 (pump u (modPort u (fun p => { p with tx := p.tx.put c (txOf p c ++ [padFcs f]) }) b))))) ∧
  (∀ (q : Fin 64) (v : Word),
    (q.val ≠ 0 → bitsOf v.toNat 31 30 ≠ fld s.blk u Fld.macRxqCfgConsumer q → rxOf (portOf s.blk u) q ≠ [] → Acts (.rxqCfgWrite m q v) s id) ∧
    (q.val ≠ 0 → bitsOf v.toNat 31 30 = fld s.blk u Fld.macRxqCfgConsumer q ∨ rxOf (portOf s.blk u) q = [] → Acts (.rxqCfgWrite m q v) s (fun b =>
      setReg u (Off.macRxqCfg q) (maskedWrite (reg b u (Off.macRxqCfg q)) v.toNat 0xC000FFFF) b)) ∧
    (q.val = 0 → Acts (.rxqCfgWrite m q v) s (fun b =>
      setReg u (Off.macRxqCfg q) (maskedWrite (reg b u (Off.macRxqCfg q)) v.toNat 0xFFFF) b)))

/-- A pause holds its classes for its quanta, quanta 0 ends the hold (R418); a hold's time runs out; this side's pause is sent again (R419), let go after LIMIT
(R420); the watchdog ends a hold that lasts LIMIT and starts a hold-off, which ends after HOLD (R421, R422); a new MODE releases all (R417). An idle
transmitter goes to LPI and wakes for a frame (R423, R424); a link comes up as the type MAC_CTRL.PHY names, but not without REFCLK1 (R404, R590), and goes down with what it held (R426); AUTO alternates (R404).
The model's choices in log entries 17, 58, 70 stand behind it. -/
def Obligations.MacPauseAndLink : Prop := ∀ (s : State) (m : Fin 26), mainOn s.blk = true → macWorks s.blk (macUnit m) = true → let u := macUnit m
  let p := portOf s.blk u
  (∀ q : Fin 65536,
    (flag s.blk u Fld.macCtrlRxEn = false → Acts (.pauseFrameReceive m q) s id) ∧
    (flag s.blk u Fld.macCtrlRxEn = true → pauseMode s.blk u = 1 → Acts (.pauseFrameReceive m q) s (fun b => pump u (holdClass u 8 q (macCount u 11 1 b)))) ∧
    (flag s.blk u Fld.macCtrlRxEn = true → pauseMode s.blk u ≠ 1 → Acts (.pauseFrameReceive m q) s (fun b => macCount u 13 1 (macCount u 11 1 b)))) ∧
  (∀ (vec : Fin 256) (qs : List Nat),
    (flag s.blk u Fld.macCtrlRxEn = true → pauseMode s.blk u = 2 → ∀ c : Fin 8, bitOf vec c = true → bitOf (fld s.blk u Fld.macPauseCtrlRxEn) c = true → p.holdoff.find c = none →
      (qs.getD c 0 ≠ 0 → AnswersWith (.pfcFrameReceive m vec qs) s (fun b => (portOf b u).held.find c = some (nowPs s.blk + quantaPs s.blk u (qs.getD c 0)))) ∧
      (qs.getD c 0 = 0 → AnswersWith (.pfcFrameReceive m vec qs) s (fun b => (portOf b u).held.find c = none))) ∧
    (pauseMode s.blk u ≠ 2 ∨ flag s.blk u Fld.macCtrlRxEn = false → AnswersWith (.pfcFrameReceive m vec qs) s (fun b => portOf b u = p))) ∧
  (∀ c : Fin 9,
    (∀ t, p.held.find c = some t → t ≤ nowPs s.blk → Acts (.pauseHoldExpire m c) s (fun b =>
      pump u (modPort u (fun p => { p with held := p.held.drop c }) b))) ∧
    (∀ t l, p.pausing.find c = some (t, l) → l * 1000000 + quantaPs s.blk u 32768 ≤ nowPs s.blk →
      xon s.blk u c ≤ watchedUse s.blk u c → Acts (.pauseRefresh m c) s (fun b =>
        sendPause u c 0xFFFF (setPort u { p with pausing := p.pausing.put c (t, b.face.time) } b))) ∧
    (∀ t l, p.pausing.find c = some (t, l) → wdLimit s.blk u ≠ 0 → t + wdLimit s.blk u ≤ s.blk.face.time →
      Acts (.macTxPauseAbandon m c) s (fun b => macCount u 22 1 (sendPause u c 0 (setPort u { p with
        pausing := p.pausing.drop c, abandon := p.abandon.put c (b.face.time + wdHold b u) } b)))) ∧
    (∀ t, p.abandon.find c = some t → t ≤ s.blk.face.time →
      let b := modPort u (fun p => { p with abandon := p.abandon.drop c }) s.blk
      Acts (.pauseAbandonHoldEnd m c) s (fun _ => if (pauseClasses b u).contains c.val then checkPause u c b else b)) ∧
    (wdLimit s.blk u ≠ 0 → (p.held.find c).isSome = true → wdLimit s.blk u ≤ watched s.blk p c → Acts (.macPauseStorm m c) s (fun b =>
      pump u (notify u Fld.macStatusPauseStorm .macPauseStorm c (macCount u 23 1 (setPort u { p with
        held := p.held.drop c, watch := p.watch.drop c, holdoff := p.holdoff.put c (b.face.time + wdHold b u) } b))))) ∧
    (∀ t, p.holdoff.find c = some t → t ≤ s.blk.face.time → Acts (.macHoldoffEnd m c) s (fun b =>
      notify u Fld.macStatusHoldoffEnd .macHoldoffEnd c (modPort u (fun p => { p with holdoff := p.holdoff.drop c }) b)))) ∧
  (∀ v : Word, let b := setReg u Off.macPauseCtrl (maskedWrite (reg s.blk u Off.macPauseCtrl) v.toNat 0xFFFF03) s.blk
    (fld b u Fld.macPauseCtrlMode = fld s.blk u Fld.macPauseCtrlMode → Acts (.pauseModeWrite m v) s (fun _ =>
      modPort u (fun p => { p with pausing := p.pausing.filter fun e => (pauseClasses b u).contains e.1 }) b)) ∧
    (fld b u Fld.macPauseCtrlMode ≠ fld s.blk u Fld.macPauseCtrlMode → AnswersWith (.pauseModeWrite m v) s (fun c =>
      (portOf c u).held = [] ∧ (portOf c u).holdoff = [] ∧ (portOf c u).pausing = [] ∧ reg c u Off.macPauseCtrl = reg b u Off.macPauseCtrl))) ∧
  (flag s.blk u Fld.macEeeCtrlEn = true → p.link = true → p.lpi = none → p.wakeEnd = none → waiting p = 0 → p.ctl = [] →
    p.idleAt + max 1 (fld s.blk u Fld.macEeeCtrlIdle) ≤ s.blk.face.time →
    Acts (.lpiEnter m) s (fun b => macCount u 25 1 (setPort u { p with lpi := some b.face.time } b))) ∧
  (∀ t, p.lpi = some t → waiting p ≠ 0 ∨ p.ctl ≠ [] → Acts (.lpiWake m) s (fun b =>
    modPort u (fun p => { p with lpi := none, wakeEnd := some (b.face.time + fld b u Fld.macEeeTwTxTw) })
      (macCount u 26 (1000 * (b.face.time - t)) (modPort u (fun p => { p with lpi := some b.face.time }) b)))) ∧
  (∀ t, p.wakeEnd = some t → t ≤ s.blk.face.time → Acts (.lpiWakeTimeEnd m) s (fun b => pump u (modPort u (fun p => { p with wakeEnd := none }) b))) ∧
  (∀ on : Bool, Acts (.rxLpiIndication m on) s (fun b => setPort u { p with rxLpi := on } (if on && !p.rxLpi then macCount u 15 1 b else b))) ∧
  (∀ (phy : Fin 16) (lanes : Fin 9), s.blk.tly.ref1 = false → Acts (.macLinkUp m phy lanes) s id) ∧
  (∀ (phy : Fin 16) (lanes : Fin 9), p.link = false → phyFits s.blk u phy lanes = false → Acts (.macLinkUp m phy lanes) s id) ∧
  (∀ (phy : Fin 16) (lanes : Fin 9), s.blk.tly.ref1 = true → p.link = false → phyFits s.blk u phy lanes = true → Acts (.macLinkUp m phy lanes) s (fun b =>
    let d := pump u (notify u Fld.macStatusLinkUp .macLinkUp (phy * 2 ^ 28 + lanes * 2 ^ 24) (setPort u { p with
      link := true, phy := phy, lanes := lanes, idleAt := b.face.time } b))
    if isLinkUnit u then ethLinkUp (u - 128) lanes d else d)) ∧
  (p.link = true → AnswersWith (.macLinkDown m) s (fun c => (portOf c u).link = false ∧ (portOf c u).lpi = none ∧
    (isLinkUnit u = false → (portOf c u).tx = [] ∧ (portOf c u).ctl = [] ∧ (portOf c u).held = [] ∧ (portOf c u).holdoff = [] ∧
      (portOf c u).pausing = [] ∧ flag c u Fld.macStatusLinkDown = true))) ∧
  (phyCode s.blk u = 0 → p.link = false → p.tryAt + 500000 ≤ s.blk.face.time → Acts (.autonegTimeout m) s (fun b =>
    setPort u { p with tryC2m := !p.tryC2m, tryAt := b.face.time } b))

/-! ### The control protocol -/

/-- A SEQ a session has accepted is never accepted again, whatever frames it accepts or turns away after it (R434). -/
def Obligations.ReplayWindow : Prop := ∀ (x : Sess) (n : Nat) (later : List Nat), seqOk x n = true →
  let y := later.foldl (fun y k => if seqOk y k then seqTake k y else y) (seqTake n x)
  seqOk y n = false ∧ x.rxHigh ≤ y.rxHigh ∧ n ≤ y.rxHigh ∧ (∀ k, y.rxHigh < k → seqOk y k = true)

/-- An OPEN signed by an enrolled key makes a session, one for an empty slot or badly signed is refused, and past 64 sessions too (R435); CLOSE and IDLE end
one (R436). Command entries are written and let a held doorbell act (R440); a doorbell acts, is answered as old or out of range, or is held (R441, R442);
a completion kept is sent again (R446); DATA goes to its window (R448); a page arrives in eight chunks, one of another generation being refused (R297), and leaves with PAGE_ACK (R449); SYNC is answered
with the header in FAULT (R454).
The model's choices in log entries 11, 37, 75 stand behind it. -/
def Obligations.ProtocolFrames : Prop := ∀ (s : State) (port : Fin 2) (n : Fin 64), mainOn s.blk = true →
  (∀ fl h c tag, FrameAt s.blk port n fl h c tag → h.op = 0x01 → c.length = 120 → leAt c 33 7 = 0 → idOk s.blk = true → rngOk s.blk = true →
    let b0 := rxRelease (uFe port) n s.blk
    let past := recent b0 b0.qcp.opens
    let b := modQcp (fun q => { q with opens := past ++ [b0.face.time] }) b0
    (100 ≤ past.length → Acts (.openSession port n) s (fun _ => qcount Off.qcpRxBadLo b0)) ∧
    (past.length < 100 → keySlot b (leAt c 32 1) = none → Acts (.openSession port n) s (fun _ => refuse false fl .authFailed b)) ∧
    (∀ pub, past.length < 100 → keySlot b (leAt c 32 1) = some pub →
      (edVerify pub (c.take 56) (c.drop 56) = false → Acts (.openSession port n) s (fun _ => refuse false fl .authFailed b)) ∧
      (edVerify pub (c.take 56) (c.drop 56) = true → 64 ≤ sessCount false false b → Acts (.openSession port n) s (fun _ => refuse false fl .noResource b)) ∧
      (edVerify pub (c.take 56) (c.drop 56) = true → sessCount false false b < 64 → let e := drawEntropy b
        ∀ k, sessionKeys "QCP" e.1 (c.take 32) ((c.drop 40).take 16) ((drawEntropy e.2).1.take 16) b.qcp.nextSess = some k →
        AnswersWith (.openSession port n) s (fun d => ∃ x, d.qcp.sessions = s.blk.qcp.sessions ++ [x] ∧ x.id = s.blk.qcp.nextSess ∧ x.pub = pub ∧
          x.slot = leAt c 32 1 ∧ x.ra = false ∧ x.rxHigh = 0 ∧ x.txSeq = 0 ∧ x.flow = fl)))) ∧
  (∀ x fl h p c, Arrived s.blk port n 0x04 x fl h p c → Acts (.closeSession port n) s (fun _ => closeSess x.id false c)) ∧
  (∀ x id, sessOf s.blk id = some x → x.ra = false → x.lastAt + max 1 (fld s.blk uQcp Fld.qcpCtrlIdle) * 1000000 ≤ s.blk.face.time →
    AnswersWith (.sessionIdleClose id) s (fun b => sessOf b id = none ∧ (∀ i, i ≠ id → sessOf b i = sessOf s.blk i) ∧
      flag b uQcp Fld.qcpStatusSessionClose = true)) ∧
  (∀ x fl h p c d, Arrived s.blk port n 0x10 x fl h p c → queueRefusal x h.queue [1, 2] c = (none, d) → 72 ≤ p.length → p.length % 64 = 8 →
    p.length ≤ 8 + 139 * 64 → leAt p 4 4 = 0 →
    let m := (p.length - 8) / 64
    let b := pruneArrived h.queue d
    (∀ k < m, isBelow (qProd b h.queue) ((leAt p 0 4 + k) % 2 ^ 32) = true ∨ ahead (qCons b h.queue) ((leAt p 0 4 + k) % 2 ^ 32) < 2 ^ qDepth b h.queue) →
    Acts (.cmdWrite port n) s (fun _ => settleBells h.queue 17 ((List.range m).foldl (fun b k =>
      writeEntry h.queue ((leAt p 0 4 + k) % 2 ^ 32) ((p.drop (8 + 64 * k)).take 64) b) b))) ∧
  (∀ x fl h p c d, Arrived s.blk port n 0x11 x fl h p c → devState c ≠ dsFault → queueRefusal x h.queue [1, 2] c = (none, d) →
    let b := pruneArrived h.queue d
    let prod := leAt h.param 0 4
    let dseq := leAt h.param 4 4
    let gap := ahead (qDseq b h.queue) dseq
    (gap = 0 ∨ 2 ^ 31 ≤ gap → Acts (.doorbell port n) s (fun _ => qstatus x.id fl h.queue .ok none b)) ∧
    (1 ≤ gap → gap < 2 ^ 31 → 2 ^ qDepth b h.queue < ahead (qCons b h.queue) prod → Acts (.doorbell port n) s (fun _ =>
      qstatus x.id fl h.queue .badArgument none b)) ∧
    (gap = 1 → ahead (qCons b h.queue) prod ≤ 2 ^ qDepth b h.queue → allArrived b h.queue prod = true → Acts (.doorbell port n) s (fun _ =>
      settleBells h.queue 16 (actBell h.queue prod dseq (whoOf x fl) b))) ∧
    (1 ≤ gap → gap < 2 ^ 31 → ahead (qCons b h.queue) prod ≤ 2 ^ qDepth b h.queue → gap ≠ 1 ∨ allArrived b h.queue prod = false →
      (queueRunOf b h.queue).bells = [] → AnswersWith (.doorbell port n) s (fun e =>
        (queueRunOf e h.queue).bells = [⟨prod, dseq, whoOf x fl, s.blk.face.time, false⟩] ∧ e.grn.mem = b.grn.mem))) ∧
  (∀ (q : Fin 0x40000) x, (queueRunOf s.blk q).bells = [x] → x.told = false → x.since + 10000 ≤ s.blk.face.time → Acts (.doorbellAheadTimeout q) s (fun b =>
    let c := notify uQcp Fld.qcpStatusDbAhead .qcpDoorbellAhead q (qcount Off.qcpDbAheadLo
      (modQueueRun q (fun r => { r with bells := [{ x with told := true }] }) b))
    qstatus x.who.sess x.who.flow q .doorbellAhead (some (firstMissingIdx c q)) c)) ∧
  (∀ x fl h p c d, Arrived s.blk port n 0x13 x fl h p c → queueRefusal x h.queue [2] c = (none, d) →
    (∀ k, (queueRunOf d h.queue).kept.find? (fun k => k.1 = leAt h.param 0 4) = some k → Acts (.compQuery port n) s (fun _ =>
      sessSend x.id fl 0x21 h.queue [] k.2 false d)) ∧
    ((queueRunOf d h.queue).kept.find? (fun k => k.1 = leAt h.param 0 4) = none → Acts (.compQuery port n) s (fun _ =>
      qstatus x.id fl h.queue .notPresent none d))) ∧
  (∀ x fl h p c, Arrived s.blk port n 0x30 x fl h p c → 16 ≤ p.length → leAt p 4 4 = 0 →
    (x.windows.find (leAt p 0 4) = none → Acts (.data port n) s (fun _ => qstatus x.id fl h.queue .notPresent none c)) ∧
    (∀ w, x.windows.find (leAt p 0 4) = some w →
      (w.bytes < leAt p 8 8 + (p.length - 16) → Acts (.data port n) s (fun _ => qstatus x.id fl h.queue .badArgument none c)) ∧
      (leAt p 8 8 + (p.length - 16) ≤ w.bytes → Acts (.data port n) s (fun _ =>
        (granaryWrite ⟨uQcp, some w.job, slotTrains c w.job, false⟩ (w.base + leAt p 8 8) (p.drop 16) none c).2)))) ∧
  (∀ x fl h p c d y, Arrived s.blk port n 0x32 x fl h p c → pageRefusal x h.queue c = (none, d) → p.length = 16 + 8192 → leAt p 12 4 = 0 →
    leAt p 8 4 < 8 → d.ctx.pageIns.find? (fun z => z.queue = h.queue ∧ z.page = leAt p 0 4 ∧ ptLoc (ptGet d h.queue (leAt p 0 4)) = 2) = some y →
    (y.gen ≠ leAt p 4 4 → Acts (.pageInChunk port n) s (fun _ => qstatus x.id fl h.queue .badArgument none d)) ∧
    (y.gen = leAt p 4 4 → let y' := { y with chunks := y.chunks.put (leAt p 8 4) (p.drop 16) }
    let b := modCtx (fun c => { c with pageIns := c.pageIns.map fun z => if z = y then y' else z }) d
    (y'.chunks.length < 8 → Acts (.pageInChunk port n) s (fun _ => b)) ∧
    (∀ e, 8 ≤ y'.chunks.length → y.full = none → installPage h.queue (leAt p 0 4) (y'.chunks.flatMap (·.2)) b = (true, e) →
      Acts (.pageInChunk port n) s (fun _ => settleCloses (dropPageIn h.queue (leAt p 0 4) e))))) ∧
  (∀ x fl h p c d, Arrived s.blk port n 0x33 x fl h p c → pageRefusal x h.queue c = (none, d) → p.length = 8 →
    (∃ m ∈ d.ctx.moves, m.queue = h.queue ∧ m.page = leAt p 0 4 ∧ m.gen = leAt p 4 4 ∧ m.peer = none) → Acts (.pageAck port n) s (fun _ =>
      sendPages (settleCloses (evictDone h.queue (leAt p 0 4) d)))) ∧
  (∀ x fl h p c, Arrived s.blk port n 0x41 x fl h p c →
    (devState c = dsFault → Acts (.sync port n) s (fun _ => sessSend x.id fl 0x42 0 (leBytes 4 0) (syncHeader 256 0 c) false c)) ∧
    (devState c ≠ dsFault → devState c ≠ dsOff → AnswersWith (.sync port n) s (fun b => b.grn.mem = s.blk.grn.mem ∧ b.ctx = s.blk.ctx ∧
      b.qcp.jobs = s.blk.qcp.jobs)))

/-- The reeve takes the next entry of a host queue and starts it, or completes it with what R444's checks find (R443, R444), or with the status of its read
where that fails (log entry 76); a finished command's completion
is sent on its flow and kept (R445, R446), after an ENROL_KEY the sessions of a former key close (R526), after POWER 3 the main domain goes off (R567); the records of a unit's ring are read out up to HEAD (R450).
The model's choices in log entries 21, 24, 75, 76 stand behind it. -/
def Obligations.CommandsAndEvents : Prop := ∀ (s : State) (q : Fin 0x40000), mainOn s.blk = true → reeveRuns s.blk = true →
  (∀ c, useQueue q s.blk = (true, c) → qType c q = 2 → qEnabled c q = true → (∀ d ∈ c.qcp.cmds, d.queue ≠ q.val) → qCons c q ≠ qProd c q →
    (∃ d, cachedDesc c q = some d ∧ d.length = 64) →
    let r := granaryRead ⟨uReeve, none, false, false⟩ (ringAt c q (qCons c q)) 64 c
    let k : Cmd := ⟨q, qCons c q, ownerOf c q (qCons c q), r.2.1, .taken, 0, sha512 [], [], 0⟩
    (r.1 = .ok → wakes (entryOp k) = false → namesJob (entryOp k) = false → AnswersWith (.commandStart q) s (fun b =>
      qCons b q = (qCons c q + 1) % 2 ^ 32 ∧
      b.qcp.cmds = r.2.2.qcp.cmds ++ [{ k with phase := if startCheck k r.2.2 = .ok then .started else .finished (startCheck k r.2.2) }])) ∧
    (r.1 ≠ .ok → AnswersWith (.commandStart q) s (fun b => qCons b q = (qCons c q + 1) % 2 ^ 32 ∧
      b.qcp.cmds = r.2.2.qcp.cmds ++ [{ k with entry := zeros 64, phase := .finished r.1 }]))) ∧
  (∀ (i : Nat) (c : Cmd) (st : Status), (s.blk.qcp.cmds.find? fun c => c.queue = q.val ∧ c.idx = i) = some c → c.phase = .finished st →
    let p := completionBytes c st s.blk
    let d := modQcp (fun x => { x with cmds := x.cmds.filter fun d => !(d.queue == q.val && d.idx == i) })
      (keepCompletion q i p (entryTag c) (sessSend c.who.sess c.who.flow 0x21 q [] p false s.blk))
    (entryOp c = 0x04 ∧ st = .ok → Acts (.commandCompletion q i) s (fun _ => closeKey (leAt c.entry 48 1) d)) ∧
    (entryOp c = 0x09 ∧ st = .ok ∧ c.mark = 3 → Acts (.commandCompletion q i) s (fun _ => powerTo 3 d)) ∧
    (¬(entryOp c = 0x04 ∧ st = .ok) → ¬(entryOp c = 0x09 ∧ st = .ok ∧ c.mark = 3) → Acts (.commandCompletion q i) s (fun _ => d))) ∧
  (∀ (i : Nat) (c : Cmd), (s.blk.qcp.cmds.find? fun c => c.queue = q.val ∧ c.idx = i) = some c → c.phase = .started →
    Acts (.commandCompletion q i) s id) ∧
  (∀ u : Fin 8192, (kindOf u).isSome = true → AnswersWith (.eventForward u) s (fun b => reg b u Off.evtTail = reg s.blk u Off.evtHead % 64 ∧
    b.face.ring = s.blk.face.ring ∧ b.grn.mem = s.blk.grn.mem))

/-! ### The reeve's commands -/

/-- The commands on the module (Table 12.8): NOP completes; IDENTIFY, ATTEST and COUNTERS send what they read; ENROL_KEY, CONFIG, EVENTS, DEBUG and POWER
change what they name, and POWER 2 waits for a LOAD_PROGRAM on another queue (Table 16.7); RESET_UNIT is refused while a training step runs on it (R514); DRAIN stops the jobs, RELEASE scrubs and frees, QUARANTINE removes
every job (R452, R453); WINDOW_CLOSE, FETCH and QUEUE_DESTROY act on what is there, or complete with NOT_PRESENT.
The model's choices in log entries 21, 36 stand behind it. -/
def Obligations.ModuleCommands : Prop := ∀ (s : State) (q : Fin 0x40000) (c : Cmd), mainOn s.blk = true → let a := c.entry.drop 16
  (Runs s.blk q 0x01 c → Acts (.nop (.queue q)) s (finishCmd c .ok)) ∧
  (Runs s.blk q 0x02 c → Acts (.identify q) s (fun b => finishCmd c .ok (sendResults c (syncHeader 256 0 b) b))) ∧
  (Runs s.blk q 0x03 c → (idOk s.blk = true → Acts (.attest q) s (fun b => finishCmd c .ok (sendResults c (attestReport (a.take 32) b) b))) ∧
    (idOk s.blk = false → Acts (.attest q) s (finishCmd c .opFailed))) ∧
  (Runs s.blk q 0x04 c → let n := leAt a 32 1
    (c.who.slot ≠ 0 → Answers (.enrolKey q) s (finishCmd c .authFailed)) ∧
    (c.who.slot = 0 → 15 < n ∨ (n = 0 ∧ a.take 32 = zeros 32) → Answers (.enrolKey q) s (finishCmd c .badArgument)) ∧
    (c.who.slot = 0 → n ≤ 15 → n ≠ 0 ∨ a.take 32 ≠ zeros 32 → Answers (.enrolKey q) s (fun b =>
      finishCmd c (enrol n (a.take 32) b).1 (enrol n (a.take 32) b).2))) ∧
  (Runs s.blk q 0x05 c → (configUnit (leAt a 0 4) = false → Answers (.config q) s (finishCmd c .notPresent)) ∧
    (configUnit (leAt a 0 4) = true → ∀ v d, regRmw uReeve true (leAt a 0 4) (leAt a 4 4) (leAt a 8 4) (leAt a 12 4) s.blk = (.ok, v, d) →
      Answers (.config q) s (fun _ => finishCmd c .ok (setRet c (leBytes 4 v) d)))) ∧
  (Runs s.blk q 0x06 c → (kindOf (leAt a 0 4) = none → Acts (.counters q) s (finishCmd c .notPresent)) ∧
    ((kindOf (leAt a 0 4)).isSome = true → Acts (.counters q) s (fun b =>
      let d := (countersOf (leAt a 0 4)).foldl (fun b o => drainCounter (leAt a 0 4) o b) b
      finishCmd c .ok (sendResults c ((countersOf (leAt a 0 4)).flatMap fun o => leBytes 8 (totalOf d (leAt a 0 4) o)) d)))) ∧
  (Runs s.blk q 0x07 c → (3 < leAt a 0 1 → Acts (.events q) s (finishCmd c .badArgument)) ∧
    (∀ x, leAt a 0 1 ≤ 3 → sessOf s.blk c.who.sess = some x → Acts (.events q) s (fun b =>
      finishCmd c .ok (putSess { x with evSev := leAt a 0 1, evBlocks := leAt a 4 4 } b)))) ∧
  (Runs s.blk q 0x08 c → Acts (.debug q) s (fun b => finishCmd c .ok (debugCmd (leAt a 0 1) b))) ∧
  (Runs s.blk q 0x09 c → (leAt a 0 1 = 0 ∨ 3 < leAt a 0 1 → Acts (.power q) s (finishCmd c .badArgument)) ∧
    (leAt a 0 1 = 1 ∨ (leAt a 0 1 = 2 ∧ loadElsewhere s.blk q = false) → Acts (.power q) s (fun b => finishCmd c .ok (powerTo (leAt a 0 1) b))) ∧
    (leAt a 0 1 = 2 → loadElsewhere s.blk q = true → Acts (.power q) s id) ∧
    (leAt a 0 1 = 3 → Acts (.power q) s (fun b => finishCmd c .ok (modCmd c.queue c.idx (fun x => { x with mark := 3 }) b)))) ∧
  (Runs s.blk q 0x0A c → let u := leAt a 0 4
    (kindOf u = none → Acts (.resetUnit q) s (finishCmd c .notPresent)) ∧
    ((kindOf u).isSome = true → resetUnit u = false → Acts (.resetUnit q) s (finishCmd c .badArgument)) ∧
    (resetUnit u = true → resetBusy s.blk u = true → Acts (.resetUnit q) s (finishCmd c .busy)) ∧
    (resetUnit u = true → resetBusy s.blk u = false → Acts (.resetUnit q) s (fun b => waitCmd c u (pulse u 0 b)))) ∧
  (Runs s.blk q 0x0B c → (devState s.blk = dsReady → Acts (.drainCommand q) s (finishCmd c .ok)) ∧
    (devState s.blk ≠ dsReady → Acts (.drainCommand q) s (fun b => waitCmd c 0 (settleStops (setDevState dsDraining b))))) ∧
  (Runs s.blk q 0x0C c → Acts (.release q) s (fun b => finishCmd c .ok (setDevState dsReady (freeAll (scrubAll b))))) ∧
  (Runs s.blk q 0x0D c → Acts (.quarantine q) s (fun b => finishCmd c .ok (setDevState dsQuarantined
    (b.qcp.jobs.foldl (fun b e => takeJobOut false e.1 b) b)))) ∧
  (Runs s.blk q 0x13 c → ∀ x, sessOf s.blk c.who.sess = some x →
    (x.windows.find (leAt a 0 4) = none → Acts (.windowClose q) s (finishCmd c .notPresent)) ∧
    ((x.windows.find (leAt a 0 4)).isSome = true → Acts (.windowClose q) s (fun b =>
      finishCmd c .ok (putSess { x with windows := x.windows.drop (leAt a 0 4) } b)))) ∧
  (Runs s.blk q 0x15 c → (2 ^ 40 < leAt a 8 8 → Acts (.fetch q) s (finishCmd c .badArgument)) ∧
    (∀ st v d, leAt a 8 8 ≤ 2 ^ 40 → readRange (leAt a 0 8) (leAt a 8 8) s.blk = (st, v, d) →
      Acts (.fetch q) s (fun _ => if st = .ok then finishCmd c .ok (sendResults c v d) else finishCmd c st d))) ∧
  (Runs s.blk q 0x18 c → (jobQueue s.blk (entryJob c) (leAt a 0 4) = false → Acts (.queueDestroy q) s (finishCmd c .notPresent)) ∧
    (jobQueue s.blk (entryJob c) (leAt a 0 4) = true → Acts (.queueDestroy q) s (fun b => waitCmd c (leAt a 0 4) (dropQueue (leAt a 0 4) b))))

/-- The commands on jobs (Table 12.8): one that names an empty slot completes with NOT_PRESENT. JOB_CREATE makes a job (R303), JOB_DESTROY removes it (R543);
windows, tensor records, programs, queues and page evictions are made as R448, R532, R531 and R300 state; JOB_ADMIT starts the exchange with every member
(R539), which fails after two seconds; JOB_START, STEP, SCALE_SET and JOB_STOP run and stop the job; FREEZE, REPLAY, SPARE_ASSIGN, ADOPT and RESHARD act
in recovery (R483), RESHARD once no step is open and the PERMUTEs of its argument block are complete (R346, R354); SNAPSHOT and CHECKPOINT wait for their step (R490, R491).
The model's choices in log entries 21, 33, 36, 52, 53, 68, 72, 76 stand behind it. -/
def Obligations.JobCommands : Prop := ∀ (s : State) (q : Fin 0x40000) (c : Cmd), mainOn s.blk = true → let a := c.entry.drop 16
  let j := entryJob c
  (∀ op i, (op, i) ∈ [(0x11, Instr.jobDestroy q), (0x12, .windowOpen q), (0x14, .commit q), (0x16, .loadProgram q []), (0x17, .queueCreate q),
      (0x19, .pageEvict q none), (0x21, .jobStart q), (0x22, .step q), (0x23, .scaleSet q), (0x24, .jobStop q), (0x25, .freeze q), (0x26, .replay q),
      (0x28, .adopt q), (0x2A, .snapshot q), (0x2B, .checkpoint q)] →
    Runs s.blk q op c → s.blk.qcp.jobs.find j = none → Acts i s (finishCmd c .notPresent)) ∧
  (∀ l b, Runs s.blk q 0x10 c → entryArgblk c = true → argBlock c s.blk = (.ok, l, b) → 48 ≤ l.length →
    (slotHolds b j = true → Acts (.jobCreate q) s (fun _ => finishCmd c (if 8 ≤ b.qcp.jobs.length then .noResource else .stateConflict) b)) ∧
    (slotHolds b j = false → (l.drop 48).length % 8 = 0 → (∀ p ∈ imagePairs (l.drop 48), slotReg j p.1 p.2.1 = true) →
      (bitOf (leAt l 0 1) 0 = true → 2 ≤ trainingJobs b → Acts (.jobCreate q) s (fun _ => finishCmd c .noResource b)) ∧
      (bitOf (leAt l 0 1) 0 = false ∨ trainingJobs b < 2 → AnswersWith (.jobCreate q) s (fun d => ∃ y, d.qcp.jobs.find j = some y ∧
        y.train = bitOf (leAt l 0 1) 0 ∧ y.spare = bitOf (leAt l 0 1) 1 ∧ y.owner = c.who.pub ∧ y.jobId = leAt l 4 4 ∧ y.image = sha512 (l.drop 48) ∧
        (∀ k, k ≠ j → d.qcp.jobs.find k = s.blk.qcp.jobs.find k) ∧
        ∀ k ∈ d.qcp.cmds, k.queue = c.queue → k.idx = c.idx → k.phase = .finished .ok)))) ∧
  (∀ l b, Runs s.blk q 0x20 c → entryArgblk c = true → argBlock c s.blk = (.ok, l, b) → 48 ≤ l.length → (b.qcp.jobs.find j).isSome = true →
    leAt l 0 2 < 1024 → (l.length - 48) % 72 = 0 → (memberList (l.drop 48)).find? (fun m => m.1 = leAt l 0 2) = some (leAt l 0 2, identityDigest) →
    (rngOk b = false ∨ idOk b = false → Acts (.jobAdmit q) s (fun _ => finishCmd c .opFailed b)) ∧
    (rngOk b = true → idOk b = true → AnswersWith (.jobAdmit q) s (fun d => d.fab.admitting.find j = some s.blk.face.time ∧
      (∀ m ∈ memberList (l.drop 48), m.1 ≠ leAt l 0 2 → (d.fab.agree.find (rankKey j m.1)).isSome = true) ∧
      ∀ k ∈ d.qcp.cmds, k.queue = c.queue → k.idx = c.idx → k.phase = .waiting))) ∧
  (∀ (j : Fin 8) t k ks r rs, s.blk.fab.admitting.find j = some t → (waitingCmds s.blk fun c => entryOp c == 0x20 && entryJob c == j) = k :: ks →
    t + 2000000 ≤ s.blk.face.time → s.blk.fab.admitFail.find j = none → keyless s.blk j = r :: rs → Acts (.jobAdmitTimeout j) s (admitEnd k .opFailed r)) ∧
  (∀ l b, Runs s.blk q 0x29 c → entryArgblk c = true → argBlock c s.blk = (.ok, l, b) → (b.qcp.jobs.find j).isSome = true →
    (l.length < 256 ∨ l.length % 64 ≠ 0 → Acts (.reshard q) s (fun _ => finishCmd c .badArgument b)) ∧
    (256 ≤ l.length → l.length % 64 = 0 → (trnOf b j).reshardTo ≠ none → Acts (.reshard q) s (fun _ => finishCmd c .busy b)) ∧
    (256 ≤ l.length → l.length % 64 = 0 → (trnOf b j).reshardTo = none →
      let r := reshardDue j (modJob j (fun x => { x with reshardTo := some l }) b)
      (∀ st, r.1 = some st → Acts (.reshard q) s (fun _ => finishCmd c st r.2)) ∧ (r.1 = none → Acts (.reshard q) s (fun _ => waitCmd c 0 r.2)))) ∧
  (Runs s.blk q 0x27 c → s.blk.qcp.jobs.find j = none → (2 ≤ trainingJobs s.blk → Acts (.spareAssign q) s (finishCmd c .noResource)) ∧
    (trainingJobs s.blk < 2 → AnswersWith (.spareAssign q) s (fun d => ∃ y, d.qcp.jobs.find j = some y ∧ y.train = true ∧ y.spare = true ∧
      y.jobId = leAt a 0 4 ∧ y.owner = c.who.pub ∧ y.jstate = jSpare))) ∧
  (∀ x, s.blk.qcp.jobs.find j = some x →
    (Runs s.blk q 0x27 c → x.owner = c.who.pub → x.jobId = leAt a 0 4 → Acts (.spareAssign q) s (fun b =>
      finishCmd c .ok (settleDev (modSlot j (fun y => { y with spare := true, jstate := jSpare }) b)))) ∧
    (Runs s.blk q 0x11 c → Acts (.jobDestroy q) s (fun b =>
      let d := removeJob true j b
      waitCmd c (tilesInReset d) d)) ∧
    (Runs s.blk q 0x12 c → ∀ y, leAt a 0 8 % 2 ^ 21 = 0 → leAt a 8 8 ≠ 0 → leAt a 8 8 % 2 ^ 21 = 0 → leAt a 0 8 + leAt a 8 8 ≤ granarySize →
      (∀ i < leAt a 8 8 / 2 ^ 21, ownedBy s.blk j (leAt a 0 8 / 2 ^ 21 + i) = true ∧ bitOf (frameEntry s.blk (leAt a 0 8 / 2 ^ 21 + i)) 36 = true) →
      sessOf s.blk c.who.sess = some y → (16 ≤ y.windows.length → Acts (.windowOpen q) s (finishCmd c .noResource)) ∧
      (y.windows.length < 16 → Acts (.windowOpen q) s (fun b => finishCmd c .ok (setRet c (leBytes 4 (freshWindow y.windows))
        (putSess { y with windows := y.windows.put (freshWindow y.windows) ⟨j, leAt a 0 8, leAt a 8 8⟩ } b))))) ∧
    (Runs s.blk q 0x14 c → ∀ v b, readRange (leAt a 0 8) (leAt a 8 8) s.blk = (.ok, v, b) → Acts (.commit q) s (fun _ =>
      let t := commitTensor ⟨j, leAt a 0 8, leAt a 8 8, tensorDigest v⟩ (noteResult c v b)
      finishCmd c t.1 (if t.1 = .ok then setRet c (leBytes 2 t.2.1) t.2.2 else t.2.2))) ∧
    (Runs s.blk q 0x16 c → ∀ lost v b d, leAt a 0 1 = 0 → leAt a 16 4 ≠ 0 → readRange (leAt a 8 8) (leAt a 16 4) s.blk = (.ok, v, b) →
      addProgram ⟨2, j, 0, leAt a 16 4, leAt a 8 8, sha512 v⟩ b = some d → Acts (.loadProgram q lost) s (fun _ =>
        finishCmd c .ok { d with til := { d.til with progRanges := d.til.progRanges ++ [(leAt a 8 8, leAt a 16 4)] } })) ∧
    (Runs s.blk q 0x17 c → leAt a 0 4 < 2 ^ 18 → 1 ≤ leAt a 4 1 → leAt a 4 1 ≤ 4 → leAt a 5 1 ≤ 20 → leAt a 6 1 ≤ 15 → leAt a 8 8 % 64 = 0 →
      leAt a 16 8 % 64 = 0 → leAt a 24 4 ≤ 2 ^ 20 →
      (qType s.blk (leAt a 0 4) ≠ 0 → Acts (.queueCreate q) s (finishCmd c .stateConflict)) ∧
      (qType s.blk (leAt a 0 4) = 0 → leAt a 4 1 ≠ 2 → Acts (.queueCreate q) s (fun b =>
        finishCmd c .ok (setQueueRun (leAt a 0 4) ⟨[], [], [], [], 0⟩ (newQueue (leAt a 0 4) (newDescriptor j a) b))))) ∧
    (Runs s.blk q 0x19 c → ∀ peer, jobQueue s.blk j (leAt a 0 4) = true → qType s.blk (leAt a 0 4) = 1 → leAt a 4 4 < qPtLen s.blk (leAt a 0 4) →
      entryQualifies s.blk (leAt a 0 4) (leAt a 4 4) = true →
      (inBatch s.blk (leAt a 0 4) = true → Acts (.pageEvict q peer) s (finishCmd c .busy)) ∧
      (inBatch s.blk (leAt a 0 4) = false → Acts (.pageEvict q peer) s (fun b => waitCmd c (leAt a 0 4 * 2 ^ 32 + leAt a 4 4)
        (sendPages (beginEvict (leAt a 0 4) (leAt a 4 4) (flag b uCtx Fld.ctxJobEvictExport j) (fld b uCtx Fld.ctxJobEvictRank j) peer b))))) ∧
    (Runs s.blk q 0x21 c → (x.jstate ≠ jLoaded → Acts (.jobStart q) s (finishCmd c .stateConflict)) ∧
      (x.jstate = jLoaded → x.train = false → Acts (.jobStart q) s (fun b => finishCmd c .ok (setJState j jRunning b))) ∧
      (x.jstate = jLoaded → x.train = true → spares s.blk j = [] → Acts (.jobStart q) s (finishCmd c .noResource)) ∧
      (x.jstate = jLoaded → x.train = true → spares s.blk j ≠ [] → Acts (.jobStart q) s (fun b => finishCmd c .ok (setJState j jRunning (bindTiles j b))))) ∧
    (Runs s.blk q 0x22 c → x.train = true → x.jstate = jRunning → recPhase s.blk j = pNone → let n := leAt a 0 4
      let f := leAt a 4 4
      (x.steps.isSome = true → Acts (.step q) s (finishCmd c .busy)) ∧
      (x.steps = none → n ≠ 0 → trnClosed s.blk j ≠ noStep → f = trnClosed s.blk j + 1 → f + n - 1 < noStep → Acts (.step q) s (fun b =>
        waitCmd c (f + n - 1) (modSlot j (fun y => { y with steps := some (f, f + n - 1) }) b))) ∧
      (x.steps = none → n ≠ 0 → trnClosed s.blk j = noStep → f + n - 1 < noStep → Acts (.step q) s (fun b =>
        waitCmd c (f + n - 1) (modSlot j (fun y => { y with steps := some (f, f + n - 1) }) (mirrorBuild j false [] (tagArrays j f b)))))) ∧
    (Runs s.blk q 0x23 c → Acts (.scaleSet q) s (fun b => finishCmd c (scaleSet j (leAt a 0 2) (leAt a 4 4) (leAt a 8 4) (leAt a 12 4) b).1
      (scaleSet j (leAt a 0 2) (leAt a 4 4) (leAt a 8 4) (leAt a 12 4) b).2)) ∧
    (Runs s.blk q 0x24 c → (x.jstate = jRunning → Acts (.jobStop q) s (fun b => waitCmd c 0 (settleStop j (setJState j jStopping (callBack j b))))) ∧
      (x.jstate ≠ jRunning → Acts (.jobStop q) s (finishCmd c .stateConflict))) ∧
    (Runs s.blk q 0x25 c → (x.train = false → Acts (.freeze q) s (finishCmd c .stateConflict)) ∧
      (x.train = true → Acts (.freeze q) s (fun b => let d := cancelStep j b
        finishCmd c .ok (if isLead d j then declare j [] d else recSend j (toLead d j) kFail 0 [] 0 d)))) ∧
    (Runs s.blk q 0x26 c → (x.train = false ∨ trnPhase s.blk j ≠ 0 → Acts (.replay q) s (finishCmd c .stateConflict)) ∧
      (x.train = true → trnPhase s.blk j = 0 → leAt a 0 4 ≠ 0 → Acts (.replay q) s (fun b => replayFrom j (leAt a 0 4) (waitCmd c (leAt a 0 4) b)))) ∧
    (Runs s.blk q 0x28 c → leAt a 0 2 < 1024 →
      (x.spare = false → Acts (.adopt q) s (finishCmd c .stateConflict)) ∧
      (x.spare = true → Acts (.adopt q) s (fun b => waitCmd c (leAt a 0 2) (adoptRank j (leAt a 0 2) b)))) ∧
    (Runs s.blk q 0x2A c → x.train = true → let d := trnDone s.blk j
      (d = leAt a 0 4 → d ≠ noStep → Acts (.snapshot q) s (fun b => answerRanges c (masterRanges b j) b)) ∧
      (d ≠ noStep → leAt a 0 4 < d → Acts (.snapshot q) s (finishCmd c .badArgument)) ∧
      (d = noStep ∨ d < leAt a 0 4 → Acts (.snapshot q) s (waitCmd c (leAt a 0 4)))) ∧
    (Runs s.blk q 0x2B c → x.train = true → (leAt a 0 2 ≠ scb s.blk j 28 2 % 1024 → Acts (.checkpoint q) s (finishCmd c .notPresent)) ∧
      (leAt a 0 2 = scb s.blk j 28 2 % 1024 → Acts (.checkpoint q) s (fun b => checkpointDue j (waitCmd c 0 b)))))

/-! ### Recovery -/

/-- A reeve acts on a recovery message once, when its SEQ changes (R470), and withdraws where its slot cannot be read (R464); it acts by its KIND: FAIL and WITHDRAWN make the lead declare (R472); a FREEZE is accepted
when its epoch is above the accepted one, or equal and from a lower-ranked lead, and dropped otherwise (R471, R474); FROZEN leads to the base step (R475),
ADOPT and ADOPTED to the spare's taking the rank (R476), FILLED to the replay (R479), REPLAYED to RESUME or HALT (R481, R488); RESUME, HALT and REPEAT go on,
stop and repeat the step (R461, R487).
The model's choices in log entries 11, 33, 67, 72 stand behind it. -/
def Obligations.RecoveryMessages : Prop := ∀ (s : State) (j : Fin 8) (r : Fin 1024), mainOn s.blk = true →
  (∀ k i, (k, i) ∈ [(1, Instr.fail j r), (2, .withdrawn j r), (3, .recFreeze j r), (4, .frozen j r), (5, .recAdopt j r), (6, .adopted j r), (7, .filled j r),
      (8, .recReplay j r), (9, .replayed j r), (10, .resume j r), (11, .halt j r), (12, .repeatMsg j r)] →
    recWatched s.blk j = false ∨ newMsg s.blk j r = none ∨ (∃ m, newMsg s.blk j r = some m ∧ m.kind ≠ k) → Acts i s id) ∧
  (∀ m k i, (k, i) ∈ [(1, Instr.fail j r), (2, .withdrawn j r), (3, .recFreeze j r), (4, .frozen j r), (5, .recAdopt j r), (6, .adopted j r), (7, .filled j r),
      (8, .recReplay j r), (9, .replayed j r), (10, .resume j r), (11, .halt j r), (12, .repeatMsg j r)] →
    recWatched s.blk j = true → newMsg s.blk j r = some m → m.kind = k → let t := touchRanges uReeve [(recSlot s.blk j r, 64)] s.blk
    t.1 ≠ .ok → Acts i s (fun _ => withdraw j t.2)) ∧
  (∀ m c, recWatched s.blk j = true → newMsg s.blk j r = some m → touchRanges uReeve [(recSlot s.blk j r, 64)] s.blk = (.ok, c) →
    let d := modRec j (fun x => { x with seen := x.seen.put r m.seq, high := max x.high m.epoch }) c
    let own := ownRank d j
    (m.kind = 1 → (isLead d j = true → Acts (.fail j r) s (fun _ => declare j m.ranks d)) ∧ (isLead d j = false → Acts (.fail j r) s (fun _ => d))) ∧
    (m.kind = 2 → (isLead d j = true → Acts (.withdrawn j r) s (fun _ => declare j [m.src] d)) ∧
      (isLead d j = false → Acts (.withdrawn j r) s (fun _ => d))) ∧
    (m.kind = 3 → ((recOf d j).epoch < m.epoch → Acts (.recFreeze j r) s (fun _ => acceptFreeze j m d)) ∧
      (∀ l, m.epoch = (recOf d j).epoch → (recOf d j).lead = some l → (m.src < l → Acts (.recFreeze j r) s (fun _ => acceptFreeze j m d)) ∧
        (l ≤ m.src → Acts (.recFreeze j r) s (fun _ => d))) ∧
      (m.epoch < (recOf d j).epoch → Acts (.recFreeze j r) s (fun _ => d))) ∧
    (m.kind = 4 → let c := modRec j (fun x => { x with frozen := x.frozen.put m.src (m.step, m.arg % 2 ^ 32) }) d
      (isLead d j = false → Acts (.frozen j r) s (fun _ => d)) ∧
      (isLead d j = true → (recOf d j).lead = some own → (allFrozen c j = true → recPhase c j = pFrozen → Acts (.frozen j r) s (fun _ => chooseBase j c)) ∧
        (allFrozen c j = false → Acts (.frozen j r) s (fun _ => c)))) ∧
    (m.kind = 5 → ∀ f fs, m.ranks = f :: fs → let c := learnBase j m.step d
      (roleOf c j (ownRank c j) = 2 → Acts (.recAdopt j r) s (fun _ => adoptRank j f c)) ∧
      (roleOf c j (ownRank c j) ≠ 2 → Acts (.recAdopt j r) s (fun _ => setRecPhase j pAdopting (assignSpares j [f] c).2))) ∧
    (m.kind = 5 → m.ranks = [] → Acts (.recAdopt j r) s (fun _ => setRecPhase j pResharding (learnBase j m.step d))) ∧
    (m.kind = 6 → let taker := adopterOfRank d j m.src
      (m.src = own ∨ taker = none → Acts (.adopted j r) s (fun _ => d)) ∧
      (∀ p, m.src ≠ own → taker = some p → AnswersWith (.adopted j r) s (fun b => recPhase b j = pFilling ∧
        (recOf b j).adopted.find m.src = some p ∧ reg b uChip (Off.sysRecLast j) = 2 ^ 31 + m.src * 2 ^ 16 + p))) ∧
    (m.kind = 7 → Acts (.filled j r) s (fun _ => checkReplay j
      (modRec j (fun x => { x with filled := if x.filled.contains m.src then x.filled else x.filled ++ [m.src] }) d))) ∧
    (m.kind = 8 → (roleOf d j own = 1 → Acts (.recReplay j r) s (fun _ => replayFrom j m.step d)) ∧
      (roleOf d j own ≠ 1 → Acts (.recReplay j r) s (fun _ => setRecPhase j pReplaying d))) ∧
    (m.kind = 9 → isLead d j = true → recPhase d j = pReplaying →
      let c := modRec j (fun x => { x with replayed := x.replayed.put m.src (bitOf m.arg 0) }) d
      let rs := (recOf c j).replayed
      (rs.any (fun x => !x.2) = true → Acts (.replayed j r) s (fun _ => sendHalt j 4 c)) ∧
      (rs.any (fun x => !x.2) = false → ((working c j).all fun k => (rs.find k).isSome) = true → Acts (.replayed j r) s (fun _ =>
        recSend j (everyone c j) kResume ((recOf c j).base + 2) [] 0 c))) ∧
    (m.kind = 10 → Acts (.resume j r) s (fun _ => resumeRx j m d)) ∧
    (m.kind = 11 → let why := m.arg % 16
      let p := if 3 ≤ why ∧ why ≤ 5 then pCkptNeeded else pHalted
      (why = 5 → m.src ≠ own → isLead d j = true → Acts (.halt j r) s (fun _ => sendHalt j 5 d)) ∧
      (why = 1 ∨ why = 2 → m.src ≠ own → Acts (.halt j r) s (fun _ => learnBase j m.step (setRecPhase j pHalted (freezeSlot j d)))) ∧
      (why ≠ 1 → why ≠ 2 → m.src ≠ own → why ≠ 5 ∨ isLead d j = false → Acts (.halt j r) s (fun _ => setRecPhase j p (freezeSlot j d)))) ∧
    (m.kind = 12 → (leadOf d j = some m.src → Acts (.repeatMsg j r) s (fun _ => repeatStep j m.step d)) ∧
      (leadOf d j ≠ some m.src → isLead d j = true → Acts (.repeatMsg j r) s (fun _ => recSend j (everyone d j) kRepeat m.step [] 0 d))))

/-- What a reeve does in recovery of its own accord: its poll takes every changed slot (R470); the spare that took a rank reports its fill, the buddy sends
it (R477); a survivor, and an adopter whose fill is whole, returns to the base step (R478); withdrawal sends WITHDRAWN, reports it and removes the job (R465), as more than half of the working
ranks silent for 20 ms make it do (R472); a block is restored from the mirror and the records since, and the step repeated (R463, R464), but not past 64
restores in a step or without its mirror; localisation takes the
units that differ OFFLINE and quarantines the module that has one (R488, R489).
The model's choices in log entries 33, 67, 72 stand behind it. -/
def Obligations.RecoveryActions : Prop := ∀ (s : State) (j : Fin 8), mainOn s.blk = true →
  (recWatched s.blk j = false → Acts (.recoveryAreaPoll j) s id) ∧
  (recWatched s.blk j = true → Acts (.recoveryAreaPoll j) s (fun b =>
    checkReplay j (checkFrozen j ((List.range 1024).foldl (fun b r => recTake (fun _ => true) j r b) b)))) ∧
  (∀ (f : Fin 1024) a, (recOf s.blk j).adopted.find f = some a → (recOf s.blk j).fills.contains f.val = false →
    (trnOf s.blk j).failed = none →
    (ownRank s.blk j = f → (recOf s.blk j).mine = true → (recOf s.blk j).fillBytes < fillTotal s.blk j → Acts (.rankFill j f) s id) ∧
    (ownRank s.blk j = f → (recOf s.blk j).mine = true → fillTotal s.blk j ≤ (recOf s.blk j).fillBytes →
      reg s.blk uChip (Off.sysRecStep j) ≠ noStep → AnswersWith (.rankFill j f) s (fun b =>
      reg b uTrn (Off.trnJobDone j) = (recOf s.blk j).base % 2 ^ 32 ∧ reg b uTrn (Off.trnJobClosed j) = (recOf s.blk j).base % 2 ^ 32 ∧
      flag b uChip Fld.sysRecStatusFilled j = true)) ∧
    (ownRank s.blk j ≠ f → scb s.blk j 28 2 % 1024 = f → Acts (.rankFill j f) s (fun b =>
      engineEnd j (sendFill j f (modRec j (fun x => { x with fills := x.fills ++ [f.val] }) b))))) ∧
  ((recPhase s.blk j = pAdopting ∨ recPhase s.blk j = pFilling ∨ recPhase s.blk j = pResharding) →
    (recOf s.blk j).mine = false ∨ (recOf s.blk j).fills.contains (ownRank s.blk j) = true →
    Acts (.stepUndo j) s (fun b => engineEnd j (returnTo j (recOf b j).base b))) ∧
  (s.blk.qcp.jobs.find j = none → Acts (.moduleWithdraw j) s id) ∧
  (∀ x, s.blk.qcp.jobs.find j = some x → Acts (.moduleWithdraw j) s (fun b =>
    removeJob true j (recEvent j Fld.sysRecStatusWithdrawn .sysRecWithdrawn (ownRank b j) (recSend j (toLead b j) kWithdrawn 0 [] 0 b)))) ∧
  (∀ x, s.blk.qcp.jobs.find j = some x → (working s.blk j).contains (ownRank s.blk j) = true →
    let quiet := (working s.blk j).filter fun r => isSilent s.blk j r && ((s.blk.fab.beats.find (rankKey j r)).elim true fun y =>
      decide (y.at' + 20000 ≤ s.blk.face.time))
    (2 * quiet.length ≤ (working s.blk j).length → Acts (.majoritySilenceWithdraw j) s id) ∧
    ((working s.blk j).length < 2 * quiet.length → Acts (.majoritySilenceWithdraw j) s (withdraw j))) ∧
  (∀ x a mirror, s.blk.qcp.jobs.find j = some x → slotTrains s.blk j = true →
    let at' := blockAt (restoredArrays s.blk j) a
    (at' = none → rewrittenRegion s.blk j a = true → Acts (.blockRestore j a mirror) s (repeatFault j)) ∧
    (at' = none → rewrittenRegion s.blk j a = false → Acts (.blockRestore j a mirror) s (withdraw j)) ∧
    (∀ m k, at' = some (m, k) → let p := m.addr + 65536 * k
      let known := (recOf s.blk j).owed.contains p
      let c := if known then ((recOf s.blk j).restores.2, s.blk) else countRestore j s.blk
      (mirror = none ∨ 64 < c.1 → Acts (.blockRestore j a mirror) s (fun _ => withdraw j c.2)) ∧
      (∀ ms v, mirror = some (ms, v) → c.1 ≤ 64 → trnPhase s.blk j ≠ 0 → trnPhase s.blk j ≠ 7 →
        (known = true → Acts (.blockRestore j a mirror) s id) ∧
        (known = false → Acts (.blockRestore j a mirror) s (fun _ => repeatFault j (modRec j (fun x => { x with owed := x.owed ++ [p] }) c.2)))) ∧
      (∀ ms v, mirror = some (ms, v) → c.1 ≤ 64 → trnPhase s.blk j = 0 ∨ trnPhase s.blk j = 7 →
        let rs := (trnOf s.blk j).out.filter fun r => decide (r.entry = m.entry ∧ r.array = m.arr ∧ r.block = k ∧ r.kind = 0) &&
          trnClosed s.blk j != noStep && (ms == noStep || decide (ms < r.step)) && decide (r.step ≤ trnClosed s.blk j)
        let w := granaryWrite ⟨uReeve, none, false, false⟩ p
          ((rs.foldl (fun v r => xorBytes v (decodeBlock r.es r.code)) v).take (min 65536 (m.bytes - 65536 * k))) (standingTag s.blk j m) c.2
        (w.1 = .ok → Acts (.blockRestore j a mirror) s (fun _ => modRec j (fun x => { x with owed := x.owed.filter (· != p) }) w.2)) ∧
        (w.1 ≠ .ok → Acts (.blockRestore j a mirror) s (fun _ => withdraw j w.2))))) ∧
  (untaken s.blk j = [] ∨ recPhase s.blk j ≠ pResharding → Acts (.shrink j) s id) ∧
  (∀ f fs, untaken s.blk j = f :: fs → recPhase s.blk j = pResharding → 0 < (planOf s.blk j f).2 →
    let base := (recOf s.blk j).base
    let d := returnTo j base s.blk
    let d := if scb d j 28 2 % 1024 = f ∧ (trnOf d j).mirrorStep = some ((base + 1) % 2 ^ 32) then mirrorRollback j d else d
    let p := granaryRead ⟨uReeve, none, false, false⟩ (planOf d j f).1 (planOf d j f).2 d
    let c := reshardDue j (if (trnOf d j).reshardTo.isSome then p.2.2 else modJob j (fun x => { x with reshardTo := some p.2.1 }) p.2.2)
    (p.1 ≠ .ok → Acts (.shrink j) s (fun _ => engineEnd j (withdraw j p.2.2))) ∧
    (p.1 = .ok → c.1 ≠ some .ok → Acts (.shrink j) s (fun _ => engineEnd j c.2)) ∧
    (p.1 = .ok → c.1 = some .ok →
      let e := unfreeze j ((base + 1) % 2 ^ 32) (recOver j (setReg uChip (Off.sysRecLast j) (2 ^ 31 + 2 ^ 30 + f * 2 ^ 16)
        (modJob j (fun x => { x with shrunk := true }) c.2)))
      Acts (.shrink j) s (fun _ => engineEnd j e) ∧ recPhase e j = pNone ∧ (recOf e j).failed = [] ∧ (trnOf e j).shrunk = true)) ∧
  (∀ failed none', let bad := failed.eraseDups.filter fun u => ownOf s.blk u < hOffline ∧ (kindOf u = some .tile ∨ kindOf u = some .gleaner)
    let d := raise uChip .sysRecLocalised (min 0xFFFF bad.length * 2 ^ 16 + (bad.filter fun u => kindOf u = some .tile).length)
      (bad.foldl (fun b u => setOwn u hOffline b) s.blk)
    let adopter := s.blk.rec'.any fun r => r.2.mine && recPhase s.blk r.1 == pCkptNeeded
    (bad ≠ [] ∨ (none' = true ∧ adopter = true) → Acts (.localisation failed none') s (fun _ => quarantine d)) ∧
    (bad = [] → none' = false ∨ adopter = false → Acts (.localisation failed none') s (fun _ => d)))

/-! ### Bring-up, reset, security and power -/

/-- Register access: a frame for a bring-up server that does not decode, is reserved or comes from a device is dropped and counted (R497); OPEN, CLAIM and CLOSE
act on the session table (R499, R500); a BLOB is staged where registers may be written (R501, R505); the oldest run's next entry is executed by its OP: READ,
WRITE, RMW and POLL answer the access (R498), a write is STATE_CONFLICT where R501 keeps registers from it, and a POLL past its TIMEOUT answers BUSY and cancels
the entries after it.
The model's choices in log entries 11, 37 stand behind it. -/
def Obligations.RegisterAccess : Prop := ∀ (s : State) (port : Fin 4) (q : Fin 64),
  (raHead port q s.blk = none → Answers (.raClaim port q) s id ∧ ∀ i ∈ [Instr.raOpen port q, .raClose port q, .raBlob port q], Acts i s id) ∧
  (∀ f fl p h c t, raHead port q s.blk = some f → raIn port f = some (fl, p) → qcpParse p = some (h, c, t) → h.dev = true ∨ raOp h.op = false ∨ h.queue ≠ 0 →
    let bad := fun b => qcount Off.qcpRxBadLo (raDrop port q b)
    Answers (.raClaim port q) s bad ∧ ∀ i ∈ [Instr.raOpen port q, .raClose port q, .raBlob port q], Acts i s bad) ∧
  (∀ f fl p h c t, raHead port q s.blk = some f → raIn port f = some (fl, p) → qcpParse p = some (h, c, t) → h.dev = false → h.queue = 0 →
    (h.op = 0x101 → Acts (.raOpen port q) s (fun b => openSess true (onRing port) fl c (raDrop port q b))) ∧
    (h.op = 0x105 → Answers (.raClaim port q) s (fun b => claimSess (onRing port) fl c (raDrop port q b))) ∧
    (∀ x v d, sessTake true (onRing port) fl h c t (raDrop port q s.blk) = (some (x, v), d) →
      (h.op = 0x104 → Acts (.raClose port q) s (fun _ => closeSess x.id false d)) ∧
      (h.op = 0x120 → v.length = 8200 → mainOn d = true → raMayWrite (onRing port) d = true →
        Acts (.raBlob port q) s (fun _ => blobWrite (leAt v 0 8) (v.drop 8) d)) ∧
      (h.op = 0x120 → v.length = 8200 → mainOn d = false ∨ raMayWrite (onRing port) d = false → Acts (.raBlob port q) s (fun _ => d)))) ∧
  (∀ r e es u o, raRun port s.blk = some r → r.left = e :: es → raAddr e = some (u, o) → let w := raUnit port
    let may := raMayWrite (onRing port) s.blk
    (leAt e 0 1 = 1 → ∀ v d, regRead w u o s.blk = (.ok, v, d) → Acts (.raRead port q) s (fun _ => raRefuseBad port (raResult port .ok (some v) d))) ∧
    (leAt e 0 1 = 2 → may = true → Answers (.raWrite port q) s (fun b => let x := regWrite w (!onRing port) u o (leAt e 16 4) (raWakes b)
      raRefuseBad port (raResult port x.1 none x.2))) ∧
    (leAt e 0 1 = 3 → may = true → ∀ v d, regRmw w (!onRing port) u o (leAt e 16 4) (leAt e 20 4) (raWakes s.blk) = (.ok, v, d) →
      Answers (.raRmw port q) s (fun _ => raRefuseBad port (raResult port .ok (some v) d))) ∧
    (may = false → (leAt e 0 1 = 2 → Answers (.raWrite port q) s (fun b => raRefuseBad port (raResult port .stateConflict none b))) ∧
      (leAt e 0 1 = 3 → Answers (.raRmw port q) s (fun b => raRefuseBad port (raResult port .stateConflict none b)))) ∧
    (leAt e 0 1 = 4 → ∀ v d, regRead w u o s.blk = (.ok, v, d) → Nat.land v (leAt e 20 4) = leAt e 16 4 → Acts (.raPoll port q) s (fun _ =>
      raRefuseBad port (raResult port .ok (some v) d))) ∧
    (∀ t, r.pollAt = some t → (s.blk.face.time < t + 1000 * leAt e 4 4 → Acts (.raPollTimeout port) s id) ∧
      (t + 1000 * leAt e 4 4 ≤ s.blk.face.time → Acts (.raPollTimeout port) s (raResult port .busy none))))

/-- Bring-up: an action that comes while another runs, or out of its stage, sets CMD_REJECT and does no more (R502). In its stage SPINES loads the lane
exclusions; TRAIN retires the channels that fail while fewer than eight are retired, and OP_FAILED stands as its outcome when more than eight fail (R503); VERIFY finds the first
missing unit, then checks the header and the table, then the signature and the floor (R505), and keeps the image that passes; LOAD broadcasts both images; SELFTEST takes the failing units
OFFLINE and has OK while the reeve and a tile are in service (R509); START takes the verified image's digests and closes the boot ROM's sessions (R510). BOOT_ACTION_END publishes the outcome
and leads to the next stage, and with no action running at STARTED makes the device READY. A target in reset takes no chunk, another stores one only if the chunk's CRC
matches and it is in service (R506); a target that lacks chunks after the third repair round is held, OFFLINE (R507).
The model's choices in log entries 6, 19, 20, 47, 75, 76 stand behind it. -/
def Obligations.BringUp : Prop := ∀ (s : State), mainOn s.blk = true → let stage := bootStage s.blk
  let d := setFld uChip Fld.sysBootStageBusy 1 s.blk
  (∀ n i, (n, i) ∈ [([0], Instr.spines), ([1], .train []), ([2], .verify), ([3], .load []), ([4, 5], .selftest []), ([5], .bootStart)] →
    s.blk.boot.running.isSome = true ∨ stage ∉ n → Acts i s (setSq uChip Fld.sysBootStatusCmdReject)) ∧
  (s.blk.boot.running = none →
    (stage = 0 → AnswersWith .spines s (fun b => b.boot.running = some ⟨0, .ok, 0⟩ ∧ flag b uChip Fld.sysBootStageBusy = true ∧
      ∀ l < 24, fld b (uLink l) Fld.jxlLanemapTxex = s.blk.tly.store.lanes.get 0 l % 256 ∧
        fld b (uLink l) Fld.jxlLanemapRxex = s.blk.tly.store.lanes.get 0 l / 256 % 256 ∧
        fld b (uLink l) Fld.jxlLanemapUsed = s.blk.tly.store.laneUsed.get 0 l % 16)) ∧
    (∀ failed, stage = 1 →
      (s.blk.tly.ref0 = false → AnswersWith (.train failed) s (fun b => b.boot.running = some ⟨1, .opFailed, 0⟩ ∧ b.grn = s.blk.grn)) ∧
      (s.blk.tly.ref0 = true → let bad := failed.eraseDups.filter fun ch => (retirementOf s.blk ch).isNone
        AnswersWith (.train failed) s (fun b =>
          b.boot.running = some ⟨1, if 8 < bad.length then .opFailed else .ok, b.grn.retired.length - s.blk.grn.retired.length⟩ ∧
          b.grn.retired.length = max s.blk.grn.retired.length (min 8 (s.blk.grn.retired.length + bad.length)) ∧
          (s.blk.grn.retired.length + bad.length ≤ 8 → ∀ ch ∈ bad, (retirementOf b ch).isSome = true)))) ∧
    (stage = 2 →
      (∀ u, firstMissing d = some u → AnswersWith .verify s (fun b => b.boot.running = some ⟨2, .notPresent, 0⟩ ∧
        reg b uChip Off.sysBootMissing = u % 2 ^ 32)) ∧
      (∀ st c, firstMissing d = none → touchRanges uReeve [(0, min stageBytes (imageLen d))] d = (st, c) →
        let header := decide (numAt c 0 4 = 0x51583430) && decide (numAt c 4 4 = 1) && componentsOk c
        let signed := decide (sha512 (bytesAt c 160 (imageLen c - 160)) = bytesAt c 32 64) &&
          edVerify Config.firmwareKey (bytesAt c 0 96) (bytesAt c 96 64) && decide (c.tly.store.floor ≤ numAt c 16 4)
        let out : Status := if st ≠ .ok then st else if !header then .badArgument else if !signed then .authFailed else .ok
        AnswersWith .verify s (fun b => b.boot.running = some ⟨2, out, 0⟩ ∧
          b.boot.verified = if out = .ok then some (imageNow c) else s.blk.boot.verified))) ∧
    (∀ lost, stage = 3 → let img := verifiedImage s.blk
      Acts (.load lost) s (fun _ => modBoot (fun x => { x with running := some ⟨3, .ok, 0⟩ })
        (settleLoads (startLoad 4 img.lib allGleaners lost (startLoad 0 img.seq allTiles lost d))))) ∧
    (∀ failed, stage = 4 ∨ stage = 5 → let x := allChannels.foldl readBanks (failed, d)
      let bad := x.1.eraseDups.filter fun u => decide (ownOf x.2 u < hOffline)
      AnswersWith (.selftest failed) s (fun b => b.boot.running = some ⟨4, if inService b then .ok else .opFailed, bad.length⟩ ∧
        ∀ u ∈ failed, u < 8192 → hOffline ≤ ownOf b u)) ∧
    (stage = 5 → AnswersWith .bootStart s (fun b => devState b = dsBoot ∧ b.boot.running = some ⟨5, .ok, 0⟩ ∧
      b.boot.fwDigest = (verifiedImage s.blk).digest ∧ b.boot.fwSvn = (verifiedImage s.blk).svn ∧ b.boot.fwVersion = (verifiedImage s.blk).version ∧
      b.boot.reeve = (verifiedImage s.blk).reeve ∧ b.qcp.sessions = s.blk.qcp.sessions.filter fun x => !x.rom)) ∧
    (stage = 6 → devState s.blk = dsBoot → Acts .bootActionEnd s (fun b => setDevState dsReady (firmwareSetup b))) ∧
    (stage ≠ 6 ∨ devState s.blk ≠ dsBoot → Acts .bootActionEnd s id)) ∧
  (∀ a, s.blk.boot.running = some a → a.act = 3 → s.blk.boot.loads ≠ [] → Acts .bootActionEnd s id) ∧
  (∀ a, s.blk.boot.running = some a → a.act ≠ 3 ∨ s.blk.boot.loads = [] → a.act ≤ 5 → a.detail < 2 ^ 24 → AnswersWith .bootActionEnd s (fun b =>
    b.boot.running = none ∧ flag b uChip Fld.sysBootStageBusy = false ∧
    reg b uChip Off.sysBootResult = (statusCode a.status * 2 ^ 28 + a.act * 2 ^ 24 + a.detail) % 2 ^ 32 ∧ devState b = devState s.blk ∧
    (a.status = .ok → bootStage b = a.act + 1 ∧ flag b uChip Fld.sysBootStatusDone = true) ∧
    (a.status ≠ .ok → bootStage b = stage ∧ flag b uChip Fld.sysBootStatusFailed = true))) ∧
  (∀ (u : Fin 8192) (c : Chunk),
    (absorbing s.blk u = true → Acts (.loadChunkReceive u c) s (absorb 1)) ∧
    (absorbing s.blk u = false → crc32c c.data ≠ c.crc ∨ c.count ≤ c.num ∨ ownOf s.blk u = hOffline → Acts (.loadChunkReceive u c) s id) ∧
    (∀ t, absorbing s.blk u = false → crc32c c.data = c.crc → c.num < c.count → ownOf s.blk u ≠ hOffline → let e := beginTarget u c s.blk
      e.boot.targets.find u = some t → (loadState e u = 2 → Acts (.loadChunkReceive u c) s (beginTarget u c)) ∧
      (loadState e u ≠ 2 → Acts (.loadChunkReceive u c) s (fun _ =>
        let e := modBoot (fun x => { x with targets := x.targets.put u { t with chunks := t.chunks.put c.num c.data } }) e
        checkWhole u (setMiss u c.num false (if loadState e u = 3 then setFld u Fld.tilLoadStateState 1 e else e)))))) ∧
  (∀ lost, s.blk.boot.loads = [] → Acts (.loadRepairRound lost) s id) ∧
  (∀ lost l (u : Fin 8192), s.blk.boot.loads = [l] → l.round = 2 → l.targets = [u.val] → kindOf u = some .tile ∨ kindOf u = some .gleaner →
    targetDone s.blk u = false → absorbing s.blk u = false → (∀ n < (l.bytes.length + 4095) / 4096, lost.contains (u.val, n) = true) →
    AnswersWith (.loadRepairRound lost) s (fun b => ownOf b u = hOffline ∧ loadState b u = 4 ∧ flag b u Fld.unitResetHold = true ∧
      flag b uChip Fld.sysBootStatusLoadHeld = true ∧ b.boot.loads = [])) ∧
  (∀ lost l, s.blk.boot.loads = [l] → l.round < 2 → l.targets.all (targetDone s.blk) = false → Acts (.loadRepairRound lost) s (fun b =>
    settleLoads (repairRound l lost b)))

/-- Resets: a PULSE on a unit in reset has no more effect and on a unit that has no reset none at all; on a tile, a gleaner or a front end it makes the unit
absorb its traffic IN_RESET, and, with nothing outstanding, cleared (R511 to R513); HOLD keeps it, and its release lets it come out once no HOLD of a unit above it
stands; on the chip a HOLD holds the whole module until it is written 0; 2 ms into a reset
what is outstanding is abandoned; a unit that leaves reset is GOOD, or OFFLINE where its checks failed, a gleaner also where a region fails its CRC and no image mends it (R512).
The model's choices in log entries 6, 26 stand behind it. -/
def Obligations.Resets : Prop := ∀ (s : State) (u : Fin 8192),
  (railsUp s.blk = true → moduleHeld s.blk = true → ∀ out, (∀ v, u.val = uChip → Acts (.hold u v out) s (if v then id else moduleReset)) ∧
    (∀ v, u.val ≠ uChip → Acts (.hold u v out) s id) ∧ Acts (.pulse u out) s id) ∧
  (mainOn s.blk = true →
  (u.val = uChip → ∀ v out, Acts (.hold u v out) s (if v then moduleHold else id)) ∧
  ((rstOf s.blk u).isSome = true → ∀ out, Acts (.pulse u out) s id) ∧
  (u.val ≠ uChip → resetReach u = [] → ∀ out v, Acts (.pulse u out) s id ∧ Acts (.hold u v out) s id) ∧
  (rstOf s.blk u = none → resetReach u = [u.val] → ∀ out, out ≠ 0 → AnswersWith (.pulse u out) s (fun b =>
    rstOf b u = some ⟨s.blk.face.time, out, true, false⟩ ∧ absorbing b u = true ∧ ownOf b u = hInReset) ∧
    AnswersWith (.hold u true out) s (fun b => rstOf b u = some ⟨s.blk.face.time, out, false, false⟩ ∧ flag b u Fld.unitResetHold = true)) ∧
  (rstOf s.blk u = none → resetReach u = [u.val] → AnswersWith (.pulse u 0) s (fun b => rstOf b u = some ⟨s.blk.face.time, 0, true, true⟩) ∧
    AnswersWith (.hold u true 0) s (fun b => rstOf b u = some ⟨s.blk.face.time, 0, false, true⟩)) ∧
  (u.val = uChip → ∀ out, rstOf s.blk u = none → Acts (.pulse u out) s moduleReset) ∧
  (∀ r out, rstOf s.blk u = some r → resetReach u = [u.val] → AnswersWith (.hold u false out) s (fun b =>
    rstOf b u = some { r with release := if (stooksOf u).any (fun v => flag s.blk v Fld.unitResetHold) then r.release else true } ∧
    flag b u Fld.unitResetHold = false)) ∧
  (rstOf s.blk u = none → Acts (.resetDrainTimeout u) s id ∧ ∀ good, Acts (.sysResetDone u good) s id) ∧
  (∀ r, rstOf s.blk u = some r →
    (r.out = 0 ∨ s.blk.face.time < r.since + 2000 → Acts (.resetDrainTimeout u) s id) ∧
    (0 < r.out → r.since + 2000 ≤ s.blk.face.time → Acts (.resetDrainTimeout u) s (fun b => clearDrained u
      (notify uChip Fld.sysBootStatusRstAbandon .sysRstAbandon (u * 2 ^ 16 + min r.out 0xFFFF)
        (bump uChip Off.sysRstAbandonedLo r.out (setRst u (some { r with out := 0 }) b))))) ∧
    (∀ good, r.release = false ∨ memberWaits s.blk u = true → Acts (.sysResetDone u good) s id) ∧
    (∀ good, r.release = true → memberWaits s.blk u = false → AnswersWith (.sysResetDone u good) s (fun b => rstOf b u = none ∧
      flag b u Fld.unitResetInReset = false ∧ flag b u Fld.unitStatusResetDone = true ∧
      (forGleaners u = false → kindOf u ≠ some .gleaner → ownOf b u = if good then hGood else hOffline) ∧
      (kindOf u = some .gleaner → r.cleared = true → let g := glOf s.blk (u - 4096)
        (badRegions g = [] → ownOf b u = if good then hGood else hOffline) ∧
        (∀ k ∈ badRegions g, regionImage s.blk u k = none → ownOf b u = hOffline))))))

/-- The anti-rollback floor rises to a value above it, no higher than the running firmware's version and within 4,096 increments in all, and is refused
otherwise (R542); a failed entropy source bars sessions and exchanges (R529), a JTAG instruction sets the debug flags (R546), and a key exchange message is
sent again while it is due (R538). -/
def Obligations.SecurityCommands : Prop := ∀ (s : State), mainOn s.blk = true →
  (∀ v : Word, let n := s.blk.tly.store.floorIncs + (v.toNat - s.blk.tly.store.floor)
    (v.toNat ≤ s.blk.tly.store.floor ∨ s.blk.boot.fwSvn < v.toNat ∨ 4096 < n →
      Answers (.secFloorRaise v) s (notify uSec Fld.secStatusLimitRefused .secLimitRefused 1)) ∧
    (s.blk.tly.store.floor < v.toNat → v.toNat ≤ s.blk.boot.fwSvn → n ≤ 4096 → AnswersWith (.secFloorRaise v) s (fun b =>
      b.tly.store.floor = v.toNat ∧ b.tly.store.floorIncs = n ∧ b.tly.store.enrols = s.blk.tly.store.enrols ∧
      flag b uSec Fld.secStatusFloorRaised = true ∧
      (s.blk.bbQueue.length < 2048 → b.bbQueue.length = s.blk.bbQueue.length + 1)))) ∧
  (rngOk s.blk = false → Acts .secRngFail s id) ∧
  (rngOk s.blk = true → AnswersWith .secRngFail s (fun b => rngOk b = false ∧ flag b uSec Fld.secStatusRngFail = true)) ∧
  AnswersWith .jtagInstruction s (fun b => flag b uSec Fld.secStateDebug = true ∧ flag b uSec Fld.secStateJtag = true ∧
    flag b uSec Fld.secStatusDebugAttached = true) ∧
  (∀ (j : Fin 8) (r : Fin 1024),
    (s.blk.fab.agree.find (rankKey j r) = none → Acts (.keyxResend j r) s id) ∧
    (∀ a, s.blk.fab.agree.find (rankKey j r) = some a →
      (a.eph = none ∨ s.blk.face.time < a.sentAt + 10000 → Acts (.keyxResend j r) s id) ∧
      (a.eph.isSome = true → a.sentAt + 10000 ≤ s.blk.face.time → Acts (.keyxResend j r) s (sendKeyx j r))))

/-- The power manager and the main domain's loss: a write of PWR_CAP outside the envelope completes with BAD_ARGUMENT, changes nothing and sets CAP_REJECT, and
one within it is the cap in force (R558); the cap loop lowers V by one code over the cap and raises it by one below, at most once per 1 ms (R559); the cap term
falls by 8 (R561); a rail's under-voltage, a second sample over the shutdown limits and REFCLK0's loss in D0 or D1 leave the module in D3, a rail's with its record
last in the black box's queue (R555, R565, R590); a lost REFCLK1 takes its ports down; a reeve that failed puts the device in FAULT (R454).
The model's choices in log entries 26, 28, 29, 30 stand behind it. -/
def Obligations.PowerManager : Prop := ∀ (s : State),
  (∀ v : Word, mainOn s.blk = true → let w := v.toNat % 2 ^ 16
    let c := bitsOf v.toNat 29 24
    let top := if Config.variantAA then 1000 else 1500
    (w < 800 ∨ top < w ∨ envelopeCode < c → Acts (.pwrCapWrite v) s (fun b => answer .badArgument 0 (setSq uPwr Fld.pwrStatusCapReject b))) ∧
    (800 ≤ w → w ≤ top → c ≤ envelopeCode → AnswersWith (.pwrCapWrite v) s (fun b => fld b uPwr Fld.pwrCapWatts = w ∧ fld b uPwr Fld.pwrCapVceil = c ∧
      vcode b ≤ c))) ∧
  (∀ avg lim, mainOn s.blk = true → s.blk.face.time < s.blk.tly.loopAt + 100 → Acts (.capLoopCheck avg lim) s id) ∧
  (∀ avg lim, mainOn s.blk = true → s.blk.tly.loopAt + 100 ≤ s.blk.face.time → fld s.blk uPwr Fld.pwrStateDstate = 0 → let v := vcode s.blk
    let watts := fld s.blk uPwr Fld.pwrCapWatts
    let hot := s.blk.tly.junction.any fun p => decide (throttleTemp s.blk ≤ signedOf 8 p.2)
    let cool := s.blk.tly.junction.all fun p => decide (signedOf 8 p.2 < throttleTemp s.blk - 3)
    (watts < avg ∨ hot = true ∨ lim = true → AnswersWith (.capLoopCheck avg lim) s (fun b => vcode b = v - 1)) ∧
    (avg + fld s.blk uPwr Fld.pwrCapHyst < watts → hot = false → lim = false → cool = true → v < vmax s.blk →
      s.blk.tly.raiseAt + 1000 ≤ s.blk.face.time → AnswersWith (.capLoopCheck avg lim) s (fun b => vcode b = v + 1 ∧ b.tly.raiseAt = s.blk.face.time)) ∧
    (avg ≤ watts → hot = false → lim = false → s.blk.face.time < s.blk.tly.raiseAt + 1000 →
      AnswersWith (.capLoopCheck avg lim) s (fun b => vcode b = v ∧ b.tly.raiseAt = s.blk.tly.raiseAt))) ∧
  (∀ avg, mainOn s.blk = true → (vcode s.blk ≠ 0 ∨ avg ≤ fld s.blk uPwr Fld.pwrCapWatts ∨ s.blk.tly.overAt = none → Acts (.pwrCapUnmet avg) s id) ∧
    (∀ t, s.blk.tly.overAt = some t → s.blk.face.time < t + 10000 → Acts (.pwrCapUnmet avg) s id) ∧
    (∀ t, vcode s.blk = 0 → fld s.blk uPwr Fld.pwrCapWatts < avg → s.blk.tly.overAt = some t → t + 10000 ≤ s.blk.face.time → AnswersWith (.pwrCapUnmet avg) s (fun b =>
      capTerm b = max 8 (capTerm s.blk - 8) ∧ flag b uPwr Fld.pwrStatusCapUnmet = true ∧ b.tly.overAt = some s.blk.face.time))) ∧
  (∀ js bs, mainOn s.blk = true → s.blk.face.time < s.blk.tly.sampleAt + 250 → Acts (.thermalSample js bs) s id) ∧
  (∀ js bs, mainOn s.blk = true → s.blk.tly.sampleAt + 250 ≤ s.blk.face.time → let tj := js.getD (hottest js) 0 % 256
    let tb := bs.getD (hottest bs) 0 % 256
    let high := (fld s.blk uPwr Fld.pwrThermShutdown : Int) ≤ signedOf 8 tj ∨ 105 ≤ signedOf 8 tb
    (s.blk.tly.isOver = true → high → AnswersWith (.thermalSample js bs) s (fun b => mainOn b = false ∧ devState b = dsOff ∧ b.tly.cut = true)) ∧
    (s.blk.tly.isOver = false → high → AnswersWith (.thermalSample js bs) s (fun b => mainOn b = true ∧ b.tly.isOver = true)) ∧
    (¬high → AnswersWith (.thermalSample js bs) s (fun b => mainOn b = true ∧ b.tly.isOver = false ∧
      ∀ k < 32, fld b (uStack k) Fld.grnGrStateTlycap = min (tempTerm (b.tly.base.get 0 k)) (capTerm b)))) ∧
  (∀ r : Fin 16, (railsUp s.blk = false → Acts (.tlyRailUv r) s id) ∧ (railsUp s.blk = true → AnswersWith (.tlyRailUv r) s (fun b =>
    mainOn b = false ∧ devState b = dsOff ∧ b.tly.cut = true ∧ b.qcp.jobs = [] ∧ (s.blk.bbQueue.length + 2 ≤ 2048 →
      b.bbQueue.getLast?.map (fun x => (x.kind, x.code)) = some (2, evCode .tlyRailUv))))) ∧
  (powerState s.blk < 2 → AnswersWith (.tlyRefclkLost 0) s (fun b => mainOn b = false ∧ b.tly.ref0 = false ∧ b.tly.cut = true)) ∧
  (2 ≤ powerState s.blk → Acts (.tlyRefclkLost 0) s (modTly fun t => { t with ref0 := false })) ∧
  (mainOn s.blk = true → AnswersWith (.tlyRefclkLost 1) s (fun b => b.tly.ref1 = false ∧ mainOn b = true ∧
    ∀ v ∈ ref1Ports s.blk, (portOf b v).link = false)) ∧
  (∀ c : Fin 2, AnswersWith (.refclkReturn c) s (fun b => if c = 0 then b.tly.ref0 = true else b.tly.ref1 = true)) ∧
  (mainOn s.blk = true → (started s.blk = false → Acts .reeveFault s id) ∧
    (started s.blk = true → AnswersWith .reeveFault s (fun b => devState b = dsFault ∧ ownOf b uReeve = hFailed)))

/-- The tally die: a feed outside its range is isolated, counted and recorded (R552), both lost take the main domain down (R554) and, once 200 ms
of hold-up are over and the queued records written, the tally die; a feed in range reconnects, 100 ms after its isolation at the earliest (R553). Powered up, the die starts tally time at 0 and counts POWERON (R572) in D3 (R598). ON is refused with BUSY until
HOLDUP_OK and with STATE_CONFLICT outside D3, OFF leaves D3, TRESET keeps the store (R570, R571). Its ring opens only from a front-end session (R575) and takes
and passes frames (R573, R574). The black box is written in order, paced, and read by RSEQ (R578, R579, R581).
The model's choices in log entries 27, 45, 46, 72 stand behind it. -/
def Obligations.TallyDie : Prop := ∀ (s : State),
  (∀ (f : Fin 2) (c : Fin 4) t, s.blk.tly.powered = true → (feedOf s.blk f).on = true →
    AnswersWith (.tlyFeedLost f c t) s (fun b => (feedOf b f).on = false ∧ pair b uTly Off.tlySwitchLo = (pair s.blk uTly Off.tlySwitchLo + 1) % 2 ^ 64 ∧
      flag b uTly Fld.tlyStatusFeedLost = true ∧ ((feedOf s.blk (1 - f)).on = false → mainOn b = false ∧ b.tly.lossAt = some s.blk.face.time) ∧
      ((feedOf s.blk (1 - f)).on = true → mainOn b = mainOn s.blk ∧ b.tly.lossAt = s.blk.tly.lossAt))) ∧
  (∀ (f : Fin 2) t, s.blk.tly.powered = true → (feedOf s.blk f).on = false →
    (t < 440 ∨ 580 < t ∨ s.blk.face.time < (feedOf s.blk f).since + 100000 → Acts (.tlyFeedBack f t) s id) ∧
    (440 ≤ t → t ≤ 580 → (feedOf s.blk f).since + 100000 ≤ s.blk.face.time → AnswersWith (.tlyFeedBack f t) s (fun b =>
      feedOf b f = ⟨t, true, s.blk.face.time⟩ ∧ b.tly.lossAt = none ∧
      flag b uTly Fld.tlyStatusFeedBack = true))) ∧
  (s.blk.tly.lossAt = none ∨ s.blk.bbQueue ≠ [] → Acts .holdupEnd s id) ∧
  (∀ t, s.blk.tly.lossAt = some t → (s.blk.face.time < t + 200000 → Acts .holdupEnd s id) ∧
    (t + 200000 ≤ s.blk.face.time → s.blk.bbQueue = [] → AnswersWith .holdupEnd s (fun b => b.tly.powered = false ∧ b.bbQueue = [] ∧
      bypassClosed b = true))) ∧
  (s.blk.tly.powered = true → Acts .holdupCharged s (fun b =>
    if flag b uTly Fld.tlyPowerHoldupOk then b else setSq uTly Fld.tlyStatusHoldup (setFld uTly Fld.tlyPowerHoldupOk 1 b))) ∧
  (∀ va vb, (440 ≤ va ∧ va ≤ 580) ∨ (440 ≤ vb ∧ vb ≤ 580) → s.blk.tly.powered = false → ∀ i ∈ [Instr.tallyPowerUp va vb, .moduleInsert va vb],
    AnswersWith i s (fun b => b.tly.powered = true ∧ b.face.time = 0 ∧ mainOn b = false ∧ b.tly.store = s.blk.tly.store ∧
      fld b uTly Fld.tlyPowerPoweron = (fld s.blk uTly Fld.tlyPowerPoweron + 1) % 2 ^ 16 ∧ bypassClosed b = false)) ∧
  (s.blk.tly.powered = true →
    (railsUp s.blk = true → Acts .on s (answer .stateConflict 0) ∧ Acts .treset s (answer .stateConflict 0)) ∧
    (railsUp s.blk = false → flag s.blk uTly Fld.tlyPowerHoldupOk = false → Acts .on s (answer .busy 0)) ∧
    (railsUp s.blk = false → flag s.blk uTly Fld.tlyPowerHoldupOk = true → AnswersWith .on s (fun b => mainOn b = true ∧ bootStage b = 0 ∧
      devState b = dsOff ∧ b.grn.mem = [] ∧ b.tly.cut = false)) ∧
    (railsUp s.blk = false → AnswersWith .treset s (fun b => b.tly.store = s.blk.tly.store ∧ b.bbQueue = [] ∧ b.face.time = s.blk.face.time ∧
      (∀ x ∈ b.qcp.sessions, x.ring = false))) ∧
    AnswersWith .off s (fun b => railsUp b = false ∧ (railsUp s.blk = true → b.grn.mem = [] ∧ devState b = dsOff ∧ b.qcp.jobs = [])) ∧
    (∀ (v : Word) fe, bitOf v.toNat 31 = false ∧ fe = false → Acts (.tlyRingWrite v fe) s id) ∧
    (∀ (v : Word) fe, bitOf v.toNat 31 = true ∨ fe = true → AnswersWith (.tlyRingWrite v fe) s (fun b => bypassClosed b = bitOf v.toNat 31)) ∧
    (∀ (p : Fin 2) up, AnswersWith (.tallyPortLinkChange p up) s (fun b =>
      flag b uTly (if p = 0 then Fld.tlyRingTraUp else Fld.tlyRingTrbUp) = up))) ∧
  (∀ (p : Fin 2) f, (bypassClosed s.blk = true → Acts (.tallyRingFrame p f) s id) ∧ (bypassClosed s.blk = false → AnswersWith (.tallyRingFrame p f) s (fun b =>
    b.qcp.ringIn = s.blk.qcp.ringIn ++ (if ringTakes f then [(2 + p.val, f)] else []) ∧
    b.tly.sent = s.blk.tly.sent ++ (if ringPasses f then [(1 - p.val, f)] else [])))) ∧
  (s.blk.bbQueue = [] ∨ s.blk.tly.powered = false → Answers .bbRecordWrite s id) ∧
  (∀ r rs, s.blk.bbQueue = r :: rs → s.blk.tly.powered = true → let n := s.blk.tly.store.bbHead
    (s.blk.tly.bucket = 0 → bbDroppable r = true → AnswersWith .bbRecordWrite s (fun b => b.tly.store = s.blk.tly.store)) ∧
    (0 < s.blk.tly.bucket ∨ bbDroppable r = false → AnswersWith .bbRecordWrite s (fun b => b.bbQueue = rs ∧ b.tly.store.bbHead = n + 1 ∧
      b.tly.bucket = s.blk.tly.bucket - 1 ∧ b.tly.store.bb.find n = some (bbBytes n r)))) ∧
  (s.blk.tly.refillAt ≤ s.blk.face.time → AnswersWith .bbBucketRefill s (fun b => b.tly.bucket ≤ max 64000 s.blk.tly.bucket ∧
    b.tly.bucket = min 64000 (s.blk.tly.bucket + (s.blk.face.time - s.blk.tly.refillAt) / 1000) ∧ s.blk.face.time < b.tly.refillAt + 1000)) ∧
  (∀ v : Word, AnswersWith (.tlyBbSelWrite v) s (fun b => bbSelected b = s.blk.tly.store.bb.find v.toNat))

/-! ### The queue and the limits -/

/-- A step takes the command at the front of the queue and answers what it answers on the state with the rest of the queue; with none waiting the block
idles, which is the model's choice (log entry 55).
The model's choices in log entry 55 stand behind it. -/
def Obligations.StepRunsFront : Prop := ∀ (b : Block) (c : Instr) (rest : List Instr),
  step ⟨b, c :: rest⟩ = exec c ⟨b, rest⟩ ∧ step ⟨b, []⟩ = .next ⟨b, []⟩

/-- Every step ends in a next state whose queue is the rest of the queue before it: no command faults or is refused.
The model's choices in log entries 5, 55 stand behind it. -/
def Obligations.EveryStepGoesOn : Prop := ∀ s : State, ∃ b, step s = .next ⟨b, s.pending.drop 1⟩

/-- The limited changes stay within their limits, and no step lowers a counter of them or the anti-rollback floor (R541, R542).
The model's choices in log entry 7 stand behind it. -/
def Obligations.LimitsKept : Prop := ∀ s s' : State, Limits s.blk → step s = .next s' → SafeStep s s'

/-- The machine right after reset is within the limits, the counters at zero, as the model's fresh module is (log entry 54).
The model's choices in log entry 54 stand behind it. -/
def Obligations.LimitsAtReset : Prop := Limits State.reset.blk ∧ State.reset.pending = [] ∧ mainOn State.reset.blk = false
end

