-- ==== Sys2Proof/Laws/Crypto.lean ====
section
/-! SUPPORT. The laws of the cryptographic operations that the frames rest on: what is sealed opens, and the widths of a digest and of a CRC. -/

namespace Sys2Proof

theorem leBytes_length (n v : Nat) : (leBytes n v).length = n := by
  induction n generalizing v with
  | zero => rfl
  | succ n ih => simp [leBytes, ih]

theorem beBytes_length (n v : Nat) : (beBytes n v).length = n := by simp [beBytes, leBytes_length]

theorem leNat_leBytes (n v : Nat) : leNat (leBytes n v) = v % 2 ^ (8 * n) := by
  induction n generalizing v with
  | zero => simp [leBytes, leNat]; omega
  | succ n ih =>
    have h : 2 ^ (8 * (n + 1)) = 256 * 2 ^ (8 * n) := by rw [show 8 * (n + 1) = 8 * n + 8 by omega, Nat.pow_add]; omega
    simp only [leBytes, leNat, ih, BitVec.toNat_ofNat, h, Nat.mod_mul]

/-- A number that stands at the end of a structure reads back. -/
theorem leAt_append (l : List Byte) (n v : Nat) (h : v < 2 ^ (8 * n)) : leAt (l ++ leBytes n v) l.length n = v := by
  simp only [leAt, List.drop_left, List.take_of_length_le (Nat.le_of_eq (leBytes_length n v)), leNat_leBytes]
  exact Nat.mod_eq_of_lt h

namespace Machine

theorem crcStep_lt (poly c : Nat) (hp : poly < 2 ^ 32) (hc : c < 2 ^ 32) : crcStep poly c < 2 ^ 32 := by
  unfold crcStep; split
  · exact Nat.xor_lt_two_pow (by omega) hp
  · omega

theorem iterate_crcStep_lt (poly : Nat) (hp : poly < 2 ^ 32) (n c : Nat) (hc : c < 2 ^ 32) : iterate (crcStep poly) n c < 2 ^ 32 := by
  induction n generalizing c with
  | zero => exact hc
  | succ n ih => exact ih _ (crcStep_lt poly c hp hc)

theorem crc32_lt (l : List Byte) : crc32 l < 2 ^ 32 := by
  have h : ∀ (l : List Byte) c, c < 2 ^ 32 → l.foldl (fun c x => iterate (crcStep 0xEDB88320) 8 (Nat.xor c x.toNat)) c < 2 ^ 32 := by
    intro l
    induction l with
    | nil => exact fun _ h => h
    | cons x l ih => exact fun c hc => ih _ (iterate_crcStep_lt _ (by decide) _ _
        (Nat.xor_lt_two_pow hc (Nat.lt_of_lt_of_le x.isLt (by decide))))
  exact Nat.xor_lt_two_pow (h l _ (by decide)) (by decide)

/-- The words of a key schedule: eight or more, of four bytes each. -/
theorem aesNextWord_length (i rcon : Nat) (ws : List (List Nat)) (h8 : 8 ≤ ws.length) (h4 : ∀ w ∈ ws, w.length = 4) :
    (aesNextWord i rcon ws).length = 4 := by
  obtain ⟨w, r, rfl⟩ : ∃ w r, ws = w :: r := List.exists_cons_of_length_pos (by omega)
  have hw : w.length = 4 := h4 w (by simp)
  have h7 : ((w :: r).getD 7 []).length = 4 := by
    rw [List.getD_eq_getElem?_getD, List.getElem?_eq_getElem (by omega : 7 < (w :: r).length)]; exact h4 _ (List.getElem_mem _)
  simp only [aesNextWord, List.headD_cons, List.length_zipWith, h7]
  split
  · split
    · rename_i a q hq
      have := congrArg List.length hq
      simp at this ⊢; omega
    · rename_i hq
      have := congrArg List.length hq
      simp at this; omega
  · split <;> simp [hw]

theorem aesExpand_words (n : Nat) : ∀ (i rcon : Nat) (ws : List (List Nat)), 8 ≤ ws.length → (∀ w ∈ ws, w.length = 4) →
    (aesExpand n i rcon ws).length = ws.length + n ∧ ∀ w ∈ aesExpand n i rcon ws, w.length = 4 := by
  induction n with
  | zero => exact fun _ _ _ _ h => ⟨rfl, h⟩
  | succ n ih =>
    intro i rcon ws h8 h4
    have := ih (i + 1) (if i % 8 = 0 then xtime rcon else rcon) (aesNextWord i rcon ws :: ws) (by simp; omega) (by
      intro w hw
      rcases List.mem_cons.mp hw with rfl | hw
      · exact aesNextWord_length i rcon ws h8 h4
      · exact h4 w hw)
    simp only [List.length_cons] at this
    exact ⟨by simp only [aesExpand]; omega, this.2⟩

theorem aesKeys_words (key : List Byte) (h : key.length = 32) : (aesKeys key).length = 60 ∧ ∀ w ∈ aesKeys key, w.length = 4 := by
  have := aesExpand_words 52 8 1 ((List.range 8).map fun i => ((key.map BitVec.toNat).drop (4 * i)).take 4).reverse (by simp) (by
    intro w hw
    simp only [List.mem_reverse, List.mem_map, List.mem_range] at hw
    obtain ⟨i, hi, rfl⟩ := hw
    simp [h]; omega)
  simp only [aesKeys, List.length_reverse, List.mem_reverse]
  exact ⟨by simpa using this.1, this.2⟩

theorem aesAdd_length (s : List Nat) (ks : List (List Nat)) (hs : s.length = 16) (hk : 4 ≤ ks.length) (h4 : ∀ w ∈ ks, w.length = 4) :
    (aesAdd s ks).length = 16 := by
  obtain ⟨a, r, rfl⟩ : ∃ a r, ks = a :: r := List.exists_cons_of_length_pos (by omega)
  obtain ⟨b, r, rfl⟩ : ∃ b r', r = b :: r' := List.exists_cons_of_length_pos (by simp at hk; omega)
  obtain ⟨c, r, rfl⟩ : ∃ c r', r = c :: r' := List.exists_cons_of_length_pos (by simp at hk; omega)
  obtain ⟨d, r, rfl⟩ : ∃ d r', r = d :: r' := List.exists_cons_of_length_pos (by simp at hk; omega)
  simp [aesAdd, hs, h4 a (by simp), h4 b (by simp), h4 c (by simp), h4 d (by simp)]

theorem aesShift_length (s : List Nat) : (aesShift s).length = 16 := by simp [aesShift]

theorem mixColumn_length (l : List Nat) : (mixColumn l).length = l.length := by unfold mixColumn; split <;> rfl

theorem aesRounds_length (n : Nat) : ∀ (ks : List (List Nat)) (s : List Nat), 4 * (n + 1) ≤ ks.length → (∀ w ∈ ks, w.length = 4) →
    (aesRounds n ks s).length = 16 := by
  induction n with
  | zero => exact fun ks s h h4 => aesAdd_length _ _ (aesShift_length s) (by omega) h4
  | succ n ih => exact fun ks s h h4 => ih _ _ (by simp; omega) fun w hw => h4 w (List.mem_of_mem_drop hw)

theorem aesBlock_length (key x : List Byte) (h : key.length = 32) : (aesBlock (aesKeys key) x).length = 16 := by
  have k := aesKeys_words key h
  simp only [aesBlock, List.length_map]
  exact aesRounds_length 13 _ _ (by simp [k.1]) fun w hw => k.2 w (List.mem_of_mem_drop hw)

theorem zip_xor_xor (a k : List Byte) (h : a.length ≤ k.length) : List.zipWith (· ^^^ ·) (List.zipWith (· ^^^ ·) a k) k = a := by
  induction a generalizing k with
  | nil => simp
  | cons x a ih =>
    cases k with
    | nil => simp at h
    | cons y k => simp [ih k (by simpa using h), BitVec.xor_assoc]

theorem gcmCtr_length (key nonce : List Byte) (h : key.length = 32) (n : Nat) : ∀ (c : Nat) (m : List Byte), m.length ≤ 16 * n →
    (gcmCtr (aesKeys key) nonce n c m).length = m.length := by
  induction n with
  | zero => intro c m hm; simp [gcmCtr]; omega
  | succ n ih =>
    intro c m hm
    simp only [gcmCtr, List.length_append, List.length_zipWith, List.length_take, aesBlock_length key _ h, ih (c + 1) (m.drop 16) (by simp; omega),
      List.length_drop]
    omega

/-- Counter mode undoes itself. -/
theorem gcmCtr_twice (key nonce : List Byte) (h : key.length = 32) (n : Nat) : ∀ (c : Nat) (m : List Byte), m.length ≤ 16 * n →
    gcmCtr (aesKeys key) nonce n c (gcmCtr (aesKeys key) nonce n c m) = m := by
  induction n with
  | zero => intro c m hm; exact (List.length_eq_zero_iff.mp (by omega : m.length = 0)).symm
  | succ n ih =>
    intro c m hm
    have hz : (List.zipWith (· ^^^ ·) (m.take 16) (aesBlock (aesKeys key) (nonce ++ beBytes 4 c))).length = min 16 m.length := by
      simp [aesBlock_length key _ h]
    simp only [gcmCtr]
    by_cases hl : m.length ≤ 16
    · have e : m.drop 16 = [] := by simp [hl]
      have e2 : gcmCtr (aesKeys key) nonce n (c + 1) [] = [] := List.length_eq_zero_iff.mp (by rw [gcmCtr_length key nonce h n _ _ (by simp)]; rfl)
      rw [e, e2, List.append_nil, List.take_of_length_le (by omega), List.drop_of_length_le (by omega), e2, List.append_nil,
        List.take_of_length_le hl]
      exact zip_xor_xor _ _ (by rw [aesBlock_length key _ h]; exact hl)
    · rw [List.take_left' (by omega), List.drop_left' (by omega), ih (c + 1) (m.drop 16) (by simp; omega),
        zip_xor_xor _ _ (by rw [List.length_take, aesBlock_length key _ h]; omega)]
      exact List.take_append_drop 16 m

/-- What is sealed opens: with the same key, nonce and additional data, the plaintext comes back. -/
theorem gcmOpen_seal (key nonce aad p : List Byte) (h : key.length = 32) :
    gcmOpen key nonce aad (gcmSeal key nonce aad p).1 (gcmSeal key nonce aad p).2 = some p := by
  have l := gcmCtr_length key nonce h ((p.length + 15) / 16) 2 p (by omega)
  simp only [gcmOpen, gcmSeal, if_true, l, gcmCtr_twice key nonce h _ 2 p (show p.length ≤ 16 * ((p.length + 15) / 16) by omega)]

theorem gcmSeal_length (key nonce aad p : List Byte) (h : key.length = 32) :
    (gcmSeal key nonce aad p).1.length = p.length ∧ (gcmSeal key nonce aad p).2.length = 16 :=
  ⟨gcmCtr_length key nonce h _ 2 p (by omega), by simp [gcmSeal, gcmTag, beBytes_length, aesBlock_length key _ h]⟩

end Machine

end Sys2Proof
end

