-- ==== Sys2Proof/Laws/Frames.lean ====
section
/-! SUPPORT. The laws of protected frames: what one side seals under a key the other opens with it. -/

namespace Sys2Proof.Machine

theorem fabHead_bytes_length (h : FabHead) : h.bytes.length = 32 := by simp [FabHead.bytes, leBytes_length]

theorem leAt_left (l tail : List Byte) (off n : Nat) (h : off + n ≤ l.length) : leAt (l ++ tail) off n = leAt l off n := by
  simp only [leAt, List.drop_append_of_le_length (show off ≤ l.length by omega)]
  rw [List.take_append_of_le_length (by simp; omega)]

/-- A frame's header depends on its first 32 bytes alone. -/
theorem fabHead_append (l tail : List Byte) (h : l.length = 32) : fabHead (l ++ tail) = fabHead l := by
  simp [fabHead, leAt_left, h]

/-- A fabric frame sealed under the key of an accepted epoch opens to its payload (R368, R369). -/
theorem openFrame_seal (p : Pair) (h : FabHead) (key v : List Byte) (e : Nat) (hk : key.length = 32) (hl : h.len = v.length)
    (he : frameEpoch p h.epoch = some e) (hp : epochKey p e = some key) : openFrame p h (sealFrame key h v) = some (e, v) := by
  have l := gcmSeal_length key (fabNonce h) (fabAad h.bytes) v hk
  have hb := fabHead_bytes_length h
  have t1 : (sealFrame key h v).take 32 = h.bytes := by
    simp only [sealFrame, List.append_assoc]; exact List.take_left' hb
  have t2 : (sealFrame key h v).drop 32 = (gcmSeal key (fabNonce h) (fabAad h.bytes) v).1 ++ (gcmSeal key (fabNonce h) (fabAad h.bytes) v).2 := by
    simp only [sealFrame, List.append_assoc]; exact List.drop_left' hb
  have t3 : (sealFrame key h v).drop (32 + h.len) = (gcmSeal key (fabNonce h) (fabAad h.bytes) v).2 := by
    rw [← List.drop_drop, t2]; exact List.drop_left' (by rw [l.1, hl])
  simp only [openFrame, he, hp, t1, t2, t3, List.take_left' (l.1.trans hl.symm), gcmOpen_seal key _ _ v hk, Option.map_some]

/-- A field reads back where it stands in a structure. -/
theorem leAt_mid (l a r : List Byte) (off n v : Nat) (h : l = a ++ (leBytes n v ++ r)) (ha : a.length = off) (hv : v < 2 ^ (8 * n)) : leAt l off n = v := by
  subst h ha
  simp only [leAt, List.drop_left, List.take_left' (leBytes_length n v), leNat_leBytes]
  exact Nat.mod_eq_of_lt hv

/-- A frame's header, payload and tag read back (R432). -/
theorem qcpParse_frame (h : QHead) (c tag : List Byte) (hc : c.length = h.len) (ht : tag.length = 16) (hp : h.param.length = 8) (ho : h.op < 2 ^ 16)
    (hs : h.sess < 2 ^ 32) (hq : h.seq < 2 ^ 64) (hu : h.queue < 2 ^ 18) (hl : h.len ≤ 8960) : qcpParse (h.bytes ++ c ++ tag) = some (h, c, tag) := by
  have hz : (h.param ++ zeros 8).take 8 = h.param := List.take_left' hp
  have hb : h.bytes.length = 32 := by simp [QHead.bytes, leBytes_length, hz, hp]
  obtain ⟨l, hl'⟩ : ∃ l, l = h.bytes ++ c ++ tag := ⟨_, rfl⟩
  have e : l = [1, BitVec.ofNat 8 (b2n h.dev + 2 * b2n h.more)] ++ (leBytes 2 h.op ++ (leBytes 4 h.sess ++ (leBytes 8 h.seq ++ (leBytes 4 h.queue ++
      (leBytes 2 h.len ++ ([0, 0] ++ (h.param ++ (c ++ tag)))))))) := by
    simp only [hl', QHead.bytes, hz, List.append_assoc]
  have n : l.length = 48 + h.len := by simp [hl', hb, hc, ht]; omega
  have f0 : leAt l 0 1 = 1 := by rw [e]; rfl
  have f1 : leAt l 1 1 = b2n h.dev + 2 * b2n h.more := by rw [e]; cases h.dev <;> cases h.more <;> rfl
  have f2 : leAt l 2 2 = h.op := leAt_mid l _ _ 2 2 _ e rfl ho
  have e4 := e; rw [← List.append_assoc] at e4
  have f4 : leAt l 4 4 = h.sess := leAt_mid l _ _ 4 4 _ e4 (by simp [leBytes_length]) hs
  have e8 := e4; rw [← List.append_assoc] at e8
  have f8 : leAt l 8 8 = h.seq := leAt_mid l _ _ 8 8 _ e8 (by simp [leBytes_length]) hq
  have e16 := e8; rw [← List.append_assoc] at e16
  have f16 : leAt l 16 4 = h.queue := leAt_mid l _ _ 16 4 _ e16 (by simp [leBytes_length]) (by omega)
  have e20 := e16; rw [← List.append_assoc] at e20
  have f20 : leAt l 20 2 = h.len := leAt_mid l _ _ 20 2 _ e20 (by simp [leBytes_length]) (by omega)
  have e22 := e20; rw [← List.append_assoc] at e22
  have f22 : leAt l 22 2 = 0 := leAt_mid l _ _ 22 2 0 e22 (by simp [leBytes_length]) (by decide)
  have f24 : (l.drop 24).take 8 = h.param := by
    have e24 := e22; rw [← List.append_assoc] at e24
    rw [e24, List.drop_left' (by simp [leBytes_length]), List.take_left' hp]
  have d32 : l.drop 32 = c ++ tag := by rw [hl', List.append_assoc]; exact List.drop_left' hb
  have dn : l.drop (32 + h.len) = tag := by rw [← List.drop_drop, d32]; exact List.drop_left' hc
  rw [← hl']
  unfold qcpParse
  simp only [f0, f1, f2, f4, f8, f16, f20, f22, f24, d32, dn, n, List.take_left' hc]
  rw [if_neg (by cases h.dev <;> cases h.more <;> simp [b2n] <;> omega)]
  cases h with
  | mk dev more op sess seq queue len param => cases dev <;> cases more <;> simp [b2n, bitOf, Nat.testBit]

/-- A protected frame of the host authenticates, when its SEQ is one the session takes (R433, R434). -/
theorem sessTake_seal {ra ring : Bool} (fl : Flow) (h : QHead) (v : List Byte) (b : Block) (x : Sess) (hx : sessOf b h.sess = some x)
    (hra : x.ra = ra) (hr : x.ring = ring) (hk : x.kIn.length = 32) (hs : seqOk x h.seq = true) :
    sessTake ra ring fl h (gcmSeal x.kIn (qcpNonce h.seq false) h.bytes v).1 (gcmSeal x.kIn (qcpNonce h.seq false) h.bytes v).2 b =
      (some ({ seqTake h.seq x with flow := fl, lastAt := b.face.time }, v), putSess { seqTake h.seq x with flow := fl, lastAt := b.face.time } b) := by
  simp [sessTake, hx, hra, hr, gcmOpen_seal x.kIn _ _ v hk, hs]

end Sys2Proof.Machine
end

