-- ==== Sys2Proof/Laws/Map.lean ====
section
/-! SUPPORT. The laws of sparse maps: what a lookup finds after a put or a drop, and that both keep the keys rising. -/

namespace Sys2Proof

theorem SMap.find_put_same {α : Type} (m : SMap α) (i : Nat) (x : α) : (m.put i x).find i = some x := by
  induction m with
  | nil => simp [SMap.put, SMap.find]
  | cons p r ih =>
    obtain ⟨k, v⟩ := p
    by_cases h1 : i < k
    · simp [SMap.put, SMap.find, h1]
    · by_cases h2 : i = k
      · simp [SMap.put, SMap.find, h2]
      · have h3 : k ≠ i := fun h => h2 h.symm
        simp [SMap.put, SMap.find, h1, h2, h3, ih]

theorem SMap.find_put_other {α : Type} (m : SMap α) (i j : Nat) (x : α) (h : j ≠ i) : (m.put i x).find j = m.find j := by
  have h' : i ≠ j := fun e => h e.symm
  induction m with
  | nil => simp [SMap.put, SMap.find, h']
  | cons p r ih =>
    obtain ⟨k, v⟩ := p
    by_cases h1 : i < k
    · simp [SMap.put, SMap.find, h1, h']
    · by_cases h2 : i = k
      · subst h2; simp [SMap.put, SMap.find, h']
      · simp [SMap.put, SMap.find, h1, h2, ih]

theorem SMap.find_put {α : Type} (m : SMap α) (i j : Nat) (x : α) : (m.put i x).find j = if j = i then some x else m.find j := by
  by_cases h : j = i
  · subst h; simp [SMap.find_put_same]
  · simp [SMap.find_put_other, h]

@[simp] theorem SMap.get_put {α : Type} (m : SMap α) (d x : α) (i j : Nat) :
    (m.put i x).get d j = if j = i then x else m.get d j := by
  by_cases h : j = i <;> simp [SMap.get, SMap.find_put, h]

@[simp] theorem SMap.find_nil {α : Type} (i : Nat) : SMap.find ([] : SMap α) i = none := rfl

@[simp] theorem SMap.get_nil {α : Type} (d : α) (i : Nat) : SMap.get ([] : SMap α) d i = d := rfl

theorem SMap.find_drop {α : Type} (m : SMap α) (i j : Nat) : (m.drop i).find j = if j = i then none else m.find j := by
  induction m with
  | nil => simp [SMap.drop, SMap.find]
  | cons p r ih =>
    obtain ⟨k, v⟩ := p
    by_cases h1 : k = i
    · subst h1
      by_cases h2 : j = k
      · subst h2; simpa [SMap.drop] using ih
      · have h3 : k ≠ j := fun e => h2 e.symm
        simp [SMap.drop, SMap.find, ih, h2, h3]
    · by_cases h2 : k = j
      · subst h2; simp [SMap.drop, SMap.find, h1]
      · simp [SMap.drop, SMap.find, h1, h2, ih]

@[simp] theorem SMap.get_drop {α : Type} (m : SMap α) (d : α) (i j : Nat) : (m.drop i).get d j = if j = i then d else m.get d j := by
  by_cases h : j = i <;> simp [SMap.get, SMap.find_drop, h]

theorem SMap.risingFrom_mono {α : Type} (m : SMap α) (lo lo' : Nat) (h : m.risingFrom lo = true) (hl : lo' ≤ lo) :
    m.risingFrom lo' = true := by
  cases m with
  | nil => rfl
  | cons p r => obtain ⟨k, v⟩ := p; simp [SMap.risingFrom] at *; exact ⟨by omega, h.2⟩

theorem SMap.put_risingFrom {α : Type} (m : SMap α) (lo i : Nat) (x : α) (h : m.risingFrom lo = true) (hi : lo ≤ i) :
    (m.put i x).risingFrom lo = true := by
  induction m generalizing lo with
  | nil => simp [SMap.put, SMap.risingFrom, hi]
  | cons p r ih =>
    obtain ⟨k, v⟩ := p
    simp [SMap.risingFrom] at h
    by_cases h1 : i < k
    · have : i + 1 ≤ k := h1
      simp [SMap.put, SMap.risingFrom, h1, hi, this, h.2]
    · by_cases h2 : i = k
      · subst h2; simp [SMap.put, SMap.risingFrom, hi, h.2]
      · simp [SMap.put, SMap.risingFrom, h1, h2, h.1, ih (k + 1) h.2 (by omega)]

theorem SMap.put_rising {α : Type} (m : SMap α) (i : Nat) (x : α) (h : m.rising = true) : (m.put i x).rising = true :=
  SMap.put_risingFrom m 0 i x h (Nat.zero_le _)

theorem SMap.drop_risingFrom {α : Type} (m : SMap α) (lo i : Nat) (h : m.risingFrom lo = true) : (m.drop i).risingFrom lo = true := by
  induction m generalizing lo with
  | nil => rfl
  | cons p r ih =>
    obtain ⟨k, v⟩ := p
    simp [SMap.risingFrom] at h
    by_cases h1 : k = i
    · simp [SMap.drop, h1]
      exact ih lo (SMap.risingFrom_mono r (k + 1) lo h.2 (by omega))
    · simp [SMap.drop, SMap.risingFrom, h1, h.1, ih _ h.2]

theorem SMap.drop_rising {α : Type} (m : SMap α) (i : Nat) (h : m.rising = true) : (m.drop i).rising = true :=
  SMap.drop_risingFrom m 0 i h

theorem SMap.mem_put {α : Type} (m : SMap α) (i : Nat) (x : α) (p : Nat × α) (h : p ∈ m.put i x) : p = (i, x) ∨ p ∈ m := by
  induction m with
  | nil => simpa [SMap.put] using h
  | cons q r ih =>
    obtain ⟨k, v⟩ := q
    by_cases h1 : i < k
    · simpa [SMap.put, h1] using h
    · by_cases h2 : i = k
      · subst h2; simp [SMap.put] at h; rcases h with h | h <;> simp [h]
      · simp [SMap.put, h1, h2] at h
        rcases h with h | h
        · simp [h]
        · rcases ih h with h | h <;> simp [h]

theorem SMap.mem_drop {α : Type} (m : SMap α) (i : Nat) (p : Nat × α) (h : p ∈ m.drop i) : p ∈ m := by
  induction m with
  | nil => simp [SMap.drop] at h
  | cons q r ih =>
    obtain ⟨k, v⟩ := q
    by_cases h1 : k = i
    · simp [SMap.drop, h1] at h; simp [ih h]
    · simp [SMap.drop, h1] at h
      rcases h with h | h
      · simp [h]
      · simp [ih h]

end Sys2Proof
end

