-- ==== Sys2Proof/Laws/State.lean ====
section
/-! SUPPORT. What each update of the block leaves alone: for every shared update, every part of the block it does not write is as it was; and what
reading back the part it writes gives. -/

namespace Sys2Proof.Machine

variable (b : Block)

@[simp] theorem setReg_frame (u o v : Nat) :
    (setReg u o v b).grn = b.grn ∧ (setReg u o v b).til = b.til ∧ (setReg u o v b).gln = b.gln ∧ (setReg u o v b).ctx = b.ctx ∧
    (setReg u o v b).mac = b.mac ∧ (setReg u o v b).fab = b.fab ∧ (setReg u o v b).tly = b.tly ∧ (setReg u o v b).trn = b.trn ∧
    (setReg u o v b).qcp = b.qcp ∧ (setReg u o v b).boot = b.boot ∧ (setReg u o v b).rec' = b.rec' ∧
    (setReg u o v b).bbQueue = b.bbQueue :=
  ⟨rfl, rfl, rfl, rfl, rfl, rfl, rfl, rfl, rfl, rfl, rfl, rfl⟩

@[simp] theorem setFld_frame (u : Nat) (f : Field) (v i : Nat) :
    (setFld u f v b i).grn = b.grn ∧ (setFld u f v b i).til = b.til ∧ (setFld u f v b i).gln = b.gln ∧ (setFld u f v b i).ctx = b.ctx ∧
    (setFld u f v b i).mac = b.mac ∧ (setFld u f v b i).fab = b.fab ∧ (setFld u f v b i).tly = b.tly ∧ (setFld u f v b i).trn = b.trn ∧
    (setFld u f v b i).qcp = b.qcp ∧ (setFld u f v b i).boot = b.boot ∧ (setFld u f v b i).rec' = b.rec' ∧
    (setFld u f v b i).bbQueue = b.bbQueue :=
  ⟨rfl, rfl, rfl, rfl, rfl, rfl, rfl, rfl, rfl, rfl, rfl, rfl⟩

@[simp] theorem bump_frame (u o n : Nat) :
    (bump u o n b).grn = b.grn ∧ (bump u o n b).til = b.til ∧ (bump u o n b).gln = b.gln ∧ (bump u o n b).ctx = b.ctx ∧
    (bump u o n b).mac = b.mac ∧ (bump u o n b).fab = b.fab ∧ (bump u o n b).tly = b.tly ∧ (bump u o n b).trn = b.trn ∧
    (bump u o n b).qcp = b.qcp ∧ (bump u o n b).boot = b.boot ∧ (bump u o n b).rec' = b.rec' ∧ (bump u o n b).bbQueue = b.bbQueue :=
  ⟨rfl, rfl, rfl, rfl, rfl, rfl, rfl, rfl, rfl, rfl, rfl, rfl⟩

@[simp] theorem takeFree_frame :
    ((takeFree b).2).grn = b.grn ∧ ((takeFree b).2).til = b.til ∧ ((takeFree b).2).gln = b.gln ∧ ((takeFree b).2).ctx = b.ctx ∧
    ((takeFree b).2).mac = b.mac ∧ ((takeFree b).2).fab = b.fab ∧ ((takeFree b).2).tly = b.tly ∧ ((takeFree b).2).trn = b.trn ∧
    ((takeFree b).2).qcp = b.qcp ∧ ((takeFree b).2).boot = b.boot ∧ ((takeFree b).2).rec' = b.rec' ∧
    ((takeFree b).2).bbQueue = b.bbQueue :=
  ⟨rfl, rfl, rfl, rfl, rfl, rfl, rfl, rfl, rfl, rfl, rfl, rfl⟩

@[simp] theorem setSq_frame (u : Nat) (f : Field) (i : Nat) :
    (setSq u f b i).grn = b.grn ∧ (setSq u f b i).til = b.til ∧ (setSq u f b i).gln = b.gln ∧ (setSq u f b i).ctx = b.ctx ∧
    (setSq u f b i).mac = b.mac ∧ (setSq u f b i).fab = b.fab ∧ (setSq u f b i).tly = b.tly ∧ (setSq u f b i).trn = b.trn ∧
    (setSq u f b i).qcp = b.qcp ∧ (setSq u f b i).boot = b.boot ∧ (setSq u f b i).rec' = b.rec' ∧ (setSq u f b i).bbQueue = b.bbQueue :=
  ⟨rfl, rfl, rfl, rfl, rfl, rfl, rfl, rfl, rfl, rfl, rfl, rfl⟩

@[simp] theorem writeSq_frame (u o v : Nat) :
    (writeSq u o v b).grn = b.grn ∧ (writeSq u o v b).til = b.til ∧ (writeSq u o v b).gln = b.gln ∧ (writeSq u o v b).ctx = b.ctx ∧
    (writeSq u o v b).mac = b.mac ∧ (writeSq u o v b).fab = b.fab ∧ (writeSq u o v b).tly = b.tly ∧ (writeSq u o v b).trn = b.trn ∧
    (writeSq u o v b).qcp = b.qcp ∧ (writeSq u o v b).boot = b.boot ∧ (writeSq u o v b).rec' = b.rec' ∧
    (writeSq u o v b).bbQueue = b.bbQueue :=
  ⟨rfl, rfl, rfl, rfl, rfl, rfl, rfl, rfl, rfl, rfl, rfl, rfl⟩

@[simp] theorem answer_frame (s : Status) (v : Nat) :
    (answer s v b).grn = b.grn ∧ (answer s v b).til = b.til ∧ (answer s v b).gln = b.gln ∧ (answer s v b).ctx = b.ctx ∧
    (answer s v b).mac = b.mac ∧ (answer s v b).fab = b.fab ∧ (answer s v b).tly = b.tly ∧ (answer s v b).trn = b.trn ∧
    (answer s v b).qcp = b.qcp ∧ (answer s v b).boot = b.boot ∧ (answer s v b).rec' = b.rec' ∧ (answer s v b).bbQueue = b.bbQueue :=
  ⟨rfl, rfl, rfl, rfl, rfl, rfl, rfl, rfl, rfl, rfl, rfl, rfl⟩

@[simp] theorem bbPush_frame (r : BbRec) :
    (bbPush r b).grn = b.grn ∧ (bbPush r b).til = b.til ∧ (bbPush r b).gln = b.gln ∧ (bbPush r b).ctx = b.ctx ∧
    (bbPush r b).mac = b.mac ∧ (bbPush r b).fab = b.fab ∧ (bbPush r b).trn = b.trn ∧
    (bbPush r b).qcp = b.qcp ∧ (bbPush r b).boot = b.boot ∧ (bbPush r b).rec' = b.rec' :=
  by refine ⟨?_, ?_, ?_, ?_, ?_, ?_, ?_, ?_, ?_, ?_⟩ <;> (unfold bbPush; split <;> rfl)

/-- Of the tally a record that joins the queue changes at most the count of dropped ones. -/
theorem bbPush_tly (r : BbRec) : (bbPush r b).tly = { b.tly with dropped := (bbPush r b).tly.dropped } := by
  unfold bbPush; split <;> rfl

@[simp] theorem ringPut_frame (u : Nat) (e : Ev) (arg : Nat) :
    (ringPut u e arg b).grn = b.grn ∧ (ringPut u e arg b).til = b.til ∧ (ringPut u e arg b).gln = b.gln ∧
    (ringPut u e arg b).ctx = b.ctx ∧ (ringPut u e arg b).mac = b.mac ∧ (ringPut u e arg b).fab = b.fab ∧
    (ringPut u e arg b).tly = b.tly ∧ (ringPut u e arg b).trn = b.trn ∧ (ringPut u e arg b).qcp = b.qcp ∧
    (ringPut u e arg b).boot = b.boot ∧ (ringPut u e arg b).rec' = b.rec' ∧ (ringPut u e arg b).bbQueue = b.bbQueue :=
  by refine ⟨?_, ?_, ?_, ?_, ?_, ?_, ?_, ?_, ?_, ?_, ?_, ?_⟩ <;> (unfold ringPut; simp only []; split <;> rfl)

@[simp] theorem countEvent_frame (e : Ev) :
    (countEvent e b).grn = b.grn ∧ (countEvent e b).til = b.til ∧ (countEvent e b).gln = b.gln ∧
    (countEvent e b).ctx = b.ctx ∧ (countEvent e b).mac = b.mac ∧ (countEvent e b).fab = b.fab ∧
    (countEvent e b).tly = b.tly ∧ (countEvent e b).trn = b.trn ∧ (countEvent e b).qcp = b.qcp ∧
    (countEvent e b).boot = b.boot ∧ (countEvent e b).rec' = b.rec' ∧ (countEvent e b).bbQueue = b.bbQueue :=
  by refine ⟨?_, ?_, ?_, ?_, ?_, ?_, ?_, ?_, ?_, ?_, ?_, ?_⟩ <;> (unfold countEvent; split <;> rfl)

@[simp] theorem raise_frame (u : Nat) (e : Ev) (arg : Nat) :
    (raise u e arg b).grn = b.grn ∧ (raise u e arg b).til = b.til ∧ (raise u e arg b).gln = b.gln ∧ (raise u e arg b).ctx = b.ctx ∧
    (raise u e arg b).mac = b.mac ∧ (raise u e arg b).fab = b.fab ∧ (raise u e arg b).trn = b.trn ∧
    (raise u e arg b).qcp = b.qcp ∧ (raise u e arg b).boot = b.boot ∧ (raise u e arg b).rec' = b.rec' :=
  by refine ⟨?_, ?_, ?_, ?_, ?_, ?_, ?_, ?_, ?_, ?_⟩ <;> (unfold raise; simp only []; split <;> simp)

theorem raise_tly (u : Nat) (e : Ev) (arg : Nat) : (raise u e arg b).tly = { b.tly with dropped := (raise u e arg b).tly.dropped } := by
  unfold raise; simp only []; split
  · rw [bbPush_tly]; simp
  · simp

@[simp] theorem notify_frame (u : Nat) (f : Field) (e : Ev) (arg : Nat) :
    (notify u f e arg b).grn = b.grn ∧ (notify u f e arg b).til = b.til ∧ (notify u f e arg b).gln = b.gln ∧
    (notify u f e arg b).ctx = b.ctx ∧ (notify u f e arg b).mac = b.mac ∧ (notify u f e arg b).fab = b.fab ∧
    (notify u f e arg b).trn = b.trn ∧ (notify u f e arg b).qcp = b.qcp ∧
    (notify u f e arg b).boot = b.boot ∧ (notify u f e arg b).rec' = b.rec' :=
  by refine ⟨?_, ?_, ?_, ?_, ?_, ?_, ?_, ?_, ?_, ?_⟩ <;> (simp [notify])

@[simp] theorem setOwn_frame (u h : Nat) :
    (setOwn u h b).grn = b.grn ∧ (setOwn u h b).til = b.til ∧ (setOwn u h b).gln = b.gln ∧ (setOwn u h b).ctx = b.ctx ∧
    (setOwn u h b).mac = b.mac ∧ (setOwn u h b).fab = b.fab ∧ (setOwn u h b).tly = b.tly ∧ (setOwn u h b).trn = b.trn ∧
    (setOwn u h b).qcp = b.qcp ∧ (setOwn u h b).boot = b.boot ∧ (setOwn u h b).rec' = b.rec' ∧ (setOwn u h b).bbQueue = b.bbQueue :=
  by refine ⟨?_, ?_, ?_, ?_, ?_, ?_, ?_, ?_, ?_, ?_, ?_, ?_⟩ <;> (unfold setOwn; simp only []; split <;> rfl)

@[simp] theorem poke_frame (a : Nat) (v : List Byte) :
    (poke a v b).face = b.face ∧ (poke a v b).til = b.til ∧ (poke a v b).gln = b.gln ∧ (poke a v b).ctx = b.ctx ∧
    (poke a v b).mac = b.mac ∧ (poke a v b).fab = b.fab ∧ (poke a v b).tly = b.tly ∧ (poke a v b).trn = b.trn ∧
    (poke a v b).qcp = b.qcp ∧ (poke a v b).boot = b.boot ∧ (poke a v b).rec' = b.rec' ∧ (poke a v b).bbQueue = b.bbQueue :=
  ⟨rfl, rfl, rfl, rfl, rfl, rfl, rfl, rfl, rfl, rfl, rfl, rfl⟩

@[simp] theorem setMark_frame (line : Nat) (m : Option LineMark) :
    (setMark line m b).face = b.face ∧ (setMark line m b).til = b.til ∧ (setMark line m b).gln = b.gln ∧
    (setMark line m b).ctx = b.ctx ∧ (setMark line m b).mac = b.mac ∧ (setMark line m b).fab = b.fab ∧ (setMark line m b).tly = b.tly ∧
    (setMark line m b).trn = b.trn ∧ (setMark line m b).qcp = b.qcp ∧ (setMark line m b).boot = b.boot ∧
    (setMark line m b).rec' = b.rec' ∧ (setMark line m b).bbQueue = b.bbQueue :=
  ⟨rfl, rfl, rfl, rfl, rfl, rfl, rfl, rfl, rfl, rfl, rfl, rfl⟩

@[simp] theorem setTile_frame (t : Nat) (x : Tile) :
    (setTile t x b).face = b.face ∧ (setTile t x b).grn = b.grn ∧ (setTile t x b).gln = b.gln ∧ (setTile t x b).ctx = b.ctx ∧
    (setTile t x b).mac = b.mac ∧ (setTile t x b).fab = b.fab ∧ (setTile t x b).tly = b.tly ∧ (setTile t x b).trn = b.trn ∧
    (setTile t x b).qcp = b.qcp ∧ (setTile t x b).boot = b.boot ∧ (setTile t x b).rec' = b.rec' ∧ (setTile t x b).bbQueue = b.bbQueue :=
  ⟨rfl, rfl, rfl, rfl, rfl, rfl, rfl, rfl, rfl, rfl, rfl, rfl⟩

@[simp] theorem modTile_frame (t : Nat) (f : Tile → Tile) :
    (modTile t f b).face = b.face ∧ (modTile t f b).grn = b.grn ∧ (modTile t f b).gln = b.gln ∧ (modTile t f b).ctx = b.ctx ∧
    (modTile t f b).mac = b.mac ∧ (modTile t f b).fab = b.fab ∧ (modTile t f b).tly = b.tly ∧ (modTile t f b).trn = b.trn ∧
    (modTile t f b).qcp = b.qcp ∧ (modTile t f b).boot = b.boot ∧ (modTile t f b).rec' = b.rec' ∧ (modTile t f b).bbQueue = b.bbQueue :=
  ⟨rfl, rfl, rfl, rfl, rfl, rfl, rfl, rfl, rfl, rfl, rfl, rfl⟩

@[simp] theorem setGl_frame (g : Nat) (x : Gleaner) :
    (setGl g x b).face = b.face ∧ (setGl g x b).grn = b.grn ∧ (setGl g x b).til = b.til ∧ (setGl g x b).ctx = b.ctx ∧
    (setGl g x b).mac = b.mac ∧ (setGl g x b).fab = b.fab ∧ (setGl g x b).tly = b.tly ∧ (setGl g x b).trn = b.trn ∧
    (setGl g x b).qcp = b.qcp ∧ (setGl g x b).boot = b.boot ∧ (setGl g x b).rec' = b.rec' ∧ (setGl g x b).bbQueue = b.bbQueue :=
  ⟨rfl, rfl, rfl, rfl, rfl, rfl, rfl, rfl, rfl, rfl, rfl, rfl⟩

@[simp] theorem setGrants_frame (s : Nat) (x : Grants) :
    (setGrants s x b).face = b.face ∧ (setGrants s x b).grn = b.grn ∧ (setGrants s x b).til = b.til ∧ (setGrants s x b).ctx = b.ctx ∧
    (setGrants s x b).mac = b.mac ∧ (setGrants s x b).fab = b.fab ∧ (setGrants s x b).tly = b.tly ∧ (setGrants s x b).trn = b.trn ∧
    (setGrants s x b).qcp = b.qcp ∧ (setGrants s x b).boot = b.boot ∧ (setGrants s x b).rec' = b.rec' ∧
    (setGrants s x b).bbQueue = b.bbQueue :=
  ⟨rfl, rfl, rfl, rfl, rfl, rfl, rfl, rfl, rfl, rfl, rfl, rfl⟩

@[simp] theorem modCtx_frame (f : Ctx → Ctx) :
    (modCtx f b).face = b.face ∧ (modCtx f b).grn = b.grn ∧ (modCtx f b).til = b.til ∧ (modCtx f b).gln = b.gln ∧
    (modCtx f b).mac = b.mac ∧ (modCtx f b).fab = b.fab ∧ (modCtx f b).tly = b.tly ∧ (modCtx f b).trn = b.trn ∧
    (modCtx f b).qcp = b.qcp ∧ (modCtx f b).boot = b.boot ∧ (modCtx f b).rec' = b.rec' ∧ (modCtx f b).bbQueue = b.bbQueue :=
  ⟨rfl, rfl, rfl, rfl, rfl, rfl, rfl, rfl, rfl, rfl, rfl, rfl⟩

@[simp] theorem setPort_frame (u : Nat) (p : MacPort) :
    (setPort u p b).face = b.face ∧ (setPort u p b).grn = b.grn ∧ (setPort u p b).til = b.til ∧ (setPort u p b).gln = b.gln ∧
    (setPort u p b).ctx = b.ctx ∧ (setPort u p b).fab = b.fab ∧ (setPort u p b).tly = b.tly ∧ (setPort u p b).trn = b.trn ∧
    (setPort u p b).qcp = b.qcp ∧ (setPort u p b).boot = b.boot ∧ (setPort u p b).rec' = b.rec' ∧ (setPort u p b).bbQueue = b.bbQueue :=
  ⟨rfl, rfl, rfl, rfl, rfl, rfl, rfl, rfl, rfl, rfl, rfl, rfl⟩

@[simp] theorem modFab_frame (f : Fabric → Fabric) :
    (modFab f b).face = b.face ∧ (modFab f b).grn = b.grn ∧ (modFab f b).til = b.til ∧ (modFab f b).gln = b.gln ∧
    (modFab f b).ctx = b.ctx ∧ (modFab f b).mac = b.mac ∧ (modFab f b).tly = b.tly ∧ (modFab f b).trn = b.trn ∧
    (modFab f b).qcp = b.qcp ∧ (modFab f b).boot = b.boot ∧ (modFab f b).rec' = b.rec' ∧ (modFab f b).bbQueue = b.bbQueue :=
  ⟨rfl, rfl, rfl, rfl, rfl, rfl, rfl, rfl, rfl, rfl, rfl, rfl⟩

@[simp] theorem modTrn_frame (f : Train → Train) :
    (modTrn f b).face = b.face ∧ (modTrn f b).grn = b.grn ∧ (modTrn f b).til = b.til ∧ (modTrn f b).gln = b.gln ∧
    (modTrn f b).ctx = b.ctx ∧ (modTrn f b).mac = b.mac ∧ (modTrn f b).fab = b.fab ∧ (modTrn f b).tly = b.tly ∧
    (modTrn f b).qcp = b.qcp ∧ (modTrn f b).boot = b.boot ∧ (modTrn f b).rec' = b.rec' ∧ (modTrn f b).bbQueue = b.bbQueue :=
  ⟨rfl, rfl, rfl, rfl, rfl, rfl, rfl, rfl, rfl, rfl, rfl, rfl⟩

@[simp] theorem modTly_frame (f : Tally → Tally) :
    (modTly f b).face = b.face ∧ (modTly f b).grn = b.grn ∧ (modTly f b).til = b.til ∧ (modTly f b).gln = b.gln ∧
    (modTly f b).ctx = b.ctx ∧ (modTly f b).mac = b.mac ∧ (modTly f b).fab = b.fab ∧ (modTly f b).trn = b.trn ∧
    (modTly f b).qcp = b.qcp ∧ (modTly f b).boot = b.boot ∧ (modTly f b).rec' = b.rec' ∧ (modTly f b).bbQueue = b.bbQueue :=
  ⟨rfl, rfl, rfl, rfl, rfl, rfl, rfl, rfl, rfl, rfl, rfl, rfl⟩

@[simp] theorem modQcp_frame (f : Qcp → Qcp) :
    (modQcp f b).face = b.face ∧ (modQcp f b).grn = b.grn ∧ (modQcp f b).til = b.til ∧ (modQcp f b).gln = b.gln ∧
    (modQcp f b).ctx = b.ctx ∧ (modQcp f b).mac = b.mac ∧ (modQcp f b).fab = b.fab ∧ (modQcp f b).tly = b.tly ∧
    (modQcp f b).trn = b.trn ∧ (modQcp f b).boot = b.boot ∧ (modQcp f b).rec' = b.rec' ∧ (modQcp f b).bbQueue = b.bbQueue :=
  ⟨rfl, rfl, rfl, rfl, rfl, rfl, rfl, rfl, rfl, rfl, rfl, rfl⟩

@[simp] theorem modBoot_frame (f : Boot → Boot) :
    (modBoot f b).face = b.face ∧ (modBoot f b).grn = b.grn ∧ (modBoot f b).til = b.til ∧ (modBoot f b).gln = b.gln ∧
    (modBoot f b).ctx = b.ctx ∧ (modBoot f b).mac = b.mac ∧ (modBoot f b).fab = b.fab ∧ (modBoot f b).tly = b.tly ∧
    (modBoot f b).trn = b.trn ∧ (modBoot f b).qcp = b.qcp ∧ (modBoot f b).rec' = b.rec' ∧ (modBoot f b).bbQueue = b.bbQueue :=
  ⟨rfl, rfl, rfl, rfl, rfl, rfl, rfl, rfl, rfl, rfl, rfl, rfl⟩

/-! ### Reading back -/

@[simp] theorem regKey_inj (u o u' o' : Nat) (h : o < 0x10_0000) (h' : o' < 0x10_0000) : regKey u o = regKey u' o' ↔ u = u' ∧ o = o' := by
  unfold regKey; omega

theorem getReg_setReg (u o v u' o' : Nat) :
    getReg (setReg u o v b) u' o' = if regKey u' o' = regKey u o then BitVec.ofNat 32 v else getReg b u' o' := by
  by_cases h : regKey u' o' = regKey u o <;> simp [getReg, setReg, SMap.find_put, h]

theorem reg_setReg (u o v u' o' : Nat) :
    reg (setReg u o v b) u' o' = if regKey u' o' = regKey u o then v % 2 ^ 32 else reg b u' o' := by
  unfold reg; rw [getReg_setReg]; split <;> simp

@[simp] theorem reg_setReg_same (u o v : Nat) : reg (setReg u o v b) u o = v % 2 ^ 32 := by simp [reg_setReg]

/-- An update that leaves the face alone leaves every register as it was. -/
theorem reg_of_face {b c : Block} (h : c.face = b.face) (u o : Nat) : reg c u o = reg b u o := by simp [reg, getReg, h]

theorem fld_of_face {b c : Block} (h : c.face = b.face) (u : Nat) (f : Field) (i : Nat) : fld c u f i = fld b u f i := by
  simp [fld, reg_of_face h]

theorem flag_of_face {b c : Block} (h : c.face = b.face) (u : Nat) (f : Field) (i : Nat) : flag c u f i = flag b u f i := by
  simp [flag, fld_of_face h]

theorem mainOn_of_face {b c : Block} (h : c.face = b.face) : mainOn c = mainOn b := by simp [mainOn, railsUp, moduleHeld, flag_of_face h]

@[simp] theorem tileOf_setTile (t t' : Nat) (x : Tile) : tileOf (setTile t x b) t' = if t' = t then x else tileOf b t' := by
  simp [tileOf, setTile]

@[simp] theorem tileOf_modTile (t t' : Nat) (f : Tile → Tile) :
    tileOf (modTile t f b) t' = if t' = t then f (tileOf b t) else tileOf b t' := by simp [modTile]

@[simp] theorem glOf_setGl (g g' : Nat) (x : Gleaner) : glOf (setGl g x b) g' = if g' = g then x else glOf b g' := by simp [glOf, setGl]

@[simp] theorem grantsOf_setGrants (s s' : Nat) (x : Grants) : grantsOf (setGrants s x b) s' = if s' = s then x else grantsOf b s' := by
  simp [grantsOf, setGrants]

@[simp] theorem portOf_setPort (u u' : Nat) (p : MacPort) : portOf (setPort u p b) u' = if u' = u then p else portOf b u' := by
  simp [portOf, setPort]

/-! ### What keepTally keeps -/

@[simp] theorem keepTally_keeps (f : Block → Block) :
    (keepTally f b).tly.store = b.tly.store ∧ (keepTally f b).grn.mapUsed = b.grn.mapUsed ∧ (keepTally f b).face.time = b.face.time :=
  ⟨rfl, rfl, rfl⟩

/-- Where the effect keeps them itself, keepTally changes nothing. -/
theorem keepTally_eq (f : Block → Block) (h1 : (f b).tly.store = b.tly.store) (h2 : (f b).grn.mapUsed = b.grn.mapUsed)
    (h3 : (f b).face.time = b.face.time) : keepTally f b = f b := by
  unfold keepTally; simp only [← h1, ← h2, ← h3]

/-! ### Tally time -/

@[simp] theorem setReg_time (u o v : Nat) : (setReg u o v b).face.time = b.face.time := rfl
@[simp] theorem setFld_time (u : Nat) (f : Field) (v i : Nat) : (setFld u f v b i).face.time = b.face.time := rfl
@[simp] theorem bump_time (u o n : Nat) : (bump u o n b).face.time = b.face.time := rfl
@[simp] theorem setSq_time (u : Nat) (f : Field) (i : Nat) : (setSq u f b i).face.time = b.face.time := rfl
@[simp] theorem answer_time (s : Status) (v : Nat) : (answer s v b).face.time = b.face.time := rfl
@[simp] theorem bbPush_time (r : BbRec) : (bbPush r b).face.time = b.face.time := by unfold bbPush; split <;> rfl
@[simp] theorem ringPut_time (u : Nat) (e : Ev) (arg : Nat) : (ringPut u e arg b).face.time = b.face.time := by
  unfold ringPut; simp only []; split <;> rfl
@[simp] theorem countEvent_time (e : Ev) : (countEvent e b).face.time = b.face.time := by unfold countEvent; split <;> rfl
@[simp] theorem raise_time (u : Nat) (e : Ev) (arg : Nat) : (raise u e arg b).face.time = b.face.time := by
  unfold raise; simp only []; split <;> simp
@[simp] theorem notify_time (u : Nat) (f : Field) (e : Ev) (arg : Nat) : (notify u f e arg b).face.time = b.face.time := by simp [notify]
@[simp] theorem poke_mapUsed (a : Nat) (v : List Byte) : (poke a v b).grn.mapUsed = b.grn.mapUsed := rfl

end Sys2Proof.Machine
end

