-- ==== Sys2Proof/Laws/Memory.lean ====
section
/-! SUPPORT. Memory: every operation keeps its canonical form, and a byte reads as it was last written. -/

namespace Sys2Proof.Machine

/-! ### The canonical form -/

theorem cellsSet_wf (m : List Host.Cell) (a : Nat) (v : Byte) (h : Memory.wf m = true) : Memory.wf (cellsSet m a v) = true := by
  simp only [Memory.wf, Bool.and_eq_true, List.all_eq_true] at *
  unfold cellsSet
  split
  · exact ⟨SMap.drop_rising m a h.1, fun c hc => h.2 c (SMap.mem_drop m a c hc)⟩
  · rename_i hv
    refine ⟨SMap.put_rising m a v h.1, fun c hc => ?_⟩
    rcases SMap.mem_put m a v c hc with rfl | hc
    · simpa using hv
    · exact h.2 c hc

theorem cellsSetAll_wf (l : List Byte) (m : List Host.Cell) (a : Nat) (h : Memory.wf m = true) : Memory.wf (cellsSetAll m a l) = true := by
  induction l generalizing m a with
  | nil => exact h
  | cons v r ih => exact ih _ _ (cellsSet_wf m a v h)

theorem poke_wf (a : Nat) (v : List Byte) (b : Block) (h : Memory.wf b.grn.mem = true) : Memory.wf (poke a v b).grn.mem = true :=
  cellsSetAll_wf v b.grn.mem a h

/-! ### Reading back -/

theorem cellsGet_cellsSet (m : List Host.Cell) (a x : Nat) (v : Byte) :
    cellsGet (cellsSet m a v) x = if x = a then v else cellsGet m x := by
  unfold cellsSet cellsGet
  split
  · rename_i hv
    rw [SMap.find_drop]
    by_cases hx : x = a <;> simp_all
  · rw [SMap.find_put]
    by_cases hx : x = a <;> simp [hx]

theorem cellsGet_cellsSetAll (l : List Byte) (m : List Host.Cell) (a x : Nat) :
    cellsGet (cellsSetAll m a l) x = if a ≤ x ∧ x < a + l.length then l.getD (x - a) 0 else cellsGet m x := by
  induction l generalizing m a with
  | nil => rw [if_neg (by simp only [List.length_nil]; omega)]; rfl
  | cons v r ih =>
    simp only [cellsSetAll]
    rw [ih, cellsGet_cellsSet]
    simp only [List.length_cons]
    by_cases hx : x = a
    · subst hx
      rw [if_neg (by omega), if_pos rfl, if_pos (by omega), Nat.sub_self]; rfl
    · by_cases h1 : a + 1 ≤ x ∧ x < a + 1 + r.length
      · have h2 : a ≤ x ∧ x < a + (r.length + 1) := by omega
        have h3 : x - a = (x - (a + 1)) + 1 := by omega
        simp [h1, h2, h3]
      · have h2 : ¬(a ≤ x ∧ x < a + (r.length + 1)) := by omega
        rw [if_neg h1, if_neg hx, if_neg h2]

/-- A byte reads as the poke left it; outside the poke it reads as before. -/
theorem byteAt_poke (a : Nat) (v : List Byte) (b : Block) (x : Nat) :
    byteAt (poke a v b) x = if a ≤ x ∧ x < a + v.length then v.getD (x - a) 0 else byteAt b x :=
  cellsGet_cellsSetAll v b.grn.mem a x

/-! ### What leaves the bytes alone -/

theorem byteAt_of_mem {b c : Block} (h : c.grn.mem = b.grn.mem) (x : Nat) : byteAt c x = byteAt b x := by simp [byteAt, h]

@[simp] theorem setMark_mem (line : Nat) (m : Option LineMark) (b : Block) : (setMark line m b).grn.mem = b.grn.mem := rfl
@[simp] theorem setLoftErr_mem (w : Nat) (e : Option Bool) (b : Block) : (setLoftErr w e b).grn.mem = b.grn.mem := rfl

@[simp] theorem recordRow_mem (pl : Place) (u : Bool) (b : Block) : (recordRow pl u b).grn.mem = b.grn.mem := by
  unfold recordRow; simp only []; (repeat' split) <;> rfl

@[simp] theorem noteFail_mem (line : Nat) (b : Block) : (noteFail line b).grn.mem = b.grn.mem := rfl

@[simp] theorem readOne_mem (line : Nat) (b : Block) : (readOne line b).2.grn.mem = b.grn.mem := by
  unfold readOne
  split
  · rfl
  · simp only []
    split
    · rfl
    · simp
    · split <;> simp
    · simp
    · simp

theorem foldl_keeps {α β γ : Type} (p : β → γ) (f : β → α → β) (l : List α) (s : β) (h : ∀ s x, p (f s x) = p s) : p (l.foldl f s) = p s := by
  induction l generalizing s with
  | nil => rfl
  | cons x r ih => simp [ih, h]

@[simp] theorem chargeRereads_mem (ls : List Nat) (b : Block) : (chargeRereads ls b).grn.mem = b.grn.mem :=
  foldl_keeps (fun (c : Block) => c.grn.mem) _ _ b (by simp)

@[simp] theorem readLine_mem (line : Nat) (b : Block) : (readLine line b).2.grn.mem = b.grn.mem := by simp [readLine]

@[simp] theorem readLines_mem (ls : List Nat) (b : Block) : (readLines ls b).2.grn.mem = b.grn.mem := by
  unfold readLines
  rw [foldl_keeps (fun (acc : Bool × Block) => acc.2.grn.mem) _ ls _ (by simp)]
  simp

@[simp] theorem addrFault_mem (iss : Issuer) (a : Nat) (b : Block) : (addrFault iss a b).grn.mem = b.grn.mem := by simp [addrFault]

/-- A read that its banks serve changes no byte of memory. -/
theorem serveRead_mem (a n : Nat) (b : Block) : (serveRead a n b).2.2.grn.mem = b.grn.mem := by
  unfold serveRead
  simp only []
  split <;> (split <;> simp)

/-- With no segment open an access releases nothing. -/
theorem releaseBanks_idle (a n : Nat) (b : Block) (h : anySegment b = false) : releaseBanks a n b = b := by
  simp [releaseBanks, h]

/-- A bank that no segment holds needs no release. -/
theorem releaseBank_free (ch bank : Nat) (b : Block) (h : bankHeld b (bankGleaner ch bank) bank = false) : releaseBank ch bank b = b := by
  simp [releaseBank, h]

/-- A granary read changes no byte of memory but by the commits it waits for. -/
theorem granaryRead_mem (iss : Issuer) (a n : Nat) (b : Block) (h : releaseBanks a n b = b) :
    (granaryRead iss a n b).2.2.grn.mem = b.grn.mem := by
  unfold granaryRead
  split
  · simp
  · rw [h, serveRead_mem]

/-! ### The memory operations keep the canonical form -/

theorem foldl_inv {α β : Type} (p : β → Prop) (f : β → α → β) (l : List α) (s : β) (h0 : p s) (h : ∀ s x, p s → p (f s x)) : p (l.foldl f s) := by
  induction l generalizing s with
  | nil => exact h0
  | cons x r ih => exact ih _ (h _ _ h0)

theorem writeLine_wf (a : Nat) (v : List Byte) (tag : Option Nat) (line : Nat) (b : Block) (h : Memory.wf b.grn.mem = true) :
    Memory.wf (writeLine a v tag line b).2.grn.mem = true := by
  have hr : Memory.wf (readOne line b).2.grn.mem = true := by simpa using h
  unfold writeLine
  simp only []
  split
  · exact h
  · split
    · apply poke_wf; simp only []; split <;> exact h
    · split
      · exact poke_wf _ _ _ hr
      · exact hr

theorem serveWrite_wf (a : Nat) (v : List Byte) (tag : Option Nat) (b : Block) (h : Memory.wf b.grn.mem = true) :
    Memory.wf (serveWrite a v tag b).2.grn.mem = true := by
  unfold serveWrite
  simp only []
  refine foldl_inv (fun (acc : Bool × Block) => Memory.wf acc.2.grn.mem = true) _ _ _ ?_ ?_
  · split <;> simpa using h
  · intro s x hs; exact writeLine_wf _ _ _ _ _ hs

@[simp] theorem refreshOwed_mem (ch bank : Nat) (b : Block) : (refreshOwed ch bank b).grn.mem = b.grn.mem := by
  unfold refreshOwed; dsimp only; split <;> rfl

theorem landPut_wf (g : Nat) (p : Nat × List Byte × Nat) (b : Block) (h : Memory.wf b.grn.mem = true) :
    Memory.wf (landPut g p b).grn.mem = true := by
  unfold landPut
  dsimp only
  split
  · split
    · exact serveWrite_wf _ _ _ _ h
    · simpa [modGl, setGl] using serveWrite_wf _ _ _ _ h
  · simpa [modGl, setGl, failElsewhere] using h

theorem commit_wf (g : Nat) (forced : Bool) (b : Block) (h : Memory.wf b.grn.mem = true) : Memory.wf (commit g forced b).grn.mem = true := by
  unfold commit
  simp only []
  split
  · exact h
  · rename_i sg _
    have hq : Memory.wf (sg.puts.foldl (fun c p => landPut g p c) b).grn.mem = true :=
      foldl_inv (fun (c : Block) => Memory.wf c.grn.mem = true) _ _ _ h fun c p hc => landPut_wf g p c hc
    have hr := foldl_inv (fun (c : Block) => Memory.wf c.grn.mem = true) (fun c k => refreshOwed (glChannel g) k.1 c) sg.banks _ hq
      (by intro c k hc; simpa using hc)
    split <;> split <;> simpa [modGl, setGl, dropGrant, setGrants] using hr

theorem releaseBank_wf (ch bank : Nat) (b : Block) (h : Memory.wf b.grn.mem = true) : Memory.wf (releaseBank ch bank b).grn.mem = true := by
  unfold releaseBank
  split
  · exact commit_wf _ _ _ h
  · exact h

theorem releaseBanks_wf (a n : Nat) (b : Block) (h : Memory.wf b.grn.mem = true) :
    Memory.wf (releaseBanks a n b).grn.mem = true := by
  unfold releaseBanks
  split
  · exact h
  · refine foldl_inv (fun (c : Block) => Memory.wf c.grn.mem = true) _ _ _ h ?_
    intro c l hc
    split
    · exact hc
    · exact releaseBank_wf _ _ _ hc

theorem granaryRead_wf (iss : Issuer) (a n : Nat) (b : Block) (h : Memory.wf b.grn.mem = true) :
    Memory.wf (granaryRead iss a n b).2.2.grn.mem = true := by
  unfold granaryRead
  split
  · simpa using h
  · rw [serveRead_mem]; exact releaseBanks_wf _ _ _ h

theorem granaryWrite_wf (iss : Issuer) (a : Nat) (v : List Byte) (tag : Option Nat) (b : Block) (h : Memory.wf b.grn.mem = true) :
    Memory.wf (granaryWrite iss a v tag b).2.grn.mem = true := by
  unfold granaryWrite
  split
  · exact h
  · split
    · simpa using h
    · exact serveWrite_wf _ _ _ _ (releaseBanks_wf _ _ _ h)

theorem granaryAtomic_wf (iss : Issuer) (code a v cmp : Nat) (b : Block) (h : Memory.wf b.grn.mem = true) :
    Memory.wf (granaryAtomic iss code a v cmp b).2.2.grn.mem = true := by
  unfold granaryAtomic
  split
  · exact h
  · rename_i n _
    by_cases h1 : a % n ≠ 0
    · simpa [h1] using h
    · by_cases h2 : (code = 0x03 ∨ code = 0x04) ∧ iss.train
      · simpa [h1, h2] using h
      · by_cases h3 : granaryAllows b iss a n true
        · have hr : Memory.wf (readLine (a / 64) (bump (uChannel (channelAt (releaseBanks a n b) a)) Off.grnChNarrowLo 1 (releaseBanks a n b))).2.grn.mem
              = true := by
            simpa using releaseBanks_wf _ _ _ h
          simp only [h1, h2, h3, if_false, Bool.not_true, Bool.false_eq_true]
          split
          · simpa using poke_wf _ _ _ hr
          · exact hr
        · simpa [h1, h2, h3] using h

theorem refresh_mem (p : Nat → Bool) (l : List Nat) (b : Block) :
    (l.foldl (fun b w => if p w then setLoftErr w none b else b) b).grn.mem = b.grn.mem := by
  induction l generalizing b with
  | nil => rfl
  | cons x r ih => rw [List.foldl_cons, ih]; split <;> rfl

theorem loftWrite_wf (t off : Nat) (v : List Byte) (b : Block) (h : Memory.wf b.grn.mem = true) :
    Memory.wf (loftWrite t off v b).2.grn.mem = true := by
  unfold loftWrite
  generalize loftBase t + off = a
  refine poke_wf _ _ _ ?_
  rw [show ∀ c : Block, (noteLoft t c).grn.mem = c.grn.mem from fun _ => rfl]
  split
  · rw [refresh_mem]; exact h
  · rw [show ∀ c : Block, (failElsewhere c).grn.mem = c.grn.mem from fun _ => rfl, refresh_mem]; exact h

theorem reset_wf : Memory.wf blockFresh.grn.mem = true := rfl

end Sys2Proof.Machine
end

