-- ==== Sys2Proof/Laws/Step.lean ====
section
/-! SUPPORT. What a step answers, and how a command's answer follows from what its meaning's operation does to the block. -/

namespace Sys2Proof.Machine

variable {i : Instr} {s : State} {f g : Block → Block} {p : Block → Prop}

theorem step_nil (b : Block) : step ⟨b, []⟩ = .next ⟨b, []⟩ := rfl

theorem step_cons (b : Block) (c : Instr) (rest : List Instr) : step ⟨b, c :: rest⟩ = exec c ⟨b, rest⟩ := rfl

/-- No word of the table spells a command, so nothing is put at the front. -/
theorem withFetchWord_eq (s : State) (nbits w : Nat) : s.withFetchWord nbits w = s := rfl

theorem whenMain_on (f : Block → Block) (b : Block) (h : mainOn b = true) : whenMain f b = f b := if_pos h

theorem whenMain_off (f : Block → Block) (b : Block) (h : mainOn b = false) : whenMain f b = b := by simp [whenMain, h]

/-- A command that may change the tally store answers what its operation does. -/
theorem answers_all (he : exec i s = s.runAll g) (h : g s.blk = f s.blk) : Answers i s f := by
  unfold Answers; rw [he]; simp [State.runAll, h]

/-- A command outside the tally store answers what its operation does, but for the store, its counters and tally time. -/
theorem acts_run (he : exec i s = s.run g) (h : g s.blk = f s.blk) : Acts i s f := by
  unfold Acts Answers; rw [he]; simp [State.run, State.runAll, keepTally, h]

/-- The same of a command of the main die with the main domain powered. -/
theorem acts_main (he : exec i s = s.runMain g) (hm : mainOn s.blk = true) (h : g s.blk = f s.blk) : Acts i s f :=
  acts_run (g := whenMain g) he (by rw [whenMain_on g s.blk hm, h])

/-- With the main domain off a command of the main die changes nothing. -/
theorem acts_off (he : exec i s = s.runMain g) (hm : mainOn s.blk = false) : Acts i s id :=
  acts_run (g := whenMain g) he (whenMain_off g s.blk hm)

/-- Where the operation leaves the store, its counters and tally time alone, the answer is the operation's. -/
theorem answers_of_acts (h : Acts i s f) (h1 : (f s.blk).tly.store = s.blk.tly.store) (h2 : (f s.blk).grn.mapUsed = s.blk.grn.mapUsed)
    (h3 : (f s.blk).face.time = s.blk.face.time) : Answers i s f := by
  unfold Acts Answers at *; rw [h, keepTally_eq s.blk f h1 h2 h3]

theorem answersWith_all (he : exec i s = s.runAll g) (h : p (g s.blk)) : AnswersWith i s p := ⟨g s.blk, he, h⟩

theorem answersWith_run (he : exec i s = s.run g) (h : p (keepTally g s.blk)) : AnswersWith i s p := ⟨keepTally g s.blk, he, h⟩

theorem answersWith_main (he : exec i s = s.runMain g) (hm : mainOn s.blk = true) (h : p (keepTally g s.blk)) : AnswersWith i s p :=
  answersWith_run (g := whenMain g) he (by
    have : keepTally (whenMain g) s.blk = keepTally g s.blk := by simp [keepTally, whenMain_on g s.blk hm]
    rw [this]; exact h)

theorem answersWith_of_acts (h : Acts i s f) (hp : p (keepTally f s.blk)) : AnswersWith i s p := ⟨_, h, hp⟩

end Sys2Proof.Machine
end

