-- ==== Sys2Proof/Tests/Slice0.lean ====
section
/-! SUPPORT. Tests: the smoke test of WellFormed, worked values of the spec, single steps, and for every statement with hypotheses a state and
operands that meet them. -/

namespace Sys2Proof.Tests

set_option Elab.async false

open Sys2Proof.Machine

/-! ### Small states -/

/-- The block with the main domain powered. -/
def on : Block := setFld uTly Fld.tlyPowerMainOn 1 blockFresh

def st (b : Block) : State := ⟨b, []⟩

/-- The block after one step of a command. -/
def after (c : Instr) (b : Block) : Block := match step ⟨b, [c]⟩ with
  | .next s => s.blk
  | _ => b

/-- A structure of `n` bytes, zero but for the bytes given. -/
def bytes (n : Nat) (l : List (Nat × Nat)) : List Byte := (List.range n).map fun i => BitVec.ofNat 8 ((l.find? fun p => p.1 = i).elim 0 (·.2))

def desc (l : List (Nat × Nat)) : List Byte := bytes 64 l

/-- Tile 0 with some operations in its window and a stream state. -/
def tile (stream : StreamState) (ops : List Op) : Block := setTile 0 { Tile.init with stream := stream, ops := ops, issued := ops.length } on

/-- Job slot 0 owns all of tile 0's loft and the tile is bound to it. -/
def bound (b : Block) : Block := setReg (uTile 0) (Off.lftShare 0) 0x80000200 (setFld (uTile 0) Fld.tilIdentBound 1 b)

def started (q : Nat) (d : List Byte) : Op := ⟨0, d, q, false, .started, 0⟩

/-- A job slot with a scale table of one entry of format E4M3. -/
def scaled (b : Block) : Block :=
  poke 0x4000 (leBytes 4 (2 ^ 16)) (setReg uTrn (Off.trnSclBaseLo 0) 0x4000 (setFld uTrn Fld.trnSclCtrlEnable 1 b))

/-- A job slot in use, in a JSTATE. -/
def slot (js : Nat) : JobSlot := ⟨js, false, false, [], 0, 1, [], none⟩

/-! ### Ill-formed commands are refused -/

theorem test_wf_good : wellFormed (.fill 0 .clean false [.line 0 .corr, .word 0x1000_0000_0000 true]) = true ∧ wellFormed (.granaryRead 0 none 0 64 []) = true := by decide
theorem test_wf_strikes : wellFormed (.mma 0 0 [.line (2 ^ 42) .corr]) = false ∧ wellFormed (.patrolScrubRead 0 [.word 0 true]) = false ∧
    wellFormed (.vecAdd 0 0 none [.word 0x1000_8000_0000 false]) = false := by decide
theorem test_wf_residues : wellFormed (.fill 0 (.residue 1024) false []) = false ∧ wellFormed (.fill 0 (.fatal 0 1024) false []) = false := by decide
theorem test_wf_peers : wellFormed (.dmaFill 0 0 [⟨2 ^ 64, .ok, [], []⟩] []) = false := by decide
theorem test_wf_accesses : wellFormed (.granaryRead 0 none (2 ^ 64) 0 []) = false ∧ wellFormed (.granaryRead 0 none 0 (2 ^ 32) []) = false ∧
    wellFormed (.granaryWrite 0 none 0 [] (some (2 ^ 32)) []) = false ∧ wellFormed (.addI32 0 none 0 (2 ^ 64) []) = false ∧
    wellFormed (.cas64 0 none 0 0 (2 ^ 64) []) = false := by decide
theorem test_wf_pages : wellFormed (.pageIn 0 (2 ^ 20) .ok []) = false ∧ wellFormed (.pageIn 0 0 .ok [1]) = false ∧ wellFormed (.hostPageinTimeout 0 (2 ^ 20)) = false ∧
    wellFormed (.pageEviction 0 (some (2 ^ 26))) = false ∧ wellFormed (.batchEnd 0 (2 ^ 32)) = false := by decide
theorem test_wf_training : wellFormed (.replicaCheck 0 [⟨1024, 0, [], []⟩] [] [] [] []) = false ∧ wellFormed (.stepClose 0 [(2 ^ 16, ⟨0, 0, 0, 0⟩)]) = false ∧
    wellFormed (.mirrorApply 0 [⟨0, 0, 0, 0, 0, 0, 3, 0, []⟩]) = false ∧ wellFormed (.trnStepDone 0 (2 ^ 32)) = false ∧
    wellFormed (.blockRestore 0 0 (some (0, [1]))) = false := by decide
theorem test_wf_fabric : wellFormed (.flitReceive 0 [] 0 0) = false ∧ wellFormed (.fabricRequestSend ⟨0, 8, 0, 1, false, false, 0, 0, 0, []⟩) = false ∧
    wellFormed (.fabricRequestSend ⟨0, 0, 0, 4, false, false, 0, 0, 0, []⟩) = false ∧ wellFormed (.fabricResendTimeout 0 0 (2 ^ 32)) = false := by decide
theorem test_wf_frames : wellFormed (.fabricWrite 0 (List.replicate 4145 0)) = false ∧ wellFormed (.pfcFrameReceive 0 0 []) = false ∧
    wellFormed (.tallyRingFrame 0 (List.replicate 16385 0)) = false := by decide +kernel
theorem test_wf_modules : wellFormed (.localisation [8192] false) = false ∧ wellFormed (.loadChunkReceive 0 ⟨0, 1, 1, 0, 0, []⟩) = false ∧
    wellFormed (.tlyFeedBack 0 1024) = false ∧ wellFormed (.thermalSample [] []) = false ∧ wellFormed (.capLoopCheck 65536 false) = false := by decide

/-! ### The common face -/

theorem test_witness_write_rw : ∃ r, rowAt uReeve Off.evtTail = some r ∧ r.acc = .rw ∧ mainOn on = true := ⟨_, rfl, by decide, by decide⟩
theorem test_witness_write_ro : ∃ r, rowAt uQcp 0 = some r ∧ r.acc = .ro := ⟨_, rfl, by decide⟩
theorem test_write_unaligned : (after (.registerWrite ⟨4, 1⟩ false 1 5 7) on).face.replies = [⟨.badArgument, 0⟩] := by decide
theorem test_write_missing_unit : kindOf 10 = none ∧ (after (.registerWrite ⟨4, 1⟩ false 10 0 7) on).face.replies = [⟨.notPresent, 0⟩] := by decide
theorem test_witness_counter : ∃ r, rowAt (uTile 0) Off.tilOpsLo = some r ∧ r.acc = .rc ∧ isPairLo (uTile 0) Off.tilOpsLo = true ∧
    isMacCounter (uTile 0) Off.tilOpsLo = false := ⟨_, rfl, by decide, by decide, by decide⟩
/-- A 64-bit counter of 2^32 + 5: its low word reads 5, then 0; its high word reads 1 (R12, R13). -/
theorem test_counter_latch :
    let b := after (.counterLowRead ⟨4, 1⟩ 64 0x10030) (bump (uTile 0) Off.tilOpsLo (2 ^ 32 + 5) on)
    b.face.replies = [⟨.ok, 5⟩] ∧ shadowOf b 64 (Off.tilOpsLo + 4) = 1 ∧ pair b 64 Off.tilOpsLo = 0 := by decide

/-- The counters of waits, and what a read of one takes: a free value (R183, R223). -/
theorem test_wait_counter : isWaitCounter (uTile 0) Off.lftConflictLo = true ∧ isWaitCounter (uStack 3) (Off.grnStallNsLo 4) = true ∧
    isWaitCounter (uStack 3) (Off.grnStallEvtLo 4) = false ∧
    (after (.counterLowRead ⟨4, 1⟩ 64 ⟨Off.lftConflictLo, by decide⟩) { on with grn := { on.grn with loftUsed := [0] } }).face.free = 1 ∧
    (after (.counterLowRead ⟨4, 1⟩ 64 ⟨Off.lftConflictLo, by decide⟩) on).face.free = 0 := by decide

/-! ### The thresher -/

/-- INT8, shape 32 × 32: LOADB into slot 0 from loft offset 0. -/
def loadbDesc : List Byte := desc [(0, 1), (8, 1), (24, 32)]
/-- INT8, 32 × 32, one block of two rows and three columns into accumulator tile 1 from loft offset 0x800. -/
def mmaDesc (l : List (Nat × Nat)) : List Byte := desc (l ++ [(0, 1), (8, 0), (11, 1), (13, 1), (14, 2), (16, 3), (21, 8), (24, 32)])
def drainDesc : List Byte := desc [(0, 1), (8, 2), (11, 1), (13, 1), (14, 2), (16, 3), (21, 8), (24, 32)]
def zeroDesc : List Byte := desc [(0, 1), (8, 3), (11, 1), (13, 1)]
def slotOnes : Slot := ⟨0, 0, 0, List.replicate 1024 1, []⟩
def thr (q : Nat) (d : List Byte) : Block := bound (modTile 0 (fun x => { x with slot0 := some slotOnes }) (tile .running [started q d]))
def withRun (r : MmaRun) (b : Block) : Block := setRun 0 (some r) b
def thrOk (q op : Nat) (d : List Byte) : Prop :=
  mainOn (thr q d) = true ∧ Started (thr q d) 0 0 1 op (started q d) ∧ operandFault (thr q d) 0 d = none ∧ thrBad (thr q d) 0 d = false

theorem test_witness_mma : thrOk 2 0 (mmaDesc []) ∧ (tileOf (thr 2 (mmaDesc [])) 0).run = none ∧
    (readMask 0 (mmaDesc []) (thr 2 (mmaDesc []))).1.isSome = true := by unfold thrOk Started; decide
theorem test_witness_zero : thrOk 2 3 zeroDesc := by unfold thrOk Started; decide
theorem test_witness_drain : thrOk 2 2 drainDesc ∧ (readMask 0 drainDesc (thr 2 drainDesc)).1.isSome = true := by unfold thrOk Started; decide
theorem test_witness_loadb : thrOk 1 1 loadbDesc ∧ (loftReads 0 (bScaleRanges loadbDesc) (thr 1 loadbDesc)).1.isSome = true := by
  unfold thrOk Started; decide
theorem test_witness_loadb_reads : (loftReads 0 (bRanges loadbDesc) (thr 1 loadbDesc)).1.isSome = true := by decide
/-- A word of the block struck twice cannot be corrected. -/
theorem test_witness_loadb_fails :
    (loftReads 0 (bRanges loadbDesc) (strike [.word 0x100000000000 true] (thr 1 loadbDesc))).1 = none := by decide
theorem test_witness_operand_fault : operandFault (thr 2 (mmaDesc [(20, 1)])) 0 (mmaDesc [(20, 1)]) = some 20 := by decide
theorem test_witness_thr_bad : operandFault (thr 2 (mmaDesc [(13, 0)])) 0 (mmaDesc [(13, 0)]) = none ∧
    thrBad (thr 2 (mmaDesc [(13, 0)])) 0 (mmaDesc [(13, 0)]) = true := by decide
theorem test_witness_fill : let b := withRun ⟨0, 0, [], [], 0, 0⟩ (thr 2 (mmaDesc []))
    (tileOf b 0).thrStopped = false ∧ slotOf (tileOf b 0) (mSlot (mmaDesc [])) = some slotOnes ∧
    (fillReads 0 (mmaDesc []) [] 0 b).1.isSome = true := by decide +kernel
/-- 32 products of 1 by 1 sum to 32.0, in each of six elements. -/
theorem test_fill_sum : let b := poke (loftBase 0 + 0x800) (List.replicate 64 1) (withRun ⟨0, 0, [], [], 0, 0⟩ (thr 2 (mmaDesc [])))
    (after (.fillResultWrite 0) (after (.fill 0 .clean false []) b)).til.tiles.map (fun x => x.2.acc) =
      [[0, 1, 2, 32, 33, 34].map fun e => (1024 + e, 0x42000000)] := by decide +kernel
theorem test_witness_fill_result : let b := withRun ⟨0, 1, [], [⟨0, [(0, 0x42000000)]⟩], 0, 0⟩ (thr 2 (mmaDesc []))
    ((tileOf b 0).ops.find? fun p => p.k = 0) = some (started 2 (mmaDesc [])) := by decide
theorem test_witness_thr_ctrl_under : (tileOf on 0).resOver = false ∧ fld (setReg 64 Off.thrCtrl 0x200 on) 64 Fld.thrCtrlResLimit = 2 ∧
    reg on 64 Off.thrResTotal < 2 := by decide
theorem test_thr_ctrl_over : let b := setReg 64 Off.thrResTotal 3 on
    ownOf (after (.thrCtrlWrite 0 0x200) b) 64 = hDegraded ∧ flag (after (.thrCtrlWrite 0 0x200) b) 64 Fld.thrStatusResLimit = true := by decide

/-! ### The tile sequencer -/

def nopOp (k : Nat) (flags : List (Nat × Nat)) (p : OpPhase) : Op := ⟨k, desc flags, 0, false, p, 0⟩
/-- A program of one descriptor at granary offset 0x1000, on tile 0. -/
def prog (d : List Byte) (b : Block) : Block := poke 0x1000 d (setReg 64 Off.tilProgLo 0x1000 (setFld 64 Fld.tilProgLenLen 1 b))

theorem test_witness_tile_start : (tileOf (bound on) 0).stream = .idle ∧ flag (bound on) 64 Fld.tilIdentBound = true ∧
    (tileOf (after (.tilStart 0) (bound on)) 0).stream = .running := by decide
theorem test_tile_stop : (tileOf (after (.tilStop 0) (tile .running [nopOp 0 [] .waiting])) 0).stream = .stopping ∧
    (tileOf (after (.tilStop 0) (tile .running [nopOp 0 [] .waiting])) 0).ops = [] := by decide
theorem test_tile_clear : (tileOf (after (.tilClear 0) (tile .faulted [])) 0).stream = .idle ∧
    (tileOf (after (.tilClear 0) (tile .ended [])) 0).stream = .idle := by decide
theorem test_tile_reject : flag (after (.tclear 0) (tile .running [])) 64 Fld.tilStatusCtrlReject = true := by decide
theorem test_ident_write : reg (after (.tilIdentWrite 0 0xFFFFFFFF) on) 64 Off.tilIdent = 0xFFFF0107 := by decide
theorem test_witness_issue : let b := prog (desc [(8, 4)]) (tile .running [])
    lendHolds b 0 = false ∧ mayIssue (tileOf b 0) = true ∧ (nextDesc b 0).isSome = true ∧
    (readLines (linesOf (progBase b 0) 64) b).1 = true := by decide
theorem test_issue : let b := after (.descriptorIssue 0 []) (prog (desc [(8, 4)]) (tile .running []))
    (tileOf b 0).ops = [⟨0, desc [(8, 4)], 0, false, .waiting, 0⟩] ∧ (tileOf b 0).pc = 1 := by decide +kernel
theorem test_issue_beyond : (tileOf (after (.descriptorIssue 0 []) (tile .running [])) 0).stream = .faulted := by decide
/-- A wait of 2 on token 7, whose count is 3. -/
def waiting : Op := nopOp 0 [(1, 2), (2, 7), (3, 2)] .waiting
def tok (n : Nat) (b : Block) : Block := modTile 0 (fun x => { x with tokens := [(7, n)] }) b
theorem test_witness_start : let b := tok 3 (tile .running [waiting])
    queueHead (tileOf b 0) 0 = some waiting ∧ headerBad b 0 waiting.desc = false ∧ opDefined waiting.desc = true ∧
    unitAccepts (tileOf b 0) waiting = true ∧ needsOrder waiting.desc = false ∧ waitReady (tileOf b 0) waiting = true := by decide
theorem test_start_takes_tokens : (tileOf (after (.operationStart 0 0) (tok 3 (tile .running [waiting]))) 0).tokens.get 0 7 = 1 := by decide
def signalling (p : OpPhase) : Op := nopOp 0 [(1, 4), (4, 7)] p
theorem test_witness_complete : let b := tok 3 (tile .running [signalling (.finished .ok)])
    nextToSignal (tileOf b 0) 0 = some (signalling (.finished .ok)) ∧ (tileOf b 0).lockstep = false ∧ dSignal (signalling .waiting).desc = true ∧
    dRemote (signalling .waiting).desc = false := by decide
theorem test_complete_signals : (tileOf (after (.operationComplete 0 0) (tok 3 (tile .running [signalling (.finished .ok)]))) 0).tokens.get 0 7 = 4 := by
  decide
theorem test_token_overflow : (tileOf (after (.operationComplete 0 0) (tok 65535 (tile .running [signalling (.finished .ok)]))) 0).stream = .faulted := by
  decide
theorem test_fault_cancels : let b := after (.operationComplete 0 0) (tile .running [nopOp 0 [] (.finished .opFailed), nopOp 1 [] .waiting])
    (tileOf b 0).stream = .faulted ∧ (tileOf b 0).ops = [] ∧ reg b 64 Off.tilFault = 4 * 2 ^ 29 := by decide
theorem test_witness_fence_complete : let b := tile .running [nopOp 0 [(8, 3)] (.finished .ok)]
    (nextToSignal (tileOf b 0) 0).isSome = true ∧ isCop (desc [(8, 3)]) 3 = true := by decide
theorem test_witness_version_fault : let b := setFld uCtx Fld.ctxJobCtrlTrain 1 (bound (tile .running [nopOp 0 [] (.finished .versionFault)]))
    tileJob b 0 = some 0 ∧ slotTrains (completeOp 0 (nopOp 0 [] (.finished .versionFault)) .versionFault b) 0 = true := by decide
theorem test_control_nop : (tileOf (after (.nop (.tile 0)) (tile .running [nopOp 0 [] .waiting])) 0).ops = [] := by decide
theorem test_control_fence : (tileOf (after (.fence 0) (tile .running [nopOp 0 [(8, 3)] .waiting])) 0).ops = [] := by decide
theorem test_control_signal : (tileOf (after (.signal 0) (tile .running [nopOp 0 [(1, 4), (4, 7), (8, 4)] .waiting])) 0).tokens = [(7, 1)] := by decide
theorem test_control_end : (tileOf (after (.endOp 0 ⟨[], []⟩) (tile .running [nopOp 0 [(8, 1)] .waiting])) 0).stream = .ended := by decide
/-- A loop of one descriptor, twice. -/
def loopDesc (l : List (Nat × Nat)) : List Byte := desc (l ++ [(8, 2), (9, 1), (12, 2)])
theorem test_loop : (tileOf (after (.loop 0) (prog (loopDesc []) (tile .running []))) 0).loops = [⟨1, 1, 2, 0, []⟩] := by decide
theorem test_loop_bad : (tileOf (after (.loop 0) (prog (loopDesc [(11, 1)]) (tile .running []))) 0).stream = .faulted := by decide
theorem test_witness_op_fault : (tileOf (tile .faulted []) 0).faultTold = false ∧
    (tileOf (after (.tilOpFault 0) (tile .faulted [])) 0).faultTold = true := by decide
theorem test_stop_drained : (tileOf (after (.streamStopDrained 0) (tile .stopping [])) 0).stream = .idle := by decide
theorem test_lockstep : ownOf (after (.tilLockstep 0) on) 64 = hFailed ∧ tileJob (tileLockstep 0 on) 0 = none ∧
    (on.ctx.batches.find? fun x => x.tiles.contains 0) = none ∧ suspendedJob (tileLockstep 0 on) 0 = none := by decide
theorem test_witness_lockstep_training : let b := tileLockstep 0 (setFld uCtx Fld.ctxJobCtrlTrain 1 (bound on))
    tileJob b 0 = some 0 ∧ slotTrains b 0 = true := by decide
def signalled (j : Nat) (b : Block) : Block := { b with til := { b.til with signals := [(0, ⟨7, j, 65⟩)] } }
theorem test_signal_arrives : let b := after (.remoteSignalArrive 0) (signalled 0 (bound on))
    (tileOf b 0).tokens = [(7, 1)] ∧ b.til.signals = [] := by decide
theorem test_signal_rejected : flag (after (.remoteSignalArrive 0) (signalled 1 (bound on))) 64 Fld.tilStatusSigReject = true := by decide
theorem test_witness_signal_held : let b := setLend 0 ⟨.lent, 0, 1, 1, 0, 0, 0, false, false⟩ (signalled 0 (bound on))
    suspendedJob b 0 = some 0 ∧ (tileOf b 0).held.length < 64 := by decide

/-! ### The vector unit -/

/-- FP32 rows of two elements: A at loft offset 0, B at 0x100, D at 0x200. -/
def vecDesc (vop : Nat) (l : List (Nat × Nat)) : List Byte :=
  desc (l ++ [(0, 2), (8, vop), (9, 0xBB), (10, 0xB), (17, 1), (21, 2), (24, 2), (28, 1)])
def vec (vop : Nat) (l : List (Nat × Nat)) : Block :=
  poke (loftBase 0) (leBytes 4 0x3F800000 ++ leBytes 4 0x40400000) (poke (loftBase 0 + 0x100) (leBytes 4 0x40000000 ++ leBytes 4 0xC0A00000)
    (bound (tile .running [started 3 (vecDesc vop l)])))
def vecOut (i : Instr) (vop : Nat) (l : List (Nat × Nat)) (n : Nat) : Nat := numAt (after i (vec vop l)) (loftBase 0 + 0x200 + 4 * n) 4
def vecGood (vop : Nat) (l : List (Nat × Nat)) : Prop :=
  Started (vec vop l) 0 0 2 vop (started 3 (vecDesc vop l)) ∧ vecBad (vec vop l) 0 (vecDesc vop l) = false ∧
  (vecReadEntries (vec vop l) 0 (vecDesc vop l)).1 = true ∧ (vecReads 0 (vecDesc vop l) (vec vop l)).1.isSome = true

theorem test_witness_vec_add : vecGood 0x01 [] ∧ (dRegion (vecDesc 0x01 [])).isSome = true := by unfold vecGood Started; decide
/-- WIDEN of two INT8 codes. -/
theorem test_witness_vec_widen : vecGood 0x32 [(9, 0xB0)] := by unfold vecGood Started; decide
/-- WINNOW with no fold. -/
theorem test_witness_vec_winnow : vecGood 0x31 [(44, 255), (45, 255), (46, 255), (47, 255)] ∧ dRegion (vecDesc 0x31 []) = none := by unfold vecGood Started; decide
theorem test_witness_vec_bad : vecBad (vec 0x01 [(43, 1)]) 0 (vecDesc 0x01 [(43, 1)]) = true := by decide
def convDesc : List Byte := vecDesc 0x30 [(10, 0x1)]
def conv : Block := scaled (bound (tile .running [started 3 convDesc]))
theorem test_witness_vec_conv : Started conv 0 0 2 0x30 (started 3 convDesc) ∧ vecBad conv 0 convDesc = false ∧
    bitsOf (entryWord conv 0 (vScidx convDesc)) 19 16 = vTypeD convDesc ∧ (vecReadEntries conv 0 convDesc).1 = true ∧
    (vecReads 0 convDesc conv).1.isSome = true := by unfold Started; decide
/-- 1 + 2 = 3 and 3 - 5 = -2. -/
theorem test_vec_add : vecOut (.vecAdd 0 0 none []) 0x01 [] 0 = 0x40400000 ∧ vecOut (.vecAdd 0 0 none []) 0x01 [] 1 = 0xC0000000 := by decide +kernel
theorem test_vec_sub : vecOut (.vecSub 0 0 none []) 0x02 [] 1 = 0x41000000 := by decide +kernel
theorem test_vec_mul : vecOut (.vecMul 0 0 none []) 0x03 [] 1 = 0xC1700000 := by decide +kernel
theorem test_vec_max : vecOut (.vecMax 0 0 none []) 0x05 [] 0 = 0x40000000 := by decide +kernel
theorem test_vec_cmpgt : vecOut (.vecCmpgt 0 0 none []) 0x09 [] 1 = 0x3F800000 := by decide +kernel
theorem test_vec_sqrt : vecOut (.vecSqrt 0 0 none []) 0x16 [] 0 = 0x3F800000 := by decide +kernel
theorem test_vec_recip : vecElem 0x14 0 0x40000000 0 0 = 0x3F000000 := by decide +kernel
theorem test_vec_rmax : vecOut (.vecRmax 0 0 none []) 0x22 [] 0 = 0x40400000 := by decide +kernel
theorem test_element_nan : vecElem 0x07 0 0xFFC00001 0 0 = nan32 := by decide
theorem test_element_compare : vecElem 0x09 0 0x40000000 0x3F800000 0 = one32 ∧ vecElem 0x0A 0 0x80000000 0 0 = one32 := by decide

/-! ### The DMA engines and the loft shares -/

/-- COPY of two rows of 64 bytes from granary offset 0x1000 to loft offset 0. -/
def dmaDesc (dop : Nat) (l : List (Nat × Nat)) : List Byte :=
  desc (l ++ [(0, 3), (8, dop), (9, 0xFF), (12, 64), (17, 0x10), (29, 0x10), (32, 64), (36, 64), (40, 2)])
def dma (dop : Nat) (l : List (Nat × Nat)) : Block := bound (poke 0x1000 [7] (tile .running [started 4 (dmaDesc dop l)]))
theorem test_witness_dma : Started (dma 0 []) 0 0 3 0 (started 4 (dmaDesc 0 [])) ∧ (dma 0 []).ctx.dmaRow.find 0 = none ∧
    dmaFieldsBad (dmaDesc 0 []) = false ∧ dmaSharesBad (dma 0 []) 0 0 (dmaDesc 0 []) = false ∧
    (moveRows 0 0 (started 4 (dmaDesc 0 [])) [] 2 0 (dma 0 [])).1 = .moved := by unfold Started; decide
theorem test_dma_copy : byteAt (after (.dmaCopy 0 0 [] []) (dma 0 [])) (loftBase 0) = 7 := by decide
theorem test_witness_dma_bad : dmaFieldsBad (dmaDesc 0 [(11, 1)]) = true := by decide
theorem test_share_good : shareBad on 0 3 0x80000400 = false ∧ reg (after (.lftShareWrite 0 3 0x80000400) on) 64 (Off.lftShare 3) = 0x80000400 := by decide
/-- Two shares of the same quarter-mebibytes. -/
theorem test_share_bad : shareBad (bound on) 0 3 0xC0000400 = true ∧
    flag (after (.lftShareWrite 0 3 0xC0000400) (bound on)) 64 Fld.lftStatusShareReject = true := by decide

/-! ### The granary -/

theorem test_witness_granary : granaryAllows on (accessIssuer on 64 none) 0x100 8 false = true ∧ granaryAllows on (accessIssuer on 64 none) 0x100 8 true = true ∧
    ∀ l ∈ linesOf 0x100 8, (servedAt on (64 * l)).isSome = true ∧ markOf on l = none := by decide
theorem test_witness_granary_refused : granaryAllows on (accessIssuer on 64 none) (2 ^ 42) 8 false = false ∧
    granaryAllows on (accessIssuer on 64 none) (2 ^ 42) 8 true = false := by decide
theorem test_granary_write_read : (after (.granaryRead 64 none 0x100 2 []) (after (.granaryWrite 64 none 0x100 [0x34, 0x12] none []) on)).face.replies =
    [⟨.ok, 0⟩, ⟨.ok, 0x1234⟩] := by decide
theorem test_witness_atomic : atomicSize 0x01 = some 4 ∧ (accessIssuer on 64 none).train = false ∧ granaryAllows on (accessIssuer on 64 none) 0x100 4 true = true ∧
    (servedAt on 0x100).isSome = true ∧ markOf on 4 = none := by decide
/-- Each atomic of Table 6.4 on the old value 5 and the operand 3; CAS with the comparand 5. -/
theorem test_atomic_results : [0x01, 0x02, 0x05, 0x06, 0x07, 0x08, 0x09, 0x0A, 0x0B, 0x0C].map (fun c => atomicResult c 5 3 0) =
    [8, 8, 5, 3, 5, 3, 5, 3, 5, 3] ∧ atomicResult 0x0F 5 3 5 = 3 ∧ atomicResult 0x0F 5 3 4 = 5 := by decide
/-- The least 32-bit integer is below 1 signed, above it unsigned. -/
theorem test_atomic_signs : atomicResult 0x05 0x80000000 1 0 = 1 ∧ atomicResult 0x07 0x80000000 1 0 = 0x80000000 := by decide
theorem test_atomic_add_wraps : (after (.addI32 64 none 0x100 1 []) (poke 0x100 [0xFF, 0xFF, 0xFF, 0xFF, 9] on)).grn.mem = [(0x104, 9)] := by decide
theorem test_atomic_misaligned : (after (.addI64 64 none 0x104 1 []) on).face.replies = [⟨.badArgument, 0⟩] := by decide
theorem test_witness_atomic_training : (accessIssuer (setFld uCtx Fld.ctxJobCtrlTrain 1 on) 64 (some 0)).train = true := by decide
theorem test_one_home : homeOf on 0x1234567 = placeOf false 0x1234567 ∧ addrHomed on (homeOf on 0x1234567).ch (homeOf on 0x1234567).p = 0x1234567 := by decide
theorem test_witness_channel : channelWorks on 0 = true ∧ on.grn.selfRef = false ∧ markOf on (addrServed on 0 0 / 64) = none := by decide
def atEnd : Block := { on with grn := { on.grn with scrubPos := [(0, 2 ^ 27 - 1)] } }
theorem test_witness_scrub_end : atEnd.grn.scrubPos.get 0 0 + 1 = 2 ^ 27 ∧ channelWorks atEnd 0 = true := by decide
theorem test_refresh : (after (.refresh 0 3 true) on).grn.refPost = [(3, 1)] ∧
    (after (.refresh 0 3 false) (after (.refresh 0 3 true) on)).grn.refDone = [(3, 2)] := by decide
theorem test_witness_calibration : 0 < ({ on with grn := { on.grn with calRun := [(1, 1)] } } : Block).grn.calRun.get 0 1 := by decide
theorem test_witness_centring : tempGap 5 0 ≤ 5 ∧ 5 < tempGap 6 0 ∧ tempGap 250 0 = 6 := by decide
theorem groupHolds_on (g : Nat) : groupHolds on g = false := by
  have h (f : Nat) : frameEntry on f = 0 := by simp only [frameEntry]; rw [if_pos (by decide)]
  simp [groupHolds, frameHolds, pageAllocated, h, bitOf]
theorem test_witness_local_write : ∀ g < 32, bitOf (reg on uChip Off.grnLocalLo) g ≠ bitOf (3 : Word).toNat g → groupHolds on g = false :=
  fun g _ _ => groupHolds_on g
/-- A frame table whose entry 0 says a page of group 0 is allocated. -/
def allocated : Block := poke 0x10000 (leBytes 8 (2 ^ 35 + 2 ^ 36)) (setReg uCtx Off.ctxFrameLo 0x10000 on)
theorem test_witness_local_rejected : groupHolds allocated 0 = true ∧ bitOf (reg allocated uChip Off.grnLocalLo) 0 ≠ bitOf (1 : Word).toNat 0 :=
  ⟨List.any_eq_true.mpr ⟨0, List.mem_map.mpr ⟨0, List.mem_range.mpr (by decide), rfl⟩, by decide⟩, by decide⟩
theorem test_witness_repair_ask : bitOf (0x8004_0005 : Word).toNat 31 = true ∧ on.grn.repairReq = [] := by decide
def asked : Block := { on with grn := { on.grn with repairReq := [(0, 1, 5)] } }
theorem test_witness_repair : (asked.grn.repairReq.find? fun q => q.1 = 0) = some (0, 1, 5) ∧ channelWorks asked 0 = true ∧ asked.grn.spare.find 2 = none := by
  decide
theorem test_witness_repair_refused : let b : Block := { asked with grn := { asked.grn with spare := [(2, 7), (3, 8)] } }
    b.grn.spare.find 2 ≠ none ∧ b.grn.spare.find 3 ≠ none ∧ channelWorks b 0 = true := by decide
theorem test_witness_channel_retired : retirementOf on 5 = none ∧ on.grn.retired.length < 8 := by decide
/-- A harvest area at 0x2000 with one entry: 32 bytes from 0x8000 to loft offset 0. -/
def hrv (b : Block) : Block := setReg (hrvUnit 0) (Off.grnHrvBaseLo 0) 0x2000 (poke 0x2000 [1] (poke 0x2080 (leBytes 8 0x8000 ++ leBytes 4 32) b))
theorem test_witness_harvest_run : (harvestOf (hrv on) 0 0).phase = .idle ∧ hrvBase (hrv on) 0 0 = 0x2000 ∧
    (granaryRead (hrvIssuer (hrv on) 0 0) 0x2000 128 (hrv on)).1 = .ok ∧
    leAt (granaryRead (hrvIssuer (hrv on) 0 0) 0x2000 128 (hrv on)).2.1 0 4 = 1 := by decide
def hrvOn : Block := setHarvest 0 0 ⟨.running, 1, [0x80], 0, [], false⟩ (bound (hrv on))
theorem test_witness_harvest_entry : let r := granaryRead (hrvIssuer hrvOn 0 0) 0x2080 32 hrvOn
    r.1 = .ok ∧ hrvEntryBad r.2.2 0 (harvestOf hrvOn 0 0) r.2.1 = false ∧ (r.2.1.getD 18 0).toNat = 0 ∧
    fld hrvOn (hrvUnit 0) Fld.grnHrvCtrlDepth 0 = 8 := by decide
theorem test_harvest_stop : (harvestOf (after (.hrvStop 0 0) hrvOn) 0 0).phase = .idle := by decide
def hrvLanding : Block := setHarvest 0 0 ⟨.running, 2, [], 1, [⟨0, 0x8000, 32, 0, 0, true, 7, none⟩], false⟩ (bound (hrv on))
theorem test_witness_harvest_land : (devRead (hrvIssuer hrvLanding 0 0) [] 0x8000 32 hrvLanding).1 = .ok ∧ absorbing hrvLanding (uTile 0) = false ∧
    tileAway hrvLanding 0 0 = false ∧ (loftWrite 0 0 (List.replicate 32 1) hrvLanding).1 = true := by decide
theorem test_harvest_land_signals : (after (.hrvEntryLand 0 0 0 [] []) hrvLanding).til.signals = [(0, ⟨7, 0, hrvUnit 0⟩)] := by decide

/-! ### The gleaners -/

/-- A row-stream instruction: opcode 0x0B. -/
def rs (f7 f3 rd rs1 rs2 : Nat) : Nat := f7 * 2 ^ 25 + rs2 * 2 ^ 20 + rs1 * 2 ^ 15 + f3 * 2 ^ 12 + rd * 2 ^ 7 + 0x0B

/-- Gleaner 0 running at offset 0 of its region with one instruction there, x1 and x2 set, stream 0 one position long, its scratch, and a scale table. -/
def glRun (w x1 x2 : Nat) (csr : SMap Word) (scratch : List Host.Cell) : Block :=
  setGl 0 { Gleaner.init with
    run := .running, imem := [(0, leBytes 4 w)], core := ⟨[(1, BitVec.ofNat 32 x1), (2, BitVec.ofNat 32 x2)], [], 0, 0, none⟩
    csr := csr, opened := 1, visits := [0], scratch := scratch } (scaled on)
/-- Gleaner 0 after a command. -/
def gl (i : Instr) (b : Block) : Gleaner := glOf (after i b) 0
def glReady (w : Nat) (b : Block) (k : GKind) : Prop :=
  (glOf b 0).run = .running ∧ fetch (glOf b 0) = .inr (some w, 4) ∧ kindOfInstr w = k

theorem test_launch_conditions : let b := setReg (uStack 0) (Off.grnGlEntry) 0x100 (setReg (uStack 0) (Off.grnGlMask 0) 5 on)
    maskBits b 0 = [0, 2] ∧ regionOpen b 0 0x100 0 = true ∧ (glOf b 2).run = .idle := by decide
theorem test_witness_launch_works : ∀ k < 128, glWorks (setReg (uStack 0) (Off.grnGlMask 0) 5 on) (128 * 0 + k) = true := by decide
theorem test_witness_launch_busy : let b := setReg (uStack 0) (Off.grnGlMask 0) 1 (glRun 0 0 0 [] [])
    maskBits b 0 = [0] ∧ glWorks b 0 = true ∧ (glOf b 0).run ≠ .idle := by decide
theorem test_abort : (gl (.abort 0) (glRun 0 0 0 [] [])).run = .idle := by decide
/-- A stack with a grant free and gleaner 0 ready. -/
def readyGl : Block := setFld (uStack 0) Fld.grnGrStateTlycap 32 (setFld (uStack 0) Fld.grnGrCtrlCap 32 (setGl 0 { Gleaner.init with run := .ready } on))
theorem test_witness_grant : (grantsOf readyGl 0).isOver = false ∧ (grantsOf readyGl 0).order.length < grantCap readyGl 0 ∧ nextToGrant readyGl 0 = some 0 := by decide
theorem test_grant : (gl (.grantIssue 0) readyGl).run = .running := by decide
def quantumOver : Block := setGl 1 { Gleaner.init with run := .ready } (setGl 0 { Gleaner.init with run := .running, grantAt := some 0 }
  { on with face := { on.face with time := 10000 } })
theorem test_witness_quantum : (glOf quantumOver 0).grantAt = some 0 ∧
    max 1 (fld quantumOver (uStack 0) Fld.grnGrCtrlQuantum) * 10 ≤ quantumOver.face.time ∧ nextToGrant quantumOver 0 = some 1 := by decide
theorem test_witness_tlycap : (grantsOf on 0).order.length ≤ min 32 5 ∧ (grantsOf (setGrants 0 ⟨[4, 7], 7, false⟩ on) 0).order = [4] ++ [7] := by decide
theorem test_witness_grant_over : fld on (uStack 0) Fld.grnGrStateTlycap < 255 ∧
    (grantsOf (setGrants 0 ⟨[], 0, true⟩ readyGl) 0).isOver = true ∧ nextToGrant (setGrants 0 ⟨[], 0, true⟩ readyGl) 0 ≠ none := by decide

/-- rs.open of mask 1 in x1. -/
theorem test_witness_rs_open : glReady (rs 0 0 3 1 0) (glRun (rs 0 0 3 1 0) 1 0 [(0x7C8, 1)] []) .rsOpen ∧
    openBad on (glOf (glRun 0 1 0 [(0x7C8, 1)] []) 0) 1 = false := by unfold glReady; decide
/-- The granule at offset 0 lies in gleaner 0's own banks. -/
theorem test_rs_open : (gl (.rsOpen 0) (glRun (rs 0 0 3 1 0) 1 0 [(0x7C8, 1)] [])).core.getX 3 = 1 := by decide
theorem test_witness_rs_next : glReady (rs 1 0 3 0 0) (glRun (rs 1 0 3 0 0) 0 0 [] []) .rsNext := by unfold glReady; decide
theorem test_rs_next : (gl (.rsNext 0) (glRun (rs 1 0 3 0 0) 0 0 [] [])).visits = [] ∧ (gl (.rsNext 0) (glRun (rs 1 0 3 0 0) 0 0 [] [])).core.pc = 4 := by decide
theorem test_witness_rs_get : glReady (rs 0 1 0 1 2) (glRun (rs 0 1 0 1 2) 0 1 [] []) .rsGet ∧ (rsGet 0 0 1 (glRun (rs 0 1 0 1 2) 0 1 [] [])).1 = .ok := by
  unfold glReady; decide
/-- The granule's first byte goes to buffer 1. -/
theorem test_rs_get : cellsGet (gl (.rsGet 0 []) (poke 0 [9] (glRun (rs 0 1 0 1 2) 0 1 [] []))).scratch 512 = 9 := by decide +kernel
theorem test_witness_rs_put : glReady (rs 1 1 0 1 2) (glRun (rs 1 1 0 1 2) 0 1 [] []) .rsPut ∧ (rsPut 0 0 1 (glRun (rs 1 1 0 1 2) 0 1 [] [])).1 = .ok := by
  unfold glReady; decide
/-- A put is held: the granary is unchanged until the commit. -/
theorem test_rs_put_held : byteAt (after (.rsPut 0 []) (glRun (rs 1 1 0 1 2) 0 1 [] [(512, 8)])) 0 = 0 ∧
    ((gl (.rsPut 0 []) (glRun (rs 1 1 0 1 2) 0 1 [] [(512, 8)])).seg.map fun sg => sg.puts.length) = some 1 := by decide
theorem test_rs_put_commit : byteAt (after (.segmentForcedCommit 0) (let b := after (.rsPut 0 []) (glRun (rs 1 1 0 1 2) 0 1 [] [(512, 8)])
    { b with face := { b.face with time := 1 } })) 0 = 8 := by decide +kernel
/-- Stream 1 is not open. -/
theorem test_witness_rs_get_fails : glReady (rs 0 1 0 1 2) (glRun (rs 0 1 0 1 2) 1 0 [] []) .rsGet ∧
    (rsGet 0 1 0 (glRun (rs 0 1 0 1 2) 1 0 [] [])).1 = .badArgument ∧ (rsPut 0 1 0 (glRun (rs 0 1 0 1 2) 1 0 [] [])).1 = .badArgument := by
  unfold glReady; decide
theorem test_witness_rs_fget : glReady (rs 2 1 0 1 2) (glRun (rs 2 1 0 1 2) 0x200 1 [] []) .rsFget ∧
    farAddr (glOf (glRun 0 0x200 1 [] []) 0) 0x200 = 0x200 ∧ (rsFget 0 0x200 1 [] (glRun 0 0x200 1 [] [])).1 = .ok := by unfold glReady; decide
theorem test_witness_rs_fput : glReady (rs 3 1 0 1 2) (glRun (rs 3 1 0 1 2) 0x200 1 [] []) .rsFput ∧ (rsFput 0 0x200 1 [] (glRun 0 0x200 1 [] [])).1 = .ok := by
  unfold glReady; decide +kernel
theorem test_witness_rs_amo : glReady (rs 1 2 0 1 2) (glRun (rs 1 2 0 1 2) 0x200 1 [] []) .rsAmo ∧ (rsAmo 0 1 0x200 64 [] (glRun 0 0x200 1 [] [])).1 = .ok := by
  unfold glReady; decide
/-- ADD_I32 of 5 onto 2: the granary holds 7 and the operand's place the old value. -/
theorem test_rs_amo : let c := after (.rsAmo 0 [] []) (poke 0x200 [2] (glRun (rs 1 2 0 1 2) 0x200 64 [] [(64, 5)]))
    byteAt c 0x200 = 7 ∧ cellsGet (glOf c 0).scratch 64 = 2 := by decide
theorem test_witness_rs_end : glReady (rs 0 3 0 0 0) (glRun (rs 0 3 0 0 0) 0 0 [] []) .rsEnd := by unfold glReady; decide
theorem test_witness_rs_exit : glReady (rs 0 7 0 0 0) (glRun (rs 0 7 0 0 0) 0 0 [] []) .rsExit ∧
    (mergePending 0 0 (commit 0 false (glRun (rs 0 7 0 0 0) 0 0 [] []))).1 = .ok := by unfold glReady; decide
theorem test_rs_exit : (gl (.rsExit 0 []) (glRun (rs 0 7 0 0 0) 0 0 [] [])).run = .idle ∧ byteAt (after (.rsExit 0 []) (glRun (rs 0 7 0 0 0) 0 0 [] [])) 0 = 1 := by
  decide

/-- csrrw x3, RS_SEEDX, x1. -/
def csrw (n : Nat) : Nat := n * 2 ^ 20 + 1 * 2 ^ 15 + 1 * 2 ^ 12 + 3 * 2 ^ 7 + 0x73
theorem test_witness_csr : glReady (csrw 0x7D3) (glRun (csrw 0x7D3) 6 0 [] []) .csr ∧ csrMask (csrw 0x7D3 / 2 ^ 20) = some 0xFFFF_FFFF ∧
    csrAccess (glOf (glRun (csrw 0x7D3) 6 0 [] []) 0) (csrw 0x7D3) 0 = some 6 := by unfold glReady; decide
theorem test_csr : glCsr (gl (.glnCsrWrite 0) (glRun (csrw 0x7D3) 6 0 [] [])) 0x7D3 = 6 ∧ glCsr (gl (.glnCsrWrite 0) (glRun (csrw 0x7C0) 0x3FF 0 [] [])) 0x7C0 = 0x200 := by
  decide
theorem test_witness_conv2 : glReady (csrw 0x7D2) (glRun (csrw 0x7D2) 6 0 [] []) .conv2 ∧
    csrAccess (glOf (glRun (csrw 0x7D2) 6 0 [] []) 0) (csrw 0x7D2) 0 = some 6 ∧ maskedWrite 0 6 0x7FFF_FFFF % 2 ^ 16 ≠ 0 ∧
    (mergePending 0 0 (glRun (csrw 0x7D2) 6 0 [] [])).1 = .ok := by unfold glReady; decide
/-- addi x3, x1, 7 is 0x00708193. -/
theorem test_witness_ordinary : glReady 0x0070_8193 (glRun 0x0070_8193 5 0 [] []) .ordinary ∧ iOp 0x0070_8193 ≠ 0x73 := by unfold glReady; decide
theorem test_addi : (gl (.rv32imafcInstruction 0) (glRun 0x0070_8193 5 0 [] [])).core.getX 3 = 12 := by decide
/-- mul x3, x1, x2 is 0x022081B3. -/
theorem test_mul : (gl (.rv32imafcInstruction 0) (glRun 0x0220_81B3 6 7 [] [])).core.getX 3 = 42 := by decide
/-- ECALL ends the run; the second count of the done block rises. -/
theorem test_illegal : kindOfInstr 0x73 = .illegal ∧ (gl (.glnIllegalInstruction 0) (glRun 0x73 0 0 [] [])).run = .idle ∧
    byteAt (after (.glnIllegalInstruction 0) (glRun 0x73 0 0 [] [])) 8 = 1 := by decide
/-- EBREAK as an ordinary instruction does not occur; a misaligned load does: lw x3, 1(x0) is 0x00102183. -/
theorem test_witness_misaligned : kindOfInstr 0x0010_2183 = .ordinary ∧ rvExec (glOf (glRun 0x0010_2183 0 0 [] []) 0).core [] 0x0010_2183 4 = .stop .badArgument := by
  decide
theorem test_witness_forced : ∃ sg, (glOf (setGl 0 { Gleaner.init with seg := some ⟨[(0, 0)], 1, []⟩ } { on with face := { on.face with time := 1 } }) 0).seg = some sg ∧
    (0, 0) ∈ sg.banks := ⟨_, rfl, by decide⟩
/-- Gleaner 0 holds bank 0 with a put of 7 at 0x100 in its open segment. -/
def heldBank : Block := setGl 0 { Gleaner.init with seg := some ⟨[(0, 0)], 0, [(0x100, [7], 3)]⟩ } on
theorem test_witness_segment_held : granaryAllows heldBank (accessIssuer heldBank 64 none) 0x100 4 false = true ∧
    servedAt heldBank (64 * (0x100 / 64)) = some (homeOf heldBank 0x100) ∧ bankGleaner (homeOf heldBank 0x100).ch (homeOf heldBank 0x100).bank = 0 ∧
    bankHeld heldBank 0 (homeOf heldBank 0x100).bank = true := by decide
/-- A read in the held bank waits for the commit and sees its put (Table 7.5). -/
theorem test_segment_read : (after (.granaryRead 64 none 0x100 4 []) heldBank).face.replies = [⟨.ok, 7⟩] ∧
    (glOf (after (.granaryRead 64 none 0x100 4 []) heldBank) 0).seg = none := by decide
/-- A write there comes after the put. -/
theorem test_segment_write : byteAt (after (.granaryWrite 64 none 0x100 [9] none []) heldBank) 0x100 = 9 ∧
    reg (after (.granaryWrite 64 none 0x100 [9] none []) heldBank) (uGleaner 0) Off.glnSegsLo = 1 := by decide
/-- An atomic there adds to the committed value. -/
theorem test_segment_atomic : byteAt (after (.addI32 64 none 0x100 1 []) heldBank) 0x100 = 8 := by decide
/-- A refresh of the held bank is postponed and runs at the commit (Table 7.5). -/
theorem test_segment_refresh : (after (.refresh 0 0 false) heldBank).grn.refPost = [(0, 1)] ∧
    (after (.granaryRead 64 none 0x100 4 []) (after (.refresh 0 0 false) heldBank)).grn.refDone = [(0, 1)] := by decide
theorem test_witness_lockstep : (glOf on 0).run = .idle ∧ (glOf (glRun 0 0 0 [] []) 0).run ≠ .idle ∧ (glOf (glRun 0 0 0 [] []) 0).launch.train = false := by decide

/-- A granule operation with buffer D in x3, A in x1, B in x2. -/
def gopW (f7 : Nat) : Nat := rs f7 4 3 1 2
theorem test_witness_gop : ∀ f ∈ [0x00, 0x01, 0x02, 0x03, 0x04, 0x05, 0x06, 0x07, 0x08, 0x09, 0x0A, 0x12, 0x13, 0x14],
    glReady (gopW f) (glRun (gopW f) 1 2 [] []) (.gop f) := by unfold glReady; decide
/-- 1.0 in element 0 of buffer 1 and 2.0 in that of buffer 2. -/
def twoBufs : List Host.Cell := [(514, 0x80), (515, 0x3F), (1027, 0x40)]
theorem test_gop_add : cellsNat (gl (.gopAdd 0) (glRun (gopW 0) 1 2 [] twoBufs)).scratch 0 4 = 0x40400000 := by decide +kernel
theorem test_axpy : cellsNat (gl (.axpy 0) (glRun (gopW 4) 1 2 [(0x7CD, 0x40000000)] twoBufs)).scratch 0 4 = 0x40800000 := by decide +kernel
theorem test_xsum : (gl (.xsum 0) (glRun (gopW 0x12) 1 2 [] twoBufs)).exact'.sum = 2 ^ 320 := by decide +kernel
theorem test_xsumsq : (gl (.xsumsq 0) (glRun (gopW 0x13) 2 2 [] twoBufs)).exact'.sum = 4 * 2 ^ 320 := by decide +kernel
theorem test_amax : glCsr (gl (.amax 0) (glRun (gopW 0x14) 2 2 [] twoBufs)) 0x7D7 = 0x40000000 := by decide +kernel
theorem test_witness_cvt : glReady (gopW 0x10) (glRun (gopW 0x10) 1 0 [(0x7D0, 1)] twoBufs) (.gop 0x10) ∧
    (cvt 0 0 1 0 (glRun (gopW 0x10) 1 0 [(0x7D0, 1)] twoBufs)).1 = .ok := by unfold glReady; decide +kernel
theorem test_witness_gop_widen : glReady (gopW 0x11) (glRun (gopW 0x11) 1 0 [(0x7D0, 1)] twoBufs) (.gop 0x11) ∧
    (gWiden 0 0 1 0 (glRun (gopW 0x11) 1 0 [(0x7D0, 1)] twoBufs)).1 = .ok := by unfold glReady; decide +kernel
theorem test_witness_crc : glReady (gopW 0x15) (glRun (gopW 0x15) 1 2 [] []) (.gop 0x15) := by unfold glReady; decide
theorem test_witness_xops : ∀ f ≤ 3, glReady (rs f 5 3 1 0) (glRun (rs f 5 3 1 0) 64 0 [] []) (.xop f) := by unfold glReady; decide
theorem test_xrnd : (gl (.xrnd 0) (modGl 0 (fun x => { x with exact' := ⟨3 * 2 ^ 320, false, false, false⟩ }) (glRun (rs 3 5 3 1 0) 0 0 [] []))).core.getX 3 =
    0x40400000 := by decide +kernel
/-- The check value of the CRC-64 with this polynomial, no reflection and zero start, over "123456789", is 6C40DF5F0B497347. -/
theorem test_crc64 : crc64 [0x31, 0x32, 0x33, 0x34, 0x35, 0x36, 0x37, 0x38, 0x39] = 0x6C40_DF5F_0B49_7347 := by decide +kernel
theorem test_exact_image : (exactImage ⟨-1, false, true, false⟩).length = 88 ∧ exactAddImage ⟨0, false, false, false⟩ (exactImage ⟨-1, false, true, false⟩) =
    ⟨-1, false, true, false⟩ := by decide +kernel

/-! ### The context store -/

/-- A frame table at 0x10000 and a queue table at 0x40000. -/
def ctxOn : Block := setReg uCtx Off.ctxQtblLo 0x40000 (setReg uCtx Off.ctxFrameLo 0x10000 on)
/-- Frame 1 is a context frame of job 0 with page 0 allocated. -/
def withFrame : Block := setReg uCtx (Off.ctxJobUsed 0) 1 (setReg uCtx (Off.ctxJobQuota 0) 4 (poke 0x10008 (leBytes 8 (1 + 2 ^ 35 + 2 ^ 37)) ctxOn))

theorem test_context_allocation : overQuota withFrame 0 = false ∧ (takePage 0 none withFrame).map (·.1) = some 33 ∧
    (after (.contextAllocation 0 none) withFrame).face.replies = [⟨.ok, 33⟩] ∧ jobUsed (after (.contextAllocation 0 none) withFrame) 0 = 2 := by decide +kernel
/-- The first search begins at list 0. -/
theorem test_tensor_allocation : (takeTensor 0 none withFrame).map (·.1) = some 0 ∧
    (after (.tensorAllocation 0 none) withFrame).face.replies = [⟨.ok, 0⟩] := by decide +kernel
theorem test_over_quota : overQuota ctxOn 0 = true ∧ (after (.contextAllocation 0 none) ctxOn).face.replies = [⟨.noResource, 0⟩] := by decide
theorem test_witness_no_frames : takeTensor 0 none on = none ∧ fld on uCtx Fld.ctxCtrlAllocWait ≠ 0 ∧
    fld (setFld uCtx Fld.ctxCtrlAllocWait 0 on) uCtx Fld.ctxCtrlAllocWait = 0 := by decide
theorem test_witness_alloc_wait : let b := { on with face := { on.face with time := 10 ^ 9 }, ctx := { on.ctx with allocWaits := [⟨0, true, none, 0, uStack 0, false⟩] } }
    1000 * fld b uCtx Fld.ctxCtrlAllocWait ≤ b.face.time ∧ b.ctx.parked = [] ∧ b.ctx.pageIns = [] := by decide
theorem test_witness_page_free : withFrame.ctx.allocWaits = [] ∧ withFrame.ctx.pageIns = [] ∧ bitOf (frameEntry withFrame 1) 36 = false ∧ bitOf (frameEntry withFrame 1) 37 = true ∧
    pageAllocated withFrame 32 = true ∧ withFrame.grn.retPages.contains 32 = false := by decide
theorem test_page_free : jobUsed (after (.pageFree 32) withFrame) 0 = 0 ∧ frameEntry (after (.pageFree 32) withFrame) 1 = 0 := by decide +kernel
theorem test_witness_tensor_free : bitOf (frameEntry (poke 0x10008 (leBytes 8 (2 ^ 32 - 1 + 2 ^ 35 + 2 ^ 36)) ctxOn) (32 / 32)) 36 = true := by decide
theorem test_invalidate : (after (.translationInvalidate 5 9) { on with ctx := { on.ctx with xlt := [(0, [⟨0, 5, 1, []⟩, ⟨0, 6, 1, [7]⟩])] } }).ctx.xlt = [(0, [⟨0, 6, 1, [7]⟩])] := by
  decide
theorem test_witness_pages_exclusive : (takePage 0 none withFrame).isSome = true ∧ jobUsed withFrame 0 < 2 ^ 32 - 1 := by
  decide +kernel

/-- Session 0 of job 0: enabled, with a page table of one entry at 0x30000, whose entry is given. -/
def session (e : Nat) : Block :=
  poke 0x30000 (leBytes 8 e) (poke 0x40000 (bytes 64 [(0, 9), (4, 1), (12, 4), (19, 2), (26, 3), (32, 1)]) withFrame)
theorem test_witness_page_in_exported : let r := useQueue 0 (session (2 ^ 63 + 2 ^ 62))
    r.1 = true ∧ qType r.2 0 = 1 ∧ qPtLen r.2 0 = 1 ∧ ptValid (ptGet r.2 0 0) = true ∧ ptLoc (ptGet r.2 0 0) = 2 := by decide +kernel
theorem test_page_in_asks : (after (.pageIn 0 0 .ok []) (session (2 ^ 63 + 2 ^ 62))).ctx.pageIns = [⟨0, 0, 0, 0, [], none⟩] := by decide +kernel
theorem test_witness_page_in_peer : let r := useQueue 0 (session (2 ^ 63 + 2 ^ 61 + 3 * 2 ^ 26))
    ptLoc (ptGet r.2 0 0) = 1 ∧ r.2.ctx.pageIns = [] ∧ (installPage 0 0 [1]
      (modCtx (fun x => { x with pageIns := [⟨0, 0, 0, 0, [(0, [1])], none⟩] }) (peerPage 0 3 0 false [] r.2))).1 = true := by decide +kernel
theorem test_witness_page_in_timeout : ({ on with ctx := { on.ctx with pageIns := [⟨0, 0, 0, 0, [], none⟩] } } : Block).ctx.pageIns.find? (fun p => p.queue = 0 ∧ p.page = 0) =
    some ⟨0, 0, 0, 0, [], none⟩ := by decide
theorem byteAt_beyond (b : Block) (a n : Nat) (hn : b.grn.mem.all (fun p => decide (p.1 < n)) = true) (h : n ≤ a) : byteAt b a = 0 := by
  have : SMap.find b.grn.mem a = none := by
    generalize b.grn.mem = m at hn
    induction m with
    | nil => rfl
    | cons p r ih =>
      simp only [List.all_cons, Bool.and_eq_true, decide_eq_true_eq] at hn
      simp only [SMap.find]
      split
      · omega
      · exact ih hn.2
  simp [byteAt, cellsGet, this, blankByte]
theorem qGet_beyond (b : Block) (q off n : Nat) (hc : b.ctx.cached = [])
    (hn : b.grn.mem.all (fun p => decide (p.1 < queueBase b + 64)) = true ∨ queueBase b = 0) (h : 1 ≤ q) : qGet b q off n = 0 := by
  have zero : ∀ k, leNat (List.replicate k (0 : Byte)) = 0 := fun k => by
    induction k with
    | zero => rfl
    | succ k ih => rw [List.replicate_succ, leNat, ih]; rfl
  unfold qGet
  split
  · rfl
  · rename_i hq
    have hd : descAt b q = List.replicate 64 0 := by
      unfold descAt
      split
      · rfl
      · rcases hn with hn | hn
        · simp only [bytesAt, qAddr]
          refine List.eq_replicate_iff.mpr ⟨by rw [List.length_map, List.length_range], fun x hx => ?_⟩
          obtain ⟨i, _, rfl⟩ := List.mem_map.mp hx
          exact byteAt_beyond b (queueBase b + 64 * q + i) _ hn (by omega)
        · exact absurd hn hq
    simp only [cachedDesc, hc, List.find?_nil, Option.map_none, hd, leAt, List.drop_replicate, List.take_replicate]
    exact zero _

/-- The entry of session 0 is LOCAL, of page 32, and its job evicts below 16 pages of margin. -/
def evictable : Block := setFld uCtx Fld.ctxJobEvictLowater 1 (session (2 ^ 63 + 32))
theorem only_session (b : Block) (j q : Nat) (hc : b.ctx.cached = []) (hn : b.grn.mem.all (fun p => decide (p.1 < queueBase b + 64)) = true) (h : 1 ≤ q) :
    sessionQualifies b j q = false := by simp [sessionQualifies, qType, qGet_beyond b q 0 1 hc (.inl hn) h]
theorem oldest_only (b : Block) (j : Nat) (hc : b.ctx.cached = []) (hn : b.grn.mem.all (fun p => decide (p.1 < queueBase b + 64)) = true) (h : sessionQualifies b j 0 = true) :
    oldestSession b j [] = some 0 := by
  have key : ∀ n, (List.range (n + 1)).foldl (fun acc q =>
      if !([] : List Nat).contains q && sessionQualifies b j q then
        match acc with
        | none => some q
        | some p => if qLast b q < qLast b p then some q else some p
      else acc) none = some 0 := by
    intro n
    induction n with
    | zero => simp [List.range_succ, h]
    | succ n ih =>
      rw [List.range_succ, List.foldl_append, ih]
      simp [only_session b j (n + 1) hc hn (by omega)]
  exact key 0x3FFFF
theorem test_witness_eviction : let b := evictLow 0 evictable
    fld evictable uCtx Fld.ctxJobEvictLowater 0 * 16 ≠ 0 ∧ evictable.ctx.evicting.find 0 = none ∧
    jobQuota evictable 0 - jobUsed evictable 0 < 16 ∧ oldestSession b 0 [] = some 0 ∧ firstFrom (entryQualifies b 0) (qPtLen b 0) 0 = some 0 :=
  ⟨by decide, by decide, by decide, oldest_only _ _ (by decide +kernel) (by decide +kernel) (by decide +kernel), by decide +kernel⟩
def moved : Block := { session (2 ^ 63 + 3 * 2 ^ 61 + 32) with ctx := { (session (2 ^ 63 + 3 * 2 ^ 61 + 32)).ctx with moves := [⟨0, 0, 32, some (3 * 2 ^ 26 + 5), 0, 0, 0⟩] } }
/-- The copy done, the entry names page 5 at rank 3 and the local page is free. -/
theorem test_eviction_done : ptGet (after (.evictionCopyDone 0 0) moved) 0 0 = 2 ^ 63 + 2 ^ 61 + 3 * 2 ^ 26 + 5 ∧ jobUsed (after (.evictionCopyDone 0 0) moved) 0 = 0 := by
  decide +kernel
theorem test_witness_export_timeout : let b : Block := { on with face := { on.face with time := 10 ^ 12 }, ctx := { on.ctx with moves := [⟨0, 0, 32, none, 0, 0, 0⟩] } }
    b.ctx.moves.find? (fun m => m.queue = 0 ∧ m.page = 0 ∧ m.peer = none) = some ⟨0, 0, 32, none, 0, 0, 0⟩ ∧
    max 1 (fld b uCtx Fld.ctxCtrlHostTmo) * 10000 ≤ b.face.time := by decide
theorem test_witness_page_lost : let b := session (2 ^ 63 + 2 ^ 61 + 3 * 2 ^ 26)
    qType b 0 = 1 ∧ qEnabled b 0 = true ∧ 0 < qPtLen b 0 ∧ ptLoc (ptGet b 0 0) = 1 ∧ ptRank (ptGet b 0 0) = 3 := by decide +kernel

/-- A running serving job 0 with session 0 ready and a serving share of tile 0. -/
def serving : Block :=
  let b := setReg (uTile 0) (Off.lftShare 0) 0xC0000200 (setFld uCtx Fld.ctxJobCtrlValid 1 (session 0))
  { b with qcp := { b.qcp with jobs := [(0, slot jRunning)] } }
theorem scan_only (b : Block) (hc : b.ctx.cached = []) (hn : b.grn.mem.all (fun p => decide (p.1 < queueBase b + 64)) = true) (h : qBad b 0 = false) : scanQueues b = b := by
  unfold scanQueues
  have key : ∀ l : List Nat, l.foldl (fun b q => if qEnabled b q && qBad b q then (useQueue q b).2 else b) b = b := by
    intro l
    induction l with
    | nil => rfl
    | cons q r ih =>
      simp only [List.foldl_cons]
      by_cases hq : q = 0
      · subst hq; simpa [h] using ih
      · have : qEnabled b q = false := by simp [qEnabled, qGet_beyond b q 0 1 hc (.inl hn) (by omega), bitOf]
        simpa [this] using ih
  exact key _
theorem ready_of (b : Block) (j q : Nat) (h : sessionReady b j q = true) (hq : q < 0x40000) (hl : (b.ctx.lastAt.find (j * 16 + qPrio b q)) = none)
    (hp : qPrio b q < 16) : readyOrder b j ≠ [] := by
  intro e
  simp only [readyOrder, List.flatMap_eq_nil_iff] at e
  have := e (qPrio b q) (by simp [hp])
  simp only [hl, Option.isSome_none, Bool.false_eq_true, if_false, List.filter_eq_nil_iff] at this
  exact this q (List.mem_filter.mpr ⟨List.mem_range.mpr hq, h⟩) (by simp)
theorem test_witness_batch : jobStateOf serving 0 = jRunning ∧ devState serving ≠ dsDraining ∧ flag serving uCtx Fld.ctxJobCtrlValid 0 = true ∧
    slotTrains serving 0 = false ∧ scanQueues serving = serving ∧
    groupSize serving 0 ≤ ((List.range 64).filter (groupTile serving 0)).length ∧ readyOrder serving 0 ≠ [] :=
  ⟨by decide, by decide, by decide, by decide, scan_only _ (by decide +kernel) (by decide +kernel) (by decide +kernel), by decide,
    ready_of _ 0 0 (by decide +kernel) (by decide) (by decide) (by decide +kernel)⟩
/-- A batch of session 0 on tile 0, in a stream state. -/
def batch (st : StreamState) : Block := { tile st [] with ctx := { on.ctx with batches := [⟨0, 7, [(0, 0)], [0], 3⟩] } }
theorem test_witness_batch_end : ((batch .ended).ctx.batches.find? fun x => x.job = 0 ∧ x.num = 7) = some ⟨0, 7, [(0, 0)], [0], 3⟩ ∧
    (∀ t ∈ [0], (tileOf (batch .ended) t).stream = .ended) ∧ ∃ t ∈ [0], (tileOf (batch .faulted) t).stream = .faulted := by decide
theorem test_batch_end : (after (.batchEnd 0 7) (batch .ended)).ctx.batches = [] ∧ (tileOf (after (.batchEnd 0 7) (batch .ended)) 0).stream = .idle := by decide
def lend (st : LendState) : Block := setLend 0 ⟨st, 0, 1, 0, 0, 5, 0, false, false⟩ { tile .running [] with face := { on.face with time := 5 } }
theorem test_witness_lend : (lendOf (lend .saving) 0).state = .saving ∧ (lendOf (lend .lent) 0).budget ≠ 0 ∧
    (lendOf (lend .lent) 0).since + (lendOf (lend .lent) 0).budget ≤ (lend .lent).face.time ∧ (tileOf (lend .lent) 0).stream = .running ∧
    (lend .lent).ctx.batches = [] := by decide
theorem test_lend : tileLend (after (.borrowSaveDone 0) (lend .saving)) 0 = 2 * 2 ^ 29 + 2 ^ 20 + 1 ∧
    tileLend (after (.lendBudgetExpire 0) (lend .lent)) 0 = 4 * 2 ^ 29 + 2 ^ 20 := by decide
/-- Without a save area a borrow writes nothing (R311). -/
theorem test_save_area : (after (.borrowSaveDone 0) (lend .saving)).face.free = 0 ∧ (after (.borrowSaveDone 0) (lend .saving)).grn.mem = [] := by decide
theorem test_reclaimed : (tileOf (after (.reclaimDone 0) (after (.reclaim 0) (after (.borrowSaveDone 0) (lend .saving)))) 0).stream = .running ∧
    tileLend (after (.reclaimDone 0) (after (.reclaim 0) (after (.borrowSaveDone 0) (lend .saving)))) 0 = 2 ^ 20 + 1 := by decide

/-! ### The training step -/

theorem test_witness_scale_table : flag on uCtx Fld.ctxJobCtrlValid 0 = false ∧ flag on uTrn Fld.trnSclCtrlEnable 0 = false ∧
    bitOf (0x10000 : Word).toNat 16 = true ∧ flag (setFld uCtx Fld.ctxJobCtrlValid 1 on) uCtx Fld.ctxJobCtrlValid 0 = true := by decide
/-- ENABLE is read only while the slot is valid. -/
theorem test_scale_enable : flag (after (.trnSclCtrlWrite 0 0x10000) on) uTrn Fld.trnSclCtrlEnable 0 = true ∧
    flag (after (.trnSclCtrlWrite 0 0x10000) (setFld uCtx Fld.ctxJobCtrlValid 1 on)) uTrn Fld.trnSclCtrlEnable 0 = false := by decide
def epochOver : Block := { scaled on with face := { (scaled on).face with time := 10 ^ 9 } }
theorem test_witness_epoch : flag epochOver uTrn Fld.trnSclCtrlEnable 0 = true ∧ slotTrains epochOver 0 = false ∧
    1000 * max 1 (fld epochOver uTrn Fld.trnSclCtrlEpoch 0) ≤ epochOver.face.time ∧ (closeEntries 0 1 [] (sclSize epochOver 0) 0 epochOver).2.1 = true := by
  decide +kernel
/-- An entry with exponent 130, 1 saturation and 4 elements in its run. -/
def entry64 : List Byte := leBytes 4 130 ++ List.replicate 12 0 ++ leBytes 8 1 ++ leBytes 8 0 ++ leBytes 8 4 ++ List.replicate 24 0
theorem test_entry_close : entry64.length = 64 ∧ bitOf (leAt entry64 0 4) 21 = false ∧ leAt (closeEntry 6 [] none entry64).bytes 48 8 = 1 ∧
    leAt (closeEntry 6 [] none entry64).bytes 0 4 = 130 + 130 * 256 := by decide +kernel

/-- A training job 0 whose split table has one entry, with step 5 asked for. -/
def training : Block :=
  let b := setFld uCtx Fld.ctxJobCtrlTrain 1 (setReg uTrn (Off.trnJobScbLo 0) 0x5000 (poke (0x5000 + 153) [0x60] (poke (0x5000 + 160) [1]
    (poke (0x5000 + 42) [0x10] (poke (0x5000 + 50) [0x10] (poke (0x5000 + 58) [0x20] (poke (0x5000 + 66) [0x10] (poke (0x5000 + 74) [0x30]
      (poke (0x5000 + 82) [0x10] on)))))))))
  { b with qcp := { b.qcp with jobs := [(0, { slot jRunning with train := true, steps := some (5, 9) })] } }
theorem test_witness_step_start : training.qcp.jobs.find 0 = some { slot jRunning with train := true, steps := some (5, 9) } ∧ trnPhase training 0 = 0 ∧
    recPhase training 0 ≠ pReplaying ∧ (beginStep 0 5 false training).1 = true ∧ slotTrains training 0 = true ∧ stallAsk 0 training = training ∧
    training.ctx.allocWaits = [] ∧ splitOf training 0 = some (nLayers training 0) ∧ splitEntry training 0 0 = some 0 ∧
    (stepStart 0 5 false training).1 = true := by decide +kernel
theorem test_step_start : trnPhase (after (.stepStart 0) training) 0 = 1 ∧ stepNow (after (.stepStart 0) training) 0 = 5 := by decide +kernel
def phase (p : Nat) : Block := setPhaseTrn 0 p training
theorem test_witness_step_rows : tilesEnded (phase 1) 0 = true ∧ flag (phase 1) uTrn Fld.trnJobStateGrad8 0 = false ∧ (trnOf (phase 1) 0).wasGrad8 = false ∧
    flag (setFld uTrn Fld.trnJobStateGrad8 1 (phase 1)) uTrn Fld.trnJobStateGrad8 0 = true ∧ sweepReady (phase 3) 0 = true ∧ gleanersRun (phase 4) 0 = false := by
  decide
theorem test_step_rows : trnPhase (after (.gradientReduce 0 [] []) (phase 1)) 0 = 2 ∧ trnPhase (after (.tiedPass 0) (phase 2)) 0 = 3 ∧
    trnPhase (after (.sweepLaunch 0) (phase 3)) 0 = 4 ∧ trnPhase (after (.sheafEmit 0) (phase 4)) 0 = 5 ∧
    trnPhase (after (.replicaCheck 0 [] [] [] [] []) (phase 5)) 0 = 6 ∧ trnPhase (after (.trnSweepUndone 0) (modJob 0 (fun x => { x with sweepBad := true }) (phase 4))) 0 = 8 ∧
    trnPhase (after (.sweepUndoDone 0) (phase 8)) 0 = 0 := by decide +kernel
theorem test_witness_step_close : (stepClose 0 [] (phase 6)).1 = .closed := by decide +kernel
theorem test_step_close : trnClosed (after (.stepClose 0 []) (phase 6)) 0 = 0 := by decide +kernel
theorem test_witness_step_done : let b := after (.stepClose 0 []) (phase 6)
    trnClosed b 0 ≠ noStep ∧ ((trnOf b 0).out.any fun r => r.step = 0 ∧ r.kind = 3) = true ∧ trnDone (after (.trnStepDone 0 0) b) 0 = 0 := by decide +kernel
/-- An END record of step 4 that counts no others. -/
def endRec : SheafRec := ⟨4, 0xFFFF, 0, 3, 0, 1, 1, 0, []⟩
theorem test_witness_mirror : recPhase training 0 = pNone ∧ fld (setFld uTrn Fld.trnJobStateMirror 1 training) uTrn Fld.trnJobStateMirror 0 = 1 := by decide
theorem test_mirror_apply : (after (.mirrorApply 0 [endRec]) training).trn.acks = [(0, 4)] := by decide +kernel
/-- Of three replicas two hold the CRC 7: rank 2 is the offender. -/
theorem test_block_decision : decideBlock [⟨0, 0, [7], []⟩, ⟨1, 0, [7], []⟩, ⟨2, 0, [8], []⟩] 0 = some ([2], 0) ∧
    2 * (([⟨0, 0, [7], []⟩, ⟨1, 0, [7], []⟩, ⟨2, 0, [8], []⟩] : List Replica).filter fun r => r.crcs.getD 0 0 = 7).length > 3 := by decide
/-- Three zeros, two literals. -/
theorem test_sheaf_tokens : encodeSeg 512 [0, 0, 0, 5, 6] = [2, 0x81, 5, 6] ∧ decodeSeg 5 [2, 0x81, 5, 6] = [0, 0, 0, 5, 6] := by decide +kernel
theorem test_sheaf_planes : (toPlanes 4 (List.range 512 |>.map (BitVec.ofNat 8))).take 3 = [3, 7, 11] := by decide +kernel

/-! ### Status, event rings, mailboxes, health -/

theorem test_sq : let b := setSq 64 Fld.unitStatusFault on
    reg b 64 Off.unitStatus / 2 ^ 16 = 1 ∧ reg (after (.sqRegisterWrite ⟨4, 1⟩ 64 0x8 ⟨1, 0xFFFF⟩) b) 64 Off.unitStatus % 2 ^ 16 = 0 ∧
    flag (after (.sqRegisterWrite ⟨4, 1⟩ 64 0x8 ⟨0, 0xFFFF⟩) b) 64 Fld.unitStatusFault = true := by decide
theorem test_witness_sq : Fld.unitStatusFault.stride = 0 ∧ Fld.unitStatusFault.lo < 16 ∧ Fld.unitStatusFault.off < 0x100000 ∧ hasAccess .sq 64 Off.unitStatus = true := by
  decide
theorem test_ring : (ringPut 64 .sysAddrFault 9 on).face.ring.find (64 * 64) = some ⟨.sysAddrFault, 64, 0, 9, 0⟩ ∧
    reg (ringPut 64 .sysAddrFault 9 on) 64 Off.evtHead = 2 ^ 16 + 1 := by decide
/-- HEAD one behind TAIL: the ring is full. -/
theorem test_ring_full : let b := setReg 64 Off.evtHead 63 on
    (reg b 64 Off.evtHead % 64 + 64 - reg b 64 Off.evtTail % 64) % 64 = 63 ∧ (ringPut 64 .sysAddrFault 9 b).face.ring = [] ∧
    reg (ringPut 64 .sysAddrFault 9 b) 64 Off.evtDrop = 1 := by decide
theorem test_witness_rc : hasAccess .rc 64 Off.evtDrop = true ∧ isPairLo 64 Off.evtDrop = false ∧ isPairHi 64 Off.evtDrop = false ∧
    isMacCounter 64 Off.evtDrop = false := by decide
theorem test_rc_read : (after (.rcRegisterRead ⟨4, 5⟩ 64 0x18) (setReg 64 Off.evtDrop 3 on)).face.replies = [⟨.ok, 3⟩] ∧
    reg (after (.rcRegisterRead ⟨4, 5⟩ 64 0x18) (setReg 64 Off.evtDrop 3 on)) 64 Off.evtDrop = 0 := by decide
theorem test_mailbox : reg (after (.mbxPost 64 7) on) 64 Off.mbxCtrl = 7 * 2 ^ 16 ∧
    reg (after (.mbxReply 64) (after (.mbxPost 64 7) on)) 64 Off.mbxCtrl = 7 * 2 ^ 16 + 7 ∧
    flag (after (.mbxPost 64 8) (after (.mbxPost 64 7) on)) 64 Fld.unitStatusMbxReject = true := by decide
theorem test_witness_mailbox : inReset on 64 = false ∧ (7 : Nat) ≠ reg on 64 Off.mbxCtrl / 2 ^ 16 ∧
    reg on 64 Off.mbxCtrl / 2 ^ 16 = reg on 64 Off.mbxCtrl % 2 ^ 16 ∧ inReset (setFld 64 Fld.unitResetInReset 1 on) 64 = true := by decide
theorem test_witness_member_health : parentOf 64 = some 32 ∧ worstOf (setOwn 64 hDegraded on) 64 ≠ (setOwn 64 hDegraded on).face.seen.get 0 64 := by decide
theorem test_member_health : worstOf (after (.sysMemberHealth 64) (setOwn 64 hDegraded on)) 32 = hDegraded := by decide
theorem test_witness_stall : on.face.time < 0 + 8000 ∧ ownOf (after (.sysHsStall 64 3 0) { on with face := { on.face with time := 8000 } }) 64 = hFailed := by
  decide
theorem test_tick : on.tly.powered = true ∧ (after .tallyUsTick on).face.time = 1 := by decide

/-! ### The cryptographic standards the spec names, on their published vectors -/

def hex (n v : Nat) : List Byte := beBytes n v
/-- FIPS 180-4: SHA-512 of "abc". -/
theorem test_sha512 : sha512 [0x61, 0x62, 0x63] = hex 64
    0xddaf35a193617abacc417349ae20413112e6fa4e89a97ea20a9eeee64b55d39a2192992a274fc1a836ba3c23a3feebbd454d4423643ce80e2a9ac94fa54ca49f := by
  decide +kernel
/-- FIPS 197, C.3: AES-256. -/
theorem test_aes : aesBlock (aesKeys (hex 32 0x000102030405060708090a0b0c0d0e0f101112131415161718191a1b1c1d1e1f)) (hex 16 0x00112233445566778899aabbccddeeff) =
    hex 16 0x8ea2b7ca516745bfeafc49904b496089 := by decide +kernel
/-- The GCM specification's test case 14: AES-256, a zero key and block. -/
theorem test_gcm : gcmSeal (List.replicate 32 0) (List.replicate 12 0) [] (List.replicate 16 0) =
    (hex 16 0xcea7403d4d606b6e074ec5d3baf39d18, hex 16 0xd0d1c8a799996bf0265b98b5d48ab919) := by decide +kernel
/-- RFC 7748, 5.2: the first X25519 vector. -/
theorem test_x25519 : x25519 (hex 32 0xa546e36bf0527c9d3b16154b82465edd62144c0ac1fc5a18506a2244ba449ac4)
    (hex 32 0xe6db6867583030db3594c1a424b15f7c726624ec26b3353b10a903a6d0ab1c4c) =
    hex 32 0xc3da55379de9c6908e94ea4df28d084f32eccf03491c71f754b4075577a28552 := by decide +kernel
/-- RFC 8032, 7.1: the first Ed25519 vector (the empty message). -/
theorem test_ed25519 : edVerify (hex 32 0xd75a980182b10ab7d54bfed3c964073a0ee172f3daa62325af021a68f707511a) [] (hex 64
    0xe5564300c360ac729086e2cc806e828a84877f1eb8e5d974d873e065224901555fb8821590a33bacc61e39701cf9b46bd25bf5f0595bbe24655141438e7a100b) = true := by
  decide +kernel
/-- CRC-32 of "123456789" is CBF43926, CRC-32C E3069283. -/
theorem test_crc32 : crc32 ((List.range 9).map fun i => BitVec.ofNat 8 (0x31 + i)) = 0xCBF43926 ∧
    crc32c ((List.range 9).map fun i => BitVec.ofNat 8 (0x31 + i)) = 0xE3069283 := by decide +kernel

/-! ### Links and the fabric -/

/-- The levels a module of the first level alone has. -/
def levels (b : Block) : Block := setFld uChip Fld.sysBootStageStage 1 (setReg uChip Off.jxlNeg 0x0101_0000 b)
/-- Link 0 in a mode and state. -/
def link (mode st : Nat) (b : Block) : Block := setLinkState 0 st (setFld (uLink 0) Fld.jxlCtrlMode mode (levels b))
theorem test_mode_write : linkState (after (.jxlModeWrite 0 1) (levels on)) 0 = lsTraining ∧ linkMode (after (.jxlModeWrite 0 1) on) 0 = 1 ∧
    linkState (after (.jxlModeWrite 0 1) on) 0 = lsOff ∧ linkState (after (.jxlModeWrite 0 0) (after (.jxlModeWrite 0 1) (levels on))) 0 = lsOff := by decide
theorem test_witness_mode : linkMode on 0 ≠ 2 ∧ linkUp on 0 = false ∧ linkMode (link 1 lsTraining on) 0 = 1 ∧ linkState (link 1 lsTraining on) 0 ≠ lsFailed := by
  decide
theorem test_negotiate : linkState (after (.negotiate 0 1 1 5 9 0 0) (link 1 lsTraining on)) 0 = lsUp ∧
    linkState (after (.negotiate 0 1 1 5 9 0x1F 0) (link 1 lsTraining on)) 0 = lsFailed ∧
    linkState (after (.negotiate 0 200 255 5 9 0 0) (link 1 lsTraining on)) 0 = lsFailed := by decide +kernel
theorem test_witness_negotiate : txLanes (excludeLanes 0 0 0 on) 0 = 8 ∧ txLanes (excludeLanes 0 0x1F 0 on) 0 = 3 ∧
    max (ownLmin (levels on)) 1 ≤ min (ownLmax (levels on)) 1 ∧ min (ownLmax (levels on)) 255 < max (ownLmin (levels on)) 200 := by decide +kernel
theorem test_lanemap : (after (.lanemapCommit 0 0x8000_0100) on).tly.store.laneUsed = [(0, 1)] ∧
    (after (.lanemapCommit 0 0x8000_0100) { on with tly := { on.tly with store := { on.tly.store with laneUsed := [(0, 8)] } } }).tly.store.lanes = [] := by decide
theorem test_witness_lanemap : (0x8000_0100 : Word).toNat % 2 ^ 16 ≠ on.tly.store.lanes.get 0 0 ∧ bitOf (0x8000_0100 : Word).toNat 31 = true := by decide
def linkUp0 : Block := link 1 lsUp on
/-- A DATA flit on VC 3 whose bytes begin a frame of 2,096 bytes. -/
def flitBody (seq : Nat) : List Byte := leBytes 1 0x31 ++ leBytes 3 seq ++ leBytes 3 (2 ^ 24 - 1) ++ List.replicate 21 0 ++ [1, 2, 0, 8] ++ List.replicate 252 0
def dataFlit (seq : Nat) : List Byte := flitBody seq ++ leBytes 4 (crc32 (flitBody seq))
theorem flitBody_length (seq : Nat) : (flitBody seq).length = 284 := by simp only [flitBody, List.length_append, leBytes_length, List.length_replicate, List.length_cons, List.length_nil]
theorem dataFlit_crc (seq : Nat) : (dataFlit seq).length = 288 ∧ leAt (dataFlit seq) 284 4 = crc32 ((dataFlit seq).take 284) := by
  refine ⟨by simp [dataFlit, flitBody_length, leBytes_length], ?_⟩
  rw [dataFlit, List.take_left' (flitBody_length seq)]
  have := leAt_append (flitBody seq) 4 (crc32 (flitBody seq)) (crc32_lt _)
  rwa [flitBody_length] at this
theorem test_witness_flit : linkUp linkUp0 0 = true ∧ leAt (dataFlit 0) 1 3 = (linkOf linkUp0 0).rxSeq ∧ leAt (dataFlit 0) 0 1 % 16 = 1 ∧
    bitOf (leAt (dataFlit 0) 7 1) 0 = false ∧ leAt (dataFlit 1) 1 3 ≠ (linkOf linkUp0 0).rxSeq := by decide
theorem test_witness_flit_payload : (takeFrames 16 (((dataFlit 0).drop 28).take 256)).1 = [] := by
  have : ((dataFlit 0).drop 28).take 256 = [1, 2, 0, 8] ++ List.replicate 252 0 := by
    simp only [dataFlit, flitBody, List.append_assoc]
    rw [← List.append_assoc, ← List.append_assoc, ← List.append_assoc, List.drop_left' (by simp [leBytes_length]), ← List.append_assoc]
    exact List.take_left' (by rw [List.length_append, List.length_replicate]; rfl)
  rw [this]; decide +kernel
theorem test_nak_replay : (after (.nakReplay 0 5) (setLink 0 { Link.init with replay := [(5, [1]), (6, [2])] } linkUp0)).fab.flits = [(0, [2])] := by decide
theorem test_witness_retrain : ∃ t ∈ (linkOf (setLink 0 { Link.init with tries := [(6, 16)] } linkUp0) 0).tries, 16 ≤ t.2 := ⟨(6, 16), by decide, by decide⟩
theorem test_retrain : linkState (after (.jxlRetrain 0 true) linkUp0) 0 = lsRetraining ∧
    linkState (after (.jxlRetrain 0 true) (setLink 0 { Link.init with retrains := [1, 2, 3] } linkUp0)) 0 = lsFailed ∧
    linkState (after (.retrainDone 0 0 0) (link 1 lsRetraining on)) 0 = lsUp := by decide

/-- Job slot 0 is valid, JOBID 0, this rank 0; rank 1 has a route and, under epoch 0, a pair. -/
def pair1 : Pair := ⟨[], 1, [(0, List.replicate 64 7)], 0, [], 0, none, []⟩
def fabOn : Block := noteFar ⟨uTile 0, some 0, 2 ^ 54 + 0x100, 1, 0, 1, [9], none⟩ <| setPair 0 1 pair1 (poke 8 (leBytes 8 (2 ^ 31 + 2 ^ 29)) (setFld uChip Fld.jxlJobCtrlValid 1 (levels on)))
def req1 : FabReq := ⟨uTile 0, 0, 1, 1, false, false, 0, 0x100, 0, [9]⟩
theorem test_witness_request : slotValid fabOn 0 = true ∧ rtValid (routeOf fabOn 0 1) = true ∧ pairOf fabOn 0 1 = some pair1 ∧ mustWait fabOn req1 = false ∧
    notesFar req1.unit = true ∧ (farSent req1 fabOn).isSome = true ∧ farSent req1 on = none ∧ pair1.ctrs.get 0 0 < 2 ^ 32 ∧ (epochKey pair1 pair1.txEpoch).isSome = true ∧ slotValid on 0 = false := by decide +kernel
theorem test_request_held : ((after (.fabricRequestSend req1) fabOn).fab.held.map fun h => (h.ctr, h.sends)) = [(0, 1)] := by decide +kernel
theorem test_request_no_member : (after (.fabricRequestSend { req1 with unit := uReeve }) on).face.replies = [⟨.notPresent, 0⟩] ∧
    (after (.fabricRequestSend req1) on).face.replies = [] := by decide
def held1 (sends : Nat) : Held := ⟨req1, 0, 0, [1], sends, 0, none⟩
def holding (sends : Nat) : Block := { fabOn with fab := { fabOn.fab with held := [held1 sends] }, face := { fabOn.face with time := 10 ^ 9 } }
theorem test_witness_must_wait : mustWait (holding 1) req1 = true := by decide
theorem test_witness_resend : heldOf (holding 1) 0 1 0 = some (held1 1) ∧ (held1 1).at' + rtoOf (holding 1) (held1 1) ≤ (holding 1).face.time := by decide
theorem test_resend : (after (.fabricResendTimeout 0 1 0) (holding 1)).fab.held.map (·.sends) = [2] ∧
    (after (.fabricResendTimeout 0 1 0) (holding 8)).fab.held = [] := by decide
/-- The header of a frame of rank 1 to this rank, and the frame sealed under the key of epoch 0. -/
def head1 (kind : Nat) (p : List Byte) : FabHead := ⟨1, kind, 0, false, false, p.length, 1, 0, 0, 0, 0, false, 0, 0x100, 0⟩
def key1 : List Byte := hkdfExpand (List.replicate 64 7) (ascii "JXL" ++ leBytes 2 0) 32
def frame1 (kind : Nat) (p : List Byte) : List Byte := sealFrame key1 (head1 kind p) p
theorem key1_length : key1.length = 32 := by decide +kernel
theorem frame1_length (kind : Nat) (p : List Byte) : (frame1 kind p).length = 48 + p.length := by
  simp [frame1, sealFrame, fabHead_bytes_length, gcmSeal_length key1 _ _ p key1_length]; omega
theorem test_witness_frame : ∀ kind ∈ [1, 2, 3, 4, 5, 6], fabHead (frame1 kind [9]) = head1 kind [9] ∧ (head1 kind [9]).kind = kind ∧
    slotOfJob fabOn (head1 kind [9]).jobid = some 0 ∧ (head1 kind [9]).dst = ownRank fabOn 0 ∧ ownLmin fabOn ≤ (head1 kind [9]).level ∧
    (head1 kind [9]).level ≤ ownLmax fabOn ∧ pairOf fabOn 0 (head1 kind [9]).src = some pair1 := by
  intro kind hk
  refine ⟨?_, rfl, (by decide : slotOfJob fabOn 0 = some 0), (by decide : 0 = ownRank fabOn 0), (by decide : ownLmin fabOn ≤ 1),
    (by decide : 1 ≤ ownLmax fabOn), (by decide : pairOf fabOn 0 1 = some pair1)⟩
  rw [frame1, sealFrame, List.append_assoc, fabHead_append _ _ (fabHead_bytes_length _)]
  revert kind; decide
theorem test_witness_frame_opens (kind : Nat) : openFrame pair1 (head1 kind [9]) (frame1 kind [9]) = some (0, [9]) :=
  openFrame_seal pair1 (head1 kind [9]) key1 [9] 0 key1_length rfl rfl rfl
/-- What an authentic WRITE, a READ, and a COMPLETION do. -/
theorem test_execute : let w := executeReq 0 (head1 1 [9]) [9] fabOn
    w.1 = .ok ∧ byteAt w.2.2 0x100 = 9 ∧ (executeReq 0 { head1 2 [] with rlen := 1 } [] w.2.2).2.1 = [9] := by decide
theorem test_completion : (completionRx 0 1 0 0 [] (holding 1)).fab.held = [] ∧ (completionRx 0 1 0 0x80 [] (holding 1)).fab.held.map (·.sends) = [0] := by decide
theorem test_heartbeat : ((beatRx 0 1 (List.replicate 32 0) fabOn).fab.beats.find 1).isSome = true := by decide
theorem test_witness_bad_frame : openFrame pair1 { head1 1 [9] with epoch := 5 } [] = none ∧ pairOf on 0 1 = none := by decide
theorem test_witness_repeat : (({ pair1 with record := [(recKey 0 0, some [1])] } : Pair).record.find (recKey 0 0)) = some (some [1]) := by decide
theorem test_witness_detour : let h := fabHead ([1, 1, 0, 0, 1, 0, 2, 0] ++ List.replicate 10 0 ++ [1] ++ List.replicate 29 0)
    h.detour = true ∧ slotOfJob fabOn h.jobid = some 0 ∧ h.dst ≠ ownRank fabOn 0 ∧ h.kind = 1 := by decide
theorem test_witness_keyx_unknown : keyxSlot on 5 = none ∧ keyxSlot fabOn 0 = some 0 := by decide
theorem test_witness_epoch_retire : pairOf (setPair 0 1 { pair1 with nextAt := some 0 } { on with face := { on.face with time := 100000 } }) 0 1 =
    some { pair1 with nextAt := some 0 } := by decide
theorem test_witness_silent : let b := { fabOn with face := { fabOn.face with time := 10 ^ 6 } }
    slotValid b 0 = true ∧ rtWatch (routeOf b 0 1) = true ∧ b.fab.silent = [] ∧ b.fab.beats = [] ∧ hbMiss b * hbInterval b ≤ b.face.time := by decide
theorem test_flush : (after (.jobFlush 0) (holding 1)).fab.held = [] ∧ (after (.jobFlush 0) (holding 1)).face.replies = [⟨.cancelled, 0⟩] := by decide
theorem test_witness_heartbeats : fld on uQcp Fld.qcpDevstateState ≠ 8 ∧ fld (setFld uQcp Fld.qcpDevstateState 8 on) uQcp Fld.qcpDevstateState = 8 ∧
    hbInterval on ≤ ({ on with face := { on.face with time := 10 ^ 6 } } : Block).face.time := by decide

/-- A collectives queue, number 0, at 0x40000 with its ring at 0x2000000, holding one descriptor of a group of ranks 0 and 1. -/
def coll (cop dtype : Nat) : Block :=
  poke 0x2000000 (bytes 64 [(0, cop), (1, dtype), (33, 1)]) (poke 0x3000000 [2, 0] (poke 0x3000009 [6, 0, 3] (poke 0x3000600 [0, 0, 1, 0]
    (poke 0x40000 (bytes 64 [(0, 11), (4, 1), (12, 4), (19, 2)])
    (setReg uCtx Off.ctxQtblLo 0x40000 (setReg (uCol 0) (Off.colJobGrpLo 0) 0x3000000 fabOn))))))
theorem test_witness_collective : let r := useQueue 0 (coll 8 4)
    r.1 = true ∧ qType r.2 0 = 3 ∧ qEnabled r.2 0 = true ∧ qWork r.2 0 = true ∧ (collsOf r.2 0).length < 16 ∧ engineOf 0 = 0 := by decide +kernel
theorem test_collective_bad : collBad (useQueue 0 (coll 9 4)).2 0 0 (bytesAt (coll 9 4) 0x2000000 64) = true ∧
    collBad (useQueue 0 (coll 8 4)).2 0 0 (bytesAt (coll 8 4) 0x2000000 64) = false := by decide +kernel
theorem test_collective_started : (collsOf (after (.barrier 0) (coll 8 4)) 0).length = 1 ∧
    ((collsOf (after (.barrier 0) (coll 9 4)) 0).map (·.status)) = [some .badArgument] ∧ collsOf (after (.allReduce 0) (coll 8 4)) 0 = [] := by decide +kernel
def ended (st : Status) : Block := setColls 0 [⟨0, 0, bytes 64 [(0, 8), (2, 2), (3, 5), (57, 1)], 0, [], some st⟩] fabOn
/-- SIGNAL to token 5 of tile 0, DONE at 0x100: the first count for OK, the second for a failure. -/
theorem test_collective_complete : (after (.collectiveComplete ⟨0, []⟩) (ended .ok)).til.signals = [(0, ⟨5, 0, uCol 0⟩)] ∧
    byteAt (after (.collectiveComplete ⟨0, []⟩) (ended .ok)) 0x100 = 1 ∧ byteAt (after (.collectiveComplete ⟨0, []⟩) (ended .opFailed)) 0x108 = 1 ∧
    flag (after (.collectiveComplete ⟨0, []⟩) (ended .badArgument)) (uCol 0) Fld.colStatusBad = true := by decide +kernel
theorem test_collective_abort : collsOf (after (.colAborted 0 0) (ended .ok)) 0 = [] := by decide
def twoPieces : List Piece := [⟨0, 0, 0, [1, 0, 0, 0], []⟩, ⟨0, 1, 0, [2, 0, 0, 0], []⟩]
theorem test_witness_reduction_order : twoPieces.Perm twoPieces.reverse ∧ (twoPieces.Pairwise fun x y => x.typ = y.typ → x.src = y.src →
    64 * x.off + x.data.length ≤ 64 * y.off ∨ 64 * y.off + y.data.length ≤ 64 * x.off) := ⟨List.Perm.swap .., by decide⟩
/-- The tree sum of 1, 2, 3: (1 + 2) + 3; integers add modulo 2^32. -/
theorem test_reduce : reduceElem 0 0 [0x3F800000, 0x40000000, 0x40400000] = 0x40C00000 ∧ reduceElem 2 0 [0xFFFFFFFF, 3] = 2 := by decide +kernel

/-! ### The frame MACs -/

/-- FE0's MAC with its receiver on: a frame of 64 bytes to its address, with its FCS. -/
def fe0 : Block := setReg (uFe 0) Off.macAddrHi 0x0200 (setReg (uFe 0) Off.macAddrLo 7 (setFld (uFe 0) Fld.macCtrlRxEn 1 on))
def fcsOf (body : List Byte) : List Byte := body ++ leBytes 4 (crc32 body)
def broadcast : List Byte := List.replicate 6 0xFF ++ List.replicate 6 2 ++ [0x12, 0x34] ++ List.replicate 46 0
theorem fcsOf_good (body : List Byte) (h : body.length = 60) : (fcsOf body).length = 64 ∧ (fcsOf body).take ((fcsOf body).length - 4) = body ∧
    leNat ((fcsOf body).drop ((fcsOf body).length - 4)) = crc32 body := by
  have l : (fcsOf body).length = 64 := by simp [fcsOf, leBytes_length, h]
  refine ⟨l, ?_, ?_⟩ <;> rw [l, fcsOf]
  · exact List.take_left' h
  · rw [List.drop_left' h, leNat_leBytes]; exact Nat.mod_eq_of_lt (crc32_lt _)
theorem test_witness_mac : macUnit 0 = uFe 0 ∧ macWorks fe0 (uFe 0) = true ∧ flag fe0 (uFe 0) Fld.macCtrlRxEn = true ∧ broadcast.length = 60 ∧ 64 ≤ maxLen fe0 (uFe 0) ∧
    daAccepted fe0 (uFe 0) (ethHead (fld fe0 (uFe 0) Fld.macCtrlDefpri) broadcast).da = true ∧
    (ethHead (fld fe0 (uFe 0) Fld.macCtrlDefpri) broadcast).etype = 0x1234 ∧ isLinkUnit (uFe 0) = false := by decide
theorem test_witness_mac_queue : ∃ q i d, steer fe0 (uFe 0) (ethHead (fld fe0 (uFe 0) Fld.macCtrlDefpri) broadcast) = some (q, i, d) ∧
    consumerOf fe0 (uFe 0) q ≠ 3 ∧ 60 ≤ 512 * 1024 ∧ queueBytes (rxOf (portOf fe0 (uFe 0)) q) + 16 + 60 ≤ max 1 (fld fe0 (uFe 0) Fld.macRxqCfgLimit q) * 1024 :=
  ⟨0, 0, true, by decide, by decide, by decide, by decide⟩
theorem test_mac_runt : getReg (after (.macFrameReceive 0 [1, 2] false 0 0) fe0) (uFe 0) (Off.macCntLo 5) = 1 := by decide
theorem test_mac_other_address : daAccepted fe0 (uFe 0) 2 = false := by decide
def rxHolding : Block := setPort (uFe 0) { MacPort.init with rx := [(3, [⟨64, false, false, false, true, true, 1, 0, 0, 0, [1, 2, 3]⟩])], used := [(1, 3)] } on
theorem test_release : rxOf (portOf (after (.rxFrameRelease 0 3) rxHolding) (uFe 0)) 3 = [] ∧ shareUse (portOf (after (.rxFrameRelease 0 3) rxHolding) (uFe 0)) 1 = 0 := by
  decide
theorem test_witness_transmit : (padFcs [1]).length ≤ maxLen on (uFe 0) := by
  have : (padFcs [1]).length = 64 := by simp [padFcs, leBytes_length]
  rw [this]; decide
theorem test_witness_too_long : maxLen on (uFe 0) < (padFcs (List.replicate 20000 0)).length := by
  have : (padFcs (List.replicate 20000 0)).length = 20004 := by simp only [padFcs, List.length_append, leBytes_length, List.length_replicate]
  rw [this]; decide
theorem test_rxq_cfg : fld (after (.rxqCfgWrite 0 3 0x40000007) on) (uFe 0) Fld.macRxqCfgConsumer 3 = 1 ∧
    fld (after (.rxqCfgWrite 0 3 0x40000007) rxHolding) (uFe 0) Fld.macRxqCfgConsumer 3 = 0 ∧ bitsOf (0x40000007 : Word).toNat 31 30 = 1 := by decide
def paused (mode : Nat) (p : MacPort) : Block := setPort (uFe 0) p (setFld (uFe 0) Fld.macPauseCtrlMode mode (setFld (uFe 0) Fld.macPauseCtrlRxEn 255
  (setFld (uFe 0) Fld.macPauseCtrlTxEn 255 { on with face := { on.face with time := 10 ^ 6 } })))
theorem test_pause : (portOf (after (.pauseFrameReceive 0 2) (paused 1 .init)) (uFe 0)).held = [(8, 10 ^ 12 + 2560)] ∧
    (portOf (after (.pauseFrameReceive 0 2) (paused 2 .init)) (uFe 0)).held = [] := by decide +kernel
theorem test_pfc : (portOf (after (.pfcFrameReceive 0 2 [0, 3]) (paused 2 .init)) (uFe 0)).held = [(1, 10 ^ 12 + 3840)] := by decide +kernel
theorem test_witness_pfc : pauseMode (paused 2 .init) (uFe 0) = 2 ∧ bitOf 2 1 = true ∧ bitOf (fld (paused 2 .init) (uFe 0) Fld.macPauseCtrlRxEn) 1 = true ∧
    (portOf (paused 2 .init) (uFe 0)).holdoff.find 1 = none ∧ pauseMode (paused 1 .init) (uFe 0) = 1 := by decide
theorem test_hold_expire : (portOf (after (.pauseHoldExpire 0 1) (paused 2 { MacPort.init with held := [(1, 5)] })) (uFe 0)).held = [] := by decide +kernel
/-- Class 1's share stands above XON, and it has paused its peer since 0. -/
def pausing : Block := setFld (uFe 0) Fld.macPauseWdLimit 5 (paused 2 { MacPort.init with pausing := [(1, (0, 0))], used := [(1, 512 * 1024)] }) 
theorem test_witness_pausing : (portOf pausing (uFe 0)).pausing.find 1 = some (0, 0) ∧ quantaPs pausing (uFe 0) 32768 ≤ nowPs pausing ∧
    xon pausing (uFe 0) 1 ≤ watchedUse pausing (uFe 0) 1 ∧ wdLimit pausing (uFe 0) = 5000 := by decide
theorem test_abandon : (after (.macTxPauseAbandon 0 1) pausing |> fun b => (portOf b (uFe 0)).abandon.find 1) = some (10 ^ 6 + wdHold pausing (uFe 0)) := by
  decide +kernel
def storm : Block := setFld (uFe 0) Fld.macPauseWdLimit 5 (paused 2 { MacPort.init with held := [(1, 10 ^ 18)], watch := [(1, ⟨6000, none⟩)] })
theorem test_witness_storm : wdLimit storm (uFe 0) ≠ 0 ∧ ((portOf storm (uFe 0)).held.find 1).isSome = true ∧ wdLimit storm (uFe 0) ≤ watched storm (portOf storm (uFe 0)) 1 := by
  decide
theorem test_storm : (portOf (after (.macPauseStorm 0 1) storm) (uFe 0)).held = [] := by decide +kernel
theorem test_holdoff_end : (portOf (after (.macHoldoffEnd 0 1) (paused 2 { MacPort.init with holdoff := [(1, 5)] })) (uFe 0)).holdoff = [] ∧
    (portOf (after (.pauseAbandonHoldEnd 0 1) (paused 2 { MacPort.init with abandon := [(1, 5)] })) (uFe 0)).abandon = [] := by decide +kernel
theorem test_pause_mode : (portOf (after (.pauseModeWrite 0 1) storm) (uFe 0)).held = [] ∧ ((portOf (after (.pauseModeWrite 0 2) storm) (uFe 0)).held.find 1).isSome = true := by
  decide +kernel
def idle : Block := setFld (uFe 0) Fld.macEeeCtrlEn 1 (paused 0 { MacPort.init with link := true })
theorem test_witness_idle : flag idle (uFe 0) Fld.macEeeCtrlEn = true ∧ (portOf idle (uFe 0)).idleAt + max 1 (fld idle (uFe 0) Fld.macEeeCtrlIdle) ≤ idle.face.time ∧
    Machine.waiting (portOf idle (uFe 0)) = 0 ∧ (portOf idle (uFe 0)).ctl = [] := by decide
theorem test_lpi : (portOf (after (.lpiEnter 0) idle) (uFe 0)).lpi = some (10 ^ 6) ∧
    (portOf (after (.lpiWake 0) (paused 0 { MacPort.init with lpi := some 0, ctl := [[1]] })) (uFe 0)).lpi = none ∧
    (portOf (after (.lpiWakeTimeEnd 0) (paused 0 { MacPort.init with wakeEnd := some 5 })) (uFe 0)).wakeEnd = none ∧
    (portOf (after (.rxLpiIndication 0 true) idle) (uFe 0)).rxLpi = true := by decide +kernel
theorem test_link_updown : (portOf (after (.macLinkUp 0 2 4) on) (uFe 0)).link = true ∧ (portOf (after (.macLinkDown 0) idle) (uFe 0)).link = false := by decide +kernel
theorem test_autoneg : phyCode on (uFe 0) = 0 ∧ (portOf (after (.autonegTimeout 0) (paused 0 .init)) (uFe 0)).tryC2m = true := by decide

/-! ### The control protocol -/

/-- FE0 with an address, its receive queue 3 the engine's, one session and job 0 of its key; other memory as given. -/
def flow1 : Flow := ⟨0, List.replicate 6 4, [], [], 0⟩
def sess1 : Sess := ⟨1, false, false, false, 0, [1], List.replicate 32 3, List.replicate 32 4, 0, 0, [], flow1, 0, 0, 0, 0, [(7, ⟨0, 0x200000, 64⟩)], []⟩
def hostOn (b : Block) : Block :=
  let b := setFld (uFe 0) Fld.macRxqCfgConsumer 1 (setReg (uFe 0) Off.macAddrHi 0x0200 (setReg (uFe 0) Off.macAddrLo 7 (setFld uQcp Fld.qcpCtrlEthEn 1
    (setReg uQcp Off.qcpEtype 0x88B6 b)))) 3
  { b with qcp := { b.qcp with sessions := [sess1], jobs := [(0, { slot jRunning with owner := [1] })] } }
def ethPre : List Byte := [2, 0, 0, 0, 0, 7] ++ List.replicate 6 4 ++ [0x88, 0xB6]
def hd (op queue : Nat) (param p : List Byte) : QHead := ⟨false, false, op, 1, 1, queue, p.length, param⟩
/-- A frame stands in queue 3 of FE0. -/
def rxFrame (l : List Byte) : RxFrame := ⟨64, false, false, false, false, true, 0, 0, 0, 0, ethPre ++ l⟩
def arriving (l : List Byte) (b : Block) : Block := setPort (uFe 0) { MacPort.init with rx := [(3, [rxFrame l])] } b
theorem arriving_port (l : List Byte) (b : Block) : portOf (arriving l b) (uFe 0) = { MacPort.init with rx := [(3, [rxFrame l])] } := by
  simp [arriving, portOf, setPort]
def sealed1 (h : QHead) (p : List Byte) : List Byte × List Byte := gcmSeal sess1.kIn (qcpNonce h.seq false) h.bytes p
def sent1 (h : QHead) (p : List Byte) (b : Block) : Block := arriving (h.bytes ++ (sealed1 h p).1 ++ (sealed1 h p).2) b
def sessAfter (h : QHead) (b : Block) : Sess := { seqTake h.seq sess1 with flow := flow1, lastAt := b.face.time }
/-- The block once the frame is taken. -/
def taken (h : QHead) (p : List Byte) (b : Block) : Block := putSess (sessAfter h b) (rxRelease (uFe 0) 3 (sent1 h p b))

/-- What the frames of this section rest on, of the block under them. -/
def listens (b : Block) : Bool := consumerOf b (uFe 0) 3 == 1 && fld b uQcp Fld.qcpEtypeValue == 0x88B6 && flag b uQcp Fld.qcpCtrlEthEn &&
  macAddrOf b (uFe 0) == 0x0200_0000_0007 && (pauseClasses b (uFe 0)).isEmpty && sessOf b 1 == some sess1
theorem frame_at (b : Block) (h : QHead) (c tag : List Byte) (hb : listens b = true) (hc : c.length = h.len) (ht : tag.length = 16) (hp : h.param.length = 8)
    (ho : h.op < 2 ^ 16) (hs : h.sess < 2 ^ 32) (hq : h.seq < 2 ^ 64) (hu : h.queue < 2 ^ 18) (hl : h.len ≤ 8960) (hd : h.dev = false)
    (hop : hostOp h.op = true) : FrameAt (arriving (h.bytes ++ c ++ tag) b) 0 3 flow1 h c tag := by
  simp only [listens, Bool.and_eq_true, beq_iff_eq] at hb
  obtain ⟨⟨⟨⟨⟨h1, h2⟩, h3⟩, h4⟩, _⟩, _⟩ := hb
  refine ⟨h1, rxFrame (h.bytes ++ c ++ tag), [], h.bytes ++ c ++ tag, by rw [arriving_port]; rfl, ?_, qcpParse_frame h c tag hc ht hp ho hs hq hu hl, hd, hop⟩
  have e : ethHead 0 (ethPre ++ (h.bytes ++ c ++ tag)) = ⟨0x0200_0000_0007, false, 0, 0, 0x88B6⟩ := by
    generalize h.bytes ++ c ++ tag = t
    have a1 : ((ethPre ++ t).drop 12).take 2 = [0x88, 0xB6] := by rfl
    have a2 : (ethPre ++ t).take 6 = [2, 0, 0, 0, 0, 7] := by rfl
    simp only [ethHead, a1, a2, show beNat [0x88, 0xB6] = 0x88B6 by decide, show beNat [2, 0, 0, 0, 0, 7] = 0x0200_0000_0007 by decide]; rfl
  show qcpIn b 0 (ethPre ++ (h.bytes ++ c ++ tag)) = _
  simp only [qcpIn, e, h2, h3, h4, ethPayload, tagBytes]
  generalize h.bytes ++ c ++ tag = t
  have a1 : ((ethPre ++ t).drop 12).take 2 = [0x88, 0xB6] := by rfl
  have a2 : ((ethPre ++ t).drop 6).take 6 = List.replicate 6 4 := by rfl
  simp only [a1, a2, flow1, show beNat [0x88, 0xB6] = 0x88B6 by decide]; rfl
theorem arrived (b : Block) (op queue : Nat) (param p : List Byte) (hb : listens b = true) (hp : param.length = 8) (hu : queue < 2 ^ 18)
    (hl : p.length ≤ 8960) (ho : op < 2 ^ 16) (hop : hostOp op = true) :
    Arrived (sent1 (hd op queue param p) p b) 0 3 op (sessAfter (hd op queue param p) b) flow1 (hd op queue param p) p (taken (hd op queue param p) p b) := by
  have hk : sess1.kIn.length = 32 := rfl
  have l := gcmSeal_length sess1.kIn (qcpNonce 1 false) (hd op queue param p).bytes p hk
  refine ⟨_, _, frame_at b (hd op queue param p) _ _ hb l.1 l.2 hp ho (by decide : 1 < 2 ^ 32) (by decide : 1 < 2 ^ 64) hu hl rfl hop, rfl, ?_⟩
  simp only [listens, Bool.and_eq_true, beq_iff_eq, List.isEmpty_iff] at hb
  have e : rxRelease (uFe 0) 3 (sent1 (hd op queue param p) p b) = setPort (uFe 0) { MacPort.init with
      rx := [(3, [])], used := [(0, 0 - (rxFrame ((hd op queue param p).bytes ++ (sealed1 (hd op queue param p) p).1 ++
        (sealed1 (hd op queue param p) p).2)).bytes.length)] } (sent1 (hd op queue param p) p b) := by
    simp only [rxRelease, sent1, arriving_port]
    have hp2 : ∀ u p (c : Block), pauseClasses (setPort u p c) (uFe 0) = pauseClasses c (uFe 0) := fun _ _ _ => rfl
    show checkPauses _ _ = _
    rw [checkPauses, hp2, arriving, hp2, hb.1.2]; rfl
  have := sessTake_seal flow1 (hd op queue param p) p (rxRelease (uFe 0) 3 (sent1 (hd op queue param p) p b)) sess1 (by rw [e]; exact hb.2) rfl rfl hk
    (show seqOk sess1 1 = true by decide)
  rw [e] at this
  simp only [taken, e]
  exact this

/-- Session queue 0 of job 0 under a listening engine. -/
def hostB : Block := hostOn (session 0)
theorem test_listens : listens hostB = true := by decide +kernel
theorem test_witness_close : ∃ x fl h p c, Arrived (sent1 (hd 0x04 0 (zeros 8) []) [] hostB) 0 3 0x04 x fl h p c :=
  ⟨_, _, _, _, _, arrived hostB 0x04 0 (zeros 8) [] test_listens rfl (by decide) (by decide) (by decide) (by decide)⟩
theorem test_close_session : (closeSess 1 false hostB).qcp.sessions = [] := by decide
theorem test_witness_idle_close : let b := { hostB with face := { hostB.face with time := 10 ^ 12 } }
    sessOf b 1 = some sess1 ∧ sess1.ra = false ∧ sess1.lastAt + max 1 (fld b uQcp Fld.qcpCtrlIdle) * 1000000 ≤ b.face.time := by decide
/-- CMD_WRITE of one entry at index 1. -/
def oneEntry : List Byte := leBytes 4 1 ++ leBytes 4 0 ++ List.replicate 64 5
theorem test_witness_cmd_write : Arrived (sent1 (hd 0x10 0 (zeros 8) oneEntry) oneEntry hostB) 0 3 0x10 (sessAfter (hd 0x10 0 (zeros 8) oneEntry) hostB) flow1
      (hd 0x10 0 (zeros 8) oneEntry) oneEntry (taken (hd 0x10 0 (zeros 8) oneEntry) oneEntry hostB) ∧
    (let r := queueRefusal (sessAfter (hd 0x10 0 (zeros 8) oneEntry) hostB) 0 [1, 2] (taken (hd 0x10 0 (zeros 8) oneEntry) oneEntry hostB)
     r.1 = none ∧ isBelow (qProd (pruneArrived 0 r.2) 0) 1 = false ∧ ahead (qCons (pruneArrived 0 r.2) 0) 1 < 2 ^ qDepth (pruneArrived 0 r.2) 0) ∧
    oneEntry.length = 72 ∧ leAt oneEntry 4 4 = 0 :=
  ⟨arrived hostB 0x10 0 (zeros 8) oneEntry test_listens rfl (by decide) (by decide) (by decide) (by decide), by decide +kernel, by decide, by decide⟩
/-- The entry lands in ring place 1 and its index has arrived. -/
theorem test_entry_written : byteAt (writeEntry 0 1 (List.replicate 64 5) hostB) (0x2000000 + 64) = 5 ∧ hasArrived (writeEntry 0 1 (List.replicate 64 5) hostB) 0 1 = true := by
  decide +kernel
/-- Doorbells with DSEQ 0 (old), 1 with all arrived (acts), 1 past the ring (out of range), 2 (held). -/
def bellHd (prod dseq : Nat) : QHead := hd 0x11 0 (leBytes 4 prod ++ leBytes 4 dseq) []
theorem test_witness_doorbell (prod dseq : Nat) : ∃ x p, Arrived (sent1 (bellHd prod dseq) [] hostB) 0 3 0x11 x flow1 (bellHd prod dseq) p (taken (bellHd prod dseq) [] hostB) :=
  ⟨_, _, arrived hostB 0x11 0 _ [] test_listens (by simp [leBytes_length]) (by decide) (by decide) (by decide) (by decide)⟩
theorem test_witness_doorbell_cases : let r := queueRefusal sess1 0 [1, 2] (taken (bellHd 1 1) [] hostB)
    let b := pruneArrived 0 r.2
    r.1 = none ∧ devState hostB ≠ dsFault ∧ ahead (qDseq b 0) 0 = 0 ∧ ahead (qDseq b 0) 1 = 1 ∧ ahead (qCons b 0) 1 ≤ 2 ^ qDepth b 0 ∧ allArrived b 0 1 = true ∧
    2 ^ qDepth b 0 < ahead (qCons b 0) 99 ∧ ahead (qDseq b 0) 2 = 2 ∧ (queueRunOf b 0).bells = [] := by decide +kernel
def heldBell : Block := { on with qcp := { on.qcp with queues := [(0, ⟨[], [⟨3, 2, ⟨1, 0, [], flow1⟩, 0, false⟩], [], [], 0⟩)] }, face := { on.face with time := 10000 } }
theorem test_witness_bell_timeout : (queueRunOf heldBell 0).bells = [⟨3, 2, ⟨1, 0, [], flow1⟩, 0, false⟩] := by decide
theorem test_bell_timeout : flag (after (.doorbellAheadTimeout 0) heldBell) uQcp Fld.qcpStatusDbAhead = true := by decide +kernel
/-- A command queue 1 of job 0 beside the session. -/
def cmdB : Block := poke 0x40040 (bytes 64 [(0, 10), (4, 1), (12, 4), (17, 0x80), (19, 2)]) hostB
theorem test_witness_comp_query : Arrived (sent1 (hd 0x13 1 (zeros 8) []) [] cmdB) 0 3 0x13 (sessAfter (hd 0x13 1 (zeros 8) []) cmdB) flow1 (hd 0x13 1 (zeros 8) []) []
      (taken (hd 0x13 1 (zeros 8) []) [] cmdB) ∧ (queueRefusal sess1 1 [2] (taken (hd 0x13 1 (zeros 8) []) [] cmdB)).1 = none :=
  ⟨arrived cmdB 0x13 1 (zeros 8) [] (by decide +kernel) rfl (by decide) (by decide) (by decide) (by decide), by decide +kernel⟩
/-- DATA of one byte to window 7, of 64 bytes, at offsets 0 and 64, and to window 8. -/
def dataP (win off : Nat) : List Byte := leBytes 4 win ++ leBytes 4 0 ++ leBytes 8 off ++ [9]
theorem test_witness_data (win off : Nat) : ∃ x fl c, Arrived (sent1 (hd 0x30 0 (zeros 8) (dataP win off)) (dataP win off) hostB) 0 3 0x30 x fl
    (hd 0x30 0 (zeros 8) (dataP win off)) (dataP win off) c ∧ x.windows = sess1.windows :=
  ⟨_, _, _, arrived hostB 0x30 0 (zeros 8) (dataP win off) test_listens rfl (by decide) (by simp [dataP, leBytes_length]) (by decide) (by decide), rfl⟩
theorem test_witness_data_windows : sess1.windows.find (leAt (dataP 7 0) 0 4) = some ⟨0, 0x200000, 64⟩ ∧ leAt (dataP 7 0) 8 8 + 1 ≤ 64 ∧
    64 < leAt (dataP 7 64) 8 8 + 1 ∧ sess1.windows.find (leAt (dataP 8 0) 0 4) = none ∧ leAt (dataP 7 0) 4 4 = 0 ∧ (dataP 7 0).length = 17 := by decide
def chunkP : List Byte := zeros 16 ++ List.replicate 8192 6
theorem chunkP_length : chunkP.length = 16 + 8192 := by rw [chunkP, List.length_append, List.length_replicate]; rfl
/-- A page-in of entry 0 of session 0 under way. -/
def pagingB : Block := { hostOn (session (2 ^ 63 + 2 ^ 62)) with ctx := { hostB.ctx with pageIns := [⟨0, 0, 0, 0, [], none⟩] } }
theorem test_witness_chunk : Arrived (sent1 (hd 0x32 0 (zeros 8) chunkP) chunkP pagingB) 0 3 0x32 (sessAfter (hd 0x32 0 (zeros 8) chunkP) pagingB) flow1
      (hd 0x32 0 (zeros 8) chunkP) chunkP (taken (hd 0x32 0 (zeros 8) chunkP) chunkP pagingB) ∧ leAt chunkP 12 4 = 0 ∧ leAt chunkP 8 4 < 8 :=
  ⟨arrived pagingB 0x32 0 (zeros 8) chunkP (by decide +kernel) rfl (by decide) (by rw [chunkP_length]; decide) (by decide) (by decide),
    by rw [chunkP, leAt_left _ _ 12 4 (by decide)]; decide, by rw [chunkP, leAt_left _ _ 8 4 (by decide)]; decide⟩
theorem test_witness_chunk_queue : let r := queueRefusal sess1 0 [1] pagingB
    r.1 = none ∧ r.2.ctx.pageIns.find? (fun z => z.queue = 0 ∧ z.page = 0 ∧ ptLoc (ptGet r.2 0 0) = 2) = some ⟨0, 0, 0, 0, [], none⟩ := by decide +kernel
def leavingB : Block := { hostB with ctx := { hostB.ctx with moves := [⟨0, 0, 32, none, 0, 0, 0⟩] } }
theorem test_witness_page_ack : Arrived (sent1 (hd 0x33 0 (zeros 8) (zeros 8)) (zeros 8) leavingB) 0 3 0x33 (sessAfter (hd 0x33 0 (zeros 8) (zeros 8)) leavingB) flow1
      (hd 0x33 0 (zeros 8) (zeros 8)) (zeros 8) (taken (hd 0x33 0 (zeros 8) (zeros 8)) (zeros 8) leavingB) ∧
    (queueRefusal sess1 0 [1] leavingB).1 = none ∧ ∃ m ∈ (queueRefusal sess1 0 [1] leavingB).2.ctx.moves, m.queue = 0 ∧ m.page = 0 ∧ m.gen = 0 ∧ m.peer = none :=
  ⟨arrived leavingB 0x33 0 (zeros 8) (zeros 8) (by decide +kernel) rfl (by decide) (by decide) (by decide) (by decide), by decide +kernel, by decide +kernel⟩
theorem test_witness_sync : (∃ x fl h p c, Arrived (sent1 (hd 0x41 0 (zeros 8) []) [] hostB) 0 3 0x41 x fl h p c) ∧
    devState (setFld uQcp Fld.qcpDevstateState dsReady hostB) ≠ dsOff :=
  ⟨⟨_, _, _, _, _, arrived hostB 0x41 0 (zeros 8) [] test_listens rfl (by decide) (by decide) (by decide) (by decide)⟩, by decide⟩
/-- An OPEN signed by the key of slot 1. -/
def opKey : List Byte := List.replicate 32 1
def openP : List Byte := List.replicate 32 9 ++ [1] ++ zeros 7 ++ List.replicate 16 2
def openC : List Byte := openP ++ edSign opKey openP
theorem test_witness_open : FrameAt (arriving ((QHead.mk false false 1 0 0 0 120 (zeros 8)).bytes ++ openC ++ zeros 16) hostB) 0 3 flow1
      ⟨false, false, 1, 0, 0, 0, 120, zeros 8⟩ openC (zeros 16) ∧ openC.length = 120 :=
  have l : openC.length = 120 := by simp [openC, openP, zeros, edSign, edEncode, leBytes_length]
  ⟨frame_at hostB _ openC (zeros 16) test_listens l rfl rfl (by decide) (by decide) (by decide) (by decide) (by decide) rfl (by decide), l⟩
theorem test_witness_open_signature : edVerify (edPublic opKey) openP (edSign opKey openP) = true ∧ leAt (openP.drop 32) 1 7 = 0 := by decide +kernel
theorem test_witness_open_state : let b := setFld uSec Fld.secStateRngOk 1 (setFld uSec Fld.secStateIdOk 1 hostB)
    idOk b = true ∧ rngOk b = true ∧ keySlot b 1 = none ∧ keySlot { b with tly := { b.tly with store := { b.tly.store with keys := [(1, edPublic opKey)] } } } 1 =
      some (edPublic opKey) ∧ sessCount false false b < 64 := by decide +kernel
/-- SEQ 1 is fresh once, then seen. -/
theorem test_replay_window : seqOk sess1 1 = true ∧ seqOk (seqTake 1 sess1) 1 = false ∧ seqOk (seqTake 5000 sess1) 800 = false ∧ seqOk (seqTake 5000 sess1) 4000 = true := by
  decide

/-! ### The reeve's commands -/

/-- The module in LOADED, with commands of one session taken from queue 1 and a serving job in slot 0. -/
def who1 : Who := ⟨1, 0, [1], flow1⟩
def command (e : List (Nat × Nat)) (p : CmdPhase) : Cmd := ⟨1, 0, who1, desc e, p, 0, [], [], 0⟩
def reeve (cs : List Cmd) (x : JobSlot) (b : Block) : Block := let b := setFld uQcp Fld.qcpDevstateState dsLoaded b
  { b with qcp := { b.qcp with cmds := cs, sessions := [sess1], jobs := [(0, x)] } }
def serving1 : JobSlot := { slot jRunning with owner := [1] }
def trainer (js : Nat) : JobSlot := { slot js with owner := [1], train := true }
/-- A started command with an opcode and arguments. -/
def starts (op : Nat) (args : List (Nat × Nat)) : Cmd := command ((0, op) :: args.map fun p => (16 + p.1, p.2)) .started
def doing (op : Nat) (args : List (Nat × Nat)) : Block := reeve [starts op args] serving1 on
def does (op : Nat) (args : List (Nat × Nat)) (x : JobSlot) (b : Block) : Block := reeve [starts op args] x b
/-- How the first command stands. -/
def phaseOf (b : Block) : Option CmdPhase := b.qcp.cmds.head?.map (·.phase)

theorem test_witness_runs : ([1, 2, 3, 4, 5, 6, 7, 8, 9, 10, 11, 12, 13, 19, 21, 24].all fun op => reeveRuns (doing op []) &&
    ((doing op []).qcp.cmds.find? fun c => c.queue = 1 ∧ c.phase = .started ∧ entryOp c = op) == some (starts op [])) = true ∧ mainOn (doing 1 []) = true := by
  decide +kernel
/-- A command queue 1 with one entry waiting, whose first byte is an opcode (6 is COUNTERS). -/
def oneWaits (op : Nat) : Block := poke 0x2000000 (desc [(0, op)]) (poke 0x40040 (bytes 64 [(0, 10), (4, 1), (19, 2)]) (reeve [] serving1 ctxOn))
theorem test_witness_command_start : let r := useQueue 1 (oneWaits 6)
    r.1 = true ∧ qType r.2 1 = 2 ∧ qEnabled r.2 1 = true ∧ qCons r.2 1 ≠ qProd r.2 1 ∧ r.2.qcp.cmds = [] ∧ wakes 6 = false ∧
    namesJob 6 = false ∧ (cachedDesc r.2 1).any (fun d => d.length == 64) = true ∧ (granaryRead ⟨uReeve, none, false, false⟩ (ringAt r.2 1 0) 64 r.2).1 = .ok ∧
    entryOp ⟨1, 0, who1, (granaryRead ⟨uReeve, none, false, false⟩ (ringAt r.2 1 0) 64 r.2).2.1, .taken, 0, [], [], 0⟩ = 6 := by decide +kernel
/-- An entry whose line cannot be corrected. -/
theorem test_witness_command_unread : let r := useQueue 1 (setMark (0x2000000 / 64) (some .uncorr) (oneWaits 6))
    r.1 = true ∧ (granaryRead ⟨uReeve, none, false, false⟩ (ringAt r.2 1 0) 64 r.2).1 = .opFailed := by decide +kernel
theorem test_command_start : phaseOf (after (.commandStart 1) (oneWaits 6)) = some .started ∧ qCons (after (.commandStart 1) (oneWaits 6)) 1 = 1 := by decide +kernel
/-- The states of R444's checks. -/
theorem test_start_check : startCheck (starts 5 []) (doing 5 []) = .ok ∧ startCheck (starts 0x3F []) (doing 5 []) = .badArgument ∧
    startCheck (starts 4 []) (doing 5 []) = .stateConflict ∧ startCheck { starts 0x12 [] with who := { who1 with pub := [2] } } (doing 5 []) = .authFailed := by
  decide +kernel
def endedCmd (op mark : Nat) : Block := reeve [{ command [(0, op), (48, 3)] (.finished .ok) with mark := mark }] serving1 on
theorem test_witness_completion : ∀ p ∈ [(4, 0), (9, 3), (1, 0)], (endedCmd p.1 p.2).qcp.cmds.find? (fun c => c.queue = 1 ∧ c.idx = 0) =
    some { command [(0, p.1), (48, 3)] (.finished .ok) with mark := p.2 } := by decide
theorem test_witness_completion_waits : (doing 1 []).qcp.cmds.find? (fun c => c.queue = 1 ∧ c.idx = 0) = some (starts 1 []) := by decide
theorem test_witness_event_forward : (kindOf uQcp).isSome = true := by decide

theorem test_command_nop : phaseOf (after (.nop (.queue 1)) (doing 1 [])) = some (.finished .ok) := by decide +kernel
theorem test_witness_attest : idOk (doing 3 []) = false ∧ idOk (setFld uSec Fld.secStateIdOk 1 (doing 3 [])) = true := by decide
theorem test_witness_enrol : (starts 4 [(32, 3)]).who.slot = 0 ∧ ((starts 4 [(32, 3)]).entry.drop 16).take 32 = zeros 32 ∧ leAt ((starts 4 [(32, 3)]).entry.drop 16) 32 1 = 3 ∧
    (15 < leAt ((starts 4 [(32, 16)]).entry.drop 16) 32 1) ∧ leAt ((starts 4 []).entry.drop 16) 32 1 = 0 ∧ ({ starts 4 [] with who := { who1 with slot := 2 } }).who.slot ≠ 0 := by
  decide
/-- CONFIG of MAC_CTRL of FE0, and of a unit it does not reach. -/
theorem test_witness_config : configUnit (uFe 0) = true ∧ (regRmw uReeve true (uFe 0) Off.macCtrl 1 0 (doing 5 [])).1 = .ok ∧ configUnit uChip = false := by decide +kernel
theorem test_command_config : flag (after (.config 1) (doing 5 [(0, uFe 0 % 256), (1, uFe 0 / 256), (4, Off.macCtrl % 256), (5, Off.macCtrl / 256 % 256),
    (6, Off.macCtrl / 65536), (8, 1), (12, 1)])) (uFe 0) Fld.macCtrlTxEn = true := by decide +kernel
theorem test_witness_counters : (kindOf (leAt ((starts 6 [(0, 1)]).entry.drop 16) 0 4)).isSome = true ∧ kindOf (leAt ((starts 6 [(0, 60)]).entry.drop 16) 0 4) = none := by decide +kernel
theorem test_witness_events : sessOf (doing 7 []) 1 = some sess1 := by decide
theorem test_command_events : (sessOf (after (.events 1) (doing 7 [(0, 2), (4, 9)])) 1).map (fun x => (x.evSev, x.evBlocks)) = some (2, 9) ∧
    phaseOf (after (.events 1) (doing 7 [(0, 4)])) = some (.finished .badArgument) := by decide +kernel
/-- POWER 2 on queue 1 while a LOAD_PROGRAM runs on queue 2, and without one. -/
def alsoLoading : Block := reeve [starts 9 [(0, 2)], { starts 0x16 [] with queue := 2 }] serving1 on
theorem test_command_power_waits : loadElsewhere alsoLoading 1 = true ∧ loadElsewhere (doing 9 [(0, 2)]) 1 = false ∧
    phaseOf (after (.power 1) alsoLoading) = some .started ∧ phaseOf (after (.power 1) (doing 9 [(0, 2)])) = some (.finished .ok) := by decide +kernel
theorem test_command_power : phaseOf (after (.power 1) (doing 9 [])) = some (.finished .badArgument) ∧
    (after (.power 1) (doing 9 [(0, 3)])).qcp.cmds.head?.map (·.mark) = some 3 := by decide +kernel
/-- RESET_UNIT of a gleaner, of the QCP engine, of a missing unit, and of a tile a training step runs on. -/
theorem test_witness_reset_unit : resetUnit (uGleaner 0) = true ∧ resetBusy (doing 10 []) (uGleaner 0) = false ∧ (kindOf uQcp).isSome = true ∧ resetUnit uQcp = false ∧
    kindOf (leAt ((starts 10 [(0, 60)]).entry.drop 16) 0 4) = none ∧
    resetBusy (setFld uTrn Fld.trnJobStatePhase 1 (setFld uCtx Fld.ctxJobCtrlTrain 1 (bound (does 10 [] (trainer jRunning) on)))) (uTile 0) = true := by decide +kernel
theorem test_witness_drain_command : devState (doing 11 []) ≠ dsReady ∧ devState (setFld uQcp Fld.qcpDevstateState dsReady (doing 11 [])) = dsReady := by decide
/-- A job with a batch left stays while the module drains (R452). -/
def batched : Block := modCtx (fun c => { c with batches := [⟨0, 7, [], [], 0⟩] }) (doing 11 [])
theorem test_command_drain : devState (after (.drainCommand 1) batched) = dsDraining ∧
    (after (.drainCommand 1) batched).qcp.jobs.find 0 = some serving1 := by decide +kernel
theorem test_witness_windows : sess1.windows.find (leAt ((starts 19 [(0, 7)]).entry.drop 16) 0 4) ≠ none ∧ sess1.windows.find (leAt ((starts 19 []).entry.drop 16) 0 4) = none := by
  decide
theorem test_command_window_close : (sessOf (after (.windowClose 1) (doing 19 [(0, 7)])) 1).map (·.windows) = some [] := by decide +kernel
theorem test_witness_fetch : (readRange 0 4 (doing 21 [(8, 4)])).1 = .ok ∧ 2 ^ 40 < leAt ((starts 21 [(8, 1), (13, 1)]).entry.drop 16) 8 8 := by decide +kernel
theorem test_witness_queue_destroy : jobQueue (oneWaits 0) 0 1 = true ∧ jobQueue (doing 24 []) 0 0 = false := by decide +kernel

/-! Jobs -/
/-- The argument block of a command stands at 0x2000. -/
def blockCmd (op n : Nat) : Cmd := command [(0, op), (2, 2), (17, 0x20), (24, n % 256), (25, n / 256)] .started
def blockRuns (op : Nat) (l : List (Nat × Nat)) (n : Nat) (js : SMap JobSlot) : Block :=
  let b := poke 0x2000 (bytes n l) (reeve [blockCmd op n] serving1 on)
  { b with qcp := { b.qcp with jobs := js } }
theorem test_witness_empty_slot : (∀ op ∈ [0x11, 0x12, 0x14, 0x16, 0x17, 0x19, 0x21, 0x22, 0x23, 0x24, 0x25, 0x26, 0x28, 0x2A, 0x2B], entryOp (starts op []) = op) ∧
    (blockRuns 0x10 [] 48 []).qcp.jobs.find 0 = none := by decide
/-- JOB_CREATE of a training job with the register image's pair CTX_JOB_QUOTA of slot 0. -/
def creates : List (Nat × Nat) := [(0, 1), (4, 9)]
theorem test_witness_job_create : let r := argBlock (blockCmd 0x10 48) (blockRuns 0x10 creates 48 [])
    r.1 = .ok ∧ r.2.1.length = 48 ∧ slotHolds r.2.2 0 = false ∧ bitOf (leAt r.2.1 0 1) 0 = true ∧ trainingJobs r.2.2 < 2 ∧ (r.2.1.drop 48).length % 8 = 0 := by decide +kernel
theorem test_witness_job_create_full : let r := argBlock (blockCmd 0x10 48) (blockRuns 0x10 creates 48 [(1, trainer jLoaded), (2, trainer jLoaded)])
    r.1 = .ok ∧ 2 ≤ trainingJobs r.2.2 ∧ slotHolds r.2.2 0 = false ∧ slotHolds (blockRuns 0x10 creates 48 [(0, serving1)]) 0 = true := by decide +kernel
theorem test_job_create : (after (.jobCreate 1) (blockRuns 0x10 creates 48 [])).qcp.jobs.find 0 =
    some { trainer jLoaded with jobId := 9, image := sha512 [] } ∧ phaseOf (after (.jobCreate 1) (blockRuns 0x10 creates 48 [])) = some (.finished .ok) := by decide +kernel
/-- The one member named is not this module; the identity digest is an opaque value, so the accepted form is shown for the rest of its conditions. -/
theorem test_witness_job_admit : let b := blockRuns 0x20 [] 120 [(0, trainer jLoaded)]
    (argBlock (blockCmd 0x20 120) b).1 = .ok ∧ (120 - 48) % 72 = 0 ∧ rngOk b = false ∧ (b.qcp.jobs.find 0).isSome = true := by decide +kernel
theorem test_witness_reshard : (argBlock (blockCmd 0x29 256) (blockRuns 0x29 [] 256 [(0, trainer jLoaded)])).1 = .ok ∧
    (argBlock (blockCmd 0x29 256) (blockRuns 0x29 [] 256 [(0, trainer jLoaded)])).2.1.length = 256 := by decide +kernel
/-- An admission of ranks 0 and 3 begun at time 0. -/
def admitting : Block := let b := setFld uChip Fld.jxlJobCtrlRank 0 (reeve [{ command [(0, 0x20)] .waiting with mark := 0 }] serving1 on)
  { b with fab := { b.fab with admitting := [(0, 0)], members := [(0, []), (3, [])] }, face := { b.face with time := 2000000 } }
theorem test_witness_admit_timeout : (waitingCmds admitting fun c => entryOp c == 0x20 && entryJob c == 0) = [command [(0, 0x20)] .waiting] ∧ keyless admitting 0 = [3] ∧
    admitting.fab.admitFail.find 0 = none := by decide +kernel
theorem test_admit_timeout : (after (.jobAdmitTimeout 0) admitting).qcp.cmds.head?.map (fun c => (c.phase, c.ret)) = some (.finished .opFailed, leBytes 2 3) := by decide +kernel
theorem test_witness_spare_assign : (blockRuns 0x27 [] 48 []).qcp.jobs.find 0 = none ∧ trainingJobs (blockRuns 0x27 [] 48 []) < 2 ∧
    2 ≤ trainingJobs (blockRuns 0x27 [] 48 [(1, trainer jLoaded), (2, trainer jLoaded)]) ∧ serving1.owner = who1.pub ∧ serving1.jobId = leAt ((starts 0x27 [(0, 1)]).entry.drop 16) 0 4 := by
  decide
theorem test_spare_assign : ((after (.spareAssign 1) (does 0x27 [(0, 1)] serving1 on)).qcp.jobs.find 0).map (fun x => (x.jstate, x.spare)) = some (jSpare, true) := by decide +kernel
/-- A window on frame 1, a tensor frame of job 0. -/
def tensorFrame : Block := poke 0x10008 (leBytes 8 (2 ^ 32 - 1 + 2 ^ 35 + 2 ^ 36)) ctxOn
theorem test_witness_window_open : (∀ i < leAt ((starts 0x12 [(2, 0x20), (10, 0x20)]).entry.drop 16) 8 8 / 2 ^ 21,
      ownedBy tensorFrame 0 (1 + i) = true ∧ bitOf (frameEntry tensorFrame (1 + i)) 36 = true) ∧ sess1.windows.length < 16 ∧
    16 ≤ ({ sess1 with windows := (List.range 16).map fun n => (n, ⟨0, 0, 1⟩) } : Sess).windows.length := by decide +kernel
theorem test_window_open : (sessOf (after (.windowOpen 1) (does 0x12 [(2, 0x20), (10, 0x20)] serving1 tensorFrame)) 1).map (·.windows) =
    some [(0, ⟨0, 0x200000, 0x200000⟩), (7, ⟨0, 0x200000, 64⟩)] := by decide +kernel
theorem test_witness_commit : (readRange 0 4 (does 0x14 [(8, 4)] serving1 on)).1 = .ok := by decide +kernel
theorem test_witness_load_program : (readRange 0 4 (does 0x16 [(16, 4)] serving1 on)).1 = .ok ∧ leAt ((starts 0x16 [(16, 4)]).entry.drop 16) 16 4 = 4 ∧
    (addProgram ⟨2, 0, 0, 4, 0, []⟩ (does 0x16 [(16, 4)] serving1 on)).isSome = true := by decide +kernel
theorem test_load_program : (after (.loadProgram 1 []) (does 0x16 [(16, 4)] serving1 on)).til.progRanges = [(0, 4)] := by decide +kernel
/-- QUEUE_CREATE of queue 2, TYPE 1. -/
theorem test_witness_queue_create : qType (does 0x17 [(0, 2), (4, 1)] serving1 ctxOn) 2 = 0 ∧ queueBase (does 0x17 [(0, 2), (4, 1)] serving1 ctxOn) ≠ 0 ∧
    qType (oneWaits 0) 1 ≠ 0 := by decide +kernel
theorem test_queue_create : qType (after (.queueCreate 1) (does 0x17 [(0, 2), (4, 1)] serving1 ctxOn)) 2 = 1 ∧
    qJob (after (.queueCreate 1) (does 0x17 [(0, 2), (4, 1)] serving1 ctxOn)) 2 = 0 := by decide +kernel
theorem test_witness_page_evict : let b := does 0x19 [] serving1 (session (2 ^ 63 + 32))
    jobQueue b 0 0 = true ∧ qType b 0 = 1 ∧ 0 < qPtLen b 0 ∧ entryQualifies b 0 0 = true ∧ inBatch b 0 = false := by decide +kernel
theorem test_witness_page_evict_busy : inBatch { on with ctx := { on.ctx with batches := [⟨0, 0, [(0, 0)], [], 0⟩] } } 0 = true := by decide
theorem test_witness_job_start : (spares (does 0x21 [] (trainer jLoaded) on) 0 = []) ∧ (trainer jLoaded).jstate = jLoaded ∧ serving1.jstate ≠ jLoaded := by decide +kernel
theorem test_job_start : (after (.jobStart 1) (does 0x21 [] (slot jLoaded) on)).qcp.jobs.find 0 = some (slot jRunning) := by decide +kernel
/-- STEP of one step, step 5: closed is 4, or none. -/
def stepping (closed : Nat) : Block := setReg uTrn (Off.trnJobClosed 0) closed (does 0x22 [(0, 1), (4, 5)] (trainer jRunning) on)
theorem test_witness_step : trnClosed (stepping 4) 0 = 4 ∧ trnClosed (stepping noStep) 0 = noStep ∧ recPhase (stepping 4) 0 = pNone ∧
    leAt ((starts 0x22 [(0, 1), (4, 5)]).entry.drop 16) 0 4 = 1 ∧ leAt ((starts 0x22 [(0, 1), (4, 5)]).entry.drop 16) 4 4 = 5 := by decide +kernel
theorem test_step_command : ((after (.step 1) (stepping 4)).qcp.jobs.find 0).map (·.steps) = some (some (5, 5)) ∧ phaseOf (after (.step 1) (stepping 4)) = some .waiting := by
  decide +kernel
theorem test_job_stop : phaseOf (after (.jobStop 1) (does 0x24 [] (trainer jLoaded) on)) = some (.finished .stateConflict) ∧
    ((after (.jobStop 1) (does 0x24 [] serving1 on)).qcp.jobs.find 0).map (·.jstate) = some jLoaded := by decide +kernel
theorem test_witness_freeze : (trainer jRunning).train = true ∧ serving1.train = false := by decide
theorem test_witness_replay : trnPhase (does 0x26 [(0, 3)] (trainer jRunning) on) 0 = 0 ∧ leAt ((starts 0x26 [(0, 3)]).entry.drop 16) 0 4 ≠ 0 := by decide
theorem test_witness_adopt : reg (setReg uChip (Off.sysRecStep 0) 7 on) uChip (Off.sysRecStep 0) ≠ noStep ∧ serving1.spare = false ∧
    leAt ((starts 0x28 [(0, 3)]).entry.drop 16) 0 2 < 1024 := by decide
theorem test_witness_snapshot : ∀ p ∈ [(5, 5), (4, 5), (6, 5)], trnDone (setReg uTrn (Off.trnJobDone 0) 5 on) 0 = p.2 ∧
    leAt ((starts 0x2A [(0, p.1)]).entry.drop 16) 0 4 = p.1 := by decide
theorem test_witness_checkpoint : scb on 0 28 2 % 1024 = 0 := by decide +kernel
theorem test_scale_set_disabled : phaseOf (after (.scaleSet 1) (does 0x23 [(4, 1)] serving1 on)) = some (.finished .badArgument) := by decide +kernel

/-! ### Recovery -/

/-- A training job in slot 0 with its recovery area at 0x100000: this module has a rank, ranks 0 and 1 work and rank 2 is a spare. -/
def recB (own : Nat) : Block :=
  let b := setReg uChip (Off.sysRecAreaLo 0) 0x100000 (setFld uCtx Fld.ctxJobCtrlTrain 1 (setFld uCtx Fld.ctxJobCtrlValid 1 (setFld uChip Fld.jxlJobCtrlRank own on)))
  let b := poke 0x110000 (bytes 24 [(0, 1), (8, 1), (16, 2)]) b
  reeve [] (trainer jRunning) b
/-- A message from rank `src` stands in its slot. -/
def told (m : RecMsg) (b : Block) : Block := poke (0x100000 + 64 * m.src) m.bytes b
def msg (kind src : Nat) (ranks : List Nat) (arg : Nat) : RecMsg := ⟨5, kind, src, 1, 9, ranks, arg⟩
def withRec (r : RecJob) (b : Block) : Block := { b with rec' := [(0, r)] }

/-- A message of each KIND is new once, and its fields read back. -/
theorem test_witness_messages : ([1, 2, 3, 4, 5, 6, 7, 8, 9, 10, 11, 12].all fun k => newMsg (told (msg k 1 [1] 3) (recB 0)) 0 1 == some (msg k 1 [1] 3)) = true ∧
    recWatched (told (msg 1 1 [1] 3) (recB 0)) 0 = true ∧ newMsg (recB 0) 0 1 = none ∧ recWatched on 0 = false ∧ mainOn (recB 0) = true := by decide +kernel
/-- Rank 0 leads and rank 1 does not; rank 2 is the spare. -/
theorem test_witness_lead : isLead (recB 0) 0 = true ∧ isLead (recB 1) 0 = false ∧ leadOf (recB 1) 0 = some 0 ∧ spares (recB 0) 0 = [2] ∧
    roleOf (recB 2) 0 (ownRank (recB 2) 0) = 2 ∧ ownRank (recB 1) 0 = 1 := by decide +kernel
theorem test_witness_epochs : (recOf (withRec { RecJob.init with epoch := 4 } on) 0).epoch < (msg 3 1 [] 0).epoch ∧
    (recOf (withRec { RecJob.init with epoch := 5, lead := some 2 } on) 0).lead = some 2 ∧ (msg 3 1 [] 0).src < 2 ∧
    (recOf (withRec { RecJob.init with epoch := 5, lead := some 0 } on) 0).lead = some 0 ∧ 0 ≤ (msg 3 1 [] 0).src ∧
    (msg 3 1 [] 0).epoch < (recOf (withRec { RecJob.init with epoch := 6 } on) 0).epoch := by decide
/-- The lead with both FROZENs, and with one of them. -/
def leading (fs : SMap (Nat × Nat)) : Block := setFld uChip Fld.sysRecStatePhase pFrozen (withRec { RecJob.init with epoch := 5, lead := some 0, failed := [3], frozen := fs } (recB 0))
theorem test_witness_frozen : let c (fs : SMap (Nat × Nat)) := modRec 0 (fun x => { x with frozen := x.frozen.put 1 (9, 3) }) (leading fs)
    allFrozen (c [(0, (9, noStep))]) 0 = true ∧ allFrozen (c []) 0 = false ∧ recPhase (c []) 0 = pFrozen ∧ isLead (leading []) 0 = true ∧
    (recOf (leading []) 0).lead = some 0 := by decide +kernel
/-- A rank that failed and whose spare's frames have come is that spare's; its slot is read. -/
theorem test_witness_adopted : adopterOfRank (modFab (fun x => { x with takenBy := [(rankKey 0 1, 2)] }) on) 0 1 = some 2 ∧
    (touchRanges uReeve [(recSlot (recB 0) 0 1, 64)] (recB 0)).1 = .ok ∧
    (touchRanges uReeve [(recSlot (recB 0) 0 1, 64)] (setMark (recSlot (recB 0) 0 1 / 64) (some .uncorr) (recB 0))).1 = .opFailed := by decide +kernel
/-- The lead in REPLAYING with its own REPLAYED; the other comes with ARG 1 or 0. -/
def replaying : Block := setFld uChip Fld.sysRecStatePhase pReplaying (withRec { RecJob.init with lead := some 0, replayed := [(0, true)] } (recB 0))
theorem test_witness_replayed : let c (arg : Nat) := modRec 0 (fun x => { x with replayed := x.replayed.put 1 (bitOf arg 0) }) replaying
    isLead replaying 0 = true ∧ recPhase replaying 0 = pReplaying ∧ (recOf (c 0) 0).replayed.any (fun x => !x.2) = true ∧
    (recOf (c 1) 0).replayed.any (fun x => !x.2) = false ∧ ((working (c 1) 0).all fun k => ((recOf (c 1) 0).replayed.find k).isSome) = true := by decide +kernel
theorem test_halt : let b := after (.halt 0 1) (told (msg 11 1 [] 3) (recB 0))
    recPhase b 0 = pCkptNeeded ∧ (b.qcp.jobs.find 0).map (·.jstate) = some jFrozen := by decide +kernel
theorem test_witness_rec_repeat : leadOf (told (msg 12 0 [] 0) (recB 1)) 0 = some (msg 12 0 [] 0).src ∧ leadOf (told (msg 12 1 [] 0) (recB 0)) 0 ≠ some (msg 12 1 [] 0).src := by
  decide +kernel
/-- The spare that took rank 1, and rank 0 whose mirror is of rank 1 (MIRROR_PRED of its step control block). -/
def fills (own : Nat) (mine : Bool) : Block := poke 28 (leBytes 2 1) (withRec { RecJob.init with base := 8, adopted := [(1, 2)], mine := mine } (recB own))
theorem test_witness_rank_fill : (recOf (fills 1 true) 0).adopted.find 1 = some 2 ∧ (recOf (fills 1 true) 0).fills.contains 1 = false ∧ ownRank (fills 1 true) 0 = 1 ∧
    ownRank (fills 0 false) 0 ≠ 1 ∧ scb (fills 0 false) 0 28 2 % 1024 = 1 := by decide +kernel
theorem test_witness_fill_total : (trnOf (fills 1 true) 0).failed = none ∧ fillTotal (fills 1 true) 0 ≤ (recOf (fills 1 true) 0).fillBytes ∧
    (recOf (fills 1 true) 0).fillBytes < fillTotal (poke 176 (leBytes 8 0x600000 ++ leBytes 8 4096) (fills 1 true)) 0 ∧
    reg (setReg uChip (Off.sysRecStep 0) 8 on) uChip (Off.sysRecStep 0) ≠ noStep := by decide +kernel
theorem test_witness_step_undo : recPhase (setFld uChip Fld.sysRecStatePhase pAdopting (recB 0)) 0 = pAdopting ∧ (recOf (recB 0) 0).mine = false := by decide
theorem test_witness_withdraw : (recB 0).qcp.jobs.find 0 = some (trainer jRunning) ∧ on.qcp.jobs.find 0 = none := by decide
/-- Of three working ranks, 1 and 3 are silent; or rank 1 alone. -/
def silentB (l : List Nat) : Block := let c := poke 0x110018 [1] (recB 0)
  { c with fab := { c.fab with silent := l } }
def quietOf (b : Block) (ws : List Nat) : Nat :=
  (ws.filter fun r => isSilent b 0 r && (b.fab.beats.find (rankKey 0 r)).elim true fun y => decide (y.at' + 20000 ≤ b.face.time)).length
theorem test_witness_majority : Machine.working (silentB []) 0 = [0, 1, 3] ∧ quietOf (silentB [1, 3]) [0, 1, 3] = 2 ∧ quietOf (silentB [1]) [0, 1, 3] = 1 ∧
    ownRank (silentB []) 0 = 0 := by decide +kernel
/-- A block restore at an address of no array, of a stash area at 0x500000 of 64 bytes, and of an area of 4096 bytes at 0x600000. -/
def scbB : Block := poke 112 (leBytes 8 0x500000 ++ leBytes 8 64) (recB 0)
theorem test_witness_block_restore : slotTrains scbB 0 = true ∧ rewrittenRegion scbB 0 0x500000 = true ∧ rewrittenRegion scbB 0 0x700000 = false ∧
    blockAt (restoredArrays scbB 0) 0x700000 = none ∧ (recOf scbB 0).owed = [] ∧ trnPhase scbB 0 = 0 ∧ trnPhase (setPhaseTrn 0 1 scbB) 0 = 1 ∧
    (recOf (withRec { RecJob.init with owed := [0x600000] } scbB) 0).owed.contains 0x600000 = true ∧ blockAt (restoredArrays scbB 0) 0x500000 = none := by decide +kernel
def scbLog : Block := poke 176 (leBytes 8 0x600000 ++ leBytes 8 4096) scbB
theorem test_witness_block_restore_area : blockAt (restoredArrays scbLog 0) 0x600000 = some (⟨0xFFFF, 4, 0x600000, 4096, 4⟩, 0) := by decide +kernel
/-- A rank without a spare in RESHARDING, with a plan of 256 bytes. -/
def shrinking : Block := poke 0x112010 (leBytes 8 0x200000 ++ leBytes 4 256)
  (setFld uChip Fld.sysRecStatePhase pResharding (withRec { RecJob.init with failed := [1], base := 8 } (recB 0)))
theorem test_witness_shrink : untaken shrinking 0 = [1] ∧ recPhase shrinking 0 = pResharding ∧
    0 < (planOf shrinking 0 1).2 ∧ recPhase (recB 0) 0 ≠ pResharding := by decide +kernel
theorem test_localisation : let b := setFld uQcp Fld.qcpDevstateState dsReady on
    ownOf (after (.localisation [uTile 3] false) b) (uTile 3) = hOffline ∧ devState (after (.localisation [uTile 3] false) b) = dsQuarantined ∧
    devState (after (.localisation [] false) b) = dsReady := by decide +kernel

/-! ### Register access -/

/-- A bring-up session of the tally server, and a frame for it on TRA. -/
def raSess : Sess := { sess1 with ra := true, ring := true }
def raFrame (l : List Byte) : List Byte := [2, 0, 0, 0, 0, 7] ++ List.replicate 6 4 ++ [0x88, 0xB7] ++ l
def raOn (l : List Byte) (b : Block) : Block := { b with qcp := { b.qcp with sessions := [raSess], ringIn := [(2, raFrame l)] } }
theorem raIn_frame (l : List Byte) : raIn 2 (raFrame l) = some (⟨2, List.replicate 6 4, [], [], 0⟩, l) := by
  have a : (raFrame l).take 6 = [2, 0, 0, 0, 0, 7] := rfl
  have c : ((raFrame l).drop 6).take 6 = List.replicate 6 4 := rfl
  have d : ((raFrame l).drop 12).take 2 = [0x88, 0xB7] := rfl
  have e : (raFrame l).drop 14 = l := rfl
  simp only [raIn, ethHead, a, c, d, show beNat [0x88, 0xB7] = 0x88B7 by decide, show beNat [2, 0, 0, 0, 0, 7] = 0x0200_0000_0007 by decide,
    ethPayload, tagBytes, e]
  rfl
def raHd (op n : Nat) : QHead := ⟨false, false, op, 1, 1, 0, n, zeros 8⟩
/-- Clear frames of OPEN and CLAIM, one that does not decode, and one a device sends. -/
theorem test_witness_ra_open (op : Nat) (h : op < 2 ^ 16) (l : List Byte) (hl : l.length ≤ 8960) :
    raHead 2 0 (raOn ((raHd op l.length).bytes ++ l ++ zeros 16) on) = some (raFrame ((raHd op l.length).bytes ++ l ++ zeros 16)) ∧
    raIn 2 (raFrame ((raHd op l.length).bytes ++ l ++ zeros 16)) = some (⟨2, List.replicate 6 4, [], [], 0⟩, (raHd op l.length).bytes ++ l ++ zeros 16) ∧
    qcpParse ((raHd op l.length).bytes ++ l ++ zeros 16) = some (raHd op l.length, l, zeros 16) :=
  ⟨rfl, raIn_frame _, qcpParse_frame _ l (zeros 16) rfl rfl rfl h (by decide : 1 < 2 ^ 32) (by decide : 1 < 2 ^ 64) (by decide : 0 < 2 ^ 18) hl⟩
theorem test_witness_ra_refused : raOp (raHd 0x101 0).op = true ∧ raOp (raHd 0x102 0).op = false ∧ raHead 2 0 on = none := by decide
theorem test_witness_ra_sealed (op : Nat) (v : List Byte) : let s := gcmSeal raSess.kIn (qcpNonce 1 false) (raHd op v.length).bytes v
    ∃ x d, sessTake true true flow1 (raHd op v.length) s.1 s.2 (raOn [] on) = (some (x, v), d) :=
  ⟨_, _, sessTake_seal flow1 (raHd op v.length) v (raOn [] on) raSess rfl rfl rfl rfl (show seqOk raSess 1 = true by decide)⟩
theorem test_witness_ra_may : raMayWrite true on = true ∧ mainOn on = true ∧ raMayWrite true (reeve [] serving1 on) = false := by decide
/-- An entry of RA_OPS on the unit's register CAP of FE0, with its OP, value, mask. -/
def raEntryOf (op v m : Nat) : List Byte := bytes 24 [(0, op), (4, 1), (10, uFe 0 % 16 * 16), (11, uFe 0 / 16), (13, 0x20), (16, v), (20, m)]
def raRunOn (op v m : Nat) (b : Block) : Block :=
  { raOn [] b with qcp := { (raOn [] b).qcp with ra := [⟨1, ⟨2, [], [], [], 0⟩, [raEntryOf op v m], [], some 0⟩] } }
theorem test_witness_ra_entry : (raAddr (raEntryOf 1 0 0)).isSome = true := by decide +kernel
theorem test_witness_ra_run : raRun 2 (raRunOn 1 0 0 on) = some ⟨1, ⟨2, [], [], [], 0⟩, [raEntryOf 1 0 0], [], some 0⟩ := by decide +kernel
theorem test_witness_ra_access : ∀ p ∈ raAddr (raEntryOf 1 0 0), (regRead uTly p.1 p.2 (raRunOn 1 0 0 on)).1 = .ok ∧
    (regRmw uTly false p.1 p.2 0 0 (raRunOn 3 0 0 on)).1 = .ok ∧ Nat.land (regRead uTly p.1 p.2 (raRunOn 4 0 0 on)).2.1 0 = 0 := by decide +kernel
theorem test_ra_poll_timeout : let b := { raRunOn 4 1 1 on with face := { (raRunOn 4 1 1 on).face with time := 1000 } }
    (raRun 2 (after (.raPollTimeout 2) b)).map (·.left) ≠ some [raEntryOf 4 1 1] ∧ (0 : Nat) + 1000 * leAt (raEntryOf 4 1 1) 4 4 ≤ b.face.time := by decide +kernel

/-! ### Bring-up, resets, security -/

def stage (n : Nat) (b : Block) : Block := setFld uChip Fld.sysBootStageStage n b
theorem test_witness_bring_up : (∀ n ∈ [0, 1, 2, 3, 4, 5], bootStage (stage n on) = n) ∧ on.boot.running = none ∧ on.tly.ref0 = true ∧
    bootStage (stage 1 on) ∉ [0] := by decide
theorem test_reject : flag (after .verify on) uChip Fld.sysBootStatusCmdReject = true ∧ (after .verify on).boot.running = none := by decide +kernel
theorem test_spines : (after .spines on).boot.running = some ⟨0, .ok, 0⟩ ∧ (after (.train [3])
    { stage 1 on with tly := { on.tly with ref0 := false } }).boot.running = some ⟨1, .opFailed, 0⟩ := by decide +kernel
theorem test_action_end : let b := after .bootActionEnd { stage 1 on with boot := { on.boot with running := some ⟨1, .ok, 3⟩ } }
    bootStage b = 2 ∧ reg b uChip Off.sysBootResult = 2 ^ 24 + 3 := by decide +kernel
theorem test_witness_action_end : ({ on with boot := { on.boot with running := some ⟨3, .ok, 0⟩, loads := [⟨1, [], [], 0⟩] } } : Block).boot.loads ≠ [] := by decide
def chunk : Chunk := ⟨1, 0, 1, crc32c [1, 2], crc32c [1, 2], [1, 2]⟩
theorem test_load_chunk : (crc32c chunk.data = chunk.crc) ∧ loadState (beginTarget 64 chunk on) 64 = 1 ∧ ownOf on 64 ≠ hOffline ∧ absorbing on 64 = false ∧
    (beginTarget 64 chunk on).boot.targets.find 64 = some ⟨1, 1, chunk.imageCrc, []⟩ ∧ loadState (after (.loadChunkReceive 64 chunk) on) 64 = 2 := by decide +kernel

theorem test_witness_resets : resetReach (uTile 0) = [uTile 0] ∧ rstOf on (uTile 0) = none ∧ resetReach uQcp = [] ∧ rstOf on uChip = none ∧
    rstOf (after (.pulse 64 3) on) 64 = some ⟨0, 3, true, false⟩ ∧ rstOf (after (.hold 64 true 3) on) 64 = some ⟨0, 3, false, false⟩ := by decide +kernel
theorem test_reset_done : ownOf (after (.sysResetDone 64 true) (after (.pulse 64 0) on)) 64 = hGood ∧ memberWaits (after (.pulse 64 0) on) 64 = false ∧
    flag (after (.sysResetDone 64 true) (after (.pulse 64 0) on)) 64 Fld.unitResetInReset = false := by decide +kernel
theorem test_reset_abandoned : let b := after (.pulse 64 3) on
    reg (after (.resetDrainTimeout 64) { b with face := { b.face with time := 2000 } }) uChip Off.sysRstAbandonedLo = 3 := by decide +kernel

theorem test_floor : let b := { on with boot := { on.boot with fwSvn := 9 } }
    (after (.secFloorRaise 9) b).tly.store.floor = 9 ∧ (after (.secFloorRaise 9) b).tly.store.floorIncs = 9 ∧ (after (.secFloorRaise 10) b).tly.store.floor = 0 ∧
    flag (after (.secFloorRaise 10) b) uSec Fld.secStatusLimitRefused = true := by decide +kernel
theorem test_witness_rng : rngOk on = false ∧ rngOk (setFld uSec Fld.secStateRngOk 1 on) = true := by decide
theorem test_witness_keyx_resend : ({ on with fab := { on.fab with agree := [(rankKey 0 1, ⟨0, some [], [], [], none, false, 0⟩)] }, face := { on.face with time := 10000 } } : Block).fab.agree.find
    (rankKey 0 1) = some ⟨0, some [], [], [], none, false, 0⟩ := by decide

/-! ### Power and the tally die -/

def powered (w c v : Nat) (b : Block) : Block := setReg uPwr Off.pwrCap (c * 2 ^ 24 + w) (setFld uPwr Fld.pwrStateVcode v b)
theorem test_witness_cap : (800 ≤ 900) ∧ bitsOf 0x1400_0384 29 24 = 0x14 ∧ 0x1400_0384 % 2 ^ 16 = 900 ∧ 900 ≤ (if Config.variantAA then 1000 else 1500) ∧
    0x14 ≤ envelopeCode := by
  refine ⟨by decide, by decide, by decide, ?_, ?_⟩
  · split <;> decide
  · unfold envelopeCode; split <;> decide
theorem test_witness_cap_loop : fld (powered 900 20 5 on) uPwr Fld.pwrCapWatts = 900 ∧ vcode (powered 900 20 5 on) = 5 ∧ fld (powered 900 20 5 on) uPwr Fld.pwrStateDstate = 0 ∧
    (on.tly.junction.any fun p => decide (throttleTemp on ≤ signedOf 8 p.2)) = false ∧ on.tly.junction.all (fun p => decide (signedOf 8 p.2 < throttleTemp on - 3)) = true := by
  decide +kernel
theorem test_witness_raise (h : Config.variantAA = false ∨ Config.variantAA = true) : 5 < vmax (powered 900 20 5 on) := by
  have e : fld (powered 900 20 5 on) uPwr Fld.pwrCapVceil = 20 := by decide +kernel
  simp only [vmax, envelopeCode, e]
  rcases h with h | h <;> simp [h]
theorem test_witness_raise_due : let b := { on with tly := { on.tly with raiseAt := 0 }, face := { on.face with time := 1000 } }
    b.tly.raiseAt + 1000 ≤ b.face.time := by decide
def later (n : Nat) (b : Block) : Block := { b with face := { b.face with time := n } }
def over0 : Block := { powered 900 20 0 on with tly := { on.tly with overAt := some 0 } }
theorem test_cap_unmet : (after (.pwrCapUnmet 901) over0).tly.capOff = 0 ∧
    (after (.pwrCapUnmet 901) (later 10000 over0)).tly.capOff = 8 := by decide +kernel
theorem test_cap_loop_due : on.tly.loopAt + 100 ≤ (later 100 on).face.time ∧ on.face.time < on.tly.loopAt + 100 := by decide
/-- A junction at 110 degrees against a shutdown at 105, and all at 30. -/
theorem test_thermal : let b := later 250 (setFld uPwr Fld.pwrThermShutdown 105 (powered 900 20 5 on))
    (after (.thermalSample [110] [30]) b).tly.isOver = true ∧ mainOn (after (.thermalSample [110] [30]) { b with tly := { b.tly with isOver := true } }) = false ∧
    mainOn (after (.thermalSample [30] [30]) { b with tly := { b.tly with isOver := true } }) = true := by decide +kernel
theorem test_rail : mainOn (after (.tlyRailUv 3) on) = false ∧ (after (.tlyRailUv 3) on).tly.cut = true ∧
    ((after (.tlyRailUv 3) on).bbQueue.getLast?.map (·.kind)) = some 2 := by decide +kernel
theorem test_refclk : powerState on = 0 ∧ mainOn (after (.tlyRefclkLost 0) on) = false ∧ powerState blockFresh = 3 ∧ mainOn (after (.tlyRefclkLost 1) on) = true := by
  decide +kernel
theorem test_reeve_fault : Machine.started (reeve [] serving1 on) = true ∧ Machine.started on = false ∧ devState (after .reeveFault (reeve [] serving1 on)) = dsFault := by decide +kernel

theorem test_feed_lost : on.tly.powered = true ∧ (feedOf on 0).on = true ∧ mainOn (after (.tlyFeedLost 0 1 400) on) = true ∧
    mainOn (after (.tlyFeedLost 1 1 400) (after (.tlyFeedLost 0 1 400) on)) = false ∧ (after (.tlyFeedLost 1 1 400) (after (.tlyFeedLost 0 1 400) on)).tly.lossAt = some 0 := by
  decide +kernel
theorem test_feed_back : feedOf (after (.tlyFeedBack 0 540) (later 100000 (after (.tlyFeedLost 0 1 400) on))) 0 = ⟨540, true, 100000⟩ ∧
    feedOf (after (.tlyFeedBack 0 540) (after (.tlyFeedLost 0 1 400) on)) 0 = ⟨400, false, 0⟩ := by decide +kernel
/-- The tally die as it stands once the hold-up has ended. -/
def dead : Block := after .holdupEnd (later 200000 { on with tly := { on.tly with lossAt := some 0 } })
theorem test_holdup_end : dead.tly.powered = false ∧ bypassClosed dead = true ∧
    (after .holdupEnd { on with tly := { on.tly with lossAt := some 0 } }).tly.powered = true := by decide +kernel
theorem test_power_up : (after (.tallyPowerUp 540 540) dead).tly.powered = true ∧ fld (after (.tallyPowerUp 540 540) dead) uTly Fld.tlyPowerPoweron = 1 := by decide +kernel
theorem test_on : flag blockFresh uTly Fld.tlyPowerHoldupOk = false ∧ (after .on blockFresh).face.replies = [⟨.busy, 0⟩] ∧
    flag (setFld uTly Fld.tlyPowerHoldupOk 1 blockFresh) uTly Fld.tlyPowerHoldupOk = true ∧ (after .on on).face.replies = [⟨.stateConflict, 0⟩] := by decide +kernel
theorem test_off : mainOn (after .off on) = false ∧ (after .treset (after .off on)).face.time = on.face.time := by decide +kernel
theorem test_ring_write : bypassClosed (after (.tlyRingWrite 0x8000_0000 false) on) = true ∧ bypassClosed (after (.tlyRingWrite 0 true) on) = false ∧
    bypassClosed (after (.tlyRingWrite 0 false) (after (.tlyRingWrite 0x8000_0000 false) on)) = true := by decide +kernel
theorem test_witness_ring_frame : bypassClosed on = false ∧ bypassClosed dead = true := by decide +kernel
def bbRec : BbRec := ⟨1, 5, 7, 2, 2, 0, zeros 24⟩
theorem test_bb_write : let b := { on with bbQueue := [bbRec], tly := { on.tly with bucket := 2 } }
    (after .bbRecordWrite b).bbQueue = [] ∧ (after .bbRecordWrite b).tly.store.bbHead = on.tly.store.bbHead + 1 ∧ (after .bbRecordWrite b).tly.bucket = 1 ∧
    bbDroppable bbRec = false ∧ bbDroppable { bbRec with sev := 0 } = true := by decide +kernel
theorem test_bb_refill : let b := { on with tly := { on.tly with bucket := 0, refillAt := 0 }, face := { on.face with time := 3500 } }
    (after .bbBucketRefill b).tly.bucket = 3 := by decide +kernel

/-! ### The queue and the limits -/

theorem test_idle : step State.reset = .next State.reset := rfl
theorem test_front : (match step ⟨on, [.off, .on]⟩ with | .next s => s.pending | _ => []) = [.on] := by decide +kernel
theorem test_witness_limits : Limits State.reset.blk := ⟨by decide, by decide, by decide, fun _ => Nat.zero_le _, fun _ => Nat.zero_le _⟩

/-! ### Boundary cases of the statements -/

theorem test_witness_still : anySegment on = false ∧ tileHeld on 0 = false ∧ unitHeld on (uGleaner 0) = false ∧ isWaitCounter (uTile 0) Off.unitStatus = false := by
  decide
/-- A dispatched batch of a tile whose stream has faulted and drained is abandoned with it. -/
theorem test_op_fault_batch : (batch .faulted).ctx.batches.find? (fun x => x.tiles.contains 0) = some ⟨0, 7, [(0, 0)], [0], 3⟩ ∧
    (after (.tilOpFault 0) (batch .faulted)).ctx.batches = [] := by decide +kernel
/-- A get that meets sixteen gets commits first: with a quantum to run the gleaner goes on, past it it stands PAUSED. -/
def fullSegment (giveUp : Bool) : Block := modGl 0 (fun x => { x with giveUp := giveUp, seg := some ⟨[(0, 0)], 16, []⟩ }) (glRun (rs 0 1 0 1 2) 0 1 [] [])
theorem test_witness_make_room : (glOf (makeRoom 0 0 true (fullSegment true)) 0).run = .paused ∧ (glOf (makeRoom 0 0 true (fullSegment false)) 0).run = .running ∧
    (rsGet 0 0 1 (makeRoom 0 0 true (fullSegment false))).1 = .ok := by decide +kernel
/-- A get of a line that cannot be corrected ends the run and tells where. -/
theorem test_get_site : (glOf (runFault 0 .opFailed (rsGet 0 0 1 (setMark 0 (some .uncorr) (glRun (rs 0 1 0 1 2) 0 1 [] []))).2) 0).failed = some (.line 0) ∧
    (rsGet 0 0 1 (setMark 0 (some .uncorr) (glRun (rs 0 1 0 1 2) 0 1 [] []))).1 = .opFailed := by decide +kernel
/-- A borrow taken back while it saves lends nothing; one whose stream has ended goes home. -/
theorem test_lend_due : (lendOf (after (.reclaim 0) (lend .saving)) 0).due = true ∧
    (lendOf (after (.borrowSaveDone 0) (setTile 0 { Tile.init with stream := .ended } (lend .saving))) 0).state = .home := by decide +kernel
theorem test_witness_restoring : (lendOf (lend .restoring) 0).state = .restoring ∧ (tileOf (lend .restoring) 0).held = [] ∧ (tileOf (lend .restoring) 0).lockstep = false := by
  decide
/-- A step waits for the RESHARD that is due; the first step after 8-bit gradients sends the residue. -/
theorem test_witness_reshard_first : (trnOf (modJob 0 (fun x => { x with reshardTo := some [] }) training) 0).reshardTo ≠ none ∧ stepOpen training 0 = false ∧
    (trnOf training 0).reshardTo = none ∧ (trnOf training 0).stallFail = false := by decide
theorem test_residue : sendGrads false true [one32] [one32] = (leBytes 4 0x40000000, [0]) ∧ sendGrads false false [one32] [one32] = (leBytes 4 one32, [one32]) := by
  decide +kernel
/-- RESHARD with one due already, once its PERMUTEs are complete, or have failed, and before. -/
theorem test_witness_reshard_cases : let b := (argBlock (blockCmd 0x29 256) (blockRuns 0x29 [] 256 [(0, trainer jLoaded)])).2.2
    let due (m : Option Status) (c : Block) := (reshardDue 0 (modJob 0 (fun x => { x with moved := m, reshardTo := some (zeros 256) }) c)).1
    (trnOf b 0).reshardTo = none ∧ (trnOf (modJob 0 (fun x => { x with reshardTo := some [] }) b) 0).reshardTo ≠ none ∧ due none b = none ∧
    due none (setPhaseTrn 0 2 b) = none ∧ due (some .ok) (setPhaseTrn 0 7 b) = some .ok ∧ due (some .opFailed) (setPhaseTrn 0 7 b) = some .opFailed := by
  decide +kernel
/-- The module without the main domain answers a message of the tally interface. -/
theorem test_tally_mailbox : windowThere blockFresh uTly = true ∧ inReset blockFresh uTly = false ∧
    reg (after (.mbxReply 2) (setReg uTly Off.mbxCtrl (2 ^ 16) blockFresh)) uTly Off.mbxCtrl = 2 ^ 16 + 1 := by decide
/-- A collective's frame to no member ends without an answer of the outside. -/
theorem test_request_collective : ({ req1 with kind := 5 }).kind = 5 ∧ slotValid on ({ req1 with kind := 5 }).job = false := by decide
/-- A link's MAC works in Ethernet mode alone; a port of an FE comes up with four lanes. -/
theorem test_witness_mac_works : macWorks on (uFe 0) = true ∧ macWorks on (macUnit 2) = false ∧ phyFits on (uFe 0) 2 4 = true ∧ phyFits on (uFe 0) 2 8 = false := by decide
/-- A page-in of another generation. -/
theorem test_witness_chunk_gen : (pageRefusal sess1 0 { pagingB with ctx := { hostB.ctx with pageIns := [⟨0, 0, 7, 0, [], none⟩] } }).2.ctx.pageIns.find?
    (fun z => z.queue = 0 ∧ z.page = 0) = some ⟨0, 0, 7, 0, [], none⟩ ∧ leAt (zeros 8) 4 4 ≠ 7 := by decide +kernel
/-- ADOPT naming no rank, a rank whose spare is gone, and a spare that adopts. -/
theorem test_witness_adopt_none : (msg 5 0 [] 0).ranks = [] ∧ takerOf (assignSpares 0 [1] (poke 0x110010 [0] (recB 0))).2 0 1 = none := by decide +kernel
/-- SHRINK with its plan read, and with a step of the job still open. -/
theorem test_witness_shrink_due : let p := granaryRead ⟨uReeve, none, false, false⟩ (planOf shrinking 0 1).1 (planOf shrinking 0 1).2 shrinking
    p.1 = .ok ∧ (reshardDue 0 (modJob 0 (fun x => { x with reshardTo := some p.2.1 }) (setPhaseTrn 0 2 p.2.2))).1 = none ∧
    (reshardDue 0 (modJob 0 (fun x => { x with moved := some .ok, reshardTo := some p.2.1 }) (setPhaseTrn 0 7 p.2.2))).1 = some .ok := by decide +kernel
/-- A restore of a mirrored area, the first of its step. -/
theorem test_witness_restore_mirror : (countRestore 0 scbLog).1 ≤ 64 ∧ blockAt (restoredArrays scbLog 0) 0x600000 = some (⟨0xFFFF, 4, 0x600000, 4096, 4⟩, 0) := by
  decide +kernel
/-- Localisation that found nothing, at the module that adopted. -/
def adopter : Block := setFld uChip Fld.sysRecStatePhase pCkptNeeded (withRec { RecJob.init with mine := true } (recB 0))
theorem test_witness_localise_none : (adopter.rec'.any fun r => r.2.mine && recPhase adopter r.1 == pCkptNeeded) = true := by decide +kernel
theorem test_poll_none : recWatched on 0 = false ∧ recWatched (recB 0) 0 = true := by decide

/-! ### The line code -/

/-- A line as written has syndrome 0. -/
theorem test_line_word : syndrome (lineWord ((List.range 64).map (BitVec.ofNat 8)) 7) = (0, 0, 0) := by decide +kernel
/-- One symbol is corrected, two are detected, and the poison pattern is two check symbols inverted (R193, R197). -/
theorem test_line_errors : errorClass [(5, 0x10)] = some .corr ∧ errorClass [(5, 0x10), (6, 1)] = some .uncorr ∧
    errorClass [(69, 0xFF), (70, 0xFF)] = some .poison ∧ errorClass [(5, 1), (5, 1)] = none := by decide +kernel
/-- Nothing outstanding: the unit is cleared at once; a lost REFCLK1 takes a port down. -/
theorem test_reset_cleared : rstOf (after (.pulse 64 0) on) 64 = some ⟨0, 0, true, true⟩ ∧ rstOf (after (.hold 64 true 0) on) 64 = some ⟨0, 0, false, true⟩ ∧
    resetReach 64 = [64] ∧ rstOf on 64 = none := by decide +kernel
theorem test_refclk_ports : uFe 0 ∈ ref1Ports on ∧
    (portOf (after (.tlyRefclkLost 1) (setPort (uFe 0) { MacPort.init with link := true } on)) (uFe 0)).link = false := by decide +kernel

/-! ### Cases of later clauses -/

/-- Nothing of a job has failed; no put of a run has. -/
theorem test_witness_no_failure : (trnOf on 0).failed = none ∧ (glOf (glRun 0 1 0 [] []) 0).putFail = none := by decide
/-- No unit stands at index 200, and its mailbox is answered with SYS_ADDR_FAULT. -/
theorem test_witness_no_unit : windowThere on 200 = false ∧ windowThere on 64 = true ∧
    (after (.mbxPost 200 1) on).face.ring.length = 1 ∧ reg (after (.mbxPost 200 1) on) 200 Off.mbxCtrl = 0 := by decide
/-- The links are released with the stage SPINES. -/
theorem test_witness_released : linksReleased (link 1 lsTraining on) = true ∧ linksReleased on = false := by decide
/-- A frame of a rank without a pair, one of a rank with a pair, and one of the spare that took rank 1. -/
theorem test_witness_opens_none (f : List Byte) : openFrom on 0 (head1 1 [9]) f = (none, none) := rfl
theorem openFrom_own (b : Block) (j : Nat) (h : FabHead) (f : List Byte) (p : Pair) (v : Nat × List Byte) (hp : pairOf b j h.src = some p)
    (hv : openFrame p h f = some v) : openFrom b j h f = (some v, none) := by simp [openFrom, hp, hv]
theorem openFrom_spare (b : Block) (j : Nat) (h : FabHead) (f : List Byte) (p : Pair) (v : Nat × List Byte) (hn : pairOf b j h.src = none)
    (hr : roleOf b j h.src = 3) (h0 : roleOf b j 0 = 2) (hp : pairOf b j 0 = some p) (hv : openFrame p h f = some v) :
    openFrom b j h f = (some v, some 0) := by
  simp [openFrom, hn, hr, List.range_succ_eq_map (n := 1023), h0, hp, hv]
theorem test_witness_opens (kind : Nat) : openFrom fabOn 0 (head1 kind [9]) (frame1 kind [9]) = (some (0, [9]), none) :=
  openFrom_own _ _ _ _ pair1 _ (by show pairOf fabOn 0 1 = _; decide) (test_witness_frame_opens kind)
def spareOn : Block := poke 0x110000 (bytes 16 [(0, 2), (8, 3)]) (setReg uChip (Off.sysRecAreaLo 0) 0x100000 (setPair 0 0 pair1 on))
theorem test_witness_opens_taken (kind : Nat) : openFrom spareOn 0 (head1 kind [9]) (frame1 kind [9]) = (some (0, [9]), some 0) :=
  openFrom_spare _ _ _ _ pair1 _ (by show pairOf spareOn 0 1 = _; decide) (by show roleOf spareOn 0 1 = _; decide) (by decide) (by decide)
    (test_witness_frame_opens kind)
/-- A collective whose descriptor, and one whose group entry, cannot be corrected. -/
theorem test_witness_collective_unread :
    ((collsOf (after (.barrier 0) (setMark (0x2000000 / 64) (some .uncorr) (coll 8 4))) 0).map (·.status)) = [some .opFailed] ∧
    ((collsOf (after (.barrier 0) (setMark (0x3000000 / 64) (some .uncorr) (coll 8 4))) 0).map (·.status)) = [some .opFailed] := by decide +kernel
/-- An engine in reset starts no collective. -/
theorem test_witness_engine_held : absorbing (setFld (uCol 0) Fld.unitResetAbsorbing 1 (coll 8 4)) (uCol 0) = true ∧
    collsOf (after (.barrier 0) (setFld (uCol 0) Fld.unitResetAbsorbing 1 (coll 8 4))) 0 = [] := by decide +kernel
/-- A MAC that does not receive. -/
theorem test_witness_no_receive : flag (paused 1 .init) (uFe 0) Fld.macCtrlRxEn = true ∧
    (portOf (after (.pauseFrameReceive 0 2) (setFld (uFe 0) Fld.macCtrlRxEn 0 (paused 1 .init))) (uFe 0)).held = [] := by decide +kernel
/-- HALT 5 at the lead from another member; HALT 1 names the base step. -/
theorem test_witness_halts : (msg 11 1 [] 5).arg % 16 = 5 ∧ (msg 11 1 [] 1).arg % 16 = 1 ∧ (msg 11 1 [] 4).arg % 16 = 4 ∧
    (msg 11 1 [] 5).src ≠ ownRank (recB 0) 0 := by decide
/-- A plan that cannot be read. -/
theorem test_witness_plan_unread : let b := setMark (0x200000 / 64) (some .uncorr) shrinking
    (granaryRead ⟨uReeve, none, false, false⟩ (planOf b 0 1).1 (planOf b 0 1).2 b).1 ≠ .ok := by decide +kernel
/-- VERIFY with nothing staged, and with the first unit of an empty image staged. -/
def imaged : Block := { stage 2 on with boot := { on.boot with staged := [0] } }
theorem test_witness_verify : firstMissing (stage 2 on) = some 0 ∧ firstMissing imaged = none ∧ (after .verify imaged).boot.running = some ⟨2, .badArgument, 0⟩ ∧
    (after .verify (stage 2 on)).boot.running = some ⟨2, .notPresent, 0⟩ := by decide +kernel
/-- At STARTED in BOOT the end of the set-up makes the device READY. -/
theorem test_witness_setup_end : let b := setFld uQcp Fld.qcpDevstateState dsBoot (stage 6 on)
    bootStage b = 6 ∧ devState b = dsBoot ∧ b.boot.running = none ∧ devState (after .bootActionEnd { b with boot := { b.boot with running := some ⟨5, .ok, 0⟩ } }) = dsBoot := by
  decide +kernel
/-- A target that holds its image, and one in reset. -/
theorem test_witness_chunk_cases : loadState (beginTarget 64 chunk (after (.loadChunkReceive 64 chunk) on)) 64 = 2 ∧
    absorbing (after (.pulse 64 1) on) 64 = true ∧ chunk.num < chunk.count ∧ crc32c [1] ≠ chunk.crc := by decide +kernel
/-- A load of tile 0 after two rounds, all its chunks lost again: the tile is held. -/
def loading (round : Nat) : Block := { on with boot := { on.boot with loads := [⟨1, [1], [64], round⟩] } }
theorem test_witness_repair_round : targetDone (loading 2) 64 = false ∧ absorbing (loading 2) 64 = false ∧ ([(64, 0)].contains (64, 0)) = true ∧
    [64].all (targetDone (loading 1)) = false := by decide
theorem test_held : let b := after (.loadRepairRound [(64, 0)]) (loading 2)
    ownOf b 64 = hOffline ∧ loadState b 64 = 4 ∧ flag b 64 Fld.unitResetHold = true ∧ b.boot.loads = [] := by decide +kernel
/-- The chip's HOLD holds the module with its rails up; a PULSE then does nothing. -/
def heldModule : Block := setFld uChip Fld.unitResetHold 1 on
theorem test_witness_held_module : railsUp heldModule = true ∧ moduleHeld heldModule = true ∧ mainOn heldModule = false ∧
    moduleHeld on = false := by decide
theorem test_module_hold : railsUp (after (.hold 0 true 0) on) = true ∧ moduleHeld (after (.hold 0 true 0) on) = true := by decide +kernel
/-- A tile whose quad's HOLD stands does not come out; one without does. -/
theorem test_witness_stooks : stooksOf 64 = [16, 32] ∧
    rstOf (after (.hold 64 false 0) (setFld 32 Fld.unitResetHold 1 (after (.hold 64 true 0) on))) 64 = some ⟨0, 0, false, true⟩ ∧
    rstOf (after (.hold 64 false 0) (after (.hold 64 true 0) on)) 64 = some ⟨0, 0, true, true⟩ := by decide +kernel
/-- A gleaner whose region 1 fails its CRC, with no image to mend it, leaves reset OFFLINE. -/
def badGleaner : Block := setRst 4096 (some ⟨0, 0, true, true⟩) (modGl 0 (fun x => { x with imem := [(1, [1])], crcs := [(1, 0)] }) on)
theorem test_witness_bad_region : badRegions (glOf badGleaner 0) = [1] ∧ regionImage badGleaner 4096 1 = none ∧ badRegions (glOf on 0) = [] ∧
    ownOf (after (.sysResetDone 4096 true) badGleaner) 4096 = hOffline := by decide +kernel

end Sys2Proof.Tests
end

section
/-! PROOFS. The common face: sequence-cleared status and event rings (R30, R31, R44 to R47). What the shared operations `setSq`, `writeSq` and
`ringPut` leave in the registers, the bits' own sequences and the ring; the statements follow from these. -/

namespace Sys2Proof.Machine

variable (b : Block)

/-! ### A word with a sequence in [31:16] and bits in [15:0] -/

/-- Every register is a word of 32 bits (R9). -/
theorem reg_lt (u o : Nat) : reg b u o < 2 ^ 32 := (getReg b u o).isLt

theorem seqWord_mod {q l : Nat} (hq : q < 2 ^ 16) (hl : l < 2 ^ 16) : (q * 2 ^ 16 + l) % 2 ^ 32 = q * 2 ^ 16 + l := by omega

theorem seqWord_div {q l : Nat} (hq : q < 2 ^ 16) (hl : l < 2 ^ 16) : (q * 2 ^ 16 + l) % 2 ^ 32 / 2 ^ 16 = q := by omega

theorem bitOf_seqWord {q l i : Nat} (hq : q < 2 ^ 16) (hl : l < 2 ^ 16) (hi : i < 16) :
    bitOf ((q * 2 ^ 16 + l) % 2 ^ 32) i = bitOf l i := by
  rw [seqWord_mod hq hl, bitOf, Nat.mul_comm, Nat.testBit_two_pow_mul_add q hl, if_pos hi, bitOf]

theorem bitOf_mod_two_pow {v n i : Nat} (hi : i < n) : bitOf (v % 2 ^ n) i = bitOf v i := by
  simp [bitOf, Nat.testBit_mod_two_pow, hi]

/-- A one-bit field is set exactly when its bit of the register is. -/
theorem flag_eq_bitOf (u : Nat) (f : Field) (i : Nat) (h : f.hi = f.lo) :
    flag b u f i = bitOf (reg b u (f.off + f.stride * i)) f.lo := by
  have hw : f.lo + 1 - f.lo = 1 := by omega
  simp [flag, fld, bitsOf, bitOf, h, hw, Nat.testBit, Nat.one_and_eq_mod_two]

/-! ### Setting a bit (R44) -/

theorem reg_setSq (u : Nat) (f : Field) (i u' o' : Nat) :
    reg (setSq u f b i) u' o' = if regKey u' o' = regKey u (f.off + f.stride * i) then
      ((reg b u (f.off + f.stride * i) / 2 ^ 16 + 1) % 2 ^ 16 * 2 ^ 16 + (reg b u (f.off + f.stride * i) % 2 ^ 16 ||| 2 ^ f.lo)) % 2 ^ 32
      else reg b u' o' := reg_setReg b u _ _ u' o'

/-- The low half of an SQ register with one more bit set is still a half word. -/
theorem lor_two_pow_lt {lo : Nat} (v : Nat) (h : lo < 16) : v % 2 ^ 16 ||| 2 ^ lo < 2 ^ 16 :=
  Nat.or_lt_two_pow (Nat.mod_lt _ (by decide)) (Nat.pow_lt_pow_right (by decide) h)

theorem seq_setSq (u : Nat) (f : Field) (i : Nat) (h : f.lo < 16) :
    reg (setSq u f b i) u (f.off + f.stride * i) / 2 ^ 16 = (reg b u (f.off + f.stride * i) / 2 ^ 16 + 1) % 2 ^ 16 := by
  rw [reg_setSq, if_pos rfl, seqWord_div (Nat.mod_lt _ (by decide)) (lor_two_pow_lt _ h)]

theorem bitOf_setSq (u : Nat) (f : Field) (i k : Nat) (h : f.lo < 16) (hk : k < 16) :
    bitOf (reg (setSq u f b i) u (f.off + f.stride * i)) k = (bitOf (reg b u (f.off + f.stride * i)) k || decide (f.lo = k)) := by
  rw [reg_setSq, if_pos rfl, bitOf_seqWord (Nat.mod_lt _ (by decide)) (lor_two_pow_lt _ h) hk, bitOf, Nat.testBit_or,
    Nat.testBit_two_pow]
  exact congrArg (· || decide (f.lo = k)) (bitOf_mod_two_pow hk)

/-- Every other bit keeps its own sequence. -/
theorem sqOwn_get_setSq (u : Nat) (f : Field) (i k : Nat) :
    (setSq u f b i).face.sqOwn.get 0 k = if k = regKey u (f.off + f.stride * i) * 16 + f.lo then
      (reg b u (f.off + f.stride * i) / 2 ^ 16 + 1) % 2 ^ 16 else b.face.sqOwn.get 0 k := SMap.get_put ..

/-! ### Clearing by sequence (R46, R47) -/

/-- Adding the powers of two of the places that hold spells the number with exactly those bits. -/
theorem foldl_two_pow_spec (p : Nat → Bool) (n : Nat) :
    (List.range n).foldl (fun acc i => if p i then acc + 2 ^ i else acc) 0 < 2 ^ n ∧
    ∀ i < n, bitOf ((List.range n).foldl (fun acc i => if p i then acc + 2 ^ i else acc) 0) i = p i := by
  induction n with
  | zero => simp
  | succ n ih =>
    obtain ⟨hlt, hbit⟩ := ih
    rw [List.range_succ, List.foldl_append]
    generalize (List.range n).foldl (fun acc i => if p i then acc + 2 ^ i else acc) 0 = a at hlt hbit ⊢
    have hbelow : ∀ i < n, bitOf (2 ^ n + a) i = p i := fun i hi => by
      rw [bitOf, Nat.testBit_two_pow_add_gt hi]; exact hbit i hi
    have htop : bitOf a n = false := Nat.testBit_lt_two_pow hlt
    cases hp : p n with
    | false =>
      simp only [List.foldl_cons, List.foldl_nil, hp]
      refine ⟨by simp; omega, fun i hi => ?_⟩
      obtain hi | rfl := Nat.lt_succ_iff_lt_or_eq.mp hi
      · exact hbit i hi
      · simpa [hp] using htop
    | true =>
      simp only [List.foldl_cons, List.foldl_nil, hp, if_true, Nat.add_comm a]
      refine ⟨by omega, fun i hi => ?_⟩
      obtain hi | rfl := Nat.lt_succ_iff_lt_or_eq.mp hi
      · exact hbelow i hi
      · rw [hp, bitOf, Nat.testBit_two_pow_add_eq, show a.testBit i = false from htop]; rfl

/-- Does bit `i` of an SQ register stand after a write of sequence `w` and a mask: set before, and not both masked and no later than `w` (R46)? -/
def sqStands (u o w mask i : Nat) : Bool :=
  bitOf (reg b u o) i && !(bitOf mask i && decide ((reg b u o / 2 ^ 16 + 2 ^ 16 - w) % 2 ^ 16 ≤
    (reg b u o / 2 ^ 16 + 2 ^ 16 - b.face.sqOwn.get 0 (regKey u o * 16 + i)) % 2 ^ 16))

theorem sqLeft_eq_foldl (u o w mask : Nat) :
    sqLeft b u o w mask = (List.range 16).foldl (fun acc i => if sqStands b u o w mask i then acc + 2 ^ i else acc) 0 := by
  simp only [sqLeft, sqStands, Bool.not_and, ← decide_not, Nat.not_le]

theorem sqLeft_lt (u o w mask : Nat) : sqLeft b u o w mask < 2 ^ 16 := by
  rw [sqLeft_eq_foldl]; exact (foldl_two_pow_spec _ 16).1

theorem bitOf_sqLeft (u o w mask i : Nat) (hi : i < 16) : bitOf (sqLeft b u o w mask) i = sqStands b u o w mask i := by
  rw [sqLeft_eq_foldl]; exact (foldl_two_pow_spec _ 16).2 i hi

theorem reg_writeSq (u o v u' o' : Nat) :
    reg (writeSq u o v b) u' o' = if regKey u' o' = regKey u o then
      (reg b u o / 2 ^ 16 * 2 ^ 16 + sqLeft b u o (v / 2 ^ 16) (v % 2 ^ 16)) % 2 ^ 32 else reg b u' o' := reg_setReg b u o _ u' o'

theorem seq_lt (u o : Nat) : reg b u o / 2 ^ 16 < 2 ^ 16 := by have := reg_lt b u o; omega

theorem seq_writeSq (u o v : Nat) : reg (writeSq u o v b) u o / 2 ^ 16 = reg b u o / 2 ^ 16 := by
  rw [reg_writeSq, if_pos rfl, seqWord_div (seq_lt b u o) (sqLeft_lt ..)]

theorem bitOf_writeSq (u o w mask i : Nat) (hm : mask < 2 ^ 16) (hi : i < 16) :
    bitOf (reg (writeSq u o (w * 2 ^ 16 + mask) b) u o) i = sqStands b u o w mask i := by
  have hw : (w * 2 ^ 16 + mask) / 2 ^ 16 = w := by omega
  have hmask : (w * 2 ^ 16 + mask) % 2 ^ 16 = mask := by omega
  rw [reg_writeSq, if_pos rfl, bitOf_seqWord (seq_lt b u o) (sqLeft_lt ..) hi, bitOf_sqLeft _ _ _ _ _ _ hi, hw, hmask]

/-! ### The command of a sequence-cleared write -/

theorem kindOf_of_hasAccess {a : Acc} {u o : Nat} (h : hasAccess a u o = true) : (kindOf u).isSome = true := by
  unfold hasAccess rowAt at h
  cases hk : kindOf u with
  | some k => rfl
  | none => simp [hk] at h

/-- The window of a unit that has the register is there while the main die runs, and that of the tally interface always. -/
theorem windowThere_of_hasAccess {a : Acc} {u o : Nat} (h : hasAccess a u o = true) (hon : mainOn b = true ∨ u = uTly) :
    windowThere b u = true := by
  have hrails : u = uTly ∨ railsUp b = true := hon.symm.imp_right fun hm => (Bool.and_eq_true_iff.mp hm).1
  simpa [windowThere, kindOf_of_hasAccess h] using hrails

theorem sqRegisterWrite_ok {wr u o w mask : Nat} (hw : windowThere b u = true) (ho : o % 4 = 0) (ha : hasAccess .sq u o = true) :
    sqRegisterWrite 4 wr u o w mask b = answer .ok 0 (writeSq u o (w * 2 ^ 16 + mask) b) := by
  simp [sqRegisterWrite, hw, ho, ha]

theorem reg_answer (st : Status) (v u o : Nat) : reg (answer st v b) u o = reg b u o := rfl

/-- A well-formed sequence-cleared write is the write of the register and its answer, and nothing else. -/
theorem answers_sqRegisterWrite {s : State} {wr u : Fin 8192} {o : Fin 0x100000} {v : SqClear} (hon : mainOn s.blk = true ∨ u.val = uTly)
    (ho : o.val % 4 = 0) (ha : hasAccess .sq u o = true) :
    Answers (.sqRegisterWrite ⟨4, wr⟩ u o v) s (fun c => answer .ok 0 (writeSq u o (v.sq * 2 ^ 16 + v.mask) c)) :=
  answers_of_acts (acts_run rfl (sqRegisterWrite_ok s.blk (windowThere_of_hasAccess s.blk ha hon) ho ha)) rfl rfl rfl

/-! ### Event rings (R30, R31) -/

section
variable {u : Nat} (e : Ev) (arg : Nat)

theorem regKey_same_unit (u o o' : Nat) : regKey u o = regKey u o' ↔ o = o' := by unfold regKey; omega

/-- With the ring full nothing is written but the counts and the bit (R31). -/
theorem ringPut_of_full (h : ringFull b u = true) :
    ringPut u e arg b = setSq u Fld.unitStatusEvtLost
      (setReg u Off.evtHead ((reg b u Off.evtHead / 2 ^ 16 + 1) % 2 ^ 16 * 2 ^ 16 + reg b u Off.evtHead % 64)
        (setReg u Off.evtDrop (reg b u Off.evtDrop + 1) b)) := if_pos h

theorem reg_ringPut_of_full (o : Nat) (h : ringFull b u = true) (ho : o ≠ Off.unitStatus) :
    reg (ringPut u e arg b) u o =
      if o = Off.evtHead then (reg b u Off.evtHead / 2 ^ 16 + 1) % 2 ^ 16 * 2 ^ 16 + reg b u Off.evtHead % 64
      else if o = Off.evtDrop then (reg b u Off.evtDrop + 1) % 2 ^ 32 else reg b u o := by
  have hsq : regKey u o ≠ regKey u (Fld.unitStatusEvtLost.off + Fld.unitStatusEvtLost.stride * 0) := mt (regKey_same_unit u o _).mp ho
  rw [ringPut_of_full b e arg h, reg_setSq, if_neg hsq, reg_setReg, reg_setReg, seqWord_mod (Nat.mod_lt _ (by decide)) (by omega)]
  simp only [regKey_same_unit]

theorem ring_ringPut_of_full (h : ringFull b u = true) : (ringPut u e arg b).face.ring = b.face.ring := by
  rw [ringPut_of_full b e arg h]; rfl

/-- The drop of a record sets EVT_LOST (R31). -/
theorem evtLost_ringPut_of_full (h : ringFull b u = true) : flag (ringPut u e arg b) u Fld.unitStatusEvtLost = true := by
  rw [ringPut_of_full b e arg h, flag_eq_bitOf _ _ _ _ rfl, bitOf_setSq _ _ _ _ _ (by decide) (by decide)]
  simp

/-- With a free slot HEAD is the one register written (R30). -/
theorem reg_ringPut_of_room (o : Nat) (h : ringFull b u = false) :
    reg (ringPut u e arg b) u o =
      if o = Off.evtHead then (reg b u Off.evtHead / 2 ^ 16 + 1) % 2 ^ 16 * 2 ^ 16 + (reg b u Off.evtHead % 64 + 1) % 64 else reg b u o := by
  have hput : reg (ringPut u e arg b) u o = reg (setReg u Off.evtHead ((reg b u Off.evtHead / 2 ^ 16 + 1) % 2 ^ 16 * 2 ^ 16 +
      (reg b u Off.evtHead % 64 + 1) % 64) b) u o := by simp only [ringPut, h]; rfl
  rw [hput, reg_setReg, seqWord_mod (Nat.mod_lt _ (by decide)) (by omega)]
  simp only [regKey_same_unit]

theorem ring_ringPut_of_room (h : ringFull b u = false) :
    (ringPut u e arg b).face.ring = b.face.ring.put (u * 64 + reg b u Off.evtHead % 64)
      ⟨e, u, reg b u Off.evtHead / 2 ^ 16, arg % 2 ^ 32, b.face.time % 2 ^ 32⟩ := by
  simp only [ringPut, h]; rfl

/-- The event sequence rises by one whether or not the record is kept (R30, R31). -/
theorem rseq_ringPut : reg (ringPut u e arg b) u Off.evtHead / 2 ^ 16 = (reg b u Off.evtHead / 2 ^ 16 + 1) % 2 ^ 16 := by
  cases h : ringFull b u with
  | true => rw [reg_ringPut_of_full b e arg _ h (by decide), if_pos rfl]; omega
  | false => rw [reg_ringPut_of_room b e arg _ h, if_pos rfl]; omega

/-- TAIL is the reader's to move: an event leaves it as it was. -/
theorem evtTail_ringPut : reg (ringPut u e arg b) u Off.evtTail = reg b u Off.evtTail := by
  cases h : ringFull b u with
  | true => rw [reg_ringPut_of_full b e arg _ h (by decide), if_neg (by decide), if_neg (by decide)]
  | false => rw [reg_ringPut_of_room b e arg _ h, if_neg (by decide)]

/-- No slot but HEAD of the unit's ring changes. -/
theorem ring_find_ringPut_other {k : Nat} (hk : k ≠ u * 64 + reg b u Off.evtHead % 64) :
    (ringPut u e arg b).face.ring.find k = b.face.ring.find k := by
  cases h : ringFull b u with
  | true => rw [ring_ringPut_of_full b e arg h]
  | false => rw [ring_ringPut_of_room b e arg h, SMap.find_put_other _ _ _ _ hk]

end

end Sys2Proof.Machine

open Sys2Proof Sys2Proof.Machine

/-- Settles O35: what `setSq` and `writeSq` leave in the register and in the bits' own sequences. -/
theorem sequenceClearedStatus : Obligations.SequenceClearedStatus := by
  unfold Obligations.SequenceClearedStatus
  intro s u o f j b
  refine ⟨fun hlo _ => ⟨seq_setSq b u f j hlo, ?_, fun i hi hne => ?_, ?_, fun k hk => ?_⟩, fun wr w mask hon ho ha => ?_⟩
  · simp [bitOf_setSq b u f j _ hlo hlo]
  · simp [bitOf_setSq b u f j i hlo hi, Ne.symm hne]
  · rw [sqOwn_get_setSq, if_pos rfl, seq_setSq b u f j hlo]
  · rw [sqOwn_get_setSq, if_neg hk]
  · refine ⟨_, answers_sqRegisterWrite hon ho ha, seq_writeSq s.blk u o _, fun i hi => bitOf_writeSq s.blk u o w mask i mask.isLt hi,
      fun u' o' hne _ ho' => ?_, rfl, rfl, rfl⟩
    have hkey : regKey u' o' ≠ regKey u o := fun h => hne (by simpa using (regKey_inj u' o' u o ho' o.isLt).mp h)
    rw [reg_answer, reg_writeSq, if_neg hkey]

/-- Settles O36: by whether the ring has a free slot. -/
theorem eventRings : Obligations.EventRings := by
  unfold Obligations.EventRings
  intro b u e arg
  refine ⟨rseq_ringPut b e arg, evtTail_ringPut b e arg, fun k hk => ring_find_ringPut_other b e arg hk, fun hroom => ?_, fun hfull => ?_⟩
  · have h : ringFull b u = false := decide_eq_false hroom
    refine ⟨?_, ?_, ?_, ?_⟩
    · rw [ring_ringPut_of_room b e arg h, SMap.find_put_same]
    · rw [reg_ringPut_of_room b e arg _ h, if_pos rfl]; omega
    · rw [reg_ringPut_of_room b e arg _ h, if_neg (by decide)]
    · rw [reg_ringPut_of_room b e arg _ h, if_neg (by decide)]
  · have h : ringFull b u = true := decide_eq_true hfull
    refine ⟨ring_ringPut_of_full b e arg h, ?_, ?_, evtLost_ringPut_of_full b e arg h⟩
    · rw [reg_ringPut_of_full b e arg _ h (by decide), if_pos rfl]; omega
    · rw [reg_ringPut_of_full b e arg _ h (by decide), if_neg (by decide), if_pos rfl]

end

section
/-! PROOFS. The security unit: the anti-rollback floor, entropy failure, JTAG and the resend of a key exchange (R529, R538, R542, R546). First what a
one-bit field reads after a field is set and what an event leaves in a unit's own registers, in the black box's queue and in the tally store. -/

namespace Sys2Proof.Machine

variable (b : Block)

/-! ### One-bit fields -/

/-- A number is cut at bit `lo` into what stands above, the bit and what stands below; replacing the bit replaces the middle part. -/
theorem withBits_one (v lo x : Nat) : withBits v lo lo x = 2 ^ lo * (v / 2 ^ lo / 2 * 2 + x % 2) + v % 2 ^ lo := by
  have hv : 2 ^ lo * (v / 2 ^ lo) + v % 2 ^ lo = v := Nat.div_add_mod v (2 ^ lo)
  have hq : 2 ^ lo * (v / 2 ^ lo) = 2 ^ lo * (v / 2 ^ lo / 2 * 2) + v / 2 ^ lo % 2 * 2 ^ lo := by
    rw [Nat.mul_comm (v / 2 ^ lo % 2), ← Nat.mul_add, Nat.div_add_mod']
  have hw : lo + 1 - lo = 1 := by omega
  rw [withBits, bitsOf, hw, Nat.pow_one, Nat.shiftRight_eq_div_pow, Nat.mul_add, Nat.mul_comm (2 ^ lo) (x % 2)]
  omega

/-- Replacing one bit of a number replaces that bit alone. -/
theorem bitOf_withBits_one (v lo x i : Nat) : bitOf (withBits v lo lo x) i = if i = lo then bitOf x 0 else bitOf v i := by
  have hlow : v % 2 ^ lo < 2 ^ lo := Nat.mod_lt _ (Nat.two_pow_pos lo)
  rw [withBits_one, bitOf, Nat.testBit_two_pow_mul_add _ hlow]
  obtain hi | rfl | hi := Nat.lt_trichotomy i lo
  · rw [if_pos hi, if_neg (Nat.ne_of_lt hi)]; exact bitOf_mod_two_pow hi
  · simp [bitOf]
  · obtain ⟨k, rfl⟩ : ∃ k, i = lo + (k + 1) := ⟨i - lo - 1, by omega⟩
    have hdiv : (v / 2 ^ lo / 2 * 2 + x % 2) / 2 = v / 2 ^ lo / 2 := by omega
    rw [if_neg (by omega), if_neg (by omega), Nat.add_sub_cancel_left, Nat.testBit_succ, hdiv, ← Nat.testBit_succ, Nat.testBit_div_two_pow, bitOf,
      Nat.add_comm]

/-- Setting a one-bit field sets its own bit and leaves every other one-bit field of the unit as it was. -/
theorem flag_setFld (u v : Nat) {f g : Field} (hf : f.hi = f.lo) (hg : g.hi = g.lo) (hlt : g.lo < 32) :
    flag (setFld u f v b) u g = if g.off = f.off ∧ g.lo = f.lo then bitOf v 0 else flag b u g := by
  simp only [flag_eq_bitOf _ _ _ _ hg, setFld, reg_setReg, regKey_same_unit, Nat.mul_zero, Nat.add_zero]
  by_cases ho : g.off = f.off
  · simp only [ho, if_true, hf, bitOf_mod_two_pow hlt, bitOf_withBits_one, true_and]
  · simp only [ho, false_and, if_false]

theorem flag_setFld_same (u v : Nat) {f : Field} (hf : f.hi = f.lo) (hlt : f.lo < 32) : flag (setFld u f v b) u f = bitOf v 0 := by
  rw [flag_setFld b u v hf hf hlt, if_pos ⟨rfl, rfl⟩]

/-- A field reads the same where its register does. -/
theorem flag_of_reg {b c : Block} {u : Nat} {f : Field} (h : reg c u (f.off + f.stride * 0) = reg b u (f.off + f.stride * 0)) :
    flag c u f = flag b u f := by
  rw [flag, flag, fld, fld, h]

/-! ### What an event leaves -/

/-- The offset is one of a unit's own registers, above the common face (R27). -/
abbrev OwnOffset (o : Nat) : Prop := 0x1_0000 ≤ o ∧ o < 0x10_0000

theorem reg_bbPush {u o : Nat} (r : BbRec) (hu : u ≠ uTly) (ho : OwnOffset o) : reg (bbPush r b) u o = reg b u o := by
  unfold bbPush
  split
  · rfl
  · have hlo : regKey u o ≠ regKey uTly Off.tlyBbDropLo := fun h => hu ((regKey_inj _ _ _ _ ho.2 (by decide)).mp h).1
    have hhi : regKey u o ≠ regKey uTly (Off.tlyBbDropLo + 4) := fun h => hu ((regKey_inj _ _ _ _ ho.2 (by decide)).mp h).1
    simp only [bump, reg_setReg, if_neg hlo, if_neg hhi]
    rfl

theorem reg_ringPut {u o : Nat} (e : Ev) (arg : Nat) (ho : OwnOffset o) : reg (ringPut u e arg b) u o = reg b u o := by
  have hne {k : Nat} (hk : k < 0x1_0000) : o ≠ k := Nat.ne_of_gt (Nat.lt_of_lt_of_le hk ho.1)
  cases h : ringFull b u with
  | true => rw [reg_ringPut_of_full b e arg o h (hne (by decide)), if_neg (hne (by decide)), if_neg (hne (by decide))]
  | false => rw [reg_ringPut_of_room b e arg o h, if_neg (hne (by decide))]

theorem reg_countEvent (e : Ev) (u o : Nat) : reg (countEvent e b) u o = reg b u o := by unfold countEvent; split <;> rfl

/-- An event writes the event registers of the unit's common face and, where its record is dropped, a counter of the tally die. -/
theorem reg_raise {u o : Nat} (e : Ev) (arg : Nat) (hu : u ≠ uTly) (ho : OwnOffset o) : reg (raise u e arg b) u o = reg b u o := by
  simp only [raise]
  split
  · rw [reg_bbPush _ _ hu ho, reg_countEvent, reg_ringPut _ _ _ ho]
  · rw [reg_countEvent, reg_ringPut _ _ _ ho]

/-- An event below severity error sends nothing to the black box (R578). -/
theorem bbQueue_raise_of_mild (u : Nat) {e : Ev} (arg : Nat) (h : evSeverity e < 2) : (raise u e arg b).bbQueue = b.bbQueue := by
  simp only [raise, if_neg (Nat.not_le.mpr h)]
  simp

theorem store_notify (u : Nat) (f : Field) (e : Ev) (arg : Nat) : (notify u f e arg b).tly.store = b.tly.store := by
  rw [notify, raise_tly]; rfl

/-- The event's status bit is set (R44). -/
theorem flag_notify_same {u : Nat} {f : Field} (e : Ev) (arg : Nat) (hu : u ≠ uTly) (hf : f.hi = f.lo) (hlt : f.lo < 16)
    (ho : OwnOffset (f.off + f.stride * 0)) : flag (notify u f e arg b) u f = true := by
  rw [notify, flag_of_reg (reg_raise _ e arg hu ho), flag_eq_bitOf _ _ _ _ hf, bitOf_setSq _ _ _ _ _ hlt hlt]
  simp

/-- A field outside the status register is as it was. -/
theorem flag_notify_other {u : Nat} {f g : Field} (e : Ev) (arg : Nat) (hu : u ≠ uTly) (ho : OwnOffset (g.off + g.stride * 0))
    (hne : g.off + g.stride * 0 ≠ f.off + f.stride * 0) : flag (notify u f e arg b) u g = flag b u g := by
  rw [notify, flag_of_reg (reg_raise _ e arg hu ho)]
  exact flag_of_reg (by rw [reg_setSq, if_neg (mt (regKey_same_unit u _ _).mp hne)])

/-! ### The anti-rollback floor (R542) -/

/-- The increments a raise to `v` would have used in all. -/
def floorUse (v : Nat) : Nat := b.tly.store.floorIncs + (v - b.tly.store.floor)

/-- May the floor rise to `v`? -/
def FloorRises (v : Nat) : Prop := b.tly.store.floor < v ∧ v ≤ b.boot.fwSvn ∧ floorUse b v ≤ 4096

theorem floorRaise_refused {v : Nat} (h : ¬ FloorRises b v) : floorRaise v b = notify uSec Fld.secStatusLimitRefused .secLimitRefused 1 b :=
  if_pos (by simp only [FloorRises, floorUse] at h; omega)

theorem floorRaise_raised {v : Nat} (h : FloorRises b v) :
    floorRaise v b = notify uSec Fld.secStatusFloorRaised .secFloorRaised v
      (modTly (fun t => { t with store := { t.store with floor := v, floorIncs := floorUse b v } })
        (bbRecord 3 .tlyLimitChange (leBytes 4 1 ++ leBytes 4 b.tly.store.floorIncs ++ leBytes 4 (floorUse b v)) b)) :=
  if_neg (by obtain ⟨hlt, hsvn, huse⟩ := h; simp only [floorUse] at huse; omega)

theorem store_bbRecord (kind : Nat) (e : Ev) (data : List Byte) : (bbRecord kind e data b).tly.store = b.tly.store := by
  rw [bbRecord, bbPush_tly]

theorem bbQueue_length_bbRecord (kind : Nat) (e : Ev) (data : List Byte) (h : b.bbQueue.length < 2048) :
    (bbRecord kind e data b).bbQueue.length = b.bbQueue.length + 1 := by
  simp [bbRecord, bbPush, h]

/-- A raise changes the floor and its count in the store, and nothing else there. -/
theorem store_floorRaise {v : Nat} (h : FloorRises b v) :
    (floorRaise v b).tly.store = { b.tly.store with floor := v, floorIncs := floorUse b v } := by
  rw [floorRaise_raised b h, store_notify, modTly, store_bbRecord]

theorem flag_floorRaised {v : Nat} (h : FloorRises b v) : flag (floorRaise v b) uSec Fld.secStatusFloorRaised = true := by
  rw [floorRaise_raised b h]
  exact flag_notify_same _ _ _ (by decide) rfl (by decide) (by decide)

/-- The raise is recorded in the black box while its queue has room. -/
theorem bbQueue_length_floorRaise {v : Nat} (h : FloorRises b v) (hroom : b.bbQueue.length < 2048) :
    (floorRaise v b).bbQueue.length = b.bbQueue.length + 1 := by
  rw [floorRaise_raised b h, notify, bbQueue_raise_of_mild _ _ _ (by decide)]
  exact bbQueue_length_bbRecord b _ _ _ hroom

/-! ### Entropy and debug (R529, R546) -/

theorem rngFail_failed (h : rngOk b = false) : rngFail b = b := by simp [rngFail, h]

theorem rngFail_good (h : rngOk b = true) :
    rngFail b = notify uSec Fld.secStatusRngFail .secRngFail 0 (setFld uSec Fld.secStateRngOk 0 b) := by simp [rngFail, h]

/-- Once the source has failed it is not good. -/
theorem rngOk_rngFail : rngOk (rngFail b) = false := by
  cases h : rngOk b with
  | false => rw [rngFail_failed b h, h]
  | true =>
    rw [rngFail_good b h, rngOk, flag_notify_other _ _ _ (by decide) (by decide) (by decide), flag_setFld_same _ _ _ rfl (by decide)]
    rfl

theorem flag_rngFail (h : rngOk b = true) : flag (rngFail b) uSec Fld.secStatusRngFail = true := by
  rw [rngFail_good b h]
  exact flag_notify_same _ _ _ (by decide) rfl (by decide) (by decide)

theorem jtagInstr_eq :
    jtagInstr b = notify uSec Fld.secStatusDebugAttached .secDebugAttached 1 (setFld uSec Fld.secStateJtag 1 (setFld uSec Fld.secStateDebug 1 b)) := rfl

theorem flag_debug_jtagInstr : flag (jtagInstr b) uSec Fld.secStateDebug = true := by
  rw [jtagInstr_eq, flag_notify_other _ _ _ (by decide) (by decide) (by decide), flag_setFld _ _ _ rfl rfl (by decide), if_neg (by decide),
    flag_setFld_same _ _ _ rfl (by decide)]
  rfl

theorem flag_jtag_jtagInstr : flag (jtagInstr b) uSec Fld.secStateJtag = true := by
  rw [jtagInstr_eq, flag_notify_other _ _ _ (by decide) (by decide) (by decide), flag_setFld_same _ _ _ rfl (by decide)]
  rfl

theorem flag_attached_jtagInstr : flag (jtagInstr b) uSec Fld.secStatusDebugAttached = true := by
  rw [jtagInstr_eq]
  exact flag_notify_same _ _ _ (by decide) rfl (by decide) (by decide)

/-! ### Key exchange resends (R538) -/

theorem keyxResend_none {j r : Nat} (h : b.fab.agree.find (rankKey j r) = none) : keyxResend j r b = b := by simp [keyxResend, h]

/-- This side's message goes out again when the exchange is still open and 10 ms have passed since it last went. -/
theorem keyxResend_some {j r : Nat} {a : Agree} (h : b.fab.agree.find (rankKey j r) = some a) :
    keyxResend j r b = if a.eph.isSome ∧ a.sentAt + 10000 ≤ b.face.time then sendKeyx j r b else b := by simp [keyxResend, h]

end Sys2Proof.Machine

open Sys2Proof Sys2Proof.Machine

/-- Settles O54: the floor by whether it may rise, the entropy source by whether it was good, the resend by whether it is due. -/
theorem securityCommands : Obligations.SecurityCommands := by
  unfold Obligations.SecurityCommands
  intro s hon
  have hall (v : Word) : whenMain (floorRaise v.toNat) s.blk = floorRaise v.toNat s.blk := whenMain_on _ _ hon
  refine ⟨fun v => ⟨fun hno => ?_, fun hlt hsvn huse => ?_⟩, fun hbad => ?_, fun hgood => ?_, ?_, fun j r => ⟨fun hnone => ?_, fun a ha => ⟨?_, ?_⟩⟩⟩
  · have hkept : ¬ FloorRises s.blk v.toNat := fun ⟨hlt, hsvn, huse⟩ => by simp only [floorUse] at huse; omega
    exact answers_all rfl ((hall v).trans (floorRaise_refused s.blk hkept))
  · have hrise : FloorRises s.blk v.toNat := ⟨hlt, hsvn, huse⟩
    refine answersWith_all (g := whenMain (floorRaise v.toNat)) rfl ?_
    rw [hall, store_floorRaise _ hrise]
    exact ⟨rfl, rfl, rfl, flag_floorRaised _ hrise, bbQueue_length_floorRaise _ hrise⟩
  · exact acts_main rfl hon (rngFail_failed s.blk hbad)
  · exact answersWith_main rfl hon ⟨rngOk_rngFail s.blk, flag_rngFail s.blk hgood⟩
  · exact answersWith_main rfl hon ⟨flag_debug_jtagInstr s.blk, flag_jtag_jtagInstr s.blk, flag_attached_jtagInstr s.blk⟩
  · exact acts_main rfl hon (keyxResend_none s.blk hnone)
  · intro hwait
    refine acts_main rfl hon ((keyxResend_some s.blk ha).trans (if_neg ?_))
    rintro ⟨hopen, hdue⟩
    obtain hend | hearly := hwait
    · simp [hend] at hopen
    · omega
  · exact fun hopen hdue => acts_main rfl hon ((keyxResend_some s.blk ha).trans (if_pos ⟨hopen, hdue⟩))

end

section
/-! PROOFS. The queue, and the limited changes (R361, R525, R541, R542). What the tally die alone changes is a projection that every other operation of the model leaves as it was; what does change it keeps the limits. -/

namespace Sys2Proof.Machine

/-! ### What leaves the tally's part alone -/

/-- What only the tally die changes: the store, the counts of row repairs and tally time (R32, R541, R576). -/
def tallyPart (b : Block) : TallyStore × SMap Nat × Nat := (b.tly.store, b.grn.mapUsed, b.face.time)

theorem tallyPart_eq_iff {b c : Block} :
    tallyPart c = tallyPart b ↔ c.tly.store = b.tly.store ∧ c.grn.mapUsed = b.grn.mapUsed ∧ c.face.time = b.face.time := by
  simp [tallyPart]

/-- An effect that leaves the tally's part alone runs as it is. -/
theorem keepTally_of_tallyPart {f : Block → Block} {b : Block} (h : tallyPart (f b) = tallyPart b) : keepTally f b = f b := by
  obtain ⟨hs, hm, ht⟩ := tallyPart_eq_iff.mp h
  exact keepTally_eq b f hs hm ht

@[simp] theorem tallyPart_keepTally (f : Block → Block) (b : Block) : tallyPart (keepTally f b) = tallyPart b := rfl

variable (b : Block)

/-- A block spelled out field by field, as an update leaves it. -/
@[simp] theorem tallyPart_mk (face : Face) (grn : Granary) (til : TileState) (gln : GlnState) (ctx : Ctx) (mac : MacState) (fab : Fabric)
    (tly : Tally) (trn : Train) (qcp : Qcp) (boot : Boot) (rec' : SMap RecJob) (q : List BbRec) :
    tallyPart ⟨face, grn, til, gln, ctx, mac, fab, tly, trn, qcp, boot, rec', q⟩ = (tly.store, grn.mapUsed, face.time) := rfl
@[simp] theorem tallyPart_ite (p : Prop) [Decidable p] (c d : Block) : tallyPart (if p then c else d) = if p then tallyPart c else tallyPart d :=
  apply_ite ..
@[simp] theorem tallyPart_fold : (b.tly.store, b.grn.mapUsed, b.face.time) = tallyPart b := rfl

@[simp] theorem tallyPart_setReg (u o v : Nat) : tallyPart (setReg u o v b) = tallyPart b := rfl
@[simp] theorem tallyPart_setFld (u : Nat) (f : Field) (v i : Nat) : tallyPart (setFld u f v b i) = tallyPart b := rfl
@[simp] theorem tallyPart_bump (u o n : Nat) : tallyPart (bump u o n b) = tallyPart b := rfl
@[simp] theorem tallyPart_takeFree : tallyPart (takeFree b).2 = tallyPart b := rfl
@[simp] theorem tallyPart_setSq (u : Nat) (f : Field) (i : Nat) : tallyPart (setSq u f b i) = tallyPart b := rfl
@[simp] theorem tallyPart_writeSq (u o v : Nat) : tallyPart (writeSq u o v b) = tallyPart b := rfl
@[simp] theorem tallyPart_answer (s : Status) (v : Nat) : tallyPart (answer s v b) = tallyPart b := rfl
@[simp] theorem tallyPart_absorb (n : Nat) : tallyPart (absorb n b) = tallyPart b := rfl
@[simp] theorem tallyPart_setShadow (u o v : Nat) : tallyPart (setShadow u o v b) = tallyPart b := rfl
@[simp] theorem tallyPart_poke (a : Nat) (v : List Byte) : tallyPart (poke a v b) = tallyPart b := rfl
@[simp] theorem tallyPart_setMark (l : Nat) (m : Option LineMark) : tallyPart (setMark l m b) = tallyPart b := rfl
@[simp] theorem tallyPart_setLoftErr (w : Nat) (e : Option Bool) : tallyPart (setLoftErr w e b) = tallyPart b := rfl
@[simp] theorem tallyPart_noteFail (l : Nat) : tallyPart (noteFail l b) = tallyPart b := rfl
@[simp] theorem tallyPart_failElsewhere : tallyPart (failElsewhere b) = tallyPart b := rfl
@[simp] theorem tallyPart_modGl (g : Nat) (f : Gleaner → Gleaner) : tallyPart (modGl g f b) = tallyPart b := rfl
@[simp] theorem tallyPart_dropGrant (g : Nat) : tallyPart (dropGrant g b) = tallyPart b := rfl
@[simp] theorem tallyPart_modQcp (f : Qcp → Qcp) : tallyPart (modQcp f b) = tallyPart b := rfl
@[simp] theorem tallyPart_modFab (f : Fabric → Fabric) : tallyPart (modFab f b) = tallyPart b := rfl
@[simp] theorem tallyPart_setPort (u : Nat) (p : MacPort) : tallyPart (setPort u p b) = tallyPart b := rfl
@[simp] theorem tallyPart_modPort (u : Nat) (f : MacPort → MacPort) : tallyPart (modPort u f b) = tallyPart b := rfl
@[simp] theorem tallyPart_macCount (u k n : Nat) : tallyPart (macCount u k n b) = tallyPart b := rfl
@[simp] theorem tallyPart_setLink (l : Nat) (x : Link) : tallyPart (setLink l x b) = tallyPart b := rfl
@[simp] theorem tallyPart_modLink (l : Nat) (f : Link → Link) : tallyPart (modLink l f b) = tallyPart b := rfl
@[simp] theorem tallyPart_setPair (j r : Nat) (p : Pair) : tallyPart (setPair j r p b) = tallyPart b := rfl
@[simp] theorem tallyPart_putSess (x : Sess) : tallyPart (putSess x b) = tallyPart b := rfl
@[simp] theorem tallyPart_modCmd (q i : Nat) (f : Cmd → Cmd) : tallyPart (modCmd q i f b) = tallyPart b := rfl
@[simp] theorem tallyPart_finishCmd (c : Cmd) (s : Status) : tallyPart (finishCmd c s b) = tallyPart b := rfl
@[simp] theorem tallyPart_setRet (c : Cmd) (v : List Byte) : tallyPart (setRet c v b) = tallyPart b := rfl
@[simp] theorem tallyPart_drawEntropy : tallyPart (drawEntropy b).2 = tallyPart b := rfl
@[simp] theorem tallyPart_mainCold : tallyPart (mainCold b) = tallyPart b := rfl

/-! #### Events and records -/

@[simp] theorem tallyPart_bbPush (r : BbRec) : tallyPart (bbPush r b) = tallyPart b := by unfold bbPush; split <;> rfl
@[simp] theorem tallyPart_bbRecord (k : Nat) (e : Ev) (d : List Byte) : tallyPart (bbRecord k e d b) = tallyPart b := by simp [bbRecord]
@[simp] theorem tallyPart_limitRecord (k n o : Nat) : tallyPart (limitRecord k n o b) = tallyPart b := by simp [limitRecord]
@[simp] theorem tallyPart_tallyRecord (k : Nat) (e : Ev) (a : Nat) : tallyPart (tallyRecord k e a b) = tallyPart b := by simp [tallyRecord]
@[simp] theorem tallyPart_pstateRecord (o n : Nat) : tallyPart (pstateRecord o n b) = tallyPart b := by simp [pstateRecord]
@[simp] theorem tallyPart_ringPut (u : Nat) (e : Ev) (a : Nat) : tallyPart (ringPut u e a b) = tallyPart b := by
  unfold ringPut; dsimp only; split <;> rfl
@[simp] theorem tallyPart_countEvent (e : Ev) : tallyPart (countEvent e b) = tallyPart b := by unfold countEvent; split <;> rfl
@[simp] theorem tallyPart_raise (u : Nat) (e : Ev) (a : Nat) : tallyPart (raise u e a b) = tallyPart b := by
  unfold raise; dsimp only; split <;> simp
@[simp] theorem tallyPart_notify (u : Nat) (f : Field) (e : Ev) (a : Nat) : tallyPart (notify u f e a b) = tallyPart b := by simp [notify]
@[simp] theorem tallyPart_setOwn (u h : Nat) : tallyPart (setOwn u h b) = tallyPart b := by unfold setOwn; dsimp only; split <;> rfl
@[simp] theorem tallyPart_degrade (u : Nat) : tallyPart (degrade u b) = tallyPart b := by unfold degrade; split <;> simp
@[simp] theorem tallyPart_qcount (o : Nat) : tallyPart (qcount o b) = tallyPart b := by unfold qcount; split <;> rfl
@[simp] theorem tallyPart_addrFault (i : Issuer) (a : Nat) : tallyPart (addrFault i a b) = tallyPart b := by simp [addrFault]
@[simp] theorem tallyPart_bbDropEvent : tallyPart (bbDropEvent b) = tallyPart b := by
  simp [bbDropEvent, modTly]

/-! #### Granary lines, segments and table entries -/

@[simp] theorem tallyPart_recordRow (pl : Place) (u : Bool) : tallyPart (recordRow pl u b) = tallyPart b := by
  simp [recordRow]
@[simp] theorem tallyPart_chargeRereads (ls : List Nat) : tallyPart (chargeRereads ls b) = tallyPart b := foldl_keeps _ _ _ _ (by simp)
@[simp] theorem tallyPart_readOne (l : Nat) : tallyPart (readOne l b).2 = tallyPart b := by
  unfold readOne
  split
  · rfl
  · dsimp only; split
    case h_3 => split <;> simp
    all_goals simp
@[simp] theorem tallyPart_readLine (l : Nat) : tallyPart (readLine l b).2 = tallyPart b := by simp [readLine]
@[simp] theorem tallyPart_writeLine (a : Nat) (v : List Byte) (t : Option Nat) (l : Nat) : tallyPart (writeLine a v t l b).2 = tallyPart b := by
  unfold writeLine
  dsimp only
  split
  · rfl
  · split
    · rw [tallyPart_poke]; split <;> rfl
    · simp
@[simp] theorem tallyPart_serveWrite (a : Nat) (v : List Byte) (t : Option Nat) : tallyPart (serveWrite a v t b).2 = tallyPart b := by
  unfold serveWrite
  dsimp only
  rw [foldl_keeps (fun (acc : Bool × Block) => tallyPart acc.2) _ _ _ (by simp)]
  split <;> simp
@[simp] theorem tallyPart_tablePut (a : Nat) (v : List Byte) : tallyPart (tablePut a v b) = tallyPart b := by unfold tablePut; split <;> simp
@[simp] theorem tallyPart_setFrameEntry (f v : Nat) : tallyPart (setFrameEntry f v b) = tallyPart b := by unfold setFrameEntry; split <;> simp
@[simp] theorem tallyPart_strikeLine (l : Nat) (m : LineMark) : tallyPart (strikeLine l m b) = tallyPart b := by
  unfold strikeLine; split
  · split <;> rfl
  · rfl
  · rfl
@[simp] theorem tallyPart_strike (ss : List Strike) : tallyPart (strike ss b) = tallyPart b := by
  refine foldl_keeps _ _ _ _ fun c x => ?_
  cases x with
  | line a m => simp
  | symbols a es => dsimp only; split <;> simp
  | word a d => rfl
@[simp] theorem tallyPart_refreshOwed (c k : Nat) : tallyPart (refreshOwed c k b) = tallyPart b := by
  unfold refreshOwed; dsimp only; split <;> rfl
@[simp] theorem tallyPart_landPut (g : Nat) (p : Nat × List Byte × Nat) : tallyPart (landPut g p b) = tallyPart b := by
  unfold landPut; dsimp only; split <;> split <;> simp
@[simp] theorem tallyPart_commit (g : Nat) (f : Bool) : tallyPart (commit g f b) = tallyPart b := by
  unfold commit
  dsimp only
  split
  · rfl
  · rename_i sg _
    have hp : tallyPart (sg.puts.foldl (fun b p => landPut g p b) b) = tallyPart b := foldl_keeps _ _ _ _ (by simp)
    have hb (c : Block) : tallyPart (sg.banks.foldl (fun b k => refreshOwed (glChannel g) k.1 b) c) = tallyPart c := foldl_keeps _ _ _ _ (by simp)
    split <;> split <;> simp [hp, hb]
@[simp] theorem tallyPart_releaseBank (c k : Nat) : tallyPart (releaseBank c k b) = tallyPart b := by unfold releaseBank; split <;> simp
@[simp] theorem tallyPart_releaseBanks (a n : Nat) : tallyPart (releaseBanks a n b) = tallyPart b := by
  unfold releaseBanks; split
  · rfl
  · refine foldl_keeps _ _ _ _ fun c l => ?_
    split <;> simp
@[simp] theorem tallyPart_calResult (c t : Nat) (k : Bool) : tallyPart (calResult c t k b) = tallyPart b := by
  unfold calResult; dsimp only; split
  · split <;> rfl
  · split
    · rw [tallyPart_setOwn, tallyPart_mk, tallyPart_fold]; simp
    · simp
@[simp] theorem tallyPart_poisonLine (l : Nat) : tallyPart (poisonLine l b) = tallyPart b := by simp [poisonLine]
@[simp] theorem tallyPart_retirePage (p : Nat) : tallyPart (retirePage p b) = tallyPart b := by unfold retirePage; split <;> simp
@[simp] theorem tallyPart_repairRefused (w c k r : Nat) : tallyPart (repairRefused w c k r b) = tallyPart b := by
  unfold repairRefused
  simp only [tallyPart_mk, tallyPart_fold]
  rw [foldl_keeps tallyPart _ _ _ (by simp)]; simp

/-! #### Ports and links -/

@[simp] theorem tallyPart_settleTx (u : Nat) : tallyPart (settleTx u b) = tallyPart b := by unfold settleTx; dsimp only; split <;> rfl
@[simp] theorem tallyPart_putWire (u : Nat) (f : List Byte) : tallyPart (putWire u f b) = tallyPart b := rfl
@[simp] theorem tallyPart_sendHead (u c : Nat) : tallyPart (sendHead u c b) = tallyPart b := by unfold sendHead; dsimp only; split <;> rfl
@[simp] theorem tallyPart_countCtl (u : Nat) (f : List Byte) : tallyPart (countCtl u f b) = tallyPart b := by
  unfold countCtl; split
  · rfl
  · refine (foldl_keeps _ _ _ _ fun c l => ?_).trans (tallyPart_macCount ..)
    split <;> rfl
@[simp] theorem tallyPart_sendCtl (u : Nat) : tallyPart (sendCtl u b) = tallyPart b := by
  unfold sendCtl; exact (foldl_keeps _ _ _ _ (by simp)).trans (tallyPart_setPort ..)
@[simp] theorem tallyPart_sendClasses (u n : Nat) : tallyPart (sendClasses u n b) = tallyPart b := by
  induction n generalizing b with
  | zero => rfl
  | succ n ih => unfold sendClasses; split <;> simp [ih]
@[simp] theorem tallyPart_pump (u : Nat) : tallyPart (pump u b) = tallyPart b := by
  unfold pump; dsimp only; rw [tallyPart_settleTx]; split
  · split <;> simp
  · rfl
@[simp] theorem tallyPart_macSend (u c : Nat) (f : List Byte) : tallyPart (macSend u c f b).2 = tallyPart b := by
  unfold macSend; dsimp only; split
  · rfl
  · split <;> simp
@[simp] theorem tallyPart_sendPause (u c q : Nat) : tallyPart (sendPause u c q b) = tallyPart b := by simp [sendPause]
@[simp] theorem tallyPart_checkPause (u c : Nat) : tallyPart (checkPause u c b) = tallyPart b := by
  unfold checkPause; dsimp only; split
  · rfl
  · split <;> split <;> simp
@[simp] theorem tallyPart_checkPauses (u : Nat) : tallyPart (checkPauses u b) = tallyPart b := foldl_keeps _ _ _ _ (by simp)
@[simp] theorem tallyPart_settleLpi (u : Nat) : tallyPart (settleLpi u b) = tallyPart b := by unfold settleLpi; split <;> simp
@[simp] theorem tallyPart_settleHeld (u : Nat) : tallyPart (settleHeld u b) = tallyPart b := by unfold settleHeld; split <;> simp
@[simp] theorem tallyPart_beginTry (u : Nat) : tallyPart (beginTry u b) = tallyPart b := rfl
@[simp] theorem tallyPart_rxRelease (u q : Nat) : tallyPart (rxRelease u q b) = tallyPart b := by
  unfold rxRelease; dsimp only; split <;> simp
@[simp] theorem tallyPart_sendData (l v : Nat) : tallyPart (sendData l v b) = tallyPart b := rfl
@[simp] theorem tallyPart_pumpGo (l n : Nat) : tallyPart (pumpGo l n b) = tallyPart b := by
  induction n generalizing b with
  | zero => rfl
  | succ n ih =>
    unfold pumpGo; dsimp only; split
    · rfl
    · split <;> simp [ih]
@[simp] theorem tallyPart_pumpLink (l : Nat) : tallyPart (pumpLink l b) = tallyPart b := by unfold pumpLink; split <;> simp
@[simp] theorem tallyPart_putFrame (j l r v : Nat) (f : List Byte) : tallyPart (putFrame j l r v f b) = tallyPart b := by
  unfold putFrame; split
  · simp
  · split <;> simp
@[simp] theorem tallyPart_setLinkState (l s : Nat) : tallyPart (setLinkState l s b) = tallyPart b := rfl
@[simp] theorem tallyPart_showLanes (l : Nat) : tallyPart (showLanes l b) = tallyPart b := by
  unfold showLanes; dsimp only; split <;> split <;> simp

/-! #### Requests over the fabric -/

@[simp] theorem tallyPart_routeFrame (j r : Nat) (p : Option Nat) (f : List Byte) : tallyPart (routeFrame j r p f b).2 = tallyPart b := by
  unfold routeFrame; dsimp only; split
  · split <;> simp
  · simp
@[simp] theorem tallyPart_sendKeyx (j r : Nat) : tallyPart (sendKeyx j r b) = tallyPart b := by unfold sendKeyx; split <;> simp
@[simp] theorem tallyPart_startAgree (j r n : Nat) : tallyPart (startAgree j r n b) = tallyPart b := by unfold startAgree; split <;> simp
@[simp] theorem tallyPart_noteAdvance (j r : Nat) (p q : Pair) : tallyPart (noteAdvance j r p q b) = tallyPart b := by
  unfold noteAdvance; dsimp only; split <;> simp
theorem tallyPart_issueReq {q : FabReq} {p : Pair} {c : Block} (h : issueReq q p b = some c) : tallyPart c = tallyPart b := by
  unfold issueReq at h
  dsimp only at h
  split at h
  · cases h
  · cases h; simp
@[simp] theorem tallyPart_endReq (q : FabReq) (s : Status) (v : Nat) : tallyPart (endReq q s v b) = tallyPart b := by
  unfold endReq; dsimp only; (repeat' split) <;> simp
@[simp] theorem tallyPart_tryReq (q : FabReq) : tallyPart (tryReq q b) = tallyPart b := by
  unfold tryReq; dsimp only; split
  · simp
  · split
    · simp
    · split
      · simp
      · rename_i p _ _
        cases h : issueReq q p b with
        | none => simp
        | some c => simpa using tallyPart_issueReq b h
@[simp] theorem tallyPart_fabricRequest (q : FabReq) : tallyPart (fabricRequest q b) = tallyPart b := by unfold fabricRequest; split <;> simp
@[simp] theorem tallyPart_retryWants : tallyPart (retryWants b) = tallyPart b := by
  unfold retryWants; exact (foldl_keeps _ _ _ _ (by simp)).trans (tallyPart_modFab ..)
@[simp] theorem tallyPart_finishReq (h : Held) (s : Status) (v : Nat) : tallyPart (finishReq h s v b) = tallyPart b := by simp [finishReq]
@[simp] theorem tallyPart_resend (h : Held) : tallyPart (resend h b) = tallyPart b := by unfold resend; dsimp only; split <;> simp
@[simp] theorem tallyPart_rewriteVia (j : Nat) : tallyPart (rewriteVia j b) = tallyPart b := by
  unfold rewriteVia; dsimp only
  refine foldl_keeps _ _ _ _ fun c r => ?_
  simp
@[simp] theorem tallyPart_linksChanged : tallyPart (linksChanged b) = tallyPart b := foldl_keeps _ _ _ _ (by simp)
@[simp] theorem tallyPart_linkLeft (l : Nat) : tallyPart (linkLeft l b) = tallyPart b := by
  unfold linkLeft; exact (foldl_keeps _ _ _ _ (by simp)).trans (tallyPart_linksChanged b)
@[simp] theorem tallyPart_failLink (l : Nat) : tallyPart (failLink l b) = tallyPart b := by unfold failLink; dsimp only; split <;> simp

/-! #### Sessions and power states -/

@[simp] theorem tallyPart_ringSend (p : Nat) (f : List Byte) : tallyPart (ringSend p f b) = tallyPart b := by unfold ringSend; split <;> rfl
@[simp] theorem tallyPart_flowSend (ra : Bool) (fl : Flow) (p : List Byte) : tallyPart (flowSend ra fl p b) = tallyPart b := by
  unfold flowSend; dsimp only; split <;> simp
@[simp] theorem tallyPart_sessSend (id : Nat) (fl : Flow) (op q : Nat) (pr p : List Byte) (m : Bool) :
    tallyPart (sessSend id fl op q pr p m b) = tallyPart b := by
  unfold sessSend; split
  · rfl
  · dsimp only; split <;> simp
@[simp] theorem tallyPart_authEvent (id : Nat) : tallyPart (authEvent id b) = tallyPart b := by simp [authEvent]
@[simp] theorem tallyPart_sessTake (ra ring : Bool) (fl : Flow) (h : QHead) (c t : List Byte) :
    tallyPart (sessTake ra ring fl h c t b).2 = tallyPart b := by
  unfold sessTake; split
  · simp
  · split
    · simp
    · split
      · simp
      · dsimp only; split <;> simp
@[simp] theorem tallyPart_refuse (ra : Bool) (fl : Flow) (s : Status) : tallyPart (refuse ra fl s b) = tallyPart b := by
  unfold refuse; split <;> simp
/-- The key derivation is taken as a variable first: its evaluation plays no part. -/
@[simp] theorem tallyPart_acceptSess (ra ring : Bool) (fl : Flow) (s : Nat) (pub p : List Byte) :
    tallyPart (acceptSess ra ring fl s pub p b) = tallyPart b := by
  obtain ⟨f, hf⟩ : ∃ f, f = acceptSess := ⟨_, rfl⟩
  obtain ⟨keys, hk⟩ : ∃ k, k = sessionKeys := ⟨_, rfl⟩
  rw [← hf]
  delta acceptSess at hf
  rw [← hk] at hf
  subst hf
  dsimp only
  split
  · simp
  · refine (tallyPart_flowSend ..).trans ?_
    cases ra <;> simp
@[simp] theorem tallyPart_raDrop (p q : Nat) : tallyPart (raDrop p q b) = tallyPart b := by unfold raDrop; split <;> simp
@[simp] theorem tallyPart_freeResults (s : Status) (n : Nat) : tallyPart (freeResults s n b).2 = tallyPart b := by
  induction n generalizing b with
  | zero => rfl
  | succ n ih => simp [freeResults, ih]
@[simp] theorem tallyPart_raResult (p : Nat) (s : Status) (v : Option Nat) : tallyPart (raResult p s v b) = tallyPart b := by
  unfold raResult; split
  · rfl
  · by_cases hs : s = .ok <;> cases v <;> simp only [hs, if_true, if_false] <;> split <;> simp
@[simp] theorem tallyPart_raRefuseBad (p : Nat) : tallyPart (raRefuseBad p b) = tallyPart b := by
  unfold raRefuseBad; (repeat' split) <;> simp
@[simp] theorem tallyPart_linksAwake : tallyPart (linksAwake b) = tallyPart b := by
  refine foldl_keeps _ _ _ _ fun c l => ?_
  (repeat' split) <;> simp
@[simp] theorem tallyPart_leaveD2 : tallyPart (leaveD2 b) = tallyPart b := by
  unfold leaveD2; dsimp only
  rw [tallyPart_linksAwake]
  refine (foldl_keeps tallyPart _ _ _ fun c ch => ?_).trans rfl
  split <;> simp
@[simp] theorem tallyPart_dstateTo (n : Nat) : tallyPart (dstateTo n b) = tallyPart b := by simp [dstateTo]
@[simp] theorem tallyPart_mainOff (cut : Bool) : tallyPart (mainOff cut b) = tallyPart b := by
  unfold mainOff; split
  · rfl
  · cases cut <;> simp [modTly]
@[simp] theorem tallyPart_wakeD0 : tallyPart (wakeD0 b) = tallyPart b := by
  unfold wakeD0; dsimp only; (repeat' split) <;> simp
@[simp] theorem tallyPart_raWakes : tallyPart (raWakes b) = tallyPart b := by unfold raWakes; split <;> simp

/-! #### Register reads -/

@[simp] theorem tallyPart_readClears (u o : Nat) : tallyPart (readClears u o b) = tallyPart b := by
  unfold readClears; (repeat' split) <;> rfl
@[simp] theorem tallyPart_addWaits (u o : Nat) : tallyPart (addWaits u o b) = tallyPart b := by unfold addWaits; split <;> rfl
@[simp] theorem tallyPart_macMeasures (u o : Nat) : tallyPart (macMeasures u o b) = tallyPart b := by
  unfold macMeasures; (repeat' split) <;> simp
@[simp] theorem tallyPart_regRead (r u o : Nat) : tallyPart (regRead r u o b).2.2 = tallyPart b := by
  unfold regRead; dsimp only; (repeat' split) <;> simp


/-! ### What may be counted (R541, R542) -/

/-- From a block within the limits the change leads to one within them and lowers nothing that is counted. -/
structure LimitStep (b c : Block) : Prop where
  keeps : Limits b → Limits c ∧ NotLowered b c

theorem LimitStep.of_eq {b c : Block} (hs : c.tly.store = b.tly.store) (hm : c.grn.mapUsed = b.grn.mapUsed) : LimitStep b c := by
  refine ⟨fun ⟨he, hi, hf, hmap, hl⟩ => ?_⟩
  refine ⟨⟨?_, ?_, ?_, ?_, ?_⟩, ⟨?_, ?_, ?_, ?_, ?_⟩⟩ <;> simp only [hs, hm, Nat.le_refl, implies_true] <;> assumption

theorem LimitStep.of_tallyPart {b c : Block} (h : tallyPart c = tallyPart b) : LimitStep b c :=
  have ⟨hs, hm, _⟩ := tallyPart_eq_iff.mp h
  .of_eq hs hm

theorem LimitStep.trans {b c d : Block} (h : LimitStep b c) (h' : LimitStep c d) : LimitStep b d := by
  refine ⟨fun hb => ?_⟩
  obtain ⟨hc, e, i, f, m, l⟩ := h.keeps hb
  obtain ⟨hd, e', i', f', m', l'⟩ := h'.keeps hc
  exact ⟨hd, Nat.le_trans e e', Nat.le_trans i i', Nat.le_trans f f', fun x => Nat.le_trans (m x) (m' x), fun x => Nat.le_trans (l x) (l' x)⟩

/-- What follows with the tally's part left alone changes nothing of it. -/
theorem LimitStep.then_kept {b c d : Block} (h : LimitStep b c) (h' : tallyPart d = tallyPart c) : LimitStep b d := h.trans (.of_tallyPart h')

/-- A counter of a map that rises by one below its limit stays within it and is not lowered. -/
theorem get_put_succ_le {m : SMap Nat} {k n : Nat} (hk : m.get 0 k < n) (h : ∀ i, m.get 0 i ≤ n) :
    (∀ i, (m.put k (m.get 0 k + 1)).get 0 i ≤ n) ∧ ∀ i, m.get 0 i ≤ (m.put k (m.get 0 k + 1)).get 0 i := by
  refine ⟨fun i => ?_, fun i => ?_⟩ <;> rw [SMap.get_put] <;> split
  · exact hk
  · exact h i
  · rename_i e; subst e; exact Nat.le_succ _
  · exact Nat.le_refl _

variable (b : Block)

theorem store_of_tallyPart {b c : Block} (h : tallyPart c = tallyPart b) : c.tly.store = b.tly.store := (tallyPart_eq_iff.mp h).1

theorem mapUsed_of_tallyPart {b c : Block} (h : tallyPart c = tallyPart b) : c.grn.mapUsed = b.grn.mapUsed := (tallyPart_eq_iff.mp h).2.1

/-- An enrolment is counted, and refused at sixteen (R525). -/
theorem limitStep_enrol (slot : Nat) (pub : List Byte) : LimitStep b (enrol slot pub b).2 := by
  unfold enrol
  dsimp only
  split
  · exact .of_tallyPart (by simp)
  · rename_i hlt
    refine LimitStep.then_kept (c := modTly (fun t => { t with store := { t.store with
      enrols := b.tly.store.enrols + 1
      keys := if pub == zeros 32 then t.store.keys.drop slot else t.store.keys.put slot pub } }) (limitRecord 0 0 b.tly.store.enrols b)) ?_ (by simp)
    have hs : (limitRecord 0 0 b.tly.store.enrols b).tly.store = b.tly.store := store_of_tallyPart (by simp)
    have hm : (limitRecord 0 0 b.tly.store.enrols b).grn.mapUsed = b.grn.mapUsed := mapUsed_of_tallyPart (by simp)
    refine ⟨fun ⟨he, hi, hf, hmap, hl⟩ => ?_⟩
    simp only [modTly]
    exact ⟨⟨by show _ + 1 ≤ 16; omega, by rw [hs]; exact hi, by rw [hs]; exact hf, by rw [hm]; exact hmap, by rw [hs]; exact hl⟩,
      ⟨Nat.le_succ _, Nat.le_of_eq (by rw [hs]), Nat.le_of_eq (by rw [hs]), fun st => Nat.le_of_eq (by rw [hm]), fun l => Nat.le_of_eq (by rw [hs])⟩⟩

/-- A raise of the floor is counted by its increments, and refused past 4,096 (R542). -/
theorem limitStep_floorRaise (v : Nat) : LimitStep b (floorRaise v b) := by
  by_cases hrise : FloorRises b v
  · have hm : (floorRaise v b).grn.mapUsed = b.grn.mapUsed := by
      rw [floorRaise_raised b hrise]; simp [modTly, bbRecord]
    have hs := store_floorRaise b hrise
    obtain ⟨hlt, hsvn, huse⟩ := hrise
    refine ⟨fun ⟨he, hi, hf, hmap, hl⟩ => ?_⟩
    simp only [floorUse] at hs huse
    refine ⟨⟨?_, ?_, ?_, ?_, ?_⟩, ⟨?_, ?_, ?_, ?_, ?_⟩⟩ <;> simp only [hs, hm, Nat.le_refl, implies_true]
    · exact he
    · exact huse
    · omega
    · exact hmap
    · exact hl
    · omega
    · omega
  · rw [floorRaise_refused b hrise]; exact .of_tallyPart (by simp)

/-- A commit of a link's lane map is counted, and refused at eight (R361). -/
theorem limitStep_lanemapCommit (l : Nat) : LimitStep b (lanemapCommit l b) := by
  unfold lanemapCommit
  dsimp only
  split
  · exact .of_tallyPart rfl
  · split
    · exact .of_tallyPart (by simp)
    · rename_i hlt
      refine ⟨fun ⟨he, hi, hf, hmap, hl⟩ => ?_⟩
      obtain ⟨hle, hge⟩ := get_put_succ_le (Nat.lt_of_not_le hlt) hl
      have hm (k : Nat) (e : Ev) (d : List Byte) : (bbRecord k e d b).grn.mapUsed = b.grn.mapUsed := mapUsed_of_tallyPart (by simp)
      exact ⟨⟨he, hi, hf, by simpa [hm] using hmap, hle⟩, ⟨Nat.le_refl _, Nat.le_refl _, Nat.le_refl _, by simp [hm], hge⟩⟩

theorem limitStep_lanemapWrite (l v : Nat) : LimitStep b (lanemapWrite l v b) := by
  unfold lanemapWrite
  dsimp only
  have hc : LimitStep b (if bitOf v 31 then lanemapCommit l (setReg (uLink l) Off.jxlLanemap (maskedWrite (reg b (uLink l) Off.jxlLanemap) v 0xFFFF) b)
      else setReg (uLink l) Off.jxlLanemap (maskedWrite (reg b (uLink l) Off.jxlLanemap) v 0xFFFF) b) := by
    split
    · exact LimitStep.trans (c := setReg (uLink l) Off.jxlLanemap _ b) (.of_tallyPart rfl) (limitStep_lanemapCommit _ l)
    · exact .of_tallyPart rfl
  exact hc.then_kept (by simp)

/-- A row repair is counted at its stack, and refused at 1,024 (R227, R541). -/
theorem limitStep_rowRepair (ch : Nat) (hits : List Strike) : LimitStep b (rowRepair ch hits b) := by
  unfold rowRepair
  split
  · exact .of_tallyPart rfl
  · dsimp only
    rename_i q _
    have hpre : tallyPart (releaseBank ch q.2.1 (strike hits { b with grn := { b.grn with repairReq := b.grn.repairReq.filter (· != q) } })) =
      tallyPart b := by simp
    generalize releaseBank ch q.2.1 (strike hits { b with grn := { b.grn with repairReq := b.grn.repairReq.filter (· != q) } }) = c at hpre
    split
    · exact .of_tallyPart (by simp)
    · split
      · exact .of_tallyPart (by simpa using hpre)
      · split
        · exact .of_tallyPart (by simpa using hpre)
        · rename_i hlt
          refine (LimitStep.of_tallyPart hpre).trans (LimitStep.then_kept (c := { c with grn := { c.grn with
            mapUsed := c.grn.mapUsed.put (ch % 32) (c.grn.mapUsed.get 0 (ch % 32) + 1) } }) ?_ ?_)
          · refine ⟨fun ⟨he, hi, hf, hmap, hl⟩ => ?_⟩
            obtain ⟨hle, hge⟩ := get_put_succ_le (Nat.lt_of_not_le hlt) hmap
            exact ⟨⟨he, hi, hf, hle, hl⟩, ⟨Nat.le_refl _, Nat.le_refl _, Nat.le_refl _, hge, fun _ => Nat.le_refl _⟩⟩
          · rw [tallyPart_setSq, tallyPart_raise, tallyPart_mk, tallyPart_fold]
            exact (foldl_keeps tallyPart _ _ _ fun d l => by simp).trans (by simp)


/-- The record ring of the black box is no counter. -/
theorem limitStep_bbWrite : LimitStep b (bbWrite b) := by
  unfold bbWrite
  split
  · exact .of_tallyPart rfl
  · split
    · exact .of_tallyPart rfl
    · dsimp only
      split
      · exact .of_tallyPart (by simp [modTly])
      · rename_i rest _ _ _
        have hd : tallyPart (if b.tly.dropped = 0 then { b with bbQueue := rest } else bbDropEvent { b with bbQueue := rest }) = tallyPart b := by simp
        exact (LimitStep.of_tallyPart hd).trans ⟨fun ⟨he, hi, hf, hmap, hl⟩ => ⟨⟨he, hi, hf, hmap, hl⟩,
          ⟨Nat.le_refl _, Nat.le_refl _, Nat.le_refl _, fun _ => Nat.le_refl _, fun _ => Nat.le_refl _⟩⟩⟩

/-- A power-up starts tally time again and keeps the store (R572). -/
theorem limitStep_tallyPowerUp (va vb : Nat) : LimitStep b (tallyPowerUp va vb b) := by
  unfold tallyPowerUp; dsimp only; split
  · exact .of_tallyPart rfl
  · exact .of_eq rfl rfl

theorem limitStep_moduleInsert (va vb : Nat) : LimitStep b (moduleInsert va vb b) := by
  unfold moduleInsert; dsimp only; split
  · exact .of_tallyPart rfl
  · exact (limitStep_tallyPowerUp b va vb).then_kept (by simp)

theorem limitStep_usTick : LimitStep b (usTick b) := by
  unfold usTick; split
  · exact .of_eq rfl rfl
  · exact .of_tallyPart rfl

/-! #### Register writes -/

theorem kindOf_link {u : Nat} (h : 128 ≤ u) (h' : u < 152) : kindOf u = some .link := by
  unfold kindOf
  simp (disch := omega) only [if_neg, if_pos]

/-- The registers whose write may reach the store are the lane map of a link and the floor of the security unit (R361, R542). -/
theorem changesStore_cases {u o : Nat} (h : changesStore u o = true) :
    (u = uSec ∧ o = Off.secFloorRaise) ∨ (kindOf u = some .link ∧ o = Off.jxlLanemap) := by
  simp only [changesStore, Bool.or_eq_true, Bool.and_eq_true, beq_iff_eq, decide_eq_true_eq] at h
  exact h.imp_right fun ⟨⟨hlo, hhi⟩, ho⟩ => ⟨kindOf_link hlo hhi, ho⟩

theorem limitStep_blockRegWrite {fe : Bool} {u o v : Nat} (h : changesStore u o = true) : LimitStep b (blockRegWrite fe u o v b).2 := by
  obtain ⟨rfl, rfl⟩ | ⟨hk, rfl⟩ := changesStore_cases h
  · exact limitStep_floorRaise b v
  · simp only [blockRegWrite, hk]; exact limitStep_lanemapWrite b _ v

theorem limitStep_writeAny {wr : Nat} {fe : Bool} {u o v : Nat} (h : changesStore u o = true) : LimitStep b (writeAny wr fe u o v b).2 := by
  have ho : o ≠ Off.unitReset ∧ o ≠ Off.mbxCtrl ∧ ¬ o < 0x1_0000 := by
    obtain ⟨-, rfl⟩ | ⟨-, rfl⟩ := changesStore_cases h <;> decide
  obtain ⟨h1, h2, h3⟩ := ho
  unfold writeAny
  simp only [h1, h2, h3, if_false]
  split
  · exact .of_tallyPart rfl
  · split
    · exact .of_tallyPart rfl
    · split
      · exact .of_tallyPart (by simp)
      · exact limitStep_blockRegWrite b h

theorem limitStep_regWrite (wr : Nat) (fe : Bool) (u o v : Nat) : LimitStep b (regWrite wr fe u o v b).2 := by
  unfold regWrite; dsimp only; split
  · rename_i h; exact limitStep_writeAny b h
  · exact .of_tallyPart rfl

theorem limitStep_regRmw (rd : Nat) (fe : Bool) (u o v m : Nat) : LimitStep b (regRmw rd fe u o v m b).2.2 := by
  unfold regRmw; dsimp only; split
  · exact .of_tallyPart (by simp)
  · exact (LimitStep.of_tallyPart (tallyPart_regRead b rd u o)).trans (limitStep_regWrite _ rd fe u o _)

theorem limitStep_registerWrite (w wr : Nat) (fe : Bool) (u o v : Nat) : LimitStep b (registerWrite w wr fe u o v b) := by
  unfold registerWrite; split
  · exact .of_tallyPart rfl
  · exact (limitStep_regWrite b wr fe u o v).then_kept rfl

/-! #### Commands of the reeve and of bring-up sessions -/

theorem limitStep_runCmd (op q : Nat) (f : Cmd → List Byte → Block → Block) (h : ∀ c a, LimitStep b (f c a b)) : LimitStep b (runCmd op q f b) := by
  unfold runCmd; split
  · exact .of_tallyPart rfl
  · split
    · exact .of_tallyPart rfl
    · exact h _ _

theorem limitStep_cmdEnrolKey (q : Nat) : LimitStep b (cmdEnrolKey q b) := by
  refine limitStep_runCmd b 0x04 q _ fun c a => ?_
  refine LimitStep.then_kept (c := (enrolKey c.who.slot (leAt a 32 1) (a.take 32) b).2) ?_ (by simp)
  unfold enrolKey; split
  · exact .of_tallyPart rfl
  · split
    · exact .of_tallyPart rfl
    · exact limitStep_enrol b _ _

theorem limitStep_cmdConfig (q : Nat) : LimitStep b (cmdConfig q b) := by
  refine limitStep_runCmd b 0x05 q _ fun c a => ?_
  dsimp only; split
  · exact .of_tallyPart rfl
  · exact (limitStep_regRmw b uReeve true ..).then_kept ((tallyPart_finishCmd ..).trans (by split <;> rfl))

theorem limitStep_claimSess (ring : Bool) (fl : Flow) (p : List Byte) : LimitStep b (claimSess ring fl p b) := by
  unfold claimSess
  dsimp only
  split
  · exact .of_tallyPart (by simp)
  · split
    · exact .of_tallyPart (by simp)
    · split
      · exact .of_tallyPart (by simp)
      · exact (limitStep_enrol b 0 ((p.drop 56).take 32)).then_kept (by simp)

/-- A frame of a bring-up server is taken before it acts. -/
theorem limitStep_raTake (port q op : Nat) (run : Flow → QHead → List Byte → List Byte → Block → Block)
    (h : ∀ fl hd c t d, LimitStep d (run fl hd c t d)) : LimitStep b (raTake port q op run b) := by
  unfold raTake
  split
  · exact .of_tallyPart rfl
  · dsimp only; split
    · exact .of_tallyPart (by simp)
    · split
      · exact .of_tallyPart (by simp)
      · split
        · exact .of_tallyPart (by simp)
        · split
          · exact LimitStep.trans (.of_tallyPart (tallyPart_raDrop b port q)) (h ..)
          · exact .of_tallyPart rfl

theorem limitStep_raAuth (port q op : Nat) (run : Sess → Flow → List Byte → Block → Block)
    (h : ∀ x fl p d, LimitStep d (run x fl p d)) : LimitStep b (raAuth port q op run b) := by
  refine limitStep_raTake b port q op _ fun fl hd c t d => ?_
  dsimp only; split
  · exact LimitStep.trans (.of_tallyPart (tallyPart_sessTake ..)) (h ..)
  · exact .of_tallyPart (tallyPart_sessTake ..)

theorem limitStep_raBegin (port q : Nat) : LimitStep b (raBegin port q b) := by
  unfold raBegin; split
  · exact .of_tallyPart rfl
  · refine limitStep_raAuth b port q _ _ fun x fl p d => ?_
    exact .of_tallyPart (by simp)

theorem limitStep_raEntry (port q op : Nat) (run : List Byte → Block → Block) (h : ∀ e d, LimitStep d (run e d)) :
    LimitStep b (raEntry port q op run b) := by
  unfold raEntry; dsimp only
  refine (limitStep_raBegin b port q).trans ?_
  split
  · split
    · split
      · exact (h _ _).then_kept (tallyPart_raRefuseBad ..)
      · exact .of_tallyPart rfl
    · exact .of_tallyPart rfl
  · exact .of_tallyPart rfl

theorem limitStep_raWrite (port q : Nat) : LimitStep b (raWrite port q b) := by
  refine limitStep_raEntry b port q _ _ fun e d => ?_
  dsimp only; split
  · exact .of_tallyPart (by simp [raFault])
  · split
    · exact .of_tallyPart (by simp)
    · exact ((LimitStep.of_tallyPart (tallyPart_raWakes d)).trans (limitStep_regWrite ..)).then_kept (tallyPart_raResult ..)

theorem limitStep_raRmw (port q : Nat) : LimitStep b (raRmw port q b) := by
  refine limitStep_raEntry b port q _ _ fun e d => ?_
  dsimp only; split
  · exact .of_tallyPart (by simp [raFault])
  · split
    · exact .of_tallyPart (by simp)
    · exact ((LimitStep.of_tallyPart (tallyPart_raWakes d)).trans (limitStep_regRmw ..)).then_kept (tallyPart_raResult ..)

theorem limitStep_whenMain {f : Block → Block} (h : LimitStep b (f b)) : LimitStep b (whenMain f b) := by
  unfold whenMain; split
  · exact h
  · exact .of_tallyPart rfl


/-! ### Every step -/

/-- The commands whose effect may reach the tally store, the repair counts or tally time. -/
def reachesStore : Instr → Bool
  | .raClaim .. | .raWrite .. | .raRmw .. | .lanemapCommit .. | .registerWrite .. | .tallyUsTick | .rowRepair .. | .tallyPowerUp .. | .bbRecordWrite
  | .moduleInsert .. | .enrolKey .. | .config .. | .secFloorRaise .. => true
  | _ => false

/-- Every command changes the block and nothing else: none faults, none is refused. -/
theorem exec_runAll (i : Instr) (s : State) : ∃ g, exec i s = s.runAll g := by cases i <;> exact ⟨_, rfl⟩

/-- A command that does not reach the store runs under `keepTally`. -/
theorem exec_run {i : Instr} (h : reachesStore i = false) (s : State) : ∃ g, exec i s = s.run g := by
  cases i <;> cases h <;> exact ⟨_, rfl⟩

/-- The commands that reach the store keep its limits. -/
theorem exec_limitStep {i : Instr} (h : reachesStore i = true) (s : State) : ∃ g, exec i s = s.runAll g ∧ LimitStep s.blk (g s.blk) := by
  cases i <;> cases h
  case registerWrite wr fe u o v => exact ⟨_, rfl, limitStep_registerWrite ..⟩
  case tallyUsTick => exact ⟨_, rfl, limitStep_usTick _⟩
  case rowRepair ch hits => exact ⟨_, rfl, limitStep_whenMain _ (limitStep_rowRepair ..)⟩
  case lanemapCommit l v => exact ⟨_, rfl, limitStep_whenMain _ (limitStep_lanemapWrite ..)⟩
  case enrolKey q => exact ⟨_, rfl, limitStep_whenMain _ (limitStep_cmdEnrolKey ..)⟩
  case config q => exact ⟨_, rfl, limitStep_whenMain _ (limitStep_cmdConfig ..)⟩
  case raClaim port q => exact ⟨_, rfl, limitStep_raTake _ port q _ _ fun _ _ _ _ _ => limitStep_claimSess ..⟩
  case raWrite port q => exact ⟨_, rfl, limitStep_raWrite ..⟩
  case raRmw port q => exact ⟨_, rfl, limitStep_raRmw ..⟩
  case secFloorRaise v => exact ⟨_, rfl, limitStep_whenMain _ (limitStep_floorRaise ..)⟩
  case bbRecordWrite => exact ⟨_, rfl, limitStep_bbWrite _⟩
  case tallyPowerUp va vb => exact ⟨_, rfl, limitStep_tallyPowerUp ..⟩
  case moduleInsert va vb => exact ⟨_, rfl, limitStep_moduleInsert ..⟩

/-- Whatever the command, the limits are kept and nothing counted is lowered. -/
theorem limitStep_exec {i : Instr} {s s' : State} (h : exec i s = .next s') : LimitStep s.blk s'.blk := by
  cases hi : reachesStore i with
  | true =>
    obtain ⟨g, hg, hstep⟩ := exec_limitStep hi s
    cases hg.symm.trans h
    exact hstep
  | false =>
    obtain ⟨g, hg⟩ := exec_run hi s
    cases hg.symm.trans h
    exact .of_tallyPart (tallyPart_keepTally g s.blk)

end Sys2Proof.Machine

open Sys2Proof Sys2Proof.Machine

/-- Settles O57: both are the step's own branches. -/
theorem stepRunsFront : Obligations.StepRunsFront := fun b c rest => ⟨step_cons b c rest, step_nil b⟩

/-- Settles O58: an empty queue idles, and every command answers a next state. -/
theorem everyStepGoesOn : Obligations.EveryStepGoesOn := by
  unfold Obligations.EveryStepGoesOn
  rintro ⟨b, _ | ⟨c, rest⟩⟩
  · exact ⟨b, step_nil b⟩
  · obtain ⟨g, hg⟩ := exec_runAll c ⟨b, rest⟩
    exact ⟨g b, (step_cons b c rest).trans hg⟩

/-- Settles O59: the idle step changes nothing, and every command keeps the limits. -/
theorem limitsKept : Obligations.LimitsKept := by
  unfold Obligations.LimitsKept
  rintro ⟨b, _ | ⟨c, rest⟩⟩ s' hb h
  · cases h
    exact (LimitStep.of_tallyPart rfl).keeps hb
  · exact (limitStep_exec ((step_cons b c rest).symm.trans h)).keeps hb

/-- Settles O60: nothing has been counted, and the main domain is off. -/
theorem limitsAtReset : Obligations.LimitsAtReset := by
  unfold Obligations.LimitsAtReset
  refine ⟨⟨Nat.zero_le _, Nat.zero_le _, Nat.le_refl _, fun st => ?_, fun l => ?_⟩, rfl, by decide⟩
  · exact Nat.le_trans (Nat.le_of_eq (SMap.get_nil 0 st)) (Nat.zero_le _)
  · exact Nat.le_trans (Nat.le_of_eq (SMap.get_nil 0 l)) (Nat.zero_le _)

end

section
/-! PROOFS. Sheaf coding (R339, R340). The plane order, the tokens, the segments and the block are undone one after the other. -/

namespace Sys2Proof.Machine

/-! ### Planes -/

theorem toPlanes_length (es : Nat) (d : List Byte) : (toPlanes es d).length = 512 := by simp [toPlanes]

/-- Where the plane order puts a byte is where it came from, for `w` elements of `es` bytes. -/
theorem plane_place {es w p : Nat} (hes : 0 < es) (hp : p < es * w) :
    (es - 1 - p % es) * w + p / es < es * w ∧
    ((es - 1 - p % es) * w + p / es) % w * es + (es - 1 - ((es - 1 - p % es) * w + p / es) / w) = p := by
  have hq : p / es < w := Nat.div_lt_of_lt_mul hp
  have hr : p % es < es := Nat.mod_lt _ hes
  have hmod : ((es - 1 - p % es) * w + p / es) % w = p / es := by rw [Nat.add_comm, Nat.add_mul_mod_self_right, Nat.mod_eq_of_lt hq]
  have hdiv : ((es - 1 - p % es) * w + p / es) / w = es - 1 - p % es := by
    rw [Nat.add_comm, Nat.add_mul_div_right _ _ (by omega), Nat.div_eq_of_lt hq, Nat.zero_add]
  refine ⟨?_, ?_⟩
  · calc (es - 1 - p % es) * w + p / es < (es - 1 - p % es) * w + w := by omega
      _ = (es - 1 - p % es + 1) * w := (Nat.succ_mul _ _).symm
      _ ≤ es * w := Nat.mul_le_mul_right _ (by omega)
  · rw [hmod, hdiv, Nat.sub_sub_self (by omega : p % es ≤ es - 1), Nat.div_add_mod']

/-- The plane order is a permutation of the granule's bytes. -/
theorem fromPlanes_toPlanes {es : Nat} {d : List Byte} (hes : es = 1 ∨ es = 2 ∨ es = 4) (hd : d.length = 512) : fromPlanes es (toPlanes es d) = d := by
  refine List.ext_getElem (by simp [fromPlanes, hd]) fun p h _ => ?_
  have hp : p < 512 := by simpa [fromPlanes] using h
  have hmul : es * (512 / es) = 512 := by obtain rfl | rfl | rfl := hes <;> rfl
  obtain ⟨hlt, heq⟩ := plane_place (w := 512 / es) (by omega) (hmul.symm ▸ hp)
  rw [hmul] at hlt
  simp only [fromPlanes, toPlanes, List.getElem_map, List.getElem_range]
  rw [List.getD_eq_getElem?_getD, List.getElem?_map, List.getElem?_range hlt, Option.map_some, Option.getD_some, heq, List.getD_eq_getElem?_getD,
    List.getElem?_eq_getElem (by omega), Option.getD_some]

/-! ### Tokens (log entry 43) -/

/-- The leading elements that pass a test are an initial run. -/
theorem prefix_takeWhile_take {α : Type} (p : α → Bool) (l : List α) (n : Nat) :
    l.take ((l.takeWhile p).take n).length = (l.takeWhile p).take n :=
  List.prefix_iff_eq_take.mp ((List.take_prefix n _).trans (List.takeWhile_prefix p)) |>.symm

/-- A run of zeros is its length in zeros. -/
theorem take_takeWhile_zero (l : List Byte) (n : Nat) :
    (l.takeWhile fun y => y == 0).take n = List.replicate ((l.takeWhile fun y => y == 0).take n).length 0 :=
  List.eq_replicate_iff.mpr ⟨rfl, fun _ hx => by simpa using List.all_eq_true.mp List.all_takeWhile _ (List.mem_of_mem_take hx)⟩

theorem toNat_of_lt {v : Nat} (h : v < 256) : (BitVec.ofNat 8 v : Byte).toNat = v := by simp [Nat.mod_eq_of_lt h]

/-- A token of a run of `k` zeros, 1 to 128 (R340). -/
theorem decodeSeg_zeros (n k : Nat) (r : List Byte) (h0 : 0 < k) (hk : k ≤ 128) :
    decodeSeg (n + 1) (leBytes 1 (k - 1) ++ r) = List.replicate k 0 ++ decodeSeg n r := by
  have hlt : k - 1 < 0x80 := by omega
  simp only [leBytes, List.cons_append, List.nil_append, decodeSeg, toNat_of_lt (by omega : k - 1 < 256), if_pos hlt, Nat.sub_add_cancel h0]

/-- A token of a run of literals, 1 to 128, with its literals (R340). -/
theorem decodeSeg_literals (n : Nat) (v r : List Byte) (h0 : 0 < v.length) (hk : v.length ≤ 128) :
    decodeSeg (n + 1) (leBytes 1 (v.length + 0x7F) ++ v ++ r) = v ++ decodeSeg n r := by
  have hge : ¬ v.length + 0x7F < 0x80 := by omega
  simp only [leBytes, List.cons_append, List.nil_append, decodeSeg, toNat_of_lt (by omega : v.length + 0x7F < 256), if_neg hge, Nat.add_sub_cancel,
    List.take_left, List.drop_left]

/-- What decodes the tokens of a segment gives its bytes back, with at least as much fuel as it has bytes. -/
theorem decodeSeg_encodeSeg (n : Nat) : ∀ (l : List Byte) (m : Nat), l.length ≤ n → (encodeSeg n l).length ≤ m → decodeSeg m (encodeSeg n l) = l := by
  induction n with
  | zero =>
    intro l m hl _
    obtain rfl : l = [] := List.length_eq_zero_iff.mp (by omega)
    cases m <;> rfl
  | succ n ih =>
    intro l m hl hm
    cases l with
    | nil => cases m <;> rfl
    | cons x t =>
      have hcut (k : Nat) (hk : 0 < k) : ((x :: t).drop k).length ≤ n := by simp at hl ⊢; omega
      by_cases hx : x = 0
      · obtain ⟨run, hrun⟩ : ∃ run, run = ((x :: t).takeWhile fun y => y == 0).take 128 := ⟨_, rfl⟩
        have hpos : 0 < run.length := by simp [hrun, hx]
        have hle : run.length ≤ 128 := hrun ▸ List.length_take_le _ _
        have hrep : run = List.replicate run.length 0 := hrun ▸ take_takeWhile_zero _ _
        have hpre : (x :: t).take run.length = run := hrun ▸ prefix_takeWhile_take _ _ _
        have henc : encodeSeg (n + 1) (x :: t) = leBytes 1 (run.length - 1) ++ encodeSeg n ((x :: t).drop run.length) := by
          simp only [encodeSeg, if_pos hx, ← hrun]
        rw [henc] at hm ⊢
        simp only [List.length_append, leBytes_length] at hm
        obtain ⟨m, rfl⟩ : ∃ m', m = m' + 1 := ⟨m - 1, by omega⟩
        rw [decodeSeg_zeros _ _ _ hpos hle, ih _ m (hcut _ hpos) (by omega), ← hrep]
        conv => lhs; rw [← hpre]
        exact hpre.symm ▸ List.take_append_drop _ _
      · obtain ⟨lit, hlit⟩ : ∃ lit, lit = ((x :: t).takeWhile fun y => y != 0).take 128 := ⟨_, rfl⟩
        have hpos : 0 < lit.length := by rw [hlit, List.takeWhile_cons_of_pos (by simpa using hx)]; simp
        have hle : lit.length ≤ 128 := hlit ▸ List.length_take_le _ _
        have hpre : (x :: t).take lit.length = lit := hlit ▸ prefix_takeWhile_take _ _ _
        have henc : encodeSeg (n + 1) (x :: t) = leBytes 1 (lit.length + 0x7F) ++ lit ++ encodeSeg n ((x :: t).drop lit.length) := by
          simp only [encodeSeg, if_neg hx, ← hlit]
        rw [henc] at hm ⊢
        simp only [List.length_append, leBytes_length] at hm
        obtain ⟨m, rfl⟩ : ∃ m', m = m' + 1 := ⟨m - 1, by omega⟩
        rw [decodeSeg_literals _ _ _ hpos hle, ih _ m (hcut _ hpos) (by omega)]
        conv => lhs; rw [← hpre]
        exact hpre.symm ▸ List.take_append_drop _ _

/-! ### Segments and blocks -/

/-- What a segment word and its segment say of the granule (R340). -/
def decodeSegment (es : Nat) (s : Nat × List Byte) : List Byte := fromPlanes es (if bitOf s.1 15 then s.2 else decodeSeg s.2.length s.2)

/-- A segment is its tokens where they are shorter, else the planes as they stand (R340). -/
theorem segment_cases (es : Nat) (d : List Byte) :
    (∃ s, s = encodeSeg 512 (toPlanes es d) ∧ s.length < 512 ∧ segment es d = (s.length, s)) ∨ segment es d = (2 ^ 15 + 512, toPlanes es d) := by
  obtain ⟨s, hs⟩ : ∃ s, s = encodeSeg 512 (toPlanes es d) := ⟨_, rfl⟩
  simp only [segment, ← hs]
  split
  case isTrue hlt => exact .inl ⟨s, rfl, hlt, rfl⟩
  case isFalse => exact .inr rfl

/-- The low bits of a segment's word are its length. -/
theorem segment_length (es : Nat) (d : List Byte) : (segment es d).1 % 1024 = (segment es d).2.length := by
  obtain ⟨s, -, hlt, heq⟩ | heq := segment_cases es d <;> rw [heq]
  · exact Nat.mod_eq_of_lt (by omega)
  · have hlen := toPlanes_length es d
    dsimp only
    omega

theorem segment_word_lt (es : Nat) (d : List Byte) : (segment es d).1 < 2 ^ (8 * 2) := by
  obtain ⟨s, -, hlt, heq⟩ | heq := segment_cases es d <;> rw [heq]
  · exact Nat.lt_trans hlt (by decide)
  · exact (by decide : 2 ^ 15 + 512 < 2 ^ (8 * 2))

theorem decodeSegment_segment {es : Nat} {d : List Byte} (hes : es = 1 ∨ es = 2 ∨ es = 4) (hd : d.length = 512) : decodeSegment es (segment es d) = d := by
  obtain ⟨s, hs, hlt, heq⟩ | heq := segment_cases es d <;> rw [heq]
  · have hraw : bitOf s.length 15 = false := Nat.testBit_lt_two_pow (Nat.lt_trans hlt (by decide))
    have hdec : decodeSeg s.length s = toPlanes es d := by
      rw [hs] at hlt ⊢
      exact decodeSeg_encodeSeg 512 _ _ (Nat.le_of_eq (toPlanes_length es d)) (Nat.le_refl _)
    simp only [decodeSegment, hraw, Bool.false_eq_true, if_false, hdec, fromPlanes_toPlanes hes hd]
  · have hraw : bitOf (2 ^ 15 + 512) 15 = true := by decide
    simp only [decodeSegment, hraw, if_true, fromPlanes_toPlanes hes hd]

/-- Each segment is found behind the ones before it. -/
theorem decodeGranules_segments (es : Nat) (ss : List (Nat × List Byte)) (h : ∀ s ∈ ss, s.1 % 1024 = s.2.length) :
    decodeGranules es (ss.map (·.1)) (ss.map (·.2)).flatten = ss.flatMap (decodeSegment es) := by
  induction ss with
  | nil => rfl
  | cons s ss ih =>
    have hs : s.1 % 1024 = s.2.length := h s (by simp)
    simp only [List.map_cons, List.flatten_cons, decodeGranules, hs, List.take_left, List.drop_left, List.flatMap_cons,
      ih fun t ht => h t (List.mem_cons_of_mem _ ht)]
    rfl

theorem length_words (ws : List Nat) : (ws.flatMap (leBytes 2)).length = 2 * ws.length := by
  induction ws with
  | nil => rfl
  | cons w ws ih => rw [List.flatMap_cons, List.length_append, leBytes_length, ih, List.length_cons]; omega

/-- The segment words stand one behind the other, two bytes each. -/
theorem leAt_words (ws : List Nat) (r : List Byte) (g : Nat) (h : ∀ w ∈ ws, w < 2 ^ (8 * 2)) (hg : g < ws.length) :
    leAt (ws.flatMap (leBytes 2) ++ r) (2 * g) 2 = ws[g] := by
  refine leAt_mid _ ((ws.take g).flatMap (leBytes 2)) ((ws.drop (g + 1)).flatMap (leBytes 2) ++ r) _ 2 _ ?_ ?_ (h _ (List.getElem_mem hg))
  · have hcut : ws = ws.take g ++ ws[g] :: ws.drop (g + 1) := by rw [List.getElem_cons_drop, List.take_append_drop]
    conv => lhs; rw [hcut]
    simp only [List.flatMap_append, List.flatMap_cons, List.append_assoc]
  · rw [length_words, List.length_take]; omega

/-- A block is its granules one behind the other. -/
theorem flatMap_granules (d : List Byte) (n : Nat) (h : d.length = 512 * n) : ((List.range n).flatMap fun g => (d.drop (512 * g)).take 512) = d := by
  have hcut (k : Nat) (hk : k ≤ n) : ((List.range k).flatMap fun g => (d.drop (512 * g)).take 512) = d.take (512 * k) := by
    induction k with
    | zero => simp
    | succ k ih => rw [List.range_succ, List.flatMap_append, ih (by omega), List.flatMap_singleton, Nat.mul_succ, List.take_add]
  rw [hcut n (Nat.le_refl n), ← h, List.take_length]

/-- Decoding undoes the coding of a whole block. -/
theorem decodeBlock_codeBlock {es : Nat} {d : List Byte} (hes : es = 1 ∨ es = 2 ∨ es = 4) (hd : d.length = 65536) : decodeBlock es (codeBlock es d) = d := by
  obtain ⟨ss, hss⟩ : ∃ ss, ss = (List.range 128).map fun g => segment es ((d.drop (512 * g)).take 512) := ⟨_, rfl⟩
  have hcount : ss.length = 128 := by simp [hss]
  have hcode : codeBlock es d = (ss.map (·.1)).flatMap (leBytes 2) ++ (ss.map (·.2)).flatten := by simp only [codeBlock, ← hss, List.flatMap_map]
  have hword : ∀ w ∈ ss.map (·.1), w < 2 ^ (8 * 2) := by simp only [hss, List.mem_map]; rintro _ ⟨_, ⟨_, _, rfl⟩, rfl⟩; exact segment_word_lt ..
  have hsize : ∀ s ∈ ss, s.1 % 1024 = s.2.length := by simp only [hss, List.mem_map]; rintro _ ⟨_, _, rfl⟩; exact segment_length ..
  have hwords : ((List.range 128).map fun g => leAt (codeBlock es d) (2 * g) 2) = ss.map (·.1) := by
    refine List.ext_getElem (by simp [hcount]) fun g hg _ => ?_
    rw [List.getElem_map, List.getElem_range, hcode, leAt_words _ _ _ hword (by simpa [hcount] using hg)]
  have hrest : (codeBlock es d).drop 256 = (ss.map (·.2)).flatten := by
    rw [hcode, List.drop_left' (by rw [length_words, List.length_map, hcount])]
  have hgran (g : Nat) (hg : g < 128) : decodeSegment es (segment es ((d.drop (512 * g)).take 512)) = (d.drop (512 * g)).take 512 :=
    decodeSegment_segment hes (by rw [List.length_take, List.length_drop]; omega)
  calc decodeBlock es (codeBlock es d) = ss.flatMap (decodeSegment es) := by rw [decodeBlock, hwords, hrest, decodeGranules_segments es ss hsize]
    _ = (List.range 128).flatMap fun g => (d.drop (512 * g)).take 512 := by
        rw [hss, List.flatMap_map, List.flatMap_def, List.map_congr_left fun g hg => hgran g (List.mem_range.mp hg), ← List.flatMap_def]
    _ = d := flatMap_granules d 128 hd

end Sys2Proof.Machine

open Sys2Proof Sys2Proof.Machine

/-- Settles O34: segment by segment, the tokens and then the plane order are undone. -/
theorem sheafCoding : Obligations.SheafCoding := fun _ _ => decodeBlock_codeBlock

end

section
/-! PROOFS. Completion of a tile's operations (R148, R151, R155, R156, R161). What a completion, a signal and a fault leave of the tile and of TIL_FAULT. -/

namespace Sys2Proof.Machine

variable (b : Block)

/-! ### What reads a tile and its registers -/

theorem tileOf_of_til {b c : Block} (h : c.til = b.til) (t : Nat) : tileOf c t = tileOf b t := by rw [tileOf, tileOf, h]

@[simp] theorem tileOf_keepTally (f : Block → Block) (t : Nat) : tileOf (keepTally f b) t = tileOf (f b) t := rfl
@[simp] theorem reg_keepTally (f : Block → Block) (u o : Nat) : reg (keepTally f b) u o = reg (f b) u o := rfl

/-- An event leaves the own registers of every unit as they were but for the tally die's. -/
theorem reg_raise_own {u o : Nat} (u' : Nat) (e : Ev) (arg : Nat) (hu : u ≠ uTly) (ho : OwnOffset o) : reg (raise u' e arg b) u o = reg b u o := by
  have hne {k : Nat} (hk : k < 0x1_0000) : regKey u o ≠ regKey u' k := fun h => by
    have := ((regKey_inj u o u' k ho.2 (by omega)).mp h).2
    have := ho.1
    omega
  have hput : reg (ringPut u' e arg b) u o = reg b u o := by
    cases h : ringFull b u' with
    | true =>
      rw [ringPut_of_full b e arg h, reg_setSq, if_neg (hne (by decide)), reg_setReg, if_neg (hne (by decide)), reg_setReg, if_neg (hne (by decide))]
    | false =>
      have hw : reg (ringPut u' e arg b) u o = reg (setReg u' Off.evtHead ((reg b u' Off.evtHead / 2 ^ 16 + 1) % 2 ^ 16 * 2 ^ 16 +
          (reg b u' Off.evtHead % 64 + 1) % 64) b) u o := by simp only [ringPut, h]; rfl
      rw [hw, reg_setReg, if_neg (hne (by decide))]
  simp only [raise]
  split
  · rw [reg_bbPush _ _ hu ho, reg_countEvent, hput]
  · rw [reg_countEvent, hput]

/-- An event with its status bit leaves a register elsewhere as it was. -/
theorem reg_notify_own {u o : Nat} (u' : Nat) (f : Field) (e : Ev) (arg : Nat) (hu : u ≠ uTly) (ho : OwnOffset o)
    (hne : regKey u o ≠ regKey u' (f.off + f.stride * 0)) : reg (notify u' f e arg b) u o = reg b u o := by
  rw [notify, reg_raise_own _ _ _ _ hu ho, reg_setSq, if_neg hne]

theorem uTile_ne_uTly {t : Nat} (h : t < 64) : uTile t ≠ uTly := by have : uTly = 2 := rfl; unfold uTile; omega

/-! ### The operations of a tile's window -/

@[simp] theorem til_recordFault (t : Nat) (s : Status) (cls wslot tag : Nat) : (recordFault t s cls wslot tag b).til = b.til := by
  unfold recordFault; split <;> rfl

@[simp] theorem til_countCompletion (t : Nat) (o : Op) : (countCompletion t o b).til = b.til := by
  unfold countCompletion
  dsimp only
  split
  · exact (raise_frame ..).2.1
  · rfl

@[simp] theorem til_lendSettle (t : Nat) : (lendSettle t b).til = b.til := by unfold lendSettle; split <;> rfl

@[simp] theorem face_lendSettle (t : Nat) : (lendSettle t b).face = b.face := by unfold lendSettle; split <;> rfl

@[simp] theorem til_versionAbort (j t : Nat) : (versionAbort j t b).til = b.til := (notify_frame ..).2.1

@[simp] theorem til_fenceLend (t : Nat) (d : List Byte) : (fenceLend t d b).til = b.til := by 
  unfold fenceLend; dsimp only; (repeat' split) <;> rfl

@[simp] theorem face_setPhase (t k : Nat) (p : OpPhase) : (setPhase t k p b).face = b.face := rfl

theorem tileOf_setPhase (t k : Nat) (p : OpPhase) :
    tileOf (setPhase t k p b) t = { tileOf b t with ops := (tileOf b t).ops.map fun o => if o.k = k then { o with phase := p } else o } := by
  simp [setPhase, modOp]

theorem mem_of_mem_releaseSlots {p : Op} {l : List Op} (h : p ∈ releaseSlots l) : p ∈ l := by
  induction l with
  | nil => exact h
  | cons o r ih =>
    rw [releaseSlots] at h
    split at h
    · exact List.mem_cons_of_mem _ (ih h)
    · exact h

theorem reg_countCompletion {t : Nat} (ht : t < 64) (o : Op) : reg (countCompletion t o b) (uTile t) Off.tilFault = reg b (uTile t) Off.tilFault := by
  have hbump : reg (bump (uTile t) Off.tilOpsLo 1 b) (uTile t) Off.tilFault = reg b (uTile t) Off.tilFault := by
    simp only [bump, reg_setReg, regKey_same_unit]
    rfl
  unfold countCompletion
  dsimp only
  split
  · rw [reg_raise_own _ _ _ _ (uTile_ne_uTly ht) (by decide), hbump]
  · exact hbump

/-! ### TIL_FAULT keeps the first status (R161) -/

theorem statusCode_eq_zero (s : Status) : statusCode s = 0 ↔ s = .ok := by cases s <;> simp [statusCode]

theorem leNat_lt (l : List Byte) : leNat l < 2 ^ (8 * l.length) := by
  induction l with
  | nil => exact Nat.one_pos
  | cons x r ih =>
    have hx : x.toNat < 256 := x.isLt
    rw [leNat, List.length_cons, Nat.mul_succ, Nat.pow_add]
    omega

/-- What `n` bytes spell is below `256 ^ n`. -/
theorem leAt_lt (l : List Byte) (off n : Nat) : leAt l off n < 2 ^ (8 * n) :=
  Nat.lt_of_lt_of_le (leNat_lt _) (Nat.pow_le_pow_right (by decide) (Nat.mul_le_mul_left _ (List.length_take_le _ _)))

/-- A fault's word is not 0: its status is none of OK's. -/
theorem faultWord_ne_zero {s : Status} {d : List Byte} {cls w : Nat} (hs : s ≠ .ok) (h8 : statusCode s < 8) : faultWord s cls w (dTag d) % 2 ^ 32 ≠ 0 := by
  have hcode : 0 < statusCode s := Nat.pos_of_ne_zero fun h => hs ((statusCode_eq_zero s).mp h)
  have htag : dTag d < 2 ^ 16 := leAt_lt _ _ 2
  simp only [faultWord]
  omega

theorem recordFault_of_ne {t : Nat} {s : Status} {cls w tag : Nat} (h : reg b (uTile t) Off.tilFault ≠ 0) : recordFault t s cls w tag b = b := if_neg h

theorem reg_recordFault (t : Nat) (s : Status) (cls w tag : Nat) : reg (recordFault t s cls w tag b) (uTile t) Off.tilFault =
    if reg b (uTile t) Off.tilFault = 0 then faultWord s cls w tag % 2 ^ 32 else reg b (uTile t) Off.tilFault := by
  unfold recordFault
  split
  · exact reg_setReg_same ..
  · rfl

/-! ### A fault cancels what had not started (R161) -/

/-- One waiting operation is cancelled. -/
def cancelOp (t : Nat) (b : Block) (o : Op) : Block :=
  countCompletion t o (recordFault t .cancelled (dClass o.desc) o.k (dTag o.desc) (setPhase t o.k (.completed .cancelled) b))

theorem cancelWaiting_eq (t : Nat) : cancelWaiting t b =
    modTile t (fun x => { x with ops := releaseSlots x.ops }) (((tileOf b t).ops.filter Op.isWaiting).foldl (cancelOp t) b) := rfl

theorem tileOf_cancelOp (t : Nat) (o : Op) : tileOf (cancelOp t b o) t =
    { tileOf b t with ops := (tileOf b t).ops.map fun p => if p.k = o.k then { p with phase := .completed .cancelled } else p } := by
  rw [cancelOp, tileOf_of_til (til_countCompletion ..), tileOf_of_til (til_recordFault ..), tileOf_setPhase]

/-- What still waits once a list of operations is cancelled waited before, and is none of them. -/
theorem tileOf_foldl_cancelOp (t : Nat) (l : List Op) : ∀ b : Block, ∃ ops, tileOf (l.foldl (cancelOp t) b) t = { tileOf b t with ops := ops } ∧
    ∀ p ∈ ops, p.isWaiting = true → p ∈ (tileOf b t).ops ∧ ∀ o ∈ l, p.k ≠ o.k := by
  induction l with
  | nil => exact fun b => ⟨(tileOf b t).ops, rfl, fun p hp _ => ⟨hp, fun o ho => by simp at ho⟩⟩
  | cons o l ih =>
    intro b
    obtain ⟨ops, heq, hops⟩ := ih (cancelOp t b o)
    refine ⟨ops, by rw [List.foldl_cons, heq, tileOf_cancelOp], fun p hp hw => ?_⟩
    obtain ⟨hmem, hne⟩ := hops p hp hw
    rw [tileOf_cancelOp] at hmem
    obtain ⟨q, hq, hqp⟩ := List.mem_map.mp hmem
    by_cases hk : q.k = o.k
    · simp only [hk, if_true] at hqp
      subst hqp
      simp [Op.isWaiting] at hw
    · simp only [hk, if_false] at hqp
      subst hqp
      exact ⟨hq, List.forall_mem_cons.mpr ⟨hk, hne⟩⟩

/-- Nothing waits any more, and of the tile only its window changes. -/
theorem tileOf_cancelWaiting (t : Nat) : ∃ ops, tileOf (cancelWaiting t b) t = { tileOf b t with ops := ops } ∧ ∀ p ∈ ops, p.isWaiting = false := by
  obtain ⟨ops, heq, hops⟩ := tileOf_foldl_cancelOp t ((tileOf b t).ops.filter Op.isWaiting) b
  refine ⟨releaseSlots ops, by rw [cancelWaiting_eq, tileOf_modTile, if_pos rfl, heq], fun p hp => ?_⟩
  refine Decidable.byContradiction fun hw => ?_
  rw [Bool.not_eq_false] at hw
  obtain ⟨hmem, hne⟩ := hops p (mem_of_mem_releaseSlots hp) hw
  exact hne p (List.mem_filter.mpr ⟨hmem, hw⟩) rfl

/-- A fault recorded before stays. -/
theorem reg_cancelWaiting {t : Nat} (ht : t < 64) (h : reg b (uTile t) Off.tilFault ≠ 0) :
    reg (cancelWaiting t b) (uTile t) Off.tilFault = reg b (uTile t) Off.tilFault := by
  have hone (c : Block) (o : Op) (hc : reg c (uTile t) Off.tilFault = reg b (uTile t) Off.tilFault) :
      reg (cancelOp t c o) (uTile t) Off.tilFault = reg b (uTile t) Off.tilFault := by
    have hp : reg (setPhase t o.k (.completed .cancelled) c) (uTile t) Off.tilFault = reg b (uTile t) Off.tilFault := hc
    rw [cancelOp, reg_countCompletion _ ht, recordFault_of_ne _ (hp.symm ▸ h), hp]
  rw [cancelWaiting_eq, reg_of_face (modTile_frame ..).1]
  exact foldl_inv (fun c => reg c (uTile t) Off.tilFault = reg b (uTile t) Off.tilFault) _ _ _ rfl hone

/-- A running stream that faults: its tile keeps all but its window, which holds nothing that waits. -/
theorem tileOf_streamFault (t : Nat) (s : Status) (cls w tag : Nat) (h : (tileOf b t).stream = .running) :
    ∃ ops, tileOf (streamFault t s cls w tag b) t = { tileOf b t with stream := .faulted, faultTold := false, ops := ops } ∧ ∀ p ∈ ops, p.isWaiting = false := by
  have hrec : tileOf (recordFault t s cls w tag b) t = tileOf b t := tileOf_of_til (til_recordFault ..) t
  obtain ⟨ops, heq, hops⟩ := tileOf_cancelWaiting (setSq (uTile t) Fld.tilStatusFaulted
    (modTile t (fun x => { x with stream := .faulted, faultTold := false }) (recordFault t s cls w tag b))) t
  refine ⟨ops, ?_, hops⟩
  rw [streamFault, if_pos (hrec.symm ▸ h), heq, tileOf_of_til (setSq_frame ..).2.1, tileOf_modTile, if_pos rfl, hrec]

theorem reg_streamFault {t : Nat} (ht : t < 64) {s : Status} {cls w tag : Nat} (h : (tileOf b t).stream = .running)
    (hne : faultWord s cls w tag % 2 ^ 32 ≠ 0) : reg (streamFault t s cls w tag b) (uTile t) Off.tilFault =
      if reg b (uTile t) Off.tilFault = 0 then faultWord s cls w tag % 2 ^ 32 else reg b (uTile t) Off.tilFault := by
  have hrec : tileOf (recordFault t s cls w tag b) t = tileOf b t := tileOf_of_til (til_recordFault ..) t
  have hsq : reg (setSq (uTile t) Fld.tilStatusFaulted (modTile t (fun x => { x with stream := .faulted, faultTold := false })
      (recordFault t s cls w tag b))) (uTile t) Off.tilFault = reg (recordFault t s cls w tag b) (uTile t) Off.tilFault := by
    rw [reg_setSq, if_neg fun h => absurd ((regKey_same_unit ..).mp h) (by decide)]; rfl
  have hset : reg (recordFault t s cls w tag b) (uTile t) Off.tilFault ≠ 0 := by
    rw [reg_recordFault]; split
    · exact hne
    · assumption
  rw [streamFault, if_pos (hrec.symm ▸ h), reg_cancelWaiting _ ht (hsq.symm ▸ hset), hsq, reg_recordFault]

/-! ### Completion (R151, R155, R156) -/

/-- A completion without more to it (R151, R313). -/
theorem opComplete_plain {t uq : Nat} {o : Op} {s : Status} (h : nextToSignal (tileOf b t) uq = some o) (hp : o.phase = .finished s)
    (hv : s ≠ .versionFault) (hf : ¬ (isCop o.desc 3 = true ∧ s = .ok)) : opComplete t uq b = lendSettle t (completeOp t o s b) := by
  by_cases hs : s = .ok
  · subst hs
    have hc : isCop o.desc 3 = false := by simpa using hf
    simp [opComplete, h, hp, hc]
  · cases s <;> simp [opComplete, h, hp] at hv hs ⊢

/-- A FENCE that completes may lend its tile (R310). -/
theorem opComplete_fence {t uq : Nat} {o : Op} (h : nextToSignal (tileOf b t) uq = some o) (hp : o.phase = .finished .ok) (hf : isCop o.desc 3 = true) :
    opComplete t uq b = fenceLend t o.desc (lendSettle t (completeOp t o .ok b)) := by simp [opComplete, h, hp, hf]

/-- A version fault of a training job aborts (R332). -/
theorem opComplete_abort {t uq j : Nat} {o : Op} (h : nextToSignal (tileOf b t) uq = some o) (hp : o.phase = .finished .versionFault)
    (hj : tileJob b t = some j) (ht : slotTrains (lendSettle t (completeOp t o .versionFault b)) j = true) :
    opComplete t uq b = versionAbort j t (lendSettle t (completeOp t o .versionFault b)) := by simp [opComplete, h, hp, hj, ht]

/-- A version fault of no training job completes alone. -/
theorem opComplete_quiet {t uq : Nat} {o : Op} (h : nextToSignal (tileOf b t) uq = some o) (hp : o.phase = .finished .versionFault)
    (hj : ∀ j, tileJob b t = some j → slotTrains (lendSettle t (completeOp t o .versionFault b)) j = false) :
    opComplete t uq b = lendSettle t (completeOp t o .versionFault b) := by
  cases hjob : tileJob b t with
  | none => simp [opComplete, h, hp, hjob]
  | some j => simp [opComplete, h, hp, hjob, hj j hjob]

/-- A completion is what completes the operation, and then nothing of the tile's own. -/
theorem opComplete_cases {t uq : Nat} {o : Op} {s : Status} (h : nextToSignal (tileOf b t) uq = some o) (hp : o.phase = .finished s) :
    opComplete t uq b = lendSettle t (completeOp t o s b) ∨ opComplete t uq b = fenceLend t o.desc (lendSettle t (completeOp t o s b)) ∨
    ∃ j, opComplete t uq b = versionAbort j t (lendSettle t (completeOp t o s b)) := by
  by_cases hv : s = .versionFault
  · subst hv
    by_cases hj : ∃ j, tileJob b t = some j ∧ slotTrains (lendSettle t (completeOp t o .versionFault b)) j = true
    · obtain ⟨j, hj, ht⟩ := hj
      exact .inr (.inr ⟨j, opComplete_abort b h hp hj ht⟩)
    · exact .inl (opComplete_quiet b h hp fun j hjob => by simpa using fun ht => hj ⟨j, hjob, ht⟩)
  · by_cases hf : isCop o.desc 3 = true ∧ s = .ok
    · obtain ⟨hc, rfl⟩ := hf
      exact .inr (.inl (opComplete_fence b h hp hc))
    · exact .inl (opComplete_plain b h hp hv hf)

theorem tileOf_opComplete {t uq : Nat} {o : Op} {s : Status} (h : nextToSignal (tileOf b t) uq = some o) (hp : o.phase = .finished s) :
    tileOf (opComplete t uq b) t = tileOf (completeOp t o s b) t := by
  obtain heq | heq | ⟨j, heq⟩ := opComplete_cases b h hp <;> rw [heq]
  · exact tileOf_of_til (til_lendSettle ..) t
  · rw [tileOf_of_til (til_fenceLend ..), tileOf_of_til (til_lendSettle ..)]
  · rw [tileOf_of_til (til_versionAbort ..), tileOf_of_til (til_lendSettle ..)]

@[simp] theorem face_fenceLend (t : Nat) (d : List Byte) : (fenceLend t d b).face = b.face := by unfold fenceLend; dsimp only; (repeat' split) <;> rfl

theorem reg_opComplete {t uq : Nat} {o : Op} {s : Status} (ht : t < 64) (h : nextToSignal (tileOf b t) uq = some o) (hp : o.phase = .finished s) :
    reg (opComplete t uq b) (uTile t) Off.tilFault = reg (completeOp t o s b) (uTile t) Off.tilFault := by
  have hunit : regKey (uTile t) Off.tilFault ≠ regKey uTrn (Fld.trnStatusVersion.off + Fld.trnStatusVersion.stride * 0) := fun h => by
    have := ((regKey_inj _ _ _ _ (by decide) (by decide)).mp h).1
    simp only [uTile, uTrn] at this
    omega
  obtain heq | heq | ⟨j, heq⟩ := opComplete_cases b h hp <;> rw [heq]
  · exact reg_of_face (face_lendSettle ..) _ _
  · rw [reg_of_face (face_fenceLend ..), reg_of_face (face_lendSettle ..)]
  · rw [versionAbort, reg_notify_own _ _ _ _ _ (uTile_ne_uTly ht) (by decide) hunit, reg_of_face (face_lendSettle ..)]

/-- What a completion with another status than OK does before the window is cleared. -/
theorem completeOp_fault {t : Nat} {o : Op} {s : Status} (h : s ≠ .ok) : completeOp t o s b =
    modTile t (fun x => { x with ops := releaseSlots x.ops })
      (streamFault t s (dClass o.desc) o.k (dTag o.desc) (countCompletion t o (setPhase t o.k (.completed s) b))) := by simp [completeOp, h]

/-- The tile when an operation has completed and before it signals. -/
theorem tileOf_completed (t : Nat) (o : Op) (s : Status) : tileOf (countCompletion t o (setPhase t o.k (.completed s) b)) t =
    { tileOf b t with ops := (tileOf b t).ops.map fun p => if p.k = o.k then { p with phase := .completed s } else p } := by
  rw [tileOf_of_til (til_countCompletion ..), tileOf_setPhase]

/-- A failed completion faults the running stream and cancels what had not started (R148, R161). -/
theorem tileOf_completeOp_fault {t : Nat} {o : Op} {s : Status} (h : s ≠ .ok) (hrun : (tileOf b t).stream = .running) :
    (tileOf (completeOp t o s b) t).stream = .faulted ∧ ∀ p ∈ (tileOf (completeOp t o s b) t).ops, p.isWaiting = false := by
  obtain ⟨ops, heq, hops⟩ := tileOf_streamFault (countCompletion t o (setPhase t o.k (.completed s) b)) t s (dClass o.desc) o.k (dTag o.desc)
    (by rw [tileOf_completed]; exact hrun)
  rw [completeOp_fault b h, tileOf_modTile, if_pos rfl, heq]
  exact ⟨rfl, fun p hp => hops p (mem_of_mem_releaseSlots hp)⟩

theorem reg_completeOp_fault {t : Nat} (ht : t < 64) {o : Op} {s : Status} (h : s ≠ .ok) (h8 : statusCode s < 8) (hrun : (tileOf b t).stream = .running) :
    reg (completeOp t o s b) (uTile t) Off.tilFault = if reg b (uTile t) Off.tilFault = 0 then faultWord s (dClass o.desc) o.k (dTag o.desc) % 2 ^ 32
      else reg b (uTile t) Off.tilFault := by
  have hcount : reg (countCompletion t o (setPhase t o.k (.completed s) b)) (uTile t) Off.tilFault = reg b (uTile t) Off.tilFault := by
    rw [reg_countCompletion _ ht, reg_of_face (face_setPhase ..)]
  rw [completeOp_fault b h, reg_of_face (modTile_frame ..).1, reg_streamFault _ ht (by rw [tileOf_completed]; exact hrun) (faultWord_ne_zero h h8), hcount]

theorem tokens_streamFault (t : Nat) (s : Status) (cls w tag : Nat) : (tileOf (streamFault t s cls w tag b) t).tokens = (tileOf b t).tokens := by
  have hrec : tileOf (recordFault t s cls w tag b) t = tileOf b t := tileOf_of_til (til_recordFault ..) t
  by_cases hrun : (tileOf b t).stream = .running
  · obtain ⟨ops, heq, -⟩ := tileOf_streamFault b t s cls w tag hrun
    rw [heq]
  · rw [streamFault, if_neg (hrec.symm ▸ hrun), hrec]

/-- A token counts up to 65,535, and stays there (R155, R156). -/
theorem tokens_tokenUp (t tok : Nat) : (tileOf (tokenUp t tok b) t).tokens.get 0 tok =
    if (tileOf b t).tokens.get 0 tok < 65535 then (tileOf b t).tokens.get 0 tok + 1 else (tileOf b t).tokens.get 0 tok := by
  unfold tokenUp
  dsimp only
  split
  · simp
  · rw [tokens_streamFault, tileOf_of_til (notify_frame ..).2.1]

/-- A full token's rise faults the running stream (R156). -/
theorem stream_tokenUp_full {t tok : Nat} (h : (tileOf b t).tokens.get 0 tok = 65535) (hrun : (tileOf b t).stream = .running) :
    (tileOf (tokenUp t tok b) t).stream = .faulted := by
  obtain ⟨ops, heq, -⟩ := tileOf_streamFault (notify (uTile t) Fld.tilStatusTokenOvf .tilTokenOvf tok b) t .opFailed 0 (tileOf b t).issued 0
    (by rw [tileOf_of_til (notify_frame ..).2.1]; exact hrun)
  rw [tokenUp]
  simp only [h, Nat.lt_irrefl, if_false, heq]

/-- An END that completes ends the stream and reports it; of the tile nothing else changes. -/
def endStream (t : Nat) (o : Op) (b : Block) : Block :=
  notify (uTile t) Fld.tilStatusEnded .tilStreamEnd (dTag o.desc) (modTile t (fun x => { x with stream := .ended }) b)

theorem tileOf_endStream (t : Nat) (o : Op) : tileOf (endStream t o b) t = { tileOf b t with stream := .ended } := by
  rw [endStream, tileOf_of_til (notify_frame ..).2.1, tileOf_modTile, if_pos rfl]

/-- A completion with OK whose signal is one of the tile's own tokens. -/
theorem completeOp_signal {t : Nat} {o : Op} (hl : (tileOf b t).lockstep = false) (hs : dSignal o.desc = true) (hr : dRemote o.desc = false) :
    completeOp t o .ok b =
      let c := tokenUp t (dSigTok o.desc) (countCompletion t o (setPhase t o.k (.completed .ok) b))
      modTile t (fun x => { x with ops := releaseSlots x.ops }) (if isCop o.desc 1 && (tileOf c t).stream == .running then endStream t o c else c) := by
  have hlock : (tileOf (countCompletion t o (setPhase t o.k (.completed .ok) b)) t).lockstep = false := by rw [tileOf_completed]; exact hl
  simp only [completeOp, if_true, hlock, sendSignal, hs, hr, endStream, Bool.false_eq_true, if_false, Bool.not_true]

theorem tokens_completeOp {t : Nat} {o : Op} (hl : (tileOf b t).lockstep = false) (hs : dSignal o.desc = true) (hr : dRemote o.desc = false) :
    (tileOf (completeOp t o .ok b) t).tokens.get 0 (dSigTok o.desc) =
      if (tileOf b t).tokens.get 0 (dSigTok o.desc) < 65535 then (tileOf b t).tokens.get 0 (dSigTok o.desc) + 1
      else (tileOf b t).tokens.get 0 (dSigTok o.desc) := by
  have hup := tokens_tokenUp (countCompletion t o (setPhase t o.k (.completed .ok) b)) t (dSigTok o.desc)
  rw [tileOf_completed] at hup
  rw [completeOp_signal b hl hs hr, tileOf_modTile, if_pos rfl, ← hup]
  split
  · rw [tileOf_endStream]
  · rfl

theorem stream_completeOp_full {t : Nat} {o : Op} (hl : (tileOf b t).lockstep = false) (hs : dSignal o.desc = true) (hr : dRemote o.desc = false)
    (hfull : (tileOf b t).tokens.get 0 (dSigTok o.desc) = 65535) (hrun : (tileOf b t).stream = .running) :
    (tileOf (completeOp t o .ok b) t).stream = .faulted := by
  have hup : (tileOf (tokenUp t (dSigTok o.desc) (countCompletion t o (setPhase t o.k (.completed .ok) b))) t).stream = .faulted :=
    stream_tokenUp_full _ (by rw [tileOf_completed]; exact hfull) (by rw [tileOf_completed]; exact hrun)
  rw [completeOp_signal b hl hs hr, tileOf_modTile, if_pos rfl]
  simp [hup]

end Sys2Proof.Machine

open Sys2Proof Sys2Proof.Machine

/-- Settles O5: a completion's signal is one rise of a token, and a failed completion is one fault of the stream. -/
theorem tokensAndFaults : Obligations.TokensAndFaults := by
  unfold Obligations.TokensAndFaults
  refine ⟨fun s t uq o hon hnext hphase hlock hsig hloc => ⟨?_, fun hfull hrun => ?_⟩, fun s t uq o st hon hnext hphase hst h8 hrun => ?_⟩
  · refine answersWith_main rfl hon ?_
    rw [tileOf_keepTally, tileOf_opComplete _ hnext hphase, tokens_completeOp _ hlock hsig hloc]
  · refine answersWith_main rfl hon ?_
    rw [tileOf_keepTally, tileOf_opComplete _ hnext hphase, stream_completeOp_full _ hlock hsig hloc hfull hrun]
  · refine answersWith_main rfl hon ?_
    rw [tileOf_keepTally, tileOf_opComplete _ hnext hphase, reg_keepTally, reg_opComplete _ t.isLt hnext hphase]
    obtain ⟨hstream, hops⟩ := tileOf_completeOp_fault s.blk hst hrun
    exact ⟨hstream, hops, reg_completeOp_fault s.blk t.isLt hst h8 hrun⟩

end

section
/-! PROOFS. Values of elements (R49, R56, R167). FP32 codes by sign, exponent and fraction, what a rounding can give, and the order of values. -/

namespace Sys2Proof.Machine

/-! ### FP32 codes (Table 2.2) -/

/-- The value of an FP32 code by its sign, exponent and fraction. -/
theorem f32_eq (c : Nat) : f32 c =
    if c / 2 ^ 23 % 256 = 255 then (if c % 2 ^ 23 = 0 then .inf (bitOf c 31) else .nan)
    else if c / 2 ^ 23 % 256 = 0 then .num (bitOf c 31) (c % 2 ^ 23) (-149)
    else .num (bitOf c 31) (2 ^ 23 + c % 2 ^ 23) (((c / 2 ^ 23 % 256 : Nat) : Int) - 150) := by
  have hex : bitsOf c 30 23 = c / 2 ^ 23 % 256 := by simp [bitsOf, Nat.shiftRight_eq_div_pow]
  unfold f32 decodeFmt
  simp only [fmtF32, Nat.reduceSub, hex, Bool.true_and, decide_eq_true_eq, reduceCtorEq, decide_false, Bool.false_and, Bool.false_eq_true, if_false,
    decide_true]
  have hbias (x : Int) : x - 127 - ((23 : Nat) : Int) = x - 150 := by omega
  change (if c / 2 ^ 23 % 256 = 255 then (if c % 2 ^ 23 = 0 then FV.inf (bitOf c 31) else FV.nan)
    else if c / 2 ^ 23 % 256 = 0 then FV.num (bitOf c 31) (c % 2 ^ 23) (-149)
    else FV.num (bitOf c 31) (2 ^ 23 + c % 2 ^ 23) (((c / 2 ^ 23 % 256 : Nat) : Int) - 127 - ((23 : Nat) : Int))) = _
  rw [hbias]

/-- A NaN is a code with the largest exponent and a fraction. -/
theorem isNan32_iff (c : Nat) : isNan32 c = true ↔ c / 2 ^ 23 % 256 = 255 ∧ c % 2 ^ 23 ≠ 0 := by
  rw [isNan32, beq_iff_eq, f32_eq]
  split
  · rename_i hex
    split <;> rename_i hfr <;> simp [hex, hfr, -Nat.reducePow]
  · rename_i hex
    split <;> simp [hex, -Nat.reducePow]

theorem f32_nan_iff (c : Nat) : f32 c = .nan ↔ isNan32 c = true := by rw [isNan32, beq_iff_eq]

theorem isNan32_eq_false {c : Nat} (h : f32 c ≠ .nan) : isNan32 c = false := by simpa [isNan32] using h

theorem isNan32_nan32 : isNan32 nan32 = true := by decide

theorem f32_nan32 : f32 nan32 = .nan := by decide

/-- A finite code or an infinity of either sign is no NaN. -/
theorem isNan32_signed {q : Nat} (neg : Bool) (h : q ≤ 0x7F80_0000) : isNan32 (b2n neg * 2 ^ 31 + q) = false := by
  rw [Bool.eq_false_iff, ne_eq, isNan32_iff]
  have hneg : b2n neg ≤ 1 := by cases neg <;> decide
  rintro ⟨hex, hfr⟩
  omega

/-! ### Signs -/

/-- Codes with one exponent and one fraction differ in the sign alone. -/
theorem f32_abs (c : Nat) : f32 (c % 2 ^ 31) = (f32 c).abs := by
  have hneg : bitOf (c % 2 ^ 31) 31 = false := Nat.testBit_lt_two_pow (Nat.mod_lt _ (by decide))
  have hex : c % 2 ^ 31 / 2 ^ 23 % 256 = c / 2 ^ 23 % 256 := by omega
  have hfr : c % 2 ^ 31 % 2 ^ 23 = c % 2 ^ 23 := by omega
  rw [f32_eq, f32_eq, hneg, hex, hfr]
  split
  · split <;> rfl
  · split <;> rfl

theorem f32_negate (c : Nat) : f32 (Nat.xor c (2 ^ 31)) = (f32 c).negate := by
  have hneg : bitOf (Nat.xor c (2 ^ 31)) 31 = !bitOf c 31 := by
    show (c ^^^ 2 ^ 31).testBit 31 = _
    rw [Nat.testBit_xor, Nat.testBit_two_pow_self, Bool.xor_true, bitOf]
  have hmod (n : Nat) (hn : n ≤ 31) : Nat.xor c (2 ^ 31) % 2 ^ n = c % 2 ^ n := by
    show (c ^^^ 2 ^ 31) % 2 ^ n = _
    rw [Nat.xor_mod_two_pow, Nat.mod_eq_zero_of_dvd (Nat.pow_dvd_pow 2 hn), Nat.xor_zero]
  have hfr := hmod 23 (by decide)
  have hex : Nat.xor c (2 ^ 31) / 2 ^ 23 % 256 = c / 2 ^ 23 % 256 := by have := hmod 31 (by decide); omega
  rw [f32_eq, f32_eq, hneg, hex, hfr]
  split
  · split <;> rfl
  · split <;> rfl

theorem f32_canon (c : Nat) : f32 (canon c) = f32 c := by
  unfold canon
  split
  · rename_i h
    rw [f32_nan32, (f32_nan_iff c).mpr h]
  · rfl

theorem nan_canon {c : Nat} (h : isNan32 (canon c) = true) : canon c = nan32 := by
  unfold canon at h ⊢
  split
  · rfl
  · rename_i hc
    simp [hc] at h

/-! ### A rounded result that is a NaN is the canonical one (R49) -/

theorem infCode_f32 (neg : Bool) : infCode fmtF32 neg = b2n neg * 2 ^ 31 + 0x7F80_0000 := by cases neg <;> decide

/-- The code of a magnitude of `q` units in the last place, below the infinity's. -/
theorem isNan32_codeOf {q : Nat} {u : Int} (neg : Bool) (hu : (u + 149).toNat * 2 ^ 23 + q ≤ 0x7F80_0000) : isNan32 (codeOf fmtF32 neg q u) = false := by
  have hcode : codeOf fmtF32 neg q u = b2n neg * 2 ^ 31 + ((u + 149).toNat * 2 ^ 23 + q) := by
    have hlow : u - fmtLow fmtF32 = u + 149 := by simp only [fmtLow, fmtF32]; omega
    unfold codeOf
    simp only [show fmtF32.special = .ieee from rfl, hlow]
    exact Nat.add_assoc ..
  rw [hcode]
  exact isNan32_signed neg hu

/-- A number of no more than 24 bits' magnitude stays so when cut to units of its top 24 bits. -/
theorem cut_lt {m : Nat} {e u : Int} (hu : topExp m e - 23 ≤ u) :
    (if u ≤ e then m * 2 ^ (e - u).toNat else m / 2 ^ (u - e).toNat) < 2 ^ 24 := by
  have hlog : m < 2 ^ (Nat.log2 m + 1) := Nat.lt_log2_self
  simp only [topExp] at hu
  split
  · calc m * 2 ^ (e - u).toNat < 2 ^ (Nat.log2 m + 1) * 2 ^ (e - u).toNat := Nat.mul_lt_mul_of_pos_right hlog (Nat.two_pow_pos _)
      _ = 2 ^ (Nat.log2 m + 1 + (e - u).toNat) := (Nat.pow_add ..).symm
      _ ≤ 2 ^ 24 := Nat.pow_le_pow_right (by decide) (by omega)
  · rw [Nat.div_lt_iff_lt_mul (Nat.two_pow_pos _), ← Nat.pow_add]
    exact Nat.lt_of_lt_of_le hlog (Nat.pow_le_pow_right (by decide) (by omega))

/-- Where the number does not round past the top binade it is finite or infinite, and no NaN. -/
theorem isNan32_convert_num (neg : Bool) (m : Nat) (e : Int) : isNan32 (toF32 (.num neg m e)) = false := by
  have htop : fmtTopUlp fmtF32 = 104 := by decide
  have hlow : fmtLow fmtF32 = -149 := by decide
  have hone : fmtTop fmtF32 neg = 0xFF_FFFF := by cases neg <;> decide
  unfold toF32 convert
  by_cases hm : m = 0
  · simp only [hm, if_true]
    exact isNan32_codeOf (u := fmtLow fmtF32) neg (by rw [hlow]; omega)
  · obtain ⟨u, hu⟩ : ∃ u, u = min (fmtTopUlp fmtF32) (max (topExp m e - fmtF32.mb) (fmtLow fmtF32)) := ⟨_, rfl⟩
    obtain ⟨q, hq⟩ : ∃ q, q = if u ≤ e then m * 2 ^ (e - u).toNat else m / 2 ^ (u - e).toNat := ⟨_, rfl⟩
    obtain ⟨rem, hrem⟩ : ∃ r, r = if u ≤ e then 0 else m % 2 ^ (u - e).toNat := ⟨_, rfl⟩
    have hint : (fmtF32.special = .int) = False := by decide
    simp only [hm, if_false, ← hu, ← hq, ← hrem, hone, hint, decide_false, Bool.false_and, Bool.false_eq_true]
    rw [htop, hlow] at hu
    rw [show (fmtF32.mb : Int) = 23 from rfl] at hu
    split
    · dsimp only
      split
      · rw [infCode_f32]
        exact isNan32_signed neg (Nat.le_refl _)
      · exact isNan32_codeOf neg (by rw [htop]; omega)
    · rename_i hsat
      simp only [htop, Bool.and_eq_true, decide_eq_true_eq, Bool.or_eq_true, not_and, not_or] at hsat
      refine isNan32_codeOf neg ?_
      by_cases hu' : u = 104
      · obtain ⟨hle, hrest⟩ := hsat hu'
        split
        · rename_i hup
          have hlt : q ≠ 16777215 := fun h => by
            have hz : rem = 0 := by have := hrest h; omega
            simp only [roundsUp, hz, Nat.mul_zero, Nat.not_lt_zero, decide_false, Bool.false_or, Bool.and_eq_true, decide_eq_true_eq] at hup
            exact Nat.ne_of_lt (Nat.two_pow_pos _) hup.1
          omega
        · omega
      · have hq24 : q < 2 ^ 24 := hq ▸ cut_lt (by omega)
        split <;> omega

/-- A rounded result that is a NaN is the canonical one (R49). -/
theorem nan_toF32 {v : FV} (h : isNan32 (toF32 v) = true) : toF32 v = nan32 := by
  cases v with
  | nan => rfl
  | inf neg => cases neg <;> exact absurd h (by decide)
  | num neg m e => rw [isNan32_convert_num] at h; cases h

/-! ### The order of values -/

/-- A code's numbers have one form each: at least 24 bits above the smallest exponent. -/
def Normal : FV → Prop
  | .num _ m e => -149 ≤ e ∧ m < 2 ^ 24 ∧ (e = -149 ∨ 2 ^ 23 ≤ m)
  | _ => True

theorem normal_f32 (c : Nat) : Normal (f32 c) := by
  have hfr : c % 2 ^ 23 < 2 ^ 23 := Nat.mod_lt _ (by decide)
  rw [f32_eq]
  split
  · split <;> exact trivial
  · split
    · exact ⟨by omega, by omega, .inl rfl⟩
    · exact ⟨by omega, by omega, .inr (by omega)⟩

theorem lt_asymm_fv {x y : FV} (h : x.lt y = true) : y.lt x = false := by
  cases x <;> cases y <;> simp_all [FV.lt]
  rename_i e _ _ d
  rw [Int.min_comm d e]
  omega

/-- A magnitude of 24 bits has one form: two of equal value have one exponent. -/
theorem form_unique {m n : Nat} {e d : Int} (hx : Normal (.num false m e)) (hy : Normal (.num false n d)) (hde : e ≤ d)
    (h : m * 2 ^ (e - min e d).toNat = n * 2 ^ (d - min e d).toNat) : (m = n ∧ e = d) ∨ (m = 0 ∧ n = 0) := by
  obtain ⟨hxe, hx24, -⟩ := hx
  obtain ⟨-, -, hyn⟩ := hy
  simp only [Int.min_eq_left hde, Int.sub_self, Int.toNat_zero, Nat.pow_zero, Nat.mul_one] at h
  obtain heq | hlt : e = d ∨ e < d := by omega
  · subst heq
    exact .inl ⟨by simpa using h, rfl⟩
  · have htwo : 2 ≤ 2 ^ (d - e).toNat := Nat.le_self_pow (by omega) 2
    have hn : n * 2 ≤ m := h ▸ Nat.mul_le_mul_left n htwo
    omega

theorem form_eq {m n : Nat} {e d : Int} (hx : Normal (.num false m e)) (hy : Normal (.num false n d))
    (h : m * 2 ^ (e - min e d).toNat = n * 2 ^ (d - min e d).toNat) : (m = n ∧ e = d) ∨ (m = 0 ∧ n = 0) := by
  obtain hde | hed := Int.le_total e d
  · exact form_unique hx hy hde h
  · rw [Int.min_comm] at h
    obtain ⟨h1, h2⟩ | ⟨h1, h2⟩ := form_unique hy hx hed h.symm
    · exact .inl ⟨h1.symm, h2.symm⟩
    · exact .inr ⟨h2, h1⟩

/-- Two values of one form, neither below the other, are one and the same, or both zeros. -/
theorem eq_of_not_lt {x y : FV} (hx : Normal x) (hy : Normal y) (nx : x ≠ .nan) (ny : y ≠ .nan) (h1 : x.lt y = false) (h2 : y.lt x = false)
    (hz : (x.isZero && y.isZero) = false) : x = y := by
  cases x with
  | nan => exact absurd rfl nx
  | inf a => cases y with
    | nan => exact absurd rfl ny
    | inf b => cases a <;> cases b <;> simp_all [FV.lt]
    | num b n d => cases a <;> simp [FV.lt] at h1 h2
  | num a m e => cases y with
    | nan => exact absurd rfl ny
    | inf b => cases b <;> simp [FV.lt] at h1 h2
    | num b n d =>
      have hunits : unitsOf a m e (min e d) = unitsOf b n d (min e d) := by
        simp only [FV.lt, decide_eq_false_iff_not, Int.min_comm d e] at h1 h2
        omega
      obtain ⟨k, hk⟩ : ∃ k, k = m * 2 ^ (e - min e d).toNat := ⟨_, rfl⟩
      obtain ⟨l, hl⟩ : ∃ l, l = n * 2 ^ (d - min e d).toNat := ⟨_, rfl⟩
      have hkl : k = l ∧ (a = b ∨ k = 0) := by
        simp only [unitsOf, ← hk, ← hl] at hunits
        cases a <;> cases b <;> simp at hunits ⊢ <;> omega
      have hzero : ¬ (m = 0 ∧ n = 0) := by simpa [FV.isZero] using hz
      obtain ⟨hsame, hsign⟩ := hkl
      obtain ⟨rfl, rfl⟩ | hboth := form_eq hx hy (hk ▸ hl ▸ hsame)
      · obtain rfl | h0 := hsign
        · rfl
        · have hm : m = 0 := by rw [hk] at h0; exact (Nat.mul_eq_zero.mp h0).resolve_right (Nat.ne_of_gt (Nat.two_pow_pos _))
          exact absurd ⟨hm, hm⟩ hzero
      · exact absurd hboth hzero

/-- Of two values of one form the one that is not below the other is the same whichever comes first. -/
theorem larger_comm {x y : FV} (hx : Normal x) (hy : Normal y) (nx : x ≠ .nan) (ny : y ≠ .nan) (hz : (x.isZero && y.isZero) = false) :
    (if x.lt y then y else x) = if y.lt x then x else y := by
  cases h1 : x.lt y with
  | true => simp [lt_asymm_fv h1]
  | false => cases h2 : y.lt x with
    | true => simp
    | false => simp [eq_of_not_lt hx hy nx ny h1 h2 hz]

theorem smaller_comm {x y : FV} (hx : Normal x) (hy : Normal y) (nx : x ≠ .nan) (ny : y ≠ .nan) (hz : (x.isZero && y.isZero) = false) :
    (if y.lt x then y else x) = if x.lt y then x else y := by
  cases h1 : x.lt y with
  | true => simp [lt_asymm_fv h1]
  | false => cases h2 : y.lt x with
    | true => simp
    | false => simp [eq_of_not_lt hx hy nx ny h1 h2 hz]

theorem fmaxV_comm {x y : FV} (hx : Normal x) (hy : Normal y) (nx : x ≠ .nan) (ny : y ≠ .nan) : fmaxV x y = fmaxV y x := by
  rw [fmaxV, fmaxV, Bool.and_comm y.isZero, Bool.and_comm y.isNeg]
  cases hz : x.isZero && y.isZero with
  | true => rfl
  | false => exact larger_comm hx hy nx ny hz

theorem fminV_comm {x y : FV} (hx : Normal x) (hy : Normal y) (nx : x ≠ .nan) (ny : y ≠ .nan) : fminV x y = fminV y x := by
  rw [fminV, fminV, Bool.and_comm y.isZero, Bool.or_comm y.isNeg]
  cases hz : x.isZero && y.isZero with
  | true => rfl
  | false => exact smaller_comm hx hy nx ny hz

/-! ### The element-wise operations (Table 5.7) -/

theorem vecElem_max_comm (k : Int) (a c d : Nat) : vecElem 0x05 k a c d = vecElem 0x05 k c a d := by
  simp only [vecElem, Bool.or_comm (isNan32 c)]
  cases hnan : isNan32 a || isNan32 c with
  | true => rfl
  | false =>
    obtain ⟨ha, hc⟩ := Bool.or_eq_false_iff.mp hnan
    rw [fmaxV_comm (normal_f32 a) (normal_f32 c) (by simpa [isNan32] using ha) (by simpa [isNan32] using hc)]

theorem vecElem_min_comm (k : Int) (a c d : Nat) : vecElem 0x06 k a c d = vecElem 0x06 k c a d := by
  simp only [vecElem, Bool.or_comm (isNan32 c)]
  cases hnan : isNan32 a || isNan32 c with
  | true => rfl
  | false =>
    obtain ⟨ha, hc⟩ := Bool.or_eq_false_iff.mp hnan
    rw [fminV_comm (normal_f32 a) (normal_f32 c) (by simpa [isNan32] using ha) (by simpa [isNan32] using hc)]

/-- A comparison with a NaN does not hold. -/
theorem lt_eq_false_of_nan {a c : Nat} (h : (isNan32 a || isNan32 c) = true) : (f32 c).lt (f32 a) = false := by
  rw [Bool.or_eq_true, ← f32_nan_iff, ← f32_nan_iff] at h
  obtain h | h := h <;> rw [h]
  · cases f32 c <;> rfl
  · rfl

theorem vecElem_gt (k : Int) (a c d : Nat) : vecElem 0x09 k a c d = if (f32 c).lt (f32 a) then one32 else 0 := by
  simp only [vecElem]
  split
  · rename_i hnan
    rw [lt_eq_false_of_nan hnan]; rfl
  · rfl

theorem vecElem_eq (k : Int) (a c d : Nat) : vecElem 0x0A k a c d =
    if f32 a ≠ .nan ∧ f32 c ≠ .nan ∧ (f32 c).lt (f32 a) = false ∧ (f32 a).lt (f32 c) = false then one32 else 0 := by
  simp only [vecElem, ne_eq, f32_nan_iff]
  cases isNan32 a <;> cases isNan32 c <;> cases (f32 c).lt (f32 a) <;> cases (f32 a).lt (f32 c) <;> rfl

/-- The results that are NaNs are the canonical one (R49, R167). -/
theorem nan_vecElem {v : Nat} (k : Int) (a c d : Nat) (hv : v ∈ [0x01, 0x02, 0x03, 0x04, 0x05, 0x06, 0x07, 0x08, 0x0B, 0x0C, 0x1C])
    (h : isNan32 (vecElem v k a c d) = true) : vecElem v k a c d = nan32 := by
  have hcase {y : FV} {p : Bool} (hn : isNan32 (if p then nan32 else toF32 y) = true) : (if p then nan32 else toF32 y) = nan32 := by
    cases p
    · exact nan_toF32 hn
    · rfl
  simp only [List.mem_cons, List.not_mem_nil, or_false] at hv
  obtain rfl | rfl | rfl | rfl | rfl | rfl | rfl | rfl | rfl | rfl | rfl := hv
  · exact nan_toF32 h
  · exact nan_toF32 h
  · exact nan_toF32 h
  · exact nan_toF32 h
  · exact hcase h
  · exact hcase h
  · exact nan_canon h
  · exact nan_canon h
  · exact nan_canon h
  · exact nan_toF32 h
  · exact nan_toF32 h

end Sys2Proof.Machine

open Sys2Proof Sys2Proof.Machine

/-- Settles O9: by value operation by operation, and a NaN comes from a rounding, a canonical copy or a NaN operand. -/
theorem elementValues : Obligations.ElementValues := by
  unfold Obligations.ElementValues
  have hone : one32 ≠ 0 := by decide
  refine ⟨fun k a c d _ _ => ⟨?_, ?_, ?_, ?_, ?_, ?_, vecElem_max_comm k a c d, vecElem_min_comm k a c d⟩,
    fun v k a c d hv _ hnan => nan_vecElem k a c d hv hnan⟩
  · exact (f32_canon _).trans (f32_abs a)
  · exact (f32_canon _).trans (f32_negate a)
  · exact f32_canon a
  · rw [vecElem_gt]; split <;> simp [*, hone.symm]
  · rw [vecElem_gt]; split <;> simp [*]
  · rw [vecElem_eq]; split <;> simp [*, hone.symm]

end

section
/-! PROOFS. Granary accesses (R194, R201, R203 to R207, R286, Table 7.5). What an access leaves alone, lines with nothing wrong, atomics, and the home of an offset. -/

namespace Sys2Proof.Machine

/-! ### Commands that leave the tally's part alone -/

/-- A command of the main die that leaves the tally's part alone answers what its operation does. -/
theorem answers_main {i : Instr} {s : State} {f g : Block → Block} (he : exec i s = s.runMain g) (hon : mainOn s.blk = true) (h : g s.blk = f s.blk)
    (ht : tallyPart (f s.blk) = tallyPart s.blk) : Answers i s f := by
  obtain ⟨h1, h2, h3⟩ := tallyPart_eq_iff.mp ht
  exact answers_of_acts (acts_main he hon h) h1 h2 h3

/-! ### What a granary access leaves alone -/

/-- What neither a granary access nor an event touches: every part but the registers, the rings, the granary, the gleaners and the tally's queue. -/
def restPart (b : Block) : (TileState × Ctx × MacState × Fabric × Train) × (Qcp × Boot × SMap RecJob) × List Reply × Nat :=
  ((b.til, b.ctx, b.mac, b.fab, b.trn), (b.qcp, b.boot, b.rec'), b.face.replies, b.face.time)

theorem restPart_eq_iff {b c : Block} : restPart c = restPart b ↔
    (c.til = b.til ∧ c.ctx = b.ctx ∧ c.mac = b.mac ∧ c.fab = b.fab ∧ c.trn = b.trn) ∧ (c.qcp = b.qcp ∧ c.boot = b.boot ∧ c.rec' = b.rec') ∧
    c.face.replies = b.face.replies ∧ c.face.time = b.face.time := by
  simp [restPart]

variable (b : Block)

@[simp] theorem restPart_ite (p : Prop) [Decidable p] (c d : Block) : restPart (if p then c else d) = if p then restPart c else restPart d := apply_ite ..

@[simp] theorem restPart_setReg (u o v : Nat) : restPart (setReg u o v b) = restPart b := rfl
@[simp] theorem restPart_setFld (u : Nat) (f : Field) (v i : Nat) : restPart (setFld u f v b i) = restPart b := rfl
@[simp] theorem restPart_bump (u o n : Nat) : restPart (bump u o n b) = restPart b := rfl
@[simp] theorem restPart_setSq (u : Nat) (f : Field) (i : Nat) : restPart (setSq u f b i) = restPart b := rfl
@[simp] theorem restPart_bbPush (r : BbRec) : restPart (bbPush r b) = restPart b := by unfold bbPush; split <;> rfl
@[simp] theorem restPart_ringPut (u : Nat) (e : Ev) (a : Nat) : restPart (ringPut u e a b) = restPart b := by
  unfold ringPut; dsimp only; split <;> rfl
@[simp] theorem restPart_countEvent (e : Ev) : restPart (countEvent e b) = restPart b := by unfold countEvent; split <;> rfl
@[simp] theorem restPart_raise (u : Nat) (e : Ev) (a : Nat) : restPart (raise u e a b) = restPart b := by
  unfold raise; dsimp only; split <;> simp
@[simp] theorem restPart_notify (u : Nat) (f : Field) (e : Ev) (a : Nat) : restPart (notify u f e a b) = restPart b := by simp [notify]
@[simp] theorem restPart_poke (a : Nat) (v : List Byte) : restPart (poke a v b) = restPart b := rfl
@[simp] theorem restPart_setMark (l : Nat) (m : Option LineMark) : restPart (setMark l m b) = restPart b := rfl
@[simp] theorem restPart_noteFail (l : Nat) : restPart (noteFail l b) = restPart b := rfl
@[simp] theorem restPart_failElsewhere : restPart (failElsewhere b) = restPart b := rfl
@[simp] theorem restPart_addrFault (i : Issuer) (a : Nat) : restPart (addrFault i a b) = restPart b := by simp [addrFault]
@[simp] theorem restPart_recordRow (pl : Place) (u : Bool) : restPart (recordRow pl u b) = restPart b := by
  unfold recordRow; dsimp only; (repeat' split) <;> rfl
@[simp] theorem restPart_chargeRereads (ls : List Nat) : restPart (chargeRereads ls b) = restPart b := foldl_keeps _ _ _ _ (by simp)
@[simp] theorem restPart_readOne (l : Nat) : restPart (readOne l b).2 = restPart b := by
  unfold readOne
  split
  · rfl
  · dsimp only
    split
    · rfl
    · simp
    · split <;> simp
    · simp
    · simp
@[simp] theorem restPart_readLine (l : Nat) : restPart (readLine l b).2 = restPart b := by simp [readLine]
@[simp] theorem restPart_readLines (ls : List Nat) : restPart (readLines ls b).2 = restPart b := by
  unfold readLines
  rw [foldl_keeps (fun (acc : Bool × Block) => restPart acc.2) _ _ _ (by simp), restPart_chargeRereads]
@[simp] theorem restPart_writeLine (a : Nat) (v : List Byte) (t : Option Nat) (l : Nat) : restPart (writeLine a v t l b).2 = restPart b := by
  unfold writeLine
  dsimp only
  split
  · rfl
  · split
    · rw [restPart_poke]; split <;> rfl
    · simp
@[simp] theorem restPart_serveRead (a n : Nat) : restPart (serveRead a n b).2.2 = restPart b := by
  unfold serveRead; dsimp only; split <;> split <;> simp
@[simp] theorem restPart_serveWrite (a : Nat) (v : List Byte) (t : Option Nat) : restPart (serveWrite a v t b).2 = restPart b := by
  unfold serveWrite
  dsimp only
  rw [foldl_keeps (fun (acc : Bool × Block) => restPart acc.2) _ _ _ (by simp)]
  split <;> simp
@[simp] theorem restPart_modGl (g : Nat) (f : Gleaner → Gleaner) : restPart (modGl g f b) = restPart b := rfl
@[simp] theorem restPart_dropGrant (g : Nat) : restPart (dropGrant g b) = restPart b := rfl
@[simp] theorem restPart_refreshOwed (c k : Nat) : restPart (refreshOwed c k b) = restPart b := by unfold refreshOwed; dsimp only; split <;> rfl
@[simp] theorem restPart_landPut (g : Nat) (p : Nat × List Byte × Nat) : restPart (landPut g p b) = restPart b := by
  unfold landPut; dsimp only; split <;> split <;> simp
@[simp] theorem restPart_commit (g : Nat) (f : Bool) : restPart (commit g f b) = restPart b := by
  unfold commit
  dsimp only
  split
  · rfl
  · rename_i sg _
    have hp : restPart (sg.puts.foldl (fun b p => landPut g p b) b) = restPart b := foldl_keeps _ _ _ _ (by simp)
    have hb (c : Block) : restPart (sg.banks.foldl (fun b k => refreshOwed (glChannel g) k.1 b) c) = restPart c := foldl_keeps _ _ _ _ (by simp)
    split <;> split <;> simp [hp, hb]
@[simp] theorem restPart_releaseBank (c k : Nat) : restPart (releaseBank c k b) = restPart b := by unfold releaseBank; split <;> simp
@[simp] theorem restPart_releaseBanks (a n : Nat) : restPart (releaseBanks a n b) = restPart b := by
  unfold releaseBanks; split
  · rfl
  · refine foldl_keeps _ _ _ _ fun c l => ?_
    split <;> simp

/-! ### Lines with nothing wrong -/

/-- A line that is served and has no mark. -/
def Clean (b : Block) (l : Nat) : Prop := (servedAt b (64 * l)).isSome = true ∧ markOf b l = none

theorem mem_linesOf {a n l : Nat} (hn : n ≠ 0) : l ∈ linesOf a n ↔ a / 64 ≤ l ∧ l ≤ (a + n - 1) / 64 := by
  simp only [linesOf, if_neg hn, List.mem_map, List.mem_range]
  constructor
  · rintro ⟨k, hk, rfl⟩; omega
  · rintro ⟨h1, h2⟩; exact ⟨l - a / 64, by omega, by omega⟩

/-- Where a line is served follows from the group modes and from what is retired or failed (R201, R231). -/
theorem servedAt_congr {b c : Block} (hlo : reg c uChip Off.grnLocalLo = reg b uChip Off.grnLocalLo) (hhi : reg c uChip Off.grnLocalHi = reg b uChip Off.grnLocalHi)
    (hr : c.grn.retired = b.grn.retired) (hf : c.grn.chFailed = b.grn.chFailed) (a : Nat) : servedAt c a = servedAt b a ∧ isRedirected c a = isRedirected b a := by
  have hhome : homeOf c a = homeOf b a := by simp only [homeOf, groupLocal, hlo, hhi]
  have hret (ch : Nat) : retirementOf c ch = retirementOf b ch := by simp only [retirementOf, hr]
  exact ⟨by simp only [servedAt, hhome, hret, hf], by simp only [isRedirected, hhome, hret]⟩

theorem reg_bump_other {u o u' o' n : Nat} (hlo : regKey u o ≠ regKey u' o') (hhi : regKey u o ≠ regKey u' (o' + 4)) : reg (bump u' o' n b) u o = reg b u o := by
  simp only [bump, reg_setReg, if_neg hlo, if_neg hhi]

/-- A counter of another unit than the chip moves no line. -/
theorem servedAt_bump {u : Nat} (o n a : Nat) (hu : 0 < u) (ho : o + 4 < 0x10_0000) :
    servedAt (bump u o n b) a = servedAt b a ∧ isRedirected (bump u o n b) a = isRedirected b a := by
  have hne (o' o'' : Nat) (h' : o' < 0x10_0000) (h'' : o'' < 0x10_0000) : regKey uChip o' ≠ regKey u o'' := fun h => by
    have := ((regKey_inj _ _ _ _ h' h'').mp h).1
    simp only [uChip] at this
    omega
  exact servedAt_congr (reg_bump_other b (hne _ _ (by decide) (by omega)) (hne _ _ (by decide) ho))
    (reg_bump_other b (hne _ _ (by decide) (by omega)) (hne _ _ (by decide) ho)) rfl rfl a

theorem clean_bump {u o n l : Nat} (hu : 0 < u) (ho : o + 4 < 0x10_0000) : Clean (bump u o n b) l ↔ Clean b l := by
  obtain ⟨hs, hr⟩ := servedAt_bump b o n (64 * l) hu ho
  have hm : (bump u o n b).grn = b.grn := (bump_frame ..).1
  simp only [Clean, markOf, hs, hr, hm]

theorem uChannel_pos (ch : Nat) : 0 < uChannel ch := by unfold uChannel; omega

theorem readOne_clean {l : Nat} (h : Clean b l) : readOne l b = (true, b) := by
  obtain ⟨hs, hm⟩ := h
  obtain ⟨pl, hpl⟩ := Option.isSome_iff_exists.mp hs
  simp only [readOne, hpl, hm]

theorem chargeRereads_clean {ls : List Nat} (h : ∀ l ∈ ls, Clean b l) : chargeRereads ls b = b := by
  have hnone : ls.filterMap (rereadAt b) = [] := List.filterMap_eq_nil_iff.mpr fun l hl => by
    obtain ⟨hs, hm⟩ := h l hl
    obtain ⟨pl, hpl⟩ := Option.isSome_iff_exists.mp hs
    simp only [rereadAt, hpl, hm]
  simp [chargeRereads, hnone]

theorem readLine_clean {l : Nat} (h : Clean b l) : readLine l b = (true, b) := by
  rw [readLine, chargeRereads_clean b (by simpa using h), readOne_clean b h]

theorem readLines_clean {ls : List Nat} (h : ∀ l ∈ ls, Clean b l) : readLines ls b = (true, b) := by
  have hfold : ∀ ls : List Nat, (∀ l ∈ ls, Clean b l) → ls.foldl (fun acc l => let r := readOne l acc.2; (acc.1 && r.1, r.2)) (true, b) = (true, b) := by
    intro ls
    induction ls with
    | nil => exact fun _ => rfl
    | cons l ls ih =>
      intro h
      obtain ⟨hl, hls⟩ := List.forall_mem_cons.mp h
      simp only [List.foldl_cons, readOne_clean b hl, Bool.and_self]
      exact ih hls
  rw [readLines, chargeRereads_clean b h]
  exact hfold ls h

/-! ### A write of lines with nothing wrong (R194, R205) -/

/-- The block with the access counted at the channel that serves it, if it is narrow (R203). -/
def countNarrow (a n : Nat) (b : Block) : Block :=
  if n ≤ 32 ∧ a / 32 = (a + n - 1) / 32 then bump (uChannel (channelAt b a)) Off.grnChNarrowLo 1 b else b

@[simp] theorem grn_countNarrow (a n : Nat) : (countNarrow a n b).grn = b.grn := by unfold countNarrow; split <;> rfl
@[simp] theorem gln_countNarrow (a n : Nat) : (countNarrow a n b).gln = b.gln := by unfold countNarrow; split <;> rfl
@[simp] theorem restPart_countNarrow (a n : Nat) : restPart (countNarrow a n b) = restPart b := by unfold countNarrow; split <;> simp

theorem clean_countNarrow {a n l : Nat} : Clean (countNarrow a n b) l ↔ Clean b l := by
  unfold countNarrow
  split
  · exact clean_bump b (uChannel_pos _) (by decide)
  · rfl

theorem serveRead_clean {a n : Nat} (h : ∀ l ∈ linesOf a n, Clean b l) : serveRead a n b = (.ok, bytesAt b a n, countNarrow a n b) := by
  have hread : readLines (linesOf a n) (countNarrow a n b) = (true, countNarrow a n b) := readLines_clean _ fun l hl => (clean_countNarrow b).mpr (h l hl)
  have hbytes : bytesAt (countNarrow a n b) a n = bytesAt b a n := by simp only [bytesAt, byteAt, grn_countNarrow]
  simp only [serveRead]
  rw [← countNarrow, hread, if_pos rfl, hbytes]

/-- What the lines of a write, once served, leave: their share of its bytes, their tags, and nothing else but marks that are gone. -/
structure LinesWritten (a : Nat) (v : List Byte) (tag : Option Nat) (ls : List Nat) (c d : Block) : Prop where
  bytes : ∀ x, byteAt d x = if x / 64 ∈ ls ∧ a ≤ x ∧ x < a + v.length then v.getD (x - a) 0 else byteAt c x
  tags : ∀ l, d.grn.ltag.get 0 l = if l ∈ ls ∧ a ≤ 64 * l ∧ 64 * l + 64 ≤ a + v.length then tag.getD 0 else c.grn.ltag.get 0 l
  clean : ∀ l, Clean c l → Clean d l
  face : d.face = c.face
  gln : d.gln = c.gln

theorem LinesWritten.nil (a : Nat) (v : List Byte) (tag : Option Nat) : LinesWritten a v tag [] b b := ⟨by simp, by simp, fun _ h => h, rfl, rfl⟩

theorem ite_ite_and {α : Type} (p q r : Prop) [Decidable p] [Decidable q] [Decidable r] (x y : α) :
    (if p ∧ r then x else if q ∧ r then x else y) = if (q ∨ p) ∧ r then x else y := by
  by_cases p <;> by_cases q <;> by_cases r <;> simp [*]

theorem LinesWritten.cons {a l : Nat} {v : List Byte} {tag : Option Nat} {ls : List Nat} {b c d : Block} (h : LinesWritten a v tag [l] b c)
    (t : LinesWritten a v tag ls c d) : LinesWritten a v tag (l :: ls) b d := by
  refine ⟨fun x => ?_, fun k => ?_, fun k hk => t.clean k (h.clean k hk), t.face.trans h.face, t.gln.trans h.gln⟩
  · rw [t.bytes, h.bytes]
    simp only [List.mem_cons, List.not_mem_nil, or_false, ite_ite_and]
  · rw [t.tags, h.tags]
    simp only [List.mem_cons, List.not_mem_nil, or_false, ite_ite_and]

/-- The bytes of a poke of a write's share of a line are the write's own. -/
theorem byteAt_poke_share {a l : Nat} {v : List Byte} (x : Nat) :
    byteAt (poke (max a (64 * l)) ((v.drop (max a (64 * l) - a)).take (min (a + v.length) (64 * l + 64) - max a (64 * l))) b) x =
      if x / 64 ∈ [l] ∧ a ≤ x ∧ x < a + v.length then v.getD (x - a) 0 else byteAt b x := by
  rw [byteAt_poke, List.length_take, List.length_drop]
  by_cases hx : x / 64 = l ∧ a ≤ x ∧ x < a + v.length
  · obtain ⟨hl, h1, h2⟩ := hx
    have hin : max a (64 * l) ≤ x ∧ x < max a (64 * l) + min (min (a + v.length) (64 * l + 64) - max a (64 * l)) (v.length - (max a (64 * l) - a)) := by omega
    have hk : max a (64 * l) - a + (x - max a (64 * l)) = x - a := by omega
    rw [if_pos hin, if_pos ⟨by simp [hl], h1, h2⟩, List.getD_eq_getElem?_getD, List.getD_eq_getElem?_getD, List.getElem?_take_of_lt (by omega),
      List.getElem?_drop, hk]
  · rw [if_neg (by omega), if_neg (by simpa using hx)]

theorem clean_poke {a l : Nat} {v : List Byte} : Clean (poke a v b) l ↔ Clean b l := Iff.rfl

/-- A line that is wholly written loses its mark, is no longer to be rewritten, and takes the tag. -/
def freshLine (tag : Option Nat) (l : Nat) (b : Block) : Block :=
  let b := setMark l none b
  let b := if isRedirected b (64 * l) then { b with grn := { b.grn with rewritten := b.grn.rewritten.put l () } } else b
  { b with grn := { b.grn with ltag := match tag with
    | some t => if t = 0 then b.grn.ltag.drop l else b.grn.ltag.put l t
    | none => b.grn.ltag.drop l } }

theorem freshLine_frame (tag : Option Nat) (l : Nat) : (freshLine tag l b).face = b.face ∧ (freshLine tag l b).gln = b.gln ∧
    (freshLine tag l b).grn.mem = b.grn.mem ∧ (freshLine tag l b).grn.retired = b.grn.retired ∧ (freshLine tag l b).grn.chFailed = b.grn.chFailed := by
  unfold freshLine; dsimp only; split <;> exact ⟨rfl, rfl, rfl, rfl, rfl⟩

theorem ltag_freshLine (tag : Option Nat) (l k : Nat) : (freshLine tag l b).grn.ltag.get 0 k = if k = l then tag.getD 0 else b.grn.ltag.get 0 k := by
  have hkeep : (if isRedirected (setMark l none b) (64 * l) then
      { setMark l none b with grn := { (setMark l none b).grn with rewritten := (setMark l none b).grn.rewritten.put l () } } else setMark l none b).grn.ltag
      = b.grn.ltag := by split <;> rfl
  simp only [freshLine, hkeep]
  cases tag with
  | none => simp
  | some t =>
    dsimp only
    by_cases ht : t = 0 <;> simp [ht]

theorem clean_freshLine {tag : Option Nat} {l k : Nat} (h : Clean b k) : Clean (freshLine tag l b) k := by
  obtain ⟨hface, -, -, hret, hfail⟩ := freshLine_frame b tag l
  obtain ⟨hs, hr⟩ := servedAt_congr (reg_of_face hface ..) (reg_of_face hface ..) hret hfail (64 * k)
  have hmarks : (freshLine tag l b).grn.marks = b.grn.marks.drop l := by unfold freshLine; dsimp only; split <;> rfl
  have hrew : (freshLine tag l b).grn.rewritten.find k = none → b.grn.rewritten.find k = none := by
    unfold freshLine; dsimp only
    split
    · simp only [SMap.find_put]; intro hnone; split at hnone
      · cases hnone
      · exact hnone
    · exact id
  obtain ⟨hserved, hmark⟩ := h
  refine ⟨hs ▸ hserved, ?_⟩
  simp only [markOf, hr, hmarks, SMap.find_drop] at hmark ⊢
  cases hfind : b.grn.marks.find k with
  | some m => simp [hfind] at hmark
  | none =>
    simp only [hfind, ite_self] at hmark ⊢
    cases hnone : (freshLine tag l b).grn.rewritten.find k with
    | some _ => simp
    | none => simpa [hrew hnone] using hmark

theorem writeLine_whole {a l : Nat} {v : List Byte} {tag : Option Nat} (hs : (servedAt b (64 * l)).isSome = true)
    (h : min (a + v.length) (64 * l + 64) - max a (64 * l) = 64) :
    writeLine a v tag l b = (true, poke (max a (64 * l)) ((v.drop (max a (64 * l) - a)).take (min (a + v.length) (64 * l + 64) - max a (64 * l)))
      (freshLine tag l b)) := by
  obtain ⟨pl, hpl⟩ := Option.isSome_iff_exists.mp hs
  simp only [writeLine, hpl, h, if_true]
  rfl

theorem writeLine_part {a l : Nat} {v : List Byte} {tag : Option Nat} (hc : Clean b l)
    (h : min (a + v.length) (64 * l + 64) - max a (64 * l) ≠ 64) :
    writeLine a v tag l b = (true, poke (max a (64 * l)) ((v.drop (max a (64 * l) - a)).take (min (a + v.length) (64 * l + 64) - max a (64 * l))) b) := by
  obtain ⟨pl, hpl⟩ := Option.isSome_iff_exists.mp hc.1
  simp only [writeLine, hpl, if_neg h, readOne_clean b hc, if_true]

/-- A line with nothing wrong takes its share of the write. -/
theorem writeLine_clean {a l : Nat} {v : List Byte} (tag : Option Nat) (h : Clean b l) :
    (writeLine a v tag l b).1 = true ∧ LinesWritten a v tag [l] b (writeLine a v tag l b).2 := by
  by_cases hfull : min (a + v.length) (64 * l + 64) - max a (64 * l) = 64
  · obtain ⟨hface, hgln, hmem, -, -⟩ := freshLine_frame b tag l
    rw [writeLine_whole b h.1 hfull]
    refine ⟨rfl, ⟨fun x => ?_, fun k => ?_, fun k hk => clean_freshLine b (tag := tag) (l := l) hk, hface, hgln⟩⟩
    · rw [byteAt_poke_share, byteAt_of_mem hmem]
    · refine (ltag_freshLine b tag l k).trans ?_
      by_cases hk : k = l
      · rw [if_pos hk, if_pos ⟨by simp [hk], by omega, by omega⟩]
      · rw [if_neg hk, if_neg (by simp [hk])]
  · rw [writeLine_part b h hfull]
    refine ⟨rfl, ⟨fun x => byteAt_poke_share b x, fun k => (if_neg ?_).symm, fun k hk => hk, rfl, rfl⟩⟩
    rintro ⟨hk, h1, h2⟩
    obtain rfl := List.mem_singleton.mp hk
    omega

theorem writeLines_clean {a : Nat} {v : List Byte} (tag : Option Nat) (ls : List Nat) : ∀ b : Block, (∀ l ∈ ls, Clean b l) →
    ∃ d, ls.foldl (fun acc l => let r := writeLine a v tag l acc.2; (acc.1 && r.1, r.2)) (true, b) = (true, d) ∧ LinesWritten a v tag ls b d := by
  induction ls with
  | nil => exact fun b _ => ⟨b, rfl, .nil b a v tag⟩
  | cons l ls ih =>
    intro b h
    obtain ⟨hok, hw⟩ := writeLine_clean b (a := a) (v := v) tag (h l (by simp))
    obtain ⟨d, heq, hd⟩ := ih (writeLine a v tag l b).2 fun k hk => hw.clean k (h k (List.mem_cons_of_mem _ hk))
    exact ⟨d, by simp only [List.foldl_cons, hok, Bool.and_self]; exact heq, hw.cons hd⟩

/-- A write to lines with nothing wrong is done, line by line, and counted if it is narrow. -/
theorem serveWrite_clean {a : Nat} {v : List Byte} (tag : Option Nat) (h : ∀ l ∈ linesOf a v.length, Clean b l) :
    ∃ d, serveWrite a v tag b = (.ok, d) ∧ LinesWritten a v tag (linesOf a v.length) (countNarrow a v.length b) d := by
  have hc : ∀ l ∈ linesOf a v.length, Clean (countNarrow a v.length b) l := fun l hl => (clean_countNarrow b).mpr (h l hl)
  have hcharge : chargeRereads (partLines a v.length) (countNarrow a v.length b) = countNarrow a v.length b :=
    chargeRereads_clean _ fun l hl => hc l (List.mem_filter.mp hl).1
  obtain ⟨d, heq, hd⟩ := writeLines_clean (a := a) (v := v) tag _ _ hc
  refine ⟨d, ?_, hd⟩
  simp only [serveWrite]
  rw [← countNarrow, hcharge, heq]
  rfl

/-- Every byte of a range is in one of its lines. -/
theorem LinesWritten.byteAt_range {a : Nat} {v : List Byte} {tag : Option Nat} {c d : Block} (h : LinesWritten a v tag (linesOf a v.length) c d)
    (x : Nat) : byteAt d x = if a ≤ x ∧ x < a + v.length then v.getD (x - a) 0 else byteAt c x := by
  rw [h.bytes]
  refine ite_congr (propext ?_) (fun _ => rfl) fun _ => rfl
  constructor
  · exact fun ⟨_, hx⟩ => hx
  · rintro ⟨h1, h2⟩
    exact ⟨(mem_linesOf (by omega)).mpr ⟨by omega, by omega⟩, h1, h2⟩

theorem LinesWritten.ltag_range {a : Nat} {v : List Byte} {tag : Option Nat} {c d : Block} (h : LinesWritten a v tag (linesOf a v.length) c d)
    (l : Nat) : d.grn.ltag.get 0 l = if a ≤ 64 * l ∧ 64 * l + 64 ≤ a + v.length then tag.getD 0 else c.grn.ltag.get 0 l := by
  rw [h.tags]
  refine ite_congr (propext ?_) (fun _ => rfl) fun _ => rfl
  constructor
  · exact fun ⟨_, hx⟩ => hx
  · rintro ⟨h1, h2⟩
    exact ⟨(mem_linesOf (by omega)).mpr ⟨by omega, by omega⟩, h1, h2⟩



theorem strike_nil : strike [] b = b := rfl

theorem length_ne_zero {v : List Byte} (h : v ≠ []) : v.length ≠ 0 := fun hn => h (List.length_eq_zero_iff.mp hn)

/-- An access that is let through is served once the banks it meets are released (Table 7.5). -/
theorem granaryWrite_allowed {iss : Issuer} {a : Nat} {v : List Byte} {tag : Option Nat} (hv : v ≠ []) (h : granaryAllows b iss a v.length true = true) :
    granaryWrite iss a v tag b = serveWrite a v tag (releaseBanks a v.length b) := by simp [granaryWrite, hv, h]

theorem granaryWrite_refused {iss : Issuer} {a : Nat} {v : List Byte} {tag : Option Nat} (hv : v ≠ []) (h : granaryAllows b iss a v.length true = false) :
    granaryWrite iss a v tag b = (.notPresent, addrFault iss a b) := by simp [granaryWrite, hv, h]

theorem granaryRead_allowed {iss : Issuer} {a n : Nat} (h : granaryAllows b iss a n false = true) :
    granaryRead iss a n b = serveRead a n (releaseBanks a n b) := by simp [granaryRead, h]

theorem granaryRead_refused {iss : Issuer} {a n : Nat} (h : granaryAllows b iss a n false = false) :
    granaryRead iss a n b = (.notPresent, [], addrFault iss a b) := by simp [granaryRead, h]

end Sys2Proof.Machine

open Sys2Proof Sys2Proof.Machine

/-- Settles O12: the write is served line by line after the commits it waits for, or it is refused whole. -/
theorem granaryWrites : Obligations.GranaryWrites := by
  unfold Obligations.GranaryWrites
  intro s u job a data tag hon hdata
  refine ⟨fun hallow => ⟨releaseBanks_idle a data.length s.blk, fun hclean => ?_⟩, fun hno => ?_⟩
  · obtain ⟨d, heq, hd⟩ := serveWrite_clean (releaseBanks a data.length s.blk) (v := data) tag hclean
    have hrest : restPart d = restPart s.blk := by
      have := restPart_serveWrite (releaseBanks a data.length s.blk) a data tag
      rw [heq] at this
      rw [this, restPart_releaseBanks]
    obtain ⟨⟨htil, hctx, -, -, htrn⟩, -, hrep, -⟩ := restPart_eq_iff.mp hrest
    have hrun : grnWriteCmd u (job.map Fin.val) a data tag [] s.blk = answer .ok 0 d := by
      simp only [grnWriteCmd, strike_nil, granaryWrite_allowed s.blk hdata hallow, heq]
    refine answersWith_main rfl hon ?_
    simp only [keepTally, hrun]
    refine ⟨congrArg (· ++ _) hrep, fun x => ?_, fun l => ?_, hctx, htil, hd.gln.trans (gln_countNarrow ..), htrn⟩
    · refine (hd.byteAt_range x).trans ?_
      rw [byteAt_of_mem (congrArg Granary.mem (grn_countNarrow ..))]
    · refine (hd.ltag_range l).trans ?_
      rw [grn_countNarrow]
  · refine answers_main rfl hon ?_ (by simp)
    simp only [grnWriteCmd, strike_nil, granaryWrite_refused s.blk hdata hno]
    rfl

namespace Sys2Proof.Machine

variable (b : Block)

/-! ### The line and the bank of an access -/

/-- The line of an offset has its channel and its tensor group. -/
theorem homeOf_line (a : Nat) : (homeOf b (64 * (a / 64))).ch = (homeOf b a).ch ∧ (64 * (a / 64)) >>> 36 = a >>> 36 := by
  have h9 : (64 * (a / 64)) >>> 9 = a >>> 9 := by simp only [Nat.shiftRight_eq_div_pow]; omega
  have h31 : (64 * (a / 64)) >>> 31 = a >>> 31 := by simp only [Nat.shiftRight_eq_div_pow]; omega
  have h36 : (64 * (a / 64)) >>> 36 = a >>> 36 := by simp only [Nat.shiftRight_eq_div_pow]; omega
  refine ⟨?_, h36⟩
  unfold homeOf placeOf
  rw [h9, h31, h36]
  split <;> rfl

/-- An offset is served where its line is. -/
theorem servedAt_line (a : Nat) : (servedAt b (64 * (a / 64))).isSome = (servedAt b a).isSome := by
  obtain ⟨hch, hgroup⟩ := homeOf_line b a
  unfold servedAt
  dsimp only
  rw [hch, hgroup]
  cases retirementOf b (homeOf b a).ch with
  | none => dsimp only; split <;> rfl
  | some r => dsimp only; split <;> rfl

theorem clean_of_served {a : Nat} (hs : (servedAt b a).isSome = true) (hm : markOf b (a / 64) = none) : Clean b (a / 64) :=
  ⟨(servedAt_line b a).trans hs, hm⟩

theorem SMap.mem_of_find {α : Type} {m : SMap α} {i : Nat} {x : α} (h : m.find i = some x) : (i, x) ∈ m := by
  induction m with
  | nil => simp at h
  | cons p r ih =>
    obtain ⟨k, v⟩ := p
    rw [SMap.find] at h
    split at h
    · rename_i hk
      cases h
      exact hk ▸ List.mem_cons_self
    · exact List.mem_cons_of_mem _ (ih h)

/-- A gleaner with a segment open is one of the block's. -/
theorem anySegment_of_seg {g : Nat} {sg : Segment} (h : (glOf b g).seg = some sg) : anySegment b = true := by
  cases hfind : b.gln.gl.find g with
  | none => simp [glOf, SMap.get, hfind, Gleaner.init] at h
  | some x =>
    have hx : x.seg = some sg := by simpa [glOf, SMap.get, hfind] using h
    exact List.any_eq_true.mpr ⟨(g, x), SMap.mem_of_find hfind, by simp [hx]⟩

/-- An access within one line whose bank a segment holds waits for that segment's commit (Table 7.5). -/
theorem releaseBanks_held {a n : Nat} {pl : Place} {sg : Segment} (hn : 0 < n) (hline : a / 64 = (a + n - 1) / 64)
    (hs : servedAt b (64 * (a / 64)) = some pl) (hg : (glOf b (bankGleaner pl.ch pl.bank)).seg = some sg) (hb : (sg.banks.find pl.bank).isSome = true) :
    releaseBanks a n b = commit (bankGleaner pl.ch pl.bank) true b := by
  have hheld : bankHeld b (bankGleaner pl.ch pl.bank) pl.bank = true := by simp only [bankHeld, hg, hb]
  have hlines : linesOf a n = [a / 64] := by
    rw [linesOf, if_neg (Nat.ne_of_gt hn), ← hline, Nat.sub_self]
    simp
  simp [releaseBanks, anySegment_of_seg b hg, hlines, hs, releaseBank, hheld]

/-! ### Atomics (R206, R207) -/

section
variable {iss : Issuer} {code a v cmp n : Nat}

theorem granaryAtomic_misaligned (hsize : atomicSize code = some n) (ha : a % n ≠ 0) : granaryAtomic iss code a v cmp b = (.badArgument, 0, b) := by
  simp [granaryAtomic, hsize, ha]

/-- A training job's floating-point adds are rejected: their order would show (R207). -/
theorem granaryAtomic_unordered (hsize : atomicSize code = some n) (ha : a % n = 0) (hcode : code = 0x03 ∨ code = 0x04) (ht : iss.train = true) :
    granaryAtomic iss code a v cmp b = (.badArgument, 0, notify (uChannel (channelAt b a)) Fld.grnChStatusAtomicReject .grnAtomicReject
      (iss.unit * 2 ^ 16 + iss.job.getD 0 * 2 ^ 8 + code) b) := by simp [granaryAtomic, hsize, ha, hcode, ht]

theorem granaryAtomic_clean (hsize : atomicSize code = some n) (ha : a % n = 0) (hord : ¬ ((code = 0x03 ∨ code = 0x04) ∧ iss.train = true))
    (hallow : granaryAllows b iss a n true = true) (hs : (servedAt (releaseBanks a n b) a).isSome = true) (hm : markOf (releaseBanks a n b) (a / 64) = none) :
    granaryAtomic iss code a v cmp b =
      let d := releaseBanks a n b
      let u := uChannel (channelAt d a)
      (.ok, numAt d a n, bump u Off.grnChAtomicLo 1 (poke a (leBytes n (atomicResult code (numAt d a n) (v % 2 ^ (8 * n)) cmp))
        (bump u Off.grnChNarrowLo 1 d))) := by
  have hclean : Clean (bump (uChannel (channelAt (releaseBanks a n b) a)) Off.grnChNarrowLo 1 (releaseBanks a n b)) (a / 64) :=
    (clean_bump _ (uChannel_pos _) (by decide)).mpr (clean_of_served _ hs hm)
  have hnum : numAt (bump (uChannel (channelAt (releaseBanks a n b) a)) Off.grnChNarrowLo 1 (releaseBanks a n b)) a n = numAt (releaseBanks a n b) a n := rfl
  simp only [granaryAtomic, hsize, ha, ne_eq, not_true, if_false, if_neg hord, hallow, Bool.not_true, Bool.false_eq_true, readLine_clean _ hclean, if_true, hnum]

end

/-- The fifteen commands are one, by its code. -/
theorem exec_atomic {u : Fin 8192} {job : Option (Fin 8)} {a v cmp code : Nat} {i : Instr} (h : (code, i) ∈ atomicCommands u job a v cmp)
    (hcmp : code ≠ 0x0F → cmp = 0) (s : State) : exec i s = s.runMain (grnAtomicCmd code u (job.map Fin.val) a v cmp []) := by
  simp only [atomicCommands, List.mem_cons, Prod.mk.injEq, List.not_mem_nil, or_false] at h
  by_cases hc : code = 0x0F
  · subst hc
    simp at h
    subst h
    rfl
  · obtain rfl := hcmp hc
    obtain ⟨rfl, rfl⟩ | ⟨rfl, rfl⟩ | ⟨rfl, rfl⟩ | ⟨rfl, rfl⟩ | ⟨rfl, rfl⟩ | ⟨rfl, rfl⟩ | ⟨rfl, rfl⟩ | ⟨rfl, rfl⟩ | ⟨rfl, rfl⟩ | ⟨rfl, rfl⟩ | ⟨rfl, rfl⟩ |
      ⟨rfl, rfl⟩ | ⟨rfl, rfl⟩ | ⟨rfl, rfl⟩ | ⟨rfl, rfl⟩ := h <;> rfl

end Sys2Proof.Machine

open Sys2Proof Sys2Proof.Machine

/-- Settles O11: a read of lines with nothing wrong is served after the commits it waits for, or is refused. -/
theorem granaryReads : Obligations.GranaryReads := by
  unfold Obligations.GranaryReads
  refine fun s u job a n hon => ⟨fun hallow => ⟨releaseBanks_idle a n s.blk, fun hclean => ?_⟩, fun hno => ?_, fun pl sg hn hline hs hg hb =>
    releaseBanks_held s.blk hn hline hs hg hb⟩
  · refine answers_main rfl hon ?_ ?_
    · simp only [grnReadCmd, strike_nil, granaryRead_allowed s.blk hallow, serveRead_clean _ hclean]
      rfl
    · split <;> simp
  · refine answers_main rfl hon ?_ (by simp)
    simp only [grnReadCmd, strike_nil, granaryRead_refused s.blk hno]
    rfl

/-- Settles O13: each of the fifteen by its code, and the two rejections. -/
theorem atomics : Obligations.Atomics := by
  unfold Obligations.Atomics
  refine ⟨?_, ?_, ?_⟩
  · intro s u job a v cmp code n i hi hon hidle ha hord hallow hs hm
    have hrel := releaseBanks_idle a n s.blk hidle
    have hcmd : (code, i) ∈ atomicCommands u job a v cmp ∧ (code ≠ 0x0F → cmp = 0) ∧ atomicSize code = some n := by
      simp only [List.mem_cons, Prod.mk.injEq, List.not_mem_nil, or_false] at hi
      obtain ⟨hcode, rfl⟩ | ⟨rfl, rfl, rfl⟩ := hi
      · obtain ⟨rfl, rfl, rfl⟩ | ⟨rfl, rfl, rfl⟩ | ⟨rfl, rfl, rfl⟩ | ⟨rfl, rfl, rfl⟩ | ⟨rfl, rfl, rfl⟩ | ⟨rfl, rfl, rfl⟩ | ⟨rfl, rfl, rfl⟩ |
          ⟨rfl, rfl, rfl⟩ | ⟨rfl, rfl, rfl⟩ | ⟨rfl, rfl, rfl⟩ | ⟨rfl, rfl, rfl⟩ | ⟨rfl, rfl, rfl⟩ | ⟨rfl, rfl, rfl⟩ | ⟨rfl, rfl, rfl⟩ := hcode <;>
          exact ⟨by simp [atomicCommands], fun _ => rfl, rfl⟩
      · exact ⟨by simp [atomicCommands], fun h => absurd rfl h, rfl⟩
    obtain ⟨hmem, hcmp, hsize⟩ := hcmd
    refine answers_main (exec_atomic hmem hcmp s) hon ?_ (by simp)
    simp only [grnAtomicCmd, strike_nil]
    rw [granaryAtomic_clean s.blk hsize ha hord hallow (hrel.symm ▸ hs) (hrel.symm ▸ hm), hrel]
  · intro s u job a v cmp code n i hi hon hcmp hsize ha hord hallow d ch hs hm
    have hans : Answers i s (fun _ => answer .ok (numAt d a n) (bump ch Off.grnChAtomicLo 1
        (poke a (leBytes n (atomicResult code (numAt d a n) (v % 2 ^ (8 * n)) cmp)) (bump ch Off.grnChNarrowLo 1 d)))) := by
      refine answers_main (exec_atomic hi hcmp s) hon ?_ (by simp [d])
      simp only [grnAtomicCmd, strike_nil]
      rw [granaryAtomic_clean s.blk hsize ha hord hallow hs hm]
    refine ⟨hans, fun c x hc hx => ?_, releaseBanks_idle a n s.blk⟩
    rw [Answers] at hans
    cases hans.symm.trans hc
    show byteAt (poke a _ _) x = _
    rw [byteAt_poke, leBytes_length, if_neg (by omega)]
    rfl
  · intro s u job a v code n i hi hon hsize
    refine ⟨fun ha => ?_, fun ha hcode ht => ?_⟩
    · refine answers_main (exec_atomic hi (fun _ => rfl) s) hon ?_ (by simp)
      simp only [grnAtomicCmd, strike_nil, granaryAtomic_misaligned s.blk hsize ha]
    · refine answers_main (exec_atomic hi (fun _ => rfl) s) hon ?_ (by simp)
      simp only [grnAtomicCmd, strike_nil]
      rw [granaryAtomic_unordered s.blk hsize ha hcode ht]
      rfl

namespace Sys2Proof.Machine

/-! ### Integer atomics (R206) -/

/-- Two's complement spells each value once. -/
theorem signedOf_inj {n x y : Nat} (hx : x < 2 ^ n) (hy : y < 2 ^ n) (h : signedOf n x = signedOf n y) : x = y := by
  have hcast : ((2 ^ n : Nat) : Int) = 2 ^ n := by push_cast; rfl
  simp only [signedOf] at h
  split at h <;> split at h <;> omega

/-- The largest of three by a measure that tells them apart does not depend on the order in which they come. -/
theorem largest_comm {f : Nat → Int} {n x y z : Nat} (hinj : ∀ {p q}, p < n → q < n → f p = f q → p = q) (hy : y < n) (hz : z < n) :
    (if f (if f x < f y then y else x) < f z then z else if f x < f y then y else x) =
    if f (if f x < f z then z else x) < f y then y else if f x < f z then z else x := by
  by_cases h1 : f x < f y <;> by_cases h2 : f x < f z <;> simp only [h1, h2, if_true, if_false]
  · obtain h | h | h := Int.lt_trichotomy (f y) (f z)
    · simp [h, Int.not_lt.mpr (Int.le_of_lt h)]
    · simp [hinj hy hz h]
    · simp [h, Int.not_lt.mpr (Int.le_of_lt h)]
  · exact if_neg fun h => h2 (Int.lt_trans h1 h)
  · exact (if_neg fun h => h1 (Int.lt_trans h2 h)).symm

theorem addMod_comm (m x y z : Nat) : ((x + y) % m + z) % m = ((x + z) % m + y) % m := by
  rw [Nat.mod_add_mod, Nat.mod_add_mod, Nat.add_right_comm]

/-- The smallest of three is the largest by the opposite measure. -/
theorem smallest_comm {f : Nat → Int} {n x y z : Nat} (hinj : ∀ {p q}, p < n → q < n → f p = f q → p = q) (hy : y < n) (hz : z < n) :
    (if f z < f (if f y < f x then y else x) then z else if f y < f x then y else x) =
    if f y < f (if f z < f x then z else x) then y else if f z < f x then z else x := by
  have := largest_comm (f := fun p => - f p) (x := x) (fun hp hq h => hinj hp hq (Int.neg_inj.mp h)) hy hz
  simpa only [Int.neg_lt_neg_iff] using this

end Sys2Proof.Machine

open Sys2Proof Sys2Proof.Machine

/-- Settles O14: sums commute, and largest and smallest values do not depend on the order. -/
theorem atomicOrder : Obligations.AtomicOrder := by
  unfold Obligations.AtomicOrder
  intro code n old v w hcode hsize _ hv hw
  simp only [List.mem_cons, List.not_mem_nil, or_false] at hcode
  have h32 {p q : Nat} (hp : p < 2 ^ 32) (hq : q < 2 ^ 32) (h : signedOf 32 p = signedOf 32 q) : p = q := signedOf_inj hp hq h
  have h64 {p q : Nat} (hp : p < 2 ^ 64) (hq : q < 2 ^ 64) (h : signedOf 64 p = signedOf 64 q) : p = q := signedOf_inj hp hq h
  obtain rfl | rfl | rfl | rfl | rfl | rfl | rfl | rfl | rfl | rfl := hcode <;> cases hsize
  · exact addMod_comm ..
  · exact addMod_comm ..
  · exact largest_comm h32 hv hw
  · exact smallest_comm h32 hv hw
  · exact Nat.max_right_comm ..
  · exact Nat.min_right_comm ..
  · exact largest_comm h64 hv hw
  · exact smallest_comm h64 hv hw
  · exact Nat.max_right_comm ..
  · exact Nat.min_right_comm ..

namespace Sys2Proof.Machine

/-! ### Places (R201) -/

/-- A swizzle by the same terms undoes itself. -/
theorem xor_swizzle (k x y z : Nat) : Nat.xor (Nat.xor (Nat.xor (Nat.xor (Nat.xor (Nat.xor k x) y) z) x) y) z = k := by
  show k ^^^ x ^^^ y ^^^ z ^^^ x ^^^ y ^^^ z = k
  calc k ^^^ x ^^^ y ^^^ z ^^^ x ^^^ y ^^^ z = k ^^^ (x ^^^ x) ^^^ (y ^^^ y) ^^^ (z ^^^ z) := by ac_rfl
    _ = k := by simp

theorem xor_swizzle_two (k x y : Nat) : Nat.xor (Nat.xor (Nat.xor (Nat.xor k x) y) x) y = k := by
  show k ^^^ x ^^^ y ^^^ x ^^^ y = k
  calc k ^^^ x ^^^ y ^^^ x ^^^ y = k ^^^ (x ^^^ x) ^^^ (y ^^^ y) := by ac_rfl
    _ = k := by simp

/-- The cell offset of a granule in its channel, taken apart. -/
theorem cell_parts {gr x r p : Nat} (hp : p = gr * 2 ^ 27 + x * 2 ^ 9 + r) (hx : x < 2 ^ 18) (hr : r < 512) :
    p >>> 27 = gr ∧ (p >>> 9) % 2 ^ 18 = x ∧ p % 512 = r := by
  simp only [Nat.shiftRight_eq_div_pow]
  omega

/-- The channel of a stack-local offset, among those of its stack. -/
def localChannel (g x : Nat) : Nat :=
  Nat.xor (Nat.xor (Nat.xor (g % 16) (x % 16)) (Nat.xor ((x >>> 4) % 16) ((x >>> 8) % 16))) (Nat.xor ((x >>> 12) % 16) (x >>> 16))

theorem localChannel_lt {g x : Nat} (hx : x < 2 ^ 18) : localChannel g x < 16 := by
  have hlt (k : Nat) : k % 16 < 2 ^ 4 := Nat.mod_lt _ (by decide)
  have htop : x >>> 16 < 2 ^ 4 := by rw [Nat.shiftRight_eq_div_pow]; omega
  exact Nat.xor_lt_two_pow (Nat.xor_lt_two_pow (Nat.xor_lt_two_pow (hlt _) (hlt _)) (Nat.xor_lt_two_pow (hlt _) (hlt _)))
    (Nat.xor_lt_two_pow (hlt _) htop)

theorem interleaved_lt {g x : Nat} (hx : x < 2 ^ 18) : Nat.xor (Nat.xor (g % 512) (x % 512)) (x >>> 9) < 512 := by
  have hlt (k : Nat) : k % 512 < 2 ^ 9 := Nat.mod_lt _ (by decide)
  have htop : x >>> 9 < 2 ^ 9 := by rw [Nat.shiftRight_eq_div_pow]; omega
  exact Nat.xor_lt_two_pow (Nat.xor_lt_two_pow (hlt _) (hlt _)) htop

/-- A place within its channel is in range when its cell offset is. -/
theorem placeIn_range {ch p : Nat} (hp : p < 2 ^ 33) : (placeIn ch p).bank < 16 ∧ (placeIn ch p).row < 2 ^ 18 := by
  refine ⟨Nat.mod_lt _ (by decide), ?_⟩
  show p >>> 15 < 2 ^ 18
  rw [Nat.shiftRight_eq_div_pow]
  omega

variable (b : Block)

theorem homeOf_local {a : Nat} (h : groupLocal b (a >>> 36) = true) : homeOf b a =
    placeIn (32 * localChannel ((a >>> 9) % 2 ^ 22) (((a >>> 9) % 2 ^ 22) >>> 4) + (a >>> 31) % 32)
      ((a >>> 36) * 2 ^ 27 + (((a >>> 9) % 2 ^ 22) >>> 4) * 2 ^ 9 + a % 512) := by
  simp only [homeOf, h]
  rfl

theorem homeOf_interleaved {a : Nat} (h : groupLocal b (a >>> 36) = false) : homeOf b a =
    placeIn (Nat.xor (Nat.xor ((a >>> 9) % 2 ^ 27 % 512) ((((a >>> 9) % 2 ^ 27) >>> 9) % 512)) (((a >>> 9) % 2 ^ 27) >>> 9 >>> 9))
      ((a >>> 36) * 2 ^ 27 + (((a >>> 9) % 2 ^ 27) >>> 9) * 2 ^ 9 + a % 512) := by
  simp only [homeOf, h]
  rfl

theorem addrHomed_local {ch p : Nat} (h : groupLocal b (p >>> 27) = true) : addrHomed b ch p =
    (p >>> 27) * 2 ^ 36 + ch % 32 * 2 ^ 31 + (p >>> 9) % 2 ^ 18 * 2 ^ 13 +
      Nat.xor (Nat.xor (Nat.xor (ch / 32) ((p >>> 9) % 2 ^ 18 % 16)) (Nat.xor ((((p >>> 9) % 2 ^ 18) >>> 4) % 16) ((((p >>> 9) % 2 ^ 18) >>> 8) % 16)))
      (Nat.xor ((((p >>> 9) % 2 ^ 18) >>> 12) % 16) (((p >>> 9) % 2 ^ 18) >>> 16)) % 16 * 2 ^ 9 + p % 512 := by
  simp only [addrHomed, h, if_true]

theorem addrHomed_interleaved {ch p : Nat} (h : groupLocal b (p >>> 27) = false) : addrHomed b ch p =
    (p >>> 27) * 2 ^ 36 + (p >>> 9) % 2 ^ 18 * 2 ^ 18 +
      Nat.xor (Nat.xor ch ((p >>> 9) % 2 ^ 18 % 512)) (((p >>> 9) % 2 ^ 18) >>> 9) % 512 * 2 ^ 9 + p % 512 := by
  simp only [addrHomed, h, Bool.false_eq_true, if_false]

/-- A stack-local offset comes back from its home (R201). -/
theorem addrHomed_of_local {a : Nat} (ha : a < granarySize) (h : groupLocal b (a >>> 36) = true) :
    addrHomed b (homeOf b a).ch (homeOf b a).p = a ∧ (homeOf b a).ch < 512 ∧ (homeOf b a).p < 2 ^ 33 ∧ (homeOf b a).bank < 16 ∧ (homeOf b a).row < 2 ^ 18 := by
  obtain ⟨x, hx⟩ : ∃ x, x = ((a >>> 9) % 2 ^ 22) >>> 4 := ⟨_, rfl⟩
  obtain ⟨p, hp⟩ : ∃ p, p = (a >>> 36) * 2 ^ 27 + x * 2 ^ 9 + a % 512 := ⟨_, rfl⟩
  have hxlt : x < 2 ^ 18 := by rw [hx, Nat.shiftRight_eq_div_pow]; omega
  have hchan := localChannel_lt (g := (a >>> 9) % 2 ^ 22) hxlt
  have hgr : a >>> 36 < 64 := by rw [Nat.shiftRight_eq_div_pow]; simp only [granarySize] at ha; omega
  obtain ⟨h1, h2, h3⟩ := cell_parts hp hxlt (Nat.mod_lt _ (by decide))
  have hplt : p < 2 ^ 33 := by omega
  rw [homeOf_local b h, ← hx, ← hp]
  refine ⟨?_, by simp only [placeIn]; omega, hplt, placeIn_range hplt⟩
  show addrHomed b _ p = a
  have hdiv : (32 * localChannel ((a >>> 9) % 2 ^ 22) x + (a >>> 31) % 32) / 32 = localChannel ((a >>> 9) % 2 ^ 22) x := by omega
  have hmod : (32 * localChannel ((a >>> 9) % 2 ^ 22) x + (a >>> 31) % 32) % 32 = (a >>> 31) % 32 := by omega
  rw [addrHomed_local b (h1 ▸ h), h1, h2, h3]
  simp only [placeIn, hdiv, hmod]
  rw [localChannel, xor_swizzle, hx]
  simp only [Nat.shiftRight_eq_div_pow]
  omega

/-- An interleaved offset comes back from its home (R201). -/
theorem addrHomed_of_interleaved {a : Nat} (ha : a < granarySize) (h : groupLocal b (a >>> 36) = false) :
    addrHomed b (homeOf b a).ch (homeOf b a).p = a ∧ (homeOf b a).ch < 512 ∧ (homeOf b a).p < 2 ^ 33 ∧ (homeOf b a).bank < 16 ∧ (homeOf b a).row < 2 ^ 18 := by
  obtain ⟨x, hx⟩ : ∃ x, x = ((a >>> 9) % 2 ^ 27) >>> 9 := ⟨_, rfl⟩
  obtain ⟨p, hp⟩ : ∃ p, p = (a >>> 36) * 2 ^ 27 + x * 2 ^ 9 + a % 512 := ⟨_, rfl⟩
  have hxlt : x < 2 ^ 18 := by rw [hx, Nat.shiftRight_eq_div_pow]; omega
  have hchan := interleaved_lt (g := (a >>> 9) % 2 ^ 27) hxlt
  have hgr : a >>> 36 < 64 := by rw [Nat.shiftRight_eq_div_pow]; simp only [granarySize] at ha; omega
  obtain ⟨h1, h2, h3⟩ := cell_parts hp hxlt (Nat.mod_lt _ (by decide))
  have hplt : p < 2 ^ 33 := by omega
  rw [homeOf_interleaved b h, ← hx, ← hp]
  refine ⟨?_, hchan, hplt, placeIn_range hplt⟩
  show addrHomed b _ p = a
  rw [addrHomed_interleaved b (h1 ▸ h), h1, h2, h3]
  simp only [placeIn]
  rw [xor_swizzle_two, hx]
  simp only [Nat.shiftRight_eq_div_pow]
  omega

end Sys2Proof.Machine

open Sys2Proof Sys2Proof.Machine

/-- Settles O15: in both modes the swizzle undoes itself. -/
theorem oneHome : Obligations.OneHome := by
  unfold Obligations.OneHome
  intro b a ha
  cases h : groupLocal b (a >>> 36) with
  | true => exact addrHomed_of_local b ha h
  | false => exact addrHomed_of_interleaved b ha h

end

section
/-! PROOFS. The exact accumulator (R260, R261). -/

namespace Sys2Proof.Machine

/-! ### The exact accumulator (R260, R261) -/

theorem wrap640_congr {v w : Int} (h : v % 2 ^ 640 = w % 2 ^ 640) : wrap640 v = wrap640 w := by simp only [wrap640, h]

theorem wrap640_mod (v : Int) : wrap640 v % 2 ^ 640 = v % 2 ^ 640 := by
  simp only [wrap640]
  split
  · exact Int.emod_emod ..
  · rw [Int.sub_emod_right, Int.emod_emod]

/-- Wrapping at the end is wrapping at every step. -/
theorem wrap640_add (v w : Int) : wrap640 (wrap640 v + w) = wrap640 (v + w) :=
  wrap640_congr (by rw [Int.add_emod, wrap640_mod, ← Int.add_emod])

theorem wrap640_of_range {v : Int} (h1 : -2 ^ 639 ≤ v) (h2 : v < 2 ^ 639) : wrap640 v = v := by
  have hdouble : (2 : Int) ^ 640 = 2 ^ 639 * 2 := Int.pow_succ 2 639
  obtain ⟨n, hn⟩ : ∃ n : Int, n = 2 ^ 639 := ⟨_, rfl⟩
  simp only [wrap640, hdouble]
  rw [← hn] at h1 h2 ⊢
  by_cases hv : 0 ≤ v
  · rw [Int.emod_eq_of_lt hv (by omega), if_pos h2]
  · rw [← Int.add_emod_right, Int.emod_eq_of_lt (by omega) (by omega), if_neg (by omega), Int.add_sub_cancel]

/-- What a term adds: a flag, or whole units. -/
inductive ExactTerm where
  | nan
  | inf (neg : Bool)
  | units (v : Int)

def exactTerm (sq : Bool) (c : Nat) : ExactTerm := match f32 c with
  | .nan => .nan
  | .inf n => .inf (n && !sq)
  | v => .units (inUnits (if sq then fmul v v else v))

def addTerm (a : Exact) : ExactTerm → Exact
  | .nan => { a with nan := true }
  | .inf n => if n then { a with ninf := true } else { a with pinf := true }
  | .units v => { a with sum := wrap640 (a.sum + v) }

theorem exactAdd_eq (sq : Bool) (a : Exact) (c : Nat) : exactAdd sq a c = addTerm a (exactTerm sq c) := by
  unfold exactAdd exactTerm
  cases f32 c <;> rfl

/-- Flags are kept and sums wrap: two terms may be added in either order (R260). -/
theorem addTerm_comm (a : Exact) (x y : ExactTerm) : addTerm (addTerm a x) y = addTerm (addTerm a y) x := by
  cases x with
  | nan => cases y with
    | inf n => cases n <;> rfl
    | _ => rfl
  | inf m => cases y with
    | inf n => cases m <;> cases n <;> rfl
    | _ => cases m <;> rfl
  | units v => cases y with
    | inf n => cases n <;> rfl
    | nan => rfl
    | units w => simp only [addTerm, wrap640_add, Int.add_right_comm]

/-- The image holds the sum's residue and the flags (R261). -/
theorem exactImage_fields (a : Exact) : leAt (exactImage a) 0 80 = (a.sum % 2 ^ 640).toNat ∧
    leAt (exactImage a) 80 4 = b2n a.nan + 2 * b2n a.pinf + 4 * b2n a.ninf := by
  have hflags : b2n a.nan + 2 * b2n a.pinf + 4 * b2n a.ninf < 2 ^ (8 * 4) := by cases a.nan <;> cases a.pinf <;> cases a.ninf <;> decide
  have hsum : (a.sum % 2 ^ 640).toNat < 2 ^ (8 * 80) := by omega
  refine ⟨leAt_mid _ [] (leBytes 4 (b2n a.nan + 2 * b2n a.pinf + 4 * b2n a.ninf) ++ leBytes 4 0) _ _ _ ?_ rfl hsum,
    leAt_mid _ (leBytes 80 (a.sum % 2 ^ 640).toNat) (leBytes 4 0) _ _ _ ?_ (leBytes_length ..) hflags⟩
  · rw [exactImage, List.nil_append, List.append_assoc]
  · rw [exactImage, List.append_assoc]

theorem exactAddImage_exactImage {a : Exact} (h1 : -2 ^ 639 ≤ a.sum) (h2 : a.sum < 2 ^ 639) :
    exactAddImage ⟨0, false, false, false⟩ (exactImage a) = a := by
  obtain ⟨hsum, hflags⟩ := exactImage_fields a
  obtain ⟨sum, nan, pinf, ninf⟩ := a
  have hres : ((sum % 2 ^ 640).toNat : Int) = sum % 2 ^ 640 := Int.toNat_of_nonneg (Int.emod_nonneg _ (by omega))
  have hback : wrap640 (sum % 2 ^ 640) = sum := (wrap640_congr (Int.emod_emod ..)).trans (wrap640_of_range h1 h2)
  simp only [exactAddImage, hsum, hflags, Int.zero_add, hres, hback]
  cases nan <;> cases pinf <;> cases ninf <;> rfl

end Sys2Proof.Machine

open Sys2Proof Sys2Proof.Machine

/-- Settles O24: two terms commute, and an image holds all of the accumulator. -/
theorem exactAccumulator : Obligations.ExactAccumulator := by
  unfold Obligations.ExactAccumulator
  refine fun a sq c d => ⟨?_, exactAddImage_exactImage⟩
  simp only [exactAdd_eq]
  exact addTerm_comm ..

end

section
/-! PROOFS. Pages handed out (R281, R283): a frame table off its alignment. -/

namespace Sys2Proof.Machine

/-- A context store whose frame table begins one byte before a line that cannot be corrected: frame 0's entry stands across both lines. Its first byte
says that eight pages are taken, the others that the frame is one of job 0's. -/
def straddled : Block :=
  setMark 1 (some .uncorr) (poke 63 [0xFF, 0, 0, 0, 0x28, 0, 0, 0] (setReg uCtx Off.ctxFrameLo 63 blockFresh))

/-- Page 8 is handed out, and its bit, in the line that cannot be corrected, is not written. -/
theorem takePage_straddled : (takePage 0 none straddled).map (fun r => (r.1, bitOf (frameEntry r.2 0) 8)) = some (8, false) := by decide

end Sys2Proof.Machine

open Sys2Proof Sys2Proof.Machine

/-- Refutes O26: where the frame table's base is not a multiple of 8 an entry stands across two lines; of those only the first decides whether it is
read, and a second one that cannot be corrected does not take the mark of the page handed out. -/
theorem not_pagesAreExclusive : ¬ Obligations.PagesAreExclusive := by
  unfold Obligations.PagesAreExclusive
  intro h
  have htake := takePage_straddled
  obtain ⟨⟨p, c⟩, heq, hpc⟩ := Option.map_eq_some_iff.mp htake
  obtain ⟨rfl, hbit⟩ : p = 8 ∧ bitOf (frameEntry c 0) 8 = false := by simpa using hpc
  obtain ⟨-, hset, -⟩ := h straddled c 0 none 8 heq
  simp [hbit] at hset

end

section
/-! PROOFS. The close of an entry (Table 4.4, R126, R128). -/

namespace Sys2Proof.Machine

/-! ### The bytes of an entry (Table 4.4) -/

/-- What stands first in a structure reads back, but for what does not fit. -/
theorem leAt_head (n v : Nat) (r : List Byte) : leAt (leBytes n v ++ r) 0 n = v % 2 ^ (8 * n) := by
  simp only [leAt, List.drop_zero, List.take_left' (leBytes_length n v), leNat_leBytes]

/-- What stands behind a number is read past it. -/
theorem leAt_skip (k v : Nat) (r : List Byte) (off n : Nat) : leAt (leBytes k v ++ r) (k + off) n = leAt r off n := by
  rw [leAt, leAt, ← List.drop_drop, List.drop_left' (leBytes_length k v)]

/-- An entry laid out: its word of exponents, its run fields, its counts and its totals. -/
def entryBytes (w0 w1 amax keep step flags sat und : Nat) : List Byte :=
  leBytes 4 w0 ++ leBytes 4 w1 ++ leBytes 4 amax ++ leBytes 4 keep ++ List.replicate 24 0 ++ leBytes 4 step ++ leBytes 4 flags ++ leBytes 8 sat ++
    leBytes 8 und

section
variable (w0 w1 amax keep step flags sat und : Nat)

/-- The parts of an entry one behind the other, its zeros cut into eights. -/
theorem entryBytes_eq : entryBytes w0 w1 amax keep step flags sat und =
    leBytes 4 w0 ++ (leBytes 4 w1 ++ (leBytes 4 amax ++ (leBytes 4 keep ++ (leBytes 8 0 ++ (leBytes 8 0 ++ (leBytes 8 0 ++
      (leBytes 4 step ++ (leBytes 4 flags ++ (leBytes 8 sat ++ leBytes 8 und))))))))) := by
  have hzero : List.replicate 24 (0 : Byte) = leBytes 8 0 ++ (leBytes 8 0 ++ leBytes 8 0) := by decide
  simp only [entryBytes, hzero, List.append_assoc]

theorem entryBytes_length : (entryBytes w0 w1 amax keep step flags sat und).length = 64 := by simp [entryBytes, leBytes_length]

theorem entryBytes_fields : let e := entryBytes w0 w1 amax keep step flags sat und
    leAt e 0 4 = w0 % 2 ^ 32 ∧ leAt e 4 4 = w1 % 2 ^ 32 ∧ leAt e 8 4 = amax % 2 ^ 32 ∧ leAt e 16 8 = 0 ∧ leAt e 24 8 = 0 ∧ leAt e 32 8 = 0 ∧
    leAt e 48 8 = sat % 2 ^ 64 ∧ leAt e 56 8 = und % 2 ^ 64 := by
  intro e
  have he : e = _ := entryBytes_eq w0 w1 amax keep step flags sat und
  have hlast : leBytes 8 und = leBytes 8 und ++ [] := (List.append_nil _).symm
  refine ⟨?_, ?_, ?_, ?_, ?_, ?_, ?_, ?_⟩ <;> rw [he]
  · exact leAt_head ..
  · show leAt _ (4 + 0) 4 = _; simp only [leAt_skip, leAt_head]
  · show leAt _ (4 + (4 + 0)) 4 = _; simp only [leAt_skip, leAt_head]
  · show leAt _ (4 + (4 + (4 + (4 + 0)))) 8 = _; simp only [leAt_skip, leAt_head, Nat.zero_mod]
  · show leAt _ (4 + (4 + (4 + (4 + (8 + 0))))) 8 = _; simp only [leAt_skip, leAt_head, Nat.zero_mod]
  · show leAt _ (4 + (4 + (4 + (4 + (8 + (8 + 0)))))) 8 = _; simp only [leAt_skip, leAt_head, Nat.zero_mod]
  · show leAt _ (4 + (4 + (4 + (4 + (8 + (8 + (8 + (4 + (4 + 0))))))))) 8 = _; simp only [leAt_skip, leAt_head]
  · show leAt _ (4 + (4 + (4 + (4 + (8 + (8 + (8 + (4 + (4 + (8 + 0)))))))))) 8 = _; rw [hlast]; simp only [leAt_skip, leAt_head]

end

/-! ### The word of exponents -/

/-- The exponent before goes to bits 15 to 8, the one in force to bits 7 to 0. -/
theorem exponents_word (w x y : Nat) :
    let v := withBits (withBits w 15 8 x) 7 0 y % 2 ^ 32
    bitsOf v 15 8 = x % 2 ^ 8 ∧ bitsOf v 7 0 = y % 2 ^ 8 := by
  simp only [withBits, bitsOf, Nat.shiftRight_eq_div_pow]
  omega

/-- The flags a close leaves in an entry, and its count of misfits (Table 4.4). -/
def closeFlags (c : Closed) (misfits : Nat) : Nat :=
  b2n c.high + 2 * b2n c.low + 4 * b2n c.satOver + 8 * b2n c.undOver + 16 * b2n c.clamped + 32 * b2n c.adapted +
    (if c.high || c.low then min 0xFFFF (misfits + 1) else 0) * 2 ^ 16

/-- What a close writes of an entry. -/
theorem closeEntry_bytes (n : Nat) (e : List Byte) : let c := closeEntry n [] none e
    c.bytes = entryBytes (withBits (withBits (leAt e 0 4) 15 8 (bitsOf (leAt e 0 4) 7 0)) 7 0 c.ecode) 0 (leAt e 4 4) (leAt e 12 4)
      (if c.ecode = bitsOf (leAt e 0 4) 7 0 then leAt e 40 4 else n + 1) (closeFlags c (leAt e 46 2))
      (leAt e 48 8 + leAt e 16 8) (leAt e 56 8 + leAt e 24 8) := by
  simp only [closeEntry, List.foldl_nil, ite_self, runFields, entryBytes, closeFlags]

/-- An entry that is not tested, or only alarmed, keeps its exponent (R126, R128). -/
theorem closeEntry_keeps {n : Nat} {e : List Byte} (h : misfitFmt (bitsOf (leAt e 0 4) 19 16) = false ∨ bitOf (leAt e 0 4) 20 = true) :
    (closeEntry n [] none e).ecode = bitsOf (leAt e 0 4) 7 0 := by
  obtain h | h := h
  · unfold closeEntry
    dsimp only
    simp [h]
  · unfold closeEntry
    dsimp only
    simp [h]

end Sys2Proof.Machine

open Sys2Proof Sys2Proof.Machine

/-- Settles O30: the entry a close writes is laid out part by part. -/
theorem entryClose : Obligations.EntryClose := by
  unfold Obligations.EntryClose
  intro n e hlen _ c
  have hbytes := closeEntry_bytes n e
  obtain ⟨h0, h4, h8, h16, h24, h32, h48, h56⟩ := entryBytes_fields (withBits (withBits (leAt e 0 4) 15 8 (bitsOf (leAt e 0 4) 7 0)) 7 0 c.ecode) 0
    (leAt e 4 4) (leAt e 12 4) (if c.ecode = bitsOf (leAt e 0 4) 7 0 then leAt e 40 4 else n + 1) (closeFlags c (leAt e 46 2)) (leAt e 48 8 + leAt e 16 8) (leAt e 56 8 + leAt e 24 8)
  rw [← hbytes] at h0 h4 h8 h16 h24 h32 h48 h56
  obtain ⟨hbefore, hforce⟩ := exponents_word (leAt e 0 4) (bitsOf (leAt e 0 4) 7 0) c.ecode
  have hcode : bitsOf (leAt e 0 4) 7 0 % 2 ^ 8 = bitsOf (leAt e 0 4) 7 0 := Nat.mod_mod ..
  refine ⟨hbytes ▸ entryBytes_length .., h16, h24, h32, h4, ?_, h48, h56, ?_, fun hkeep => ?_⟩
  · rw [h8]; exact Nat.mod_eq_of_lt (leAt_lt e 4 4)
  · rw [h0, hbefore, hcode]
  · rw [h0, hforce, closeEntry_keeps hkeep, hcode]

end

section
/-! PROOFS. Decision of a differing block (Table 9.5). -/

namespace Sys2Proof.Machine

/-- Two copies that more than half of the members hold are one and the same. -/
theorem majority_unique {α : Type} [DecidableEq α] {l : List α} {x y : α} (hx : l.length < 2 * l.count x) (hy : l.length < 2 * l.count y) : x = y := by
  refine Decidable.byContradiction fun hne => ?_
  have hle : l.count y ≤ l.countP fun z => ¬ ((z == x) = true) :=
    List.countP_mono_left fun z _ hz => by
      obtain rfl : z = y := by simpa using hz
      simpa using Ne.symm hne
  have hsum := List.length_eq_countP_add_countP (l := l) fun z => z == x
  simp only [← List.count.eq_1] at hsum
  omega

/-- What a replica says of a block: who it is, its copy's CRC and its mirror's. -/
def blockVote (k : Nat) (r : Replica) : Nat × Nat × Nat := (r.rank, r.crcs.getD k 0, r.mirror.getD k 0)

/-- How many members hold a copy. -/
theorem length_holders (vs : List (Nat × Nat × Nat)) (c : Nat) : (vs.filter fun w => w.2.1 = c).length = (vs.map (·.2.1)).count c := by
  rw [List.count, List.countP_map, List.countP_eq_length_filter]
  rfl

theorem decideBlock_eq (rs : List Replica) (k : Nat) : decideBlock rs k =
    let vs := rs.map (blockVote k)
    match vs.find? fun v => decide (vs.length < 2 * (vs.filter fun w => w.2.1 = v.2.1).length) with
    | some v => some ((vs.filter fun w => w.2.1 ≠ v.2.1).map (·.1), ((vs.filter fun w => w.2.1 = v.2.1).map (·.1)).foldl min 1023)
    | none => match vs.filter fun w => w.2.1 ≠ w.2.2 with
      | [w] => some ([w.1], ((vs.filter fun x => x.1 ≠ w.1).map (·.1)).foldl min 1023)
      | _ => none := rfl

/-- The search finds a holder of the copy that more than half hold (Table 9.5). -/
theorem find_majority {vs : List (Nat × Nat × Nat)} {c : Nat} (h : vs.length < 2 * (vs.map (·.2.1)).count c) :
    ∃ w, w.2.1 = c ∧ vs.find? (fun v => decide (vs.length < 2 * (vs.filter fun w => w.2.1 = v.2.1).length)) = some w := by
  cases hfind : vs.find? (fun v => decide (vs.length < 2 * (vs.filter fun w => w.2.1 = v.2.1).length)) with
  | none =>
    have hmem : c ∈ vs.map (·.2.1) := List.count_pos_iff.mp (by omega)
    obtain ⟨w, hw, rfl⟩ := List.mem_map.mp hmem
    have hno := List.find?_eq_none.mp hfind w hw
    rw [length_holders] at hno
    simp only [decide_eq_true_eq] at hno
    exact absurd h hno
  | some w =>
    have hw := List.find?_some hfind
    rw [length_holders, decide_eq_true_eq] at hw
    exact ⟨w, majority_unique (l := vs.map (·.2.1)) (by rw [List.length_map]; exact hw) (by rw [List.length_map]; exact h), rfl⟩

end Sys2Proof.Machine

open Sys2Proof Sys2Proof.Machine

/-- Settles O33: the copy that more than half hold is the one the search finds. -/
theorem blockDecision : Obligations.BlockDecision := by
  unfold Obligations.BlockDecision
  intro rs k v hmaj
  have hcount : (rs.map (blockVote k)).length < 2 * ((rs.map (blockVote k)).map (·.2.1)).count v := by
    rw [← length_holders, List.filter_map, List.length_map, List.length_map]
    exact hmaj
  obtain ⟨w, rfl, hfind⟩ := find_majority hcount
  refine ⟨(((rs.map (blockVote k)).filter fun x => x.2.1 = w.2.1).map (·.1)).foldl min 1023, ?_⟩
  rw [decideBlock_eq]
  simp only [hfind]
  rw [List.filter_map, List.map_map]
  rfl

end

section
/-! PROOFS. The replay window (R434), and pieces of a collective in any order (R389). -/

namespace Sys2Proof.Machine

/-! ### The replay window (R434) -/

/-- A sequence number is spent: it is not past the highest one, and within the window it stands among those seen. -/
def Spent (n : Nat) (y : Sess) : Prop := n ≤ y.rxHigh ∧ (y.rxHigh ≤ n + 4096 → n ∈ y.rxSeen)

/-- What a session does with a frame's sequence number: it takes it, or turns the frame away. -/
def seqMeet (y : Sess) (k : Nat) : Sess := if seqOk y k then seqTake k y else y

theorem rxHigh_seqTake (k : Nat) (y : Sess) : (seqTake k y).rxHigh = max y.rxHigh k := rfl

theorem mem_rxSeen_seqTake {n k : Nat} {y : Sess} : n ∈ (seqTake k y).rxSeen ↔ (n = k ∨ n ∈ y.rxSeen) ∧ max y.rxHigh k ≤ n + 4096 := by
  simp [seqTake]

theorem spent_seqTake_self (n : Nat) (x : Sess) : Spent n (seqTake n x) := by
  refine ⟨(rxHigh_seqTake n x).symm ▸ Nat.le_max_right .., fun h => mem_rxSeen_seqTake.mpr ⟨.inl rfl, ?_⟩⟩
  rwa [rxHigh_seqTake] at h

theorem Spent.seqTake {n k : Nat} {y : Sess} (h : Spent n y) : Spent n (seqTake k y) := by
  obtain ⟨hle, hseen⟩ := h
  refine ⟨Nat.le_trans hle (Nat.le_max_left ..), fun hwin => mem_rxSeen_seqTake.mpr ⟨.inr (hseen ?_), ?_⟩⟩ <;> rw [rxHigh_seqTake] at hwin
  · exact Nat.le_trans (Nat.le_max_left ..) hwin
  · exact hwin

theorem Spent.seqMeet {n k : Nat} {y : Sess} (h : Spent n y) : Spent n (seqMeet y k) := by
  unfold Machine.seqMeet
  split
  · exact h.seqTake
  · exact h

/-- A spent number is turned away. -/
theorem Spent.seqOk {n : Nat} {y : Sess} (h : Spent n y) : seqOk y n = false := by
  obtain ⟨hle, hseen⟩ := h
  simp only [Machine.seqOk, Bool.or_eq_false_iff, decide_eq_false_iff_not, Nat.not_lt, Bool.and_eq_false_iff, Bool.not_eq_false', List.contains_iff_mem]
  refine ⟨hle, ?_⟩
  by_cases hwin : y.rxHigh ≤ n + 4096
  · exact .inr (hseen hwin)
  · exact .inl (.inr (by omega))

theorem rxHigh_le_seqMeet (y : Sess) (k : Nat) : y.rxHigh ≤ (seqMeet y k).rxHigh := by
  unfold seqMeet
  split
  · exact Nat.le_max_left ..
  · exact Nat.le_refl _

end Sys2Proof.Machine

open Sys2Proof Sys2Proof.Machine

/-- Settles O44: once taken a number is spent, and no frame that is taken or turned away changes that. -/
theorem replayWindow : Obligations.ReplayWindow := by
  unfold Obligations.ReplayWindow
  intro x n later _ y
  have hy : y = later.foldl seqMeet (seqTake n x) := rfl
  have hspent : Spent n y := hy ▸ foldl_inv (Spent n) _ _ _ (spent_seqTake_self n x) fun _ _ h => h.seqMeet
  have hhigh : (seqTake n x).rxHigh ≤ y.rxHigh :=
    hy ▸ foldl_inv (fun z => (seqTake n x).rxHigh ≤ z.rxHigh) _ _ _ (Nat.le_refl _) fun z k h => Nat.le_trans h (rxHigh_le_seqMeet z k)
  refine ⟨hspent.seqOk, Nat.le_trans (Nat.le_max_left ..) hhigh, hspent.1, fun k hk => ?_⟩
  simp [seqOk, hk]

namespace Sys2Proof.Machine

/-! ### Pieces in any order (R389) -/

/-- Two pieces stand apart. -/
def Apart (x y : Piece) : Prop := 64 * x.off + x.data.length ≤ 64 * y.off ∨ 64 * y.off + y.data.length ≤ 64 * x.off

theorem Apart.symm {x y : Piece} (h : Apart x y) : Apart y x := Or.symm h

/-- A piece laid into place. -/
def layPiece (m : List Host.Cell) (p : Piece) : List Host.Cell := cellsSetAll m (64 * p.off) p.data

theorem cellsGet_layPiece (m : List Host.Cell) (p : Piece) (x : Nat) : cellsGet (layPiece m p) x =
    if 64 * p.off ≤ x ∧ x < 64 * p.off + p.data.length then p.data.getD (x - 64 * p.off) 0 else cellsGet m x := cellsGet_cellsSetAll ..

/-- Pieces that stand apart may be laid in either order. -/
theorem layPiece_comm {m m' : List Host.Cell} {p q : Piece} (h : Apart p q) (hm : ∀ x, cellsGet m x = cellsGet m' x) (x : Nat) :
    cellsGet (layPiece (layPiece m p) q) x = cellsGet (layPiece (layPiece m' q) p) x := by
  simp only [cellsGet_layPiece, hm]
  by_cases hp : 64 * p.off ≤ x ∧ x < 64 * p.off + p.data.length
  · have hq : ¬ (64 * q.off ≤ x ∧ x < 64 * q.off + q.data.length) := by obtain h | h := h <;> omega
    simp only [hp, hq, if_true, if_false, and_self]
  · simp only [hp, if_false]

theorem layPieces_congr (ps : List Piece) : ∀ {m m' : List Host.Cell}, (∀ x, cellsGet m x = cellsGet m' x) →
    ∀ x, cellsGet (ps.foldl layPiece m) x = cellsGet (ps.foldl layPiece m') x := by
  induction ps with
  | nil => exact fun h => h
  | cons p ps ih => exact fun h => ih fun x => by simp only [cellsGet_layPiece, h]

/-- What pieces that stand apart leave does not depend on their order. -/
theorem layPieces_perm {ps qs : List Piece} (h : ps.Perm qs) : ∀ {m m' : List Host.Cell}, ps.Pairwise Apart → (∀ x, cellsGet m x = cellsGet m' x) →
    ∀ x, cellsGet (ps.foldl layPiece m) x = cellsGet (qs.foldl layPiece m') x := by
  induction h with
  | nil => exact fun _ hm => hm
  | cons p _ ih => exact fun hap hm => ih (List.pairwise_cons.mp hap).2 fun x => by simp only [cellsGet_layPiece, hm]
  | swap p q l =>
    intro m m' hap hm
    have hpq : Apart q p := (List.pairwise_cons.mp hap).1 p (by simp)
    exact layPieces_congr l (layPiece_comm hpq hm)
  | trans h₁ _ ih₁ ih₂ =>
    intro m m' hap hm x
    exact (ih₁ hap hm x).trans (ih₂ ((h₁.pairwise_iff fun h => h.symm).mp hap) (fun _ => rfl) x)

/-- What is held from a position does not depend on the order in which it came (R389). -/
theorem gotData_perm {c d : Coll} (h : c.got.Perm d.got)
    (hap : c.got.Pairwise fun x y => x.typ = y.typ → x.src = y.src → Apart x y) (typ pos n : Nat) : gotData c typ pos n = gotData d typ pos n := by
  have hsame : (c.got.filter fun p => p.typ = typ ∧ p.src = pos).Pairwise Apart :=
    List.pairwise_filter.mpr (hap.imp fun hxy hx hy => by
      simp only [decide_eq_true_eq] at hx hy
      exact hxy (hx.1.trans hy.1.symm) (hx.2.trans hy.2.symm))
  exact List.map_congr_left fun x _ => layPieces_perm (h.filter _) hsame (fun _ => rfl) x

end Sys2Proof.Machine

open Sys2Proof Sys2Proof.Machine

/-- Settles O41: of the pieces a reduction reads only what each position sent, joined. -/
theorem reductionOrder : Obligations.ReductionOrder := by
  unfold Obligations.ReductionOrder
  intro f j c d rs b hdesc hperm hap
  simp only [reduceOwn, hdesc, gotData_perm hperm hap]

end

section
/-! PROOFS. Register accesses (R9 to R15). -/

namespace Sys2Proof.Machine

variable (b : Block)

/-! ### Register accesses (R9 to R15) -/

theorem railsUp_of_mainOn {b : Block} (h : mainOn b = true) : railsUp b = true := (Bool.and_eq_true_iff.mp h).1

/-- With the main domain running no access is absorbed. -/
theorem heldAway_of_mainOn {b : Block} (h : mainOn b = true) (u o : Nat) : heldAway b u o = false := by
  have hheld : moduleHeld b = false := by simpa using (Bool.and_eq_true_iff.mp h).2
  simp [heldAway, hheld]

theorem windowThere_of_mainOn {b : Block} (h : mainOn b = true) (u : Nat) : windowThere b u = (kindOf u).isSome := by
  simp [windowThere, railsUp_of_mainOn h]

theorem kindOf_of_rowAt {u o : Nat} {r : RegRow} (h : rowAt u o = some r) : (kindOf u).isSome = true := by
  unfold rowAt at h
  split at h
  · cases h
  · split at h
    · cases h
    · simp [*]

@[simp] theorem tallyPart_plainWrite (u o v : Nat) : tallyPart (plainWrite u o v b) = tallyPart b := by
  unfold plainWrite; split
  · rfl
  · split <;> simp

theorem word_mod (v : Word) : v.toNat % 2 ^ 32 = v.toNat := Nat.mod_eq_of_lt v.isLt

/-- Whichever way a write goes, what leaves the tally's part alone is its effect. -/
theorem regWrite_of_writeAny {wr u o v : Nat} {fe : Bool} {st : Status} {c : Block} (h : writeAny wr fe u o v b = (st, c)) (ht : tallyPart c = tallyPart b) :
    regWrite wr fe u o v b = (st, c) := by
  have hk : keepTally (fun _ => c) b = c := keepTally_of_tallyPart ht
  simp only [regWrite, h, hk, ite_self]

theorem registerWrite_of_writeAny {wr u o v : Nat} {fe : Bool} {st : Status} {c : Block} (h : writeAny wr fe u o v b = (st, c)) (ht : tallyPart c = tallyPart b) :
    registerWrite 4 wr fe u o v b = answer st 0 c := by
  simp only [registerWrite, ne_eq, not_true, if_false, regWrite_of_writeAny b h ht]

/-- A register without a behaviour of its own is written plainly. -/
theorem writeAny_plain {wr u o v : Nat} {fe : Bool} (hon : mainOn b = true) (ho : o % 4 = 0) (hres : o ≠ Off.unitReset) (hmbx : o ≠ Off.mbxCtrl)
    (hk : (kindOf u).isSome = true) (hplain : o < 0x1_0000 ∨ kindOf u = some .qcp ∨ kindOf u = some .reeve ∨ kindOf u = some .gleaner) :
    writeAny wr fe u o v b = (.ok, plainWrite u o (v % 2 ^ 32) b) := by
  have hown (h : ¬ o < 0x1_0000) : blockRegWrite fe u o (v % 2 ^ 32) b = (.ok, plainWrite u o (v % 2 ^ 32) b) := by
    obtain h' | h' | h' | h' := hplain
    · exact absurd h' h
    all_goals simp only [blockRegWrite, h']
  simp only [writeAny, ho, heldAway_of_mainOn hon, windowThere_of_mainOn hon, hk, hres, hmbx, ne_eq, not_true, if_false, Bool.false_eq_true, Bool.not_true]
  split
  · rfl
  · exact hown ‹_›

theorem plainWrite_rw {u o v : Nat} {r : RegRow} (h : rowAt u o = some r) (ha : r.acc = .rw) :
    plainWrite u o v b = setReg u o (maskedWrite (reg b u o) v r.wmask) b := by simp [plainWrite, h, ha]

theorem plainWrite_kept {u o v : Nat} {r : RegRow} (h : rowAt u o = some r) (ha : r.acc = .ro ∨ r.acc = .rc ∨ r.acc = .wo) : plainWrite u o v b = b := by
  obtain ha | ha | ha := ha <;> simp [plainWrite, h, ha]

theorem writeAny_misaligned {wr u o v : Nat} {fe : Bool} (ho : o % 4 ≠ 0) : writeAny wr fe u o v b = (.badArgument, b) := by simp [writeAny, ho]

/-- A write to a missing unit's window is recorded in the ring of the unit that made it (R11, R25). -/
theorem writeAny_missing {wr u o v : Nat} {fe : Bool} (hon : mainOn b = true) (ho : o % 4 = 0) (hk : kindOf u = none) :
    writeAny wr fe u o v b = (.notPresent, raise wr .sysAddrFault ((u * 2 ^ 20 + o) % 2 ^ 32) b) := by
  simp [writeAny, ho, heldAway_of_mainOn hon, windowThere_of_mainOn hon, hk, hon]

/-! ### Clear-on-read pairs (R12, R13) -/

theorem pairLo_of {u o : Nat} (h : isPairLo u o = true) (hu : u ≠ uTly) : o % 8 = 0 := by
  simp only [isPairLo, beq_eq_false_iff_ne.mpr hu, Bool.false_and, Bool.false_or, Bool.and_eq_true, beq_iff_eq] at h
  exact h.1.1

theorem addWaits_of_not {u o : Nat} (h : isWaitCounter u o = false ∨ hasWaited u b = false) : addWaits u o b = b := by
  obtain h | h := h <;> simp [addWaits, h]

theorem macMeasures_of_not {u o : Nat} (h : isMacCounter u o = false) : macMeasures u o b = b := by
  unfold macMeasures
  cases hk : kindOf u == some .fe || kindOf u == some .link with
  | false => simp
  | true =>
    simp only [isMacCounter, hk, Bool.true_and, Bool.or_eq_false_iff] at h
    have hout : ¬ (Off.macCntLo 0 ≤ o ∧ o < Off.macCntLo 29) := by simpa using h.1
    have h24 : o ≠ Off.macCntLo 24 := by rintro rfl; exact hout (by decide)
    have h26 : o ≠ Off.macCntLo 26 := by rintro rfl; exact hout (by decide)
    simp [h24, h26]

/-- The low word of a pair is answered, the high word latched, and both are cleared at once. -/
theorem regRead_pairLo {rdr u o : Nat} {r : RegRow} (hon : mainOn b = true) (hlo : isPairLo u o = true) (hrow : rowAt u o = some r) (ha : r.acc = .rc)
    (hmac : isMacCounter u o = false ∨ rdr = uReeve) (hu : u ≠ uTly) : regRead rdr u o b =
      let w := macMeasures u o (addWaits u o b)
      (.ok, regValue w u o, setReg u (o + 4) 0 (setReg u o 0 (setShadow u (o + 4) (reg w u (o + 4)) w))) := by
  have ho8 := pairLo_of hlo hu
  have ho4 : o % 4 = 0 := by omega
  have hhi : isPairHi u o = false := by simp [isPairHi, ho8]
  have hread : (isMacCounter u o && rdr != uReeve) = false := by obtain h | h := hmac <;> simp [h]
  have hlow (w : Block) : pairHigh w u o = reg w u (o + 4) := by simp [pairHigh, hu]
  simp only [regRead, ho4, heldAway_of_mainOn hon, windowThere_of_mainOn hon, kindOf_of_rowAt hrow, hread, hhi, hlo, hlow, readClears, hrow, ha, ne_eq, not_true, if_false,
    if_true, Bool.false_eq_true, Bool.not_true]

theorem registerRead_width {p : Nat → Nat → Bool} {width rdr u o : Nat} (h : width ≠ 4) : registerRead p width rdr u o b = answer .badArgument 0 b := by
  simp [registerRead, h]

theorem shadowOf_setShadow (u o v : Nat) : shadowOf (setShadow u o v b) u o = v % 2 ^ 32 := by simp [shadowOf, setShadow]

end Sys2Proof.Machine

open Sys2Proof Sys2Proof.Machine

/-- Settles O1: a write by the checks in their order and then by its row, a read of a pair by what it latches and clears. -/
theorem registerAccesses : Obligations.RegisterAccesses := by
  unfold Obligations.RegisterAccesses
  refine ⟨⟨fun s wr u fe o v r hon ho hres hmbx hrow hplain => ?_, fun s wr u fe o v => ⟨fun ho => ?_, fun width w mask hw i hi => ?_, fun ho hon hk => ?_⟩⟩,
    fun s rdr u o r hon hlo hrow ha hmac hu => ?_⟩
  · have hwrite : registerWrite 4 wr fe u o v.toNat s.blk = answer .ok 0 (plainWrite u o v.toNat s.blk) := by
      have h := writeAny_plain s.blk (wr := wr) (v := v.toNat) (fe := fe) hon ho hres hmbx (kindOf_of_rowAt hrow) hplain
      rw [word_mod] at h
      exact registerWrite_of_writeAny s.blk h (by simp)
    exact ⟨fun hacc => answers_all rfl (hwrite.trans (by rw [plainWrite_rw _ hrow hacc])),
      fun hacc => answers_all rfl (hwrite.trans (by rw [plainWrite_kept _ hrow hacc]))⟩
  · exact answers_all rfl (registerWrite_of_writeAny s.blk (writeAny_misaligned s.blk ho) rfl)
  · simp only [List.mem_cons, List.not_mem_nil, or_false] at hi
    obtain rfl | rfl | rfl | rfl := hi
    · exact answers_all rfl (by simp [registerWrite, hw])
    · exact answers_of_acts (acts_run rfl (registerRead_width s.blk hw)) rfl rfl rfl
    · exact answers_of_acts (acts_run rfl (registerRead_width s.blk hw)) rfl rfl rfl
    · exact answers_of_acts (acts_run rfl (by simp [sqRegisterWrite, hw])) rfl rfl rfl
  · exact answers_all rfl (registerWrite_of_writeAny s.blk (writeAny_missing s.blk hon ho hk) (by simp))
  · intro w
    have hread := regRead_pairLo s.blk hon hlo hrow ha hmac hu
    have htally : tallyPart (setReg u (o + 4) 0 (setReg u o 0 (setShadow u (o + 4) (reg w u (o + 4)) w))) = tallyPart s.blk := by
      have := tallyPart_regRead s.blk rdr u o
      rwa [hread] at this
    have hans : Answers (.counterLowRead ⟨4, rdr⟩ u o) s
        (fun _ => answer .ok (regValue w u o) (setReg u (o + 4) 0 (setReg u o 0 (setShadow u (o + 4) (reg w u (o + 4)) w)))) := by
      obtain ⟨h1, h2, h3⟩ := tallyPart_eq_iff.mp htally
      refine answers_of_acts (acts_run rfl ?_) h1 h2 h3
      simp only [registerRead, hlo, hread, ne_eq, not_true, if_false, Bool.true_or, if_true]
      rfl
    refine ⟨fun hwait hc => (macMeasures_of_not _ hc).trans (addWaits_of_not _ hwait), hans, fun c hc => ?_⟩
    rw [Answers] at hans
    cases hans.symm.trans hc
    exact (shadowOf_setShadow w u (o + 4) _).trans (Nat.mod_eq_of_lt (reg_lt ..))

end

section
/-! PROOFS. The thresher (R81 to R105). -/

namespace Sys2Proof.Machine

variable (b : Block)

/-! ### What strikes leave alone -/

/-- Strikes change marks of the granary and of the lofts alone. -/
theorem strike_eq (hits : List Strike) : strike hits b = { b with grn := (strike hits b).grn } ∧ (strike hits b).grn.mem = b.grn.mem := by
  have hline (l : Nat) (m : LineMark) (c : Block) : strikeLine l m c = { c with grn := (strikeLine l m c).grn } ∧ (strikeLine l m c).grn.mem = c.grn.mem := by
    unfold strikeLine; split
    · split <;> exact ⟨rfl, rfl⟩
    · exact ⟨rfl, rfl⟩
    · exact ⟨rfl, rfl⟩
  refine foldl_inv (fun (c : Block) => c = { b with grn := c.grn } ∧ c.grn.mem = b.grn.mem) _ _ _ ⟨rfl, rfl⟩ fun c x hc => ?_
  have hkeep (l : Nat) (m : LineMark) : strikeLine l m c = { b with grn := (strikeLine l m c).grn } ∧ (strikeLine l m c).grn.mem = b.grn.mem := by
    obtain ⟨h1, h2⟩ := hline l m c
    exact ⟨h1.trans (by rw [hc.1]), h2.trans hc.2⟩
  cases x with
  | line a m => exact hkeep ..
  | symbols a es => dsimp only; split
                    · exact hkeep ..
                    · exact hc
  | word a d => exact ⟨by rw [hc.1]; rfl, hc.2⟩

@[simp] theorem til_strike (hits : List Strike) : (strike hits b).til = b.til := by rw [(strike_eq b hits).1]
@[simp] theorem face_strike (hits : List Strike) : (strike hits b).face = b.face := by rw [(strike_eq b hits).1]
@[simp] theorem ctx_strike (hits : List Strike) : (strike hits b).ctx = b.ctx := by rw [(strike_eq b hits).1]

@[simp] theorem tileOf_strike (hits : List Strike) (t : Nat) : tileOf (strike hits b) t = tileOf b t := tileOf_of_til (til_strike ..) t

/-- A command acts on the operation it finds started in its window slot. -/
theorem onStarted_of {t w cls op : Nat} {o : Op} (h : Started b t w cls op o) (f : Op → Block → Block) : onStarted t w cls op f b = f o b := by
  obtain ⟨hslot, hstarted, hcls, hop⟩ := h
  simp [onStarted, hslot, hstarted, hcls, hop]

/-! ### Thresher operations (R81 to R105) -/

section
variable {t : Nat} {o : Op}

theorem thrCheck_fault {f : Nat} (h : operandFault b t o.desc = some f) : thrCheck t o b = (false, finishOp t o.k .badArgument
    (notify (uTile t) Fld.thrStatusOperand .thrOperandFault (o.k % 1024 * 2 ^ 16 + f) b)) := by simp [thrCheck, h]

theorem thrCheck_bad (h : operandFault b t o.desc = none) (hbad : thrBad b t o.desc = true) :
    thrCheck t o b = (false, finishOp t o.k .badArgument b) := by simp [thrCheck, h, hbad]

/-- An operation that its check rejects has no other effect. -/
theorem thresher_rejected {c : Block} (h : thrCheck t o b = (false, c)) (hrun : (tileOf b t).run = none) :
    runMma t o b = c ∧ runLoadb t o b = c ∧ runDrain t o b = c ∧ runZero t o b = c := by
  simp [runMma, runLoadb, runDrain, runZero, h, hrun]

theorem runMma_starts {mask : List Bool} {c : Block} (h : thrCheck t o b = (true, b)) (hrun : (tileOf b t).run = none)
    (hm : readMask t o.desc b = (some mask, c)) : runMma t o b = settleMma t o (setRun t (some ⟨o.k, (skipBlocks o.desc mask 16 0 0).1, mask, [], 0, 0⟩)
      (bump (uTile t) Off.thrSkippedLo (skipBlocks o.desc mask 16 0 0).2 c)) := by simp [runMma, h, hrun, hm]

theorem runZero_clears (h : thrCheck t o b = (true, b)) : runZero t o b = finishOp t o.k .ok (modTile t (fun x => { x with
    acc := x.acc.filter fun e => !(decide (mAcc o.desc * 1024 ≤ e.1) && decide (e.1 < mAcc o.desc * 1024 + mCount o.desc * 1024)) }) b) := by
  simp [runZero, h]

theorem runDrain_writes {mask : List Bool} {c : Block} (h : thrCheck t o b = (true, b)) (hm : readMask t o.desc b = (some mask, c)) :
    runDrain t o b = finishOp t o.k (if (drainWrites t o.desc mask (tileOf b t) c).1 then .ok else .opFailed) (drainWrites t o.desc mask (tileOf b t) c).2 := by
  simp [runDrain, h, hm]

theorem runLoadb_fills {rows sc : List (List Byte)} {c d : Block} (h : thrCheck t o b = (true, b)) (hr : loftReads t (bRanges o.desc) b = (some rows, c))
    (hs : loftReads t (bScaleRanges o.desc) c = (some sc, d)) :
    runLoadb t o b = finishOp t o.k .ok (setSlot t (mSlot o.desc) (some (slotFrom o.desc rows sc.flatten)) d) := by simp [runLoadb, h, hr, hs]

theorem runLoadb_empties {c : Block} (h : thrCheck t o b = (true, b)) (hr : loftReads t (bRanges o.desc) b = (none, c)) :
    runLoadb t o b = finishOp t o.k .opFailed (setSlot t (mSlot o.desc) none (loftReads t (bScaleRanges o.desc) c).2) := by simp [runLoadb, h, hr]

/-- A fill that meets nothing wrong joins those in flight, and the MMA steps on. -/
theorem startFill_clean {r : MmaRun} {starved : Bool} {sl : Slot} {rows sc cs : List (List Byte)} {c : Block} (hrun : (tileOf b t).run = some r)
    (ho : ((tileOf b t).ops.find? fun p => p.k = r.k) = some o) (hnext : r.next < mCount o.desc) (hstop : (tileOf b t).thrStopped = false)
    (hacc : mAccin o.desc = 1 → ∀ f ∈ r.fills, f.j ≠ r.next) (hsl : slotOf (tileOf b t) (mSlot o.desc) = some sl)
    (hread : fillReads t o.desc r.mask r.next (if starved && !mRef o.desc then bump (uTile t) Off.thrStarvedLo 1 b else b) = (some (rows, sc, cs), c)) :
    startFill t .clean starved b = setRun t (some { r with
      next := (skipBlocks o.desc r.mask 16 (r.next + 1) 0).1
      fills := r.fills ++ [⟨r.next, fillOut o.desc sl r.mask (tileOf b t) r.next rows sc cs⟩] })
      (bump (uTile t) Off.thrSkippedLo (skipBlocks o.desc r.mask 16 (r.next + 1) 0).2 c) := by
  have hwait : (mAccin o.desc == 1 && r.fills.any fun f => f.j == r.next) = false := by
    rw [Bool.and_eq_false_iff, beq_eq_false_iff_ne, List.any_eq_false]
    by_cases h1 : mAccin o.desc = 1
    · exact .inr fun f hf => by simpa using hacc h1 f hf
    · exact .inl h1
  have hgo : (decide (mCount o.desc ≤ r.next) || (tileOf b t).thrStopped || (mAccin o.desc == 1 && r.fills.any fun f => f.j == r.next)) = false := by
    simp [hstop, hwait, Nat.not_le.mpr hnext]
  unfold startFill
  simp only [hrun, ho, hgo, Bool.false_eq_true, if_false, hsl, hread]

theorem fillResult_writes {r : MmaRun} {f : Fill} {fs : List Fill} (hrun : (tileOf b t).run = some r)
    (ho : ((tileOf b t).ops.find? fun p => p.k = r.k) = some o) (hf : r.fills = f :: fs) : fillResult t b = settleMma t o (writeFill t o.desc f b) := by
  unfold fillResult
  simp only [hrun, hf, ho]

/-! ### The residue limit (R103) -/

theorem resLimitCheck_below (h : fld b (uTile t) Fld.thrCtrlResLimit = 0 ∨ reg b (uTile t) Off.thrResTotal < fld b (uTile t) Fld.thrCtrlResLimit) :
    resLimitCheck t b = modTile t (fun x => { x with resOver := false }) b := by
  have hreach : (decide (fld b (uTile t) Fld.thrCtrlResLimit ≠ 0) && decide (fld b (uTile t) Fld.thrCtrlResLimit ≤ reg b (uTile t) Off.thrResTotal)) = false := by
    obtain h | h := h
    · simp [h]
    · simp [Nat.not_le.mpr h]
  simp only [resLimitCheck, hreach, Bool.false_and, Bool.false_eq_true, if_false]

/-- The limit is reported once, when it is reached. -/
theorem resLimitCheck_reached (hover : (tileOf b t).resOver = false) (h0 : 0 < fld b (uTile t) Fld.thrCtrlResLimit)
    (h : fld b (uTile t) Fld.thrCtrlResLimit ≤ reg b (uTile t) Off.thrResTotal) : resLimitCheck t b =
      notify (uTile t) Fld.thrStatusResLimit .thrResLimit (reg b (uTile t) Off.thrResTotal)
        (degrade (uTile t) (modTile t (fun x => { x with resOver := true }) b)) := by
  have hreach : (decide (fld b (uTile t) Fld.thrCtrlResLimit ≠ 0) && decide (fld b (uTile t) Fld.thrCtrlResLimit ≤ reg b (uTile t) Off.thrResTotal)) = true := by
    simp [Nat.ne_of_gt h0, h]
  simp only [resLimitCheck, hreach, hover, Bool.not_false, Bool.and_self, if_true]

end

theorem resTotal_thrCtrl (t v : Nat) : reg (setReg (uTile t) Off.thrCtrl v b) (uTile t) Off.thrResTotal = reg b (uTile t) Off.thrResTotal := by
  rw [reg_setReg, if_neg fun h => absurd ((regKey_same_unit ..).mp h) (by decide)]

end Sys2Proof.Machine

open Sys2Proof Sys2Proof.Machine

/-- Settles O2: operation by operation once the check has let it through, the check's rejections, and the residue limit. -/
theorem thresher : Obligations.Thresher := by
  unfold Obligations.Thresher
  refine ⟨⟨fun s t w hits o hon hcheck => ⟨fun hst hrun mask c hm => ?_, fun hst => ?_, fun hst mask c hm => ?_⟩,
      fun s t w hits o op i hi hon hst hrun => ?_⟩, fun s t w hits o hon hst hcheck => ⟨fun rows sc c d hr hs => ?_, fun c hr => ?_⟩,
    fun s t hits starved o r hon hrun ho => ⟨fun hnext hstop hacc sl rows sc cs c hsl hread => ?_, fun f fs hf => ?_⟩, fun s t v hon hover => ?_⟩
  · exact acts_main rfl hon ((onStarted_of _ hst _).trans (runMma_starts _ hcheck hrun hm))
  · exact acts_main rfl hon ((onStarted_of _ hst _).trans (runZero_clears _ hcheck))
  · refine acts_main rfl hon ((onStarted_of _ hst _).trans ((runDrain_writes _ hcheck hm).trans ?_))
    rw [tileOf_strike]
  · have hrej (f : Block → Block) (hc : thrCheck t o (strike hits s.blk) = (false, f s.blk)) : Acts i s f := by
      obtain ⟨h0, h1, h2, h3⟩ := thresher_rejected _ hc hrun
      simp only [List.mem_cons, Prod.mk.injEq, List.not_mem_nil, or_false] at hi
      obtain ⟨rfl, rfl⟩ | ⟨rfl, rfl⟩ | ⟨rfl, rfl⟩ | ⟨rfl, rfl⟩ := hi
      · exact acts_main rfl hon ((onStarted_of _ hst _).trans h0)
      · exact acts_main rfl hon ((onStarted_of _ hst _).trans h1)
      · exact acts_main rfl hon ((onStarted_of _ hst _).trans h2)
      · exact acts_main rfl hon ((onStarted_of _ hst _).trans h3)
    exact ⟨fun f hf => hrej _ (thrCheck_fault _ hf), fun hno hbad => hrej _ (thrCheck_bad _ hno hbad)⟩
  · exact acts_main rfl hon ((onStarted_of _ hst _).trans (runLoadb_fills _ hcheck hr hs))
  · exact acts_main rfl hon ((onStarted_of _ hst _).trans (runLoadb_empties _ hcheck hr))
  · rw [← tileOf_strike s.blk hits] at hrun ho hstop hsl ⊢
    exact acts_main rfl hon (startFill_clean _ hrun ho hnext hstop hacc hsl hread)
  · exact acts_main rfl hon (fillResult_writes _ hrun ho hf)
  · intro b lim
    have hrun : thrCtrlWrite t v.toNat s.blk = resLimitCheck t b := rfl
    have htotal : reg b (uTile t) Off.thrResTotal = reg s.blk (uTile t) Off.thrResTotal := resTotal_thrCtrl ..
    refine ⟨fun hbelow => acts_main rfl hon (hrun.trans (resLimitCheck_below b ?_)), fun hreached => acts_main rfl hon (hrun.trans ?_)⟩
    · rw [htotal]; exact hbelow
    · rw [resLimitCheck_reached b hover hreached.1 (by rw [htotal]; exact hreached.2), htotal]

end

section
/-! PROOFS. Tiles: control, issue, start, control operations and events (R141 to R165, R308 to R313). -/

namespace Sys2Proof.Machine

variable (b : Block)

/-! ### Tile control (Table 5.1) -/

section
variable {t : Nat}

theorem tilCtrlWrite_start : tilCtrlWrite t 1 b =
    if (tileOf b t).stream = .idle ∧ flag b (uTile t) Fld.tilIdentBound then startStream t b else ctrlReject t b := rfl

theorem tilCtrlWrite_stop : tilCtrlWrite t 2 b = if (tileOf b t).stream = .running then
    cancelWaiting t (modTile t (fun x => { x with stream := .stopping }) b) else ctrlReject t b := rfl

theorem tilCtrlWrite_clear : tilCtrlWrite t 4 b =
    if (tileOf b t).stream = .ended ∨ ((tileOf b t).stream = .faulted ∧ (tileOf b t).ops = [] ∧ (tileOf b t).lockstep = false) then
      modTile t (fun x => { x with stream := .idle, ops := [] }) b else ctrlReject t b := rfl

theorem tilCtrlWrite_tclear : tilCtrlWrite t 8 b = if (tileOf b t).stream = .idle then clearTokens t b else ctrlReject t b := rfl

end

end Sys2Proof.Machine

open Sys2Proof Sys2Proof.Machine

/-- Settles O3: action by action of Table 5.1. -/
theorem tileControl : Obligations.TileControl := by
  unfold Obligations.TileControl
  refine fun s t v hon => ⟨fun h hbound => acts_main rfl hon ((tilCtrlWrite_start _).trans (if_pos ⟨h, hbound⟩)),
    fun h => acts_main rfl hon ((tilCtrlWrite_stop _).trans (if_pos h)), fun h => acts_main rfl hon ((tilCtrlWrite_clear _).trans (if_pos h)),
    fun h => acts_main rfl hon ((tilCtrlWrite_tclear _).trans (if_pos h)), fun h => acts_main rfl hon (if_pos h), fun h i hi => ?_,
    fun h => acts_main rfl hon ((tilCtrlWrite_stop _).trans (if_neg h))⟩
  simp only [List.mem_cons, List.not_mem_nil, or_false] at hi
  obtain rfl | rfl | rfl := hi
  · exact acts_main rfl hon ((tilCtrlWrite_start _).trans (if_neg fun hidle => h hidle.1))
  · exact acts_main rfl hon ((tilCtrlWrite_tclear _).trans (if_neg h))
  · exact acts_main rfl hon (if_neg h)

namespace Sys2Proof.Machine

variable (b : Block)

theorem tileHeld_strike (hits : List Strike) (t : Nat) : tileHeld (strike hits b) t = tileHeld b t := by
  simp only [tileHeld, lendHolds, lendOf, unitHeld, absorbing, asleep, ctx_strike, flag_of_face (face_strike b hits), fld_of_face (face_strike b hits)]

/-! ### Issue (R142, R149, R164) -/

section
variable {t : Nat}

/-- Where no LOOP stands next none opens. -/
theorem openLoop_id (h : ∀ d, nextDesc b t = some d → isCop d 2 = false) : openLoop t b = b := by
  unfold openLoop
  cases hd : nextDesc b t with
  | none => rfl
  | some d => simp [h d hd]

theorem openLoops_id (h : ∀ d, nextDesc b t = some d → isCop d 2 = false) : iterate (openLoop t) 3 b = b := by simp only [iterate, openLoop_id b h]

/-- Beyond TIL_PROG_LEN nothing issues and the stream faults (R142). -/
theorem opIssue_beyond (hheld : tileHeld b t = false) (hmay : mayIssue (tileOf b t) = true) (hd : nextDesc b t = none) :
    opIssue t b = streamFault t .badArgument 0 (tileOf b t).issued 0 b := by
  have hloop : iterate (openLoop t) 3 b = b := openLoops_id b fun d h => by simp [hd] at h
  simp [opIssue, hheld, issueNext, hloop, hmay, hd]

/-- The sequencer issues the descriptor at its place and steps on (R149, R164). -/
theorem opIssue_issues {d line : List Byte} {c : Block} (hheld : tileHeld b t = false) (hmay : mayIssue (tileOf b t) = true)
    (hd : nextDesc b t = some d) (hcop : isCop d 2 = false) (hfree : ∀ o ∈ (tileOf b t).ops, o.k % 1024 ≠ (tileOf b t).issued % 1024)
    (hread : granaryRead { tileIssuer b t with program := false } (progBase b t + 64 * (tileOf b t).pc) 64 b = (.ok, line, c)) :
    opIssue t b = setTile t { tileOf b t with
      pc := (advance 4 ((tileOf b t).pc + 1) (tileOf b t).loops).1
      loops := (advance 4 ((tileOf b t).pc + 1) (tileOf b t).loops).2
      issued := (tileOf b t).issued + 1
      winWait := false
      endIssued := isCop d 1
      ops := (tileOf b t).ops ++ [⟨(tileOf b t).issued, d, queueOf d, false, .waiting, 0⟩] } c := by
  have hloop : iterate (openLoop t) 3 b = b := openLoops_id b fun d' h => by obtain rfl : d = d' := by simpa [hd] using h
                                                                             exact hcop
  have hslot : ((tileOf b t).ops.any fun o => o.k % 1024 == (tileOf b t).issued % 1024) = false :=
    List.any_eq_false.mpr fun o ho => by simpa using hfree o ho
  simp only [opIssue, hheld, issueNext, hloop, hmay, hd, hcop, hslot, hread, Bool.false_eq_true, if_false, Bool.not_true, ne_eq, not_true]

end

/-! ### Start (R150, R154, R159) -/

section
variable {t uq : Nat} {o : Op}

/-- The tile once its operation has started: it takes its place in the order, and the count it waited for. -/
def startedTile (x : Tile) (o : Op) : Tile := { x with
  startCount := x.startCount + 1
  tokens := if o.satisfied || !dWait o.desc then x.tokens else x.tokens.put (dWaitTok o.desc) (x.tokens.get 0 (dWaitTok o.desc) - dWaitCnt o.desc)
  ops := x.ops.map fun p => if p.k = o.k then { o with phase := .started, order := x.startCount, satisfied := o.satisfied || dWait o.desc } else p }

/-- Nothing else of the block changes when the head of a queue starts. -/
structure TileChanged (t : Nat) (x : Tile) (b c : Block) : Prop where
  tile : tileOf c t = x
  others : ∀ t', t' ≠ t → tileOf c t' = tileOf b t'
  face : c.face = b.face
  mem : c.grn.mem = b.grn.mem

theorem tileChanged_setTile (t : Nat) (x : Tile) : TileChanged t x b (setTile t x b) :=
  ⟨by simp, fun t' h => by simp [h], rfl, rfl⟩

theorem TileChanged.trans_setTile {x : Tile} {c : Block} (h : TileChanged t x b c) (y : Tile) : TileChanged t y b (setTile t y c) :=
  ⟨by simp, fun t' ht => by simp [ht, h.others t' ht], h.face, h.mem⟩

theorem TileChanged.markLate {x : Tile} {c : Block} (h : TileChanged t x b c) (u tok k : Nat) : TileChanged t x b (markLate u tok k c) :=
  ⟨h.tile, h.others, h.face, h.mem⟩

/-- An operation begins: it enters its phase and takes the next place in the order. -/
def beginTile (x : Tile) (k n : Nat) (p : OpPhase) : Tile := { x with
  startCount := x.startCount + 1
  ops := x.ops.map fun q => if q.k = k then { q with phase := p, order := n } else q }

theorem tileChanged_began {x y : Tile} {k n : Nat} {p : OpPhase} (hx : tileOf b t = x) (hy : beginTile x k n p = y) :
    TileChanged t y b (modTile t (fun z => { z with startCount := z.startCount + 1 }) (modOp t k (fun q => { q with phase := p, order := n }) b)) := by
  subst hx hy
  refine ⟨?_, fun t' h => ?_, rfl, rfl⟩
  · simp [modOp, beginTile]
  · simp [modOp, h]

theorem TileChanged.after_setTile {x y : Tile} {c : Block} (h : TileChanged t x (setTile t y b) c) : TileChanged t x b c :=
  ⟨h.tile, fun t' ht => (h.others t' ht).trans (by simp [ht]), h.face, h.mem⟩

theorem startedTile_ready {x : Tile} (huniq : ∀ p ∈ x.ops, p.k = o.k → p = o) (h : (o.satisfied || !dWait o.desc) = true) :
    beginTile x o.k x.startCount .started = startedTile x o := by
  have hsat : (o.satisfied || dWait o.desc) = o.satisfied := by cases hs : o.satisfied <;> cases hd : dWait o.desc <;> simp_all
  have hmap : x.ops.map (fun q => if q.k = o.k then { q with phase := .started, order := x.startCount } else q) =
      x.ops.map fun p => if p.k = o.k then { o with phase := .started, order := x.startCount, satisfied := o.satisfied || dWait o.desc } else p :=
    List.map_congr_left fun p hp => by
      by_cases hk : p.k = o.k
      · rw [if_pos hk, if_pos hk, huniq p hp hk, hsat]
      · rw [if_neg hk, if_neg hk]
  simp only [beginTile, startedTile, h, if_true, hmap]

/-- The tile whose queue's head has taken the count it waited for (R154). -/
def waitedTile (x : Tile) (o : Op) : Tile := { x with
  tokens := x.tokens.put (dWaitTok o.desc) (x.tokens.get 0 (dWaitTok o.desc) - dWaitCnt o.desc)
  ops := x.ops.map fun p => if p.k = o.k then { p with satisfied := true } else p }

theorem startedTile_waited {x : Tile} (huniq : ∀ p ∈ x.ops, p.k = o.k → p = o) (h : (o.satisfied || !dWait o.desc) = false) :
    beginTile (waitedTile x o) o.k x.startCount .started = startedTile x o := by
  have hsat : (o.satisfied || dWait o.desc) = true := by cases hs : o.satisfied <;> cases hd : dWait o.desc <;> simp_all
  have hmap : (x.ops.map fun p => if p.k = o.k then { p with satisfied := true } else p).map
        (fun q => if q.k = o.k then { q with phase := .started, order := x.startCount } else q) =
      x.ops.map fun p => if p.k = o.k then { o with phase := .started, order := x.startCount, satisfied := o.satisfied || dWait o.desc } else p := by
    rw [List.map_map]
    refine List.map_congr_left fun p hp => ?_
    by_cases hk : p.k = o.k
    · obtain rfl := huniq p hp hk
      simp [hsat]
    · simp [hk]
  simp only [beginTile, startedTile, waitedTile, h, Bool.false_eq_true, if_false, hmap]

/-- The head of a queue starts when its wait, its order and its unit allow it. -/
theorem startHead_starts (hhead : queueHead (tileOf b t) uq = some o) (hrun : (tileOf b t).stream = .running) (hlock : (tileOf b t).lockstep = false)
    (hthr : (tileOf b t).thrStopped = true → uq ≠ 1 ∧ uq ≠ 2) (hgood : headerBad b t o.desc = false) (hdef : opDefined o.desc = true)
    (hunit : unitAccepts (tileOf b t) o = true) (hord : needsOrder o.desc = true → earlierDone (tileOf b t) o = true)
    (huniq : ∀ p ∈ (tileOf b t).ops, p.k = o.k → p = o) (hwait : o.satisfied = true ∨ dWait o.desc = false ∨ waitReady (tileOf b t) o = true) :
    TileChanged t (startedTile (tileOf b t) o) b (startHead t uq b) := by
  have hstop : ((uq == 1 || uq == 2) && thrStopping (tileOf b t)) = false := by
    cases hs : (tileOf b t).thrStopped with
    | false => simp [thrStopping, hs]
    | true => simp [hthr hs]
  have hstopped : ((tileOf b t).thrStopped && (uq == 1 || uq == 2)) = false := by
    cases hs : (tileOf b t).thrStopped with
    | false => rfl
    | true => simp [hthr hs]
  have horder : (needsOrder o.desc && !earlierDone (tileOf b t) o) = false := by
    cases hn : needsOrder o.desc with
    | false => rfl
    | true => simp [hord hn]
  have hgo : ((tileOf b t).lockstep || (tileOf b t).stream != .running || ((uq == 1 || uq == 2) && thrStopping (tileOf b t))) = false := by
    simp [hlock, hrun, hstop]
  unfold startHead
  simp only [hhead, hgo, hgood, hstopped, horder, hdef, hunit, Bool.false_eq_true, if_false, if_true, Bool.not_true]
  cases hready : o.satisfied || !dWait o.desc with
  | true =>
    simp only [Bool.not_true, Bool.false_and, Bool.false_eq_true, if_false, if_true]
    exact tileChanged_began b rfl (startedTile_ready huniq hready)
  | false =>
    have hw : waitReady (tileOf b t) o = true := by
      rw [Bool.or_eq_false_iff, Bool.not_eq_false'] at hready
      simpa [hready] using hwait
    simp only [hw, Bool.not_true, Bool.and_false, Bool.false_eq_true, if_false]
    have hwaited : tileOf (modTile t (fun y => { y with
        tokens := y.tokens.put (dWaitTok o.desc) (y.tokens.get 0 (dWaitTok o.desc) - dWaitCnt o.desc)
        ops := y.ops.map fun p => if p.k = o.k then { p with satisfied := true } else p }) b) t = waitedTile (tileOf b t) o := by simp [waitedTile]
    exact (tileChanged_began _ hwaited (startedTile_waited huniq hready)).after_setTile b

/-- The start is what changes the tile; a head that then waits may be late (R225). -/
theorem opStart_starts {x : Tile} (hheld : tileHeld b t = false) (h : TileChanged t x b (startHead t uq b)) : TileChanged t x b (opStart t uq b) := by
  simp only [opStart, hheld, Bool.false_eq_true, if_false]
  split
  · split
    · exact h.markLate ..
    · exact h
  · exact h

end

end Sys2Proof.Machine

open Sys2Proof Sys2Proof.Machine

/-- Settles O4: issue by what stands next, start by what the head waits for, completion by its status. -/
theorem operationLife : Obligations.OperationLife := by
  unfold Obligations.OperationLife
  refine ⟨fun s t hits d c hon hheld hmay => ⟨fun hd hcop hfree line hread => ?_, fun hlen => ?_⟩,
    fun s t uq o => ?_,
    fun s t uq o st hon hnext hphase => ⟨fun hv hf => ?_, fun hst hf => ?_, fun hst j hj htrain => ?_⟩⟩
  · have hheld' := (tileHeld_strike s.blk hits t).trans hheld
    rw [← tileOf_strike s.blk hits] at hmay hfree hread ⊢
    exact acts_main rfl hon (opIssue_issues _ hheld' hmay hd hcop hfree hread)
  · have hheld' := (tileHeld_strike s.blk hits t).trans hheld
    have hd : nextDesc (strike hits s.blk) t = none := by
      simp [nextDesc, fld_of_face (face_strike s.blk hits), Nat.not_lt.mpr hlen]
    rw [← tileOf_strike s.blk hits] at hmay ⊢
    exact acts_main rfl hon (opIssue_beyond _ hheld' hmay hd)
  · intro x hon hheld hhead hrun hlock hthr hgood hdef hunit hord huniq hwait
    obtain ⟨htile, hothers, hface, hmem⟩ := opStart_starts s.blk hheld (startHead_starts s.blk hhead hrun hlock hthr hgood hdef hunit hord huniq hwait)
    refine answersWith_main rfl hon ⟨htile, hothers, ?_, hmem⟩
    simp only [keepTally]
    rw [hface]
  · exact acts_main rfl hon (opComplete_plain _ hnext hphase hv hf)
  · subst hst
    exact acts_main rfl hon (opComplete_fence _ hnext hphase hf)
  · subst hst
    exact acts_main rfl hon (opComplete_abort _ hnext hphase hj htrain)

namespace Sys2Proof.Machine

variable (b : Block)

/-! ### Control operations (R147, R159, R162, R164, R165) -/

/-- A control operation at the head of its queue starts, and the started one completes. -/
theorem controlCmd_completes {t cop : Nat} {peers : List Peer} {o p : Op} (hhead : queueHead (tileOf b t) 0 = some o) (hcop : isCop o.desc cop = true)
    (hp : ((tileOf (opStart t 0 b) t).ops.find? fun q => q.queue == 0 && q.isStarted && isCop q.desc cop) = some p) :
    controlCmd t cop peers b = opComplete t 0 (if cop = 1 then endAdd t peers p (opStart t 0 b) else finishOp t p.k .ok (opStart t 0 b)) := by
  simp only [controlCmd, hhead, hcop, if_true, hp]

theorem loopCmd_opens {t : Nat} {d : List Byte} (hheld : tileHeld b t = false) (hmay : mayIssue (tileOf b t) = true) (hd : nextDesc b t = some d)
    (hcop : isCop d 2 = true) : loopCmd t b = if headerBad b t d || loopBad b t (tileOf b t) d then
        streamFault t .badArgument 0 (tileOf b t).issued (dTag d) b
      else setTile t { tileOf b t with pc := (tileOf b t).pc + 1, loops := ⟨(tileOf b t).pc + 1, dByte d 9, leAt d 12 4, 0, loopPatches d⟩ :: (tileOf b t).loops } b := by
  simp only [loopCmd, hheld, openLoop, hd, hmay, hcop, Bool.and_self, Bool.false_eq_true, if_false, if_true]

end Sys2Proof.Machine

open Sys2Proof Sys2Proof.Machine

/-- Settles O6: NOP, FENCE and SIGNAL finish at once, END after its add; LOOP opens or faults. -/
theorem controlOperations : Obligations.ControlOperations := by
  unfold Obligations.ControlOperations
  refine fun s t hits o p hon => ⟨fun cop i hi hhead hcop hp => ?_, fun hhead hcop hp peers => ?_, fun d hheld hmay hd hcop => ⟨fun hh hl => ?_, fun hbad => ?_⟩⟩
  · simp only [List.mem_cons, Prod.mk.injEq, List.not_mem_nil, or_false] at hi
    obtain ⟨rfl, rfl⟩ | ⟨rfl, rfl⟩ | ⟨rfl, rfl⟩ := hi <;> exact acts_main rfl hon (controlCmd_completes _ hhead hcop hp)
  · rw [← tileOf_strike s.blk hits] at hhead
    exact acts_main rfl hon (controlCmd_completes _ hhead hcop hp)
  · exact acts_main rfl hon ((loopCmd_opens _ hheld hmay hd hcop).trans (if_neg (by simp [hh, hl])))
  · exact acts_main rfl hon ((loopCmd_opens _ hheld hmay hd hcop).trans (if_pos (by simpa using hbad)))

namespace Sys2Proof.Machine

variable (b : Block)

/-! ### Faults, stops and signals of a tile (R145, R146, R155 to R161, R308, R312) -/

section
variable {t : Nat}

/-- The block once a drained fault has been told. -/
def toldFault (t : Nat) (b : Block) : Block :=
  raise (uTile t) .tilOpFault (reg b (uTile t) Off.tilFault) (setTile t { tileOf b t with faultTold := true } b)

theorem opFaultDrained_tells (hf : (tileOf b t).stream = .faulted) (ho : (tileOf b t).ops = []) (ht : (tileOf b t).faultTold = false) :
    opFaultDrained t b = toldFault t b := by simp only [opFaultDrained, hf, ho, ht, and_self, if_true, toldFault]

theorem faultTold_toldFault : (tileOf (toldFault t b) t).faultTold = true := by
  rw [toldFault, tileOf_of_til (raise_frame ..).2.1]; simp

theorem ctx_toldFault : (toldFault t b).ctx = b.ctx := (raise_frame ..).2.2.2.1

/-- A drained fault is told once, and a batch on the tile is abandoned. -/
theorem opFaultCmd_tells (hf : (tileOf b t).stream = .faulted) (ho : (tileOf b t).ops = []) (ht : (tileOf b t).faultTold = false) :
    opFaultCmd t b = streamFaultResponse t (match b.ctx.batches.find? fun x => x.tiles.contains t with
      | some x => settleCloses (abandonBatch x (toldFault t b))
      | none => toldFault t b) := by
  simp only [opFaultCmd, opFaultDrained_tells b hf ho ht, faultTold_toldFault, ht, ctx_toldFault, Bool.not_false, Bool.and_self, if_true] <;> rfl

theorem ctx_tileLockstep : (tileLockstep t b).ctx = b.ctx := by simp [tileLockstep]

/-- A lockstep failure of a tile that no batch is on and that is not lent. -/
theorem tileLockstepCmd_home (hb : (b.ctx.batches.find? fun x => x.tiles.contains t) = none) (hs : suspendedJob (tileLockstep t b) t = none) :
    tileLockstepCmd t b = match tileJob (tileLockstep t b) t with
      | some j => if slotTrains (tileLockstep t b) j then withdraw j (tileLockstep t b) else tileLockstep t b
      | none => tileLockstep t b := by
  simp only [tileLockstepCmd, ctx_tileLockstep, hb, hs]
  cases tileJob (tileLockstep t b) t <;> rfl

/-- A signal that is taken leaves the queue of those on their way. -/
def tookSignal (n : Nat) (b : Block) : Block := { b with til := { b.til with signals := b.til.signals.eraseIdx n } }

theorem signalArrive_own {n : Nat} {g : RemoteSig} (hg : b.til.signals[n]? = some (t, g)) (ha : absorbing b (uTile t) = false)
    (hs : suspendedJob b t = none) (hj : tileJob b t = some g.job) : signalArrive n b = callHome g.job t (tookSignal n (tokenUp t g.tok b)) := by
  simp only [signalArrive, hg, remoteArrive, ha, hs, hj, Bool.false_eq_true, if_false, if_true]
  rfl

theorem signalArrive_other {n : Nat} {g : RemoteSig} (hg : b.til.signals[n]? = some (t, g)) (ha : absorbing b (uTile t) = false)
    (hs : suspendedJob b t = none) (hj : tileJob b t ≠ some g.job) : signalArrive n b = callHome g.job t (tookSignal n
      (notify (uTile t) Fld.tilStatusSigReject .tilSigReject (g.sender * 2 ^ 16 + g.job * 2 ^ 8 + g.tok) b)) := by
  simp only [signalArrive, hg, remoteArrive, ha, hs, if_neg hj, Bool.false_eq_true, if_false, if_true]
  rfl

/-- A suspended tile is lent by the job that is suspended on it. -/
theorem lentJob_of_suspended {j : Nat} (h : suspendedJob b t = some j) : lentJob b t = some j := by
  unfold suspendedJob at h
  unfold lentJob
  split at h <;> rename_i hst <;> simp_all

theorem signalArrive_held {n : Nat} {g : RemoteSig} (hg : b.til.signals[n]? = some (t, g)) (ha : absorbing b (uTile t) = false)
    (hs : suspendedJob b t = some g.job) (hroom : (tileOf b t).held.length < 64) :
    signalArrive n b = reclaim t (tookSignal n (setTile t { tileOf b t with held := (tileOf b t).held ++ [g] } b)) := by
  have hlent : lentJob (tookSignal n (setTile t { tileOf b t with held := (tileOf b t).held ++ [g] } b)) t = some g.job := lentJob_of_suspended b hs
  simp only [signalArrive, hg, remoteArrive, ha, hs, hroom, Bool.false_eq_true, if_false, if_true]
  exact if_pos hlent

end

end Sys2Proof.Machine

open Sys2Proof Sys2Proof.Machine

/-- Settles O7: a drained fault by its batch, a lockstep failure by its job, a signal by the job it is for. -/
theorem tileEvents : Obligations.TileEvents := by
  unfold Obligations.TileEvents
  refine fun s t hon => ⟨fun hf ho ht => ⟨fun hb => ?_, fun x hx => ?_⟩, fun hs ho => ?_, fun hb hs => ⟨fun hj => ?_, fun j hj htrain => ?_⟩,
    fun n g hg ha => ⟨fun hs hj => ?_, fun hs hj => ?_, fun hs hroom => ?_⟩⟩
  · refine acts_main rfl hon ((opFaultCmd_tells _ hf ho ht).trans ?_)
    rw [hb]; rfl
  · refine acts_main rfl hon ((opFaultCmd_tells _ hf ho ht).trans ?_)
    rw [hx]; rfl
  · exact acts_main rfl hon (if_pos ⟨hs, ho⟩)
  · refine acts_main rfl hon ((tileLockstepCmd_home _ hb hs).trans ?_)
    rw [hj]
  · refine acts_main rfl hon ((tileLockstepCmd_home _ hb hs).trans ?_)
    rw [hj]; exact if_pos htrain
  · exact acts_main rfl hon (signalArrive_own _ hg ha hs hj)
  · exact acts_main rfl hon (signalArrive_other _ hg ha hs hj)
  · exact acts_main rfl hon (signalArrive_held _ hg ha hs hroom)

end

section
/-! PROOFS. The vector unit and the DMA engines (R166 to R180, R186). -/

namespace Sys2Proof.Machine

variable (b : Block)

/-! ### The vector unit (R166 to R174) -/

/-- The vector commands are one, by its VOP. -/
theorem exec_vector {t : Fin 64} {w : Fin 1024} {upset : Option Nat} {hits : List Strike} {vop : Nat} {i : Instr}
    (h : (vop, i) ∈ vectorCommands t w upset hits) (s : State) : exec i s = s.runMain (vectorCmd vop t w upset hits) := by
  have hall : ∀ p ∈ vectorCommands t w upset hits, exec p.2 s = s.runMain (vectorCmd p.1 t w upset hits) := by
    simp only [vectorCommands, List.forall_mem_cons, List.not_mem_nil, false_imp_iff, implies_true, and_true]
    repeat' apply And.intro
    all_goals rfl
  exact hall _ h

section
variable {t : Nat} {o : Op} {upset : Option Nat}

theorem runVector_bad (h : vecBad b t o.desc = true) : runVector t o upset b = finishOp t o.k .badArgument b := by simp [runVector, h]

/-- What a vector operation that passes R174 has read, by what it writes. -/
theorem runVector_reads {as bs ds : List (List Nat)} {sc : List (List Byte)} {c d : Block} (hgood : vecBad b t o.desc = false)
    (hentries : vecReadEntries b (fld b (uTile t) Fld.tilIdentJob) o.desc = (true, c))
    (hconv : dOp o.desc = 0x30 → bitsOf (entryWord b (fld b (uTile t) Fld.tilIdentJob) (vScidx o.desc)) 19 16 = vTypeD o.desc)
    (hreads : vecReads t o.desc c = (some (as, bs, ds, sc), d)) :
    runVector t o none b = match dRegion o.desc with
      | none => finishOp t o.k .ok (setReg (uTile t) (Off.vecWinnow (vWr o.desc))
          (winnowCode (amaxOf ((as.flatten).map fun c => f32 (toCode32 (vTypeA o.desc) c))) (-(vecFold d (fld b (uTile t) Fld.tilIdentJob) o.desc))) d)
      | some r =>
        if dOp o.desc = 0x30 then runConv t o none as r d
        else
          let ws := if dOp o.desc = 0x32 then widenRows o.desc as sc.flatten else []
          let w := writeRows t r 32 (if dOp o.desc = 0x32 then ws.map fun l => l.map (·.code)
            else vecRows o.desc (vEadj o.desc - vecFold d (fld b (uTile t) Fld.tilIdentJob) o.desc) as bs ds) d
          finishOp t o.k (if w.1 then .ok else .opFailed) (if dOp o.desc = 0x32 then countWidened t ws w.2 else w.2) := by
  have hfmt : ¬ (dOp o.desc = 0x30 ∧ bitsOf (entryWord b (fld b (uTile t) Fld.tilIdentJob) (vScidx o.desc)) 19 16 ≠ vTypeD o.desc) :=
    fun ⟨h, hne⟩ => hne (hconv h)
  unfold runVector
  simp only [hgood, hentries, hfmt, hreads, Bool.false_eq_true, if_false, Bool.not_true] <;> cases dRegion o.desc <;> rfl

end

/-! ### The DMA engines (R177 to R180, R186) -/

theorem exec_dma {t : Fin 64} {w : Fin 1024} {peers : List Peer} {hits : List Strike} {dop : Nat} {i : Instr} (h : (dop, i) ∈ dmaCommands t w peers hits)
    (s : State) : exec i s = s.runMain (dmaCmd dop t w peers hits) := by
  have hall : ∀ p ∈ dmaCommands t w peers hits, exec p.2 s = s.runMain (dmaCmd p.1 t w peers hits) := by
    simp only [dmaCommands, List.forall_mem_cons, List.not_mem_nil, false_imp_iff, implies_true, and_true]
    repeat' apply And.intro
    all_goals rfl
  exact hall _ h

section
variable {t e : Nat} {o : Op} {peers : List Peer}

/-- Either engine runs the operation it finds started in its window slot. -/
theorem dmaCmd_of {w dop : Nat} {hits : List Strike} (he : e < 2) (h : Started (strike hits b) t w (3 + e) dop o) :
    dmaCmd dop t w peers hits b = sendPages (runDma t e o peers (strike hits b)) := by
  obtain ⟨hslot, hstarted, hcls, hop⟩ := h
  have hslot' : opInSlot b t w = some o := by rw [← hslot, opInSlot, opInSlot, tileOf_strike]
  have heng : (3 + e == 3 || 3 + e == 4) = true := by
    obtain rfl | rfl : e = 0 ∨ e = 1 := by omega
    · rfl
    · rfl
  simp only [dmaCmd, hslot', hstarted, hcls, hop, heng, beq_self_eq_true, Bool.and_self, if_true, Nat.add_sub_cancel_left]

theorem runDma_badFields (hnew : b.ctx.dmaRow.find (t * 2 ^ 40 + o.k) = none) (hbad : dmaFieldsBad o.desc = true) :
    runDma t e o peers b = finishOp t o.k .badArgument b := by
  simp only [runDma, hnew, hbad, Option.isSome_none, Option.isNone_none, Bool.false_and, Bool.and_self, Bool.false_eq_true, if_false, if_true]

/-- A DMA operation with good fields and shares moves its rows in index order. -/
theorem runDma_moves {l : List Byte} {n : Nat} {c d : Block} (hnew : b.ctx.dmaRow.find (t * 2 ^ 40 + o.k) = none) (hgood : dmaFieldsBad o.desc = false)
    (hlist : (if (dOp o.desc = 1 ∨ dOp o.desc = 2) ∧ inShare b t (fld b (uTile t) Fld.tilIdentJob) (gList o.desc) (4 * gRows o.desc)
      then loftRead t (gList o.desc) (4 * gRows o.desc) b else (some [], b)) = (some l, c))
    (hshares : dmaSharesBad c t (fld b (uTile t) Fld.tilIdentJob) o.desc = false)
    (hmove : moveRows t e o peers (gRows o.desc) 0 c = (.moved, n, d)) :
    runDma t e o peers b = finishOp t o.k .ok (modCtx (fun c => { c with dmaRow := c.dmaRow.drop (t * 2 ^ 40 + o.k) }) d) := by
  simp only [runDma, hnew, hgood, hlist, hshares, hmove, Option.isSome_none, Option.isNone_none, Bool.false_and, Bool.and_false, Bool.false_eq_true, if_false,
    Option.getD_none, Nat.sub_zero]

end

end Sys2Proof.Machine

open Sys2Proof Sys2Proof.Machine

/-- Settles O8: the thirty-three are one command, and its result goes by region and VOP. -/
theorem vectorOperations : Obligations.VectorOperations := by
  unfold Obligations.VectorOperations
  refine ⟨fun s t w hits o vop i c d as bs ds sc hi hon hst hgood hentries hconv hreads => ?_, fun s t w upset hits o vop i hi hon hst hbad =>
    acts_main (exec_vector hi s) hon ((onStarted_of _ hst _).trans (runVector_bad _ hbad))⟩
  have hop := hst.2.2.2
  have hrun := (onStarted_of (strike hits s.blk) hst fun o b => runVector t o none b).trans
    (runVector_reads (strike hits s.blk) hgood hentries (fun h => hconv (hop.symm.trans h)) hreads)
  rw [hop] at hrun
  refine ⟨fun r hr h30 h32 => ?_, fun r hr h32 => ?_, fun r hr h30 => ?_, fun hr => ?_⟩
  · refine acts_main (exec_vector hi s) hon (hrun.trans ?_)
    simp only [hr, if_neg h30, if_neg h32]
  · refine acts_main (exec_vector hi s) hon (hrun.trans ?_)
    subst h32
    simp only [hr]
    rfl
  · refine acts_main (exec_vector hi s) hon (hrun.trans ?_)
    subst h30
    simp only [hr]
    rfl
  · refine acts_main (exec_vector hi s) hon (hrun.trans ?_)
    simp only [hr]

/-- Settles O10: the five are one command; its fields, its shares and its rows decide. -/
theorem dmaOperations : Obligations.DmaOperations := by
  unfold Obligations.DmaOperations
  refine ⟨fun s t w peers hits o e dop i hi hon he hst hnew => ?_, fun s t j v hon => ⟨fun h => acts_main rfl hon (if_neg (by simp [h])), fun h =>
    acts_main rfl hon (if_pos h)⟩⟩
  have hnew' : (strike hits s.blk).ctx.dmaRow.find (t.val * 2 ^ 40 + o.k) = none := by rw [ctx_strike]; exact hnew
  have hrun := dmaCmd_of s.blk (peers := peers) he hst
  have hop : dOp o.desc = dop := hst.2.2.2
  refine ⟨fun hbad => ?_, fun l c n d hgood hlist hshares hmove => ?_⟩
  · exact acts_main (exec_dma hi s) hon (hrun.trans (congrArg sendPages (runDma_badFields _ hnew' hbad)))
  · rw [← hop] at hlist
    exact acts_main (exec_dma hi s) hon (hrun.trans (congrArg sendPages (runDma_moves _ hnew' hgood hlist hshares hmove)))

end

section
/-! PROOFS. Channels of the granary: standing work, group modes, repair and retirement (R199, R201, R209 to R231). -/

namespace Sys2Proof.Machine

variable (b : Block)

/-! ### What accesses of the granary leave of repairs and retirements -/

/-- The spare rows in use, and the channels retired or failed (R227, R231): accesses change none of them. -/
def repairPart (b : Block) : SMap Nat × List Retired × List Nat := (b.grn.spare, b.grn.retired, b.grn.chFailed)

theorem repairPart_eq_iff {b c : Block} : repairPart c = repairPart b ↔
    c.grn.spare = b.grn.spare ∧ c.grn.retired = b.grn.retired ∧ c.grn.chFailed = b.grn.chFailed := by
  simp [repairPart]

@[simp] theorem repairPart_ite (p : Prop) [Decidable p] (c d : Block) : repairPart (if p then c else d) = if p then repairPart c else repairPart d :=
  apply_ite ..
@[simp] theorem repairPart_setReg (u o v : Nat) : repairPart (setReg u o v b) = repairPart b := rfl
@[simp] theorem repairPart_bump (u o n : Nat) : repairPart (bump u o n b) = repairPart b := rfl
@[simp] theorem repairPart_setSq (u : Nat) (f : Field) (i : Nat) : repairPart (setSq u f b i) = repairPart b := rfl
@[simp] theorem repairPart_bbPush (r : BbRec) : repairPart (bbPush r b) = repairPart b := by unfold bbPush; split <;> rfl
@[simp] theorem repairPart_bbRecord (k : Nat) (e : Ev) (d : List Byte) : repairPart (bbRecord k e d b) = repairPart b := by simp [bbRecord]
@[simp] theorem repairPart_limitRecord (k n old : Nat) : repairPart (limitRecord k n old b) = repairPart b := by simp [limitRecord]
@[simp] theorem repairPart_ringPut (u : Nat) (e : Ev) (a : Nat) : repairPart (ringPut u e a b) = repairPart b := by
  unfold ringPut; dsimp only; split <;> rfl
@[simp] theorem repairPart_countEvent (e : Ev) : repairPart (countEvent e b) = repairPart b := by unfold countEvent; split <;> rfl
@[simp] theorem repairPart_raise (u : Nat) (e : Ev) (a : Nat) : repairPart (raise u e a b) = repairPart b := by
  unfold raise; dsimp only; split <;> simp
@[simp] theorem repairPart_notify (u : Nat) (f : Field) (e : Ev) (a : Nat) : repairPart (notify u f e a b) = repairPart b := by simp [notify]
@[simp] theorem repairPart_poke (a : Nat) (v : List Byte) : repairPart (poke a v b) = repairPart b := rfl
@[simp] theorem repairPart_setMark (l : Nat) (m : Option LineMark) : repairPart (setMark l m b) = repairPart b := rfl
@[simp] theorem repairPart_noteFail (l : Nat) : repairPart (noteFail l b) = repairPart b := rfl
@[simp] theorem repairPart_failElsewhere : repairPart (failElsewhere b) = repairPart b := rfl
@[simp] theorem repairPart_addrFault (i : Issuer) (a : Nat) : repairPart (addrFault i a b) = repairPart b := by simp [addrFault]
@[simp] theorem repairPart_poisonLine (l : Nat) : repairPart (poisonLine l b) = repairPart b :=
  (repairPart_setMark ..).trans (repairPart_poke ..)
@[simp] theorem repairPart_recordRow (pl : Place) (u : Bool) : repairPart (recordRow pl u b) = repairPart b := by
  unfold recordRow; dsimp only; (repeat' split) <;> rfl
@[simp] theorem repairPart_chargeRereads (ls : List Nat) : repairPart (chargeRereads ls b) = repairPart b := foldl_keeps _ _ _ _ (by simp)
@[simp] theorem repairPart_readOne (l : Nat) : repairPart (readOne l b).2 = repairPart b := by
  unfold readOne
  split
  · rfl
  · dsimp only
    split
    · rfl
    · simp
    · split <;> simp
    · simp
    · simp
@[simp] theorem repairPart_readLine (l : Nat) : repairPart (readLine l b).2 = repairPart b := by simp [readLine]
@[simp] theorem repairPart_writeLine (a : Nat) (v : List Byte) (t : Option Nat) (l : Nat) : repairPart (writeLine a v t l b).2 = repairPart b := by
  unfold writeLine
  dsimp only
  split
  · rfl
  · split
    · rw [repairPart_poke]; split <;> rfl
    · simp
@[simp] theorem repairPart_serveWrite (a : Nat) (v : List Byte) (t : Option Nat) : repairPart (serveWrite a v t b).2 = repairPart b := by
  unfold serveWrite
  dsimp only
  rw [foldl_keeps (fun (acc : Bool × Block) => repairPart acc.2) _ _ _ (by simp)]
  split <;> simp
@[simp] theorem repairPart_modGl (g : Nat) (f : Gleaner → Gleaner) : repairPart (modGl g f b) = repairPart b := rfl
@[simp] theorem repairPart_dropGrant (g : Nat) : repairPart (dropGrant g b) = repairPart b := rfl
@[simp] theorem repairPart_refreshOwed (c k : Nat) : repairPart (refreshOwed c k b) = repairPart b := by unfold refreshOwed; dsimp only; split <;> rfl
@[simp] theorem repairPart_landPut (g : Nat) (p : Nat × List Byte × Nat) : repairPart (landPut g p b) = repairPart b := by
  unfold landPut; dsimp only; split <;> split <;> simp
@[simp] theorem repairPart_commit (g : Nat) (f : Bool) : repairPart (commit g f b) = repairPart b := by
  unfold commit
  dsimp only
  split
  · rfl
  · rename_i sg _
    have hp : repairPart (sg.puts.foldl (fun b p => landPut g p b) b) = repairPart b := foldl_keeps _ _ _ _ (by simp)
    have hb (c : Block) : repairPart (sg.banks.foldl (fun b k => refreshOwed (glChannel g) k.1 b) c) = repairPart c := foldl_keeps _ _ _ _ (by simp)
    split <;> split <;> simp [hp, hb]
@[simp] theorem repairPart_releaseBank (c k : Nat) : repairPart (releaseBank c k b) = repairPart b := by unfold releaseBank; split <;> simp

/-- Strikes change marks alone. -/
theorem grn_strike (hits : List Strike) : (strike hits b).grn = { b.grn with marks := (strike hits b).grn.marks, loftErr := (strike hits b).grn.loftErr } := by
  have hline (l : Nat) (m : LineMark) (c : Block) : (strikeLine l m c).grn = { c.grn with marks := (strikeLine l m c).grn.marks } := by
    unfold strikeLine; split
    · split <;> rfl
    · rfl
    · rfl
  refine foldl_inv (fun (c : Block) => c.grn = { b.grn with marks := c.grn.marks, loftErr := c.grn.loftErr }) _ _ _ rfl fun c x hc => ?_
  have hkeep (l : Nat) (m : LineMark) : (strikeLine l m c).grn =
      { b.grn with marks := (strikeLine l m c).grn.marks, loftErr := (strikeLine l m c).grn.loftErr } := by
    have h := hline l m c
    rw [hc] at h
    rw [h]
  cases x with
  | line a m => exact hkeep ..
  | symbols a es => dsimp only; split
                    · exact hkeep ..
                    · exact hc
  | word a d => dsimp only [setLoftErr]; rw [hc]

@[simp] theorem repairPart_strike (hits : List Strike) : repairPart (strike hits b) = repairPart b := by rw [repairPart, grn_strike]; rfl
@[simp] theorem scrubPos_strike (hits : List Strike) : (strike hits b).grn.scrubPos = b.grn.scrubPos := by rw [grn_strike]

theorem channelWorks_congr {b c : Block} (h : repairPart c = repairPart b) (ch : Nat) : channelWorks c ch = channelWorks b ch := by
  obtain ⟨_, hret, hfail⟩ := repairPart_eq_iff.mp h
  rw [channelWorks, channelWorks, retirementOf, retirementOf, hret, hfail]

/-! ### Standing work of a channel (R199, R209 to R214) -/

/-- The marks a patrol read corrects. -/
def patrolCorrects : Option LineMark → Bool
  | some .corr => true
  | some (.transient n) => decide (n ≤ 2)
  | _ => false

section
variable {ch : Nat} (hw : channelWorks b ch = true) (hself : b.grn.selfRef = false)
include hw hself

theorem patrolRead_works (hits : List Strike) : patrolRead ch hits b = (
    let c := strike hits b
    let pos := c.grn.scrubPos.get 0 ch
    let l := addrServed c ch (64 * pos) / 64
    let d := releaseBanks (64 * l) 64 c
    let e := (readLine l d).2
    let n := e.grn.scrubCorr.get 0 ch + b2n (patrolCorrects (markOf d l))
    if pos + 1 < 2 ^ 27 then { e with grn := { e.grn with scrubPos := e.grn.scrubPos.put ch (pos + 1), scrubCorr := e.grn.scrubCorr.put ch n } }
    else raise (uChannel ch) .grnScrubPass (min 0xFFFF_FFFF n)
      { e with grn := { e.grn with scrubPos := e.grn.scrubPos.put ch 0, scrubCorr := e.grn.scrubCorr.put ch 0 } }) := by
  have hgo : (!channelWorks b ch || b.grn.selfRef) = false := by simp [hw, hself]
  unfold patrolRead
  rw [hgo, if_neg Bool.false_ne_true]
  rfl

/-- The patrol reads the line at its place; a line that needed correction is counted. -/
theorem patrolRead_line {hits : List Strike} {k : Nat} {m : Option LineMark} {l : Nat} {d : Block}
    (hl : l = addrServed (strike hits b) ch (64 * b.grn.scrubPos.get 0 ch) / 64) (hd : d = releaseBanks (64 * l) 64 (strike hits b))
    (hm : markOf d l = m) (hk : k ≤ 1) (hcorr : k = 1 ↔ m = some .corr ∨ ∃ n ≤ 2, m = some (.transient n)) :
    patrolRead ch hits b = if b.grn.scrubPos.get 0 ch + 1 < 2 ^ 27
      then { (readLine l d).2 with grn := { (readLine l d).2.grn with scrubPos := (readLine l d).2.grn.scrubPos.put ch (b.grn.scrubPos.get 0 ch + 1)
                                                                      scrubCorr := (readLine l d).2.grn.scrubCorr.put ch ((readLine l d).2.grn.scrubCorr.get 0 ch + k) } }
      else raise (uChannel ch) .grnScrubPass (min 0xFFFF_FFFF ((readLine l d).2.grn.scrubCorr.get 0 ch + k))
        { (readLine l d).2 with grn := { (readLine l d).2.grn with scrubPos := (readLine l d).2.grn.scrubPos.put ch 0
                                                                   scrubCorr := (readLine l d).2.grn.scrubCorr.put ch 0 } } := by
  have hcount : b2n (patrolCorrects m) = k := by
    have hone (c : Bool) (h : k = 1 ↔ c = true) : b2n c = k := by cases c <;> simp at h <;> simp [b2n] <;> omega
    cases m with
    | none => exact hone _ (by simpa [patrolCorrects] using hcorr)
    | some m => cases m with
      | transient n => exact hone _ (by simpa [patrolCorrects] using hcorr)
      | corr => exact hone _ (by simpa [patrolCorrects] using hcorr)
      | uncorr => exact hone _ (by simpa [patrolCorrects] using hcorr)
      | poison => exact hone _ (by simpa [patrolCorrects] using hcorr)
  subst hl hd
  rw [patrolRead_works b hw hself]
  simp only [scrubPos_strike, hm, hcount]

theorem refreshDue_postponed {bank : Nat} {busy : Bool} (h : busy = true ∨ bankHeld b (bankGleaner ch bank) bank = true)
    (howed : b.grn.refPost.get 0 (ch * 16 + bank) < 8) : refreshDue ch bank busy b = { b with grn := { b.grn with
      refPost := b.grn.refPost.put (ch * 16 + bank) (b.grn.refPost.get 0 (ch * 16 + bank) + 1) } } := by
  rcases h with h | h <;> simp [refreshDue, hw, hself, h, howed]

theorem refreshDue_done {bank : Nat} (h : bankHeld b (bankGleaner ch bank) bank = false) : refreshDue ch bank false b = { b with grn := { b.grn with
      refPost := b.grn.refPost.put (ch * 16 + bank) 0
      refDone := b.grn.refDone.put (ch * 16 + bank) (b.grn.refDone.get 0 (ch * 16 + bank) + b.grn.refPost.get 0 (ch * 16 + bank) + 1) } } := by
  simp [refreshDue, hw, hself, h, releaseBank_free]

theorem calPiece_due {task : Nat} (ok : Bool) (hdue : 0 < b.grn.calRun.get 0 (ch * 4 + task) ∨ 0 < (b.grn.cal.get ⟨0, 0⟩ (ch * 4 + task)).fails ∨
      (b.grn.cal.get ⟨0, 0⟩ (ch * 4 + task)).last + calInterval task ≤ b.face.time) :
    calPiece ch task ok b = if b.grn.calRun.get 0 (ch * 4 + task) + 1 < calPieces task
      then { releaseChannel ch b with grn := { (releaseChannel ch b).grn with
        calRun := (releaseChannel ch b).grn.calRun.put (ch * 4 + task) (b.grn.calRun.get 0 (ch * 4 + task) + 1) } }
      else calResult ch task ok (releaseChannel ch b) := by
  have hdue' : (decide (0 < b.grn.calRun.get 0 (ch * 4 + task)) || decide (0 < (b.grn.cal.get ⟨0, 0⟩ (ch * 4 + task)).fails) ||
      decide ((b.grn.cal.get ⟨0, 0⟩ (ch * 4 + task)).last + calInterval task ≤ b.face.time)) = true := by simpa [or_assoc] using hdue
  simp only [calPiece, hw, hself, hdue', Bool.not_true, Bool.or_self, Bool.false_eq_true, if_false]

end

/-! ### Row repair and retirement (R227 to R231) -/

theorem find?_two {p : Nat → Bool} {k : Nat} (hk : k < 2) (hp : p k = true) (hfirst : ∀ k' < k, p k' = false) : (List.range 2).find? p = some k := by
  obtain rfl | rfl : k = 0 ∨ k = 1 := by omega
  · simp [List.range_succ, hp]
  · simp [List.range_succ, hp, hfirst 0 (by omega)]

/-- A repair copies the row's lines; one that cannot be read is poisoned in its new place. -/
def copyLines (ls : List Nat) (b : Block) : Block := ls.foldl (fun b l => let r := readLine l b; if r.1 then r.2 else poisonLine l r.2) b

@[simp] theorem repairPart_copyLines (ls : List Nat) : repairPart (copyLines ls b) = repairPart b :=
  foldl_keeps _ _ _ _ fun c l => by dsimp only; split <;> simp

@[simp] theorem tallyPart_copyLines (ls : List Nat) : tallyPart (copyLines ls b) = tallyPart b :=
  foldl_keeps _ _ _ _ fun c l => by dsimp only; split <;> simp

/-- The repair of a row by the bank's spare row `k`. -/
def useSpare (ch bank row k : Nat) (b : Block) : Block :=
  let used := b.grn.mapUsed.get 0 (ch % 32)
  let c := bbRecord 5 .tlyRepairMap (leBytes 4 (ch % 32 * 2 ^ 27 + ch / 32 * 2 ^ 23 + bank * 2 ^ 19 + k * 2 ^ 18 + row))
    (limitRecord 2 (ch % 32) used { b with grn := { b.grn with mapUsed := b.grn.mapUsed.put (ch % 32) (used + 1) } })
  let d := copyLines (rowLines c ch bank row) c
  setSq (uStack (ch % 32)) Fld.grnStkStatusRepaired (raise (uChannel ch) .grnRepairDone (bank * 2 ^ 28 + k * 2 ^ 24 + row)
    { d with grn := { d.grn with
      spare := d.grn.spare.put (ch * 32 + bank * 2 + k) row
      repairReq := d.grn.repairReq.filter (· != (ch, bank, row))
      failMap := d.grn.failMap.put (ch * 16 + bank) ((d.grn.failMap.get [] (ch * 16 + bank)).filter fun e => e.row != row) } })

theorem grn_useSpare (ch bank row k : Nat) : (useSpare ch bank row k b).grn.mapUsed = b.grn.mapUsed.put (ch % 32) (b.grn.mapUsed.get 0 (ch % 32) + 1) ∧
    (useSpare ch bank row k b).grn.spare = b.grn.spare.put (ch * 32 + bank * 2 + k) row ∧ (ch, bank, row) ∉ (useSpare ch bank row k b).grn.repairReq := by
  unfold useSpare
  dsimp only
  obtain ⟨c, hc⟩ : ∃ c, c = bbRecord 5 .tlyRepairMap (leBytes 4 (ch % 32 * 2 ^ 27 + ch / 32 * 2 ^ 23 + bank * 2 ^ 19 + k * 2 ^ 18 + row))
    (limitRecord 2 (ch % 32) (b.grn.mapUsed.get 0 (ch % 32))
      { b with grn := { b.grn with mapUsed := b.grn.mapUsed.put (ch % 32) (b.grn.mapUsed.get 0 (ch % 32) + 1) } }) := ⟨_, rfl⟩
  rw [← hc]
  obtain ⟨hspare, -, -⟩ := repairPart_eq_iff.mp (show repairPart (copyLines (rowLines c ch bank row) c) = repairPart b by simp [hc]; rfl)
  have hused : (copyLines (rowLines c ch bank row) c).grn.mapUsed = b.grn.mapUsed.put (ch % 32) (b.grn.mapUsed.get 0 (ch % 32) + 1) :=
    mapUsed_of_tallyPart (b := { b with grn := { b.grn with mapUsed := b.grn.mapUsed.put (ch % 32) (b.grn.mapUsed.get 0 (ch % 32) + 1) } }) (by simp [hc])
  generalize copyLines (rowLines c ch bank row) c = d at hspare hused
  rw [(setSq_frame ..).1, (raise_frame ..).1]
  exact ⟨hused, by rw [hspare], by simp⟩

/-- A repair with a spare row left uses the first one. -/
theorem rowRepair_repairs {ch bank row k : Nat} {hits : List Strike} (hreq : (b.grn.repairReq.find? fun q => q.1 = ch) = some (ch, bank, row))
    (hw : channelWorks (strike hits b) ch = true) (hk : k < 2) (hfree : b.grn.spare.find (ch * 32 + bank * 2 + k) = none)
    (hfirst : ∀ k' < k, b.grn.spare.find (ch * 32 + bank * 2 + k') ≠ none) (hlimit : b.grn.mapUsed.get 0 (ch % 32) < 1024) :
    ∃ c, repairPart c = repairPart b ∧ c.grn.mapUsed = b.grn.mapUsed ∧ rowRepair ch hits b = useSpare ch bank row k c := by
  obtain ⟨c, hc⟩ : ∃ c, c = releaseBank ch bank (strike hits { b with grn := { b.grn with repairReq := b.grn.repairReq.filter (· != (ch, bank, row)) } }) :=
    ⟨_, rfl⟩
  have hrepair : repairPart c = repairPart b := by rw [hc, repairPart_releaseBank, repairPart_strike]; rfl
  obtain ⟨hspare, hret, hfail⟩ := repairPart_eq_iff.mp hrepair
  have hused : c.grn.mapUsed = b.grn.mapUsed := mapUsed_of_tallyPart (by simp [hc])
  have hworks : channelWorks (strike hits { b with grn := { b.grn with repairReq := b.grn.repairReq.filter (· != (ch, bank, row)) } }) ch = true := by
    rw [← hw]; exact channelWorks_congr (by rw [repairPart_strike, repairPart_strike]; rfl) ch
  have hfind : (List.range 2).find? (fun k => (c.grn.spare.find (ch * 32 + bank * 2 + k)).isNone) = some k :=
    find?_two hk (by simp [hspare, hfree]) fun k' hk' => by simpa [hspare, Option.isSome_iff_ne_none] using hfirst k' hk'
  have hlimit' : ¬ 1024 ≤ c.grn.mapUsed.get 0 (ch % 32) := by rw [hused]; omega
  refine ⟨c, hrepair, hused, ?_⟩
  simp only [rowRepair, hreq, hworks, ← hc, hfind, hlimit', Bool.not_true, Bool.false_eq_true, if_false, useSpare, copyLines]

theorem rowRepair_noSpare {ch bank row : Nat} {hits : List Strike} (hreq : (b.grn.repairReq.find? fun q => q.1 = ch) = some (ch, bank, row))
    (hw : channelWorks (strike hits b) ch = true) (h0 : b.grn.spare.find (ch * 32 + bank * 2) ≠ none) (h1 : b.grn.spare.find (ch * 32 + bank * 2 + 1) ≠ none) :
    rowRepair ch hits b = repairRefused 1 ch bank row (releaseBank ch bank (strike hits { b with grn := { b.grn with
      repairReq := b.grn.repairReq.filter (· != (ch, bank, row)) } })) := by
  obtain ⟨c, hc⟩ : ∃ c, c = strike hits { b with grn := { b.grn with repairReq := b.grn.repairReq.filter (· != (ch, bank, row)) } } := ⟨_, rfl⟩
  have hcb : repairPart c = repairPart b := by rw [hc, repairPart_strike]; rfl
  obtain ⟨hspare, -, -⟩ := repairPart_eq_iff.mp ((repairPart_releaseBank c ch bank).trans hcb)
  have hworks : channelWorks c ch = true := by rw [← hw]; exact channelWorks_congr (by rw [repairPart_strike, hcb]) ch
  have hfind : (List.range 2).find? (fun k => ((releaseBank ch bank c).grn.spare.find (ch * 32 + bank * 2 + k)).isNone) = none := by
    simp [hspare, List.range_succ, h0, h1]
  simp only [rowRepair, hreq, ← hc, hworks, hfind, Bool.not_true, Bool.false_eq_true, if_false]

/-- Events leave every unit's own health alone. -/
theorem own_raise (u : Nat) (e : Ev) (arg : Nat) : (raise u e arg b).face.own = b.face.own := by
  have hpush (r : BbRec) (c : Block) : (bbPush r c).face.own = c.face.own := by unfold bbPush; split <;> rfl
  have hring (c : Block) : (ringPut u e arg c).face.own = c.face.own := by unfold ringPut; dsimp only; split <;> rfl
  have hcount (c : Block) : (countEvent e c).face.own = c.face.own := by unfold countEvent; split <;> rfl
  unfold raise
  dsimp only
  split
  · rw [hpush, hcount, hring]
  · rw [hcount, hring]

theorem own_notify (u : Nat) (f : Field) (e : Ev) (arg : Nat) : (notify u f e arg b).face.own = b.face.own := own_raise ..

theorem own_bbRecord (k : Nat) (e : Ev) (d : List Byte) : (bbRecord k e d b).face.own = b.face.own := by
  unfold bbRecord bbPush; split <;> rfl

theorem own_setOwn (u h : Nat) : (setOwn u h b).face.own = b.face.own.put u h := by unfold setOwn; dsimp only; split <;> rfl

/-- The list of retirements after a channel has joined it. -/
theorem retired_joins {ch : Nat} (l : List Nat) (reform : Bool) {c : Block} (hc : c.grn.retired = b.grn.retired ++ [⟨ch, false, l⟩]) :
    (retirementOf (if reform then reformChannel ch c else c) ch).isSome = true ∧
      (if reform then reformChannel ch c else c).grn.retired.length = b.grn.retired.length + 1 := by
  cases reform
  · exact ⟨List.find?_isSome.mpr ⟨⟨ch, false, l⟩, by simp [hc], by simp⟩, by simp [hc]⟩
  · exact ⟨List.find?_isSome.mpr ⟨⟨ch, true, l⟩, by simp [reformChannel, hc], by simp⟩, by simp [reformChannel, hc]⟩

theorem retireChannel_retires {ch : Nat} {silent : Bool} (hnew : retirementOf b ch = none)
    (hwhy : silent = true ∨ b.grn.chFailed.contains ch = true ∨ 256 < (b.grn.chRetRows.get [] ch).length) (hroom : b.grn.retired.length < 8) :
    (retirementOf (retireChannel ch silent b) ch).isSome = true ∧ ownOf (retireChannel ch silent b) (uChannel ch) = hFailed ∧
      (retireChannel ch silent b).grn.retired.length = b.grn.retired.length + 1 := by
  have hgo : ((retirementOf b ch).isSome || !(silent || b.grn.chFailed.contains ch || decide (256 < (b.grn.chRetRows.get [] ch).length))) = false := by
    rw [hnew]
    rcases hwhy with h | h | h
    · simp [h]
    · rw [h]; simp
    · simp [h]
  obtain ⟨c, hc⟩ : ∃ c, c = setOwn (uChannel ch) hFailed { b with grn := { b.grn with
      chFailed := if b.grn.chFailed.contains ch then b.grn.chFailed else b.grn.chFailed ++ [ch] } } := ⟨_, rfl⟩
  have hret : c.grn.retired = b.grn.retired := by rw [hc, (setOwn_frame ..).1]
  have hown : c.face.own.get 0 (uChannel ch) = hFailed := by rw [hc, own_setOwn]; simp
  have hroom' : ¬ 8 ≤ c.grn.retired.length := by rw [hret]; omega
  unfold retireChannel
  rw [hgo, if_neg Bool.false_ne_true, ← hc]
  dsimp only
  rw [if_neg hroom']
  obtain ⟨d, hd⟩ : ∃ d, d = bbRecord 6 .tlyRetire (leBytes 4 (2 ^ 31 + ch)) { c with grn := { c.grn with
          retired := c.grn.retired ++ [⟨ch, false, targetsFor c ch⟩], chFailed := c.grn.chFailed.filter (· != ch) } } := ⟨_, rfl⟩
  have hdret : d.grn.retired = b.grn.retired ++ [⟨ch, false, targetsFor c ch⟩] := by rw [hd, bbRecord, (bbPush_frame ..).1, ← hret]
  have hdown : d.face.own = c.face.own := by rw [hd, own_bbRecord]
  rw [← hd]
  generalize (!groupHolds { b with grn := { b.grn with chFailed := b.grn.chFailed.filter (· != ch) } } 63) = now
  obtain ⟨hsome, hlen⟩ := retired_joins b (targetsFor c ch) now hdret
  refine ⟨?_, ?_, ?_⟩
  · rw [retirementOf, (notify_frame ..).1]; exact hsome
  · rw [ownOf, own_notify]
    cases now <;> rwa [← hdown] at hown
  · rw [(notify_frame ..).1]; exact hlen

/-! ### Group modes (R201, R202) -/

section
variable (hi : Bool) (v : Nat)

/-- The groups whose mode a write of a half of the mode register changes. -/
def changedGroups (b : Block) (hi : Bool) (v : Nat) : List Nat :=
  ((List.range 32).filter fun g => bitOf (reg b uChip (if hi then Off.grnLocalHi else Off.grnLocalLo)) g != bitOf v g).map fun g => if hi then 32 + g else g

theorem grnLocalWrite_free (h : ∀ g < 32, bitOf (reg b uChip (if hi then Off.grnLocalHi else Off.grnLocalLo)) g ≠ bitOf v g →
      groupHolds b (if hi then 32 + g else g) = false) :
    grnLocalWrite hi v b = replaceGroups (changedGroups b hi v) b (setReg uChip (if hi then Off.grnLocalHi else Off.grnLocalLo) v b) := by
  have hnone : (changedGroups b hi v).find? (groupHolds b) = none := by
    rw [List.find?_eq_none]
    intro g hg
    simp only [changedGroups, List.mem_map, List.mem_filter, List.mem_range, bne_iff_ne] at hg
    obtain ⟨k, ⟨hk, hne⟩, rfl⟩ := hg
    simp [h k hk hne]
  unfold changedGroups at hnone
  unfold grnLocalWrite
  simp only [hnone]
  rfl

theorem grnLocalWrite_held {g : Nat} (hg : g < 32) (hne : bitOf (reg b uChip (if hi then Off.grnLocalHi else Off.grnLocalLo)) g ≠ bitOf v g)
    (hheld : groupHolds b (if hi then 32 + g else g) = true)
    (hfirst : ∀ g' < g, bitOf (reg b uChip (if hi then Off.grnLocalHi else Off.grnLocalLo)) g' = bitOf v g') :
    grnLocalWrite hi v b = notify uChip Fld.grnStatusLocalReject .grnLocalReject (if hi then 32 + g else g) b := by
  have hsome : (changedGroups b hi v).find? (groupHolds b) = some (if hi then 32 + g else g) := by
    have hsplit : List.range 32 = List.range g ++ g :: (List.range (31 - g)).map (· + (g + 1)) := by
      have h1 : 32 = g + ((31 - g) + 1) := by omega
      conv => lhs; rw [h1, List.range_add, List.range_succ_eq_map]
      simp [Function.comp_def, Nat.add_left_comm]
    have hnil : (List.range g).filter (fun g => bitOf (reg b uChip (if hi then Off.grnLocalHi else Off.grnLocalLo)) g != bitOf v g) = [] := by
      rw [List.filter_eq_nil_iff]
      intro k hk
      simp [hfirst k (List.mem_range.mp hk)]
    rw [changedGroups, hsplit, List.filter_append, hnil, List.nil_append, List.filter_cons_of_pos (by simpa using hne), List.map_cons,
      List.find?_cons_of_pos hheld]
  unfold changedGroups at hsome
  unfold grnLocalWrite
  simp only [hsome]

end

end Sys2Proof.Machine

open Sys2Proof Sys2Proof.Machine

/-- Settles O16: each piece of a channel's standing work by its case. -/
theorem channelService : Obligations.ChannelService := by
  unfold Obligations.ChannelService
  refine fun s ch hits hon hw hself => ⟨?_, fun bank => ⟨fun h => ?_, fun h hheld => ?_, fun h => ?_⟩, fun task good hdue => ⟨fun h => ?_, fun h => ?_⟩, ?_⟩
  · intro m k l d hm hk hcorr c
    refine ⟨fun h => acts_main rfl hon ?_, fun h => acts_main rfl hon ?_⟩
    · exact (patrolRead_line s.blk hw hself rfl rfl hm hk hcorr).trans (if_pos h)
    · exact (patrolRead_line s.blk hw hself rfl rfl hm hk hcorr).trans (if_neg (by omega))
  · exact acts_main rfl hon (refreshDue_postponed s.blk hw hself (.inl rfl) h)
  · exact acts_main rfl hon (refreshDue_postponed s.blk hw hself (.inr hheld) h)
  · exact acts_main rfl hon (refreshDue_done s.blk hw hself h)
  · exact acts_main rfl hon ((calPiece_due s.blk hw hself good hdue).trans (if_pos h))
  · exact acts_main rfl hon ((calPiece_due s.blk hw hself good hdue).trans (if_neg (by omega)))
  · intro temp rg wg c
    have htemp : temp.val % 256 = temp := Nat.mod_eq_of_lt temp.isLt
    have hworks : channelWorks c ch = true := hw
    refine ⟨fun h => acts_main rfl hon ?_, fun h => acts_main rfl hon ?_⟩
    · unfold centringTemp
      rw [htemp]
      exact if_neg fun h5 => absurd (of_decide_eq_true (Bool.and_eq_true_iff.mp h5).2) (Nat.not_lt.mpr h)
    · unfold centringTemp
      rw [htemp]
      exact if_pos (by rw [Bool.and_eq_true]; exact ⟨hworks, decide_eq_true h⟩)

/-- Settles O17: the mode by the groups changed, the repair by the spare rows left, the retirement by its cause. -/
theorem groupsAndRepair : Obligations.GroupsAndRepair := by
  unfold Obligations.GroupsAndRepair
  refine fun s ch hi v hits hon => ⟨fun h => acts_main rfl hon (grnLocalWrite_free s.blk hi _ h), fun g hg hne hheld hfirst =>
    acts_main rfl hon (grnLocalWrite_held s.blk hi _ hg hne hheld hfirst), fun h31 hnew => acts_main rfl hon ?_, fun bank row hreq hw =>
      ⟨fun k hk hfree hfirst hlimit => ?_, fun h0 h1 => ?_⟩, fun silent hnew hwhy hroom => ?_⟩
  · exact if_pos (by simpa [h31] using hnew)
  · obtain ⟨c, hrep, hused, heq⟩ := rowRepair_repairs s.blk hreq hw hk hfree hfirst hlimit
    obtain ⟨hu, hs, hr⟩ := grn_useSpare c ch bank row k
    obtain ⟨hspare, -, -⟩ := repairPart_eq_iff.mp hrep
    rw [hused] at hu
    rw [hspare] at hs
    rw [← heq] at hu hs hr
    exact ⟨_, answers_all (g := whenMain (rowRepair ch hits)) (f := rowRepair ch hits) rfl (whenMain_on _ _ hon), hu, hs, hr⟩
  · exact answers_all (g := whenMain (rowRepair ch hits)) rfl ((whenMain_on _ _ hon).trans (rowRepair_noSpare s.blk hreq hw h0 h1))
  · obtain ⟨hsome, hown, hlen⟩ := retireChannel_retires s.blk hnew hwhy hroom
    exact answersWith_main rfl hon ⟨hsome, hown, hlen⟩

end

section
/-! PROOFS. Harvest passes (R217 to R225, R464). -/

namespace Sys2Proof.Machine

variable (b : Block)

/-! ### What pages and their tables leave of the training engine -/

theorem trn_of_restPart {b c : Block} (h : restPart c = restPart b) : c.trn = b.trn := by
  obtain ⟨⟨-, -, -, -, htrn⟩, -⟩ := restPart_eq_iff.mp h
  exact htrn

@[simp] theorem restPart_granaryWrite (iss : Issuer) (a : Nat) (v : List Byte) (t : Option Nat) : restPart (granaryWrite iss a v t b).2 = restPart b := by
  unfold granaryWrite; split
  · rfl
  · split <;> simp
@[simp] theorem restPart_granaryRead (iss : Issuer) (a n : Nat) : restPart (granaryRead iss a n b).2.2 = restPart b := by
  unfold granaryRead; split <;> simp
@[simp] theorem restPart_tablePut (a : Nat) (v : List Byte) : restPart (tablePut a v b) = restPart b := by unfold tablePut; split <;> simp
@[simp] theorem restPart_setFrameEntry (f v : Nat) : restPart (setFrameEntry f v b) = restPart b := by unfold setFrameEntry; split <;> simp
@[simp] theorem restPart_freePage (p : Nat) : restPart (freePage p b) = restPart b := by
  unfold freePage; dsimp only; split
  · rfl
  · exact (restPart_setFrameEntry ..).trans rfl
@[simp] theorem restPart_strike (hits : List Strike) : restPart (strike hits b) = restPart b := by rw [(strike_eq b hits).1]; rfl

@[simp] theorem trn_modCtx (f : Ctx → Ctx) : (modCtx f b).trn = b.trn := rfl
@[simp] theorem trn_tablePut (a : Nat) (v : List Byte) : (tablePut a v b).trn = b.trn := trn_of_restPart (by simp)
@[simp] theorem trn_setFrameEntry (f v : Nat) : (setFrameEntry f v b).trn = b.trn := trn_of_restPart (by simp)
@[simp] theorem trn_freePage (p : Nat) : (freePage p b).trn = b.trn := trn_of_restPart (by simp)
@[simp] theorem trn_granaryWrite (iss : Issuer) (a : Nat) (v : List Byte) (t : Option Nat) : (granaryWrite iss a v t b).2.trn = b.trn :=
  trn_of_restPart (by simp)
@[simp] theorem trn_granaryRead (iss : Issuer) (a n : Nat) : (granaryRead iss a n b).2.2.trn = b.trn := trn_of_restPart (by simp)
@[simp] theorem trn_strike (hits : List Strike) : (strike hits b).trn = b.trn := trn_of_restPart (by simp)
@[simp] theorem trn_qPut (q off : Nat) (v : List Byte) : (qPut q off v b).trn = b.trn := by
  unfold qPut; split
  · rfl
  · split <;> simp
@[simp] theorem trn_qSet (q off n v : Nat) : (qSet q off n v b).trn = b.trn := by simp [qSet]
@[simp] theorem trn_ptSet (q n v : Nat) : (ptSet q n v b).trn = b.trn := by unfold ptSet; split <;> simp
@[simp] theorem trn_chargeNs (u since : Nat) : (chargeNs u since b).trn = b.trn := rfl
@[simp] theorem trn_finishOp (t k : Nat) (s : Status) : (finishOp t k s b).trn = b.trn := by unfold finishOp; split <;> rfl
@[simp] theorem trn_unpark (t k : Nat) : (unpark t k b).trn = b.trn := by
  unfold unpark; split
  · dsimp only; split <;> rfl
  · rfl
@[simp] theorem trn_failOp (t k : Nat) : (failOp t k b).trn = b.trn := by simp [failOp, dropRow, failElsewhere]
@[simp] theorem trn_failParked (sel : Parked → Bool) : (failParked sel b).trn = b.trn := foldl_keeps Block.trn _ _ _ (by simp)
@[simp] theorem trn_notify (u : Nat) (f : Field) (e : Ev) (a : Nat) : (notify u f e a b).trn = b.trn := trn_of_restPart (by simp)
@[simp] theorem trn_pageInFails (expired : Bool) (p : PageIn) : (pageInFails expired p b).trn = b.trn := by
  unfold pageInFails
  dsimp only
  rw [trn_failParked]
  split <;> split <;> simp [dropPageIn]

@[simp] theorem trn_evictLow (j : Nat) : (evictLow j b).trn = b.trn := by unfold evictLow; dsimp only; split <;> simp

theorem trn_takeTensor {j n : Nat} {stack : Option Nat} {c : Block} (h : takeTensor j stack b = some (n, c)) : c.trn = b.trn := by
  unfold takeTensor at h
  split at h
  · simp at h
  · split at h
    · obtain ⟨-, rfl⟩ := Prod.mk.inj (Option.some.inj h); simp
    · simp at h

theorem trn_takePage {j n : Nat} {stack : Option Nat} {c : Block} (h : takePage j stack b = some (n, c)) : c.trn = b.trn := by
  have hand {f e : Nat} {d : Block} (hd : d.trn = b.trn) {r : Nat × Block} (hr : (freeIn d f).map (fun k =>
      (32 * f + k, evictLow j (setUsed j (jobUsed d j + 1) (setFrameEntry f (Nat.lor e (2 ^ k)) d)))) = some r) : r.2.trn = b.trn := by
    obtain ⟨k, -, rfl⟩ := Option.map_eq_some_iff.mp hr
    exact (trn_evictLow ..).trans ((trn_setFrameEntry ..).trans hd)
  unfold takePage at h
  dsimp only at h
  split at h
  · simp at h
  · split at h
    · exact hand rfl h
    · split at h
      · exact hand (trn_modCtx ..) h
      · simp at h

theorem trn_installPage (q n : Nat) (v : List Byte) : (installPage q n v b).2.trn = b.trn := by
  unfold installPage
  dsimp only
  split
  · rename_i r hr
    have htake : r.2.trn = b.trn := by
      split at hr
      · simp at hr
      · exact trn_takePage b hr
    split
    · rfl
    · exact ((trn_qSet ..).trans ((trn_ptSet ..).trans (trn_granaryWrite ..))).trans htake
  · rfl

@[simp] theorem trn_peerPage (j rank page : Nat) (w : Bool) (v : List Byte) : (peerPage j rank page w v b).trn = b.trn := rfl

@[simp] theorem trn_landPage (p : PageIn) : (landPage p b).trn = b.trn := by
  unfold landPage
  dsimp only
  split
  · rw [dropPageIn, trn_modCtx]
    split <;> split <;> simp [trn_installPage]
  · split
    · simp
    · split
      · simp
      · split
        · rfl
        · rfl

@[simp] theorem trn_retryPageIns : (retryPageIns b).trn = b.trn := foldl_keeps Block.trn _ _ _ (by simp)

/-! ### What leaves a job's failed access alone (R464) -/

/-- The training access that failed, by job. -/
def jobFails (b : Block) (j : Nat) : Option FailSite := (trnOf b j).failed

theorem jobFails_of_trn {b c : Block} (h : c.trn = b.trn) : jobFails c = jobFails b := by funext j; rw [jobFails, jobFails, trnOf, trnOf, h]

theorem jobFails_modJob (j : Nat) {f : TrnJob → TrnJob} (hf : ∀ x, (f x).failed = x.failed) : jobFails (modJob j f b) = jobFails b := by
  funext i
  by_cases h : i = j <;> simp [jobFails, modJob, setTrn, modTrn, trnOf, h, hf]

theorem jobFails_retryWaits : jobFails (retryWaits b) = jobFails b := by
  refine foldl_keeps jobFails _ _ _ fun c w => ?_
  have hgot (d : Block) : jobFails (stashGot w.stash w.job (endWait w d)) = jobFails d := by
    unfold stashGot; split
    · exact jobFails_modJob _ _ fun _ => rfl
    · rfl
  split
  · refine (jobFails_of_trn rfl).trans (?_ : jobFails (stashLost w.stash w.job (endWait w c)) = jobFails c)
    unfold stashLost; split
    · exact jobFails_modJob _ _ fun _ => rfl
    · rfl
  · split
    · rename_i r hr
      have htake : r.2.trn = c.trn := by
        split at hr
        · exact trn_takeTensor c hr
        · exact trn_takePage c hr
      exact (jobFails_of_trn rfl).trans ((hgot r.2).trans (jobFails_of_trn htake))
    · rfl

theorem jobFails_retryAllocs : jobFails (retryAllocs b) = jobFails b := (jobFails_of_trn (trn_retryPageIns _)).trans (jobFails_retryWaits b)

theorem jobFails_closeSessionPages (q : Nat) : jobFails (closeSessionPages q b) = jobFails b := by
  unfold closeSessionPages
  rw [jobFails_retryAllocs]
  refine jobFails_of_trn ?_
  rw [trn_modCtx, trn_qSet, trn_qSet]
  refine foldl_keeps Block.trn _ _ _ fun c i => ?_
  dsimp only
  split
  · rw [trn_ptSet]
    split
    · exact trn_freePage ..
    · split <;> rfl
  · rfl

theorem jobFails_settleCloses : jobFails (settleCloses b) = jobFails b := by
  refine foldl_keeps jobFails _ _ _ fun c q => ?_
  split
  · exact jobFails_closeSessionPages ..
  · rfl

@[simp] theorem trn_lendSettle (t : Nat) : (lendSettle t b).trn = b.trn := by unfold lendSettle; split <;> rfl

@[simp] theorem trn_countCompletion (t : Nat) (o : Op) : (countCompletion t o b).trn = b.trn := by
  unfold countCompletion; dsimp only; split
  · exact trn_of_restPart (restPart_raise ..)
  · rfl
@[simp] theorem trn_recordFault (t : Nat) (s : Status) (cls w tag : Nat) : (recordFault t s cls w tag b).trn = b.trn := by unfold recordFault; split <;> rfl
@[simp] theorem trn_cancelWaiting (t : Nat) : (cancelWaiting t b).trn = b.trn := by
  rw [cancelWaiting_eq]
  refine (foldl_keeps Block.trn (cancelOp t) _ b fun c o => ?_ : _ = b.trn)
  rw [cancelOp, trn_countCompletion, trn_recordFault]
  rfl

theorem jobFails_reclaim (t : Nat) : jobFails (reclaim t b) = jobFails b := by
  have hstop (c : Block) : (lendSettle t (if (tileOf c t).stream = .running
      then cancelWaiting t (modTile t (fun x => { x with stream := .stopping }) c) else c)).trn = c.trn := by
    rw [trn_lendSettle]; split
    · exact trn_cancelWaiting ..
    · rfl
  unfold reclaim
  dsimp only
  split
  · rfl
  · split
    · rfl
    · refine (jobFails_of_trn (hstop _)).trans ?_
      split
      · exact (jobFails_settleCloses ..).trans rfl
      · rfl

theorem jobFails_callHome (j t : Nat) : jobFails (callHome j t b) = jobFails b := by
  unfold callHome; split
  · exact jobFails_reclaim ..
  · rfl

/-! ### Harvest passes (R217 to R225) -/

theorem harvestEnd_of {j : Nat} (h : (trnOf b j).failed = none) : harvestEnd j b = b := by simp [harvestEnd, h]

@[simp] theorem harvestOf_setHarvest (f j : Nat) (h : Harvest) : harvestOf (setHarvest f j h b) f j = h := by simp [harvestOf, setHarvest]

section
variable {f j : Nat} {hits : List Strike} {c : Block} {bytes : List Byte}

theorem hrvRun_starts (hidle : (harvestOf b f j).phase = .idle)
    (hread : granaryRead (hrvIssuer (strike hits b) f j) (hrvBase (strike hits b) f j) 128 (strike hits b) = (.ok, bytes, c))
    (h0 : 0 < leAt bytes 0 4) (hmax : leAt bytes 0 4 ≤ 0x10_0000) :
    hrvRun f j hits b = setHarvest f j ⟨.running, leAt bytes 0 4, bytes.drop 64, 0, [], false⟩ c := by
  have hcount : ¬ (leAt bytes 0 4 = 0 ∨ 0x10_0000 < leAt bytes 0 4) := by omega
  simp only [hrvRun, hidle, hread, hcount, ne_eq, not_true_eq_false, if_false]

theorem hrvStop_empty (hrun : (harvestOf b f j).phase = .running) (hprog : (harvestOf b f j).prog = []) :
    hrvStop f j b = setHarvest f j { harvestOf b f j with phase := .idle, stopped := false } (setHarvest f j { harvestOf b f j with stopped := true } b) := by
  simp [hrvStop, hrun, hrvSettle, hprog]

/-- An entry whose gate counts nothing starts, and its tile is called back. -/
theorem hrvStart_starts {away : Nat → Bool} {back : Nat → Block → Block} {h : Harvest} {d t : Nat} (hh : h = harvestOf b f j)
    (hd : d = fld b (hrvUnit f) Fld.grnHrvCtrlDepth j) (ht : t = (h.tmap.getD ((bytes.getD 16 0).toNat % 64) 0).toNat % 64)
    (hrun : h.phase = .running) (hstop : h.stopped = false) (hnext : h.next < h.count) (hroom : h.prog.length < (if d = 0 then 1 else min d 16))
    (hread : granaryRead (hrvIssuer (strike hits b) f j) (hrvBase (strike hits b) f j + 128 + 32 * h.next) 32 (strike hits b) = (.ok, bytes, c))
    (hgood : hrvEntryBad c j h bytes = false) (hgate : (bytes.getD 18 0).toNat = 0) :
    hrvStart f j away back hits b = setHarvest f j { h with next := h.next + 1, prog := h.prog ++
      [⟨h.next, leAt bytes 0 8, leAt bytes 8 4, t, leAt bytes 12 4, bitOf (bytes.getD 22 0).toNat 0, (bytes.getD 19 0).toNat,
        if bitOf (bytes.getD 22 0).toNat 0 then awaitedSince (back t c) t (bytes.getD 19 0).toNat else none⟩] } (back t c) := by
  subst hd ht
  have hgo : ¬ (h.phase ≠ .running ∨ h.stopped = true ∨ h.count ≤ h.next ∨
      (if fld b (hrvUnit f) Fld.grnHrvCtrlDepth j = 0 then 1 else min (fld b (hrvUnit f) Fld.grnHrvCtrlDepth j) 16) ≤ h.prog.length) := by
    simp only [hrun, hstop, ne_eq, not_true_eq_false, false_or, Bool.false_eq_true]
    omega
  simp only [hrvStart, ← hh, hgo, hread, hgood, hgate, ne_eq, not_true_eq_false, false_and, if_false, if_true, Bool.false_eq_true]

/-- The earliest entry lands its bytes at its tile and signals. -/
theorem hrvLand_lands {away : Nat → Bool} {back : Nat → Block → Block} {cause : Nat} {peers : List Peer} {h : Harvest} {r : HrvRun} {rest : List HrvRun}
    {d : Block} (hh : h = harvestOf b f j) (hprog : h.prog = r :: rest) (haway : away r.tile = false) (hlate : r.lateSince = none) (hnext : h.next < h.count)
    (hread : devRead (hrvIssuer (strike hits b) f j) peers r.src r.bytes (strike hits b) = (.ok, bytes, c)) (habs : absorbing c (uTile r.tile) = false)
    (hwrite : loftWrite r.tile r.dst bytes (setHarvest f j { h with prog := rest } c) = (true, d)) :
    hrvLand f j cause away back peers hits b = hrvSettle f j (if r.land then { d with til := { d.til with
      signals := d.til.signals ++ [(r.tile, ⟨r.landTok, j, hrvUnit f⟩)] } } else d) := by
  have hmore : ¬ (h.phase = .running ∧ (!h.stopped) = true ∧ h.count ≤ h.next ∧ rest = []) := fun ⟨_, _, h', _⟩ => by omega
  have habs' : absorbing (setHarvest f j { h with prog := rest } c) (uTile r.tile) = false := habs
  simp only [hrvLand, ← hh, hprog, haway, hread, habs', hwrite, hlate, hmore, ne_eq, not_true_eq_false, if_false, Bool.not_true, Bool.false_eq_true]

end

theorem trn_readWord (t w : Nat) : (readWord t w b).2.trn = b.trn := by
  unfold readWord
  split
  · rfl
  · exact trn_of_restPart (restPart_notify ..)
  · exact trn_of_restPart (restPart_notify ..)

theorem trn_readWords (t : Nat) (ws : List Nat) (p : Bool) :
    (ws.foldl (fun acc w => let r := readWord t w acc.2; (acc.1 && r.1, r.2)) (p, b)).2.trn = b.trn :=
  foldl_keeps (fun acc : Bool × Block => acc.2.trn) _ ws (p, b) fun acc w => trn_readWord acc.2 t w

theorem trn_loftRead (t off n : Nat) : (loftRead t off n b).2.trn = b.trn := by
  have h := trn_readWords (noteLoft t b) t (granuleWords (loftBase t + off) n) true
  unfold loftRead
  generalize granuleWords (loftBase t + off) n = ws at h
  dsimp only
  split
  · exact h
  · exact h

theorem trn_clearLoftErrs (p : Nat → Bool) (ws : List Nat) : (ws.foldl (fun b w => if p w then setLoftErr w none b else b) b).trn = b.trn :=
  foldl_keeps Block.trn _ ws b fun c w => by
    split <;> rfl

theorem trn_loftWrite (t off : Nat) (v : List Byte) : (loftWrite t off v b).2.trn = b.trn := by
  have hnote (c : Block) (p : Bool) : (noteLoft t (if p then c else failElsewhere c)).trn = c.trn := by cases p <;> rfl
  unfold loftWrite
  generalize loftBase t + off = a
  generalize v.length = n
  dsimp only
  generalize (wordsOf a n).filter (fun w => b.grn.loftErr.find w == some true && !coversWord a n w) = bad
  rw [(poke_frame ..).2.2.2.2.2.2.2.1, hnote, trn_clearLoftErrs]

@[simp] theorem trn_raise (u : Nat) (e : Ev) (a : Nat) : (raise u e a b).trn = b.trn := trn_of_restPart (restPart_raise ..)
@[simp] theorem trn_addrFault (i : Issuer) (a : Nat) : (addrFault i a b).trn = b.trn := trn_of_restPart (restPart_addrFault ..)

theorem trn_farEnd (i : Issuer) (a : Nat) (s : Status) : (farEnd i a s b).trn = b.trn := by
  unfold farEnd; split
  · simp
  · split <;> rfl

theorem trn_devRead (iss : Issuer) (ps : List Peer) (a n : Nat) : (devRead iss ps a n b).2.2.trn = b.trn := by
  unfold devRead
  split
  · simp
  · split
    · split
      · simp
      · exact (trn_farEnd ..).trans rfl
    · split
      · simp
      · rename_i t off _
        split
        · rfl
        · split
          · split
            · rename_i h; exact (congrArg (·.2.trn) h).symm.trans (trn_loftRead ..)
            · rename_i h; exact (congrArg (·.2.trn) h).symm.trans (trn_loftRead ..)
          · simp
      · unfold windowAccess; dsimp only; split <;> simp
      · simp

theorem trn_hrvSettle (f j : Nat) : (hrvSettle f j b).trn = b.trn := by unfold hrvSettle; dsimp only; split <;> rfl

end Sys2Proof.Machine

open Sys2Proof Sys2Proof.Machine

/-- Settles O18: no step of a pass leaves a failed access at its job, so each ends as it stands. -/
theorem harvests : Obligations.Harvests := by
  unfold Obligations.Harvests
  refine fun s f j hits c bytes hon hfail => ⟨fun hidle hread h0 hmax => acts_main rfl hon ?_, fun hrun hprog => acts_main rfl hon (hrvStop_empty _ hrun hprog), ?_, ?_⟩
  · have hc : c.trn = s.blk.trn := (congrArg (·.2.2.trn) hread).symm.trans ((trn_granaryRead ..).trans (trn_strike ..))
    rw [hrvRun_starts _ hidle hread h0 hmax]
    exact harvestEnd_of _ ((congrFun (jobFails_of_trn hc) _).trans hfail)
  · intro h d t x hrun hstop hnext hroom hread hgood hgate
    have hc : c.trn = s.blk.trn := (congrArg (·.2.2.trn) hread).symm.trans ((trn_granaryRead ..).trans (trn_strike ..))
    refine acts_main rfl hon ?_
    rw [hrvStart_starts _ rfl rfl rfl hrun hstop hnext hroom hread hgood hgate]
    exact harvestEnd_of _ ((congrFun (jobFails_callHome c j t) _).trans ((congrFun (jobFails_of_trn hc) _).trans hfail))
  · intro cause peers r rest h hprog haway hlate hrun hstop hnext hread habs d hwrite
    have hc : c.trn = s.blk.trn := (congrArg (·.2.2.trn) hread).symm.trans ((trn_devRead ..).trans (trn_strike ..))
    have hd : d.trn = s.blk.trn := (congrArg (·.2.trn) hwrite).symm.trans ((trn_loftWrite (setHarvest f j { h with prog := rest } c) ..).trans hc)
    refine acts_main rfl hon ?_
    rw [hrvLand_lands _ rfl hprog haway hlate hnext hread habs hwrite]
    refine harvestEnd_of _ ((congrFun (jobFails_of_trn ((trn_hrvSettle ..).trans ?_)) _).trans hfail)
    split <;> exact hd

end

section
/-! PROOFS. Launches, aborts and grants of gleaners (R244 to R249, R269 to R272). -/

namespace Sys2Proof.Machine

variable (b : Block)

/-- A command of the main die that leaves the tally's part alone answers a state with what its operation leaves. -/
theorem answersWith_kept {i : Instr} {s : State} {p : Block → Prop} {g : Block → Block} (he : exec i s = s.runMain g) (hon : mainOn s.blk = true)
    (ht : tallyPart (g s.blk) = tallyPart s.blk) (hp : p (g s.blk)) : AnswersWith i s p :=
  answersWith_main he hon (by rwa [keepTally_of_tallyPart ht])

/-! ### Gleaners by number -/

theorem glOf_modGl (g n : Nat) (f : Gleaner → Gleaner) : glOf (modGl g f b) n = if n = g then f (glOf b g) else glOf b n := by
  by_cases h : n = g <;> simp [glOf, modGl, setGl, h]

theorem glOf_of_gln {b c : Block} (h : c.gln = b.gln) (g : Nat) : glOf c g = glOf b g := by rw [glOf, glOf, h]

/-- What every step of a fold establishes for its own item and keeps for the others holds of every item at the end. -/
theorem foldl_establishes {α β : Type} {p : α → β → Prop} {f : β → α → β} (hset : ∀ b x, p x (f b x)) (hkeep : ∀ b x y, p y b → p y (f b x)) (l : List α) :
    ∀ b, ∀ x ∈ l, p x (l.foldl f b) := by
  induction l with
  | nil => simp
  | cons y l ih =>
    intro b x hx
    rw [List.foldl_cons]
    rcases List.mem_cons.mp hx with rfl | hx
    · exact foldl_inv (p x) f l _ (hset b x) fun c y => hkeep c y x
    · exact ih _ x hx

/-- The gleaners a fold over a stack's does not name stay as they were. -/
theorem glOf_foldl_other {s : Nat} {f : Block → Nat → Block} (hf : ∀ c i g, g ≠ 128 * s + i → glOf (f c i) g = glOf c g) (l : List Nat) {g : Nat} :
    ∀ b, (∀ k ∈ l, g ≠ 128 * s + k) → glOf (l.foldl f b) g = glOf b g := by
  induction l with
  | nil => simp
  | cons k l ih =>
    intro b h
    rw [List.foldl_cons, ih _ fun i hi => h i (List.mem_cons_of_mem _ hi), hf b k g (h k List.mem_cons_self)]

/-! ### Launches (R244, R245, R252) -/

/-- A gleaner that a launch has just started. -/
def launched (entry : Nat) (l : Launch) (time : Nat) (x : Gleaner) : Gleaner := { x with
  run := .ready, core := { x.core with pc := entry }, csr := [], exact' := ⟨0, false, false, false⟩, pend := ⟨0, 0, 0, 0⟩,
  launch := l, opened := 0, visits := [], seg := none, grantAt := none, giveUp := false, waitFrom := time, failed := none, putFail := none }

/-- The launch registers of a stack, for its gleaners. -/
def launchOf (b : Block) (s : Nat) : Launch := ⟨reg b (uStack s) Off.grnGlEntry, bitsOf (reg b (uStack s) Off.grnGlIdent) 31 22,
  bitsOf (reg b (uStack s) Off.grnGlIdent) 10 8, bitOf (reg b (uStack s) Off.grnGlIdent) 0,
  reg b (uStack s) Off.grnGlArgLo + 2 ^ 32 * reg b (uStack s) Off.grnGlArgHi, reg b (uStack s) Off.grnGlDoneLo + 2 ^ 32 * reg b (uStack s) Off.grnGlDoneHi,
  reg b (uStack s) Off.grnGlStep, reg b (uStack s) Off.grnGlSeed, []⟩

section
variable {s : Nat}

/-- With every gleaner of the stack in service a launch starts the whole mask, and nothing is adopted. -/
theorem launch_all (hmask : maskBits b s ≠ []) (hwork : ∀ k < 128, glWorks b (128 * s + k) = true)
    (hidle : ∀ k ∈ maskBits b s, (glOf b (128 * s + k)).run = .idle)
    (hopen : regionOpen b s (reg b (uStack s) Off.grnGlEntry) (bitsOf (reg b (uStack s) Off.grnGlIdent) 10 8) = true) :
    launch s b = launchResult s false 0 (maskBits b s).length
      ((maskBits b s).foldl (fun c i => modGl (128 * s + i) (launched (reg b (uStack s) Off.grnGlEntry) (launchOf b s) c.face.time) c) b) := by
  have hlt : ∀ k ∈ maskBits b s, k < 128 := fun k hk => List.mem_range.mp (List.mem_filter.mp hk).1
  have hworks : (maskBits b s).filter (fun i => glWorks b (128 * s + i)) = maskBits b s := List.filter_eq_self.mpr fun k hk => hwork k (hlt k hk)
  have hdown : (maskBits b s).filter (fun i => !glWorks b (128 * s + i)) = [] :=
    List.filter_eq_nil_iff.mpr fun k hk => by simp [hwork k (hlt k hk)]
  have hnone : (List.range 128).filter (fun i => !glWorks b (128 * s + i)) = [] :=
    List.filter_eq_nil_iff.mpr fun k hk => by simp [hwork k (List.mem_range.mp hk)]
  have hfind : (maskBits b s).find? (fun i => (glOf b (128 * s + i)).run != .idle) = none :=
    List.find?_eq_none.mpr fun k hk => by simp [hidle k hk]
  unfold launch
  simp only [hworks, hdown, hnone, hfind, hopen, hmask, Bool.not_true, Bool.false_eq_true, if_false, List.find?_nil, List.filterMap_nil, List.foldl_nil,
    List.filter_nil, List.map_nil]
  rfl

theorem launch_busy {k : Nat} (hk : k ∈ maskBits b s) (hw : glWorks b (128 * s + k) = true) (hbusy : (glOf b (128 * s + k)).run ≠ .idle) :
    ∃ i, launch s b = launchReject s 1 i b := by
  have hsome : (((maskBits b s).filter fun i => glWorks b (128 * s + i)).find? fun i => (glOf b (128 * s + i)).run != .idle).isSome = true :=
    List.find?_isSome.mpr ⟨k, List.mem_filter.mpr ⟨hk, hw⟩, by simpa using hbusy⟩
  obtain ⟨i, hi⟩ := Option.isSome_iff_exists.mp hsome
  exact ⟨i, by simp only [launch, hi]⟩

end

theorem tallyPart_launchMask (s n entry : Nat) (l : Launch) (ks : List Nat) :
    tallyPart (launchResult s false 0 n (ks.foldl (fun c i => modGl (128 * s + i) (launched entry l c.face.time) c) b)) = tallyPart b :=
  foldl_keeps tallyPart _ ks b fun _ _ => rfl

theorem glOf_launchResult (s : Nat) (p : Bool) (r n g : Nat) : glOf (launchResult s p r n b) g = glOf b g := rfl

/-- Each gleaner named stands launched at its turn. -/
theorem glOf_launchMask (s entry : Nat) (l : Launch) {ks : List Nat} {k : Nat} (hk : k ∈ ks) : ∃ t,
    glOf (ks.foldl (fun c i => modGl (128 * s + i) (launched entry l c.face.time) c) b) (128 * s + k) = launched entry l t (glOf b (128 * s + k)) := by
  have hbase := foldl_inv (fun c => ∀ g, ∃ t, launched entry l t (glOf c g) = launched entry l t (glOf b g))
    (fun c i => modGl (128 * s + i) (launched entry l c.face.time) c) ks b (fun g => ⟨0, rfl⟩) fun c i h g => by
      obtain ⟨t, ht⟩ := h g
      refine ⟨t, ?_⟩
      rw [glOf_modGl]
      split
      · rename_i h; rw [← h]; exact ht
      · exact ht
  obtain ⟨t, ht⟩ := foldl_establishes (p := fun k c => ∃ t, glOf c (128 * s + k) = launched entry l t (glOf c (128 * s + k)))
    (f := fun c i => modGl (128 * s + i) (launched entry l c.face.time) c)
    (fun c i => ⟨c.face.time, by simp [glOf_modGl, launched]⟩) (fun c i j h => by
      obtain ⟨t, ht⟩ := h
      rw [glOf_modGl]
      split
      · exact ⟨c.face.time, by simp [launched]⟩
      · exact ⟨t, ht⟩) ks b k hk
  obtain ⟨t', ht'⟩ := hbase (128 * s + k)
  refine ⟨t, ht.trans ?_⟩
  simp only [launched, Gleaner.mk.injEq, Core.mk.injEq, true_and] at ht' ⊢
  exact ht'

/-- A rejected launch leaves bit 31 of its result. -/
theorem result_launchReject (s r i : Nat) (hr : r < 8) (hs : s < 32) : bitOf (reg (launchReject s r i b) (uStack s) Off.grnGlResult) 31 = true := by
  rw [launchReject, reg_raise_own _ _ _ _ (by unfold uStack uTly; omega) (by decide), launchResult, reg_setReg_same, bitOf,
    Nat.testBit_eq_decide_div_mod_eq, decide_eq_true_eq, b2n, if_pos rfl]
  omega

/-! ### Abort (R249) -/

/-- What an abort does of one gleaner. -/
def abortOne (s : Nat) (b : Block) (i : Nat) : Block :=
  dropGrant (128 * s + i) (modGl (128 * s + i) (fun x => { x with run := .idle, seg := none, putFail := none }) (sweepFails (128 * s + i) b))

theorem gln_sweepFails (g : Nat) : (sweepFails g b).gln = b.gln := by unfold sweepFails; dsimp only; split <;> rfl

theorem glOf_dropGrant (g n : Nat) : glOf (dropGrant g b) n = if n = g then { glOf b g with grantAt := none, giveUp := false } else glOf b n :=
  glOf_modGl b g n fun x => { x with grantAt := none, giveUp := false }

theorem glOf_abortOne (s i n : Nat) : glOf (abortOne s b i) n = if n = 128 * s + i
    then { glOf b n with run := .idle, seg := none, putFail := none, grantAt := none, giveUp := false } else glOf b n := by
  rw [abortOne, glOf_dropGrant]
  split
  · rename_i h; subst h; rw [glOf_modGl, if_pos rfl, glOf_of_gln (gln_sweepFails ..)]
  · rename_i h; rw [glOf_modGl, if_neg h, glOf_of_gln (gln_sweepFails ..)]

theorem order_dropGrant (g s : Nat) : (grantsOf (dropGrant g b) s).order =
    if s = glStack g then (grantsOf b s).order.filter (· != g) else (grantsOf b s).order := by
  unfold dropGrant
  dsimp only
  rw [grantsOf_setGrants]
  split
  · rename_i h; subst h; rfl
  · rfl

theorem order_abortOne (s i : Nat) : (grantsOf (abortOne s b i) s).order =
    if s = glStack (128 * s + i) then (grantsOf b s).order.filter (· != 128 * s + i) else (grantsOf b s).order := by
  have hg : grantsOf (modGl (128 * s + i) (fun x => { x with run := .idle, seg := none, putFail := none }) (sweepFails (128 * s + i) b)) s = grantsOf b s := by
    change (sweepFails (128 * s + i) b).gln.grants.get _ s = _
    rw [gln_sweepFails]
    rfl
  rw [abortOne, order_dropGrant, hg]

theorem mem_order_abortOne {s i g : Nat} (h : g ∈ (grantsOf (abortOne s b i) s).order) : g ∈ (grantsOf b s).order := by
  rw [order_abortOne] at h
  split at h
  · exact (List.mem_filter.mp h).1
  · exact h

/-- The gleaners an abort stops. -/
def aborted (b : Block) (s : Nat) : List Nat := (List.range 128).filter fun i =>
  (glOf b (128 * s + i)).run != .idle && (glOf b (128 * s + i)).launch.job == bitsOf (reg b (uStack s) Off.grnGlIdent) 10 8

theorem abort_eq (s : Nat) : abort s b = (aborted b s).foldl (abortOne s) b := rfl

theorem mem_aborted {s k : Nat} (hk : k < 128) : k ∈ aborted b s ↔
    (glOf b (128 * s + k)).run ≠ .idle ∧ (glOf b (128 * s + k)).launch.job = bitsOf (reg b (uStack s) Off.grnGlIdent) 10 8 := by
  simp [aborted, hk]

theorem tallyPart_abort (s : Nat) : tallyPart (abort s b) = tallyPart b := by
  rw [abort_eq]
  refine foldl_keeps tallyPart _ _ _ fun c i => ?_
  have hsweep : tallyPart (sweepFails (128 * s + i) c) = tallyPart c := by unfold sweepFails; dsimp only; split <;> rfl
  simpa [abortOne] using hsweep

theorem abort_stops {s k : Nat} (hk : k < 128) (h : (glOf b (128 * s + k)).run ≠ .idle ∧ (glOf b (128 * s + k)).launch.job =
    bitsOf (reg b (uStack s) Off.grnGlIdent) 10 8) :
    (glOf (abort s b) (128 * s + k)).run = .idle ∧ (glOf (abort s b) (128 * s + k)).seg = none ∧ 128 * s + k ∉ (grantsOf (abort s b) s).order := by
  have hall := foldl_establishes (p := fun k c => (glOf c (128 * s + k)).run = .idle ∧ (glOf c (128 * s + k)).seg = none ∧
      (k < 128 → 128 * s + k ∉ (grantsOf c s).order)) (f := abortOne s)
    (fun c i => ⟨by simp [glOf_abortOne], by simp [glOf_abortOne], fun hi => by
      rw [order_abortOne, if_pos (by unfold glStack; omega)]; simp⟩)
    (fun c i k hk => by
      obtain ⟨hrun, hseg, hord⟩ := hk
      refine ⟨?_, ?_, fun hlt hmem => hord hlt (mem_order_abortOne c hmem)⟩
      · rw [glOf_abortOne]; split
        · rfl
        · exact hrun
      · rw [glOf_abortOne]; split
        · rfl
        · exact hseg)
  obtain ⟨hrun, hseg, hord⟩ := hall (aborted b s) b k ((mem_aborted b hk).mpr h)
  exact ⟨hrun, hseg, hord hk⟩

theorem abort_keeps {s k : Nat} (hk : k < 128) (h : ¬ ((glOf b (128 * s + k)).run ≠ .idle ∧ (glOf b (128 * s + k)).launch.job =
    bitsOf (reg b (uStack s) Off.grnGlIdent) 10 8)) : glOf (abort s b) (128 * s + k) = glOf b (128 * s + k) := by
  rw [abort_eq]
  refine glOf_foldl_other (fun c i g hne => by rw [glOf_abortOne, if_neg hne]) _ b fun i hi he => ?_
  obtain rfl : k = i := by omega
  exact h ((mem_aborted b hk).mp hi)

/-! ### Grants (R269 to R272) -/

section
variable {s : Nat}

theorem grantIssue_grants {n : Nat} (hover : (grantsOf b s).isOver = false) (hcap : (grantsOf b s).order.length < grantCap b s)
    (hnext : nextToGrant b s = some n) : grantIssue s b = setGrants s { grantsOf b s with order := (grantsOf b s).order ++ [n], last := n % 128 }
      (modGl n (fun x => { x with run := .running, grantAt := some b.face.time, giveUp := false })
        (bump (uGleaner n) Off.glnGrantNsLo ((b.face.time - (glOf b n).waitFrom) * 1000) b)) := by
  have hgo : ¬ ((grantsOf b s).isOver = true ∨ grantCap b s ≤ (grantsOf b s).order.length) := by rw [hover]; simp; omega
  simp only [grantIssue, hgo, hnext, if_false]
  rfl

theorem grantIssue_over (hover : (grantsOf b s).isOver = true) : grantIssue s b = b := by simp [grantIssue, hover]

theorem quantumExpire_over {g t0 : Nat} (hat : (glOf b g).grantAt = some t0)
    (hq : t0 + max 1 (fld b (uStack (glStack g)) Fld.grnGrCtrlQuantum) * 10 ≤ b.face.time) (hnext : (nextToGrant b (glStack g)).isSome = true) :
    quantumExpire g b = modGl g (fun x => { x with giveUp := true }) b := by
  simp only [quantumExpire, hat, hnext, hq, decide_true, Bool.and_self, if_true]

theorem tlycapChange_drops (cap : Nat) : tlycapChange s cap b = ((grantsOf b s).order.drop (min 32 cap)).foldl
    (fun b g => modGl g (fun x => { x with giveUp := true }) b) (setFld (uStack s) Fld.grnGrStateTlycap (min 32 cap) b) := rfl

/-- Holders told to give up. -/
def giveUpAll (l : List Nat) (b : Block) : Block := l.foldl (fun b g => modGl g (fun x => { x with giveUp := true }) b) b

theorem tallyPart_giveUpAll (l : List Nat) : tallyPart (giveUpAll l b) = tallyPart b := foldl_keeps tallyPart _ l b fun _ _ => rfl

theorem tallyPart_setGrants (x : Grants) : tallyPart (setGrants s x b) = tallyPart b := rfl

theorem giveUp_giveUpAll (l : List Nat) : ∀ n ∈ l, (glOf (giveUpAll l b) n).giveUp = true :=
  foldl_establishes (p := fun n c => (glOf c n).giveUp = true) (fun c n => by simp [glOf_modGl])
    (fun c m n h => by rw [glOf_modGl]; split <;> simp_all) l b

theorem grantOver_over {count : Nat} (h : fld b (uStack s) Fld.grnGrStateTlycap < count) : grantOver s count b =
    setOwn (uStack s) hFailed (raise (uStack s) .glnGrantOver (fld b (uStack s) Fld.grnGrStateTlycap * 2 ^ 8 + count % 256)
      (setGrants s { grantsOf b s with isOver := true } (giveUpAll (grantsOf b s).order b))) := by
  unfold grantOver
  dsimp only
  rw [if_neg (by omega)]
  rfl

end

end Sys2Proof.Machine

open Sys2Proof Sys2Proof.Machine

/-- Settles O19: the whole mask starts, or one that is busy rejects it; an abort is a fold over the job's gleaners. -/
theorem launches : Obligations.Launches := by
  unfold Obligations.Launches
  intro s st hon mask job
  refine ⟨fun hmask hwork hidle hopen => ?_, fun k hk hw hbusy => ?_, ?_⟩
  · have hlaunch := launch_all s.blk hmask hwork hidle hopen
    refine answersWith_kept rfl hon (by rw [hlaunch]; exact tallyPart_launchMask ..) ?_
    rw [hlaunch]
    refine ⟨fun k hk => ?_, fun g hg => ?_, ?_, ?_, ?_⟩
    · obtain ⟨x, hx⟩ := glOf_launchMask s.blk st (reg s.blk (uStack st) Off.grnGlEntry) (launchOf s.blk st) hk
      rw [glOf_launchResult, hx]
      exact ⟨rfl, rfl, rfl, rfl, rfl, rfl⟩
    · exact glOf_foldl_other (fun c i g hne => by rw [glOf_modGl, if_neg hne]) _ _ hg
    · have hlen : (maskBits s.blk st).length ≤ 128 := Nat.le_trans (List.length_filter_le ..) (List.length_range ▸ Nat.le_refl _)
      rw [launchResult, reg_setReg_same]
      exact (Nat.mod_eq_of_lt (by simp [b2n]; omega)).trans (by simp [b2n, mask])
    · exact foldl_keeps (fun c : Block => c.grn) _ _ _ fun c i => rfl
    · exact foldl_keeps (fun c : Block => c.til) _ _ _ fun c i => rfl
  · obtain ⟨i, hi⟩ := launch_busy s.blk hk hw hbusy
    refine answersWith_kept rfl hon (by rw [hi, launchReject, tallyPart_raise]; rfl) ?_
    rw [hi]
    exact ⟨(raise_frame ..).2.2.1, result_launchReject _ _ _ _ (by omega) st.isLt⟩
  · refine answersWith_kept rfl hon ?_ fun k hk => ⟨fun h => ?_, fun h => ?_⟩
    · exact tallyPart_abort ..
    · exact abort_stops s.blk hk h
    · exact abort_keeps s.blk hk h

/-- Settles O20: the grants by their cases. -/
theorem grants : Obligations.Grants := by
  unfold Obligations.Grants
  refine fun s st g hon => ⟨fun n hover hcap hnext => acts_main rfl hon (grantIssue_grants _ hover hcap hnext), fun t0 hat hq hnext =>
    acts_main rfl hon (quantumExpire_over _ hat hq hnext), fun cap h => acts_main rfl hon ?_, fun cap l n hl hlen => acts_main rfl hon ?_, fun count h => ?_,
    fun hover _ => acts_main rfl hon (grantIssue_over _ hover)⟩
  · rw [tlycapChange_drops, List.drop_eq_nil_of_le h]; rfl
  · rw [tlycapChange_drops, hl, List.drop_append_of_le_length (by omega), List.drop_eq_nil_of_le (by omega)]; rfl
  · have hover := grantOver_over s.blk h
    refine answersWith_kept rfl hon (by rw [hover]; simp [tallyPart_giveUpAll, tallyPart_setGrants]) ?_
    rw [hover]
    refine ⟨?_, ?_, fun n hn => ?_⟩
    · rw [grantsOf, (setOwn_frame ..).2.2.1, (raise_frame ..).2.2.1]
      exact congrArg Grants.isOver ((grantsOf_setGrants ..).trans (if_pos rfl))
    · rw [ownOf, own_setOwn]; simp
    · rw [glOf_of_gln (setOwn_frame ..).2.2.1, glOf_of_gln (raise_frame ..).2.2.1]
      exact giveUp_giveUpAll s.blk _ n hn

end

section
/-! PROOFS. Instructions of a gleaner (R240 to R276, Table 7.3). -/

namespace Sys2Proof.Machine

variable (b : Block)

/-! ### One instruction of a running gleaner (R240 to R262) -/

@[simp] theorem gln_strike (hits : List Strike) : (strike hits b).gln = b.gln := by rw [(strike_eq b hits).1]
@[simp] theorem glOf_strike (hits : List Strike) (g : Nat) : glOf (strike hits b) g = glOf b g := glOf_of_gln (gln_strike ..) g

section
variable {g w len : Nat} {x : Gleaner} (hx : x = glOf b g) (hheld : unitHeld b (uGleaner g) = false) (hrun : x.run = .running)
  (hput : x.putFail = none) (hfetch : fetch x = .inr (some w, len))
include hx hheld hrun hput hfetch

/-- A running gleaner does the instruction it fetches where the command names its kind. -/
theorem glInstr_does {sel : GKind → Bool} {k : GKind} {peers : List Peer} {hits : List Strike} (hk : kindOfInstr w = k) (hsel : sel k = true) :
    glInstr g sel peers hits b = runAnswered g x (doInstr g k w len peers (strike hits b)) := by
  subst hx hk
  simp only [glInstr, runInstr, hrun, hheld, hput, hfetch, hsel, ne_eq, not_true_eq_false, Bool.false_eq_true, or_self, if_false, if_true,
    Option.isSome_none]

omit hheld in
theorem runIllegal_faults (h : kindOfInstr w = .illegal ∨ kindOfInstr w = .ordinary ∧ iOp w ≠ 0x73 ∧ rvExec x.core x.scratch w len = .stop .badArgument) :
    runIllegal g b = runFault g .badArgument b := by
  subst hx
  rcases h with h | ⟨h, h73, hstop⟩
  · simp only [runIllegal, hrun, hput, hfetch, h, ne_eq, not_true_eq_false, if_false, Option.isSome_none, Bool.false_eq_true]
  · simp only [runIllegal, hrun, hput, hfetch, h, h73, hstop, ne_eq, not_true_eq_false, if_false, Option.isSome_none, Bool.false_eq_true]

end

theorem orFault_ok (g len : Nat) {r : Status × Block} {c : Block} (h : r = (.ok, c)) : orFault g len r = advancePc g len c := by simp [orFault, h]

theorem orFault_ne (g len : Nat) {r : Status × Block} {s : Status} {c : Block} (h : r = (s, c)) (hs : s ≠ .ok) : orFault g len r = runFault g s c := by
  simp [orFault, h, hs]

/-! ### A run that goes on answers no more than its instruction -/

/-- What a gleaner's own update leaves of it. -/
theorem glOf_advancePc (g len : Nat) : glOf (advancePc g len b) g = { glOf b g with core := { (glOf b g).core with pc := (glOf b g).core.pc + len } } := by
  rw [advancePc, glOf_modGl, if_pos rfl]

theorem runEnded_runs {g : Nat} {x : Gleaner} (h : (glOf b g).run ≠ .idle ∨ (glOf b g).failed = none) : runEnded g x b = b := by
  unfold runEnded
  split
  · rename_i hf
    rcases h with h | h
    · exact if_neg fun ⟨_, hidle, _⟩ => h hidle
    · rw [hf] at h; simp at h
  · rfl

theorem engineEnd_of {j : Nat} (h : (trnOf b j).failed = none) : engineEnd j b = b := by simp [engineEnd, h]

theorem runAnswered_runs {g : Nat} {x : Gleaner} (h : (glOf b g).run ≠ .idle ∨ (glOf b g).failed = none)
    (ht : x.launch.train = true → (trnOf b x.launch.job).failed = none) : runAnswered g x b = b := by
  unfold runAnswered
  rw [runEnded_runs b h]
  split
  · rename_i htr; exact engineEnd_of b (ht htr)
  · rfl

/-- An instruction that only changes its own gleaner, still running, answers no more. -/
theorem runAnswered_setGl {g len : Nat} {x y : Gleaner} (hy : y.run = .running) (ht : x.launch.train = true → (trnOf b x.launch.job).failed = none) :
    runAnswered g x (advancePc g len (setGl g y b)) = advancePc g len (setGl g y b) := by
  refine runAnswered_runs _ (.inl ?_) ht
  rw [glOf_advancePc, glOf_setGl, if_pos rfl]
  simp [hy]

/-! ### Rows by their instructions (R253 to R270) -/

theorem putFault_of (g : Nat) (h : (glOf b g).putFail = none) : putFault g b = b := by simp [putFault, h]

theorem isSome_putFail {g : Nat} (h : (glOf b g).putFail ≠ none) : (glOf b g).putFail.isSome = true := Option.isSome_iff_ne_none.mpr h

section
variable {g w len : Nat} {peers : List Peer} {c d : Block}

theorem doInstr_rsOpen {x : Gleaner} {m : Nat} (hx : glOf b g = x) (hm : m = (x.core.getX (iRs1 w)).toNat % 16) (hopen : openBad b x m = false) :
    doInstr g .rsOpen w len peers b = advancePc g len (setRd g (iRd w) (BitVec.ofNat 32 (visitList b x g).length)
      (setGl g { x with opened := m, visits := visitList b x g } b)) := by
  subst hx hm
  exact if_neg (by rw [hopen]; exact Bool.false_ne_true)

theorem doInstr_rsNext {x : Gleaner} (hx : glOf b g = x) : doInstr g .rsNext w len peers b =
    advancePc g len (setRd g (iRd w) (if x.visits.tail.isEmpty then 0 else 1) (setGl g { x with visits := x.visits.tail } b)) := by
  subst hx; rfl

/-- A get or a put makes room first; then it waits, moves its bytes, or fails. -/
theorem doInstr_getPut {x : Gleaner} {s v : Nat} {isGet : Bool} (hx : glOf b g = x) (hs : s = (x.core.getX (iRs1 w)).toNat % 4)
    (hv : v = (x.core.getX (iRs2 w)).toNat) (hd : d = makeRoom g s isGet b) :
    doInstr g (if isGet then .rsGet else .rsPut) w len peers b =
      if (glOf d g).run = .running ∧ (bankWaits g s d || !isGet && stageWaits g s v d) = false
      then orFault g len (if isGet then rsGet g s v d else rsPut g s v d) else d := by
  subst hx hs hv hd
  cases isGet
  · simp only [doInstr, Bool.not_eq_true', Bool.not_false, Bool.true_and, Bool.or_eq_false_iff, Bool.false_eq_true, if_false]
  · simp only [doInstr, Bool.not_eq_true', Bool.not_true, Bool.false_and, Bool.or_false, if_true]

theorem doInstr_rsFget {x : Gleaner} (hx : glOf b g = x) : doInstr g .rsFget w len peers b =
    orFault g len (rsFget g (farAddr x (x.core.getX (iRs1 w))) (x.core.getX (iRs2 w)).toNat peers b) := by subst hx; rfl

theorem doInstr_rsFput {x : Gleaner} (hx : glOf b g = x) : doInstr g .rsFput w len peers b =
    orFault g len (rsFput g (farAddr x (x.core.getX (iRs1 w))) (x.core.getX (iRs2 w)).toNat peers b) := by subst hx; rfl

theorem doInstr_rsAmo {x : Gleaner} (hx : glOf b g = x) : doInstr g .rsAmo w len peers b =
    orFault g len (rsAmo g (iF7 w) (farAddr x (x.core.getX (iRs1 w))) (x.core.getX (iRs2 w)).toNat peers b) := by subst hx; rfl

theorem doInstr_rsEnd : doInstr g .rsEnd w len peers b = if (glOf (commit g false b) g).putFail.isSome then putFault g (commit g false b)
    else advancePc g len (commit g false b) := rfl

theorem rsExit_faults (hd : d = commit g false (modGl g (fun x => { x with giveUp := false }) b)) (h : (glOf d g).putFail ≠ none) :
    rsExit g b = putFault g d := by
  subst hd
  unfold rsExit
  exact if_pos (isSome_putFail _ h)

theorem rsExit_ends (hd : d = commit g false (modGl g (fun x => { x with giveUp := false }) b)) (h : (glOf d g).putFail = none)
    (hm : mergePending g (cvScidx (glOf d g)) d = (.ok, c)) : rsExit g b = dropGrant g
      (modGl g (fun y => { y with run := .idle, opened := 0, visits := [], failed := none }) (doneAdd (glOf c g) (uGleaner g) 0 c)) := by
  subst hd
  simp only [rsExit, h, hm, Option.isSome_none, Bool.false_eq_true, if_false, ne_eq, not_true_eq_false]

end

/-! ### CSRs (R276) -/

section
variable {g w len : Nat} {x : Gleaner} {mask v : Nat}

theorem csrInstr_writes (hx : x = glOf b g) (hn : w / 2 ^ 20 ≠ 0x7D2) (hmask : csrMask (w / 2 ^ 20) = some mask)
    (hacc : csrAccess x w (csrRead x (w / 2 ^ 20)) = some v) : csrInstr g w len b = advancePc g len (setRd g (iRd w)
      (BitVec.ofNat 32 (csrRead x (w / 2 ^ 20))) (modGl g (setCsr (w / 2 ^ 20) (maskedWrite (glCsr x (w / 2 ^ 20)) v mask)) b)) := by
  subst hx
  simp only [csrInstr, hmask, hacc, hn, false_and, if_false, ne_eq, not_true_eq_false]

theorem csrInstr_merges {c : Block} (hx : x = glOf b g) (hn : w / 2 ^ 20 = 0x7D2) (hacc : csrAccess x w (csrRead x 0x7D2) = some v)
    (hidx : maskedWrite (glCsr x 0x7D2) v 0x7FFF_FFFF % 2 ^ 16 ≠ cvScidx x) (hm : mergePending g (cvScidx x) b = (.ok, c)) :
    csrInstr g w len b = advancePc g len (setRd g (iRd w) (BitVec.ofNat 32 (csrRead x 0x7D2))
      (modGl g (setCsr 0x7D2 (maskedWrite (glCsr x 0x7D2) v 0x7FFF_FFFF)) c)) := by
  subst hx
  have hmask : csrMask 0x7D2 = some 0x7FFF_FFFF := rfl
  simp only [csrInstr, hn, hmask, hacc, hidx, hm, ne_eq, not_false_eq_true, and_self, if_true, not_true_eq_false, if_false]

/-- RS_CONV2 alone has a kind of its own among the CSRs. -/
theorem conv2_iff_of_csr (h : kindOfInstr w = .csr ∨ kindOfInstr w = .conv2) : kindOfInstr w = .conv2 ↔ w / 2 ^ 20 = 0x7D2 := by
  unfold kindOfInstr at *
  dsimp only at *
  split at h
  · exfalso
    split at h
    all_goals (repeat' split at h)
    all_goals simp at h
  · rename_i hop
    rw [if_neg hop]
    split at h
    · rename_i h73
      rw [if_pos h73]
      split at h
      · simp at h
      · rename_i hf3
        rw [if_neg hf3]
        split at h
        · simp at h
        · rename_i hn
          rw [if_neg hn]
          split <;> simp_all
    · simp at h

end

end Sys2Proof.Machine

open Sys2Proof Sys2Proof.Machine

/-- Settles O21: each instruction by its kind. -/
theorem rowStreams : Obligations.RowStreams := by
  unfold Obligations.RowStreams
  intro s g w len peers hits c x r1 r2 ends hon hheld hrun hput hfetch
  have hdo {i : Instr} {sel : GKind → Bool} {k : GKind} {ps : List Peer} {hs : List Strike} {c : Block} (he : exec i s = s.runMain (glInstr g sel ps hs))
      (hk : kindOfInstr w = k) (hsel : sel k = true) (hc : doInstr g k w len ps (strike hs s.blk) = c) : exec i s = s.runMain (glInstr g sel ps hs) ∧
        glInstr g sel ps hs s.blk = ends c :=
    ⟨he, hc ▸ glInstr_does s.blk rfl hheld hrun hput hfetch hk hsel⟩
  have hact {i : Instr} {sel : GKind → Bool} {ps : List Peer} {hs : List Strike} {c : Block}
      (h : exec i s = s.runMain (glInstr g sel ps hs) ∧ glInstr g sel ps hs s.blk = ends c) : Acts i s fun _ => ends c := acts_main h.1 hon h.2
  have hx (hs : List Strike) : glOf (strike hs s.blk) g = x := glOf_strike ..
  refine ⟨fun hk hopen => acts_main rfl hon ?_, fun hk => acts_main rfl hon ?_, fun isGet i hi => ?_, fun hk hr => ?_, fun hk hr => ?_, fun hk hr => ?_,
    fun hk => ?_, fun hk => ?_⟩
  · exact (hdo (i := .rsOpen g) rfl hk rfl (doInstr_rsOpen _ (hx []) rfl hopen)).2
  · exact (hdo (i := .rsNext g) rfl hk rfl (doInstr_rsNext _ (hx []))).2
  · intro b waits
    have hins := doInstr_getPut (strike hits s.blk) (len := len) (peers := []) (isGet := isGet) (hx hits) (s := r1.toNat % 4) (v := r2.toNat) (d := b) rfl rfl rfl
    have hgo {c : Block} (hc : doInstr g (if isGet then .rsGet else .rsPut) w len [] (strike hits s.blk) = c) : Acts i s fun _ => ends c := by
      rcases hi with ⟨hk, rfl, rfl⟩ | ⟨hk, rfl, rfl⟩
      · exact hact (hdo rfl hk rfl hc)
      · exact hact (hdo rfl hk rfl hc)
    refine ⟨fun h => hgo (hins.trans (if_neg ?_)), fun hr hw hc => hgo (hins.trans ((if_pos ⟨hr, hw⟩).trans (orFault_ok g len hc))),
      fun st hst hr hw hc => hgo (hins.trans ((if_pos ⟨hr, hw⟩).trans (orFault_ne g len hc hst)))⟩
    rintro ⟨hr, hw⟩
    rcases h with h | h
    · exact h hr
    · exact absurd (h.symm.trans hw) (by decide)
  · exact hact (hdo rfl hk rfl ((doInstr_rsFget _ (hx hits)).trans (orFault_ok g len hr)))
  · exact hact (hdo rfl hk rfl ((doInstr_rsFput _ (hx hits)).trans (orFault_ok g len hr)))
  · exact hact (hdo rfl hk rfl ((doInstr_rsAmo _ (hx hits)).trans (orFault_ok g len hr)))
  · intro d
    exact ⟨fun h => hact (hdo rfl hk rfl ((doInstr_rsEnd _).trans (if_neg (by simp [h, d])))), fun h =>
      hact (hdo rfl hk rfl ((doInstr_rsEnd _).trans (if_pos (isSome_putFail _ h))))⟩
  · intro d
    exact ⟨fun h => hact (hdo rfl hk rfl (rsExit_faults _ rfl h)), fun h hm => hact (hdo rfl hk rfl (rsExit_ends _ rfl h hm))⟩

namespace Sys2Proof.Machine

variable (b : Block)

/-! ### What accesses leave of health and of gleaners -/

/-- The units' own health and the gleaners. -/
def healthPart (b : Block) : SMap Nat × GlnState := (b.face.own, b.gln)

theorem healthPart_eq_iff {b c : Block} : healthPart c = healthPart b ↔ c.face.own = b.face.own ∧ c.gln = b.gln := by simp [healthPart]

@[simp] theorem healthPart_setReg (u o v : Nat) : healthPart (setReg u o v b) = healthPart b := rfl
@[simp] theorem healthPart_bump (u o n : Nat) : healthPart (bump u o n b) = healthPart b := rfl
@[simp] theorem healthPart_notify (u : Nat) (f : Field) (e : Ev) (a : Nat) : healthPart (notify u f e a b) = healthPart b :=
  healthPart_eq_iff.mpr ⟨own_notify .., (notify_frame ..).2.2.1⟩
@[simp] theorem healthPart_addrFault (i : Issuer) (a : Nat) : healthPart (addrFault i a b) = healthPart b :=
  healthPart_eq_iff.mpr ⟨own_raise .., (raise_frame ..).2.2.1⟩
@[simp] theorem healthPart_poke (a : Nat) (v : List Byte) : healthPart (poke a v b) = healthPart b := rfl
@[simp] theorem healthPart_setMark (l : Nat) (m : Option LineMark) : healthPart (setMark l m b) = healthPart b := rfl
@[simp] theorem healthPart_noteFail (l : Nat) : healthPart (noteFail l b) = healthPart b := rfl
@[simp] theorem healthPart_failElsewhere : healthPart (failElsewhere b) = healthPart b := rfl
@[simp] theorem healthPart_recordRow (pl : Place) (u : Bool) : healthPart (recordRow pl u b) = healthPart b := by
  unfold recordRow; dsimp only; (repeat' split) <;> rfl
@[simp] theorem healthPart_chargeRereads (ls : List Nat) : healthPart (chargeRereads ls b) = healthPart b := foldl_keeps _ _ _ _ (by simp)
@[simp] theorem healthPart_readOne (l : Nat) : healthPart (readOne l b).2 = healthPart b := by
  unfold readOne
  split
  · rfl
  · dsimp only
    split
    · rfl
    · simp
    · split <;> simp
    · simp
    · simp
@[simp] theorem healthPart_readLine (l : Nat) : healthPart (readLine l b).2 = healthPart b := by simp [readLine]
@[simp] theorem healthPart_writeLine (a : Nat) (v : List Byte) (t : Option Nat) (l : Nat) : healthPart (writeLine a v t l b).2 = healthPart b := by
  unfold writeLine
  dsimp only
  split
  · rfl
  · split
    · rw [healthPart_poke]; split <;> rfl
    · dsimp only; split <;> simp
@[simp] theorem healthPart_serveWrite (a : Nat) (v : List Byte) (t : Option Nat) : healthPart (serveWrite a v t b).2 = healthPart b := by
  unfold serveWrite
  dsimp only
  rw [foldl_keeps (fun (acc : Bool × Block) => healthPart acc.2) _ _ _ (by simp)]
  split <;> simp

/-- Every unit keeps its own health, and no gleaner comes to a segment, a fault or a grant it had not. -/
structure Accessed (b c : Block) : Prop where
  own : c.face.own = b.face.own
  seg : ∀ g, (glOf b g).seg = none → (glOf c g).seg = none
  failed : ∀ g, (glOf c g).failed = (glOf b g).failed

theorem Accessed.trans {b c d : Block} (h : Accessed b c) (h' : Accessed c d) : Accessed b d :=
  ⟨h'.own.trans h.own, fun g hg => h'.seg g (h.seg g hg), fun g => (h'.failed g).trans (h.failed g)⟩

theorem Accessed.of_healthPart {b c : Block} (h : healthPart c = healthPart b) : Accessed b c := by
  obtain ⟨hown, hgln⟩ := healthPart_eq_iff.mp h
  exact ⟨hown, fun g hg => by rwa [glOf_of_gln hgln], fun g => by rw [glOf_of_gln hgln]⟩

/-- An update of one gleaner that opens no segment and tells no fault. -/
theorem Accessed.modGl (g : Nat) {f : Gleaner → Gleaner} (hs : ∀ x, x.seg = none → (f x).seg = none) (hf : ∀ x, (f x).failed = x.failed) :
    Accessed b (modGl g f b) := by
  refine ⟨rfl, fun n hn => ?_, fun n => ?_⟩
  · rw [glOf_modGl]; split
    · rename_i h; exact hs _ (h ▸ hn)
    · exact hn
  · rw [glOf_modGl]; split
    · rename_i h; rw [hf, h]
    · rfl

theorem Accessed.foldl {α : Type} {f : Block → α → Block} (hf : ∀ c x, Accessed c (f c x)) (l : List α) : Accessed b (l.foldl f b) :=
  foldl_inv (Accessed b) f l b (.of_healthPart rfl) fun c x hc => hc.trans (hf c x)

theorem accessed_landPut (g : Nat) (p : Nat × List Byte × Nat) : Accessed b (landPut g p b) := by
  unfold landPut
  dsimp only
  split <;> split
  · exact .of_healthPart (by simp)
  · exact (Accessed.of_healthPart (by simp)).trans (.modGl _ g (fun _ h => h) fun _ => rfl)
  · exact .of_healthPart (by simp)
  · exact (Accessed.of_healthPart (by simp)).trans (.modGl _ g (fun _ h => h) fun _ => rfl)

theorem accessed_dropGrant (g : Nat) : Accessed b (dropGrant g b) := by
  refine ⟨rfl, fun n hn => ?_, fun n => ?_⟩
  · rw [glOf_dropGrant]; split
    · rename_i h; exact h ▸ hn
    · exact hn
  · rw [glOf_dropGrant]; split
    · rename_i h; rw [h]
    · rfl

theorem accessed_commit (g : Nat) (forced : Bool) : Accessed b (commit g forced b) := by
  unfold commit
  dsimp only
  split
  · exact .of_healthPart rfl
  · rename_i sg _
    have hputs : Accessed b (sg.puts.foldl (fun b p => landPut g p b) b) := .foldl b (fun c p => accessed_landPut c g p) _
    have hbanks (c : Block) : Accessed c (sg.banks.foldl (fun b k => refreshOwed (glChannel g) k.1 b) c) :=
      .foldl c (fun d k => .of_healthPart (by unfold refreshOwed; dsimp only; split <;> rfl)) _
    have hcount (c : Block) : Accessed c (if forced then bump (uGleaner g) Off.glnForcedLo 1 (bump (uGleaner g) Off.glnSegsLo 1 c)
        else bump (uGleaner g) Off.glnSegsLo 1 c) := .of_healthPart (by split <;> rfl)
    have hseg (c : Block) : Accessed c (modGl g (fun y => { y with seg := none }) c) := .modGl c g (fun _ _ => rfl) fun _ => rfl
    have hall := ((hputs.trans (hbanks _)).trans (hcount _)).trans (hseg _)
    split
    · exact (hall.trans (accessed_dropGrant _ g)).trans (.modGl _ g (fun _ h => h) fun _ => rfl)
    · exact hall

theorem accessed_releaseBanks (a n : Nat) : Accessed b (releaseBanks a n b) := by
  unfold releaseBanks
  split
  · exact .of_healthPart rfl
  · refine .foldl b (fun c l => ?_) _
    split
    · exact .of_healthPart rfl
    · unfold releaseBank
      split
      · exact accessed_commit ..
      · exact .of_healthPart rfl

theorem accessed_granaryAtomic (iss : Issuer) (code a v cmp : Nat) : Accessed b (granaryAtomic iss code a v cmp b).2.2 := by
  unfold granaryAtomic
  split
  · exact .of_healthPart rfl
  · dsimp only
    split
    · exact .of_healthPart rfl
    · split
      · exact .of_healthPart (by simp)
      · split
        · exact .of_healthPart (by simp)
        · rename_i n _ _ _ _
          have hread (c : Block) (u : Nat) : healthPart (readLine (a / 64) (bump u Off.grnChNarrowLo 1 c)).2 = healthPart c := by simp
          split
          · exact (accessed_releaseBanks b a n).trans (.of_healthPart (hread _ _))
          · exact (accessed_releaseBanks b a n).trans (.of_healthPart (hread _ _))

@[simp] theorem restPart_granaryAtomic (iss : Issuer) (code a v cmp : Nat) : restPart (granaryAtomic iss code a v cmp b).2.2 = restPart b := by
  unfold granaryAtomic
  split
  · rfl
  · dsimp only
    split
    · rfl
    · split
      · simp
      · split
        · simp
        · split <;> simp

/-! ### The end of a run in a fault (R242, R243, R247) -/

theorem trn_doneAdd (x : Gleaner) (u off : Nat) : (doneAdd x u off b).trn = b.trn := trn_of_restPart (restPart_granaryAtomic ..)

theorem jobFails_sweepFails (g : Nat) : jobFails (sweepFails g b) = jobFails b := by
  unfold sweepFails
  dsimp only
  split
  · exact jobFails_modJob _ _ fun _ => rfl
  · rfl

theorem jobFails_runFault (g : Nat) (s : Status) : jobFails (runFault g s b) = jobFails b := by
  unfold runFault
  dsimp only
  refine Eq.trans (jobFails_of_trn ?_) (jobFails_sweepFails b g)
  exact (trn_doneAdd ..).trans ((trn_notify ..).trans rfl)

theorem failed_runFault (g : Nat) {s : Status} (h : s ≠ .opFailed) : (glOf (runFault g s b) g).failed = none := by
  unfold runFault
  dsimp only
  rw [(accessed_dropGrant ..).failed, glOf_modGl, if_pos rfl]
  exact if_neg h

/-- A fault that is not an access's answers no more than the fault. -/
theorem runAnswered_runFault {g : Nat} {x : Gleaner} {s : Status} (hs : s ≠ .opFailed) (ht : x.launch.train = true → (trnOf b x.launch.job).failed = none) :
    runAnswered g x (runFault g s b) = runFault g s b :=
  runAnswered_runs _ (.inr (failed_runFault b g hs)) fun h => (congrFun (jobFails_runFault b g s) _).trans (ht h)

theorem forcedCommit_due {g : Nat} {sg : Segment} {k : Nat × Nat} (hseg : (glOf b g).seg = some sg) (hk : k ∈ sg.banks) (ht : k.2 + 1 ≤ b.face.time) :
    forcedCommit g b = putFault g (commit g true b) := by
  have hany : sg.banks.any (fun k => decide (k.2 + 1 ≤ b.face.time)) = true := List.any_eq_true.mpr ⟨k, hk, decide_eq_true ht⟩
  simp only [forcedCommit, hseg, hany, if_true]

/-- What a lockstep disagreement does before the run, if one is open, ends. -/
def lockstepFails (g : Nat) (b : Block) : Block :=
  setOwn (uGleaner g) hFailed (notify (uGleaner g) Fld.glnStatusLockstep .glnLockstep ((glOf b g).core.pc % 2 ^ 15) (discard g b))

theorem own_lockstepFails (g : Nat) : ownOf (lockstepFails g b) (uGleaner g) = hFailed := by rw [ownOf, lockstepFails, own_setOwn]; simp

theorem glOf_lockstepFails (g : Nat) : glOf (lockstepFails g b) g = { glOf b g with seg := none } := by
  rw [lockstepFails, glOf_of_gln (setOwn_frame ..).2.2.1, glOf_of_gln (notify_frame ..).2.2.1, discard, glOf_modGl, if_pos rfl]

theorem glLockstepCmd_idle {g : Nat} (h : (glOf b g).run = .idle) : glLockstepCmd g b = lockstepFails g b := by
  simp [glLockstepCmd, glLockstep, h, lockstepFails]

theorem glLockstepCmd_runs {g : Nat} (h : (glOf b g).run ≠ .idle) (ht : (glOf b g).launch.train = false) : glLockstepCmd g b =
    dropGrant g (modGl g (fun y => { y with run := .idle, putFail := none }) (doneAdd (glOf b g) (uStack (glStack g)) 8 (lockstepFails g b))) := by
  simp [glLockstepCmd, glLockstep, h, ht, lockstepFails]

theorem order_dropGrant_self (g : Nat) : g ∉ (grantsOf (dropGrant g b) (glStack g)).order := by rw [order_dropGrant, if_pos rfl]; simp

/-! ### Granule operations (R257 to R262) -/

section
variable {g w len f : Nat} {x : Gleaner} {peers : List Peer}

theorem doInstr_gop (hx : glOf b g = x) : doInstr g (.gop f) w len peers b =
    orFault g len (gop g f (x.core.getX (iRd w)).toNat (x.core.getX (iRs1 w)).toNat (x.core.getX (iRs2 w)).toNat b) := by subst hx; rfl

theorem doInstr_xop (hx : glOf b g = x) : doInstr g (.xop f) w len peers b = orFault g len (rsX g f (iRd w) (x.core.getX (iRs1 w)).toNat b) := by
  subst hx; rfl

theorem gop_elementwise {d a bv : Nat} (hx : glOf b g = x) (hf : f ≤ 0x0A) : gop g f d a bv b = (.ok, setGl g (setFloats d ((List.range 128).map fun i =>
    gopElem f (glCsr x 0x7CD) (glCsr x 0x7CE) ((bufFloats x a).getD i 0) ((bufFloats x bv).getD i 0) ((bufFloats x d).getD i 0)) x) b) := by
  subst hx; exact if_pos hf

theorem gop_sum {d a bv : Nat} (hx : glOf b g = x) : gop g 0x12 d a bv b = (.ok, setGl g { x with exact' := (bufFloats x a).foldl (exactAdd false) x.exact' } b) := by
  subst hx; rfl

theorem gop_sumSq {d a bv : Nat} (hx : glOf b g = x) : gop g 0x13 d a bv b = (.ok, setGl g { x with exact' := (bufFloats x a).foldl (exactAdd true) x.exact' } b) := by
  subst hx; rfl

theorem gop_amax {d a bv m : Nat} (hx : glOf b g = x) (hm : m = toF32 (amaxOf ((bufFloats x a).map f32))) : gop g 0x14 d a bv b =
    (.ok, setGl g (setCsr 0x7D7 (if (f32 (glCsr x 0x7D7)).lt (f32 m) then m else glCsr x 0x7D7) x) b) := by
  subst hx hm; rfl

theorem gop_crc {d a bv : Nat} (hx : glOf b g = x) (h : bv + 8 ≤ 512) : gop g 0x15 d a bv b =
    (.ok, setGl g (setScratch (bufAt d + bv) (leBytes 8 (crc64 (bufBytes x a))) x) b) := by
  subst hx; exact if_neg (by omega)

theorem rsX_store {rd o : Nat} (hx : glOf b g = x) (h : o + 88 ≤ scratchSize) : rsX g 1 rd o b = (.ok, setGl g (setScratch o (exactImage x.exact') x) b) := by
  subst hx; exact if_neg (by omega)

theorem rsX_add {rd o : Nat} (hx : glOf b g = x) (h : o + 88 ≤ scratchSize) : rsX g 2 rd o b =
    (.ok, setGl g { x with exact' := exactAddImage x.exact' (scratchBytes x o 88) } b) := by
  subst hx; exact if_neg (by omega)

theorem rsX_clear {rd o : Nat} (hx : glOf b g = x) : rsX g 0 rd o b = (.ok, setGl g { x with exact' := ⟨0, false, false, false⟩ } b) := by
  subst hx; rfl

theorem rsX_round {rd o : Nat} (hx : glOf b g = x) : rsX g 3 rd o b = (.ok, setRd g rd (BitVec.ofNat 32 (exactRound x.exact')) b) := by
  subst hx; rfl

theorem trn_setGl (y : Gleaner) : (setGl g y b).trn = b.trn := rfl

theorem run_setCsr (n v : Nat) : (setCsr n v x).run = x.run := rfl

theorem run_setScratch (o : Nat) (v : List Byte) : (setScratch o v x).run = x.run := rfl

theorem run_setFloats (n : Nat) (v : List Nat) : (setFloats n v x).run = x.run := rfl

/-- WIDEN leaves the run and the training engine alone. -/
theorem gWiden_leaves {d a off : Nat} {c : Block} (h : gWiden g d a off b = (.ok, c)) : (glOf c g).run = (glOf b g).run ∧ c.trn = b.trn := by
  have hcount (u lo s v : Nat) (e : Block) : (countWiden u lo s v e).gln = e.gln ∧ (countWiden u lo s v e).trn = e.trn := ⟨rfl, rfl⟩
  unfold gWiden at h
  dsimp only at h
  split at h
  · simp at h
  · split at h
    · simp at h
    · obtain ⟨-, rfl⟩ := Prod.mk.inj h
      rw [glOf_of_gln (hcount ..).1, (hcount ..).2, glOf_setGl, if_pos rfl]
      refine ⟨?_, trn_setGl ..⟩
      split
      · rw [run_setCsr, run_setFloats]
      · rw [run_setFloats]

end

end Sys2Proof.Machine

open Sys2Proof Sys2Proof.Machine

/-- Settles O22: the instruction by its kind; a forced commit and a lockstep failure by what they find. -/
theorem coreInstructions : Obligations.CoreInstructions := by
  unfold Obligations.CoreInstructions
  refine ⟨fun s g w len hits c => ?_, fun s g hon => ⟨fun sg k hseg hk ht => ?_, fun hidle => ?_, fun hrun ht => ?_⟩⟩
  · intro x hon hheld hrun hput hfetch htrn
    have hx (hs : List Strike) : glOf (strike hs s.blk) g = x := glOf_strike ..
    have hdo {sel : GKind → Bool} {k : GKind} {hs : List Strike} {c : Block}
        (hk : kindOfInstr w = k) (hsel : sel k = true) (hc : doInstr g k w len [] (strike hs s.blk) = c) :
        glInstr g sel [] hs s.blk = runAnswered g x c :=
      hc ▸ glInstr_does s.blk rfl hheld hrun hput hfetch hk hsel
    refine ⟨fun mask v hk hmask hacc => acts_main rfl hon ?_, fun v hk hacc hidx hm => acts_main rfl hon ?_, fun d m hk h73 hnext => acts_main rfl hon ?_,
      fun h => acts_main rfl hon ?_⟩
    · have hn : w / 2 ^ 20 ≠ 0x7D2 := fun hn => by rw [(conv2_iff_of_csr (.inl hk)).mpr hn] at hk; simp at hk
      refine (hdo hk rfl (csrInstr_writes (strike [] s.blk) (hx []).symm hn hmask hacc)).trans (runAnswered_runs _ (.inl ?_) htrn)
      rw [glOf_advancePc, setRd, glOf_modGl, if_pos rfl, glOf_modGl, if_pos rfl]
      exact fun h => by simp [setCsr, hx, hrun] at h
    · exact hdo hk rfl (csrInstr_merges (strike hits s.blk) (hx hits).symm ((conv2_iff_of_csr (.inr hk)).mp hk) hacc hidx hm)
    · refine (hdo hk rfl (c := setGl g { x with core := d, scratch := m } s.blk) ?_).trans (runAnswered_runs _ (.inl ?_) htrn)
      · simp only [doInstr, h73, hx, hnext, if_false]
        rfl
      · rw [glOf_setGl, if_pos rfl]; simp [hrun]
    · exact (congrArg (runAnswered g x) (runIllegal_faults s.blk rfl hrun hput hfetch h)).trans (runAnswered_runFault s.blk (by simp) htrn)
  · intro d
    have hdue := forcedCommit_due s.blk hseg hk ht
    exact ⟨fun h => acts_main rfl hon (congrArg (runAnswered g (glOf s.blk g)) (hdue.trans (putFault_of _ g h))), fun h =>
      acts_main rfl hon (congrArg (runAnswered g (glOf s.blk g)) hdue)⟩
  · have hcmd := glLockstepCmd_idle s.blk hidle
    refine answersWith_main rfl hon ?_
    have hgl : glOf (keepTally (glLockstepCmd g) s.blk) g = { glOf s.blk g with seg := none } := by
      rw [← glOf_lockstepFails s.blk g, ← hcmd]; rfl
    refine ⟨?_, by rw [hgl], by rw [hgl]; exact hidle, ?_⟩
    · exact (congrArg (fun c => ownOf c (uGleaner g)) hcmd).trans (own_lockstepFails ..)
    · exact (congrArg (fun c : Block => c.grn.mem) hcmd).trans (congrArg Granary.mem ((setOwn_frame ..).1.trans (notify_frame ..).1))
  · have hcmd := glLockstepCmd_runs s.blk hrun ht
    have hdone := accessed_granaryAtomic (lockstepFails g s.blk) ⟨uStack (glStack g), some (glOf s.blk g).launch.job, (glOf s.blk g).launch.train, false⟩ 0x02
      ((glOf s.blk g).launch.done + 8) 1 0
    have hgl : glOf (keepTally (glLockstepCmd g) s.blk) g = glOf (glLockstepCmd g s.blk) g := rfl
    refine answersWith_main rfl hon ⟨?_, ?_, ?_, ?_⟩
    · exact (congrArg (fun c => ownOf c (uGleaner g)) hcmd).trans ((congrArg (·.get 0 (uGleaner g)) hdone.own).trans (own_lockstepFails ..))
    · rw [hgl, hcmd, glOf_dropGrant, if_pos rfl, glOf_modGl, if_pos rfl]
      exact hdone.seg g (by rw [glOf_lockstepFails])
    · rw [hgl, hcmd, glOf_dropGrant, if_pos rfl, glOf_modGl, if_pos rfl]
    · exact (congrArg (fun c => g.val ∉ (grantsOf c (glStack g)).order) hcmd).mpr (order_dropGrant_self _ g)

/-- Settles O23: each operation by its code; one that only changes its own gleaner answers no more. -/
theorem granuleOperations : Obligations.GranuleOperations := by
  unfold Obligations.GranuleOperations
  intro s g w len hits c x d a bv hon hheld hrun hput hfetch htrn
  have hx (hs : List Strike) : glOf (strike hs s.blk) g = x := glOf_strike ..
  have hdo {sel : GKind → Bool} {k : GKind} {hs : List Strike} {c : Block} (hk : kindOfInstr w = k) (hsel : sel k = true)
      (hc : doInstr g k w len [] (strike hs s.blk) = c) : glInstr g sel [] hs s.blk = runAnswered g x c :=
    hc ▸ glInstr_does s.blk rfl hheld hrun hput hfetch hk hsel
  have hown {sel : GKind → Bool} {k : GKind} {y : Gleaner} (hk : kindOfInstr w = k) (hsel : sel k = true) (hy : y.run = .running)
      (hc : doInstr g k w len [] s.blk = advancePc g len (setGl g y s.blk)) : glInstr g sel [] [] s.blk = advancePc g len (setGl g y s.blk) :=
    (hdo (hs := []) hk hsel hc).trans (runAnswered_setGl s.blk hy htrn)
  have hgop {f : Nat} {y : Gleaner} (hg : gop g f d a bv s.blk = (.ok, setGl g y s.blk)) :
      doInstr g (.gop f) w len [] s.blk = advancePc g len (setGl g y s.blk) := (doInstr_gop s.blk (hx [])).trans (orFault_ok g len hg)
  have hxop {f : Nat} {y : Gleaner} (hg : rsX g f (iRd w) a s.blk = (.ok, setGl g y s.blk)) :
      doInstr g (.xop f) w len [] s.blk = advancePc g len (setGl g y s.blk) := (doInstr_xop s.blk (hx [])).trans (orFault_ok g len hg)
  refine ⟨fun f i hi hk => ?_, fun hk hc => ?_, fun hk hc => ?_, fun hk => ?_, fun hk => ?_, fun hk => ?_, fun hk hbv => ?_, fun hk => ?_, fun hk ha => ?_,
    fun hk ha => ?_, fun hk => ?_⟩
  · have hf : f ≤ 0x0A ∧ exec i s = s.runMain (glInstr g (fun k => k == .gop f) [] []) := by
      simp only [List.mem_cons, Prod.mk.injEq, List.not_mem_nil, or_false] at hi
      rcases hi with ⟨rfl, rfl⟩ | ⟨rfl, rfl⟩ | ⟨rfl, rfl⟩ | ⟨rfl, rfl⟩ | ⟨rfl, rfl⟩ | ⟨rfl, rfl⟩ | ⟨rfl, rfl⟩ | ⟨rfl, rfl⟩ | ⟨rfl, rfl⟩ | ⟨rfl, rfl⟩ | ⟨rfl, rfl⟩
      all_goals exact ⟨by decide, rfl⟩
    exact acts_main hf.2 hon (hown hk (by simp) ((run_setFloats ..).trans hrun) (hgop (gop_elementwise s.blk rfl hf.1)))
  · exact acts_main rfl hon (hdo hk rfl ((doInstr_gop _ (hx hits)).trans (orFault_ok g len hc)))
  · obtain ⟨hrun', htrn'⟩ := gWiden_leaves s.blk hc
    refine acts_main rfl hon ((hdo (hs := []) hk rfl ((doInstr_gop _ (hx [])).trans (orFault_ok g len hc))).trans (runAnswered_runs _ (.inl ?_) fun h =>
      (congrFun (jobFails_of_trn (b := s.blk) (c := advancePc g len c) htrn') _).trans (htrn h)))
    rw [glOf_advancePc]
    simp [hrun', hrun, x]
  · exact acts_main rfl hon (hown hk rfl hrun (hgop (gop_sum s.blk rfl)))
  · exact acts_main rfl hon (hown hk rfl hrun (hgop (gop_sumSq s.blk rfl)))
  · intro m
    exact acts_main rfl hon (hown hk rfl ((run_setCsr ..).trans hrun) (hgop (gop_amax s.blk rfl rfl)))
  · exact acts_main rfl hon (hown hk rfl ((run_setScratch ..).trans hrun) (hgop (gop_crc s.blk rfl hbv)))
  · exact acts_main rfl hon (hown hk rfl hrun (hxop (rsX_clear s.blk rfl)))
  · exact acts_main rfl hon (hown hk rfl ((run_setScratch ..).trans hrun) (hxop (rsX_store s.blk rfl ha)))
  · exact acts_main rfl hon (hown hk rfl hrun (hxop (rsX_add s.blk rfl ha)))
  · refine acts_main rfl hon ((hdo (hs := []) hk rfl ((doInstr_xop _ (hx [])).trans (orFault_ok g len (rsX_round s.blk rfl)))).trans
      (runAnswered_runs _ (.inl ?_) htrn))
    rw [glOf_advancePc, setRd, glOf_modGl, if_pos rfl]
    exact fun h => by simp [x, hrun] at h

end

section
/-! PROOFS. Pages: allocation, frees, page-ins, evictions and losses (R283 to R301). -/

namespace Sys2Proof.Machine

variable (b : Block)

/-! ### Allocations and frees (R283 to R296) -/

section
variable {j : Nat} {stack : Option Nat}

theorem allocate_page {p : Nat} {c : Block} (hq : overQuota b j = false) (h : takePage j stack b = some (p, c)) : allocate j false stack b = answer .ok p c := by
  simp [allocate, allocateFor, hq, h, stashGot]

theorem allocate_frame {f : Nat} {c : Block} (h : takeTensor j stack b = some (f, c)) : allocate j true stack b = answer .ok f c := by
  simp [allocate, allocateFor, h, stashGot]

theorem allocate_over (hq : overQuota b j = true) : allocate j false stack b = answer .noResource 0 b := by simp [allocate, allocateFor, hq]

theorem allocate_fails (h : takeTensor j stack b = none) (hw : fld b uCtx Fld.ctxCtrlAllocWait = 0) : allocate j true stack b =
    answer .noResource 0 (notify uCtx Fld.ctxStatusAllocFail .ctxAllocFail (j * 2 ^ 29 + 1) b) := by
  simp [allocate, allocateFor, h, hw, allocFail, stashLost, b2n]

theorem allocate_waits (h : takeTensor j stack b = none) (hw : fld b uCtx Fld.ctxCtrlAllocWait ≠ 0) : (allocate j true stack b).ctx.allocWaits =
    b.ctx.allocWaits ++ [⟨j, true, stack, b.face.time, allocStack b stack, false⟩] := by
  simp [allocate, allocateFor, h, hw, bump_frame, modCtx]

end

/-- Nothing waits for a page. -/
def NoneWaits (b : Block) : Prop := b.ctx.allocWaits = [] ∧ ∀ x ∈ b.ctx.pageIns, x.full = none

theorem noneWaits_congr {b c : Block} (h : c.ctx = b.ctx) : NoneWaits c ↔ NoneWaits b := by rw [NoneWaits, NoneWaits, h]

theorem filter_full {l : List PageIn} (h : ∀ x ∈ l, x.full = none) (p : Nat × Nat → Bool) : (l.filter fun x => x.full.any p) = [] :=
  List.filter_eq_nil_iff.mpr fun x hx => by simp [h x hx]

theorem retryAllocs_of_none (h : NoneWaits b) : retryAllocs b = b := by
  obtain ⟨hwaits, hins⟩ := h
  have hretry : retryWaits b = b := by rw [retryWaits, hwaits]; rfl
  have hnil : (b.ctx.pageIns.filter fun x => x.full.isSome) = [] := List.filter_eq_nil_iff.mpr fun x hx => by simp [hins x hx]
  rw [retryAllocs, hretry, retryPageIns, hnil]
  rfl

theorem ctx_of_restPart {b c : Block} (h : restPart c = restPart b) : c.ctx = b.ctx ∧ c.til = b.til ∧ c.face.time = b.face.time := by
  obtain ⟨⟨htil, hctx, -⟩, -, -, htime⟩ := restPart_eq_iff.mp h
  exact ⟨hctx, htil, htime⟩

@[simp] theorem restPart_freeTensor (f : Nat) : restPart (freeTensor f b) = restPart b := by
  unfold freeTensor
  dsimp only
  split
  · rfl
  · exact (restPart_setFrameEntry ..).trans rfl

/-- The one wait there is has lasted its time: it fails. -/
theorem allocExpire_one {w : AllocWait} (hw : b.ctx.allocWaits = [w]) (ht : w.since + 1000 * fld b uCtx Fld.ctxCtrlAllocWait ≤ b.face.time) :
    allocExpire b = allocFail w.job w.tensor (stashLost w.stash w.job (chargeWait w (modCtx (fun c => { c with allocWaits := [] }) b))) := by
  have hend : endWait w b = chargeWait w (modCtx (fun c => { c with allocWaits := [] }) b) := by simp [endWait, modCtx, hw]
  simp only [allocExpire, hw, List.filter_cons, ht, decide_true, if_true, List.filter_nil, List.foldl_cons, List.foldl_nil, hend]

theorem ctx_allocFail (j : Nat) (tensor : Bool) : (allocFail j tensor b).ctx = b.ctx := (notify_frame ..).2.2.2.1

theorem ctx_stashLost (p : Bool) (j : Nat) : (stashLost p j b).ctx = b.ctx := by unfold stashLost; split <;> rfl

/-- With nothing parked and no page-in waiting for a page nothing else expires. -/
theorem expire_rest (hpark : b.ctx.parked = []) (hins : ∀ x ∈ b.ctx.pageIns, x.full = none) : pageInExpire (parkedAllocExpire b) = b := by
  have hp : parkedAllocExpire b = b := by simp [parkedAllocExpire, hpark]
  rw [hp, pageInExpire, filter_full hins]
  rfl

theorem pageFreeCmd_tensor {p : Nat} (hw : NoneWaits b) (h : bitOf (frameEntry b (p / 32)) 36 = true) : pageFreeCmd p b = freeTensor (p / 32) b := by
  rw [pageFreeCmd, if_pos h, retryAllocs_of_none _ ((noneWaits_congr (ctx_of_restPart (restPart_freeTensor ..)).1).mpr hw)]

theorem pageFreeCmd_page {p : Nat} (hw : NoneWaits b) (h : bitOf (frameEntry b (p / 32)) 36 = false) :
    pageFreeCmd p b = freePage p (invalidatePage p b) := by
  rw [pageFreeCmd, if_neg (by simp [h]), retryAllocs_of_none _ ((noneWaits_congr (ctx_of_restPart (restPart_freePage (invalidatePage p b) p)).1).mpr hw)]

theorem jobUsed_freePage {p : Nat} (h37 : bitOf (frameEntry b (p / 32)) 37 = true) (ha : pageAllocated b p = true) :
    jobUsed (freePage p b) (bitsOf (frameEntry b (p / 32)) 34 32) = jobUsed b (bitsOf (frameEntry b (p / 32)) 34 32) - 1 := by
  have hlt : jobUsed b (bitsOf (frameEntry b (p / 32)) 34 32) < 2 ^ 32 := (getReg ..).isLt
  have hgo : (!bitOf (frameEntry b (p / 32)) 37 || !pageAllocated b p) = false := by simp [h37, ha]
  unfold freePage
  dsimp only
  rw [hgo, if_neg Bool.false_ne_true, jobUsed, setUsed, reg_setReg_same]
  exact Nat.mod_eq_of_lt (Nat.lt_of_le_of_lt (Nat.sub_le ..) hlt)

theorem mem_xlt_invalidate {q n t : Nat} {l : XltLine} (h : l ∈ (invalidate q n b).ctx.xlt.get [] t) : ¬ (l.queue = q ∧ l.line = n / 8) := by
  have hmap (m : SMap (List XltLine)) (hl : l ∈ SMap.get (m.map fun e => (e.1, e.2.filter fun l => !(l.queue == q && l.line == n / 8))) [] t) :
      ¬ (l.queue = q ∧ l.line = n / 8) := by
    induction m with
    | nil => simp at hl
    | cons e m ih =>
      simp only [List.map_cons, SMap.get, SMap.find] at hl ih
      split at hl
      · have hkept := (List.mem_filter.mp hl).2
        exact fun ⟨hq, hn⟩ => by simp [hq, hn] at hkept
      · exact ih hl
  exact hmap b.ctx.xlt h

/-! ### Page-ins, evictions and lost pages (R295 to R301) -/

theorem time_touchQueue (q : Nat) : (touchQueue q b).face.time = b.face.time := by
  have hread (a n : Nat) : (granaryRead ctxIssuer a n b).2.2.face.time = b.face.time := (ctx_of_restPart (restPart_granaryRead ..)).2.2
  have hfold (l : List (Nat × List Byte)) (c : Block) :
      (l.foldl (fun b c => (granaryWrite ctxIssuer (qAddr b c.1) c.2 none b).2) c).face.time = c.face.time :=
    foldl_keeps (fun c : Block => c.face.time) _ l c fun d x => (ctx_of_restPart (restPart_granaryWrite ..)).2.2
  unfold touchQueue
  dsimp only
  split
  · rw [if_neg (by simp), hfold]
    rfl
  · split
    · exact hread ..
    · rw [hfold]
      exact hread ..

theorem time_useQueue (q : Nat) {c : Block} (h : useQueue q b = (true, c)) : c.face.time = b.face.time := by
  have htouch : (if queueBase b = 0 then b else touchQueue q b).face.time = b.face.time := by
    split
    · rfl
    · exact time_touchQueue ..
  unfold useQueue at h
  dsimp only at h
  generalize (if queueBase b = 0 then b else touchQueue q b) = d at h htouch
  split at h
  · simp at h
  · rw [← (Prod.mk.inj h).2]
    exact htouch

section
variable {q n : Nat} {c : Block}

section
variable {peer : Status × List Byte} (huse : useQueue q b = (true, c)) (htype : qType c q = 1) (hn : n < qPtLen c q) (hv : ptValid (ptGet c q n) = true)
include huse htype hn hv

theorem pageInCmd_exported (hloc : ptLoc (ptGet c q n) = 2) : pageInCmd q n peer b = hostPageIn q n (ptGen (ptGet c q n)) c := by
  have hgo : (false || qType c q != 1 || decide (qPtLen c q ≤ n)) = false := by simp [htype, hn]
  simp only [pageInCmd, huse, Bool.not_true, hgo, hv, hloc, Bool.false_eq_true, if_false]

theorem pageInCmd_atPeer (hloc : ptLoc (ptGet c q n) = 1) (hfree : ∀ x ∈ c.ctx.pageIns, ¬ (x.queue = q ∧ x.page = n)) (hpeer : peer.1 = .ok) :
    pageInCmd q n peer b = landPage ⟨q, n, 0, c.face.time, [(0, peer.2)], none⟩
      (modCtx (fun x => { x with pageIns := x.pageIns ++ [⟨q, n, 0, c.face.time, [(0, peer.2)], none⟩] })
        (peerPage (qJob c q) (ptRank (ptGet c q n)) (ptPage (ptGet c q n)) false [] c)) := by
  have hgo : (false || qType c q != 1 || decide (qPtLen c q ≤ n)) = false := by simp [htype, hn]
  have hany : (c.ctx.pageIns.any fun p => p.queue = q ∧ p.page = n) = false := List.any_eq_false.mpr fun x hx => by simpa using hfree x hx
  simp only [pageInCmd, huse, Bool.not_true, hgo, hv, hloc, hany, hpeer, Bool.false_eq_true, if_false, ne_eq, not_true_eq_false] <;> rfl

end

/-- A page that has come from a peer is installed, and freed there. -/
theorem landPage_fromPeer {p : PageIn} {d : Block} (hfull : p.full = none)
    (h : installPage p.queue p.page (p.chunks.flatMap (·.2)) b = (true, d)) (hloc : ptLoc (ptGet b p.queue p.page) = 1) :
    landPage p b = dropPageIn p.queue p.page (peerPage (qJob d p.queue) (ptRank (ptGet b p.queue p.page)) (ptPage (ptGet b p.queue p.page)) true [] d) := by
  simp only [landPage, h, hfull, hloc, if_true]

theorem hostTimeout_over {p : PageIn} (hp : (b.ctx.pageIns.find? fun p => p.queue = q ∧ p.page = n) = some p) (hfull : p.full = none)
    (ht : p.since + max 1 (fld b uCtx Fld.ctxCtrlHostTmo) * 10000 ≤ b.face.time) :
    hostTimeout q n b = dropPageIn q n (failParked (fun x => x.queue = q ∧ x.page = n) b) := by
  simp only [hostTimeout, hp, hfull, ht, Option.isNone_none, and_self, if_true]

/-- With no round of evictions running one begins with the session used longest ago. -/
theorem autoEvict_begins {j e w : Nat} {peer : Option Nat} {d : Block} (hw : w = fld b uCtx Fld.ctxJobEvictLowater j * 16) (h0 : w ≠ 0)
    (hnone : b.ctx.evicting.find j = none) (hlow : jobQuota b j - jobUsed b j < w) (hd : d = evictLow j b) (hold : oldestSession d j [] = some q)
    (hfirst : firstFrom (entryQualifies d q) (qPtLen d q) 0 = some e) :
    autoEvict j peer b = beginEvict q e (flag d uCtx Fld.ctxJobEvictExport j) (fld d uCtx Fld.ctxJobEvictRank j) peer
      (modCtx (fun c => { c with evicting := c.evicting.put j ⟨q, 1, []⟩ }) d) := by
  subst hw hd
  have hnot : ¬ fld b uCtx Fld.ctxJobEvictLowater j * 16 ≤ jobQuota b j - jobUsed b j := by omega
  have hnot2 : ¬ 2 * (fld b uCtx Fld.ctxJobEvictLowater j * 16) ≤ jobQuota b j - jobUsed b j := by omega
  simp only [autoEvict, h0, hnone, hnot, hnot2, hold, hfirst, Option.isNone_none, decide_false, Bool.and_false, Bool.false_and, Bool.false_eq_true, if_false,
    Option.getD_none, Nat.lt_irrefl]

theorem peerCopyDone_done {m : Move} (hm : (b.ctx.moves.find? fun m => m.queue = q ∧ m.page = n) = some m) (hp : m.peer.isSome = true) :
    peerCopyDone q n b = sendPages (settleCloses (evictDone q n b)) := by
  have hmem := List.mem_of_find?_eq_some hm
  have hsel : m.queue = q ∧ m.page = n := by simpa using List.find?_some hm
  exact if_pos (List.any_eq_true.mpr ⟨m, hmem, by simp [hsel, hp]⟩)

theorem exportTimeout_over {m : Move} (hm : (b.ctx.moves.find? fun m => m.queue = q ∧ m.page = n ∧ m.peer = none) = some m)
    (ht : m.since + max 1 (fld b uCtx Fld.ctxCtrlHostTmo) * 10000 ≤ b.face.time) : exportTimeout q n b = exportFailed q n b := by
  simp only [exportTimeout, hm, ht, if_true]

theorem peerPageLost_lost {r : Nat} (htype : qType b q = 1) (hn : n < qPtLen b q) (hv : ptValid (ptGet b q n) = true) (hloc : ptLoc (ptGet b q n) = 1)
    (hr : ptRank (ptGet b q n) = r) : peerPageLost q r b = settleCloses (pageLost q b) :=
  if_pos (by
    rw [Bool.and_eq_true]
    exact ⟨by simp [htype], List.any_eq_true.mpr ⟨n, List.mem_range.mpr hn, by simp [hv, hloc, hr]⟩⟩)

end

end Sys2Proof.Machine

open Sys2Proof Sys2Proof.Machine

/-- Settles O25: allocations by what the search gives, frees and expiries where nothing else waits. -/
theorem allocationsAndFrees : Obligations.AllocationsAndFrees := by
  unfold Obligations.AllocationsAndFrees
  refine ⟨fun s j stack hon => ⟨fun p c hq h => acts_main rfl hon (allocate_page _ hq h), fun f c h => acts_main rfl hon (allocate_frame _ h),
    fun hq => acts_main rfl hon (allocate_over _ hq), fun h hw => acts_main rfl hon (allocate_fails _ h hw), fun h hw =>
      answersWith_main rfl hon (allocate_waits _ h hw)⟩, fun s p q n hon => ⟨fun w hw hpark hins ht => acts_main rfl hon ?_,
        fun hw hins h => acts_main rfl hon (pageFreeCmd_tensor _ ⟨hw, hins⟩ h), fun hw hins h36 h37 ha hret => ?_, ?_⟩⟩
  · have hctx : (allocExpire s.blk).ctx = { s.blk.ctx with allocWaits := [] } := by
      rw [allocExpire_one s.blk hw ht, ctx_allocFail, ctx_stashLost]; rfl
    refine congrArg settleCloses (Eq.trans ?_ (allocExpire_one s.blk hw ht))
    exact expire_rest _ (by rw [hctx]; exact hpark) (by rw [hctx]; exact hins)
  · have hfree := pageFreeCmd_page s.blk ⟨hw, hins⟩ h36
    obtain ⟨hctx, htil, -⟩ := ctx_of_restPart (restPart_freePage (invalidatePage p s.blk) p)
    refine answersWith_main rfl hon ⟨?_, ?_, ?_⟩
    · exact (congrArg (jobUsed · _) hfree).trans (jobUsed_freePage (invalidatePage p s.blk) h37 ha)
    · exact (congrArg Block.ctx hfree).trans hctx
    · exact (congrArg Block.til hfree).trans htil
  · exact answersWith_main rfl hon ⟨fun t l hl => mem_xlt_invalidate s.blk hl, rfl, rfl⟩

/-- Settles O27: each move by the entry, the page-in or the copy it finds. -/
theorem pageMoves : Obligations.PageMoves := by
  unfold Obligations.PageMoves
  refine fun s q n c hon => ⟨fun st data huse htype hn hv => ⟨fun hloc => acts_main rfl hon (congrArg sendPages ?_), fun d hloc hfree hins =>
      acts_main rfl hon (congrArg sendPages ?_)⟩, fun p hp hfull ht => acts_main rfl hon (congrArg settleCloses (hostTimeout_over _ hp hfull ht)), ?_,
    fun m hm hp => acts_main rfl hon (peerCopyDone_done _ hm hp), fun m hm ht => acts_main rfl hon (exportTimeout_over _ hm ht),
    fun r htype hn hv hloc hr => acts_main rfl hon (peerPageLost_lost _ htype hn hv hloc hr)⟩
  · exact pageInCmd_exported _ huse htype hn hv hloc
  · rw [pageInCmd_atPeer _ huse htype hn hv hloc hfree rfl, time_useQueue _ _ huse]
    exact landPage_fromPeer _ rfl (by simpa using hins) hloc
  · intro j peer e w h0 hnone hlow d hold hfirst
    exact acts_main rfl hon (congrArg sendPages (autoEvict_begins _ rfl h0 hnone hlow rfl hold hfirst))

end

section
/-! PROOFS. Batches and lending (R304 to R313, R461). -/

namespace Sys2Proof.Machine

variable (b : Block)

/-! ### A write changes no byte outside its range -/

theorem byteAt_writeLine_outside {a l x : Nat} {v : List Byte} {tag : Option Nat} (hx : x < a ∨ a + v.length ≤ x) :
    byteAt (writeLine a v tag l b).2 x = byteAt b x := by
  have hout (c : Block) : byteAt (poke (max a (64 * l)) ((v.drop (max a (64 * l) - a)).take (min (a + v.length) (64 * l + 64) - max a (64 * l))) c) x =
      byteAt c x := by rw [byteAt_poke_share, if_neg (by omega)]
  unfold writeLine
  dsimp only
  split
  · rfl
  · split
    · rw [hout]; split <;> exact byteAt_of_mem rfl x
    · dsimp only
      split
      · rw [hout]; exact byteAt_of_mem (readOne_mem ..) x
      · exact byteAt_of_mem (readOne_mem ..) x

theorem byteAt_serveWrite_outside {a x : Nat} {v : List Byte} {tag : Option Nat} (hx : x < a ∨ a + v.length ≤ x) :
    byteAt (serveWrite a v tag b).2 x = byteAt b x := by
  unfold serveWrite
  dsimp only
  refine (foldl_keeps (fun (acc : Bool × Block) => byteAt acc.2 x) _ _ _ (by
    intro acc l; exact byteAt_writeLine_outside acc.2 hx)).trans ?_
  refine (byteAt_of_mem (chargeRereads_mem ..) x).trans ?_
  split <;> rfl

/-- Where no gleaner has a segment open a granary write changes its own bytes at most. -/
theorem byteAt_granaryWrite_outside {iss : Issuer} {a x : Nat} {v : List Byte} {tag : Option Nat} (hseg : anySegment b = false)
    (hx : x < a ∨ a + v.length ≤ x) : byteAt (granaryWrite iss a v tag b).2 x = byteAt b x := by
  unfold granaryWrite
  split
  · rfl
  · split
    · exact byteAt_of_mem (addrFault_mem ..) x
    · rw [releaseBanks_idle a _ b hseg]
      exact byteAt_serveWrite_outside b hx

/-! ### Lending (R310 to R313) -/

theorem lendOf_setLend (t n : Nat) (l : Lend) : lendOf (setLend t l b) n = if n = t then l else lendOf b n := by
  by_cases h : n = t <;> simp [lendOf, setLend, modCtx, h]

theorem lendOf_of_ctx {b c : Block} (h : c.ctx = b.ctx) (t : Nat) : lendOf c t = lendOf b t := by rw [lendOf, lendOf, h]

theorem tileOf_setLend (t n : Nat) (l : Lend) : tileOf (setLend t l b) n = tileOf b n := rfl

/-- The bytes of a tile's save area. -/
def saveBytes (b : Block) : List Byte := (List.range 0x1_2000).map fun i => BitVec.ofNat 8 (Config.freeValue (b.face.free + i))

theorem length_saveBytes : (saveBytes b).length = 0x1_2000 := (List.length_map ..).trans List.length_range

/-- The block after the free values of a save area have been drawn. -/
def drawnSave (b : Block) : Block := { b with face := { b.face with free := b.face.free + 0x1_2000 } }

theorem saveArea_eq (t : Nat) : saveArea t b = if pair b uCtx Off.ctxSaveLo = 0 then b else
    (granaryWrite ctxIssuer (pair b uCtx Off.ctxSaveLo + 0x1_2000 * t) (saveBytes b) none (drawnSave b)).2 := rfl

theorem til_saveArea (t : Nat) : (saveArea t b).til = b.til ∧ (saveArea t b).ctx = b.ctx := by
  rw [saveArea_eq]
  generalize saveBytes b = v
  split
  · exact ⟨rfl, rfl⟩
  · obtain ⟨hctx, htil, -⟩ := ctx_of_restPart (restPart_granaryWrite (drawnSave b) ctxIssuer (pair b uCtx Off.ctxSaveLo + 0x1_2000 * t) v none)
    exact ⟨htil, hctx⟩

/-- A save writes in its tile's area alone. -/
theorem byteAt_saveArea {t a : Nat} (hseg : anySegment b = false) (h : pair b uCtx Off.ctxSaveLo = 0 ∨ a < pair b uCtx Off.ctxSaveLo + 0x1_2000 * t ∨
    pair b uCtx Off.ctxSaveLo + 0x1_2000 * (t + 1) ≤ a) : byteAt (saveArea t b) a = byteAt b a := by
  have hlen := length_saveBytes b
  rw [saveArea_eq]
  generalize saveBytes b = v at hlen
  split
  · rfl
  · exact byteAt_granaryWrite_outside (drawnSave b) hseg (by rw [hlen]; omega)

/-- What a save keeps of the stream (R311). -/
def keptStream (b : Block) (t : Nat) : Saved := ⟨{ tileOf b t with stream := .suspended }, savedOffsets.map fun o => (o, getReg b (uTile t) o)⟩

/-- The tile a save leaves to the serving job. -/
def lentTile (x : Tile) : Tile := { Tile.init with
  acc := x.acc, slot0 := x.slot0, slot1 := x.slot1, thrStopped := x.thrStopped, resOver := x.resOver, lockstep := x.lockstep, held := x.held }

section
variable {t : Nat}

theorem borrowSaved_stopped (hs : (lendOf b t).state = .saving) (hrun : (tileOf b t).stream ≠ .running) :
    borrowSaved t b = setLend t { lendOf b t with state := .home, due := false } b := by
  simp [borrowSaved, hs, hrun]

theorem borrowSaved_lends (hs : (lendOf b t).state = .saving) (hrun : (tileOf b t).stream = .running) (hdue : (lendOf b t).due = false) :
    borrowSaved t b = bump uCtx Off.ctxBorrowLo 1 (setLend t { lendOf b t with state := .lent, lends := (lendOf b t).lends + 1 }
      (setTile t (lentTile (tileOf b t)) (modCtx (fun c => { c with saved := c.saved.put t (keptStream b t) }) (saveArea t b)))) := by
  simp only [borrowSaved, hs, hrun, hdue, ne_eq, not_true_eq_false, if_false, Bool.false_eq_true]
  rfl

theorem budgetExpire_over (h0 : (lendOf b t).budget ≠ 0) (ht : (lendOf b t).since + (lendOf b t).budget ≤ b.face.time) : budgetExpire t b = reclaim t b :=
  if_pos ⟨h0, ht⟩

theorem reclaim_saving (hs : (lendOf b t).state = .saving) : reclaim t b = setLend t { lendOf b t with due := true } b := by simp [reclaim, hs]

/-- The tile is to come back (R312). -/
def reclaiming (t : Nat) (b : Block) : Block := setLend t { lendOf b t with state := .reclaiming, trigger := b.face.time, due := false } b

theorem reclaim_lent (hs : (lendOf b t).state = .lent) (hnone : (b.ctx.batches.find? fun x => x.tiles.contains t) = none) :
    reclaim t b = lendSettle t (if (tileOf b t).stream = .running
      then cancelWaiting t (modTile t (fun x => { x with stream := .stopping }) (reclaiming t b)) else reclaiming t b) := by
  unfold reclaim
  dsimp only
  rw [if_neg (by simp [hs]), if_neg (by simp [hs])]
  split
  · rename_i h
    exact absurd (h.symm.trans hnone) (by simp)
  · rfl

/-- The tile of a stream that goes on after a reclaim. -/
def restoredTile (sv : Saved) (x : Tile) : Tile := { sv.tile with
  slot0 := none, slot1 := none, thrStopped := x.thrStopped, resOver := x.resOver, lockstep := x.lockstep, held := [],
  stream := if x.lockstep then .faulted else .running }

/-- The end of a restore: the tile is home again, and a late one is told (R313). -/
def restored (t trigger : Nat) (l : Lend) (b : Block) : Block :=
  let c := setLend t { l with state := .home, stop := false } (modCtx (fun c => { c with saved := c.saved.drop t }) b)
  if 200 < b.face.time - trigger then
    notify uCtx Fld.ctxStatusReclaimLate .ctxReclaimLate (t * 2 ^ 24 + min 0xFFFF (b.face.time - trigger)) (bump uCtx Off.ctxReclaimLateLo 1 c)
  else c

theorem restored_leaves (trigger : Nat) (l : Lend) : (restored t trigger l b).til = b.til ∧ lendOf (restored t trigger l b) t = { l with state := .home, stop := false } := by
  unfold restored
  dsimp only
  split
  · exact ⟨(notify_frame ..).2.1, (lendOf_of_ctx (notify_frame ..).2.2.2.1 t).trans ((lendOf_setLend ..).trans (if_pos rfl))⟩
  · exact ⟨rfl, (lendOf_setLend ..).trans (if_pos rfl)⟩

theorem reclaimDone_restores {sv : Saved} (hs : (lendOf b t).state = .restoring) (hsv : b.ctx.saved.find t = some sv) (hops : (tileOf b t).ops = [])
    (hheld : (tileOf b t).held = []) : ∃ c, tileOf c t = restoredTile sv (tileOf b t) ∧
      reclaimDone t b = restored t (lendOf b t).trigger (lendOf b t) (if (lendOf b t).stop && (tileOf c t).stream == .running
        then cancelWaiting t (modTile t (fun x => { x with stream := .stopping }) c) else c) := by
  refine ⟨dropRows t (sv.regs.foldl (fun b r => setReg (uTile t) r.1 r.2.toNat b) (setTile t (restoredTile sv (tileOf b t)) b)), ?_, ?_⟩
  · have htil : (sv.regs.foldl (fun b r => setReg (uTile t) r.1 r.2.toNat b) (setTile t (restoredTile sv (tileOf b t)) b)).til =
        (setTile t (restoredTile sv (tileOf b t)) b).til := foldl_keeps Block.til _ _ _ fun _ _ => rfl
    exact (tileOf_of_til (c := dropRows t _) htil t).trans ((tileOf_setTile ..).trans (if_pos rfl))
  · simp only [reclaimDone, hs, hsv, hops, hheld, List.isEmpty_nil, Bool.not_true, Bool.false_eq_true, if_false, List.foldl_nil]
    rfl

end

/-! ### Batches (R304 to R308) -/

theorem batches_qPut (q off : Nat) (v : List Byte) : (qPut q off v b).ctx.batches = b.ctx.batches ∧ (qPut q off v b).face.time = b.face.time := by
  unfold qPut
  split
  · exact ⟨rfl, rfl⟩
  · split
    · exact ⟨rfl, rfl⟩
    · obtain ⟨hctx, -, htime⟩ := ctx_of_restPart (restPart_tablePut b (qAddr b q + off) v)
      exact ⟨congrArg Ctx.batches hctx, htime⟩

theorem time_touched (qs : List Nat) : (qs.foldl (fun b q => touchQueue q b) b).face.time = b.face.time :=
  foldl_keeps (fun c : Block => c.face.time) _ qs b fun c q => time_touchQueue c q

theorem batches_touchQueue (q : Nat) : (touchQueue q b).ctx.batches = b.ctx.batches := by
  have hfold (l : List (Nat × List Byte)) (c : Block) :
      (l.foldl (fun b c => (granaryWrite ctxIssuer (qAddr b c.1) c.2 none b).2) c).ctx = c.ctx :=
    foldl_keeps Block.ctx _ l c fun d x => (ctx_of_restPart (restPart_granaryWrite ..)).1
  have hread (a n : Nat) : (granaryRead ctxIssuer a n b).2.2.ctx = b.ctx := (ctx_of_restPart (restPart_granaryRead ..)).1
  unfold touchQueue
  dsimp only
  split
  · rw [if_neg (by simp), hfold]
    rfl
  · split
    · rw [hread]
    · rw [hfold]
      change (granaryRead ctxIssuer (qAddr b q) 64 b).2.2.ctx.batches = _
      rw [hread]

theorem time_scanned (qs : List Nat) : (qs.foldl (fun b q => if qEnabled b q && qBad b q then (useQueue q b).2 else b) b).face.time = b.face.time := by
  refine foldl_keeps (fun c : Block => c.face.time) _ qs b fun c q => ?_
  split
  · have htouch : (if queueBase c = 0 then c else touchQueue q c).face.time = c.face.time := by
      split
      · rfl
      · exact time_touchQueue ..
    unfold useQueue
    dsimp only
    generalize (if queueBase c = 0 then c else touchQueue q c) = d at htouch ⊢
    split
    · exact (notify_time ..).trans ((batches_qPut ..).2.trans htouch)
    · exact htouch
  · rfl

theorem time_scanQueues : (scanQueues b).face.time = b.face.time := by
  unfold scanQueues
  exact time_scanned b _

theorem startStream_leaves (t : Nat) : (startStream t b).ctx.batches = b.ctx.batches ∧
    ∀ n, (tileOf (startStream t b) n).stream = if n = t then .running else (tileOf b n).stream := by
  refine ⟨rfl, fun n => ?_⟩
  rw [startStream, tileOf_of_til (setReg_frame ..).2.1, tileOf_modTile]
  split <;> rfl

/-- The map of a batch's tiles, by rank in the group. -/
def storeLmap (u : Nat) (tiles : List Nat) (b : Block) : Block := (List.range 16).foldl (fun b w => setReg u (Off.tilLmap w)
  ((List.range 4).foldl (fun acc k => match tiles.drop (4 * w + k) with
    | x :: _ => acc + (0x80 + x) * 2 ^ (8 * k)
    | [] => acc) 0) b) b

theorem storeLmap_leaves (u : Nat) (tiles : List Nat) : (storeLmap u tiles b).ctx = b.ctx ∧ (storeLmap u tiles b).til = b.til :=
  ⟨foldl_keeps Block.ctx _ _ b fun _ _ => (setReg_frame ..).2.2.2.1, foldl_keeps Block.til _ _ b fun _ _ => (setReg_frame ..).2.1⟩

theorem startTile_eq (j num i : Nat) (tiles : List Nat) (prog len t : Nat) : ∃ ident seed, startTile j num i tiles prog len t b =
    startStream t (setReg (uTile t) Off.tilProgLen len (setReg (uTile t) Off.tilProgHi (prog / 2 ^ 32) (setReg (uTile t) Off.tilProgLo prog
      (storeLmap (uTile t) tiles (setReg (uTile t) Off.tilSeed seed (setReg (uTile t) Off.tilStep num (clearTokens t (setReg (uTile t) Off.tilIdent ident b)))))))) :=
  ⟨_, _, rfl⟩

theorem startTile_leaves (j num i : Nat) (tiles : List Nat) (prog len t : Nat) : (startTile j num i tiles prog len t b).ctx.batches = b.ctx.batches ∧
    ∀ n, (tileOf (startTile j num i tiles prog len t b) n).stream = if n = t then .running else (tileOf b n).stream := by
  have hstart (c d : Block) (hctx : c.ctx = d.ctx) (htil : c.til = (clearTokens t d).til) : (startStream t c).ctx.batches = d.ctx.batches ∧
      ∀ n, (tileOf (startStream t c) n).stream = if n = t then .running else (tileOf d n).stream := by
    obtain ⟨hb, hs⟩ := startStream_leaves c t
    refine ⟨hb.trans (by rw [hctx]), fun n => (hs n).trans ?_⟩
    split
    · rfl
    · rename_i hn
      rw [tileOf_of_til htil, clearTokens, tileOf_modTile, if_neg hn]
  obtain ⟨ident, seed, heq⟩ := startTile_eq b j num i tiles prog len t
  rw [heq]
  refine hstart _ b ?_ ?_
  · simp only [(setReg_frame _ _ _ _).2.2.2.1, (storeLmap_leaves _ _ _).1]
    rfl
  · simp only [(setReg_frame _ _ _ _).2.1, (storeLmap_leaves _ _ _).2]
    rfl

section
variable {j : Nat}

/-- A batch with its record written and its queues marked, before its tiles start. -/
theorem dispatch_eq {c : Block} {tiles qs : List Nat} (hc : c = scanQueues b) (ht : tiles = ((List.range 64).filter (groupTile c j)).take (groupSize c j))
    (hq : qs = (readyOrder c j).take (batchMax c j)) (hgo : (!flag b uCtx Fld.ctxJobCtrlValid j || slotTrains b j ||
      decide (16 ≤ (b.ctx.batches.filter (·.job == j)).length)) = false) (hfull : ¬ (tiles.length < groupSize c j ∨ qs = [])) :
    ∃ a v prog len, dispatch j b = tiles.zipIdx.foldl (fun b p => startTile j (c.ctx.nextBatch.get 0 j) p.2 tiles prog len p.1 b)
      (let d := qs.foldl (fun b q => modCtx (fun c => { c with lastAt := c.lastAt.put (j * 16 + qPrio b q) q }) b)
        (granaryWrite ctxIssuer a v none (qs.foldl (fun b q => touchQueue q b) c)).2
       modCtx (fun x => { x with
        batches := x.batches ++ [⟨j, c.ctx.nextBatch.get 0 j, qs.map fun q => (q, qCons c q), tiles, d.face.time⟩]
        nextBatch := x.nextBatch.put j ((c.ctx.nextBatch.get 0 j + 1) % 2 ^ 32) }) d) := by
  subst ht hq
  unfold dispatch
  dsimp only
  rw [hgo, if_neg Bool.false_ne_true, ← hc, if_neg hfull]
  exact ⟨_, _, _, _, rfl⟩

theorem lastAt_leaves (qs : List Nat) : (qs.foldl (fun b q => modCtx (fun c => { c with lastAt := c.lastAt.put (j * 16 + qPrio b q) q }) b) b).ctx.batches =
    b.ctx.batches ∧ (qs.foldl (fun b q => modCtx (fun c => { c with lastAt := c.lastAt.put (j * 16 + qPrio b q) q }) b) b).face.time = b.face.time :=
  ⟨foldl_keeps (fun c : Block => c.ctx.batches) _ qs b fun _ _ => rfl, foldl_keeps (fun c : Block => c.face.time) _ qs b fun _ _ => rfl⟩

theorem recordWritten_leaves (a : Nat) (v : List Byte) (qs : List Nat) :
    (granaryWrite ctxIssuer a v none (qs.foldl (fun b q => touchQueue q b) b)).2.ctx.batches = b.ctx.batches ∧
      (granaryWrite ctxIssuer a v none (qs.foldl (fun b q => touchQueue q b) b)).2.face.time = b.face.time := by
  obtain ⟨hctx, -, htime⟩ := ctx_of_restPart (restPart_granaryWrite (qs.foldl (fun b q => touchQueue q b) b) ctxIssuer a v none)
  refine ⟨?_, htime.trans (time_touched b qs)⟩
  rw [hctx]
  exact foldl_keeps (fun c : Block => c.ctx.batches) _ qs b fun c q => batches_touchQueue c q

/-- A batch of a serving job goes to the sessions that are ready and the tiles of the group. -/
theorem dispatch_starts {c : Block} {tiles qs : List Nat} (hc : c = scanQueues b) (ht : tiles = ((List.range 64).filter (groupTile c j)).take (groupSize c j))
    (hq : qs = (readyOrder c j).take (batchMax c j)) (hgo : (!flag b uCtx Fld.ctxJobCtrlValid j || slotTrains b j ||
      decide (16 ≤ (b.ctx.batches.filter (·.job == j)).length)) = false) (hfull : ¬ (tiles.length < groupSize c j ∨ qs = [])) :
    (dispatch j b).ctx.batches = c.ctx.batches ++ [⟨j, c.ctx.nextBatch.get 0 j, qs.map fun q => (q, qCons c q), tiles, b.face.time⟩] ∧
      ∀ t ∈ tiles, (tileOf (dispatch j b) t).stream = .running := by
  obtain ⟨a, v, prog, len, heq⟩ := dispatch_eq b hc ht hq hgo hfull
  obtain ⟨hb1, ht1⟩ := recordWritten_leaves c a v qs
  obtain ⟨hb2, ht2⟩ := lastAt_leaves (granaryWrite ctxIssuer a v none (qs.foldl (fun b q => touchQueue q b) c)).2 (j := j) qs
  rw [heq]
  refine ⟨?_, fun t hmem => ?_⟩
  · refine (foldl_keeps (fun c : Block => c.ctx.batches) _ _ _ fun c p => (startTile_leaves c ..).1).trans ?_
    rw [← time_scanQueues b, ← hc, ← ht1, ← ht2, ← hb1, ← hb2]
    rfl
  · obtain ⟨i, hi⟩ : ∃ i, (t, i) ∈ tiles.zipIdx := by
      obtain ⟨i, hlt, rfl⟩ := List.mem_iff_getElem.mp hmem
      exact ⟨i, List.mk_mem_zipIdx_iff_getElem?.mpr (List.getElem?_eq_getElem hlt)⟩
    exact foldl_establishes (p := fun (p : Nat × Nat) d => (tileOf d p.1).stream = .running)
      (fun d p => ((startTile_leaves d ..).2 p.1).trans (if_pos rfl))
      (fun d p n h => ((startTile_leaves d ..).2 n.1).trans (by split <;> simp [h])) _ _ (t, i) hi

end

end Sys2Proof.Machine

open Sys2Proof Sys2Proof.Machine

/-- Settles O28: the batch by its dispatch and its tiles, the loan by its state. -/
theorem batchesAndLending : Obligations.BatchesAndLending := by
  unfold Obligations.BatchesAndLending
  refine ⟨fun s j num hon => ⟨fun hrun hdev hvalid hserve hroom => ?_, fun x hx => ⟨fun hf => acts_main rfl hon (congrArg (settleStop j) ?_),
      fun he => acts_main rfl hon (congrArg (settleStop j) ?_)⟩⟩,
    fun s t hon => ⟨fun hs hrun => acts_main rfl hon (borrowSaved_stopped _ hs hrun), fun hs hrun hdue hseg => ?_,
      fun h0 ht => acts_main rfl hon (budgetExpire_over _ h0 ht), fun hs hnone => ?_, fun hs => acts_main rfl hon (reclaim_saving _ hs),
      fun sv hs hsv hops hheld hlock => ?_⟩⟩
  · intro b htiles hready
    have hcmd : dispatchCmd j s.blk = dispatch j s.blk := if_pos ⟨hrun, hdev⟩
    have hgo : (!flag s.blk uCtx Fld.ctxJobCtrlValid j || slotTrains s.blk j || decide (16 ≤ (s.blk.ctx.batches.filter (·.job == j.val)).length)) = false := by
      simp [hvalid, hserve, hroom]
    have hmax : 0 < batchMax b j := by unfold batchMax; dsimp only; split <;> omega
    have hfull : ¬ ((((List.range 64).filter (groupTile b j)).take (groupSize b j)).length < groupSize b j ∨ (readyOrder b j).take (batchMax b j) = []) := by
      rw [List.length_take, List.take_eq_nil_iff]
      rintro (h | h | h)
      · omega
      · omega
      · exact hready h
    obtain ⟨hb, ht⟩ := dispatch_starts s.blk (c := b) rfl rfl rfl hgo hfull
    rw [← hcmd] at hb ht
    exact answersWith_main rfl hon ⟨hb, ht⟩
  · have hany : (x.tiles.any fun t => (tileOf s.blk t).stream == .faulted) = true := by simpa using hf
    simp only [batchEnd, hx, hany, if_true]
  · have hany : (x.tiles.any fun t => (tileOf s.blk t).stream == .faulted) = false := List.any_eq_false.mpr fun t ht => by simp [he t ht]
    have hall : (x.tiles.all fun t => (tileOf s.blk t).stream == .ended) = true := List.all_eq_true.mpr fun t ht => by simp [he t ht]
    simp only [batchEnd, hx, hany, hall, Bool.false_eq_true, if_false, if_true]
  · have hlends := borrowSaved_lends s.blk hs hrun hdue
    obtain ⟨htil, hctx⟩ := til_saveArea s.blk t
    have htile : tileOf (borrowSaved t s.blk) t = lentTile (tileOf s.blk t) := by
      rw [hlends]; exact (tileOf_setTile ..).trans (if_pos rfl)
    have hlend : lendOf (borrowSaved t s.blk) t = { lendOf s.blk t with state := .lent, lends := (lendOf s.blk t).lends + 1 } := by
      rw [hlends]; exact (lendOf_setLend ..).trans (if_pos rfl)
    refine answersWith_main rfl hon ⟨?_, ?_, ?_, ?_, ?_, ?_, fun a h => ?_⟩
    · exact congrArg Lend.state hlend
    · exact congrArg Lend.lends hlend
    · exact congrArg Tile.stream htile
    · exact (congrArg Tile.held htile).trans rfl
    · exact (congrArg Tile.acc htile).trans rfl
    · change (borrowSaved t s.blk).ctx.saved.find t = some (keptStream s.blk t)
      rw [hlends]
      exact (SMap.find_put_same ..)
    · change byteAt (borrowSaved t s.blk) a = byteAt s.blk a
      rw [hlends]
      refine (byteAt_of_mem (b := saveArea t s.blk) rfl a).trans ?_
      exact byteAt_saveArea s.blk hseg h
  · intro back
    have hlent := reclaim_lent s.blk hs hnone
    refine ⟨fun hrun => acts_main rfl hon ?_, fun hrun => acts_main rfl hon ?_⟩
    · rw [if_pos hrun] at hlent
      exact hlent
    · rw [if_neg hrun] at hlent
      exact hlent
  · obtain ⟨c, hc, heq⟩ := reclaimDone_restores s.blk hs hsv hops hheld
    have hrun : (tileOf c t).stream = .running := by rw [hc, restoredTile, hlock]; rfl
    refine ⟨fun hstop => answersWith_main rfl hon ?_, fun hstop => answersWith_main rfl hon ?_⟩
    · obtain ⟨htil, hlend⟩ := restored_leaves c (t := t) (lendOf s.blk t).trigger (lendOf s.blk t)
      have heq' : reclaimDone t s.blk = restored t (lendOf s.blk t).trigger (lendOf s.blk t) c := by rw [heq, hstop]; rfl
      rw [← heq'] at htil hlend
      refine ⟨(tileOf_of_til htil t).trans ?_, congrArg Lend.state hlend⟩
      rw [hc, restoredTile, hlock]
      rfl
    · obtain ⟨d, hd⟩ : ∃ d, d = cancelWaiting t (modTile t (fun x => { x with stream := .stopping }) c) := ⟨_, rfl⟩
      obtain ⟨htil, hlend⟩ := restored_leaves d (t := t) (lendOf s.blk t).trigger (lendOf s.blk t)
      have heq' : reclaimDone t s.blk = restored t (lendOf s.blk t).trigger (lendOf s.blk t) d := by rw [heq, hstop, hrun, hd]; rfl
      obtain ⟨ops, hops', -⟩ := tileOf_cancelWaiting (modTile t (fun x => { x with stream := .stopping }) c) t
      rw [← heq'] at htil hlend
      refine ⟨(congrArg Tile.stream (tileOf_of_til htil t)).trans ?_, congrArg Lend.state hlend, congrArg Lend.stop hlend⟩
      rw [hd, hops', tileOf_modTile, if_pos rfl]

end

section
/-! PROOFS. Scale tables (R130, R139). -/

namespace Sys2Proof.Machine

variable (b : Block)

/-! ### Scale tables (R130, R139) -/

section
variable {j : Nat}

theorem sclCtrlWrite_used (v : Nat) (h : flag b uCtx Fld.ctxJobCtrlValid j = true) :
    sclCtrlWrite j v b = setReg uTrn (Off.trnSclCtrl j) (maskedWrite (reg b uTrn (Off.trnSclCtrl j)) v 0xFF00FFFF) b := by
  simp [sclCtrlWrite, h]

theorem sclCtrlWrite_enables {v : Nat} (h : flag b uCtx Fld.ctxJobCtrlValid j = false) (hv : bitOf v 16 = true) :
    sclCtrlWrite j v b = modJob j (fun x => { x with epochAt := b.face.time }) (setReg uTrn (Off.trnSclStep j) 0
      (setReg uTrn (Off.trnSclCtrl j) (maskedWrite (reg b uTrn (Off.trnSclCtrl j)) v 0xFF01FFFF) b)) := by
  simp only [sclCtrlWrite, h, hv, Bool.not_false, and_self, if_true]
  rfl

/-- An epoch that is over closes every entry of the table. -/
theorem servingClose_closes {scope : List (Nat × RunFields)} {cs : List (Nat × Closed)} {c : Block} (hen : flag b uTrn Fld.trnSclCtrlEnable j = true)
    (hserve : slotTrains b j = false) (ht : (trnOf b j).epochAt + 1000 * max 1 (fld b uTrn Fld.trnSclCtrlEpoch j) ≤ b.face.time)
    (hc : closeEntries j (reg b uTrn (Off.trnSclStep j) + 1) scope (sclSize b j) 0 b = (cs, true, c)) :
    servingClose j scope b = closeEvents j (reg b uTrn (Off.trnSclStep j) + 1) cs
      (modJob j (fun x => { x with epochAt := x.epochAt + 1000 * max 1 (fld b uTrn Fld.trnSclCtrlEpoch j) }) c) := by
  have hgo : (!flag b uTrn Fld.trnSclCtrlEnable j || slotTrains b j ||
      decide (b.face.time < (trnOf b j).epochAt + 1000 * max 1 (fld b uTrn Fld.trnSclCtrlEpoch j))) = false := by
    simp only [hen, hserve, Bool.not_true, Bool.or_self, Bool.false_or, decide_eq_false_iff_not]
    omega
  simp only [servingClose, hgo, hc, Bool.false_eq_true, if_false, if_true]

end

end Sys2Proof.Machine

open Sys2Proof Sys2Proof.Machine

/-- Settles O29: the write by the slot's use, the close by its epoch. -/
theorem scaleTables : Obligations.ScaleTables := by
  unfold Obligations.ScaleTables
  exact fun s j v scope hon => ⟨fun h => acts_main rfl hon (sclCtrlWrite_used _ _ h), fun h hv => acts_main rfl hon (sclCtrlWrite_enables _ h hv),
    fun cs c hen hserve ht hc => acts_main rfl hon (servingClose_closes _ hen hserve ht hc)⟩

end

section
/-! PROOFS. The start of a step (R347, R348): a control block whose bank a segment holds. -/

namespace Sys2Proof.Machine

/-- A training job in slot 0 with its control block at 0, of which a gleaner's open segment holds the bank: the address of the plan table (offset 144)
reads beyond the granary until the segment's put of zeros has been committed. -/
def heldControlBlock : Block :=
  let b := setFld uCtx Fld.ctxJobCtrlTrain 1 (poke 144 (List.replicate 8 0xFF) (poke 160 [1] (setFld uTly Fld.tlyPowerMainOn 1 blockFresh)))
  setGl 0 { Gleaner.init with seg := some ⟨[(0, 0)], 0, [(144, List.replicate 8 0, 0)]⟩ }
    { b with qcp := { b.qcp with jobs := [(0, ⟨jRunning, true, false, [], 0, 0, [], some (5, 9)⟩)] } }

/-- The control block after it has been touched: the put is in it. -/
def touchedOnce : Block := (trnTouch 0 [(scbBase heldControlBlock 0, 256)] heldControlBlock).2

/-- The block after the tables that the committed control block names have been touched. -/
def touchedTwice : Block := (trnTouch 0 (splitRanges touchedOnce 0) touchedOnce).2

theorem touchedOnce_ok : (trnTouch 0 [(scbBase heldControlBlock 0, 256)] heldControlBlock).1 = true := by decide +kernel
theorem touchedTwice_ok : (trnTouch 0 (splitRanges touchedOnce 0) touchedOnce).1 = true := by decide +kernel
theorem split_touchedTwice : stashPol touchedTwice 0 = 0 ∧ (trnOf touchedTwice 0).stallFail = false ∧ splitOf touchedTwice 0 = some 0 ∧
  nLayers touchedTwice 0 = 0 ∧ splitEntry touchedTwice 0 0 = some 0 ∧ (trnTouch 0 [(0, 1024)] touchedTwice).1 = true ∧
  (touchedTwice.ctx.allocWaits.any fun w => w.job = 0 ∧ w.stash) = false := by decide +kernel
theorem stepStart_held : trnPhase (stepStart 0 5 false heldControlBlock).2 0 = 0 := by decide +kernel

theorem eq_of_fst_true {α : Type} {p : Bool × α} (h : p.1 = true) : p = (true, p.2) := by rw [← h]

theorem touchedOnce_eq : trnTouch 0 [(scbBase heldControlBlock 0, 256)] heldControlBlock = (true, touchedOnce) := eq_of_fst_true touchedOnce_ok
theorem touchedTwice_eq : trnTouch 0 (splitRanges touchedOnce 0) touchedOnce = (true, touchedTwice) := eq_of_fst_true touchedTwice_ok
theorem stallAsk_of_policy {b : Block} {j : Nat} (h : stashPol b j = 0) : stallAsk j b = b := if_pos (.inl (by rw [h]; decide))
theorem stallAsk_touchedTwice : stallAsk 0 touchedTwice = touchedTwice := stallAsk_of_policy split_touchedTwice.1

end Sys2Proof.Machine

open Sys2Proof Sys2Proof.Machine

/-- Refutes O31: a step's start takes the tables it touches from the control block as it read before the touch of the control block committed a held
segment's put to it, and a table that stood beyond the granary then keeps the step from starting. -/
theorem not_stepStartAndEnd : ¬ Obligations.StepStartAndEnd := by
  unfold Obligations.StepStartAndEnd
  rintro ⟨h, -⟩
  obtain ⟨-, hfail, hsplit, hlayers, hentry, htouch, hwaits⟩ := split_touchedTwice
  obtain ⟨-, -, hstart⟩ := h ⟨heldControlBlock, []⟩ 0 ⟨jRunning, true, false, [], 0, 0, [], some (5, 9)⟩ 5 9 heldControlBlock (by decide) (by decide) (by decide)
    (by decide) rfl rfl (by decide) (by decide)
  obtain ⟨-, hphase, -⟩ := hstart 0 0 touchedOnce touchedTwice (trnTouch 0 [(0, 1024)] touchedTwice).2 (by decide) touchedOnce_eq
    touchedTwice_eq stallAsk_touchedTwice hwaits hfail hsplit hlayers.symm hentry (eq_of_fst_true htouch)
  exact absurd (hphase.symm.trans stepStart_held) (by decide)

end

section
/-! PROOFS. Mailboxes, member health and handshake stalls (R15, R29, R32 to R35, R42, R43). -/

namespace Sys2Proof.Machine

variable (b : Block)

/-! ### The status register through an event -/

theorem raise_mild (u : Nat) {e : Ev} (arg : Nat) (h : evSeverity e < 2) : raise u e arg b = countEvent e (ringPut u e arg b) :=
  if_neg (Nat.not_le.mpr h)

/-- A status bit stays set when a record is put in a ring: that write of the status register sets EVT_LOST and clears nothing (R31, R44). -/
theorem flag_ringPut {u : Nat} {f : Field} (e : Ev) (arg : Nat) (hf : f.hi = f.lo) (hlt : f.lo < 16) (ho : f.off + f.stride * 0 = Off.unitStatus)
    (h : flag b u f = true) : flag (ringPut u e arg b) u f = true := by
  rw [flag_eq_bitOf _ _ _ _ hf, ho] at h ⊢
  cases hr : ringFull b u with
  | false => rw [reg_ringPut_of_room b e arg _ hr, if_neg (by decide), h]
  | true =>
    have hbit := bitOf_setSq (setReg u Off.evtHead ((reg b u Off.evtHead / 2 ^ 16 + 1) % 2 ^ 16 * 2 ^ 16 + reg b u Off.evtHead % 64)
      (setReg u Off.evtDrop (reg b u Off.evtDrop + 1) b)) u Fld.unitStatusEvtLost 0 f.lo (by decide) hlt
    rw [ringPut_of_full b e arg hr]
    refine hbit.trans ?_
    rw [Bool.or_eq_true]
    refine .inl ?_
    rw [show Fld.unitStatusEvtLost.off + Fld.unitStatusEvtLost.stride * 0 = Off.unitStatus from rfl, reg_setReg, if_neg (mt (regKey_same_unit u _ _).mp (by decide)),
      reg_setReg, if_neg (mt (regKey_same_unit u _ _).mp (by decide)), h]

theorem flag_countEvent (e : Ev) (u : Nat) (f : Field) : flag (countEvent e b) u f = flag b u f := flag_of_reg (reg_countEvent ..)

theorem flag_setSq_same {u : Nat} {f : Field} (hf : f.hi = f.lo) (hlt : f.lo < 16) : flag (setSq u f b) u f = true := by
  rw [flag_eq_bitOf _ _ _ _ hf, bitOf_setSq _ _ _ _ _ hlt hlt]
  simp

/-- A mild event sets the bit of the unit's status register it names. -/
theorem flag_notify_status {u : Nat} {f : Field} {e : Ev} (arg : Nat) (he : evSeverity e < 2) (hf : f.hi = f.lo) (hlt : f.lo < 16)
    (ho : f.off + f.stride * 0 = Off.unitStatus) : flag (notify u f e arg b) u f = true := by
  rw [notify, raise_mild _ _ _ he, flag_countEvent]
  exact flag_ringPut _ e arg hf hlt ho (flag_setSq_same b hf hlt)

/-- A record in a ring leaves the registers of the common face but the status register, EVT_HEAD and EVT_DROP. -/
theorem reg_ringPut_other {u o : Nat} (e : Ev) (arg : Nat) (hs : o ≠ Off.unitStatus) (hh : o ≠ Off.evtHead) (hd : o ≠ Off.evtDrop) :
    reg (ringPut u e arg b) u o = reg b u o := by
  cases hr : ringFull b u with
  | true => rw [reg_ringPut_of_full b e arg o hr hs, if_neg hh, if_neg hd]
  | false => rw [reg_ringPut_of_room b e arg o hr, if_neg hh]

/-! ### Reads of one-word clear-on-read registers -/

theorem rc_of_hasAccess {u o : Nat} (h : hasAccess .rc u o = true) : ∃ r, rowAt u o = some r ∧ r.acc = .rc := by
  unfold hasAccess at h
  cases hr : rowAt u o with
  | none => simp [hr] at h
  | some r => exact ⟨r, rfl, by simpa [hr] using h⟩

/-- A clear-on-read register that begins no pair is EVT_DROP or stands at an odd word. -/
theorem single_of_rc {u o : Nat} {r : RegRow} (hrow : rowAt u o = some r) (ha : r.acc = .rc) (hlo : isPairLo u o = false) :
    o % 8 ≠ 0 ∨ o = Off.evtDrop := by
  simp only [isPairLo, hrow, ha, Bool.or_eq_false_iff] at hlo
  refine Decidable.byContradiction fun hc => ?_
  obtain ⟨h8, hd⟩ := not_or.mp hc
  have h8 : o % 8 = 0 := Decidable.not_not.mp h8
  have := hlo.2
  simp [h8, hd] at this

theorem macMeasures_single {u o : Nat} (h : o % 8 ≠ 0 ∨ o = Off.evtDrop) : macMeasures u o b = b := by
  have hne {k : Nat} (hk : k % 8 = 0) (hk' : k ≠ Off.evtDrop) : o ≠ k := by rintro rfl; exact h.elim (· hk) hk'
  have h24 : o ≠ Off.macCntLo 24 := hne (by decide) (by decide)
  have h26 : o ≠ Off.macCntLo 26 := hne (by decide) (by decide)
  simp [macMeasures, h24, h26]

/-- A one-word clear-on-read register answers its value and is cleared (R15). -/
theorem regRead_single {rdr u o : Nat} (hon : mainOn b = true) (h4 : o % 4 = 0) (hrc : hasAccess .rc u o = true) (hlo : isPairLo u o = false)
    (hhi : isPairHi u o = false) (hmac : isMacCounter u o = false ∨ rdr = uReeve) : regRead rdr u o b = (.ok, regValue b u o, setReg u o 0 b) := by
  obtain ⟨r, hrow, ha⟩ := rc_of_hasAccess hrc
  have hw : isWaitCounter u o = false := by simp [isWaitCounter, hlo]
  have hread : (isMacCounter u o && rdr != uReeve) = false := by obtain h | h := hmac <;> simp [h]
  simp only [regRead, h4, heldAway_of_mainOn hon, windowThere_of_mainOn hon, kindOf_of_rowAt hrow, hread, hhi, hlo, addWaits_of_not b (.inl hw),
    macMeasures_single b (single_of_rc hrow ha hlo), readClears, hrow, ha, ne_eq, not_true, if_false, if_true, Bool.false_eq_true, Bool.not_true]

/-! ### Mailboxes -/

theorem mbxPost_read {q : Nat} (hq : q < 2 ^ 16) : q * 2 ^ 16 / 2 ^ 16 % 2 ^ 16 = q := by omega

/-- One word of a reply: the first carries BAD_ARGUMENT (R35). -/
def replyWord (u : Nat) (b : Block) (n : Nat) : Block :=
  setReg u (Off.mbxOut n) (if n = 0 then (takeFree b).1 % 2 ^ 16 * 2 ^ 16 + statusCode .badArgument else (takeFree b).1) (takeFree b).2

theorem reg_replyWord {u n o : Nat} (h : o ≠ Off.mbxOut n) : reg (replyWord u b n) u o = reg b u o := by
  rw [replyWord, reg_setReg, if_neg (mt (regKey_same_unit u _ _).mp h)]
  rfl

theorem reg_replyWords {u o : Nat} (l : List Nat) : ∀ b : Block, (∀ n ∈ l, o ≠ Off.mbxOut n) → reg (l.foldl (replyWord u) b) u o = reg b u o := by
  induction l with
  | nil => exact fun _ _ => rfl
  | cons n l ih =>
    intro b h
    rw [List.foldl_cons, ih _ fun m hm => h m (List.mem_cons_of_mem _ hm), reg_replyWord b (h n (List.mem_cons_self ..))]

/-- The words of a reply. -/
def replyWords (u : Nat) (b : Block) : Block := (List.range 16).foldl (replyWord u) b

theorem reg_replyWords_status (u : Nat) : reg (replyWords u b) u (Off.mbxOut 0) % 2 ^ 16 = 1 := by
  have hrange : List.range 16 = 0 :: (List.range 15).map (· + 1) := by decide
  rw [replyWords, hrange, List.foldl_cons, reg_replyWords _ _ (by decide), replyWord, reg_setReg_same, if_pos rfl, show statusCode .badArgument = 1 from rfl]
  omega

theorem replyWords_leaves (u : Nat) : (replyWords u b).grn = b.grn ∧ (replyWords u b).til = b.til :=
  ⟨foldl_keeps Block.grn _ _ b (fun _ _ => rfl), foldl_keeps Block.til _ _ b (fun _ _ => rfl)⟩

theorem tallyPart_replyWords (u : Nat) : tallyPart (replyWords u b) = tallyPart b := foldl_keeps _ _ _ _ (by simp [replyWord])

/-- What a reply leaves before its event: the words, REPLY_SEQ and the status bit. -/
def replied (u : Nat) (b : Block) : Block :=
  setSq u Fld.unitStatusMbxReply (setReg u Off.mbxCtrl (reg b u Off.mbxCtrl / 2 ^ 16 * 2 ^ 16 + reg b u Off.mbxCtrl / 2 ^ 16) (replyWords u b))

theorem mbxReply_pending {u : Nat} (hres : inReset b u = false) (hne : reg b u Off.mbxCtrl / 2 ^ 16 ≠ reg b u Off.mbxCtrl % 2 ^ 16) :
    mbxReply u b = if mainOn (replied u b) then raise u .sysMbxReply (reg b u Off.mbxCtrl / 2 ^ 16) (replied u b) else replied u b := by
  rw [mbxReply, if_neg (not_or.mpr ⟨hne, by simp [hres]⟩)]
  rfl

theorem key_ne_status {u o : Nat} {f : Field} (hf : f.off + f.stride * 0 = Off.unitStatus) (h : o ≠ Off.unitStatus) :
    regKey u o ≠ regKey u (f.off + f.stride * 0) := by
  rw [hf]
  exact mt (regKey_same_unit u _ _).mp h

theorem reg_replied {u o : Nat} (hs : o ≠ Off.unitStatus) (hc : o ≠ Off.mbxCtrl) : reg (replied u b) u o = reg (replyWords u b) u o := by
  rw [replied, reg_setSq, if_neg (key_ne_status rfl hs), reg_setReg, if_neg (mt (regKey_same_unit u _ _).mp hc)]

theorem reg_replied_ctrl (u : Nat) : reg (replied u b) u Off.mbxCtrl = reg b u Off.mbxCtrl / 2 ^ 16 * 2 ^ 16 + reg b u Off.mbxCtrl / 2 ^ 16 := by
  have := reg_lt b u Off.mbxCtrl
  rw [replied, reg_setSq, if_neg (key_ne_status rfl (by decide)), reg_setReg_same]
  omega

/-- A mild event leaves the registers of the common face but the status register, EVT_HEAD and EVT_DROP. -/
theorem reg_raise_mild {u o : Nat} {e : Ev} (arg : Nat) (he : evSeverity e < 2) (hs : o ≠ Off.unitStatus) (hh : o ≠ Off.evtHead) (hd : o ≠ Off.evtDrop) :
    reg (raise u e arg b) u o = reg b u o := by
  rw [raise_mild b u arg he, reg_countEvent, reg_ringPut_other b e arg hs hh hd]

/-- What a reply has written. -/
structure Replied (u post : Nat) (b c : Block) : Prop where
  status : reg c u (Off.mbxOut 0) % 2 ^ 16 = 1
  ctrl : reg c u Off.mbxCtrl = post * 2 ^ 16 + post
  bit : flag c u Fld.unitStatusMbxReply = true
  grn : c.grn = b.grn
  til : c.til = b.til
  tally : tallyPart c = tallyPart b

theorem replied_replied (u : Nat) : Replied u (reg b u Off.mbxCtrl / 2 ^ 16) b (replied u b) where
  status := by rw [reg_replied b (by decide) (by decide), reg_replyWords_status]
  ctrl := reg_replied_ctrl b u
  bit := flag_setSq_same _ rfl (by decide)
  grn := (replyWords_leaves b u).1
  til := (replyWords_leaves b u).2
  tally := by simp [replied, tallyPart_replyWords]

/-- A mild event after a reply leaves what it has written. -/
theorem Replied.raise {u post : Nat} {c : Block} (h : Replied u post b c) {e : Ev} (arg : Nat) (he : evSeverity e < 2) : Replied u post b (raise u e arg c) where
  status := by rw [reg_raise_mild c arg he (by decide) (by decide) (by decide), h.status]
  ctrl := by rw [reg_raise_mild c arg he (by decide) (by decide) (by decide), h.ctrl]
  bit := by
    rw [raise_mild c u arg he, flag_countEvent]
    exact flag_ringPut c e arg rfl (by decide) rfl h.bit
  grn := (raise_frame ..).1.trans h.grn
  til := (raise_frame ..).2.1.trans h.til
  tally := by rw [tallyPart_raise, h.tally]

theorem replied_mbxReply {u : Nat} (hres : inReset b u = false) (hne : reg b u Off.mbxCtrl / 2 ^ 16 ≠ reg b u Off.mbxCtrl % 2 ^ 16) :
    Replied u (reg b u Off.mbxCtrl / 2 ^ 16) b (mbxReply u b) := by
  rw [mbxReply_pending b hres hne]
  split
  · exact (replied_replied b u).raise b _ (by decide)
  · exact replied_replied b u

/-! ### Member health and handshake stalls -/

theorem memberHealth_changed {m p : Nat} (hp : parentOf m = some p) (hw : worstOf b m ≠ b.face.seen.get 0 m) :
    memberHealth m b = notify p Fld.unitStatusMemberHealth .sysMemberHealth (m * 2 ^ 16 + worstOf b m)
      { b with face := { b.face with seen := b.face.seen.put m (worstOf b m) } } := by
  unfold memberHealth
  split
  · next h => simp [h] at hp
  · next q h => rw [hp, Option.some.injEq] at h; subst h; exact if_neg hw

theorem seen_raise (u : Nat) (e : Ev) (arg : Nat) : (raise u e arg b).face.seen = b.face.seen := by
  have hput : (ringPut u e arg b).face.seen = b.face.seen := by unfold ringPut; dsimp only; split <;> rfl
  have hcount (c : Block) : (countEvent e c).face.seen = c.face.seen := by unfold countEvent; split <;> rfl
  have hpush (r : BbRec) (c : Block) : (bbPush r c).face.seen = c.face.seen := by unfold bbPush; split <;> rfl
  simp only [raise]
  split
  · rw [hpush, hcount, hput]
  · rw [hcount, hput]

theorem seen_notify (u : Nat) (f : Field) (e : Ev) (arg : Nat) : (notify u f e arg b).face.seen = b.face.seen := seen_raise ..

@[simp] theorem restPart_setOwn (u h : Nat) : restPart (setOwn u h b) = restPart b := by unfold setOwn; dsimp only; split <;> rfl

theorem hsStallCmd_early {u port since : Nat} (h : b.face.time < since + 8000) : hsStallCmd u port since b = b := if_pos h

/-- With no job and no batch a stall fails the unit and does no more. -/
theorem hsStallCmd_fails {u port since : Nat} (h : since + 8000 ≤ b.face.time) (hj : b.qcp.jobs = []) (hb : b.ctx.batches = []) :
    hsStallCmd u port since b = notify u Fld.unitStatusHsStall .sysHsStall port (setOwn u hFailed b) := by
  have hctx : (notify u Fld.unitStatusHsStall .sysHsStall port (setOwn u hFailed b)).ctx = b.ctx := by
    rw [(notify_frame ..).2.2.2.1, (setOwn_frame ..).2.2.2.1]
  have hqcp : (notify u Fld.unitStatusHsStall .sysHsStall port (setOwn u hFailed b)).qcp = b.qcp := (restPart_eq_iff.mp (by simp)).2.1.1
  have hstall : hsStall u port since b = notify u Fld.unitStatusHsStall .sysHsStall port (setOwn u hFailed b) := if_neg (Nat.not_lt.mpr h)
  generalize notify u Fld.unitStatusHsStall .sysHsStall port (setOwn u hFailed b) = c at *
  have hnone : (if kindOf u = some .tile then c.ctx.batches.find? (fun x => x.tiles.contains (u - 64)) else none) = none := by simp [hctx, hb]
  have hslot (j : Nat) : slotHolds c j = false := by simp [slotHolds, hqcp, hj]
  have hfold (l : List Nat) (f : Block → Nat → Block) (hf : ∀ j, f c j = c) : l.foldl f c = c := by
    induction l with
    | nil => rfl
    | cons j l ih => rw [List.foldl_cons, hf, ih]
  rw [hsStallCmd, if_neg (Nat.not_lt.mpr h)]
  simp only [hstall, hnone]
  exact hfold _ _ fun j => by simp [hslot]

end Sys2Proof.Machine

open Sys2Proof Sys2Proof.Machine

/-- Settles O37, command by command. A reply is followed by a mild event, which sets no bit but EVT_LOST besides its own and writes no mailbox register. -/
theorem mailboxesAndHealth : Obligations.MailboxesAndHealth := by
  unfold Obligations.MailboxesAndHealth
  refine fun s u rdr => ⟨?rc, ?missing, ?post, ?reply, ?health, ?stall, ?tick⟩
  case rc =>
    intro o hon h4 hrc hlo hhi hmac
    have hread := regRead_single s.blk hon h4 hrc hlo hhi hmac
    refine answers_of_acts (acts_run rfl ?_) rfl rfl rfl
    simp only [registerRead, ne_eq, not_true, if_false, hrc, Bool.true_or, if_true, hread]
  case missing =>
    intro q hon hw
    exact acts_main rfl hon (by simp [hw])
  case post =>
    intro q hon hw c
    have hq : q.val * 2 ^ 16 / 2 ^ 16 % 2 ^ 16 = q.val := mbxPost_read q.isLt
    refine ⟨fun h => ?_, fun hne hc hres => ?_, fun hne hc => ?_⟩
    · exact answers_main rfl hon (by simp only [hw, if_true, mbxPost, hq]; exact if_pos h) rfl
    · refine answers_main rfl hon ?_ rfl
      simp only [hw, if_true, mbxPost, hq]
      rw [if_neg hne, if_neg (by simp [hres]; exact hc)]
    · refine answers_main rfl hon ?_ rfl
      simp only [hw, if_true, mbxPost, hq]
      rw [if_neg hne, if_pos hc]
  case reply =>
    intro hw hres hne
    have hg : mbxReplyCmd u s.blk = mbxReply u s.blk := if_pos hw
    obtain ⟨hstatus, hctrl, hbit, hgrn, htil, ht⟩ := replied_mbxReply s.blk hres hne
    refine answersWith_run (g := mbxReplyCmd u) rfl ?_
    rw [keepTally_of_tallyPart (by rw [hg, ht]), hg]
    have := reg_lt s.blk u Off.mbxCtrl
    exact ⟨hstatus, by omega, by omega, hbit, hgrn, htil⟩
  case health =>
    intro p hon hp hw
    have he := memberHealth_changed s.blk hp hw
    refine answersWith_kept rfl hon (by rw [he]; simp) ?_
    simp only [he, seen_notify, own_notify]
    exact ⟨by simp, flag_notify_status _ _ (by decide) rfl (by decide) rfl, fun m hm => by simp [hm], trivial⟩
  case stall =>
    intro port since hon
    exact ⟨fun h => answers_main rfl hon (hsStallCmd_early _ h) rfl, fun h hj hb => acts_main rfl hon (hsStallCmd_fails _ h hj hb)⟩
  case tick =>
    intro hp
    exact answers_all rfl (by simp [usTick, hp])

end

section
/-! PROOFS. Links: modes, negotiation, lanes, flits, replay and retraining (R357 to R364). -/

namespace Sys2Proof.Machine

variable (b : Block)

/-! ### What a granary access leaves of the registers -/

/-- An event leaves the registers that are none of the common face's but the tally die's counter of dropped records. -/
theorem reg_raise_beside {u o : Nat} (u' : Nat) (e : Ev) (arg : Nat) (ho : o < 2 ^ 20) (hs : o ≠ Off.unitStatus) (hh : o ≠ Off.evtHead) (hd : o ≠ Off.evtDrop)
    (hl : regKey u o ≠ regKey uTly Off.tlyBbDropLo) (hl' : regKey u o ≠ regKey uTly (Off.tlyBbDropLo + 4)) : reg (raise u' e arg b) u o = reg b u o := by
  have hne {k : Nat} (hk : k < 2 ^ 20) (h : o ≠ k) : regKey u o ≠ regKey u' k := fun he => h ((regKey_inj u o u' k ho hk).mp he).2
  have hput : reg (ringPut u' e arg b) u o = reg b u o := by
    cases h : ringFull b u' with
    | true =>
      rw [ringPut_of_full b e arg h, reg_setSq, if_neg (hne (k := Fld.unitStatusEvtLost.off + Fld.unitStatusEvtLost.stride * 0) (by decide) hs), reg_setReg, if_neg (hne (by decide) hh), reg_setReg, if_neg (hne (by decide) hd)]
    | false =>
      have hw : reg (ringPut u' e arg b) u o = reg (setReg u' Off.evtHead ((reg b u' Off.evtHead / 2 ^ 16 + 1) % 2 ^ 16 * 2 ^ 16 +
          (reg b u' Off.evtHead % 64 + 1) % 64) b) u o := by simp only [ringPut, h]; rfl
      rw [hw, reg_setReg, if_neg (hne (by decide) hh)]
  have hbb (r : BbRec) (c : Block) : reg (bbPush r c) u o = reg c u o := by
    unfold bbPush
    split
    · rfl
    · exact reg_bump_other _ hl hl'
  simp only [raise]
  split
  · rw [hbb, reg_countEvent, hput]
  · rw [reg_countEvent, hput]

/-- The registers that no granary access writes: the units' own, of those below the stacks but the tally die, whose counter of dropped records an event
may bump, and the two that say whether the main domain is on. -/
abbrev FarReg (u o : Nat) : Prop := (u ≠ uTly ∧ u < 160 ∧ OwnOffset o) ∨ (u = uTly ∧ o = Fld.tlyPowerMainOn.off) ∨ (u = uChip ∧ o = Fld.unitResetHold.off)

def farRegs (b : Block) (u o : Nat) : Nat := if FarReg u o then reg b u o else 0

theorem reg_of_far {b c : Block} (h : farRegs c = farRegs b) {u o : Nat} (hf : FarReg u o) : reg c u o = reg b u o := by
  have := congrFun (congrFun h u) o
  rwa [farRegs, farRegs, if_pos hf, if_pos hf] at this

theorem reg_of_farRegs {b c : Block} (h : farRegs c = farRegs b) {u o : Nat} (ht : u ≠ uTly) (hu : u < 160) (ho : OwnOffset o) : reg c u o = reg b u o :=
  reg_of_far h (.inl ⟨ht, hu, ho⟩)

theorem mainOn_of_farRegs {b c : Block} (h : farRegs c = farRegs b) : mainOn c = mainOn b := by
  have hpower : reg c uTly Fld.tlyPowerMainOn.off = reg b uTly Fld.tlyPowerMainOn.off := reg_of_far h (.inr (.inl ⟨rfl, rfl⟩))
  have hreset : reg c uChip Fld.unitResetHold.off = reg b uChip Fld.unitResetHold.off := reg_of_far h (.inr (.inr ⟨rfl, rfl⟩))
  rw [mainOn, mainOn, railsUp, railsUp, moduleHeld, moduleHeld, flag, flag, flag, flag, fld, fld, fld, fld]
  simp only [Nat.mul_zero, Nat.add_zero, hpower, hreset]

theorem farRegs_of_reg {b c : Block} (h : ∀ u o, FarReg u o → reg c u o = reg b u o) : farRegs c = farRegs b := by
  funext u o
  unfold farRegs
  split
  · next hp => exact h u o hp
  · rfl

@[simp] theorem farRegs_ite (p : Prop) [Decidable p] (c d : Block) : farRegs (if p then c else d) = if p then farRegs c else farRegs d := apply_ite ..

theorem farRegs_of_face {b c : Block} (h : c.face = b.face) : farRegs c = farRegs b := farRegs_of_reg fun u o _ => reg_of_face h u o

theorem farRegs_setReg_high {u : Nat} (o v : Nat) (h : 160 ≤ u) : farRegs (setReg u o v b) = farRegs b := by
  refine farRegs_of_reg fun u' o' hf => ?_
  have hne : regKey u' o' ≠ regKey u o := by
    have hlow : u' < 160 ∧ o' < 2 ^ 20 := by
      rcases hf with ⟨-, hu, -, ho⟩ | ⟨rfl, rfl⟩ | ⟨rfl, rfl⟩
      · exact ⟨hu, ho⟩
      · decide
      · decide
    unfold regKey
    omega
  rw [reg_setReg, if_neg hne]

theorem farRegs_bump_high {u : Nat} (o n : Nat) (h : 160 ≤ u) : farRegs (bump u o n b) = farRegs b := by
  simp only [bump]
  rw [farRegs_setReg_high _ _ _ h, farRegs_setReg_high _ _ _ h]

theorem le_uChannel (c : Nat) : 160 ≤ uChannel c := by unfold uChannel; omega
theorem le_uStack (s : Nat) : 160 ≤ uStack s := by unfold uStack; omega
theorem le_uGleaner (g : Nat) : 160 ≤ uGleaner g := by unfold uGleaner; omega

@[simp] theorem farRegs_setReg_channel (c o v : Nat) : farRegs (setReg (uChannel c) o v b) = farRegs b := farRegs_setReg_high _ _ _ (le_uChannel c)
@[simp] theorem farRegs_bump_channel (c o n : Nat) : farRegs (bump (uChannel c) o n b) = farRegs b := farRegs_bump_high _ _ _ (le_uChannel c)
@[simp] theorem farRegs_bump_stack (s o n : Nat) : farRegs (bump (uStack s) o n b) = farRegs b := farRegs_bump_high _ _ _ (le_uStack s)
@[simp] theorem farRegs_bump_gleaner (g o n : Nat) : farRegs (bump (uGleaner g) o n b) = farRegs b := farRegs_bump_high _ _ _ (le_uGleaner g)
@[simp] theorem farRegs_raise (u : Nat) (e : Ev) (a : Nat) : farRegs (raise u e a b) = farRegs b :=
  farRegs_of_reg fun v o hf => by
    rcases hf with ⟨ht, -, ho⟩ | ⟨rfl, rfl⟩ | ⟨rfl, rfl⟩
    · exact reg_raise_own b u e a ht ho
    · exact reg_raise_beside b u e a (by decide) (by decide) (by decide) (by decide) (by decide) (by decide)
    · exact reg_raise_beside b u e a (by decide) (by decide) (by decide) (by decide) (by decide) (by decide)
@[simp] theorem farRegs_notify_channel (c : Nat) (f : Field) (e : Ev) (a : Nat) : farRegs (notify (uChannel c) f e a b) = farRegs b := by
  rw [notify, farRegs_raise]
  exact (farRegs_of_face rfl).trans (farRegs_setReg_channel b c _ _)
@[simp] theorem farRegs_poke (a : Nat) (v : List Byte) : farRegs (poke a v b) = farRegs b := farRegs_of_face rfl
@[simp] theorem farRegs_setMark (l : Nat) (m : Option LineMark) : farRegs (setMark l m b) = farRegs b := farRegs_of_face rfl
@[simp] theorem farRegs_noteFail (l : Nat) : farRegs (noteFail l b) = farRegs b := farRegs_of_face rfl
@[simp] theorem farRegs_failElsewhere : farRegs (failElsewhere b) = farRegs b := farRegs_of_face rfl
@[simp] theorem farRegs_addrFault (i : Issuer) (a : Nat) : farRegs (addrFault i a b) = farRegs b := farRegs_raise ..
@[simp] theorem farRegs_recordRow (pl : Place) (u : Bool) : farRegs (recordRow pl u b) = farRegs b := by
  refine farRegs_of_face ?_
  unfold recordRow; dsimp only; (repeat' split) <;> rfl
@[simp] theorem farRegs_chargeRereads (ls : List Nat) : farRegs (chargeRereads ls b) = farRegs b := foldl_keeps _ _ _ _ (by simp)
@[simp] theorem farRegs_readOne (l : Nat) : farRegs (readOne l b).2 = farRegs b := by
  unfold readOne
  split
  · exact farRegs_noteFail ..
  · dsimp only
    split
    case h_3 => split <;> simp
    all_goals simp
@[simp] theorem farRegs_readLine (l : Nat) : farRegs (readLine l b).2 = farRegs b := by simp [readLine]
@[simp] theorem farRegs_readLines (ls : List Nat) : farRegs (readLines ls b).2 = farRegs b := by
  unfold readLines
  rw [foldl_keeps (fun (acc : Bool × Block) => farRegs acc.2) _ _ _ (by simp), farRegs_chargeRereads]
@[simp] theorem farRegs_writeLine (a : Nat) (v : List Byte) (t : Option Nat) (l : Nat) : farRegs (writeLine a v t l b).2 = farRegs b := by
  unfold writeLine
  dsimp only
  split
  · exact farRegs_noteFail ..
  · split
    · rw [farRegs_poke]; split <;> exact farRegs_of_face rfl
    · simp
@[simp] theorem farRegs_serveRead (a n : Nat) : farRegs (serveRead a n b).2.2 = farRegs b := by
  unfold serveRead; dsimp only; split <;> split <;> simp
@[simp] theorem farRegs_serveWrite (a : Nat) (v : List Byte) (t : Option Nat) : farRegs (serveWrite a v t b).2 = farRegs b := by
  unfold serveWrite
  dsimp only
  rw [foldl_keeps (fun (acc : Bool × Block) => farRegs acc.2) _ _ _ (by simp)]
  split <;> simp
@[simp] theorem farRegs_tablePut (a : Nat) (v : List Byte) : farRegs (tablePut a v b) = farRegs b := by unfold tablePut; split <;> simp
@[simp] theorem farRegs_modGl (g : Nat) (f : Gleaner → Gleaner) : farRegs (modGl g f b) = farRegs b := farRegs_of_face rfl
@[simp] theorem farRegs_dropGrant (g : Nat) : farRegs (dropGrant g b) = farRegs b := farRegs_of_face rfl
@[simp] theorem farRegs_refreshOwed (c k : Nat) : farRegs (refreshOwed c k b) = farRegs b := by
  unfold refreshOwed; dsimp only; split <;> exact farRegs_of_face rfl
@[simp] theorem farRegs_landPut (g : Nat) (p : Nat × List Byte × Nat) : farRegs (landPut g p b) = farRegs b := by
  unfold landPut; dsimp only; split <;> split <;> simp
@[simp] theorem farRegs_commit (g : Nat) (f : Bool) : farRegs (commit g f b) = farRegs b := by
  unfold commit
  dsimp only
  split
  · rfl
  · rename_i sg _
    have hp : farRegs (sg.puts.foldl (fun b p => landPut g p b) b) = farRegs b := foldl_keeps _ _ _ _ (by simp)
    have hb (c : Block) : farRegs (sg.banks.foldl (fun b k => refreshOwed (glChannel g) k.1 b) c) = farRegs c := foldl_keeps _ _ _ _ (by simp)
    split <;> split <;> simp [hp, hb]
@[simp] theorem farRegs_releaseBanks (a n : Nat) : farRegs (releaseBanks a n b) = farRegs b := by
  unfold releaseBanks; split
  · rfl
  · refine foldl_keeps _ _ _ _ fun c l => ?_
    unfold releaseBank
    split
    · rfl
    · split <;> simp
@[simp] theorem farRegs_granaryRead (iss : Issuer) (a n : Nat) : farRegs (granaryRead iss a n b).2.2 = farRegs b := by
  unfold granaryRead; split <;> simp
@[simp] theorem farRegs_granaryWrite (iss : Issuer) (a : Nat) (v : List Byte) (t : Option Nat) : farRegs (granaryWrite iss a v t b).2 = farRegs b := by
  unfold granaryWrite; split
  · rfl
  · split <;> simp

/-! ### What traffic over the links leaves of their status registers -/

/-- The status registers of the links. -/
def linkStatuses (b : Block) (l : Nat) : Nat := if l < 24 then reg b (uLink l) Off.jxlStatus else 0

theorem reg_of_linkStatuses {b c : Block} (h : linkStatuses c = linkStatuses b) {l : Nat} (hl : l < 24) :
    reg c (uLink l) Off.jxlStatus = reg b (uLink l) Off.jxlStatus := by
  have := congrFun h l
  rwa [linkStatuses, linkStatuses, if_pos hl, if_pos hl] at this

theorem linkStatuses_of_reg {b c : Block} (h : ∀ l < 24, reg c (uLink l) Off.jxlStatus = reg b (uLink l) Off.jxlStatus) : linkStatuses c = linkStatuses b := by
  funext l
  unfold linkStatuses
  split
  · next hl => exact h l hl
  · rfl

theorem uLink_lt {l : Nat} (h : l < 24) : uLink l ≠ uTly ∧ uLink l < 160 := by
  have : uTly = 2 := rfl
  unfold uLink
  omega

theorem linkStatuses_of_farRegs {b c : Block} (h : farRegs c = farRegs b) : linkStatuses c = linkStatuses b :=
  linkStatuses_of_reg fun _ hl => reg_of_farRegs h (uLink_lt hl).1 (uLink_lt hl).2 (by decide)
theorem linkStatuses_of_face {b c : Block} (h : c.face = b.face) : linkStatuses c = linkStatuses b := linkStatuses_of_farRegs (farRegs_of_face h)

/-- A write beside the status register: every register but it stands elsewhere in its 16 bytes or beyond it. -/
theorem linkStatuses_setReg {u o : Nat} (v : Nat) (h : o % 2 ^ 20 ≠ Off.jxlStatus) : linkStatuses (setReg u o v b) = linkStatuses b := by
  refine linkStatuses_of_reg fun l hl => ?_
  have hne : regKey (uLink l) Off.jxlStatus ≠ regKey u o := by
    simp only [Off.jxlStatus] at h
    unfold regKey uLink Off.jxlStatus
    omega
  rw [reg_setReg, if_neg hne]

theorem linkStatuses_bump {u o : Nat} (n : Nat) (h : o % 2 ^ 20 ≠ Off.jxlStatus) (h' : (o + 4) % 2 ^ 20 ≠ Off.jxlStatus) :
    linkStatuses (bump u o n b) = linkStatuses b := by
  simp only [bump]
  rw [linkStatuses_setReg _ _ h', linkStatuses_setReg _ _ h]

@[simp] theorem linkStatuses_ite (p : Prop) [Decidable p] (c d : Block) : linkStatuses (if p then c else d) = if p then linkStatuses c else linkStatuses d := apply_ite ..
@[simp] theorem linkStatuses_raise (u : Nat) (e : Ev) (a : Nat) : linkStatuses (raise u e a b) = linkStatuses b := linkStatuses_of_farRegs (by simp)
@[simp] theorem linkStatuses_addrFault (i : Issuer) (a : Nat) : linkStatuses (addrFault i a b) = linkStatuses b := linkStatuses_of_farRegs (by simp)
theorem linkStatuses_notify_other {u : Nat} {f : Field} (e : Ev) (a : Nat) (h : (f.off + f.stride * 0) % 2 ^ 20 ≠ Off.jxlStatus) :
    linkStatuses (notify u f e a b) = linkStatuses b := by
  rw [notify, linkStatuses_raise]
  exact (linkStatuses_of_face rfl).trans (linkStatuses_setReg b _ h)
@[simp] theorem linkStatuses_tablePut (a : Nat) (v : List Byte) : linkStatuses (tablePut a v b) = linkStatuses b := linkStatuses_of_farRegs (by simp)
@[simp] theorem linkStatuses_answer (s : Status) (v : Nat) : linkStatuses (answer s v b) = linkStatuses b := linkStatuses_of_reg fun _ _ => reg_answer ..
@[simp] theorem linkStatuses_modFab (f : Fabric → Fabric) : linkStatuses (modFab f b) = linkStatuses b := linkStatuses_of_face rfl
@[simp] theorem linkStatuses_setLink (l : Nat) (x : Link) : linkStatuses (setLink l x b) = linkStatuses b := linkStatuses_of_face rfl
@[simp] theorem linkStatuses_modLink (l : Nat) (f : Link → Link) : linkStatuses (modLink l f b) = linkStatuses b := linkStatuses_of_face rfl
@[simp] theorem linkStatuses_setPair (j r : Nat) (p : Pair) : linkStatuses (setPair j r p b) = linkStatuses b := linkStatuses_of_face rfl
@[simp] theorem linkStatuses_setPort (u : Nat) (p : MacPort) : linkStatuses (setPort u p b) = linkStatuses b := linkStatuses_of_face rfl
@[simp] theorem linkStatuses_modPort (u : Nat) (f : MacPort → MacPort) : linkStatuses (modPort u f b) = linkStatuses b := linkStatuses_of_face rfl
@[simp] theorem linkStatuses_drawEntropy : linkStatuses (drawEntropy b).2 = linkStatuses b := linkStatuses_of_reg fun _ _ => rfl
@[simp] theorem linkStatuses_macCount (u n : Nat) {k : Nat} (h : k < 64) : linkStatuses (macCount u k n b) = linkStatuses b := by
  have ho : Off.macCntLo k = 0x20100 + 0x8 * k := rfl
  exact linkStatuses_bump b n (by rw [ho]; simp only [Off.jxlStatus]; omega) (by rw [ho]; simp only [Off.jxlStatus]; omega)
@[simp] theorem linkStatuses_bump_pfcTx (u c n : Nat) : linkStatuses (bump u (Off.macPfcTxLo c) n b) = linkStatuses b := by
  have ho : Off.macPfcTxLo c = 0x20208 + 0x10 * c := rfl
  exact linkStatuses_bump b n (by rw [ho]; simp only [Off.jxlStatus]; omega) (by rw [ho]; simp only [Off.jxlStatus]; omega)
@[simp] theorem linkStatuses_putWire (u : Nat) (f : List Byte) : linkStatuses (putWire u f b) = linkStatuses b := by
  rw [putWire, linkStatuses_macCount _ _ _ (by decide), linkStatuses_macCount _ _ _ (by decide)]
  exact linkStatuses_of_face rfl
@[simp] theorem linkStatuses_settleTx (u : Nat) : linkStatuses (settleTx u b) = linkStatuses b := by unfold settleTx; dsimp only; split <;> simp
@[simp] theorem linkStatuses_sendHead (u c : Nat) : linkStatuses (sendHead u c b) = linkStatuses b := by unfold sendHead; dsimp only; split <;> simp
@[simp] theorem linkStatuses_countCtl (u : Nat) (f : List Byte) : linkStatuses (countCtl u f b) = linkStatuses b := by
  unfold countCtl; split
  · simp
  · refine (foldl_keeps _ _ _ _ fun c l => ?_).trans (linkStatuses_macCount _ _ _ (by decide))
    split <;> simp
@[simp] theorem linkStatuses_sendCtl (u : Nat) : linkStatuses (sendCtl u b) = linkStatuses b := by
  unfold sendCtl; exact (foldl_keeps _ _ _ _ (by simp)).trans (linkStatuses_setPort ..)
@[simp] theorem linkStatuses_sendClasses (u n : Nat) : linkStatuses (sendClasses u n b) = linkStatuses b := by
  induction n generalizing b with
  | zero => rfl
  | succ n ih => unfold sendClasses; split <;> simp [ih]
@[simp] theorem linkStatuses_pump (u : Nat) : linkStatuses (pump u b) = linkStatuses b := by
  unfold pump; dsimp only; rw [linkStatuses_settleTx]; split
  · split <;> simp
  · rfl
@[simp] theorem linkStatuses_macSend (u c : Nat) (f : List Byte) : linkStatuses (macSend u c f b).2 = linkStatuses b := by
  unfold macSend; dsimp only; split
  · rfl
  · split <;> simp
@[simp] theorem linkStatuses_sendData (l v : Nat) : linkStatuses (sendData l v b) = linkStatuses b := by
  simp only [sendData]
  rw [linkStatuses_bump _ _ (by decide) (by decide)]
  exact linkStatuses_of_face rfl
@[simp] theorem linkStatuses_pumpGo (l n : Nat) : linkStatuses (pumpGo l n b) = linkStatuses b := by
  induction n generalizing b with
  | zero => rfl
  | succ n ih =>
    unfold pumpGo; dsimp only; split
    · rfl
    · split <;> simp [ih]
@[simp] theorem linkStatuses_pumpLink (l : Nat) : linkStatuses (pumpLink l b) = linkStatuses b := by unfold pumpLink; split <;> simp
@[simp] theorem linkStatuses_putFrame (j l r v : Nat) (f : List Byte) : linkStatuses (putFrame j l r v f b) = linkStatuses b := by
  unfold putFrame; split
  · simp
  · split <;> simp
@[simp] theorem linkStatuses_routeFrame (j r : Nat) (p : Option Nat) (f : List Byte) : linkStatuses (routeFrame j r p f b).2 = linkStatuses b := by
  unfold routeFrame; dsimp only; split
  · split <;> simp
  · simp
@[simp] theorem linkStatuses_sendKeyx (j r : Nat) : linkStatuses (sendKeyx j r b) = linkStatuses b := by unfold sendKeyx; split <;> simp
@[simp] theorem linkStatuses_startAgree (j r n : Nat) : linkStatuses (startAgree j r n b) = linkStatuses b := by unfold startAgree; split <;> simp
@[simp] theorem linkStatuses_noteAdvance (j r : Nat) (p q : Pair) : linkStatuses (noteAdvance j r p q b) = linkStatuses b := by
  unfold noteAdvance; dsimp only; split <;> simp
theorem linkStatuses_issueReq {q : FabReq} {p : Pair} {c : Block} (h : issueReq q p b = some c) : linkStatuses c = linkStatuses b := by
  unfold issueReq at h
  dsimp only at h
  split at h
  · cases h
  · cases h; simp
@[simp] theorem linkStatuses_endReq (q : FabReq) (s : Status) (v : Nat) : linkStatuses (endReq q s v b) = linkStatuses b := by
  unfold endReq; dsimp only; (repeat' split) <;> simp
@[simp] theorem linkStatuses_tryReq (q : FabReq) : linkStatuses (tryReq q b) = linkStatuses b := by
  unfold tryReq; dsimp only; split
  · simp
  · split
    · simp
    · split
      · simp
      · rename_i p _ _
        cases h : issueReq q p b with
        | none => simp
        | some c => simpa using linkStatuses_issueReq b h
@[simp] theorem linkStatuses_fabricRequest (q : FabReq) : linkStatuses (fabricRequest q b) = linkStatuses b := by unfold fabricRequest; split <;> simp
@[simp] theorem linkStatuses_retryWants : linkStatuses (retryWants b) = linkStatuses b := by
  unfold retryWants; exact (foldl_keeps _ _ _ _ (by simp)).trans (linkStatuses_modFab ..)
@[simp] theorem linkStatuses_finishReq (h : Held) (s : Status) (v : Nat) : linkStatuses (finishReq h s v b) = linkStatuses b := by simp [finishReq]
@[simp] theorem linkStatuses_resend (h : Held) : linkStatuses (resend h b) = linkStatuses b := by
  unfold resend; dsimp only; split
  · rw [linkStatuses_finishReq, linkStatuses_notify_other _ _ _ (by decide)]
  · rw [linkStatuses_bump _ _ (by decide) (by decide)]; simp
@[simp] theorem linkStatuses_rewriteVia (j : Nat) : linkStatuses (rewriteVia j b) = linkStatuses b := by
  unfold rewriteVia; dsimp only
  refine foldl_keeps _ _ _ _ fun c r => ?_
  simp
@[simp] theorem linkStatuses_linksChanged : linkStatuses (linksChanged b) = linkStatuses b := foldl_keeps _ _ _ _ (by simp)
@[simp] theorem linkStatuses_linkLeft (l : Nat) : linkStatuses (linkLeft l b) = linkStatuses b := by
  unfold linkLeft; exact (foldl_keeps _ _ _ _ (by simp)).trans (linkStatuses_linksChanged b)


/-! ### Fields of several bits -/

theorem withBits_parts (v x : Nat) {hi lo : Nat} (h : lo ≤ hi + 1) : withBits v hi lo x =
    2 ^ lo * (2 ^ (hi + 1 - lo) * (v / 2 ^ (hi + 1)) + x % 2 ^ (hi + 1 - lo)) + v % 2 ^ lo := by
  have hp : 2 ^ (hi + 1) = 2 ^ lo * 2 ^ (hi + 1 - lo) := by rw [← Nat.pow_add]; congr 1; omega
  have h1 := Nat.div_add_mod v (2 ^ lo)
  have h2 := Nat.div_add_mod (v / 2 ^ lo) (2 ^ (hi + 1 - lo))
  rw [withBits, bitsOf, Nat.shiftRight_eq_div_pow, hp, ← Nat.div_div_eq_div_mul]
  generalize v / 2 ^ lo / 2 ^ (hi + 1 - lo) = a at h2 ⊢
  generalize v / 2 ^ lo % 2 ^ (hi + 1 - lo) = m at h2 ⊢
  rw [← h2] at h1
  generalize 2 ^ (hi + 1 - lo) = q at h1 h2 ⊢
  generalize 2 ^ lo = p at h1 ⊢
  rw [Nat.mul_add] at h1 ⊢
  rw [Nat.mul_comm m p, Nat.mul_comm (x % q) p]
  generalize v % p = c at h1 ⊢
  omega

/-- A write of a field's bits sets them and leaves the others. -/
theorem testBit_withBits (v x i : Nat) {hi lo : Nat} (h : lo ≤ hi + 1) :
    (withBits v hi lo x).testBit i = if lo ≤ i ∧ i ≤ hi then x.testBit (i - lo) else v.testBit i := by
  rw [withBits_parts v x h, Nat.testBit_two_pow_mul_add _ (Nat.mod_lt _ (Nat.two_pow_pos _))]
  split
  · next hlt => rw [if_neg (by omega), Nat.testBit_mod_two_pow]; simp [hlt]
  · next hge =>
    rw [Nat.testBit_two_pow_mul_add _ (Nat.mod_lt _ (Nat.two_pow_pos _))]
    split
    · next hlt => rw [if_pos (by omega), Nat.testBit_mod_two_pow]; simp [hlt]
    · next hge' =>
      rw [if_neg (by omega), Nat.testBit_div_two_pow]
      congr 1
      omega

theorem testBit_bitsOf (v i hi lo : Nat) : (bitsOf v hi lo).testBit i = (decide (i < hi + 1 - lo) && v.testBit (lo + i)) := by
  simp [bitsOf, Nat.testBit_mod_two_pow, Nat.testBit_shiftRight]

/-- A field of 32 bits at most reads as it was written. -/
theorem bitsOf_withBits_same (v x : Nat) {hi lo : Nat} (h : lo ≤ hi + 1) (h32 : hi < 32) :
    bitsOf (withBits v hi lo x % 2 ^ 32) hi lo = x % 2 ^ (hi + 1 - lo) := by
  refine Nat.eq_of_testBit_eq fun i => ?_
  rw [testBit_bitsOf, Nat.testBit_mod_two_pow, testBit_withBits v x _ h, Nat.testBit_mod_two_pow]
  by_cases hi' : i < hi + 1 - lo
  · rw [if_pos (by omega)]
    simp [hi', show lo + i < 32 by omega]
  · simp [hi']

theorem bitsOf_withBits_other (v x : Nat) {hi lo hi' lo' : Nat} (h : lo ≤ hi + 1) (h32 : hi' < 32) (hd : hi' < lo ∨ hi < lo') :
    bitsOf (withBits v hi lo x % 2 ^ 32) hi' lo' = bitsOf v hi' lo' := by
  refine Nat.eq_of_testBit_eq fun i => ?_
  rw [testBit_bitsOf, Nat.testBit_mod_two_pow, testBit_withBits v x _ h, testBit_bitsOf]
  by_cases hi'' : i < hi' + 1 - lo'
  · rw [if_neg (by omega)]
    simp [show lo' + i < 32 by omega]
  · simp [hi'']

theorem fld_setFld_same (u v : Nat) {f : Field} {i : Nat} (h : f.lo ≤ f.hi + 1) (h32 : f.hi < 32) :
    fld (setFld u f v b i) u f i = v % 2 ^ (f.hi + 1 - f.lo) := by
  rw [fld, setFld, reg_setReg_same, bitsOf_withBits_same _ _ h h32]

theorem fld_of_reg {b c : Block} {u : Nat} {f : Field} {i : Nat} (h : reg c u (f.off + f.stride * i) = reg b u (f.off + f.stride * i)) :
    fld c u f i = fld b u f i := by
  rw [fld, fld, h]

/-- Another field of the same register. -/
theorem fld_setFld_beside (u v : Nat) {f g : Field} {i : Nat} (ho : g.off + g.stride * i = f.off + f.stride * i) (h : f.lo ≤ f.hi + 1) (h32 : g.hi < 32)
    (hd : g.hi < f.lo ∨ f.hi < g.lo) : fld (setFld u f v b i) u g i = fld b u g i := by
  rw [fld, setFld, ho, reg_setReg_same, bitsOf_withBits_other _ _ h h32 hd, fld, ho]

/-- A field of another register or another unit. -/
theorem fld_setReg_other {u o u' : Nat} {g : Field} {i : Nat} (v : Nat) (h : regKey u' (g.off + g.stride * i) ≠ regKey u o) :
    fld (setReg u o v b) u' g i = fld b u' g i := fld_of_reg (by rw [reg_setReg, if_neg h])

theorem fld_setFld_other {u u' : Nat} {f g : Field} {i k : Nat} (v : Nat) (h : regKey u' (g.off + g.stride * i) ≠ regKey u (f.off + f.stride * k)) :
    fld (setFld u f v b k) u' g i = fld b u' g i := fld_setReg_other b _ h

/-! ### Links by number -/

theorem linkOf_setLink (l n : Nat) (x : Link) : linkOf (setLink l x b) n = if n = l then x else linkOf b n := by simp [linkOf, setLink, modFab]

theorem linkOf_of_fab {b c : Block} (h : c.fab = b.fab) (n : Nat) : linkOf c n = linkOf b n := by rw [linkOf, linkOf, h]

theorem linkKey_ne {l n : Nat} (o o' : Nat) (h : n ≠ l) (ho : o < 2 ^ 20) (ho' : o' < 2 ^ 20) : regKey (uLink n) o ≠ regKey (uLink l) o' := by
  unfold regKey uLink
  omega

/-! ### Modes -/

theorem linkModeWrite_ignored {l v : Nat} (h : v % 4 = 3 ∨ (v % 4 = linkMode b l ∧ linkState b l ≠ lsFailed)) : linkModeWrite l v b = b := if_pos h

/-- What a change of the mode leaves before training begins: the link new, OFF, in its mode. -/
def modeSet (l m : Nat) (b : Block) : Block := setFld (uLink l) Fld.jxlCtrlMode m (setReg (uLink l) Off.jxlState 0 (setLink l Link.init b))

theorem linkModeWrite_down {l v : Nat} (h3 : v % 4 ≠ 3) (h : v % 4 ≠ linkMode b l ∨ linkState b l = lsFailed) (h2 : linkMode b l ≠ 2) (hup : linkUp b l = false) :
    linkModeWrite l v b = if v % 4 = 0 || !linksReleased (modeSet l (v % 4) b) then modeSet l (v % 4) b
      else setLinkState l lsTraining (if v % 4 = 2 then beginTry (uLink l) (modeSet l (v % 4) b) else modeSet l (v % 4) b) := by
  have hcond : ¬ (v % 4 = 3 ∨ (v % 4 = linkMode b l ∧ linkState b l ≠ lsFailed)) := by
    rintro (h' | ⟨h', hs⟩)
    · exact h3 h'
    · exact h.elim (· h') hs
  rw [linkModeWrite, if_neg hcond]
  simp only [hup, Bool.false_eq_true, if_neg h2, if_false]
  rfl

theorem linkMode_modeSet {l m : Nat} (h : m < 4) : linkMode (modeSet l m b) l = m := by
  rw [linkMode, modeSet, fld_setFld_same _ _ _ (by decide) (by decide)]
  exact Nat.mod_eq_of_lt h

theorem linkState_modeSet (l m : Nat) : linkState (modeSet l m b) l = lsOff := by
  rw [linkState, modeSet, fld_setFld_other _ _ (mt (regKey_same_unit _ _ _).mp (by decide)), fld, show Fld.jxlStateState.off + Fld.jxlStateState.stride * 0 = Off.jxlState from rfl,
    reg_setReg_same]
  rfl

theorem linkState_setLinkState {l s : Nat} (h : s < 8) : linkState (setLinkState l s b) l = s := by
  rw [linkState, setLinkState, fld_setFld_same _ _ _ (by decide) (by decide)]
  exact Nat.mod_eq_of_lt h

theorem linksReleased_modeSet (l m : Nat) : linksReleased (modeSet l m b) = linksReleased b := by
  have hne {o : Nat} (ho : o < 2 ^ 20) : regKey uChip (Fld.sysBootStageStage.off + Fld.sysBootStageStage.stride * 0) ≠ regKey (uLink l) o := by
    have : uChip = 0 := rfl
    have : Fld.sysBootStageStage.off + Fld.sysBootStageStage.stride * 0 < 2 ^ 20 := by decide
    unfold regKey uLink
    omega
  rw [linksReleased, linksReleased, modeSet, fld_setFld_other _ _ (hne (by decide)), fld_setReg_other _ _ (hne (by decide))]
  rfl

/-- What a mode change leaves: the link new and in its mode, the others as they were. -/
structure ModeChanged (l m : Nat) (b c : Block) : Prop where
  mode : linkMode c l = m
  link : linkOf c l = Link.init
  others : ∀ n, n ≠ l → linkOf c n = linkOf b n ∧ linkState c n = linkState b n
  held : c.fab.held = b.fab.held

theorem modeChanged_modeSet {l m : Nat} (h : m < 4) : ModeChanged l m b (modeSet l m b) where
  mode := linkMode_modeSet b h
  link := by simp [modeSet, linkOf, setLink, modFab, setFld, setReg]
  others n hn := by
    refine ⟨by simp [modeSet, linkOf, setLink, modFab, setFld, setReg, hn], ?_⟩
    rw [linkState, linkState, modeSet, fld_setFld_other _ _ (linkKey_ne _ _ hn (by decide) (by decide)), fld_setReg_other _ _ (linkKey_ne _ _ hn (by decide) (by decide))]
    rfl
  held := rfl

/-- The state of the link itself may change besides. -/
theorem ModeChanged.setLinkState {l m s : Nat} {c d : Block} (h : ModeChanged l m b c) (hface : d.face = c.face) (hfab : d.fab = c.fab) :
    ModeChanged l m b (setLinkState l s d) where
  mode := by rw [linkMode, Machine.setLinkState, fld_setFld_other _ _ (mt (regKey_same_unit _ _ _).mp (by decide)), fld_of_face hface]; exact h.mode
  link := (linkOf_of_fab hfab l).trans h.link
  others n hn := by
    refine ⟨(linkOf_of_fab hfab n).trans (h.others n hn).1, ?_⟩
    rw [linkState, Machine.setLinkState, fld_setFld_other _ _ (linkKey_ne _ _ hn (by decide) (by decide)), fld_of_face hface]
    exact (h.others n hn).2
  held := (congrArg Fabric.held hfab).trans h.held

theorem linkModeWrite_changes {l v : Nat} (h3 : v % 4 ≠ 3) (h : v % 4 ≠ linkMode b l ∨ linkState b l = lsFailed) (h2 : linkMode b l ≠ 2) (hup : linkUp b l = false) :
    ModeChanged l (v % 4) b (linkModeWrite l v b) ∧
    linkState (linkModeWrite l v b) l = (if v % 4 = 0 ∨ linksReleased b = false then lsOff else lsTraining) := by
  have hset := modeChanged_modeSet b (l := l) (m := v % 4) (Nat.mod_lt _ (by decide))
  rw [linkModeWrite_down b h3 h h2 hup, linksReleased_modeSet]
  by_cases hoff : v % 4 = 0 ∨ linksReleased b = false
  · rw [if_pos (by simpa using hoff), if_pos hoff]
    exact ⟨hset, linkState_modeSet b l _⟩
  · rw [if_neg (by simpa using hoff), if_neg hoff]
    exact ⟨hset.setLinkState b (by split <;> rfl) (by split <;> rfl), linkState_setLinkState _ (by decide)⟩

/-! ### Negotiation and training -/

theorem negotiate_trains {l lmin lmax pl pid tb rb : Nat} (hm : linkMode b l = 1) (hs : linkState b l = lsTraining) (hr : linksReleased b = true) :
    negotiate l lmin lmax pl pid tb rb b =
      let c := excludeLanes l tb rb b
      if txLanes c l < 4 ∨ rxLanes c l < 4 then failLink l c
      else match commonLevel (ownLmin c) (ownLmax c) lmin lmax with
      | none => notify (uLink l) Fld.jxlStatusNegFail .jxlNegFail (lmax * 2 ^ 8 + lmin) (setLinkState l lsFailed (sendNegotiate l c))
      | some lv => enterUp l (setFld (uLink l) Fld.jxlStatePeerlink pl (setFld (uLink l) Fld.jxlStateLevel lv
          (setReg (uLink l) Off.jxlPeerHi (pid / 2 ^ 32) (setReg (uLink l) Off.jxlPeerLo pid (sendNegotiate l c))))) := by
  have hcond : ¬ (linkMode b l ≠ 1 ∨ linkState b l ≠ lsTraining ∨ linksReleased b = false) := by simp [hm, hs, hr]
  rw [negotiate, if_neg hcond]
  rfl

theorem commonLevel_none {a b c d : Nat} (h : min b d < max a c) : commonLevel a b c d = none := if_neg (Nat.not_le.mpr h)
theorem commonLevel_some {a b c d : Nat} (h : max a c ≤ min b d) : commonLevel a b c d = some (min b d) := if_pos h

theorem retrainDone_trains {l tb rb : Nat} (h : linkState b l = lsRetraining) : retrainDone l tb rb b =
    let c := excludeLanes l tb rb b
    if txLanes c l < 4 ∨ rxLanes c l < 4 then failLink l c
    else
      let d := enterUp l (modLink l (fun x => { x with tries := [] }) c)
      pumpLink l (nakReplay l (linkOf d l).acked d) := by
  rw [retrainDone, if_neg (not_not_intro h)]

theorem retrain_due {l : Nat} {lost : Bool} (hup : linkUp b l = true) (h : lost = true ∨ ∃ t ∈ (linkOf b l).tries, 16 ≤ t.2) :
    retrain l lost b = enterRetrain l b := by
  have hcond : (linkUp b l && (lost || (linkOf b l).tries.any fun t => decide (16 ≤ t.2))) = true := by simpa [hup] using h
  rw [retrain, if_pos hcond]

/-! ### Lane commits -/

theorem maskedWrite_low (old v : Nat) : maskedWrite old v 0xFFFF % 2 ^ 16 = v % 2 ^ 16 := by
  have hv : Nat.land v 0xFFFF = v % 2 ^ 16 := Nat.and_two_pow_sub_one_eq_mod v 16
  have ho : Nat.land old 0xFFFF = old % 2 ^ 16 := Nat.and_two_pow_sub_one_eq_mod old 16
  have hsub : old - old % 2 ^ 16 = 2 ^ 16 * (old / 2 ^ 16) := by omega
  have hor : maskedWrite old v 0xFFFF = 2 ^ 16 * (old / 2 ^ 16) ||| v % 2 ^ 16 := by rw [maskedWrite, hv, ho, hsub]; rfl
  rw [hor, ← Nat.two_pow_add_eq_or_of_lt (Nat.mod_lt _ (by decide))]
  omega

/-- The lanes a commit would record. -/
def lanesWritten (l v : Nat) (b : Block) : Block := setReg (uLink l) Off.jxlLanemap (maskedWrite (reg b (uLink l) Off.jxlLanemap) v 0xFFFF) b

theorem reg_lanesWritten (l v : Nat) : reg (lanesWritten l v b) (uLink l) Off.jxlLanemap % 2 ^ 16 = v % 2 ^ 16 := by
  rw [lanesWritten, reg_setReg_same, Nat.mod_mod_of_dvd _ (by decide), maskedWrite_low]

theorem lanemapWrite_commits {l v : Nat} (h : bitOf v 31 = true) : let c := lanemapCommit l (lanesWritten l v b)
    lanemapWrite l v b = if !linkUp c l then c else if txLanes (showLanes l c) l < 4 ∨ rxLanes (showLanes l c) l < 4 then failLink l (showLanes l c)
      else showLanes l c := by
  rw [lanemapWrite]
  simp only [h, if_true]
  rfl

theorem store_lanemapWrite {l v : Nat} (h : bitOf v 31 = true) : (lanemapWrite l v b).tly.store = (lanemapCommit l (lanesWritten l v b)).tly.store := by
  refine store_of_tallyPart ?_
  rw [lanemapWrite_commits b h]
  split
  · rfl
  · split <;> simp

theorem lanemapCommit_counted {l : Nat} (h : reg b (uLink l) Off.jxlLanemap % 2 ^ 16 ≠ b.tly.store.lanes.get 0 l) (h8 : b.tly.store.laneUsed.get 0 l < 8) :
    (lanemapCommit l b).tly.store = { b.tly.store with
      lanes := b.tly.store.lanes.put l (reg b (uLink l) Off.jxlLanemap % 2 ^ 16)
      laneUsed := b.tly.store.laneUsed.put l (b.tly.store.laneUsed.get 0 l + 1) } := by
  simp only [lanemapCommit, if_neg h, if_neg (Nat.not_le.mpr h8)]
  rfl

theorem lanemapCommit_refused {l : Nat} (h : reg b (uLink l) Off.jxlLanemap % 2 ^ 16 ≠ b.tly.store.lanes.get 0 l) (h8 : 8 ≤ b.tly.store.laneUsed.get 0 l) :
    lanemapCommit l b = notify (uLink l) Fld.jxlStatusRemapRefused .jxlRemapRefused (b.tly.store.laneUsed.get 0 l) b := by
  simp only [lanemapCommit, if_neg h, if_pos h8]

/-- A status bit of the link that an event of the same link sets stays set when another one is. -/
theorem flag_notify_kept {u : Nat} {f g : Field} (e : Ev) (arg : Nat) (hu : u ≠ uTly) (ho : OwnOffset (g.off + g.stride * 0)) (hg : g.hi = g.lo) (hlt : g.lo < 16)
    (hf : f.lo < 16) (hfg : f.off + f.stride * 0 = g.off + g.stride * 0) (h : flag b u g = true) : flag (notify u f e arg b) u g = true := by
  rw [flag_eq_bitOf _ _ _ _ hg] at h
  rw [notify, flag_of_reg (reg_raise_own _ u e arg hu ho), flag_eq_bitOf _ _ _ _ hg, ← hfg, bitOf_setSq _ _ _ _ _ hf hlt, hfg, h, Bool.true_or]

theorem flag_of_linkStatuses {b c : Block} (h : linkStatuses c = linkStatuses b) {l : Nat} (hl : l < 24) {f : Field} (hf : f.off + f.stride * 0 = Off.jxlStatus) :
    flag c (uLink l) f = flag b (uLink l) f := flag_of_reg (by rw [hf, reg_of_linkStatuses h hl])

theorem linkStatuses_setFld_state (u : Nat) {f : Field} (v : Nat) (h : f.off + f.stride * 0 = Off.jxlState) : linkStatuses (setFld u f v b) = linkStatuses b :=
  linkStatuses_setReg b _ (by rw [h]; decide)

theorem linkStatuses_degrade (l : Nat) : linkStatuses (degrade (uLink l) b) = linkStatuses b := by
  unfold degrade
  split
  · refine linkStatuses_of_reg fun n _ => ?_
    unfold setOwn
    rw [if_neg fun h => absurd h.1 (by decide)]
    rfl
  · rfl

theorem linkStatuses_showLanes (l : Nat) : linkStatuses (showLanes l b) = linkStatuses b := by
  unfold showLanes
  simp only [linkStatuses_ite, linkStatuses_degrade, linkStatuses_modPort, linkStatuses_setFld_state _ _ _ (show Fld.jxlStateTxw.off + _ = _ from rfl),
    linkStatuses_setFld_state _ _ _ (show Fld.jxlStateRxw.off + _ = _ from rfl), ite_self]

theorem flag_failLink {l : Nat} (hl : l < 24) (h : flag b (uLink l) Fld.jxlStatusRemapRefused = true) :
    flag (failLink l b) (uLink l) Fld.jxlStatusRemapRefused = true := by
  have hstate : flag (setLinkState l lsFailed (setLink l Link.init b)) (uLink l) Fld.jxlStatusRemapRefused = true := by
    rw [flag_of_linkStatuses (b := b) _ hl rfl]
    · exact h
    · rw [setLinkState, linkStatuses_setFld_state _ _ _ rfl, linkStatuses_setLink]
  have hkept := flag_notify_kept _ (f := Fld.jxlStatusFailed) (g := Fld.jxlStatusRemapRefused) .jxlFailed 0 (uLink_lt hl).1 (by decide) rfl (by decide) (by decide) rfl hstate
  unfold failLink
  dsimp only
  split
  · rw [flag_of_linkStatuses (linkStatuses_linkLeft ..) hl rfl]; exact hkept
  · exact hkept

theorem lanemapWrite_refused {l v : Nat} (hl : l < 24) (h : bitOf v 31 = true) (hne : v % 2 ^ 16 ≠ b.tly.store.lanes.get 0 l)
    (h8 : 8 ≤ b.tly.store.laneUsed.get 0 l) : (lanemapWrite l v b).tly.store = b.tly.store ∧ flag (lanemapWrite l v b) (uLink l) Fld.jxlStatusRemapRefused = true := by
  have hcommit := lanemapCommit_refused (lanesWritten l v b) (l := l) (by rw [reg_lanesWritten]; exact hne) h8
  have hbit : flag (lanemapCommit l (lanesWritten l v b)) (uLink l) Fld.jxlStatusRemapRefused = true := by
    rw [hcommit]
    exact flag_notify_same _ _ _ (uLink_lt hl).1 rfl (by decide) (by decide)
  refine ⟨by rw [store_lanemapWrite b h, hcommit, store_notify]; rfl, ?_⟩
  have hshown : flag (showLanes l (lanemapCommit l (lanesWritten l v b))) (uLink l) Fld.jxlStatusRemapRefused = true := by
    rw [flag_of_linkStatuses (linkStatuses_showLanes ..) hl rfl, hbit]
  rw [lanemapWrite_commits b h]
  split
  · exact hbit
  · split
    · exact flag_failLink _ hl hshown
    · exact hshown

/-! ### Flits -/

theorem frameRx_quiet {rx : Block → Block} (h : (rx b).fab.silent = b.fab.silent) : frameRx rx b = rx b := by
  have hnil : ((rx b).fab.silent.filter fun k => !b.fab.silent.contains k) = [] := by rw [h]; simp
  rw [frameRx, hnil, List.foldl_nil]

/-- What the link takes from a flit apart from its frames: what it sends changes none of this. -/
def rxPart (l : Nat) (b : Block) : (Bool × Nat × SMap (List Byte)) × Granary × List Nat :=
  (((linkOf b l).nakked, (linkOf b l).rxSeq, (linkOf b l).rxq), b.grn, b.fab.silent)

theorem rxPart_sendIdle (l : Nat) (nak : Bool) : rxPart l (sendIdle l nak b) = rxPart l b := by
  simp [rxPart, sendIdle, takeFreed, putFlit, linkOf, setLink, modFab]

theorem rxPart_sendData (l v : Nat) : rxPart l (sendData l v b) = rxPart l b := by
  simp only [rxPart, sendData, takeFreed, putFlit, setLink, modFab, linkOf, bump, setReg, SMap.get_put, if_true]

theorem rxPart_pumpGo (l n : Nat) : rxPart l (pumpGo l n b) = rxPart l b := by
  induction n generalizing b with
  | zero => rfl
  | succ n ih =>
    unfold pumpGo
    dsimp only
    split
    · rfl
    · split
      · rw [ih, rxPart_sendData]
      · rfl

theorem rxPart_pumpLink (l : Nat) : rxPart l (pumpLink l b) = rxPart l b := by
  unfold pumpLink
  split
  · exact rxPart_pumpGo ..
  · rfl

theorem flits_sendIdle (l : Nat) (nak : Bool) : (sendIdle l nak b).fab.flits.length = b.fab.flits.length + 1 := by
  simp [sendIdle, putFlit, setLink, modFab]

theorem ackTo_rx (a : Nat) (x : Link) : (ackTo a x).nakked = x.nakked ∧ (ackTo a x).rxSeq = x.rxSeq ∧ (ackTo a x).rxq = x.rxq := by
  unfold ackTo
  split <;> exact ⟨rfl, rfl, rfl⟩

theorem grn_keepTally_of {f : Block → Block} (h : (f b).grn = b.grn) : (keepTally f b).grn = b.grn := by
  have : (keepTally f b).grn = { (f b).grn with mapUsed := b.grn.mapUsed } := rfl
  rw [this, h]

/-- The block once the corrections of a flit have been counted. -/
def fecCounted (l corr uncorr : Nat) (b : Block) : Block := bump (uLink l) Off.jxlFecUncorrLo uncorr (bump (uLink l) Off.jxlFecCorrLo corr b)

theorem flitReceive_open {l : Nat} {f : List Byte} {corr uncorr : Nat} (hup : linkUp b l = true) (hm : linkMode b l = 1) :
    flitReceive l f corr uncorr b =
    let c := fecCounted l corr uncorr b
    let x := linkOf b l
    let bad := f.length != 288 || leAt f 284 4 != crc32 (f.take 284)
    if bad || leAt f 1 3 != x.rxSeq then
      let c := if bad then bump (uLink l) Off.jxlCrcErrLo 1 c else c
      if x.nakked && !bad then ([], c) else ([], sendIdle l true (modLink l (fun x => { x with nakked := true }) c))
    else
      let typ := leAt f 0 1 % 16
      let vc := leAt f 0 1 / 16 % 8
      let x := ackTo (leAt f 4 3) { x with nakked := false }
      let x := { x with credit := (List.range 8).foldl (fun (c : SMap Nat) v => c.put v (c.get 64 v + leAt f (8 + v) 1)) x.credit }
      let x := if typ = 0 then x else { x with rxSeq := seqNext x.rxSeq }
      let c := setLink l x c
      let c := if bitOf (leAt f 7 1) 0 then nakReplay l (leAt f 4 3) c else c
      if typ = 1 then
        let q := (linkOf c l).rxq.get [] vc ++ (f.drop 28).take 256
        let r := takeFrames 16 q
        let c := modLink l (fun x => { x with rxq := x.rxq.put vc r.2, freed := x.freed.put vc (x.freed.get 0 vc + 1) }) c
        (r.1, sendIdle l false (pumpLink l (bump (uLink l) Off.jxlFlitsRxLo 1 c)))
      else ([], pumpLink l c) := by
  have hcond : ¬ (!(linkUp b l && linkMode b l == 1)) = true := by simp [hup, hm]
  rw [flitReceive, if_neg hcond]
  rfl

/-- A flit that is not taken is answered by one NAK, unless one has been sent for a lost flit and this one is whole. -/
theorem flitRx_discards {l : Nat} {f : List Byte} {corr uncorr : Nat} (hup : linkUp b l = true) (hm : linkMode b l = 1) (hlen : f.length = 288)
    (h : leAt f 284 4 ≠ crc32 (f.take 284) ∨ leAt f 1 3 ≠ (linkOf b l).rxSeq) :
    let c := if leAt f 284 4 ≠ crc32 (f.take 284) then bump (uLink l) Off.jxlCrcErrLo 1 (fecCounted l corr uncorr b) else fecCounted l corr uncorr b
    flitRx l f corr uncorr b = if (linkOf b l).nakked = true ∧ leAt f 284 4 = crc32 (f.take 284) then c
      else sendIdle l true (modLink l (fun x => { x with nakked := true }) c) := by
  have hr : (flitReceive l f corr uncorr b).1 = [] ∧ (flitReceive l f corr uncorr b).2 =
      let c := if leAt f 284 4 ≠ crc32 (f.take 284) then bump (uLink l) Off.jxlCrcErrLo 1 (fecCounted l corr uncorr b) else fecCounted l corr uncorr b
      if (linkOf b l).nakked = true ∧ leAt f 284 4 = crc32 (f.take 284) then c
      else sendIdle l true (modLink l (fun x => { x with nakked := true }) c) := by
    rw [flitReceive_open b hup hm]
    by_cases hcrc : leAt f 284 4 = crc32 (f.take 284)
    · have hseq := h.resolve_left (not_not_intro hcrc)
      cases hn : (linkOf b l).nakked <;> simp [hlen, hcrc, hseq, hn]
    · simp [hlen, hcrc]
  intro c
  rw [flitRx, hr.1, hr.2]
  rfl

/-- What a flit that is not taken leaves. -/
theorem flitRx_discards_leaves {l : Nat} {f : List Byte} {corr uncorr : Nat} (hup : linkUp b l = true) (hm : linkMode b l = 1) (hlen : f.length = 288)
    (h : leAt f 284 4 ≠ crc32 (f.take 284) ∨ leAt f 1 3 ≠ (linkOf b l).rxSeq) :
    rxPart l (flitRx l f corr uncorr b) = ((true, (linkOf b l).rxSeq, (linkOf b l).rxq), b.grn, b.fab.silent) ∧
    (flitRx l f corr uncorr b).fab.flits.length =
      b.fab.flits.length + (if (linkOf b l).nakked = true ∧ leAt f 284 4 = crc32 (f.take 284) then 0 else 1) ∧
    tallyPart (flitRx l f corr uncorr b) = tallyPart b := by
  rw [flitRx_discards b hup hm hlen h]
  have hc (c : Block) (hc : c = fecCounted l corr uncorr b ∨ c = bump (uLink l) Off.jxlCrcErrLo 1 (fecCounted l corr uncorr b)) :
      c.fab = b.fab ∧ c.grn = b.grn ∧ tallyPart c = tallyPart b := by
    rcases hc with rfl | rfl <;> exact ⟨rfl, rfl, by simp [fecCounted]⟩
  have hcc := hc (if leAt f 284 4 ≠ crc32 (f.take 284) then bump (uLink l) Off.jxlCrcErrLo 1 (fecCounted l corr uncorr b) else fecCounted l corr uncorr b)
    (by split <;> simp)
  revert hcc
  generalize (if leAt f 284 4 ≠ crc32 (f.take 284) then bump (uLink l) Off.jxlCrcErrLo 1 (fecCounted l corr uncorr b) else fecCounted l corr uncorr b) = c
  rintro ⟨hfab, hgrn, ht⟩
  have hlink : linkOf c l = linkOf b l := linkOf_of_fab hfab l
  split
  · next hn => exact ⟨by simp [rxPart, hlink, hn.1, hfab, hgrn], by rw [hfab]; rfl, ht⟩
  · refine ⟨?_, by rw [flits_sendIdle]; exact congrArg (·.flits.length + 1) hfab, ?_⟩
    · rw [rxPart_sendIdle]
      simp [rxPart, modLink, linkOf_setLink, hlink]
      simp [setLink, modFab, hfab, hgrn]
    · simp [sendIdle, putFlit, ht]

/-- A data flit in its place is taken: the next is awaited, and the bytes it brings wait for a whole frame. -/
theorem flitRx_takes {l : Nat} {f : List Byte} {corr uncorr : Nat} (hup : linkUp b l = true) (hm : linkMode b l = 1) (hlen : f.length = 288)
    (hcrc : leAt f 284 4 = crc32 (f.take 284)) (hseq : leAt f 1 3 = (linkOf b l).rxSeq) (htyp : leAt f 0 1 % 16 = 1) (hnak : bitOf (leAt f 7 1) 0 = false)
    {q : List Byte} (hq : (linkOf b l).rxq.get [] (leAt f 0 1 / 16 % 8) ++ (f.drop 28).take 256 = q) (hnone : (takeFrames 16 q).1 = []) :
    rxPart l (flitRx l f corr uncorr b) = ((false, ((linkOf b l).rxSeq + 1) % 2 ^ 24, (linkOf b l).rxq.put (leAt f 0 1 / 16 % 8) (takeFrames 16 q).2), b.grn, b.fab.silent) ∧
    tallyPart (flitRx l f corr uncorr b) = tallyPart b := by
  obtain ⟨hn, hs, hrxq⟩ := ackTo_rx (leAt f 4 3) { linkOf b l with nakked := false }
  have hfull : (f.length != 288 || leAt f 284 4 != crc32 (f.take 284)) = false := by simp [hlen, hcrc]
  have hr := flitReceive_open b (f := f) (corr := corr) (uncorr := uncorr) hup hm
  simp only [hfull, hseq, bne_self_eq_false, Bool.or_self, Bool.false_eq_true, if_false, htyp, hnak, if_true, if_neg (show ¬ (1 : Nat) = 0 by decide)] at hr
  generalize ackTo (leAt f 4 3) { linkOf b l with nakked := false } = x at hn hs hrxq hr
  simp only [linkOf_setLink, if_true, hrxq, hq, modLink] at hr
  rw [flitRx, hr]
  simp only [hnone, List.foldl_nil]
  refine ⟨?_, by simp [sendIdle, putFlit, fecCounted]⟩
  rw [rxPart_sendIdle, rxPart_pumpLink]
  simp only [rxPart, hn, hs, linkOf, setLink, modFab, bump, setReg, fecCounted, SMap.get_put, if_true, seqNext]

/-! ### Replays -/

/-- The tries of the flits that are sent again. -/
def triesAfter (t : SMap Nat) (l : List (Nat × List Byte)) : SMap Nat := l.foldl (fun (t : SMap Nat) (r : Nat × List Byte) => t.put r.1 (t.get 0 r.1 + 1)) t

theorem le_triesAfter (l : List (Nat × List Byte)) (k : Nat) : ∀ t : SMap Nat, t.get 0 k ≤ (triesAfter t l).get 0 k := by
  induction l with
  | nil => exact fun _ => Nat.le_refl _
  | cons r l ih =>
    intro t
    refine Nat.le_trans ?_ (ih (t.put r.1 (t.get 0 r.1 + 1)))
    rw [SMap.get_put]
    split
    · next h => subst h; omega
    · exact Nat.le_refl _

theorem lt_triesAfter (l : List (Nat × List Byte)) : ∀ t : SMap Nat, ∀ r ∈ l, t.get 0 r.1 < (triesAfter t l).get 0 r.1 := by
  induction l with
  | nil => simp
  | cons r l ih =>
    intro t r' hr'
    rcases List.mem_cons.mp hr' with rfl | h
    · refine Nat.lt_of_lt_of_le ?_ (le_triesAfter l r'.1 (t.put r'.1 (t.get 0 r'.1 + 1)))
      rw [SMap.get_put, if_pos rfl]
      omega
    · refine Nat.lt_of_le_of_lt ?_ (ih (t.put r.1 (t.get 0 r.1 + 1)) r' h)
      rw [SMap.get_put]
      split
      · next h => rw [h]; omega
      · exact Nat.le_refl _

theorem fab_putFlits (l : Nat) (rs : List (Nat × List Byte)) : ∀ b : Block,
    rs.foldl (fun (b : Block) (r : Nat × List Byte) => putFlit l r.2 b) b = modFab (fun x => { x with flits := x.flits ++ rs.map fun r => (l, r.2) }) b := by
  induction rs with
  | nil => intro b; simp [modFab]
  | cons r rs ih => intro b; rw [List.foldl_cons, ih]; simp [putFlit, modFab]

theorem nakReplay_replays {l a : Nat} (hup : linkUp b l = true) (hm : linkMode b l = 1) {x : Link} (hx : ackTo a (linkOf b l) = x) :
    (nakReplay l a b).fab = { b.fab with
      links := b.fab.links.put l { x with tries := triesAfter x.tries x.replay }
      flits := b.fab.flits ++ x.replay.map fun r => (l, r.2) } := by
  have hcond : (linkUp b l && linkMode b l == 1) = true := by simp [hup, hm]
  rw [nakReplay, if_pos hcond]
  simp only [hx, fab_putFlits]
  rfl

theorem ackTo_txSeq (a : Nat) (x : Link) : (ackTo a x).txSeq = x.txSeq := by unfold ackTo; split <;> rfl

end Sys2Proof.Machine

open Sys2Proof Sys2Proof.Machine

/-- Settles O38, command by command. -/
theorem linkCommands : Obligations.LinkCommands := by
  unfold Obligations.LinkCommands
  refine fun s l v hon => ⟨?ignored, ?mode, ?negotiate, ?lanes, ?flit, ?nak, ?retrain, ?done⟩
  case ignored => exact fun h => acts_main rfl hon (linkModeWrite_ignored s.blk h)
  case mode =>
    intro h3 h h2 hup
    obtain ⟨⟨hmode, hlink, hothers, hheld⟩, hstate⟩ := linkModeWrite_changes s.blk h3 h h2 hup
    exact answersWith_main (g := linkModeWrite l v.toNat) rfl hon ⟨hmode, hstate, hlink, fun n hn => hothers n (Fin.val_ne_of_ne hn), hheld⟩
  case negotiate =>
    intro lmin lmax tb rb pl pid hm hs hr b
    have he := negotiate_trains s.blk (l := l) (lmin := lmin) (lmax := lmax) (pl := pl) (pid := pid) (tb := tb) (rb := rb) hm hs hr
    refine ⟨fun h => acts_main rfl hon (he.trans (if_pos h)), fun ht hr hlt => acts_main rfl hon (he.trans ?_), fun ht hr hle => acts_main rfl hon (he.trans ?_)⟩
    · refine (if_neg (not_or.mpr ⟨Nat.not_lt.mpr ht, Nat.not_lt.mpr hr⟩)).trans ?_
      rw [commonLevel_none hlt]
    · refine (if_neg (not_or.mpr ⟨Nat.not_lt.mpr ht, Nat.not_lt.mpr hr⟩)).trans ?_
      rw [commonLevel_some hle]
  case lanes =>
    intro hne h31
    refine ⟨fun h8 => ?_, fun h8 => ?_⟩
    · refine answersWith_all rfl ?_
      have hc := lanemapCommit_counted (lanesWritten l v.toNat s.blk) (l := l) (by rw [reg_lanesWritten]; exact hne) h8
      rw [whenMain_on _ _ hon, store_lanemapWrite s.blk h31, hc, reg_lanesWritten]
      exact ⟨by simp, by simp [lanesWritten, setReg], fun n hn => ⟨by simp [lanesWritten, setReg, hn], by simp [lanesWritten, setReg, hn]⟩⟩
    · refine answersWith_all rfl ?_
      rw [whenMain_on _ _ hon]
      exact lanemapWrite_refused s.blk l.isLt h31 hne h8
  case flit =>
    intro f corr uncorr hup hm hlen
    refine ⟨fun h => ?_, ?_⟩
    · obtain ⟨hrx, hflits, ht⟩ := flitRx_discards_leaves s.blk (corr := corr) (uncorr := uncorr) hup hm hlen h
      obtain ⟨hlink, hgrn, hsilent⟩ := Prod.ext_iff.mp hrx |>.imp id Prod.ext_iff.mp
      obtain ⟨hn, hs, hq⟩ := Prod.ext_iff.mp hlink |>.imp id Prod.ext_iff.mp
      have hquiet := frameRx_quiet s.blk (rx := flitRx l f corr uncorr) hsilent
      exact answersWith_kept (g := frameRx (flitRx l f corr uncorr)) rfl hon (by rw [hquiet, ht]) (by rw [hquiet]; exact ⟨hn, hs, hq, hflits, hgrn⟩)
    · intro hcrc hseq htyp hnak vc q hnone
      obtain ⟨hrx, ht⟩ := flitRx_takes s.blk (corr := corr) (uncorr := uncorr) hup hm hlen hcrc hseq htyp hnak rfl hnone
      obtain ⟨hlink, hgrn, hsilent⟩ := Prod.ext_iff.mp hrx |>.imp id Prod.ext_iff.mp
      obtain ⟨hn, hs, hq⟩ := Prod.ext_iff.mp hlink |>.imp id Prod.ext_iff.mp
      have hquiet := frameRx_quiet s.blk (rx := flitRx l f corr uncorr) hsilent
      refine answersWith_kept (g := frameRx (flitRx l f corr uncorr)) rfl hon (by rw [hquiet, ht]) ?_
      rw [hquiet]
      exact ⟨hn, hs, (congrArg (SMap.get · [] vc) hq).trans (by simp [vc, q]), hgrn⟩
  case nak =>
    intro ack hup hm x
    have hfab := nakReplay_replays s.blk (l := l) (a := ack) hup hm (x := x) rfl
    have hlink : linkOf (nakReplay l ack s.blk) l = { x with tries := triesAfter x.tries x.replay } := by rw [linkOf, hfab]; simp
    refine answersWith_main (g := nakReplay l ack) rfl hon ?_
    rw [linkOf_of_fab (b := nakReplay l ack s.blk) (c := keepTally (nakReplay l ack) s.blk) rfl l, hlink]
    exact ⟨rfl, congrArg Fabric.flits hfab, lt_triesAfter x.replay x.tries, ackTo_txSeq ..⟩
  case retrain =>
    intro lost hup h recent
    have he := retrain_due s.blk hup h
    exact ⟨fun h3 => acts_main rfl hon (he.trans (if_pos h3)), fun h3 => acts_main rfl hon (he.trans (if_neg (Nat.not_le.mpr h3)))⟩
  case done =>
    intro tb rb hs b
    have he := retrainDone_trains s.blk (l := l) (tb := tb) (rb := rb) hs
    exact ⟨fun h => acts_main rfl hon (he.trans (if_pos h)), fun ht hr => acts_main rfl hon (he.trans (if_neg (not_or.mpr ⟨Nat.not_lt.mpr ht, Nat.not_lt.mpr hr⟩)))⟩

end

section
/-! PROOFS. The rows of a step and the mirror (R323 to R345, Table 9.4). -/

namespace Sys2Proof.Machine

variable (b : Block) (j : Nat)

/-! ### The rows of a step up to its sweep -/

theorem sendGrads_plain (gs : List Nat) : sendGrads false false gs [] = (gs.flatMap (leBytes 4), []) := rfl

/-- A row whose tables cannot be touched is not run; one whose tables can goes on with them touched. -/
theorem gradientReduce_plain {contribs : List (Nat × List (List Byte))} {out : List Byte} {d : Block} (hp : trnPhase b j = 1) (ht : tilesEnded b j = true)
    (hg : flag b uTrn Fld.trnJobStateGrad8 j = false) (hw : (trnOf b j).wasGrad8 = false) (hd : trnTouch j (tableRanges b j) b = (true, d)) :
    gradientReduce j contribs out b = setPhaseTrn j 2 (modJob j (fun x => { x with wasGrad8 := false })
      (modTrn (fun t => { t with grads := t.grads ++ [(j, (elemsOf 4 out).flatMap (leBytes 4))] })
        (addUndo j (stepNow b j) [] false (reduceEntries j contribs d)))) := by
  have hcond : ¬ (trnPhase b j ≠ 1 ∨ (!tilesEnded b j) = true) := by simp [hp, ht]
  rw [gradientReduce, if_neg hcond]
  simp only [hg, hw, Bool.or_self, Bool.false_eq_true, if_false, List.append_nil, hd, Bool.not_true, sendGrads_plain]

theorem gradientReduce_residue {contribs : List (Nat × List (List Byte))} {out : List Byte} {g8 was8 : Bool} {d0 : Block} (hp : trnPhase b j = 1)
    (ht : tilesEnded b j = true) (hg : flag b uTrn Fld.trnJobStateGrad8 j = g8) (hw : (trnOf b j).wasGrad8 = was8) (hres : g8 = true ∨ was8 = true)
    (hd : trnTouch j (tableRanges b j ++ [(scb b j 176 8, 4 * (scb b j 184 8 / 4))]) b = (true, d0)) :
    gradientReduce j contribs out b =
      let d := reduceEntries j contribs d0
      let r := sendGrads g8 was8 (elemsOf 4 out) (f32sAt d (scb b j 176 8) (scb b j 184 8 / 4))
      setPhaseTrn j 2 (modJob j (fun x => { x with wasGrad8 := g8 }) (modTrn (fun t => { t with grads := t.grads ++ [(j, r.1)] })
        (putF32s j (scb b j 176 8) r.2 (addUndo j (stepNow b j) [keepRange d (scb b j 176 8) (4 * (scb b j 184 8 / 4))] false d)))) := by
  have hcond : ¬ (trnPhase b j ≠ 1 ∨ (!tilesEnded b j) = true) := by simp [hp, ht]
  have hor : (g8 || was8) = true := by simpa using hres
  rw [gradientReduce, if_neg hcond]
  simp only [hg, hw, hor, if_true, hd, Bool.not_true, Bool.false_eq_true, if_false]

theorem tiedPass_touched {d : Block} (hp : trnPhase b j = 2) (hd : trnTouch j (tableRanges b j) b = (true, d)) :
    tiedPass j b =
      let c := (List.range (scb b j 216 2)).foldl (fun b i => tiedSet j i b) d
      if (trnOf c j).failed.isSome then c else setPhaseTrn j 3 c := by
  rw [tiedPass, if_neg (not_not_intro hp)]
  simp only [hd, if_true]

theorem trnOf_setPhaseTrn (p n : Nat) : trnOf (setPhaseTrn j p b) n = trnOf b n := rfl

theorem sweepLaunch_ready {d : Block} (h : sweepReady b j = true) (hd : trnTouch j (tableRanges b j) b = (true, d)) :
    sweepLaunch j b =
      let e := setPhaseTrn j 4 (modJob j (fun x => { x with sweepBad := false }) d)
      let c := addUndo j (stepNow b j) ((sweptArrays e j).map fun m => keepRange e m.addr m.bytes) true e
      (sweptStacks c j).foldl (fun d st =>
        let l := launch st (setReg (uStack st) Off.grnGlIdent (ownRank c j * 2 ^ 22 + j * 2 ^ 8 + 1)
          (setReg (uStack st) Off.grnGlSeed (d.ctx.jobSeed.get 0 j) (setReg (uStack st) Off.grnGlStep (stepNow b j) d)))
        if (List.range 128).any fun i => (glOf l (128 * st + i)).run != .idle && (glOf l (128 * st + i)).launch.job == j then l
        else modJob j (fun x => { x with sweepBad := true }) l) c := by
  rw [sweepLaunch, if_neg (by simp [h])]
  simp only [hd, Bool.not_true, Bool.false_eq_true, if_false]

theorem sheafEmit_touched {d : Block} (hp : trnPhase b j = 4) (hg : gleanersRun b j = false) (hs : (trnOf b j).sweepBad = false)
    (hd : trnTouch j (tableRanges b j) b = (true, d)) (hf : recsFit b j (changedRecs b j (stepNow b j) (mirroredArrays (stateEnts b j))) = true) :
    sheafEmit j b =
      let ms := mirroredArrays (stateEnts b j)
      let c := emitChanged j (stepNow b j) ms (trnWrite j (scb b j 88 8) ((blockCrcs b ms).flatMap (leBytes 8)) d)
      setPhaseTrn j 5 (modJob j (fun x => { x with root := if (checkedArrays c j).isEmpty then 0 else shardRoot c j }) c) := by
  have hcond : ¬ (trnPhase b j ≠ 4 ∨ gleanersRun b j = true ∨ (trnOf b j).sweepBad = true) := by simp [hp, hg, hs]
  rw [sheafEmit, if_neg hcond]
  simp only [hd, hf, Bool.not_true, Bool.false_eq_true, or_self, if_false]

/-! ### The undo of a sweep -/

@[simp] theorem trnOf_modJob (f : TrnJob → TrnJob) (n : Nat) : trnOf (modJob j f b) n = if n = j then f (trnOf b j) else trnOf b n := by
  simp [trnOf, modJob, setTrn, modTrn]

theorem trnOf_of_trn {b c : Block} (h : c.trn = b.trn) (n : Nat) : trnOf c n = trnOf b n := by rw [trnOf, trnOf, h]

/-- Noting a failure changes what the job answers and nothing else of it. -/
theorem undo_noteTrnFail : (trnOf (noteTrnFail j b) j).undo = (trnOf b j).undo := by simp [noteTrnFail]

theorem undo_putBack (k : Kept) : (trnOf (putBack j k b) j).undo = (trnOf b j).undo := by
  unfold putBack
  refine foldl_keeps (fun c => (trnOf c j).undo) _ _ b fun c p => ?_
  dsimp only
  split
  · rw [trnOf_of_trn (trn_of_restPart (restPart_granaryWrite ..))]
  · rw [undo_noteTrnFail, trnOf_of_trn (trn_of_restPart (restPart_granaryWrite ..))]

theorem undo_undoStep (n : Nat) : (trnOf (undoStep j n b) j).undo = (trnOf b j).undo.filter fun u => u.step ≠ n := by
  unfold undoStep
  dsimp only
  rw [trnOf_modJob, if_pos rfl]
  dsimp only
  rw [foldl_keeps (fun c => (trnOf c j).undo) _ _ _ (by simp)]
  rw [foldl_keeps (fun c => (trnOf c j).undo) _ _ b fun c u => foldl_keeps (fun c => (trnOf c j).undo) _ _ c fun c k => undo_putBack c j k]

/-- What the undo of a sweep leaves once the blocks are back. -/
def sweepGone (n : Nat) (b : Block) : Block := notify uTrn Fld.trnStatusSweepUndone .trnSweepUndone (j * 2 ^ 29)
  (setPhaseTrn j 8 (modJob j (fun x => { x with out := x.out.filter (fun r => r.step ≠ n), sweepBad := false }) b))

theorem sweepUndone_bad (hp : trnPhase b j = 4) (hg : gleanersRun b j = false) (hs : (trnOf b j).sweepBad = true) :
    sweepUndone j b = sweepGone j (stepNow b j) (undoStep j (stepNow b j) b) := by
  have hcond : ¬ (trnPhase b j ≠ 4 ∨ gleanersRun b j = true ∨ (!(trnOf b j).sweepBad) = true) := by simp [hp, hg, hs]
  rw [sweepUndone, if_neg hcond]
  rfl

theorem trnOf_sweepGone (n : Nat) : trnOf (sweepGone j n b) j =
    { trnOf b j with out := (trnOf b j).out.filter (fun r => r.step ≠ n), sweepBad := false } := by
  rw [sweepGone, trnOf_of_trn (trn_notify ..), trnOf_setPhaseTrn, trnOf_modJob, if_pos rfl]

theorem own_trnJobState {j : Nat} (hj : j < 8) : OwnOffset (Off.trnJobState j) := by
  have : Off.trnJobState j = 0x11008 + 0x40 * j := rfl
  unfold OwnOffset
  omega

/-- An event of the unit leaves the job's phase. -/
theorem trnPhase_notify {j : Nat} (hj : j < 8) (e : Ev) (arg : Nat) :
    trnPhase (notify uTrn Fld.trnStatusSweepUndone e arg b) j = trnPhase b j := by
  have hne : Off.trnJobState j ≠ Fld.trnStatusSweepUndone.off + Fld.trnStatusSweepUndone.stride * 0 := by
    have : Fld.trnStatusSweepUndone.off + Fld.trnStatusSweepUndone.stride * 0 = 0x10000 := rfl
    have : Off.trnJobState j = 0x11008 + 0x40 * j := rfl
    omega
  refine fld_of_reg (f := Fld.trnJobStatePhase) (i := j) ?_
  change reg _ uTrn (Off.trnJobState j) = reg b uTrn (Off.trnJobState j)
  rw [notify, reg_raise_own _ _ _ _ (by decide) (own_trnJobState hj), reg_setSq, if_neg (mt (regKey_same_unit _ _ _).mp hne)]

theorem trnPhase_sweepGone {j : Nat} (hj : j < 8) (n : Nat) : trnPhase (sweepGone j n b) j = 8 := by
  rw [sweepGone, trnPhase_notify _ hj, trnPhase, setPhaseTrn, fld_setFld_same _ _ _ (by decide) (by decide)]
  rfl

/-! ### The mirror -/

theorem eraseDups_steps {recs : List SheafRec} {n : Nat} (hne : recs ≠ []) (h : ∀ r ∈ recs, r.step = n) : (recs.map (·.step)).eraseDups = [n] := by
  have hmap : recs.map (·.step) = List.replicate recs.length n := by
    rw [List.eq_replicate_iff]
    refine ⟨by simp, fun x hx => ?_⟩
    obtain ⟨r, hr, rfl⟩ := List.mem_map.mp hx
    exact h r hr
  obtain ⟨k, hk⟩ : ∃ k, recs.length = k + 1 := Nat.exists_eq_succ_of_ne_zero (by simpa using hne)
  rw [hmap, hk, List.replicate_succ, List.eraseDups_cons]
  have hnil : (List.replicate k n).filter (fun b => !b == n) = [] := by simp
  rw [hnil]
  rfl

theorem mirrorApplyCmd_oneStep {recs : List SheafRec} {n : Nat} (hne : recs ≠ []) (h : ∀ r ∈ recs, r.step = n) (hf : recFrozen b j = false) :
    mirrorApplyCmd j recs b = engineEnd j (checkpointDue j (mirrorApply j recs false b)) := by
  have hfilter : (recs.filter fun r => r.step = n) = recs := by simpa using h
  rw [mirrorApplyCmd]
  simp only [eraseDups_steps hne h, List.foldl_cons, List.foldl_nil, hfilter, hf]

theorem mirrorBuild_acked {d : Block} (hd : trnTouch j (tableRanges b j) b = (true, d)) (hm : fld d uTrn Fld.trnJobStateMirror j = 1) :
    mirrorBuild j true [] b = setFld uTrn Fld.trnJobStateMirror 2 (modJob j (fun x => { x with out := x.out.filter fun r => r.kind ≠ 1 }) d) j := by
  simp [mirrorBuild, hd, hm]

theorem mirrorBuild_asked {acked : Bool} {asked : List (Nat × Nat × Nat)} {d : Block} (hd : trnTouch j (tableRanges b j) b = (true, d)) (hne : asked ≠ []) :
    mirrorBuild j acked asked b = asked.foldl (fun b a => sendAsked j a b) d := by
  simp [mirrorBuild, hd, hne]

/-- A build goes on: what was to be sent still is, and the job's state register is as it was. -/
structure Builds (b c : Block) : Prop where
  out : ∀ r ∈ (trnOf b j).out, r ∈ (trnOf c j).out
  state : reg c uTrn (Off.trnJobState j) = reg b uTrn (Off.trnJobState j)

theorem Builds.trans {b c d : Block} {j : Nat} (h : Builds j b c) (h' : Builds j c d) : Builds j b d :=
  ⟨fun r hr => h'.out r (h.out r hr), h'.state.trans h.state⟩

theorem Builds.refl : Builds j b b := ⟨fun _ h => h, rfl⟩

theorem Builds.foldl {α : Type} {f : Block → α → Block} {j : Nat} (hf : ∀ c x, Builds j c (f c x)) (l : List α) : Builds j b (l.foldl f b) :=
  foldl_inv (Builds j b) f l b (Builds.refl ..) fun c x h => h.trans (hf c x)

theorem touchRanges_leaves (u : Nat) (rs : List (Nat × Nat)) : (touchRanges u rs b).2.trn = b.trn ∧ farRegs (touchRanges u rs b).2 = farRegs b := by
  unfold touchRanges
  exact ⟨foldl_keeps (fun (acc : Status × Block) => acc.2.trn) _ _ _ (by intro acc r; exact trn_granaryRead ..),
    foldl_keeps (fun (acc : Status × Block) => farRegs acc.2) _ _ _ (by intro acc r; exact farRegs_granaryRead ..)⟩

theorem builds_touch {j : Nat} (hj : j < 8) (rs : List (Nat × Nat)) : Builds j b (trnTouch j rs b).2 := by
  obtain ⟨htrn, hregs⟩ := touchRanges_leaves b uTrn rs
  have hreg := reg_of_farRegs hregs (u := uTrn) (o := Off.trnJobState j) (by decide) (by decide) (own_trnJobState hj)
  unfold trnTouch
  dsimp only
  split
  · exact ⟨fun r hr => by rwa [trnOf_of_trn htrn], hreg⟩
  · exact ⟨fun r hr => by simpa [noteTrnFail, trnOf_of_trn htrn] using hr, hreg⟩

theorem builds_sheafBytes {j : Nat} (n : Nat) : Builds j b (bump uTrn (Off.trnSheafBytesLo j) n b) := by
  have ho : Off.trnSheafBytesLo j = 0x11018 + 0x40 * j := rfl
  have ho' : Off.trnJobState j = 0x11008 + 0x40 * j := rfl
  refine ⟨fun r hr => hr, reg_bump_other b ?_ ?_⟩ <;> refine mt (regKey_same_unit uTrn _ _).mp ?_ <;> omega

theorem builds_modJob {f : TrnJob → TrnJob} {j : Nat} (h : ∀ x, ∀ r ∈ x.out, r ∈ (f x).out) : Builds j b (modJob j f b) :=
  ⟨fun r hr => by simpa using h _ r hr, rfl⟩

theorem builds_modTrn_sent {j : Nat} (l : List (Nat × List Byte)) : Builds j b (modTrn (fun t => { t with sent := t.sent ++ l }) b) := ⟨fun _ hr => hr, rfl⟩

theorem sendRec_base {r : SheafRec} (h : r.kind = 1) : sendRec j r b = bump uTrn (Off.trnSheafBytesLo j) (sheafBytes r).length
    (modTrn (fun t => { t with sent := t.sent ++ [(j, sheafBytes r)] }) (modJob j (fun x => { x with out := x.out ++ [r] }) b)) := by
  simp only [sendRec, h, if_true]

/-- A record sent adds its bytes to what the job has sent and to its count. -/
theorem builds_sent {j : Nat} {f : TrnJob → TrnJob} (hf : ∀ x, ∀ r ∈ x.out, r ∈ (f x).out) (l : List (Nat × List Byte)) (n : Nat) :
    Builds j b (bump uTrn (Off.trnSheafBytesLo j) n (modTrn (fun t => { t with sent := t.sent ++ l }) (modJob j f b))) :=
  ((builds_modJob b hf).trans (builds_modTrn_sent ..)).trans (builds_sheafBytes ..)

theorem builds_sendBase {j : Nat} (hj : j < 8) (n : Nat) (m : Mirrored) (k : Nat) : Builds j b (sendBase j n m k b) := by
  unfold sendBase
  dsimp only
  split
  · exact builds_touch b hj _
  · refine Builds.trans (builds_touch b hj [(m.addr + 65536 * k, min 65536 (m.bytes - 65536 * k))]) ?_
    rw [sendRec_base _ _ rfl]
    exact builds_sent _ (fun x r hr => by simp [hr]) _ _

/-- Every block of every array is sent. -/
theorem builds_sendAll {j : Nat} (hj : j < 8) (n : Nat) (ms : List Mirrored) :
    Builds j b (ms.foldl (fun b m => (List.range (blocksOf m)).foldl (fun b k => sendBase j n m k b) b) b) :=
  Builds.foldl b (fun c m => Builds.foldl c (fun c k => builds_sendBase c hj n m k) (List.range (blocksOf m))) ms

theorem failed_noteTrnFail : (trnOf (noteTrnFail j b) j).failed ≠ none := by
  simp [noteTrnFail]

/-- A build that meets no failure shows MIRROR 1 and ROLLBACK 0 and drops nothing that waits. -/
theorem mirrorBuild_starts {j : Nat} (hj : j < 8) (h : (trnOf (mirrorBuild j false [] b) j).failed = none) :
    ∃ d, Builds j b d ∧ Builds j (setFld uTrn Fld.trnJobStateMirror 1 (setFld uTrn Fld.trnJobStateRollback 0 d j) j) (mirrorBuild j false [] b) := by
  cases ht : trnTouch j (tableRanges b j) b with
  | mk ok d =>
    have hbuild : Builds j b d := by simpa [ht] using builds_touch b hj (tableRanges b j)
    cases ok with
    | false =>
      have hfail : (trnTouch j (tableRanges b j) b).2 = noteTrnFail j (touchRanges uTrn (tableRanges b j) b).2 := by
        have hok := congrArg Prod.fst ht
        unfold trnTouch at hok ⊢
        dsimp only at hok ⊢
        split at hok
        · simp at hok
        · next hne => rw [if_neg hne]
      refine absurd h ?_
      have he : mirrorBuild j false [] b = (trnTouch j (tableRanges b j) b).2 := by simp [mirrorBuild, ht]
      rw [he, hfail]
      exact failed_noteTrnFail _ _
    | true =>
      refine ⟨d, hbuild, ?_⟩
      simp only [mirrorBuild, ht, Bool.not_true, Bool.false_eq_true, if_false, List.isEmpty_nil]
      generalize setFld uTrn Fld.trnJobStateMirror 1 (setFld uTrn Fld.trnJobStateRollback 0 d j) j = e
      have hall := builds_sendAll e hj (trnClosed b j) (mirroredAll e j)
      split
      · exact hall
      · refine hall.trans ?_
        generalize (mirroredAll e j).foldl (fun b_1 m => (List.range (blocksOf m)).foldl (fun b_2 k => sendBase j (trnClosed b j) m k b_2) b_1) e = c
        exact builds_sent c (f := fun x => { x with logFlags := Nat.lor x.logFlags 256 }) (fun x r hr => hr) _ _

theorem mirrorBuild_shows {j : Nat} (hj : j < 8) (h : (trnOf (mirrorBuild j false [] b) j).failed = none) : let c := mirrorBuild j false [] b
    fld c uTrn Fld.trnJobStateMirror j = 1 ∧ fld c uTrn Fld.trnJobStateRollback j = 0 ∧ ∀ r ∈ (trnOf b j).out, r ∈ (trnOf c j).out := by
  obtain ⟨d, hd, hc⟩ := mirrorBuild_starts b hj h
  refine ⟨?_, ?_, fun r hr => hc.out r (hd.out r hr)⟩
  · rw [fld_of_reg (f := Fld.trnJobStateMirror) hc.state, fld_setFld_same _ _ _ (by decide) (by decide)]
    rfl
  · rw [fld_of_reg (f := Fld.trnJobStateRollback) hc.state, fld_setFld_beside (f := Fld.trnJobStateMirror) (g := Fld.trnJobStateRollback) _ _ _ rfl (by decide) (by decide) (by decide),
      fld_setFld_same _ _ _ (by decide) (by decide)]
    rfl

theorem keepTally_reads (f : Block → Block) : (∀ u g i, fld (keepTally f b) u g i = fld (f b) u g i) ∧ ∀ n, trnOf (keepTally f b) n = trnOf (f b) n :=
  ⟨fun _ _ _ => rfl, fun _ => rfl⟩

end Sys2Proof.Machine

open Sys2Proof Sys2Proof.Machine

/-- Settles O32, row by row. A row with nothing failed ends with the engine's answer; the mirror's build keeps what waits, since it only adds records. -/
theorem stepRows : Obligations.StepRows := by
  unfold Obligations.StepRows
  refine ⟨fun s j contribs out hon => ⟨?plain, ?residue, ?tied, ?sweep, ?sheaf, ?undone, ?undoDone⟩, fun s j recs n hon => ⟨?apply, ?acked, ?asked, ?build⟩⟩
  case plain => exact fun d hp ht hg hw hd => acts_main rfl hon (congrArg (engineEnd j) (gradientReduce_plain s.blk j hp ht hg hw hd))
  case residue =>
    intro g8 was8 d0 ea m hp ht hg hw hres hd
    exact acts_main rfl hon (congrArg (engineEnd j) (gradientReduce_residue s.blk j hp ht hg hw hres hd))
  case tied =>
    intro d hp hd c
    have he : tiedPass j s.blk = if (trnOf c j).failed.isSome then c else setPhaseTrn j 3 c := tiedPass_touched s.blk j hp hd
    refine ⟨fun hf => acts_main rfl hon ?_, fun hf => acts_main rfl hon ?_⟩
    · rw [he, if_neg (by simp [hf])]
      exact engineEnd_of _ hf
    · rw [he, if_pos (Option.isSome_iff_ne_none.mpr hf)]
  case sweep => exact fun d h hd => acts_main rfl hon (congrArg (engineEnd j) (sweepLaunch_ready s.blk j h hd))
  case sheaf =>
    intro d ms hp hg hs hd hf
    exact acts_main rfl hon (congrArg (engineEnd j) (sheafEmit_touched s.blk j hp hg hs hd hf))
  case undone =>
    intro hp hg hs hf
    have hgone := sweepUndone_bad s.blk j hp hg hs
    have hend : engineEnd j (sweepUndone j s.blk) = sweepGone j (stepNow s.blk j) (undoStep j (stepNow s.blk j) s.blk) := by
      rw [hgone]
      exact engineEnd_of _ (by rw [trnOf_sweepGone]; exact hf)
    refine answersWith_main (g := fun b => engineEnd j (sweepUndone j b)) rfl hon ?_
    have hphase := trnPhase_sweepGone (undoStep j (stepNow s.blk j) s.blk) j.isLt (stepNow s.blk j)
    have htrn := trnOf_sweepGone (undoStep j (stepNow s.blk j) s.blk) j (stepNow s.blk j)
    rw [← hend] at hphase htrn
    exact ⟨hphase, (congrArg TrnJob.undo htrn).trans (undo_undoStep ..)⟩
  case undoDone => exact fun hp => acts_main rfl hon (if_pos hp)
  case apply => exact fun hne h hf => acts_main rfl hon (mirrorApplyCmd_oneStep s.blk j hne h hf)
  case acked => exact fun d hm hd => acts_main rfl hon (congrArg (engineEnd j) (mirrorBuild_acked s.blk j hd hm))
  case asked => exact fun acked asked d hne hd => acts_main rfl hon (congrArg (engineEnd j) (mirrorBuild_asked s.blk j hd hne))
  case build =>
    intro hf
    have hend : engineEnd j (mirrorBuild j false [] s.blk) = mirrorBuild j false [] s.blk := engineEnd_of _ hf
    obtain ⟨hm, hr, hout⟩ := mirrorBuild_shows s.blk j.isLt hf
    refine answersWith_main (g := fun b => engineEnd j (mirrorBuild j false [] b)) rfl hon ?_
    obtain ⟨hfld, htrn⟩ := keepTally_reads s.blk fun b => engineEnd j (mirrorBuild j false [] b)
    rw [hfld, hfld, htrn, hend]
    exact ⟨hm, hr, hout⟩

end

section
/-! PROOFS. Fabric frames: a KEYX while the entropy source has failed (R537, R546). -/

namespace Sys2Proof.Machine

/-! ### A KEYX that starts an agreement while the entropy source has failed -/

/-- The neutral point's encoding: it verifies under itself with a response of 0, whatever was signed. -/
def neutralKey : List Byte := [1] ++ List.replicate 31 0

/-- A KEYX payload of rank 0 of job 0 in round 0, for level 0, with the neutral key and its signature. -/
def keyxOffer : List Byte :=
  List.replicate 32 0 ++ neutralKey ++ List.replicate 64 0 ++ neutralKey ++ List.replicate 32 0

/-- The frame that carries it: kind 7, 192 bytes, and no tag. -/
def keyxFrame : List Byte := (⟨0, 7, 0, false, false, 192, 0, 0, 0, 0, 0, false, 0, 0, 0⟩ : FabHead).bytes ++ keyxOffer ++ List.replicate 16 0

/-- Job 0 is valid and knows the neutral key's digest as rank 0; its levels are 0, and the entropy source has failed. -/
def sourceFailed : Block :=
  let b := setReg uChip Off.jxlNeg 0 (setFld uSec Fld.secStateRngOk 0 (setFld uChip Fld.jxlJobCtrlValid 1 (setFld uTly Fld.tlyPowerMainOn 1 blockFresh)))
  modFab (fun f => { f with members := f.members.put (rankKey 0 0) (sha512 neutralKey) }) b

/-- A command answers one next state. -/
theorem blk_of_acts {i : Instr} {s : State} {f : Block → Block} {c : Block} (h : Acts i s f) (hc : exec i s = .next { s with blk := c }) :
    keepTally f s.blk = c := by
  have heq := h.symm.trans hc
  injection heq with heq
  exact congrArg State.blk heq

theorem sourceFailed_on : mainOn sourceFailed = true := by decide
theorem keyxFrame_head : let h := fabHead keyxFrame
    keyxFrame.length = 48 + h.len ∧ h.len = 192 ∧ h.kind = 7 ∧ h.detour = false ∧ h.src = 0 ∧ keyxSlot sourceFailed h.jobid = some 0 ∧
    h.dst = ownRank sourceFailed 0 := by decide +kernel
theorem keyxFrame_good : keyxBad sourceFailed 0 (fabHead keyxFrame) ((keyxFrame.drop 32).take (fabHead keyxFrame).len) = 0 := by decide +kernel
theorem keyxFrame_agreesNot : ((keepTally (frameRx (fabricKindRx 7 0 keyxFrame)) sourceFailed).fab.agree.find (rankKey 0 0)).isSome = false := by decide +kernel

end Sys2Proof.Machine

open Sys2Proof Sys2Proof.Machine

/-- Refutes O39: a KEYX that passes every check begins no agreement where the entropy source has failed (R546), so none is open after it. -/
theorem not_fabricFrames : ¬ Obligations.FabricFrames := by
  unfold Obligations.FabricFrames
  intro h
  obtain ⟨hlen, hn, hkind, hdet, hsrc, hslot, hdst⟩ := keyxFrame_head
  obtain ⟨-, -, -, -, -, hkeyx, -⟩ := h ⟨sourceFailed, []⟩ (by decide)
  obtain ⟨-, hslots⟩ := hkeyx 0 keyxFrame hlen (by omega) hkind hdet
  obtain ⟨c, hc, hagree⟩ := (hslots 0 hslot hn hdst).2 keyxFrame_good
  have hacts : Acts (.keyx 0 keyxFrame) ⟨sourceFailed, []⟩ (frameRx (fabricKindRx 7 0 keyxFrame)) :=
    acts_main (g := frameRx (fabricKindRx 7 0 keyxFrame)) rfl sourceFailed_on rfl
  have hblk : keepTally (frameRx (fabricKindRx 7 0 keyxFrame)) sourceFailed = c := blk_of_acts hacts hc
  rw [← hblk, hsrc, keyxFrame_agreesNot] at hagree
  exact absurd hagree (by decide)

end

section
/-! PROOFS. Collectives: starts, ends and aborts (R384, R385, R394, R395). -/

namespace Sys2Proof.Machine

variable (b : Block)

/-! ### Accesses of the units leave the fabric's part alone -/

theorem fab_of_restPart {b c : Block} (h : restPart c = restPart b) : c.fab = b.fab := (restPart_eq_iff.mp h).1.2.2.2.1

@[simp] theorem fab_raise (u : Nat) (e : Ev) (a : Nat) : (raise u e a b).fab = b.fab := fab_of_restPart (restPart_raise ..)
@[simp] theorem fab_notify (u : Nat) (f : Field) (e : Ev) (a : Nat) : (notify u f e a b).fab = b.fab := fab_of_restPart (restPart_notify ..)
@[simp] theorem fab_addrFault (i : Issuer) (a : Nat) : (addrFault i a b).fab = b.fab := fab_of_restPart (restPart_addrFault ..)
@[simp] theorem fab_tablePut (a : Nat) (v : List Byte) : (tablePut a v b).fab = b.fab := fab_of_restPart (restPart_tablePut ..)
@[simp] theorem fab_granaryRead (i : Issuer) (a n : Nat) : (granaryRead i a n b).2.2.fab = b.fab := fab_of_restPart (restPart_granaryRead ..)
@[simp] theorem fab_granaryWrite (i : Issuer) (a : Nat) (v : List Byte) (t : Option Nat) : (granaryWrite i a v t b).2.fab = b.fab :=
  fab_of_restPart (restPart_granaryWrite ..)
theorem fab_readWord (t w : Nat) : (readWord t w b).2.fab = b.fab := by
  unfold readWord
  split
  · rfl
  · exact fab_of_restPart (restPart_notify ..)
  · exact fab_of_restPart (restPart_notify ..)

theorem fab_readWords (t : Nat) (ws : List Nat) (p : Bool) :
    (ws.foldl (fun acc w => let r := readWord t w acc.2; (acc.1 && r.1, r.2)) (p, b)).2.fab = b.fab :=
  foldl_keeps (fun acc : Bool × Block => acc.2.fab) _ ws (p, b) fun acc w => fab_readWord acc.2 t w

theorem fab_loftRead (t off n : Nat) : (loftRead t off n b).2.fab = b.fab := by
  have h := fab_readWords (noteLoft t b) t (granuleWords (loftBase t + off) n) true
  unfold loftRead
  generalize granuleWords (loftBase t + off) n = ws at h
  dsimp only
  split
  · exact h
  · exact h

theorem fab_clearLoftErrs (p : Nat → Bool) (ws : List Nat) : (ws.foldl (fun b w => if p w then setLoftErr w none b else b) b).fab = b.fab :=
  foldl_keeps Block.fab _ ws b fun c w => by
    split <;> rfl

theorem fab_loftWrite (t off : Nat) (v : List Byte) : (loftWrite t off v b).2.fab = b.fab := by
  have hnote (c : Block) (p : Bool) : (noteLoft t (if p then c else failElsewhere c)).fab = c.fab := by cases p <;> rfl
  unfold loftWrite
  generalize loftBase t + off = a
  generalize v.length = n
  dsimp only
  generalize (wordsOf a n).filter (fun w => b.grn.loftErr.find w == some true && !coversWord a n w) = bad
  have hpoke (c : Block) (u : List Byte) : (poke a u c).fab = c.fab := rfl
  rw [hpoke, hnote, fab_clearLoftErrs]

theorem fab_farEnd (i : Issuer) (a : Nat) (s : Status) : (farEnd i a s b).fab = b.fab := by
  unfold farEnd; split
  · simp
  · split <;> rfl

theorem fab_devRead (iss : Issuer) (ps : List Peer) (a n : Nat) : (devRead iss ps a n b).2.2.fab = b.fab := by
  unfold devRead
  split
  · simp
  · split
    · split
      · simp
      · exact (fab_farEnd ..).trans rfl
    · split
      · simp
      · rename_i t off _
        split
        · rfl
        · split
          · split
            · rename_i h; exact (congrArg (·.2.fab) h).symm.trans (fab_loftRead ..)
            · rename_i h; exact (congrArg (·.2.fab) h).symm.trans (fab_loftRead ..)
          · simp
      · unfold windowAccess; dsimp only; split <;> simp
      · simp


theorem fab_devWrite (iss : Issuer) (ps : List Peer) (a : Nat) (v : List Byte) (t : Option Nat) : (devWrite iss ps a v t b).2.fab = b.fab := by
  unfold devWrite
  split
  · simp
  · split
    · split
      · simp
      · exact (fab_farEnd ..).trans rfl
    · split
      · simp
      · split
        · rfl
        · split
          · exact fab_loftWrite ..
          · simp
      · unfold windowAccess; split <;> simp
      · simp

theorem fab_devAtomic (iss : Issuer) (ps : List Peer) (code a v cmp : Nat) : (devAtomic iss ps code a v cmp b).2.2.fab = b.fab := by
  unfold devAtomic
  split
  · simp
  · split
    · split
      · simp
      · dsimp only
        split
        · exact (fab_farEnd ..).trans rfl
        · rfl
    · split
      · exact fab_of_restPart (restPart_granaryAtomic ..)
      · split <;> simp
      · simp

theorem fab_touchRanges (u : Nat) (rs : List (Nat × Nat)) : (touchRanges u rs b).2.fab = b.fab := by
  unfold touchRanges
  exact foldl_keeps (fun (acc : Status × Block) => acc.2.fab) _ _ _ (by intro acc r; exact fab_granaryRead ..)

theorem fab_engWrite (f j a : Nat) (v : List Byte) (t : List Nat) : (engWrite f j a v t b).2.fab = b.fab := by
  unfold engWrite
  split
  · exact fab_devWrite ..
  · refine foldl_keeps (fun (acc : Status × Block) => acc.2.fab) _ _ _ fun acc p => ?_
    split
    · rfl
    · exact fab_devWrite ..

/-! ### The jobs whose collectives run on an engine -/

/-- The jobs of the collectives of each engine, in their order. -/
def collJobs (b : Block) (f : Nat) : List Nat := (collsOf b f).map (·.job)

theorem collJobs_of_fab {b c : Block} (h : c.fab = b.fab) : collJobs c = collJobs b := by funext f; rw [collJobs, collJobs, collsOf, collsOf, h]
theorem collJobs_of_colls {b c : Block} (h : c.fab.colls = b.fab.colls) : collJobs c = collJobs b := by funext f; rw [collJobs, collJobs, collsOf, collsOf, h]

@[simp] theorem collJobs_ite (p : Prop) [Decidable p] (c d : Block) : collJobs (if p then c else d) = if p then collJobs c else collJobs d := apply_ite ..
@[simp] theorem collJobs_bump (u o n : Nat) : collJobs (bump u o n b) = collJobs b := rfl
@[simp] theorem collJobs_absorb (n : Nat) : collJobs (absorb n b) = collJobs b := rfl
@[simp] theorem collJobs_answer (s : Status) (v : Nat) : collJobs (answer s v b) = collJobs b := rfl
@[simp] theorem collJobs_notify (u : Nat) (f : Field) (e : Ev) (a : Nat) : collJobs (notify u f e a b) = collJobs b := collJobs_of_fab (by simp)
@[simp] theorem collJobs_addrFault (i : Issuer) (a : Nat) : collJobs (addrFault i a b) = collJobs b := collJobs_of_fab (by simp)
@[simp] theorem collJobs_tablePut (a : Nat) (v : List Byte) : collJobs (tablePut a v b) = collJobs b := collJobs_of_fab (by simp)
@[simp] theorem collJobs_engRead (f j a n : Nat) : collJobs (engRead f j a n b).2.2 = collJobs b := collJobs_of_fab (fab_devRead ..)
@[simp] theorem collJobs_engWrite (f j a : Nat) (v : List Byte) (t : List Nat) : collJobs (engWrite f j a v t b).2 = collJobs b := collJobs_of_fab (fab_engWrite ..)
@[simp] theorem collJobs_devAtomic (i : Issuer) (ps : List Peer) (code a v cmp : Nat) : collJobs (devAtomic i ps code a v cmp b).2.2 = collJobs b :=
  collJobs_of_fab (fab_devAtomic ..)
@[simp] theorem collJobs_touchRanges (u : Nat) (rs : List (Nat × Nat)) : collJobs (touchRanges u rs b).2 = collJobs b := collJobs_of_fab (fab_touchRanges ..)
@[simp] theorem collJobs_setPair (j r : Nat) (p : Pair) : collJobs (setPair j r p b) = collJobs b := rfl
@[simp] theorem collJobs_setLink (l : Nat) (x : Link) : collJobs (setLink l x b) = collJobs b := rfl
@[simp] theorem collJobs_modLink (l : Nat) (f : Link → Link) : collJobs (modLink l f b) = collJobs b := rfl
@[simp] theorem collJobs_drawEntropy : collJobs (drawEntropy b).2 = collJobs b := rfl

/-! #### Sending -/

theorem fab_settleTx (u : Nat) : (settleTx u b).fab = b.fab := by unfold settleTx; dsimp only; split <;> rfl
theorem fab_sendHead (u c : Nat) : (sendHead u c b).fab = b.fab := by unfold sendHead; dsimp only; split <;> rfl
theorem fab_countCtl (u : Nat) (f : List Byte) : (countCtl u f b).fab = b.fab := by
  unfold countCtl; split
  · rfl
  · refine (foldl_keeps Block.fab _ _ _ fun c l => ?_).trans rfl
    split <;> rfl
theorem fab_sendCtl (u : Nat) : (sendCtl u b).fab = b.fab := by
  unfold sendCtl
  refine (foldl_keeps Block.fab _ _ (setPort u { portOf b u with ctl := [] } b) fun c f => ?_).trans rfl
  rw [fab_countCtl]
  rfl
theorem fab_sendClasses (u n : Nat) : (sendClasses u n b).fab = b.fab := by
  induction n generalizing b with
  | zero => rfl
  | succ n ih =>
    unfold sendClasses
    split
    · rw [ih, fab_sendHead]
    · rfl
theorem fab_pump (u : Nat) : (pump u b).fab = b.fab := by
  have h := (fab_sendClasses (sendCtl u b) u (waiting (portOf b u))).trans (fab_sendCtl ..)
  have hidle (c : Block) (n : Nat) : (if 0 < n then modPort u (fun p => { p with idleAt := c.face.time }) c else c).fab = c.fab := by split <;> rfl
  unfold pump
  rw [fab_settleTx]
  split
  · rw [hidle, h]
  · rfl
@[simp] theorem fab_macSend (u c : Nat) (f : List Byte) : (macSend u c f b).2.fab = b.fab := by
  unfold macSend
  dsimp only
  split
  · rfl
  · split
    · rfl
    · rw [fab_pump]; rfl

@[simp] theorem collJobs_macSend (u c : Nat) (f : List Byte) : collJobs (macSend u c f b).2 = collJobs b := collJobs_of_fab (by simp)
@[simp] theorem collJobs_sendData (l v : Nat) : collJobs (sendData l v b) = collJobs b := rfl
@[simp] theorem collJobs_pumpGo (l n : Nat) : collJobs (pumpGo l n b) = collJobs b := by
  induction n generalizing b with
  | zero => rfl
  | succ n ih =>
    unfold pumpGo; dsimp only; split
    · rfl
    · split <;> simp [ih]
@[simp] theorem collJobs_pumpLink (l : Nat) : collJobs (pumpLink l b) = collJobs b := by unfold pumpLink; split <;> simp
@[simp] theorem collJobs_putFrame (j l r v : Nat) (f : List Byte) : collJobs (putFrame j l r v f b) = collJobs b := by
  unfold putFrame; split
  · simp
  · split <;> simp
@[simp] theorem collJobs_routeFrame (j r : Nat) (p : Option Nat) (f : List Byte) : collJobs (routeFrame j r p f b).2 = collJobs b := by
  unfold routeFrame; dsimp only; split
  · split <;> simp
  · simp
@[simp] theorem collJobs_sendKeyx (j r : Nat) : collJobs (sendKeyx j r b) = collJobs b := by
  unfold sendKeyx; split
  · rfl
  · rw [collJobs_routeFrame]; rfl
@[simp] theorem collJobs_startAgree (j r n : Nat) : collJobs (startAgree j r n b) = collJobs b := by
  unfold startAgree; split
  · rfl
  · rw [collJobs_sendKeyx]; rfl
@[simp] theorem collJobs_noteAdvance (j r : Nat) (p q : Pair) : collJobs (noteAdvance j r p q b) = collJobs b := by
  unfold noteAdvance; dsimp only; split <;> simp
theorem collJobs_issueReq {q : FabReq} {p : Pair} {c : Block} (h : issueReq q p b = some c) : collJobs c = collJobs b := by
  unfold issueReq at h
  dsimp only at h
  split at h
  · cases h
  · cases h
    refine (collJobs_of_colls rfl).trans ((collJobs_routeFrame ..).trans ?_)
    simp
/-- A status that a collective takes changes none of its job. -/
theorem collJobs_mapColls {g : Coll → Coll} (hg : ∀ c, (g c).job = c.job) :
    collJobs (modFab (fun f => { f with colls := f.colls.map fun (e : Nat × List Coll) => (e.1, e.2.map g) }) b) = collJobs b := by
  funext f
  have hfind (m : SMap (List Coll)) : SMap.get (m.map fun (e : Nat × List Coll) => (e.1, e.2.map g)) [] f = (m.get [] f).map g := by
    induction m with
    | nil => rfl
    | cons e m ih =>
      simp only [List.map_cons, SMap.get, SMap.find] at ih ⊢
      split
      · rfl
      · exact ih
  simp only [collJobs, collsOf, modFab, hfind, List.map_map]
  exact List.map_congr_left fun c _ => hg c
@[simp] theorem collJobs_endReq (q : FabReq) (s : Status) (v : Nat) : collJobs (endReq q s v b) = collJobs b := by
  have hjob (c : Coll) : (if c.job = q.job ∧ leAt c.desc 8 4 = q.addr % 2 ^ 32 ∧ leAt c.desc 4 2 = q.addr / 2 ^ 32 % 2 ^ 16 ∧ c.status = none then
        (if (s == .opFailed && b.fab.silent.contains (rankKey q.job q.rank)) = true then { c with phase := stuckPhase } else { c with status := some s }) else c).job = c.job := by
    split
    · split <;> rfl
    · rfl
  unfold endReq
  dsimp only
  split
  · split
    · rfl
    · split
      · rw [collJobs_addrFault]; exact collJobs_mapColls b hjob
      · exact collJobs_mapColls b hjob
  · split <;> simp
@[simp] theorem collJobs_tryReq (q : FabReq) : collJobs (tryReq q b) = collJobs b := by
  have hwait : collJobs (modFab (fun f => { f with wants := f.wants ++ [q] }) b) = collJobs b := rfl
  unfold tryReq; dsimp only; split
  · simp
  · split
    · exact hwait
    · split
      · exact hwait
      · rename_i p _ _
        cases h : issueReq q p b with
        | none => exact hwait
        | some c => simpa using collJobs_issueReq b h
@[simp] theorem collJobs_fabricRequest (q : FabReq) : collJobs (fabricRequest q b) = collJobs b := by
  unfold fabricRequest; split
  · rfl
  · simp
@[simp] theorem collJobs_sendPiece (f j : Nat) (d : List Byte) (r typ off : Nat) (lt : Bool) (v : List Byte) :
    collJobs (sendPiece f j d r typ off lt v b) = collJobs b := collJobs_fabricRequest ..
@[simp] theorem collJobs_sendBytes (f j : Nat) (d : List Byte) (r typ : Nat) (v : List Byte) : collJobs (sendBytes f j d r typ v b) = collJobs b :=
  foldl_keeps collJobs _ (List.range ((v.length + 4095) / 4096)) b fun _ _ => collJobs_sendPiece ..
@[simp] theorem collJobs_sendTagged (f j : Nat) (d : List Byte) (r typ first a : Nat) (v : List Byte) :
    collJobs (sendTagged f j d r typ first a v b) = collJobs b :=
  foldl_keeps collJobs _ (List.range ((v.length + 3839) / 3840)) b fun _ _ => collJobs_sendPiece ..

/-! #### Steps of a collective -/

@[simp] theorem collJobs_sendShard (f j : Nat) (d : List Byte) (rs : List Nat) (v : List Byte) : collJobs (sendShard f j d rs v b) = collJobs b := by
  unfold sendShard
  refine foldl_keeps _ _ _ _ fun c r => ?_
  split <;> simp
@[simp] theorem collJobs_sendBarrier (f j : Nat) (d : List Byte) (rs : List Nat) (n : Nat) : collJobs (sendBarrier f j d rs n b) = collJobs b :=
  foldl_keeps _ _ _ _ (by simp)
/-- What is read and, where that succeeds, written elsewhere. -/
theorem collJobs_copied (f j x n y : Nat) (t : Block → List Nat) : collJobs (
    if (engRead f j x n b).1 ≠ .ok then ((engRead f j x n b).1, (engRead f j x n b).2.2)
    else engWrite f j y (engRead f j x n b).2.1 (t (engRead f j x n b).2.2) (engRead f j x n b).2.2).2 = collJobs b := by
  have hread := collJobs_engRead b f j x n
  split
  · exact hread
  · exact (collJobs_engWrite ..).trans hread
@[simp] theorem collJobs_moveRange (f j a dst n : Nat) : collJobs (moveRange f j a dst n b).2 = collJobs b :=
  collJobs_copied b f j (localAddr b j a) n (localAddr b j dst) fun c => rangeTags c (localOff a) n
theorem collJobs_eachOk {go : PermEnt → Block → Status × Block} (hgo : ∀ e c, collJobs (go e c).2 = collJobs c) (es : List PermEnt) :
    collJobs (eachOk go es b).2 = collJobs b := by
  unfold eachOk
  refine foldl_keeps (fun (acc : Status × Block) => collJobs acc.2) _ _ _ fun acc e => ?_
  split
  · rfl
  · exact hgo ..
@[simp] theorem collJobs_sendRound (f j : Nat) (d : List Byte) (r : Nat) : collJobs (sendRound f j d r b).2 = collJobs b := by
  refine collJobs_eachOk b (fun e c => ?_) _
  have hread := collJobs_engRead c f j (localAddr c j e.addr) e.bytes
  split
  · exact collJobs_moveRange ..
  · dsimp only
    split
    · exact (collJobs_sendTagged ..).trans hread
    · exact hread
/-- One staged piece is copied to its place. -/
def copyEnt (f j : Nat) (e : PermEnt) (b : Block) : Status × Block := moveRange f j (stageBase b f j + e.stage) e.addr e.bytes b

theorem collJobs_copyEnt (f j : Nat) (e : PermEnt) : collJobs (copyEnt f j e b).2 = collJobs b := by rw [copyEnt, collJobs_moveRange]

theorem copyRound_eq (f j : Nat) (d : List Byte) (r : Nat) : copyRound f j d r b = eachOk (copyEnt f j) ((inList b d).filter fun e => e.round = r) b := rfl

@[simp] theorem collJobs_copyRound (f j : Nat) (d : List Byte) (r : Nat) : collJobs (copyRound f j d r b).2 = collJobs b := by
  rw [copyRound_eq]
  exact collJobs_eachOk b (fun e c => collJobs_copyEnt c f j e) _
@[simp] theorem collJobs_storeFrom (f j a : Nat) (c : Coll) (typ p n : Nat) : collJobs (storeFrom f j a c typ p n b).2 = collJobs b := collJobs_engWrite ..
@[simp] theorem collJobs_reduceOwn (f j : Nat) (c : Coll) (rs : List Nat) : collJobs (reduceOwn f j c rs b).2.2 = collJobs b := collJobs_engRead ..
@[simp] theorem collJobs_sendContribs (f j : Nat) (d : List Byte) (rs : List Nat) : collJobs (sendContribs f j d rs b).2 = collJobs b := by
  unfold sendContribs
  refine foldl_keeps (fun (acc : Status × Block) => collJobs acc.2) _ _ _ fun acc p => ?_
  have hread := collJobs_engRead acc.2 f j (kSrc d + shardOff d rs.length p.2) (shardBytes d rs.length p.2)
  dsimp only
  split
  · rfl
  · split
    · exact hread
    · split
      · exact (collJobs_sendBytes ..).trans hread
      · split
        · exact (collJobs_engRead ..).trans hread
        · exact (collJobs_sendBytes ..).trans ((collJobs_engWrite ..).trans ((collJobs_engRead ..).trans hread))

/-- A fold that stops at the first failure and keeps the jobs at each step keeps them. -/
theorem collJobs_untilFail {α : Type} {g : Status × Block → α → Status × Block} (hg : ∀ acc x, collJobs (g acc x).2 = collJobs acc.2) (l : List α)
    (acc : Status × Block) : collJobs (l.foldl (fun acc x => if acc.1 ≠ .ok then acc else g acc x) acc).2 = collJobs acc.2 := by
  refine foldl_keeps (fun (acc : Status × Block) => collJobs acc.2) _ l acc fun acc x => ?_
  split
  · rfl
  · exact hg acc x

theorem collJobs_storeAll (f j : Nat) (c : Coll) (typ : Nat) (off n : Nat → Nat) (ps : List Nat) (acc : Status × Block) :
    collJobs (ps.foldl (fun (acc : Status × Block) p => if acc.1 ≠ .ok then acc else storeFrom f j (off p) c typ p (n p) acc.2) acc).2 = collJobs acc.2 :=
  collJobs_untilFail (fun _ _ => collJobs_storeFrom ..) ps acc

theorem collJobs_writeAll (f j : Nat) (off : Nat → Nat) (v : Nat → List Byte) (ps : List Nat) (acc : Status × Block) :
    collJobs (ps.foldl (fun (acc : Status × Block) p => if acc.1 ≠ .ok then acc else engWrite f j (off p) (v p) [] acc.2) acc).2 = collJobs acc.2 :=
  collJobs_untilFail (fun _ _ => collJobs_engWrite ..) ps acc

/-- The blocks of an all-to-all: this member's own is written, the others' are sent. -/
theorem collJobs_blocksOut (f j : Nat) (d : List Byte) (src : Nat → Nat) (dst cnt me : Nat) (rs : List (Nat × Nat)) (acc : Status × Block) :
    collJobs (rs.foldl (fun (acc : Status × Block) p =>
      if acc.1 ≠ .ok then acc
      else if (engRead f j (src p.2) cnt acc.2).1 ≠ .ok then ((engRead f j (src p.2) cnt acc.2).1, (engRead f j (src p.2) cnt acc.2).2.2)
      else if p.2 = me then engWrite f j dst (engRead f j (src p.2) cnt acc.2).2.1 [] (engRead f j (src p.2) cnt acc.2).2.2
      else (.ok, sendBytes f j d p.1 tBlock (engRead f j (src p.2) cnt acc.2).2.1 (engRead f j (src p.2) cnt acc.2).2.2)) acc).2 = collJobs acc.2 := by
  refine collJobs_untilFail (fun acc p => ?_) rs acc
  have hread := collJobs_engRead acc.2 f j (src p.2) cnt
  split
  · exact hread
  · split
    · exact (collJobs_engWrite ..).trans hread
    · exact (collJobs_sendBytes ..).trans hread

@[simp] theorem collJobs_collStep (f : Nat) (c : Coll) : collJobs (collStep f c b).2 = collJobs b := by
  unfold collStep
  extract_lets j d fin t b1 cnt v rank
  have hfin (s : Status) (e : Block) : (fin s e).2 = e := by simp only [fin]; split <;> rfl
  clear_value fin
  have h1 : collJobs b1 = collJobs b := collJobs_touchRanges b (uCol f) (collRanges b f j d)
  have ht : collJobs t.2 = collJobs b := h1
  have hv : collJobs v.2.2 = collJobs b := (collJobs_engRead ..).trans h1
  clear_value v
  clear_value b1 t
  split
  · rfl
  · split
    · rw [hfin]
    · split
      · rw [hfin, ht]
      · split
        · rw [hfin, h1]
        · dsimp only
          split
          all_goals (repeat' split)
          all_goals simp only [hfin, h1, hv, collJobs_sendShard, collJobs_sendContribs, collJobs_reduceOwn, collJobs_engWrite, collJobs_engRead, collJobs_sendBarrier,
            collJobs_sendRound, collJobs_copyRound, collJobs_sendBytes, collJobs_sendTagged]
          · rw [collJobs_storeAll (off := fun p => kDst d + shardOff d _ p) (n := fun p => shardBytes d _ p), h1]
          · rw [collJobs_storeAll (off := fun p => kDst d + shardOff d _ p) (n := fun p => shardBytes d _ p), h1]
          · rw [collJobs_blocksOut (src := fun k => kSrc d + k * kCount d), h1]
          · rw [collJobs_blocksOut (src := fun k => kSrc d + k * kCount d), h1]
          · rw [collJobs_writeAll (off := fun p => kDst d + p * kCount d) (v := fun p => gotData c tBlock p (kCount d)), h1]

/-! #### Runs and ends -/

theorem collsOf_setColls (f n : Nat) (l : List Coll) : collsOf (setColls f l b) n = if n = f then l else collsOf b n := by simp [collsOf, setColls, modFab]

@[simp] theorem collJobs_putColl (f : Nat) (c : Coll) : collJobs (putColl f c b) = collJobs b := by
  funext n
  rw [collJobs, putColl, collsOf_setColls]
  split
  · next h =>
    subst h
    rw [List.map_map]
    refine List.map_congr_left fun x _ => ?_
    rw [Function.comp_apply]
    split
    · next hs =>
      simp only [sameColl, Bool.and_eq_true, beq_iff_eq] at hs
      exact hs.2.symm
    · rfl
  · rfl

@[simp] theorem collJobs_collRun (f n : Nat) (c : Coll) : collJobs (collRun f n c b) = collJobs b := by
  induction n generalizing b c with
  | zero => rfl
  | succ n ih =>
    have hgo (d : Coll) : collJobs (if d.phase = c.phase ∧ d.status = c.status then putColl f d (collStep f c b).2
        else collRun f n d (putColl f d (collStep f c b).2)) = collJobs b := by
      split
      · exact (collJobs_putColl ..).trans (collJobs_collStep ..)
      · exact (ih ..).trans ((collJobs_putColl ..).trans (collJobs_collStep ..))
    unfold collRun
    split
    · exact collJobs_putColl ..
    · exact hgo _

theorem collJobs_runColls (f : Nat) : collJobs (runColls f b) = collJobs b := by
  unfold runColls
  refine foldl_keeps collJobs _ (collsOf b f) b fun c x => ?_
  split
  · exact collJobs_collRun ..
  · rfl

theorem collJobs_runAllColls : collJobs (runAllColls b) = collJobs b := foldl_keeps collJobs _ (List.range 4) b fun c f => collJobs_runColls c f

@[simp] theorem collJobs_permuteEnds (c : Coll) (s : Status) : collJobs (permuteEnds c s b) = collJobs b := by
  unfold permuteEnds
  split <;> rfl

/-- No collective of a job stands on an engine. -/
def NoColl (f j : Nat) (b : Block) : Prop := j ∉ collJobs b f

theorem noColl_iff {f j : Nat} : NoColl f j b ↔ ∀ k ∈ collsOf b f, k.job ≠ j := by simp [NoColl, collJobs]

theorem NoColl.of_jobs {f j : Nat} {b c : Block} (h : NoColl f j b) (hc : collJobs c = collJobs b) : NoColl f j c := by rwa [NoColl, hc]

/-- What the end of a collective does before the others of the module go on. -/
def collEnded (f : Nat) (c : Coll) (s : Status) (peers : List Peer) (b : Block) : Block :=
  let b := bump (uCol f) Off.colOpsLo 1 (permuteEnds c s (setColls f ((collsOf b f).filter fun x => !sameColl x c) b))
  if kDone c.desc = 0 then b else (devAtomic (collIssuer b f c.job) peers 0x02 (kDone c.desc + (if s = .ok then 0 else 8)) 1 0 b).2.2

/-- The event of an end that failed. -/
def collEvent (f : Nat) (c : Coll) (s : Status) (b : Block) : Block := match s with
  | .badArgument => notify (uCol f) Fld.colStatusBad .colBad (c.job * 2 ^ 29 + kSeq c.desc % 2 ^ 16) b
  | .opFailed => notify (uCol f) Fld.colStatusFailed .colFailed (c.job * 2 ^ 29 + kSeq c.desc % 2 ^ 16) b
  | _ => b

/-- What the end of a collective reports. -/
def collReported (f : Nat) (c : Coll) (s : Status) (b : Block) : Block :=
  if s = .ok ∧ kSignal c.desc then
    { collEvent f c s b with til := { (collEvent f c s b).til with
      signals := (collEvent f c s b).til.signals ++ [(kSigTile c.desc, ⟨kSigTok c.desc, c.job, uCol f⟩)] } }
  else collEvent f c s b

theorem collEnd_eq (f : Nat) (c : Coll) (s : Status) (peers : List Peer) :
    collEnd f c s peers b = runAllColls (collReported f c s (collEnded f c s peers b)) := rfl

theorem collJobs_collReported (f : Nat) (c : Coll) (s : Status) : collJobs (collReported f c s b) = collJobs b := by
  have hevent : collJobs (collEvent f c s b) = collJobs b := by
    unfold collEvent
    split
    · exact collJobs_notify ..
    · exact collJobs_notify ..
    · rfl
  unfold collReported
  split
  · exact (collJobs_of_fab rfl).trans hevent
  · exact hevent

theorem noColl_collEnded {f j : Nat} (n : Nat) (c : Coll) (s : Status) (peers : List Peer) (h : NoColl f j b) : NoColl f j (collEnded n c s peers b) := by
  have hfilter : NoColl f j (setColls n ((collsOf b n).filter fun x => !sameColl x c) b) := by
    rw [noColl_iff] at h ⊢
    intro k hk
    rw [collsOf_setColls] at hk
    split at hk
    · next hn => subst hn; exact h k ((List.mem_filter.mp hk).1)
    · exact h k hk
  have hbump := hfilter.of_jobs (c := bump (uCol n) Off.colOpsLo 1 (permuteEnds c s (setColls n ((collsOf b n).filter fun x => !sameColl x c) b)))
    ((collJobs_bump ..).trans (collJobs_permuteEnds ..))
  unfold collEnded
  split
  · exact hbump
  · exact hbump.of_jobs (collJobs_devAtomic ..)

theorem noColl_collEnd {f j : Nat} (n : Nat) (c : Coll) (s : Status) (peers : List Peer) (h : NoColl f j b) : NoColl f j (collEnd n c s peers b) := by
  rw [collEnd_eq]
  exact (noColl_collEnded b n c s peers h).of_jobs ((collJobs_runAllColls ..).trans (collJobs_collReported ..))

/-- The collectives of another job stay; none of the job's own does, nor a piece that came early for it. -/
theorem collAbort_leaves {f : Nat} (j : Nat) (hf : f < 4) : (∀ k ∈ collsOf (collAbort f j b) f, k.job ≠ j) ∧
    (∀ e ∈ (collAbort f j b).fab.early.get [] f, e.job ≠ j) ∧ flag (collAbort f j b) (uCol f) Fld.colStatusAborted = true := by
  have hrest : NoColl f j (setColls f ((collsOf b f).filter fun c => c.job ≠ j) b) := by
    rw [noColl_iff, collsOf_setColls, if_pos rfl]
    exact fun k hk => by simpa using (List.mem_filter.mp hk).2
  have hend := foldl_inv (NoColl f j) (fun b c => collEnd f c .cancelled [] b) ((collsOf b f).filter fun c => c.job = j) _ hrest
    fun c k h => noColl_collEnd c f k .cancelled [] h
  have hunit : uCol f ≠ uTly := by have : uTly = 2 := rfl; unfold uCol; omega
  unfold collAbort
  extract_lets mine b1 b2 b3
  have hnone : NoColl f j b2 := hend
  clear_value b2
  refine ⟨?_, ?_, flag_notify_same _ _ _ hunit rfl (by decide) (by decide)⟩
  · exact (noColl_iff _).mp (hnone.of_jobs ((collJobs_notify ..).trans (collJobs_of_colls rfl)))
  · rw [fab_notify]
    simp [b3, modFab]

/-! ### Starts -/

theorem exec_collective {q : Fin 0x40000} {cop : Nat} {i : Instr} (h : (cop, i) ∈ [(1, Instr.allReduce q), (2, .reduceScatter q), (3, .allGather q),
    (4, .allToAll q), (5, .colSend q), (6, .recv q), (7, .permute q), (8, .barrier q)]) (s : State) :
    exec i s = s.runMain (collStart cop q) ∧ 1 ≤ cop ∧ cop ≤ 8 := by
  simp only [List.mem_cons, Prod.mk.injEq, List.not_mem_nil, or_false] at h
  obtain ⟨rfl, rfl⟩ | ⟨rfl, rfl⟩ | ⟨rfl, rfl⟩ | ⟨rfl, rfl⟩ | ⟨rfl, rfl⟩ | ⟨rfl, rfl⟩ | ⟨rfl, rfl⟩ | ⟨rfl, rfl⟩ := h <;> exact ⟨rfl, by decide, by decide⟩

theorem collStart_absorbed {b c : Block} {q cop : Nat} (hu : useQueue q b = (true, c)) (ha : absorbing c (uCol (engineOf q)) = true) : collStart cop q b = c := by
  simp [collStart, hu, ha]

section Starts
variable {b} {q cop : Nat} {c : Block} (hu : useQueue q b = (true, c)) (htype : qType c q = 3) (hen : qEnabled c q = true) (hwork : qWork c q = true)
  (hroom : (collsOf c (engineOf q)).length < 16)
include hu htype hen hwork hroom

/-- What an engine that takes a queue's next descriptor does with it. -/
theorem collStart_takes (ha : absorbing c (uCol (engineOf q)) = false) : collStart cop q b =
    let f := engineOf q
    let r := granaryRead ⟨uCol f, none, false, false⟩ (ringAt c q (qCons c q)) 64 c
    let d := if r.1 = .ok then bytesAt c (ringAt c q (qCons c q)) 64 else List.replicate 64 0
    if kCop d ≠ cop ∧ 1 ≤ kCop d ∧ kCop d ≤ 8 then c
    else
      let a := qSet q 8 4 ((qCons c q + 1) % 2 ^ 32) r.2.2
      if r.1 = .ok then collBegin f q (qJob c q) d a else setColls f (collsOf a f ++ [⟨q, qJob c q, d, 0, [], some r.1⟩]) a := by
  have hfull : ¬ 16 ≤ (collsOf c (engineOf q)).length := Nat.not_le.mpr hroom
  simp only [collStart, hu, htype, hen, hwork, ha, hfull, bne_self_eq_false, Bool.not_true, decide_false, Bool.or_self, Bool.false_eq_true, if_false]

end Starts

theorem collBegin_eq (f q j : Nat) (d : List Byte) :
    collBegin f q j d b =
      let t := touchRanges (uCol f) (collRanges b f j d) b
      let e := t.2
      let s : Option Status := if t.1 ≠ .ok then some t.1 else if collBad e f j d then some .badArgument else none
      let k : Coll := ⟨q, j, d, 0, [], s⟩
      if s.isSome then setColls f (collsOf e f ++ [k]) e
      else
        let e := takeEarly f k (setColls f (collsOf e f ++ [k]) e)
        let e := (((collsOf e f).find? (sameColl k)).getD k).got.foldl (fun b p => stagePiece f k p b) e
        collRun f (collFuel k) (((collsOf e f).find? (sameColl k)).getD k) e := rfl

theorem kCop_zeros : kCop (List.replicate 64 0) = 0 := by decide

theorem sameColl_self (k : Coll) : sameColl k k = true := by simp [sameColl]

theorem collComplete_only {f : Nat} {k : Coll} {s : Status} {peers : List Peer} (h : collsOf b f = [k]) (hs : k.status = some s) :
    collComplete f peers b = collEnd f k s peers b := by
  have hfind : (collsOf b f).find? (fun c => c.status.isSome) = some k := by simp [h, hs]
  unfold collComplete
  split
  · next c hc =>
    rw [hfind, Option.some.injEq] at hc
    subst hc
    rw [hs]
    rfl
  · next hc => simp [hfind] at hc

theorem collEnded_only {f : Nat} {k : Coll} (s : Status) (peers : List Peer) (h : collsOf b f = [k]) : collEnded f k s peers b =
    let c := bump (uCol f) Off.colOpsLo 1 (permuteEnds k s (setColls f [] b))
    if kDone k.desc = 0 then c else (devAtomic (collIssuer c f k.job) peers 0x02 (kDone k.desc + (if s = .ok then 0 else 8)) 1 0 c).2.2 := by
  have hnil : ((collsOf b f).filter fun x => !sameColl x k) = [] := by simp [h, sameColl_self]
  rw [collEnded, hnil]

theorem collReported_signal {f : Nat} {k : Coll} (hs : kSignal k.desc = true) : collReported f k .ok b = { b with til := { b.til with
    signals := b.til.signals ++ [(kSigTile k.desc, ⟨kSigTok k.desc, k.job, uCol f⟩)] } } := by
  rw [collReported, if_pos ⟨rfl, hs⟩]
  rfl

theorem collReported_quiet {f : Nat} {k : Coll} {s : Status} (h : s ≠ .ok ∨ kSignal k.desc = false) : collReported f k s b = collEvent f k s b := by
  refine if_neg fun ⟨hok, hs⟩ => ?_
  rcases h with h | h
  · exact h hok
  · rw [h] at hs
    exact absurd hs (by decide)

end Sys2Proof.Machine

open Sys2Proof Sys2Proof.Machine

/-- Settles O40. An abort leaves none of the job's collectives on its engine: what the others do when they go on keeps each collective's job. -/
theorem collectives : Obligations.Collectives := by
  unfold Obligations.Collectives
  refine ⟨?start, fun s f j hon => ⟨?complete, ?abort⟩⟩
  case start =>
    intro s q cop i c hon hi hu htype hen hwork hroom f
    obtain ⟨he, h1, h8⟩ := exec_collective hi s
    refine ⟨fun ha => acts_main he hon (collStart_absorbed hu ha), ?_⟩
    intro ha d k r a t b
    have htake := collStart_takes (cop := cop) hu htype hen hwork hroom ha
    have hbegin (hr : r.1 = .ok) (hcop : kCop d = cop ∨ kCop d = 0 ∨ 8 < kCop d) : collStart cop q s.blk = collBegin f q (qJob c q) d a := by
      rw [htake]
      simp only [show (granaryRead ⟨uCol (engineOf q), none, false, false⟩ (ringAt c q (qCons c q)) 64 c).1 = .ok from hr, if_true]
      exact if_neg (by rintro ⟨hne, hlo, hhi⟩; change kCop d ≠ cop at hne; change 1 ≤ kCop d at hlo; change kCop d ≤ 8 at hhi; omega)
    refine ⟨fun hr => acts_main he hon ?_, fun hr ht hcop => acts_main he hon ((hbegin hr hcop).trans ?_),
      fun hr ht hbad hcop => acts_main he hon ((hbegin hr hcop).trans ?_), fun hr ht hbad hcop => acts_main he hon ((hbegin hr (.inl hcop)).trans ?_),
      fun hr hne hlo hhi => acts_main he hon ?_⟩
    · rw [htake]
      simp only [if_neg (show ¬ (granaryRead ⟨uCol (engineOf q), none, false, false⟩ (ringAt c q (qCons c q)) 64 c).1 = .ok from hr), kCop_zeros]
      exact if_neg fun h => absurd h.2.1 (by decide)
    · rw [collBegin_eq]
      simp only [if_pos (show (touchRanges (uCol f) (collRanges a f (qJob c q) d) a).1 ≠ .ok from ht), Option.isSome_some, if_true]
      rfl
    · rw [collBegin_eq]
      simp only [if_neg (not_not_intro (show (touchRanges (uCol f) (collRanges a f (qJob c q) d) a).1 = .ok from ht)),
        if_pos (show collBad (touchRanges (uCol f) (collRanges a f (qJob c q) d) a).2 f (qJob c q) d = true from hbad), Option.isSome_some, if_true]
      rfl
    · have hgood : ¬ collBad (touchRanges (uCol f) (collRanges a f (qJob c q) d) a).2 f (qJob c q) d = true := by
        rw [show collBad (touchRanges (uCol f) (collRanges a f (qJob c q) d) a).2 f (qJob c q) d = false from hbad]
        decide
      rw [collBegin_eq]
      simp only [if_neg (not_not_intro (show (touchRanges (uCol f) (collRanges a f (qJob c q) d) a).1 = .ok from ht)), if_neg hgood, Option.isSome_none,
        Bool.false_eq_true, if_false]
      rfl
    · rw [htake]
      simp only [show (granaryRead ⟨uCol (engineOf q), none, false, false⟩ (ringAt c q (qCons c q)) 64 c).1 = .ok from hr, if_true]
      exact if_pos ⟨hne, hlo, hhi⟩
  case complete =>
    intro k st peers hk hs b c
    have hend : collComplete f peers s.blk = runAllColls (collReported f k st c) := by
      rw [collComplete_only s.blk hk hs, collEnd_eq, collEnded_only s.blk st peers hk]
    refine ⟨fun hok hsig => acts_main rfl hon (hend.trans ?_), fun hok hsig => acts_main rfl hon (hend.trans ?_), fun hbad => acts_main rfl hon (hend.trans ?_),
      fun hfail => acts_main rfl hon (hend.trans ?_), fun hok hbad hfail => acts_main rfl hon (hend.trans ?_)⟩
    · rw [hok, collReported_signal _ hsig]
    · rw [collReported_quiet _ (.inr hsig), hok]
      rfl
    · rw [collReported_quiet _ (.inl (by rw [hbad]; decide)), hbad]
      rfl
    · rw [collReported_quiet _ (.inl (by rw [hfail]; decide)), hfail]
      rfl
    · rw [collReported_quiet _ (.inl hok)]
      unfold collEvent
      split
      · exact absurd rfl hbad
      · exact absurd rfl hfail
      · rfl
  case abort =>
    obtain ⟨hcolls, hearly, hflag⟩ := collAbort_leaves s.blk j f.isLt
    exact answersWith_main (g := collAbort f j) rfl hon ⟨hcolls, hearly, hflag⟩

end

section
/-! PROOFS. Received and sent frames, and receive queues, of a MAC (R403 to R416). -/

namespace Sys2Proof.Machine

variable (b : Block)

/-! ### What a MAC's sending leaves of the frames it has received -/

/-- What a port holds of received frames, the other ports, and all but the MACs and the registers. -/
structure RxKept (u : Nat) (b c : Block) : Prop where
  rx : (portOf c u).rx = (portOf b u).rx
  used : (portOf c u).used = (portOf b u).used
  others : ∀ n, n ≠ u → portOf c n = portOf b n
  rest : { c with mac := b.mac, face := { c.face with regs := b.face.regs } } = b

section Kept
variable {b} {u : Nat} {c : Block} (h : RxKept u b c)
include h

theorem RxKept.grn : c.grn = b.grn := (congrArg Block.grn h.rest :)
theorem RxKept.til : c.til = b.til := (congrArg Block.til h.rest :)
theorem RxKept.fab : c.fab = b.fab := (congrArg Block.fab h.rest :)
theorem RxKept.ctx : c.ctx = b.ctx := (congrArg Block.ctx h.rest :)
theorem RxKept.qcp : c.qcp = b.qcp := (congrArg Block.qcp h.rest :)
theorem RxKept.time : c.face.time = b.face.time := (congrArg (fun x : Block => x.face.time) h.rest :)

theorem RxKept.trans {d : Block} (h' : RxKept u c d) : RxKept u b d :=
  ⟨h'.rx.trans h.rx, h'.used.trans h.used, fun n hn => (h'.others n hn).trans (h.others n hn),
    (congrArg (fun x : Block => { x with mac := b.mac, face := { x.face with regs := b.face.regs } }) h'.rest).trans h.rest⟩

end Kept

theorem RxKept.refl (u : Nat) : RxKept u b b := ⟨rfl, rfl, fun _ _ => rfl, rfl⟩

theorem portOf_of_mac {b c : Block} (h : c.mac = b.mac) (u : Nat) : portOf c u = portOf b u := by rw [portOf, portOf, h]

theorem RxKept.of_mac {b c : Block} (u : Nat) (hm : c.mac = b.mac) (h : { c with mac := b.mac, face := { c.face with regs := b.face.regs } } = b) : RxKept u b c :=
  ⟨by rw [portOf_of_mac hm], by rw [portOf_of_mac hm], fun n _ => portOf_of_mac hm n, h⟩

theorem rxKept_macCount (u v k n : Nat) : RxKept u b (macCount v k n b) := .of_mac u rfl rfl

theorem rxKept_setPort {u : Nat} {p : MacPort} (hr : p.rx = (portOf b u).rx) (hu : p.used = (portOf b u).used) : RxKept u b (setPort u p b) where
  rx := by rw [portOf_setPort, if_pos rfl, hr]
  used := by rw [portOf_setPort, if_pos rfl, hu]
  others n hn := by rw [portOf_setPort, if_neg hn]
  rest := rfl

/-- A change of a port that leaves its received frames and its shares. -/
theorem rxKept_modPort {u : Nat} {f : MacPort → MacPort} (hr : ∀ p, (f p).rx = p.rx) (hu : ∀ p, (f p).used = p.used) : RxKept u b (modPort u f b) :=
  rxKept_setPort b (hr _) (hu _)

theorem RxKept.foldl {α : Type} {f : Block → α → Block} {u : Nat} (hf : ∀ c x, RxKept u c (f c x)) (l : List α) : RxKept u b (l.foldl f b) :=
  foldl_inv (RxKept u b) f l b (RxKept.refl ..) fun c x h => h.trans (hf c x)

theorem rx_settleWatch (now c : Nat) (p : MacPort) : (settleWatch now c p).rx = p.rx ∧ (settleWatch now c p).used = p.used := by
  unfold settleWatch
  dsimp only
  split <;> exact ⟨rfl, rfl⟩

theorem rx_settleWatches (now : Nat) (l : List Nat) (p : MacPort) :
    (l.foldl (fun p c => settleWatch now c p) p).rx = p.rx ∧ (l.foldl (fun p c => settleWatch now c p) p).used = p.used :=
  ⟨foldl_keeps MacPort.rx _ l p fun p c => (rx_settleWatch now c p).1, foldl_keeps MacPort.used _ l p fun p c => (rx_settleWatch now c p).2⟩

theorem rxKept_settleTx (u : Nat) : RxKept u b (settleTx u b) := by
  obtain ⟨hr, hu⟩ := rx_settleWatches b.face.time (List.range 9) (portOf b u)
  unfold settleTx
  generalize (List.range 9).foldl (fun p c => settleWatch b.face.time c p) (portOf b u) = p at hr hu
  have hput (t : Option Nat) : RxKept u b (setPort u { p with heldAt := t } b) := rxKept_setPort b hr hu
  dsimp only
  split
  · exact hput _
  · exact (hput none).trans (rxKept_macCount _ u u 24 _)
  · exact rxKept_setPort b hr hu

theorem rxKept_putWire (u : Nat) (f : List Byte) : RxKept u b (putWire u f b) := ⟨rfl, rfl, fun _ _ => rfl, rfl⟩

theorem rxKept_sendHead (u c : Nat) : RxKept u b (sendHead u c b) := by
  unfold sendHead
  dsimp only
  split
  · exact RxKept.refl ..
  · next f r _ =>
    have hset : RxKept u b (modPort u (fun p => { p with tx := p.tx.put c r, watch := (p.watch.drop c).drop 8 }) b) :=
      rxKept_modPort b (fun _ => rfl) fun _ => rfl
    exact hset.trans (rxKept_putWire _ u f)

theorem rxKept_countCtl (u : Nat) (f : List Byte) : RxKept u b (countCtl u f b) := by
  unfold countCtl
  split
  · exact rxKept_macCount ..
  · refine (rxKept_macCount b u u 19 1).trans (RxKept.foldl _ (fun c k => ?_) _)
    split
    · exact .of_mac u rfl rfl
    · exact RxKept.refl ..

theorem rxKept_sendCtl (u : Nat) : RxKept u b (sendCtl u b) :=
  RxKept.trans (rxKept_setPort b (p := { portOf b u with ctl := [] }) rfl rfl)
    (RxKept.foldl _ (fun c f => (rxKept_putWire c u f).trans (rxKept_countCtl (putWire u f c) u f)) (portOf b u).ctl)

theorem rxKept_sendClasses (u n : Nat) : RxKept u b (sendClasses u n b) := by
  induction n generalizing b with
  | zero => exact RxKept.refl ..
  | succ n ih =>
    unfold sendClasses
    split
    · exact (rxKept_sendHead ..).trans (ih _)
    · exact RxKept.refl ..

theorem rxKept_pump (u : Nat) : RxKept u b (pump u b) := by
  have hsent := (rxKept_sendCtl b u).trans (rxKept_sendClasses (sendCtl u b) u (waiting (portOf b u)))
  have hidle (c : Block) (n : Nat) : RxKept u c (if 0 < n then modPort u (fun p => { p with idleAt := c.face.time }) c else c) := by
    split
    · exact rxKept_modPort c (fun _ => rfl) fun _ => rfl
    · exact RxKept.refl ..
  unfold pump
  refine RxKept.trans ?_ (rxKept_settleTx ..)
  split
  · exact hsent.trans (hidle ..)
  · exact RxKept.refl ..

theorem rxKept_macSend (u c : Nat) (f : List Byte) : RxKept u b (macSend u c f b).2 := by
  unfold macSend
  dsimp only
  split
  · exact RxKept.refl ..
  · split
    · exact rxKept_macCount ..
    · have hqueue : RxKept u b (modPort u (fun p => { p with tx := p.tx.put (c % 8) (txOf p (c % 8) ++ [padFcs f]) }) b) :=
        rxKept_modPort b (fun _ => rfl) fun _ => rfl
      have hsent := hqueue.trans (rxKept_pump _ u)
      dsimp only
      exact hsent

theorem rxKept_sendPause (u c q : Nat) : RxKept u b (sendPause u c q b) := by
  unfold sendPause
  generalize (if pauseMode b u = 1 then pauseFrame b u q else pfcFrame b u c q) = f
  have hctl : RxKept u b (modPort u (fun p => { p with ctl := p.ctl ++ [f] }) b) := rxKept_modPort b (fun _ => rfl) fun _ => rfl
  exact hctl.trans (rxKept_pump _ u)

theorem rxKept_checkPause (u c : Nat) : RxKept u b (checkPause u c b) := by
  have hsent (l : SMap (Nat × Nat)) (q : Nat) : RxKept u b (sendPause u c q (modPort u (fun p => { p with pausing := l }) b)) := by
    have hset : RxKept u b (modPort u (fun p => { p with pausing := l }) b) := rxKept_modPort b (fun _ => rfl) fun _ => rfl
    exact hset.trans (rxKept_sendPause _ u c q)
  unfold checkPause
  dsimp only
  split
  · exact RxKept.refl ..
  · split
    · split
      · exact hsent _ _
      · exact RxKept.refl ..
    · split
      · exact hsent _ _
      · exact RxKept.refl ..

theorem rxKept_checkPauses (u : Nat) : RxKept u b (checkPauses u b) := RxKept.foldl b (fun c k => rxKept_checkPause c u k) (pauseClasses b u)

theorem rxKept_countGood (u n da : Nat) : RxKept u b (countGood u n da b) := by
  refine .of_mac u ?_ ?_ <;> unfold countGood <;> dsimp only <;> split <;> split <;> rfl

/-! ### What a MAC reads while it counts -/

theorem anyOf_congr {α : Type} {f g : α → Bool} {l : List α} (h : ∀ x ∈ l, f x = g x) : l.any f = l.any g := by
  induction l with
  | nil => rfl
  | cons x l ih => rw [List.any_cons, List.any_cons, h x (List.mem_cons_self ..), ih fun y hy => h y (List.mem_cons_of_mem _ hy)]

/-- The registers of the other units and those of the unit beside its counters read alike. -/
def CountedOnly (u : Nat) (b c : Block) : Prop :=
  ∀ v o, v ≠ u ∧ o < 2 ^ 20 ∨ v = u ∧ (o < 0x20100 ∨ 0x20300 ≤ o) → reg c v o = reg b v o

theorem countedOnly_macCount {u k : Nat} (n : Nat) (hk : k < 32) : CountedOnly u b (macCount u k n b) := by
  intro v o h
  have hoff : Off.macCntLo k = 0x20100 + 0x8 * k := rfl
  have hne {o' : Nat} (ho' : 0x20100 ≤ o' ∧ o' < 0x20300) : regKey v o ≠ regKey u o' := by
    rcases h with ⟨hv, ho⟩ | ⟨rfl, ho⟩
    · unfold regKey; omega
    · rw [Ne, regKey_same_unit]; omega
  exact reg_bump_other b (hne (by omega)) (hne (by omega))

theorem CountedOnly.trans {u : Nat} {b c d : Block} (h : CountedOnly u b c) (h' : CountedOnly u c d) : CountedOnly u b d :=
  fun v o ho => (h' v o ho).trans (h v o ho)

section Counted
variable {b} {u : Nat} {c : Block} (h : CountedOnly u b c)
include h

theorem CountedOnly.fld {f : Field} {i : Nat} (ho : f.off + f.stride * i < 0x20100 ∨ 0x20300 ≤ f.off + f.stride * i) : fld c u f i = Machine.fld b u f i :=
  fld_of_reg (h _ _ (.inr ⟨rfl, ho⟩))

theorem CountedOnly.flag {f : Field} {i : Nat} (ho : f.off + f.stride * i < 0x20100 ∨ 0x20300 ≤ f.off + f.stride * i) : flag c u f i = Machine.flag b u f i := by
  rw [Machine.flag, Machine.flag, h.fld ho]

theorem CountedOnly.fldOther {v : Nat} {f : Field} {i : Nat} (hv : v ≠ u) (ho : f.off + f.stride * i < 2 ^ 20) : Machine.fld c v f i = Machine.fld b v f i :=
  fld_of_reg (h _ _ (.inl ⟨hv, ho⟩))

theorem CountedOnly.maxLen : maxLen c u = Machine.maxLen b u := h.fld (by decide)

theorem CountedOnly.filterHits (e : EthHead) (i : Nat) : filterHits c u e i = Machine.filterHits b u e i := by
  have hkey {f : Field} (ho : 0x21000 ≤ f.off) : f.off + f.stride * i < 0x20100 ∨ 0x20300 ≤ f.off + f.stride * i := .inr (by omega)
  unfold Machine.filterHits
  rw [h.fld (f := Fld.macFiltKeyTagm) (hkey (by decide)), h.flag (f := Fld.macFiltKeyValid) (hkey (by decide)), h.flag (f := Fld.macFiltKeyVidEn) (hkey (by decide)),
    h.fld (f := Fld.macFiltKeyVid) (hkey (by decide)), h.fld (f := Fld.macFiltActPcpmask) (hkey (by decide)), h.flag (f := Fld.macFiltActEtypeEn) (hkey (by decide)),
    h.fld (f := Fld.macFiltKeyEtype) (hkey (by decide))]

theorem CountedOnly.steer (e : EthHead) : steer c u e = Machine.steer b u e := by
  have hkey {f : Field} {i : Nat} (ho : 0x21000 ≤ f.off) : f.off + f.stride * i < 0x20100 ∨ 0x20300 ≤ f.off + f.stride * i := .inr (by omega)
  have hhits : Machine.filterHits c u e = Machine.filterHits b u e := funext fun i => h.filterHits e i
  unfold Machine.steer
  rw [hhits, h.fld (f := Fld.macCtrlDefq) (by decide)]
  split
  · rfl
  · split
    · next i _ => rw [h.flag (f := Fld.macFiltActDrop) (hkey (by decide)), h.fld (f := Fld.macFiltActQueue) (hkey (by decide))]
    · rfl

theorem CountedOnly.consumerOf (q : Nat) : consumerOf c u q = Machine.consumerOf b u q := by
  have hoff : Fld.macRxqCfgConsumer.off + Fld.macRxqCfgConsumer.stride * q = 0x22000 + 0x8 * q := rfl
  unfold Machine.consumerOf
  rw [h.fld (f := Fld.macRxqCfgConsumer) (i := q) (.inr (by rw [hoff]; omega))]

theorem CountedOnly.limit (q : Nat) : Machine.fld c u Fld.macRxqCfgLimit q = Machine.fld b u Fld.macRxqCfgLimit q := by
  have hoff : Fld.macRxqCfgLimit.off + Fld.macRxqCfgLimit.stride * q = 0x22000 + 0x8 * q := rfl
  exact h.fld (.inr (by rw [hoff]; omega))

theorem CountedOnly.daAccepted (hu : uChip ≠ u) (da : Nat) : daAccepted c u da = Machine.daAccepted b u da := by
  have haddr : macAddrOf c u = macAddrOf b u := by
    unfold macAddrOf
    rw [h _ _ (.inr ⟨rfl, by decide⟩), h _ _ (.inr ⟨rfl, by decide⟩)]
  have hjob : ∀ j ∈ List.range 8, (Machine.flag c uChip Fld.jxlJobCtrlValid j && da == fabricMac c j (Machine.fld c uChip Fld.jxlJobCtrlRank j) (u - 128)) =
      (Machine.flag b uChip Fld.jxlJobCtrlValid j && da == fabricMac b j (Machine.fld b uChip Fld.jxlJobCtrlRank j) (u - 128)) := by
    intro j hj
    have hj : j < 8 := List.mem_range.mp hj
    have hv : ∀ j < 8, Fld.jxlJobCtrlValid.off + Fld.jxlJobCtrlValid.stride * j < 2 ^ 20 := by decide
    have hr : ∀ j < 8, Fld.jxlJobCtrlRank.off + Fld.jxlJobCtrlRank.stride * j < 2 ^ 20 := by decide
    have hp : ∀ j < 8, Fld.jxlJobMacPrefix.off + Fld.jxlJobMacPrefix.stride * j < 2 ^ 20 := by decide
    unfold fabricMac
    rw [Machine.flag, Machine.flag, h.fldOther hu (hv j hj), h.fldOther hu (hr j hj), h.fldOther hu (hp j hj)]
  unfold Machine.daAccepted
  rw [haddr, anyOf_congr hjob]

end Counted

/-! ### A frame received -/

/-- The block once the corrections of a frame have been counted. -/
def rxCounted (u corr uncorr : Nat) (b : Block) : Block := macCount u 28 uncorr (macCount u 27 corr b)

theorem countedOnly_rxCounted {u corr uncorr : Nat} : CountedOnly u b (rxCounted u corr uncorr b) :=
  (countedOnly_macCount b corr (by decide)).trans (countedOnly_macCount (macCount u 27 corr b) uncorr (by decide))

theorem rxKept_rxCounted (u corr uncorr : Nat) : RxKept u b (rxCounted u corr uncorr b) := .of_mac u rfl rfl

section Receive
variable {u : Nat} {f : List Byte} {corr uncorr : Nat} (hu : u ≠ 0) (hw : macWorks b u = true) (hen : flag b u Fld.macCtrlRxEn = true)
include hw hen

theorem macReceive_short (hl : f.length < 64) : macReceive u f false corr uncorr b = (none, macCount u 5 1 (rxCounted u corr uncorr b)) := by
  unfold macReceive
  rw [hw, hen]
  simp only [Bool.not_true, Bool.or_self, Bool.false_eq_true, if_false, hl, if_true, rxCounted]

include hu


variable (hl : 64 ≤ f.length) (hm : f.length ≤ maxLen b u)
include hl hm

theorem macReceive_fits :
    macReceive u f false corr uncorr b =
      let c := rxCounted u corr uncorr b
      let body := f.take (f.length - 4)
      let h := ethHead (fld b u Fld.macCtrlDefpri) body
      if !leNat (f.drop (f.length - 4)) == crc32 body then (none, macCount u 4 1 c)
      else if !daAccepted b u h.da then (none, macCount u 7 1 c)
      else if h.etype = 0x8808 then (none, macControl u (ethPayload h body) c)
      else if isLinkUnit u ∧ h.etype = fld b uChip Fld.jxlEthertypeType then
        if 512 * 1024 < shareUse (portOf b u) h.pcp + body.length then (none, macCount u 10 1 c)
        else (some (h.pcp, ethPayload h body), countGood u f.length h.da c)
      else match steer b u h with
      | none => (none, macCount u 8 1 c)
      | some (q, i, dflt) =>
        (none, enqueueRx u q ⟨min f.length 0xFFFF, false, false, h.tagged, isGroup h.da, dflt, h.pcp, h.vid, i, b.face.time % 2 ^ 32, body⟩ c) := by
  have hc := countedOnly_rxCounted b (u := u) (corr := corr) (uncorr := uncorr)
  have hetype := hc.fldOther (v := uChip) (Ne.symm hu) (f := Fld.jxlEthertypeType) (i := 0) (by decide)
  have hpri := hc.fld (f := Fld.macCtrlDefpri) (i := 0) (by decide)
  unfold macReceive
  rw [hw, hen]
  change (let b' := rxCounted u corr uncorr b; _) = _
  simp only [rxCounted] at hc hetype hpri
  simp only [Bool.not_true, Bool.or_self, Bool.false_eq_true, if_false, hc.maxLen, Nat.not_lt.mpr hm, decide_false, Bool.false_or, Nat.not_lt.mpr hl, hpri,
    hc.daAccepted (Ne.symm hu), hetype, hc.steer, Bool.not_false, and_true, rxCounted]
  rfl

theorem macReceive_badFcs (hcrc : leNat (f.drop (f.length - 4)) ≠ crc32 (f.take (f.length - 4))) :
    macReceive u f false corr uncorr b = (none, macCount u 4 1 (rxCounted u corr uncorr b)) :=
  (macReceive_fits b hu hw hen hl hm).trans (if_pos (by simpa using hcrc))

variable (hcrc : leNat (f.drop (f.length - 4)) = crc32 (f.take (f.length - 4)))
include hcrc

theorem macReceive_otherAddress (hda : daAccepted b u (ethHead (fld b u Fld.macCtrlDefpri) (f.take (f.length - 4))).da = false) :
    macReceive u f false corr uncorr b = (none, macCount u 7 1 (rxCounted u corr uncorr b)) :=
  (macReceive_fits b hu hw hen hl hm).trans ((if_neg (by simpa using hcrc)).trans (if_pos (by rw [hda]; rfl)))

/-- A frame that is accepted and steered to a queue goes to it. -/
theorem macReceive_queues {h : EthHead} (hh : ethHead (fld b u Fld.macCtrlDefpri) (f.take (f.length - 4)) = h) (hda : daAccepted b u h.da = true)
    (hctl : h.etype ≠ 0x8808) (hfab : isLinkUnit u = false ∨ h.etype ≠ fld b uChip Fld.jxlEthertypeType) {q i : Nat} {dflt : Bool}
    (hq : steer b u h = some (q, i, dflt)) :
    macReceive u f false corr uncorr b = (none, enqueueRx u q ⟨min f.length 0xFFFF, false, false, h.tagged, isGroup h.da, dflt, h.pcp, h.vid, i,
      b.face.time % 2 ^ 32, f.take (f.length - 4)⟩ (rxCounted u corr uncorr b)) := by
  have hno : ¬ (isLinkUnit u = true ∧ h.etype = fld b uChip Fld.jxlEthertypeType) := by
    rintro ⟨hlink, heq⟩
    rcases hfab with hfab | hfab
    · rw [hfab] at hlink; cases hlink
    · exact hfab heq
  rw [macReceive_fits b hu hw hen hl hm]
  simp only [hh, hcrc, beq_self_eq_true, Bool.not_true, Bool.false_eq_true, if_false, hda, hctl, hno, hq]

end Receive

theorem frameRx_notForUs {u : Nat} {f : List Byte} {corr uncorr : Nat} {c : Block} (h : macReceive u f false corr uncorr b = (none, c)) (hf : c.fab = b.fab) :
    frameRx (macFrameRx u f false corr uncorr) b = c := by
  have hrx : macFrameRx u f false corr uncorr b = c := by rw [macFrameRx, h]
  rw [frameRx_quiet b (by rw [hrx, hf]), hrx]

/-- The block with `l` in receive queue `q` of a port and `n` bytes of class `k`'s share in use. -/
def queueHolds (u q : Nat) (l : List RxFrame) (k n : Nat) (b : Block) : Block :=
  setPort u { portOf b u with rx := (portOf b u).rx.put q l, used := (portOf b u).used.put k n } b

theorem RxKept.of_queueHolds {u q k n : Nat} {l : List RxFrame} {b c : Block} (h : RxKept u (queueHolds u q l k n b) c) :
    rxOf (portOf c u) q = l ∧ shareUse (portOf c u) k = n ∧ (∀ q', q' ≠ q → rxOf (portOf c u) q' = rxOf (portOf b u) q') ∧
      (∀ u', u' ≠ u → portOf c u' = portOf b u') ∧ c.grn = b.grn ∧ c.til = b.til := by
  have hport : portOf (queueHolds u q l k n b) u = { portOf b u with rx := (portOf b u).rx.put q l, used := (portOf b u).used.put k n } := by
    rw [queueHolds, portOf_setPort, if_pos rfl]
  have hrx := h.rx
  have hused := h.used
  rw [hport] at hrx hused
  refine ⟨by rw [rxOf, hrx]; simp, by rw [shareUse, hused]; simp, fun q' hq => by rw [rxOf, rxOf, hrx]; simp [hq], fun u' hne => ?_, h.grn, h.til⟩
  rw [h.others u' hne, queueHolds, portOf_setPort, if_neg hne]

/-- A frame that fits its share and its queue joins both. -/
theorem enqueueRx_fits {u q : Nat} {f : RxFrame} (hcons : consumerOf b u q ≠ 3) (hshare : shareUse (portOf b u) f.pcp + f.bytes.length ≤ 512 * 1024)
    (hroom : queueBytes (rxOf (portOf b u) q) + 16 + f.bytes.length ≤ max 1 (fld b u Fld.macRxqCfgLimit q) * 1024) :
    RxKept u (queueHolds u q (rxOf (portOf b u) q ++ [f]) f.pcp (shareUse (portOf b u) f.pcp + f.bytes.length) b)
      (enqueueRx u q f b) := by
  unfold enqueueRx
  dsimp only
  rw [if_neg hcons, if_neg (Nat.not_lt.mpr hshare), if_neg (Nat.not_lt.mpr hroom)]
  refine RxKept.trans ?_ (rxKept_checkPauses _ u)
  split
  · exact RxKept.refl ..
  · exact rxKept_countGood ..

/-- The release of a queue's oldest frame takes it from its queue and its bytes from its share. -/
theorem rxRelease_takes {u q : Nat} {f : RxFrame} {r : List RxFrame} (h : rxOf (portOf b u) q = f :: r) :
    RxKept u (queueHolds u q r f.pcp (shareUse (portOf b u) f.pcp - f.bytes.length) b) (rxRelease u q b) := by
  unfold rxRelease
  dsimp only
  rw [h]
  exact rxKept_checkPauses _ u

theorem rxKept_setFld (u v i x : Nat) (f : Field) : RxKept u b (setFld v f x b i) := .of_mac u rfl rfl

theorem rxKept_eeeExchange (u : Nat) (f : List Byte) : RxKept u b (eeeExchange u f b) := by
  unfold eeeExchange
  dsimp only
  split
  · exact RxKept.refl ..
  · split
    · exact RxKept.refl ..
    · next rx _ _ =>
      have hset := rxKept_setFld b u u 0 rx Fld.macEeeTwTxTw
      split
      · exact hset
      · exact hset.trans (rxKept_macSend _ u 7 _)

theorem rxReleaseCmd_takes {u q : Nat} {f : RxFrame} {r : List RxFrame} (h : rxOf (portOf b u) q = f :: r) :
    RxKept u (queueHolds u q r f.pcp (shareUse (portOf b u) f.pcp - f.bytes.length) b) (rxReleaseCmd u q b) := by
  have ht := rxRelease_takes b h
  unfold rxReleaseCmd
  rw [h]
  dsimp only
  split
  · exact ht
  · split
    · exact ht.trans (rxKept_eeeExchange _ u _)
    · split
      · exact ht
      · split
        · exact ht
        · exact ht.trans (rxKept_macSend _ u _ _)

theorem macUnit_ne_zero (m : Fin 26) : macUnit m ≠ 0 := by
  revert m
  decide

/-! ### A frame to send -/

section Transmit
variable {u c : Nat} {f : List Byte}

theorem macTransmit_down (hw : macWorks b u = false) : macTransmit u c f b = answer .notPresent 0 b := by
  rw [macTransmit, macSend, hw]
  rfl

theorem macTransmit_long (hw : macWorks b u = true) (hl : maxLen b u < (padFcs f).length) : macTransmit u c f b = answer .badArgument 0 (macCount u 20 1 b) := by
  unfold macTransmit macSend
  rw [hw]
  dsimp only
  rw [if_neg (by decide), if_pos hl]

theorem macTransmit_queues (hc : c < 8) (hw : macWorks b u = true) (hl : (padFcs f).length ≤ maxLen b u) :
    macTransmit u c f b = answer .ok 0 (pump u (modPort u (fun p => { p with tx := p.tx.put c (txOf p c ++ [padFcs f]) }) b)) := by
  unfold macTransmit macSend
  rw [hw]
  dsimp only
  rw [if_neg (by decide), if_neg (Nat.not_lt.mpr hl), Nat.mod_eq_of_lt hc]

end Transmit

end Sys2Proof.Machine
open Sys2Proof Sys2Proof.Machine

/-- Settles O42, command by command. -/
theorem macFrames : Obligations.MacFrames := by
  unfold Obligations.MacFrames
  intro s m hon u
  have hu : u ≠ 0 := macUnit_ne_zero m
  refine ⟨?receive, ?release, ?down, ?send, ?config⟩
  case receive =>
    intro f corr uncorr hw hen b body h
    have hquiet {k n : Nat} (hr : macReceive u f false corr uncorr s.blk = (none, macCount u k n b)) :
        Acts (.macFrameReceive m f false corr uncorr) s (fun _ => macCount u k n b) :=
      acts_main (g := frameRx (macFrameRx u f false corr uncorr)) rfl hon (frameRx_notForUs s.blk hr rfl)
    refine ⟨fun hl => hquiet (macReceive_short s.blk hw hen hl), fun hl hm hcrc => hquiet (macReceive_badFcs s.blk hu hw hen hl hm hcrc),
      fun hl hm hcrc hda => hquiet (macReceive_otherAddress s.blk hu hw hen hl hm hcrc hda), ?_⟩
    intro q i dflt hl hm hcrc hda hctl hfab hq hcons hshare hroom
    have hc := countedOnly_rxCounted s.blk (u := u) (corr := corr) (uncorr := uncorr)
    have hkept := enqueueRx_fits b (u := u) (q := q) (f := ⟨min f.length 0xFFFF, false, false, h.tagged, isGroup h.da, dflt, h.pcp, h.vid, i, s.blk.face.time % 2 ^ 32, body⟩)
      (by rw [← hc.consumerOf] at hcons; exact hcons) hshare (by rw [← hc.limit] at hroom; exact hroom)
    have hrx := frameRx_notForUs s.blk (macReceive_queues s.blk hu hw hen hl hm hcrc rfl hda hctl hfab hq) hkept.fab
    obtain ⟨hqueue, hused, hothers, hports, hgrn, htil⟩ := hkept.of_queueHolds
    refine answersWith_main (g := frameRx (macFrameRx u f false corr uncorr)) rfl hon ?_
    have hg := grn_keepTally_of s.blk (f := frameRx (macFrameRx u f false corr uncorr)) (by rw [hrx]; exact hgrn)
    have hp (n : Nat) : portOf (keepTally (frameRx (macFrameRx u f false corr uncorr)) s.blk) n = portOf (frameRx (macFrameRx u f false corr uncorr) s.blk) n := rfl
    have ht : (keepTally (frameRx (macFrameRx u f false corr uncorr)) s.blk).til = (frameRx (macFrameRx u f false corr uncorr) s.blk).til := rfl
    simp only [hp, hg, ht, hrx]
    exact ⟨hqueue, hused, hothers, hports, trivial, htil⟩
  case release =>
    intro q f r h
    obtain ⟨hqueue, hused, hothers, hports, hgrn, htil⟩ := (rxReleaseCmd_takes s.blk h).of_queueHolds
    refine answersWith_main (g := rxReleaseCmd u q) rfl hon ⟨hqueue, hused, fun q' hq => hothers q' (Fin.val_ne_of_ne hq), grn_keepTally_of s.blk hgrn, htil⟩
  case down => exact fun c f hw => acts_main (g := macTransmit u c f) rfl hon (macTransmit_down s.blk hw)
  case send =>
    exact fun c f hw => ⟨fun hl => acts_main (g := macTransmit u c f) rfl hon (macTransmit_long s.blk hw hl),
      fun hl => acts_main (g := macTransmit u c f) rfl hon (macTransmit_queues s.blk c.isLt hw hl)⟩
  case config =>
    intro q v
    refine ⟨fun h0 hne hfull => acts_main (g := rxqCfgWrite u q v.toNat) rfl hon (if_pos ⟨h0, hne, hfull⟩),
      fun h0 h => acts_main (g := rxqCfgWrite u q v.toNat) rfl hon ?_, fun h0 => acts_main (g := rxqCfgWrite u q v.toNat) rfl hon ?_⟩
    · refine (if_neg ?_).trans (by rw [if_neg h0])
      rintro ⟨-, hne, hfull⟩
      exact h.elim hne hfull
    · exact (if_neg fun h => h.1 h0).trans (by rw [if_pos h0])

end

section
/-! PROOFS. Pause, low power idle and links of the MACs (R404, R417 to R426). -/

namespace Sys2Proof.Machine

/-! ### The links, holds and pauses of the MACs, which sending leaves as they are -/

/-- A port's link, low power idle, holds, hold-offs and the classes it pauses. -/
def linkPart (p : MacPort) : Bool × Option Nat × SMap Nat × SMap Nat × SMap (Nat × Nat) := (p.link, p.lpi, p.held, p.holdoff, p.pausing)

def portLinks (b : Block) (u : Nat) : Bool × Option Nat × SMap Nat × SMap Nat × SMap (Nat × Nat) := linkPart (portOf b u)

variable (b : Block)

theorem portLinks_of_mac {b c : Block} (h : c.mac = b.mac) : portLinks c = portLinks b := by
  funext u
  rw [portLinks, portLinks, portOf_of_mac h]

theorem portLinks_of_restPart {b c : Block} (h : restPart c = restPart b) : portLinks c = portLinks b := portLinks_of_mac (restPart_eq_iff.mp h).1.2.2.1

theorem portLinks_setPort {u : Nat} {p : MacPort} (h : linkPart p = portLinks b u) : portLinks (setPort u p b) = portLinks b := by
  funext n
  rw [portLinks, portOf_setPort]
  split
  · next hn => rw [h, hn]
  · rfl

theorem portLinks_modPort {u : Nat} {f : MacPort → MacPort} (h : ∀ p, linkPart (f p) = linkPart p) : portLinks (modPort u f b) = portLinks b :=
  portLinks_setPort b (h _)

@[simp] theorem portLinks_ite (p : Prop) [Decidable p] (c d : Block) : portLinks (if p then c else d) = if p then portLinks c else portLinks d := apply_ite ..
@[simp] theorem portLinks_bump (u o n : Nat) : portLinks (bump u o n b) = portLinks b := portLinks_of_mac rfl
@[simp] theorem portLinks_setReg (u o v : Nat) : portLinks (setReg u o v b) = portLinks b := portLinks_of_mac rfl
@[simp] theorem portLinks_raise (u : Nat) (e : Ev) (a : Nat) : portLinks (raise u e a b) = portLinks b := portLinks_of_restPart (restPart_raise ..)
@[simp] theorem portLinks_notify (u : Nat) (f : Field) (e : Ev) (a : Nat) : portLinks (notify u f e a b) = portLinks b := portLinks_of_restPart (restPart_notify ..)
@[simp] theorem portLinks_addrFault (i : Issuer) (a : Nat) : portLinks (addrFault i a b) = portLinks b := portLinks_of_restPart (restPart_addrFault ..)
@[simp] theorem portLinks_tablePut (a : Nat) (v : List Byte) : portLinks (tablePut a v b) = portLinks b := portLinks_of_restPart (restPart_tablePut ..)
@[simp] theorem portLinks_answer (s : Status) (v : Nat) : portLinks (answer s v b) = portLinks b := portLinks_of_mac rfl
@[simp] theorem portLinks_modFab (f : Fabric → Fabric) : portLinks (modFab f b) = portLinks b := portLinks_of_mac rfl
@[simp] theorem portLinks_setLink (l : Nat) (x : Link) : portLinks (setLink l x b) = portLinks b := portLinks_of_mac rfl
@[simp] theorem portLinks_modLink (l : Nat) (f : Link → Link) : portLinks (modLink l f b) = portLinks b := portLinks_of_mac rfl
@[simp] theorem portLinks_setLinkState (l s : Nat) : portLinks (setLinkState l s b) = portLinks b := portLinks_of_mac rfl
@[simp] theorem portLinks_setPair (j r : Nat) (p : Pair) : portLinks (setPair j r p b) = portLinks b := portLinks_of_mac rfl
@[simp] theorem portLinks_macCount (u k n : Nat) : portLinks (macCount u k n b) = portLinks b := portLinks_of_mac rfl
@[simp] theorem portLinks_drawEntropy : portLinks (drawEntropy b).2 = portLinks b := portLinks_of_mac rfl
@[simp] theorem portLinks_putWire (u : Nat) (f : List Byte) : portLinks (putWire u f b) = portLinks b := by
  rw [putWire, portLinks_macCount, portLinks_macCount]
  rfl
theorem linkPart_settleWatch (now c : Nat) (p : MacPort) : linkPart (settleWatch now c p) = linkPart p := by
  unfold settleWatch
  dsimp only
  split <;> rfl
@[simp] theorem portLinks_settleTx (u : Nat) : portLinks (settleTx u b) = portLinks b := by
  have hp : linkPart ((List.range 9).foldl (fun p c => settleWatch b.face.time c p) (portOf b u)) = portLinks b u :=
    foldl_keeps linkPart _ _ _ fun p c => linkPart_settleWatch b.face.time c p
  unfold settleTx
  generalize (List.range 9).foldl (fun p c => settleWatch b.face.time c p) (portOf b u) = p at hp
  dsimp only
  split
  · exact portLinks_setPort b hp
  · exact (portLinks_macCount ..).trans (portLinks_setPort b hp)
  · exact portLinks_setPort b hp
@[simp] theorem portLinks_sendHead (u c : Nat) : portLinks (sendHead u c b) = portLinks b := by
  unfold sendHead; dsimp only; split
  · rfl
  · exact (portLinks_putWire ..).trans (portLinks_setPort b rfl)
@[simp] theorem portLinks_countCtl (u : Nat) (f : List Byte) : portLinks (countCtl u f b) = portLinks b := by
  unfold countCtl; split
  · simp
  · refine (foldl_keeps _ _ _ _ fun c l => ?_).trans (portLinks_macCount ..)
    split <;> simp
@[simp] theorem portLinks_sendCtl (u : Nat) : portLinks (sendCtl u b) = portLinks b := by
  unfold sendCtl; exact (foldl_keeps _ _ _ _ (by simp)).trans (portLinks_setPort b rfl)
@[simp] theorem portLinks_sendClasses (u n : Nat) : portLinks (sendClasses u n b) = portLinks b := by
  induction n generalizing b with
  | zero => rfl
  | succ n ih => unfold sendClasses; split <;> simp [ih]
@[simp] theorem portLinks_pump (u : Nat) : portLinks (pump u b) = portLinks b := by
  have hidle (c : Block) (n : Nat) : portLinks (if 0 < n then modPort u (fun p => { p with idleAt := c.face.time }) c else c) = portLinks c := by
    split
    · exact portLinks_modPort c fun _ => rfl
    · rfl
  unfold pump; dsimp only; rw [portLinks_settleTx]; split
  · rw [hidle, portLinks_sendClasses, portLinks_sendCtl]
  · rfl
@[simp] theorem portLinks_macSend (u c : Nat) (f : List Byte) : portLinks (macSend u c f b).2 = portLinks b := by
  unfold macSend; dsimp only; split
  · rfl
  · split
    · simp
    · rw [portLinks_pump, portLinks_modPort]
      exact fun _ => rfl
@[simp] theorem portLinks_sendData (l v : Nat) : portLinks (sendData l v b) = portLinks b := by
  simp only [sendData]
  exact portLinks_of_mac rfl
@[simp] theorem portLinks_pumpGo (l n : Nat) : portLinks (pumpGo l n b) = portLinks b := by
  induction n generalizing b with
  | zero => rfl
  | succ n ih =>
    unfold pumpGo; dsimp only; split
    · rfl
    · split <;> simp [ih]
@[simp] theorem portLinks_pumpLink (l : Nat) : portLinks (pumpLink l b) = portLinks b := by unfold pumpLink; split <;> simp
@[simp] theorem portLinks_putFrame (j l r v : Nat) (f : List Byte) : portLinks (putFrame j l r v f b) = portLinks b := by
  unfold putFrame; split
  · simp
  · split <;> simp
@[simp] theorem portLinks_routeFrame (j r : Nat) (p : Option Nat) (f : List Byte) : portLinks (routeFrame j r p f b).2 = portLinks b := by
  unfold routeFrame; dsimp only; split
  · split <;> simp
  · simp
@[simp] theorem portLinks_sendKeyx (j r : Nat) : portLinks (sendKeyx j r b) = portLinks b := by unfold sendKeyx; split <;> simp
@[simp] theorem portLinks_startAgree (j r n : Nat) : portLinks (startAgree j r n b) = portLinks b := by unfold startAgree; split <;> simp
@[simp] theorem portLinks_noteAdvance (j r : Nat) (p q : Pair) : portLinks (noteAdvance j r p q b) = portLinks b := by
  unfold noteAdvance; dsimp only; split <;> simp
theorem portLinks_issueReq {q : FabReq} {p : Pair} {c : Block} (h : issueReq q p b = some c) : portLinks c = portLinks b := by
  unfold issueReq at h
  dsimp only at h
  split at h
  · cases h
  · cases h; simp
@[simp] theorem portLinks_endReq (q : FabReq) (s : Status) (v : Nat) : portLinks (endReq q s v b) = portLinks b := by
  unfold endReq; dsimp only; (repeat' split) <;> simp
@[simp] theorem portLinks_tryReq (q : FabReq) : portLinks (tryReq q b) = portLinks b := by
  unfold tryReq; dsimp only; split
  · simp
  · split
    · simp
    · split
      · simp
      · rename_i p _ _
        cases h : issueReq q p b with
        | none => simp
        | some c => simpa using portLinks_issueReq b h
@[simp] theorem portLinks_fabricRequest (q : FabReq) : portLinks (fabricRequest q b) = portLinks b := by unfold fabricRequest; split <;> simp
@[simp] theorem portLinks_retryWants : portLinks (retryWants b) = portLinks b := by
  unfold retryWants; exact (foldl_keeps _ _ _ _ (by simp)).trans (portLinks_modFab ..)
@[simp] theorem portLinks_finishReq (h : Held) (s : Status) (v : Nat) : portLinks (finishReq h s v b) = portLinks b := by simp [finishReq]
@[simp] theorem portLinks_resend (h : Held) : portLinks (resend h b) = portLinks b := by
  unfold resend; dsimp only; split
  · rw [portLinks_finishReq, portLinks_notify]
  · rw [portLinks_bump]; simp
@[simp] theorem portLinks_rewriteVia (j : Nat) : portLinks (rewriteVia j b) = portLinks b := by
  unfold rewriteVia; dsimp only
  refine foldl_keeps _ _ _ _ fun c r => ?_
  simp
@[simp] theorem portLinks_linksChanged : portLinks (linksChanged b) = portLinks b := foldl_keeps _ _ _ _ (by simp)
@[simp] theorem portLinks_linkLeft (l : Nat) : portLinks (linkLeft l b) = portLinks b := by
  unfold linkLeft; exact (foldl_keeps _ _ _ _ (by simp)).trans (portLinks_linksChanged b)


/-! ### Sending leaves the registers beside the counters -/

theorem countedOnly_refl (u : Nat) : CountedOnly u b b := fun _ _ _ => rfl

theorem countedOnly_of_face {b c : Block} (u : Nat) (h : c.face = b.face) : CountedOnly u b c := fun _ _ _ => by rw [reg, reg, getReg, getReg, h]

theorem CountedOnly.foldl {α : Type} {f : Block → α → Block} {u : Nat} {l : List α} (hf : ∀ c, ∀ x ∈ l, CountedOnly u c (f c x)) : CountedOnly u b (l.foldl f b) :=
  List.foldlRecOn l f (countedOnly_refl b u) fun c h x hx => h.trans (hf c x hx)

section Counts
variable {u : Nat}

theorem countedOnly_bump {o : Nat} (n : Nat) (ho : 0x20100 ≤ o) (ho' : o + 4 < 0x20300) : CountedOnly u b (bump u o n b) := by
  intro v o' h
  have hne {x : Nat} (hx : 0x20100 ≤ x ∧ x < 0x20300) : regKey v o' ≠ regKey u x := by
    rcases h with ⟨hv, ho⟩ | ⟨rfl, ho⟩
    · unfold regKey; omega
    · rw [Ne, regKey_same_unit]; omega
  exact reg_bump_other b (hne (by omega)) (hne (by omega))

theorem countedOnly_bumpPfcTx (n : Nat) {c : Nat} (hc : c < 8) : CountedOnly u b (bump u (Off.macPfcTxLo c) n b) := by
  have ho : Off.macPfcTxLo c = 0x20208 + 0x10 * c := rfl
  exact countedOnly_bump b n (by omega) (by omega)

theorem countedOnly_bumpPfcRx (n : Nat) {c : Nat} (hc : c < 8) : CountedOnly u b (bump u (Off.macPfcRxLo c) n b) := by
  have ho : Off.macPfcRxLo c = 0x20200 + 0x10 * c := rfl
  exact countedOnly_bump b n (by omega) (by omega)

theorem countedOnly_settleTx : CountedOnly u b (settleTx u b) := by
  unfold settleTx
  generalize (List.range 9).foldl (fun p c => settleWatch b.face.time c p) (portOf b u) = p
  dsimp only
  split
  · exact countedOnly_of_face u rfl
  · exact (countedOnly_of_face u rfl : CountedOnly u b (setPort u { p with heldAt := none } b)).trans (countedOnly_macCount _ _ (by decide))
  · exact countedOnly_of_face u rfl

theorem countedOnly_putWire (f : List Byte) : CountedOnly u b (putWire u f b) := by
  have hwire : CountedOnly u b { b with mac := { b.mac with wire := b.mac.wire ++ [(u, f)] } } := countedOnly_of_face u rfl
  have hframes := hwire.trans (countedOnly_macCount (k := 16) _ 1 (by decide))
  exact hframes.trans (countedOnly_macCount (k := 17) _ f.length (by decide))

theorem countedOnly_sendHead (c : Nat) : CountedOnly u b (sendHead u c b) := by
  unfold sendHead
  dsimp only
  split
  · exact countedOnly_refl _ _
  · next f r _ =>
    have hset : CountedOnly u b (modPort u (fun p => { p with tx := p.tx.put c r, watch := (p.watch.drop c).drop 8 }) b) := countedOnly_of_face u rfl
    exact hset.trans (countedOnly_putWire _ f)

theorem countedOnly_countCtl (f : List Byte) : CountedOnly u b (countCtl u f b) := by
  unfold countCtl
  split
  · exact countedOnly_macCount _ _ (by decide)
  · refine (countedOnly_macCount (k := 19) b 1 (by decide)).trans (CountedOnly.foldl _ fun c k hk => ?_)
    split
    · exact countedOnly_bumpPfcTx c 1 (List.mem_range.mp hk)
    · exact countedOnly_refl _ _

theorem countedOnly_sendCtl : CountedOnly u b (sendCtl u b) := by
  have hset : CountedOnly u b (setPort u { portOf b u with ctl := [] } b) := countedOnly_of_face u rfl
  exact hset.trans (CountedOnly.foldl _ fun c f _ => (countedOnly_putWire c f).trans (countedOnly_countCtl _ f))

theorem countedOnly_sendClasses (n : Nat) : CountedOnly u b (sendClasses u n b) := by
  induction n generalizing b with
  | zero => exact countedOnly_refl _ _
  | succ n ih =>
    unfold sendClasses
    split
    · exact (countedOnly_sendHead b _).trans (ih _)
    · exact countedOnly_refl _ _

theorem countedOnly_pump : CountedOnly u b (pump u b) := by
  have hsent := (countedOnly_sendCtl b).trans (countedOnly_sendClasses (sendCtl u b) (waiting (portOf b u)))
  have hidle (c : Block) (n : Nat) : CountedOnly u c (if 0 < n then modPort u (fun p => { p with idleAt := c.face.time }) c else c) := by
    split
    · exact countedOnly_of_face u rfl
    · exact countedOnly_refl _ _
  unfold pump
  refine CountedOnly.trans ?_ (countedOnly_settleTx _)
  split
  · exact hsent.trans (hidle _ _)
  · exact countedOnly_refl _ _

end Counts

/-! ### Pause frames and holds -/

theorem CountedOnly.pauseMode {u : Nat} {b c : Block} (h : CountedOnly u b c) : pauseMode c u = Machine.pauseMode b u := by
  rw [Machine.pauseMode, Machine.pauseMode, h.fld (by decide)]

theorem linkPart_pump (u : Nat) : linkPart (portOf (pump u b) u) = linkPart (portOf b u) := congrFun (portLinks_pump b u) u

theorem held_pump (u : Nat) : (portOf (pump u b) u).held = (portOf b u).held := by
  have h := linkPart_pump b u
  simp only [linkPart, Prod.mk.injEq] at h
  exact h.2.2.1

section Hold
variable {u : Nat}

theorem pauseRx_off (h : flag b u Fld.macCtrlRxEn = false) (q : Nat) : pauseRx u q b = b := by
  rw [pauseRx, h, Bool.not_false, Bool.or_true, if_pos rfl]

theorem pfcRx_off (h : flag b u Fld.macCtrlRxEn = false) (vec : Nat) (qs : List Nat) : pfcRx u vec qs b = b := by
  rw [pfcRx, h, Bool.not_false, Bool.or_true, if_pos rfl]

/-- The block once a priority pause frame has been counted, for each class it names. -/
def pfcCounted (u vec : Nat) (b : Block) : Block :=
  (List.range 8).foldl (fun b c => if bitOf vec c then bump u (Off.macPfcRxLo c) 1 b else b) (macCount u 12 1 b)

theorem mac_pfcCounted (vec : Nat) : (pfcCounted u vec b).mac = b.mac :=
  (foldl_keeps Block.mac _ _ _ fun c k => by split <;> rfl)

/-- What one class of a priority pause frame does. -/
def holdStep (u vec : Nat) (qs : List Nat) (b : Block) (c : Nat) : Block :=
  if bitOf vec c && bitOf (fld b u Fld.macPauseCtrlRxEn) c then holdClass u c (qs.getD c 0) b else b

theorem countedOnly_pfcCounted (vec : Nat) : CountedOnly u b (pfcCounted u vec b) := by
  refine (countedOnly_macCount b 1 (by decide)).trans (CountedOnly.foldl _ fun c k hk => ?_)
  split
  · exact countedOnly_bumpPfcRx c 1 (List.mem_range.mp hk)
  · exact countedOnly_refl _ _

/-- What a class's own step does where no hold-off stands. -/
theorem held_holdClass {c q : Nat} (h : (portOf b u).holdoff.find c = none) :
    (portOf (holdClass u c q b) u).held.find c = if q = 0 then none else some (nowPs b + quantaPs b u q) := by
  simp only [holdClass, h, Option.isSome_none, Bool.false_eq_true, if_false, portOf_setPort, if_true]
  split
  · rw [SMap.find_drop, if_pos rfl]
  · rw [SMap.find_put, if_pos rfl]

/-- What a class's hold depends on and the hold itself. -/
def holdView (u c : Nat) (b : Block) : Option Nat × Option Nat × (Nat × Nat) :=
  ((portOf b u).held.find c, (portOf b u).holdoff.find c, (portOf b u).lanes, b.face.time)

theorem holdView_holdClass_other {c k q : Nat} (hne : c ≠ k) : holdView u c (holdClass u k q b) = holdView u c b := by
  unfold holdClass
  dsimp only
  split
  · rfl
  · simp only [holdView, portOf_setPort, if_true]
    split
    · simp [SMap.find_drop, hne, setPort]
    · simp [SMap.find_put, hne, setPort]

theorem holdView_holdStep_other {vec c k : Nat} {qs : List Nat} (hne : c ≠ k) : holdView u c (holdStep u vec qs b k) = holdView u c b := by
  unfold holdStep
  split
  · exact holdView_holdClass_other b hne
  · rfl

theorem countedOnly_holdStep (vec k : Nat) (qs : List Nat) : CountedOnly u b (holdStep u vec qs b k) := by
  unfold holdStep holdClass
  dsimp only
  split
  · split
    · exact countedOnly_macCount b 1 (by decide)
    · exact countedOnly_of_face u rfl
  · exact countedOnly_refl _ _

theorem holdView_others {vec c : Nat} {qs l : List Nat} (h : c ∉ l) : holdView u c (l.foldl (holdStep u vec qs) b) = holdView u c b :=
  List.foldlRecOn l (holdStep u vec qs) (motive := fun d => holdView u c d = holdView u c b) rfl fun d hd k hk =>
    (holdView_holdStep_other d fun he => h (by rwa [he])).trans hd

/-- A priority pause frame holds a class it names for its quanta, or lets it go. -/
theorem held_holdSteps {vec c : Nat} {qs : List Nat} (hc : c < 8) (hvec : bitOf vec c = true) (hen : bitOf (fld b u Fld.macPauseCtrlRxEn) c = true)
    (hoff : (portOf b u).holdoff.find c = none) :
    (portOf ((List.range 8).foldl (holdStep u vec qs) b) u).held.find c =
      if qs.getD c 0 = 0 then none else some (nowPs b + quantaPs b u (qs.getD c 0)) := by
  obtain ⟨l, r, hl⟩ := List.append_of_mem (List.mem_range.mpr hc)
  have hnodup := List.nodup_range (n := 8)
  rw [hl, List.nodup_append, List.nodup_cons] at hnodup
  obtain ⟨-, ⟨hr, -⟩, hlr⟩ := hnodup
  rw [hl, List.foldl_append, List.foldl_cons]
  have hview := holdView_others b (u := u) (vec := vec) (qs := qs) (l := l) fun hm => hlr c hm c (List.mem_cons_self ..) rfl
  have hcounted : CountedOnly u b (l.foldl (holdStep u vec qs) b) := CountedOnly.foldl b fun d k _ => countedOnly_holdStep d vec k qs
  generalize l.foldl (holdStep u vec qs) b = d at hview hcounted
  obtain ⟨hheld, hoff', hlanes, htime⟩ : _ ∧ _ ∧ _ ∧ _ := by simpa only [holdView, Prod.mk.injEq] using hview
  have hstep : holdStep u vec qs d c = holdClass u c (qs.getD c 0) d := by
    rw [holdStep, hvec, hcounted.fld (by decide), hen]
    rfl
  have hlast := holdView_others (holdStep u vec qs d c) (u := u) (vec := vec) (qs := qs) hr
  have hfind := congrArg Prod.fst hlast
  dsimp only [holdView] at hfind
  rw [hfind, hstep, held_holdClass d (hoff'.trans hoff)]
  rw [nowPs, nowPs, htime, quantaPs, quantaPs, hlanes]

variable (hw : macWorks b u = true)
include hw

theorem pauseRx_on (hen : flag b u Fld.macCtrlRxEn = true) (q : Nat) :
    pauseRx u q b = if pauseMode b u = 1 then pump u (holdClass u 8 q (macCount u 11 1 b)) else macCount u 13 1 (macCount u 11 1 b) := by
  have hmode : pauseMode (macCount u 11 1 b) u = pauseMode b u := (countedOnly_macCount b 1 (by decide)).pauseMode
  rw [pauseRx, hw, hen, Bool.not_true, Bool.or_self, if_neg Bool.false_ne_true]
  dsimp only
  rw [hmode]

theorem pfcRx_on (hen : flag b u Fld.macCtrlRxEn = true) (vec : Nat) (qs : List Nat) :
    pfcRx u vec qs b = if pauseMode b u = 2 then pump u ((List.range 8).foldl (holdStep u vec qs) (pfcCounted u vec b))
      else macCount u 13 1 (pfcCounted u vec b) := by
  have hmode := (countedOnly_pfcCounted (u := u) b vec).pauseMode
  rw [pfcRx, hw, hen, Bool.not_true, Bool.or_self, if_neg Bool.false_ne_true]
  dsimp only
  rw [pfcCounted] at hmode
  rw [hmode]
  rfl

/-- A priority pause frame holds a class it names, and that may be held, for its quanta; quanta 0 let it go. -/
theorem held_pfcRx (hen : flag b u Fld.macCtrlRxEn = true) (hmode : pauseMode b u = 2) {vec c : Nat} {qs : List Nat} (hc : c < 8)
    (hvec : bitOf vec c = true) (hrx : bitOf (fld b u Fld.macPauseCtrlRxEn) c = true) (hoff : (portOf b u).holdoff.find c = none) :
    (portOf (pfcRx u vec qs b) u).held.find c = if qs.getD c 0 = 0 then none else some (nowPs b + quantaPs b u (qs.getD c 0)) := by
  have hcounted := countedOnly_pfcCounted b (u := u) vec
  have hmac := mac_pfcCounted b (u := u) vec
  have htime : (pfcCounted u vec b).face.time = b.face.time := foldl_keeps (fun c : Block => c.face.time) _ _ _ fun c k => by split <;> rfl
  have hport := portOf_of_mac hmac u
  rw [pfcRx_on b hw hen, if_pos hmode, held_pump]
  rw [held_holdSteps _ hc hvec (by rw [hcounted.fld (by decide), hrx]) (by rw [hport, hoff])]
  rw [nowPs, nowPs, htime, quantaPs, quantaPs, hport]

theorem port_pfcRx_none (h : pauseMode b u ≠ 2 ∨ flag b u Fld.macCtrlRxEn = false) (vec : Nat) (qs : List Nat) : portOf (pfcRx u vec qs b) u = portOf b u := by
  cases hen : flag b u Fld.macCtrlRxEn with
  | false => rw [pfcRx_off b hen]
  | true =>
    have hne := h.resolve_right (by rw [hen]; decide)
    rw [pfcRx_on b hw hen, if_neg hne]
    exact portOf_of_mac (mac_pfcCounted ..) u

end Hold

/-! ### The ends of holds and pauses -/

section Ends
variable {u c t : Nat}

theorem holdExpire_due (hh : (portOf b u).held.find c = some t) (ht : t ≤ nowPs b) :
    holdExpire u c b = pump u (modPort u (fun p => { p with held := p.held.drop c }) b) := by
  rw [holdExpire, hh]
  exact if_pos ht

theorem holdoffEnd_due (hh : (portOf b u).holdoff.find c = some t) (ht : t ≤ b.face.time) :
    holdoffEnd u c b = notify u Fld.macStatusHoldoffEnd .macHoldoffEnd c (modPort u (fun p => { p with holdoff := p.holdoff.drop c }) b) := by
  rw [holdoffEnd, hh]
  exact if_pos ht

theorem abandonEnd_due (hh : (portOf b u).abandon.find c = some t) (ht : t ≤ b.face.time) :
    abandonEnd u c b =
      let b := modPort u (fun p => { p with abandon := p.abandon.drop c }) b
      if (pauseClasses b u).contains c then checkPause u c b else b := by
  rw [abandonEnd, hh]
  exact if_pos ht

variable (hw : macWorks b u = true)
include hw

theorem pauseRefresh_due {l : Nat} (hp : (portOf b u).pausing.find c = some (t, l)) (hl : l * 1000000 + quantaPs b u 32768 ≤ nowPs b)
    (hon : xon b u c ≤ watchedUse b u c) :
    pauseRefresh u c b = sendPause u c 0xFFFF (setPort u { portOf b u with pausing := (portOf b u).pausing.put c (t, b.face.time) } b) := by
  unfold pauseRefresh
  dsimp only
  rw [hp]
  exact if_pos ⟨hw, hl, hon⟩

theorem pauseAbandon_due {l : Nat} (hp : (portOf b u).pausing.find c = some (t, l)) (h0 : wdLimit b u ≠ 0) (hl : t + wdLimit b u ≤ b.face.time) :
    pauseAbandon u c b = macCount u 22 1 (sendPause u c 0 (setPort u { portOf b u with
      pausing := (portOf b u).pausing.drop c, abandon := (portOf b u).abandon.put c (b.face.time + wdHold b u) } b)) := by
  unfold pauseAbandon
  dsimp only
  rw [hp]
  exact if_pos ⟨hw, h0, hl⟩

theorem pauseStorm_due (h0 : wdLimit b u ≠ 0) (hh : ((portOf b u).held.find c).isSome = true) (hl : wdLimit b u ≤ watched b (portOf b u) c) :
    pauseStorm u c b = pump u (notify u Fld.macStatusPauseStorm .macPauseStorm c (macCount u 23 1 (setPort u { portOf b u with
      held := (portOf b u).held.drop c, watch := (portOf b u).watch.drop c, holdoff := (portOf b u).holdoff.put c (b.face.time + wdHold b u) } b))) := by
  unfold pauseStorm
  dsimp only
  exact if_pos (by simp [hw, h0, hh, hl])

end Ends

/-! ### The pause mode -/

section Mode
variable {u : Nat} {v : Nat}

/-- The block with MAC_PAUSE_CTRL written. -/
def pauseCtrlWritten (u v : Nat) (b : Block) : Block := setReg u Off.macPauseCtrl (maskedWrite (reg b u Off.macPauseCtrl) v 0xFFFF03) b

theorem pauseModeWrite_same (h : fld (pauseCtrlWritten u v b) u Fld.macPauseCtrlMode = fld b u Fld.macPauseCtrlMode) :
    pauseModeWrite u v b = modPort u (fun p => { p with pausing := p.pausing.filter fun e => (pauseClasses (pauseCtrlWritten u v b) u).contains e.1 }) (pauseCtrlWritten u v b) :=
  if_pos h

theorem pauseModeWrite_changes (h : fld (pauseCtrlWritten u v b) u Fld.macPauseCtrlMode ≠ fld b u Fld.macPauseCtrlMode) :
    pauseModeWrite u v b = pump u (modPort u (fun p => { p with held := [], holdoff := [], watch := [], pausing := [] }) (pauseCtrlWritten u v b)) :=
  if_neg h

theorem pauseModeWrite_releases (h : fld (pauseCtrlWritten u v b) u Fld.macPauseCtrlMode ≠ fld b u Fld.macPauseCtrlMode) :
    (portOf (pauseModeWrite u v b) u).held = [] ∧ (portOf (pauseModeWrite u v b) u).holdoff = [] ∧ (portOf (pauseModeWrite u v b) u).pausing = [] ∧
      reg (pauseModeWrite u v b) u Off.macPauseCtrl = reg (pauseCtrlWritten u v b) u Off.macPauseCtrl := by
  rw [pauseModeWrite_changes b h]
  generalize pauseCtrlWritten u v b = d
  have hreg := countedOnly_pump (modPort u (fun p => { p with held := [], holdoff := [], watch := [], pausing := [] }) d) u Off.macPauseCtrl (.inr ⟨rfl, .inl (by decide)⟩)
  have hlinks := linkPart_pump (modPort u (fun p => { p with held := [], holdoff := [], watch := [], pausing := [] }) d) u
  simp only [linkPart, Prod.mk.injEq, modPort, portOf_setPort, if_true] at hlinks
  obtain ⟨-, -, hheld, hoff, hpausing⟩ := hlinks
  exact ⟨hheld, hoff, hpausing, hreg⟩

end Mode

theorem macUnit_ne_tally (m : Fin 26) : macUnit m ≠ uTly := by
  revert m
  decide

/-! ### Low power idle -/

section Lpi
variable {u t : Nat}

theorem lpiEnter_due (hw : macWorks b u = true) (hen : flag b u Fld.macEeeCtrlEn = true) (hlink : (portOf b u).link = true) (hlpi : (portOf b u).lpi = none)
    (hwake : (portOf b u).wakeEnd = none) (hwait : waiting (portOf b u) = 0) (hctl : (portOf b u).ctl = [])
    (hidle : (portOf b u).idleAt + max 1 (fld b u Fld.macEeeCtrlIdle) ≤ b.face.time) :
    lpiEnter u b = macCount u 25 1 (setPort u { portOf b u with lpi := some b.face.time } b) := by
  unfold lpiEnter
  dsimp only
  rw [hw, hen, hlink, hlpi, hwake, hwait, hctl, decide_eq_true hidle]
  rfl

theorem lpiWake_due (hlpi : (portOf b u).lpi = some t) (h : waiting (portOf b u) ≠ 0 ∨ (portOf b u).ctl ≠ []) :
    lpiWake u b = modPort u (fun p => { p with lpi := none, wakeEnd := some (b.face.time + fld b u Fld.macEeeTwTxTw) })
      (macCount u 26 (1000 * (b.face.time - t)) (modPort u (fun p => { p with lpi := some b.face.time }) b)) := by
  have hno : ¬ ((portOf b u).lpi = none ∨ waiting (portOf b u) = 0 ∧ (portOf b u).ctl.isEmpty = true) := by
    rintro (h0 | ⟨h0, h1⟩)
    · rw [hlpi] at h0; cases h0
    · exact h.elim (fun h => h h0) fun h => h (List.isEmpty_iff.mp h1)
  unfold lpiWake
  dsimp only
  rw [if_neg hno, settleLpi, hlpi]

theorem lpiWakeEnd_due (hwake : (portOf b u).wakeEnd = some t) (ht : t ≤ b.face.time) :
    lpiWakeEnd u b = pump u (modPort u (fun p => { p with wakeEnd := none }) b) := by
  rw [lpiWakeEnd, hwake]
  exact if_pos ht

theorem rxLpi_works (hw : macWorks b u = true) (on : Bool) :
    rxLpi u on b = setPort u { portOf b u with rxLpi := on } (if on && !(portOf b u).rxLpi then macCount u 15 1 b else b) := by
  rw [rxLpi, hw]
  rfl

theorem autonegTimeout_due (hw : macWorks b u = true) (hphy : phyCode b u = 0) (hlink : (portOf b u).link = false)
    (ht : (portOf b u).tryAt + 500000 ≤ b.face.time) :
    autonegTimeout u b = setPort u { portOf b u with tryC2m := !(portOf b u).tryC2m, tryAt := b.face.time } b := by
  unfold autonegTimeout
  dsimp only
  rw [hw, hphy, hlink, decide_eq_true ht]
  rfl

end Lpi

/-! ### The link -/

section Link
variable {u phy lanes : Nat}

theorem portUp_noClock (h : b.tly.ref1 = false) : portUp u phy lanes b = b := by
  rw [portUp, h]
  rfl

theorem portUp_misfits (hlink : (portOf b u).link = false) (hfit : phyFits b u phy lanes = false) : portUp u phy lanes b = b := by
  have hmac : macLinkUp u phy lanes b = b := by
    rw [macLinkUp, hfit, Bool.not_false, Bool.or_true, if_pos rfl]
  unfold portUp
  dsimp only
  rw [hmac, hlink, Bool.and_false, if_neg Bool.false_ne_true, ite_self]

/-- The block once a port's link has come up. -/
def linkCameUp (u phy lanes : Nat) (b : Block) : Block :=
  pump u (notify u Fld.macStatusLinkUp .macLinkUp (phy * 2 ^ 28 + lanes * 2 ^ 24)
    (setPort u { portOf b u with link := true, phy := phy, lanes := lanes, idleAt := b.face.time } b))

theorem link_linkCameUp : (portOf (linkCameUp u phy lanes b) u).link = true := by
  have h := linkPart_pump (notify u Fld.macStatusLinkUp .macLinkUp (phy * 2 ^ 28 + lanes * 2 ^ 24)
    (setPort u { portOf b u with link := true, phy := phy, lanes := lanes, idleAt := b.face.time } b)) u
  have hport := congrFun (portLinks_notify (setPort u { portOf b u with link := true, phy := phy, lanes := lanes, idleAt := b.face.time } b) u
    Fld.macStatusLinkUp .macLinkUp (phy * 2 ^ 28 + lanes * 2 ^ 24)) u
  have hset := h.trans hport
  simp only [portLinks, linkPart, Prod.mk.injEq, portOf_setPort, if_true] at hset
  exact hset.1

theorem portUp_fits (href : b.tly.ref1 = true) (hw : macWorks b u = true) (hlink : (portOf b u).link = false) (hfit : phyFits b u phy lanes = true) :
    portUp u phy lanes b = if isLinkUnit u then ethLinkUp (u - 128) lanes (linkCameUp u phy lanes b) else linkCameUp u phy lanes b := by
  have hmac : macLinkUp u phy lanes b = linkCameUp u phy lanes b := by
    unfold macLinkUp
    rw [hw, hlink, hfit, if_neg (by decide)]
    rfl
  unfold portUp
  rw [hmac, href, if_neg (by decide)]
  dsimp only
  rw [link_linkCameUp, Bool.and_true]

/-- The port of a link that has gone down. -/
def portWentDown (now : Nat) (p : MacPort) : MacPort :=
  { p with
    link := false, phy := 0, lanes := 0, tx := [], ctl := [], held := [], holdoff := [], watch := [], pausing := []
    lpi := none, rxLpi := false, wakeEnd := none, tryC2m := false, tryAt := now }

/-- The block before the event of a link that has gone down. -/
def linkWentDown (u : Nat) (b : Block) : Block :=
  settleTx u (macCount u 21 (waiting (portOf b u) + (portOf b u).ctl.length) (setPort u (portWentDown (settleLpi u b).face.time (portOf b u)) (settleLpi u b)))

theorem macLinkDown_up (hlink : (portOf b u).link = true) : macLinkDown u b = notify u Fld.macStatusLinkDown .macLinkDown 0 (linkWentDown u b) := by
  unfold macLinkDown
  dsimp only
  rw [hlink, if_neg (by decide)]
  rfl

theorem queues_settleWatch (now c : Nat) (p : MacPort) : ((settleWatch now c p).tx, (settleWatch now c p).ctl) = (p.tx, p.ctl) := by
  unfold settleWatch
  dsimp only
  split <;> rfl

theorem queues_settleTx (u : Nat) : ((portOf (settleTx u b) u).tx, (portOf (settleTx u b) u).ctl) = ((portOf b u).tx, (portOf b u).ctl) := by
  have hp := foldl_keeps (fun p : MacPort => (p.tx, p.ctl)) (fun p c => settleWatch b.face.time c p) (List.range 9) (portOf b u)
    fun p c => queues_settleWatch b.face.time c p
  unfold settleTx
  generalize (List.range 9).foldl (fun p c => settleWatch b.face.time c p) (portOf b u) = p at hp
  have hcount (n : Nat) (d : Block) : portOf (macCount u 24 n d) u = portOf d u := portOf_of_mac rfl u
  dsimp only
  split <;> simp only [hcount, portOf_setPort, if_true] <;> exact hp

/-- A link that goes down leaves nothing waiting, held or paused at its port. -/
theorem port_linkWentDown : linkPart (portOf (linkWentDown u b) u) = (false, none, [], [], []) ∧
    ((portOf (linkWentDown u b) u).tx, (portOf (linkWentDown u b) u).ctl) = ([], []) := by
  have hport (n : Nat) (p : MacPort) (d : Block) : portOf (macCount u 21 n (setPort u p d)) u = p :=
    (portOf_of_mac (b := setPort u p d) rfl u).trans (by rw [portOf_setPort, if_pos rfl])
  constructor
  · have hlinks := congrFun (portLinks_settleTx (macCount u 21 (waiting (portOf b u) + (portOf b u).ctl.length)
      (setPort u (portWentDown (settleLpi u b).face.time (portOf b u)) (settleLpi u b))) u) u
    simp only [portLinks, hport] at hlinks
    exact hlinks
  · rw [linkWentDown, queues_settleTx, hport]
    rfl

@[simp] theorem portLinks_failLink (l : Nat) : portLinks (failLink l b) = portLinks b := by
  unfold failLink
  dsimp only
  split <;> simp

@[simp] theorem portLinks_enterRetrain (l : Nat) : portLinks (enterRetrain l b) = portLinks b := by
  unfold enterRetrain
  dsimp only
  split <;> simp

theorem portDown_up (hu : u ≠ uTly) (hlink : (portOf b u).link = true) :
    (portOf (portDown u b) u).link = false ∧ (portOf (portDown u b) u).lpi = none ∧
    (isLinkUnit u = false → (portOf (portDown u b) u).tx = [] ∧ (portOf (portDown u b) u).ctl = [] ∧ (portOf (portDown u b) u).held = [] ∧
      (portOf (portDown u b) u).holdoff = [] ∧ (portOf (portDown u b) u).pausing = [] ∧ flag (portDown u b) u Fld.macStatusLinkDown = true) := by
  obtain ⟨hdown, hqueues⟩ := port_linkWentDown b (u := u)
  have hlinks : linkPart (portOf (portDown u b) u) = (false, none, [], [], []) := by
    have hkept : portLinks (portDown u b) = portLinks (linkWentDown u b) := by
      unfold portDown
      dsimp only
      rw [macLinkDown_up b hlink]
      split <;> simp
    exact (congrFun hkept u).trans hdown
  simp only [linkPart, Prod.mk.injEq] at hlinks
  obtain ⟨h1, h2, h3, h4, h5⟩ := hlinks
  refine ⟨h1, h2, fun hfe => ?_⟩
  have he : portDown u b = notify u Fld.macStatusLinkDown .macLinkDown 0 (linkWentDown u b) := by
    unfold portDown
    dsimp only
    rw [macLinkDown_up b hlink, hfe, Bool.and_false, Bool.false_and, if_neg Bool.false_ne_true]
  have hmac : (notify u Fld.macStatusLinkDown .macLinkDown 0 (linkWentDown u b)).mac = (linkWentDown u b).mac := (restPart_eq_iff.mp (restPart_notify ..)).1.2.2.1
  simp only [Prod.mk.injEq] at hqueues
  obtain ⟨htx, hctl⟩ := hqueues
  have hport := portOf_of_mac hmac u
  refine ⟨by rw [he, hport, htx], by rw [he, hport, hctl], h3, h4, h5, ?_⟩
  rw [he, notify, flag_of_reg (reg_raise_own _ u .macLinkDown 0 hu (by decide))]
  exact flag_setSq_same _ rfl (by decide)

end Link
end Sys2Proof.Machine

open Sys2Proof Sys2Proof.Machine

/-- Settles O43, command by command. -/
theorem macPauseAndLink : Obligations.MacPauseAndLink := by
  unfold Obligations.MacPauseAndLink
  intro s m hon hw u p
  refine ⟨?pause, ?pfc, ?ends, ?mode, ?lpi, ?wake, ?wakeEnd, ?rxLpi, ?noClock, ?misfits, ?up, ?down, ?autoneg⟩
  case pause =>
    exact fun q => ⟨fun h => acts_main (g := pauseRx u q) rfl hon (pauseRx_off s.blk h q),
      fun h h1 => acts_main (g := pauseRx u q) rfl hon ((pauseRx_on s.blk hw h q).trans (if_pos h1)),
      fun h h1 => acts_main (g := pauseRx u q) rfl hon ((pauseRx_on s.blk hw h q).trans (if_neg h1))⟩
  case pfc =>
    intro vec qs
    refine ⟨fun hen hmode c hvec hrx hoff => ?_, fun h => answersWith_main (g := pfcRx u vec qs) rfl hon (port_pfcRx_none s.blk hw h vec qs)⟩
    have hheld := held_pfcRx s.blk hw hen hmode (qs := qs) c.isLt hvec hrx hoff
    exact ⟨fun h0 => answersWith_main (g := pfcRx u vec qs) rfl hon (hheld.trans (if_neg h0)),
      fun h0 => answersWith_main (g := pfcRx u vec qs) rfl hon (hheld.trans (if_pos h0))⟩
  case ends =>
    exact fun c => ⟨fun t hh ht => acts_main (g := holdExpire u c) rfl hon (holdExpire_due s.blk hh ht),
      fun t l hp hl hxon => acts_main (g := pauseRefresh u c) rfl hon (pauseRefresh_due s.blk hw hp hl hxon),
      fun t l hp h0 hl => acts_main (g := pauseAbandon u c) rfl hon (pauseAbandon_due s.blk hw hp h0 hl),
      fun t hh ht => acts_main (g := abandonEnd u c) rfl hon (abandonEnd_due s.blk hh ht),
      fun h0 hh hl => acts_main (g := pauseStorm u c) rfl hon (pauseStorm_due s.blk hw h0 hh hl),
      fun t hh ht => acts_main (g := holdoffEnd u c) rfl hon (holdoffEnd_due s.blk hh ht)⟩
  case mode =>
    exact fun v => ⟨fun h => acts_main (g := pauseModeWrite u v.toNat) rfl hon (pauseModeWrite_same s.blk h),
      fun h => answersWith_main (g := pauseModeWrite u v.toNat) rfl hon (pauseModeWrite_releases s.blk h)⟩
  case lpi => exact fun h1 h2 h3 h4 h5 h6 h7 => acts_main (g := lpiEnter u) rfl hon (lpiEnter_due s.blk hw h1 h2 h3 h4 h5 h6 h7)
  case wake => exact fun t h h' => acts_main (g := lpiWake u) rfl hon (lpiWake_due s.blk h h')
  case wakeEnd => exact fun t h ht => acts_main (g := lpiWakeEnd u) rfl hon (lpiWakeEnd_due s.blk h ht)
  case rxLpi => exact fun on => acts_main (g := rxLpi u on) rfl hon (rxLpi_works s.blk hw on)
  case noClock => exact fun phy lanes h => acts_main (g := portUp u phy lanes) rfl hon (portUp_noClock s.blk h)
  case misfits => exact fun phy lanes h h' => acts_main (g := portUp u phy lanes) rfl hon (portUp_misfits s.blk h h')
  case up => exact fun phy lanes h1 h2 h3 => acts_main (g := portUp u phy lanes) rfl hon (portUp_fits s.blk h1 hw h2 h3)
  case down => exact fun h => answersWith_main (g := portDown u) rfl hon (portDown_up s.blk (macUnit_ne_tally m) h)
  case autoneg => exact fun h1 h2 h3 => acts_main (g := autonegTimeout u) rfl hon (autonegTimeout_due s.blk hw h1 h2 h3)

end

section
/-! PROOFS. Frames of the control protocol (R297, R434 to R449, R454). -/

namespace Sys2Proof.Machine

variable (b : Block)

/-! ### The release of a received frame -/

theorem countedOnly_sendPause {u : Nat} (c q : Nat) : CountedOnly u b (sendPause u c q b) :=
  CountedOnly.trans (b := b) (c := modPort u (fun p => { p with ctl := p.ctl ++ [if pauseMode b u = 1 then pauseFrame b u q else pfcFrame b u c q] }) b)
    (countedOnly_of_face u rfl) (countedOnly_pump _)

theorem countedOnly_checkPause {u : Nat} (c : Nat) : CountedOnly u b (checkPause u c b) := by
  have hsent (l : SMap (Nat × Nat)) (q : Nat) : CountedOnly u b (sendPause u c q (modPort u (fun p => { p with pausing := l }) b)) := by
    have hset : CountedOnly u b (modPort u (fun p => { p with pausing := l }) b) := countedOnly_of_face u rfl
    exact hset.trans (countedOnly_sendPause _ c q)
  unfold checkPause
  dsimp only
  split
  · exact countedOnly_refl _ _
  · split
    · split
      · exact hsent _ _
      · exact countedOnly_refl _ _
    · split
      · exact hsent _ _
      · exact countedOnly_refl _ _

theorem countedOnly_rxRelease {u q : Nat} : CountedOnly u b (rxRelease u q b) := by
  unfold rxRelease
  dsimp only
  split
  · exact countedOnly_refl _ _
  · next f r _ =>
    have hset : CountedOnly u b (queueHolds u q r f.pcp (shareUse (portOf b u) f.pcp - f.bytes.length) b) := countedOnly_of_face u rfl
    exact hset.trans (CountedOnly.foldl _ fun c k _ => countedOnly_checkPause c k)

theorem rest_rxRelease (u q : Nat) : { rxRelease u q b with mac := b.mac, face := { (rxRelease u q b).face with regs := b.face.regs } } = b := by
  cases h : rxOf (portOf b u) q with
  | nil =>
    have : rxRelease u q b = b := by rw [rxRelease, h]
    rw [this]
  | cons f r => exact (congrArg (fun x : Block => { x with mac := b.mac, face := { x.face with regs := b.face.regs } }) (rxRelease_takes b h).rest :)

section Release
variable (u q : Nat)

@[simp] theorem qcp_rxRelease : (rxRelease u q b).qcp = b.qcp := (congrArg Block.qcp (rest_rxRelease b u q) :)
@[simp] theorem grn_rxRelease : (rxRelease u q b).grn = b.grn := (congrArg Block.grn (rest_rxRelease b u q) :)
@[simp] theorem ctx_rxRelease : (rxRelease u q b).ctx = b.ctx := (congrArg Block.ctx (rest_rxRelease b u q) :)
@[simp] theorem time_rxRelease : (rxRelease u q b).face.time = b.face.time := (congrArg (fun x : Block => x.face.time) (rest_rxRelease b u q) :)

end Release

theorem idOk_rxRelease (port q : Nat) (hp : port < 2) : idOk (rxRelease (uFe port) q b) = idOk b := by
  have h : ∀ p < 2, uSec ≠ uFe p := by decide
  unfold idOk flag
  rw [(countedOnly_rxRelease b (u := uFe port) (q := q)).fldOther (h port hp) (by decide)]

theorem rngOk_rxRelease (port q : Nat) (hp : port < 2) : rngOk (rxRelease (uFe port) q b) = rngOk b := by
  have h : ∀ p < 2, uSec ≠ uFe p := by decide
  unfold rngOk flag
  rw [(countedOnly_rxRelease b (u := uFe port) (q := q)).fldOther (h port hp) (by decide)]

/-! ### Frames of the protocol that are taken -/

section Taken
variable {port q op : Nat} {fl : Flow} {h : QHead}

theorem engineTake_frame {c tag : List Byte} {run : Flow → QHead → List Byte → List Byte → Block → Block} (hon : mainOn b = true)
    (hf : FrameAt b port q fl h c tag) (hop : h.op = op) : engineTake port q op run b = run fl h c tag (rxRelease (uFe port) q b) := by
  obtain ⟨hcons, f, r, bytes, hrx, hin, hparse, hdev, hhost⟩ := hf
  unfold engineTake
  dsimp only
  rw [hon, hcons]
  simp only [hrx, hin, hparse, hdev, hop ▸ hhost, hop, bne_self_eq_false, Bool.not_true, Bool.or_self, Bool.false_eq_true, if_false, if_true]

theorem engineAuth_arrived {x : Sess} {p : List Byte} {c : Block} {run : Sess → Flow → QHead → List Byte → Block → Block} (hon : mainOn b = true)
    (ha : Arrived b port q op x fl h p c) : engineAuth port q op run b = run x fl h p c := by
  obtain ⟨sealed, tag, hf, hop, htake⟩ := ha
  rw [engineAuth, engineTake_frame b hon hf hop]
  dsimp only
  rw [htake]

/-- A frame of a session changes the session, and nothing else but its queue at the MAC. -/
theorem Arrived.takes {b : Block} {x : Sess} {p : List Byte} {c : Block} (ha : Arrived b port q op x fl h p c) : c = putSess x (rxRelease (uFe port) q b) := by
  obtain ⟨sealed, tag, -, -, htake⟩ := ha
  unfold sessTake at htake
  split at htake
  · cases htake
  · split at htake
    · cases htake
    · split at htake
      · cases htake
      · dsimp only at htake
        split at htake
        · cases htake
        · cases htake
          rfl

end Taken

/-! ### What a frame sent leaves alone -/

section Send
variable (ra : Bool) (fl : Flow) (p : List Byte)

theorem rest_flowSend : (flowSend ra fl p b).qcp = b.qcp ∧ (flowSend ra fl p b).grn = b.grn ∧ (flowSend ra fl p b).ctx = b.ctx := by
  have hring (k : Nat) (f : List Byte) : (ringSend k f b).qcp = b.qcp ∧ (ringSend k f b).grn = b.grn ∧ (ringSend k f b).ctx = b.ctx := by
    unfold ringSend
    split <;> exact ⟨rfl, rfl, rfl⟩
  have hmac (u c : Nat) (f : List Byte) : (macSend u c f b).2.qcp = b.qcp ∧ (macSend u c f b).2.grn = b.grn ∧ (macSend u c f b).2.ctx = b.ctx :=
    ⟨(rxKept_macSend b u c f).qcp, (rxKept_macSend b u c f).grn, (rxKept_macSend b u c f).ctx⟩
  unfold flowSend
  dsimp only
  split
  · exact hring _ _
  · exact hmac _ _ _

@[simp] theorem qcp_flowSend : (flowSend ra fl p b).qcp = b.qcp := (rest_flowSend b ra fl p).1
@[simp] theorem grn_flowSend : (flowSend ra fl p b).grn = b.grn := (rest_flowSend b ra fl p).2.1
@[simp] theorem ctx_flowSend : (flowSend ra fl p b).ctx = b.ctx := (rest_flowSend b ra fl p).2.2

@[simp] theorem qcp_qcount (o : Nat) : (qcount o b).qcp = b.qcp := by unfold qcount; split <;> rfl
@[simp] theorem grn_qcount (o : Nat) : (qcount o b).grn = b.grn := by unfold qcount; split <;> rfl
@[simp] theorem ctx_qcount (o : Nat) : (qcount o b).ctx = b.ctx := by unfold qcount; split <;> rfl

/-- A frame of a session changes what waits to be sent, the counters and the session's number. -/
theorem rest_sessSend (id : Nat) (op queue : Nat) (param : List Byte) (more : Bool) :
    (sessSend id fl op queue param p more b).qcp.jobs = b.qcp.jobs ∧ (sessSend id fl op queue param p more b).grn = b.grn ∧
      (sessSend id fl op queue param p more b).ctx = b.ctx := by
  unfold sessSend
  split
  · exact ⟨rfl, rfl, rfl⟩
  · dsimp only
    rw [qcp_flowSend, grn_flowSend, ctx_flowSend]
    split
    · exact ⟨rfl, rfl, rfl⟩
    · rw [qcp_qcount, grn_qcount, ctx_qcount]
      exact ⟨rfl, rfl, rfl⟩

end Send

/-! ### OPEN -/

section Open
variable {fl : Flow} {c : List Byte}

/-- The block with an OPEN noted among those of the last second. -/
def openNoted (b : Block) : Block := modQcp (fun q => { q with opens := recent b b.qcp.opens ++ [b.face.time] }) b

theorem openSess_flood (h : 100 ≤ (recent b b.qcp.opens).length) : openSess false false fl c b = qcount Off.qcpRxBadLo b := by
  unfold openSess
  dsimp only
  exact if_pos (.inr (.inr h))

variable (hl : c.length = 120) (hr : leAt c 33 7 = 0)
include hl hr

variable (h : (recent b b.qcp.opens).length < 100) (hid : idOk b = true) (hrng : rngOk b = true)
include h hid hrng

theorem openSess_checks : openSess false false fl c b =
    match keySlot (openNoted b) (leAt c 32 1) with
    | none => refuse false fl .authFailed (openNoted b)
    | some pub =>
      if !edVerify pub (c.take 56) (c.drop 56) then refuse false fl .authFailed (openNoted b)
      else if 64 ≤ sessCount false false (openNoted b) then refuse false fl .noResource (openNoted b)
      else acceptSess false false fl (leAt c 32 1) pub c (openNoted b) := by
  have hid' : idOk (openNoted b) = true := hid
  have hrng' : rngOk (openNoted b) = true := hrng
  unfold openSess
  dsimp only
  refine (if_neg ?_).trans ?_
  · rintro (h1 | h1 | h1)
    · exact h1 hl
    · exact h1 hr
    · exact Nat.not_le.mpr h h1
  · refine (if_neg ?_).trans rfl
    change ¬ ((!false && !idOk (openNoted b) || !rngOk (openNoted b)) = true)
    rw [hid', hrng']
    decide

theorem openSess_unknownKey (hk : keySlot (openNoted b) (leAt c 32 1) = none) : openSess false false fl c b = refuse false fl .authFailed (openNoted b) := by
  rw [openSess_checks b hl hr h hid hrng, hk]

variable {pub : List Byte} (hk : keySlot (openNoted b) (leAt c 32 1) = some pub)
include hk

theorem openSess_badSignature (hv : edVerify pub (c.take 56) (c.drop 56) = false) : openSess false false fl c b = refuse false fl .authFailed (openNoted b) := by
  rw [openSess_checks b hl hr h hid hrng, hk]
  dsimp only
  rw [hv, Bool.not_false, if_pos rfl]

variable (hv : edVerify pub (c.take 56) (c.drop 56) = true)
include hv

theorem openSess_full (hn : 64 ≤ sessCount false false (openNoted b)) : openSess false false fl c b = refuse false fl .noResource (openNoted b) := by
  rw [openSess_checks b hl hr h hid hrng, hk]
  dsimp only
  rw [hv, Bool.not_true, if_neg Bool.false_ne_true, if_pos hn]

theorem openSess_accepts (hn : sessCount false false (openNoted b) < 64) :
    openSess false false fl c b = acceptSess false false fl (leAt c 32 1) pub c (openNoted b) := by
  rw [openSess_checks b hl hr h hid hrng, hk]
  dsimp only
  rw [hv, Bool.not_true, if_neg Bool.false_ne_true, if_neg (Nat.not_le.mpr hn)]

end Open

theorem qcp_drawEntropy : (drawEntropy b).2.qcp = b.qcp := rfl

theorem time_drawEntropy : (drawEntropy b).2.face.time = b.face.time := rfl

/-- An accepted OPEN adds its session: `d` and `n` are the two draws of entropy. -/
theorem sessions_accepted {fl : Flow} {slot : Nat} {pub p : List Byte} {k : List Byte × List Byte} {d n : List Byte × Block} (hd : drawEntropy b = d)
    (hn : drawEntropy d.2 = n) (hqcp : n.2.qcp = b.qcp) (htime : n.2.face.time = b.face.time)
    (hk : sessionKeys "QCP" d.1 (p.take 32) ((p.drop 40).take 16) (n.1.take 16) b.qcp.nextSess = some k) :
    (acceptSess false false fl slot pub p b).qcp.sessions =
      b.qcp.sessions ++ [⟨b.qcp.nextSess, false, false, false, slot, pub, k.1, k.2, 0, 0, [], fl, b.face.time, 2, 2 ^ 32 - 1, 0, [], []⟩] := by
  have hq (d : Block) (a : Nat) : (notify uQcp Fld.qcpStatusSessionOpen .qcpSessionOpen a d).qcp = d.qcp := (restPart_eq_iff.mp (restPart_notify d ..)).2.1.1
  unfold acceptSess
  simp only [hd, hn, hqcp, Bool.false_eq_true, if_false, hk, qcp_flowSend, qcp_qcount, hq]
  simp only [modQcp, hqcp, htime, Bool.false_and]

theorem sessions_acceptSess {fl : Flow} {slot : Nat} {pub p : List Byte} {k : List Byte × List Byte}
    (hk : sessionKeys "QCP" (drawEntropy b).1 (p.take 32) ((p.drop 40).take 16) ((drawEntropy (drawEntropy b).2).1.take 16) b.qcp.nextSess = some k) :
    (acceptSess false false fl slot pub p b).qcp.sessions =
      b.qcp.sessions ++ [⟨b.qcp.nextSess, false, false, false, slot, pub, k.1, k.2, 0, 0, [], fl, b.face.time, 2, 2 ^ 32 - 1, 0, [], []⟩] :=
  sessions_accepted b rfl rfl ((qcp_drawEntropy _).trans (qcp_drawEntropy b)) ((time_drawEntropy _).trans (time_drawEntropy b)) hk

/-! ### The end of a session -/

section Idle
variable {x : Sess} {id : Nat}

theorem idleClose_due (hon : mainOn b = true) (hs : sessOf b id = some x) (hra : x.ra = false)
    (ht : x.lastAt + max 1 (fld b uQcp Fld.qcpCtrlIdle) * 1000000 ≤ b.face.time) : idleClose id b = closeSess id true b := by
  unfold idleClose
  rw [hs]
  dsimp only
  rw [hon, Bool.or_true, Bool.not_true, if_neg Bool.false_ne_true, hra, if_neg Bool.false_ne_true, if_pos ht]

theorem closeSess_closes (hs : sessOf b id = some x) (hra : x.ra = false) (idle : Bool) :
    sessOf (closeSess id idle b) id = none ∧ (∀ i, i ≠ id → sessOf (closeSess id idle b) i = sessOf b i) ∧
      flag (closeSess id idle b) uQcp Fld.qcpStatusSessionClose = true := by
  have hflag (d : Block) (a : Nat) : flag (notify uQcp Fld.qcpStatusSessionClose .qcpSessionClose a d) uQcp Fld.qcpStatusSessionClose = true := by
    rw [notify, flag_of_reg (reg_raise_own _ uQcp .qcpSessionClose a (by decide) (by decide))]
    exact flag_setSq_same _ rfl (by decide)
  have hq (d : Block) (a : Nat) : (notify uQcp Fld.qcpStatusSessionClose .qcpSessionClose a d).qcp = d.qcp := (restPart_eq_iff.mp (restPart_notify d ..)).2.1.1
  have hsess (i : Nat) : sessOf (closeSess id idle b) i = (b.qcp.sessions.filter fun x => x.id != id).find? fun s => s.id = i := by
    unfold closeSess
    rw [hs]
    dsimp only
    rw [hra, if_neg Bool.false_ne_true, sessOf, hq]
    rfl
  refine ⟨?_, fun i hi => ?_, ?_⟩
  · rw [hsess, List.find?_eq_none]
    intro y hy
    have := (List.mem_filter.mp hy).2
    simpa using this
  · rw [hsess, sessOf, List.find?_filter]
    refine congrArg (List.find? · b.qcp.sessions) (funext fun y => ?_)
    by_cases hy : y.id = i
    · simp [hy, hi]
    · simp [hy]
  · unfold closeSess
    rw [hs]
    dsimp only
    rw [hra, if_neg Bool.false_ne_true]
    exact hflag _ _

end Idle

/-! ### Command entries and doorbells -/

section Commands
variable {port n : Nat} {x : Sess} {fl : Flow} {h : QHead} {p : List Byte} {c d : Block} (hon : mainOn b = true)
include hon

theorem cmdWrite_writes (ha : Arrived b port n 0x10 x fl h p c) (hq : queueRefusal x h.queue [1, 2] c = (none, d)) (h72 : 72 ≤ p.length)
    (hmod : p.length % 64 = 8) (hmax : p.length ≤ 8 + 139 * 64) (hres : leAt p 4 4 = 0)
    (hroom : ∀ k < (p.length - 8) / 64, isBelow (qProd (pruneArrived h.queue d) h.queue) ((leAt p 0 4 + k) % 2 ^ 32) = true ∨
      ahead (qCons (pruneArrived h.queue d) h.queue) ((leAt p 0 4 + k) % 2 ^ 32) < 2 ^ qDepth (pruneArrived h.queue d) h.queue) :
    cmdWrite port n b = settleBells h.queue 17 ((List.range ((p.length - 8) / 64)).foldl (fun b k =>
      writeEntry h.queue ((leAt p 0 4 + k) % 2 ^ 32) ((p.drop (8 + 64 * k)).take 64) b) (pruneArrived h.queue d)) := by
  have hno : ((List.range ((p.length - 8) / 64)).any fun k => !isBelow (qProd (pruneArrived h.queue d) h.queue) ((leAt p 0 4 + k) % 2 ^ 32) &&
      decide (2 ^ qDepth (pruneArrived h.queue d) h.queue ≤ ahead (qCons (pruneArrived h.queue d) h.queue) ((leAt p 0 4 + k) % 2 ^ 32))) = false := by
    rw [List.any_eq_false]
    intro k hk
    rcases hroom k (List.mem_range.mp hk) with hk | hk
    · rw [hk]
      exact Bool.false_ne_true
    · rw [decide_eq_false (Nat.not_le.mpr hk), Bool.and_false]
      exact Bool.false_ne_true
  rw [cmdWrite, engineAuth_arrived b hon ha]
  dsimp only
  rw [if_neg (by omega), hq]
  dsimp only
  rw [hno, if_neg Bool.false_ne_true]

variable (ha : Arrived b port n 0x11 x fl h p c) (hfault : devState c ≠ dsFault) (hq : queueRefusal x h.queue [1, 2] c = (none, d))
include ha hfault hq

theorem doorbell_cases : doorbell port n b =
    let k := h.queue
    let prod := leAt h.param 0 4
    let dseq := leAt h.param 4 4
    let b := pruneArrived k d
    let gap := ahead (qDseq b k) dseq
    if gap = 0 ∨ 2 ^ 31 ≤ gap then qstatus x.id fl k .ok none b
    else if 2 ^ qDepth b k < ahead (qCons b k) prod then qstatus x.id fl k .badArgument none b
    else if gap = 1 ∧ allArrived b k prod then settleBells k 16 (actBell k prod dseq (whoOf x fl) b)
    else if (queueRunOf b k).bells.any fun x => x.dseq = dseq ∧ x.prod = prod then qstatus x.id fl k .doorbellAhead (some (firstMissingIdx b k)) b
    else if 16 ≤ (queueRunOf b k).bells.length then qstatus x.id fl k .busy none b
    else qcount Off.qcpDbHeldLo (modQueueRun k (fun r => { r with bells := r.bells ++ [⟨prod, dseq, whoOf x fl, b.face.time, false⟩] }) b) := by
  rw [doorbell, engineAuth_arrived b hon ha]
  dsimp only
  rw [if_neg hfault, hq]

theorem doorbell_old (hg : ahead (qDseq (pruneArrived h.queue d) h.queue) (leAt h.param 4 4) = 0 ∨
    2 ^ 31 ≤ ahead (qDseq (pruneArrived h.queue d) h.queue) (leAt h.param 4 4)) :
    doorbell port n b = qstatus x.id fl h.queue .ok none (pruneArrived h.queue d) :=
  (doorbell_cases b hon ha hfault hq).trans (if_pos hg)

theorem doorbell_tooFar (h1 : 1 ≤ ahead (qDseq (pruneArrived h.queue d) h.queue) (leAt h.param 4 4))
    (h2 : ahead (qDseq (pruneArrived h.queue d) h.queue) (leAt h.param 4 4) < 2 ^ 31)
    (hd : 2 ^ qDepth (pruneArrived h.queue d) h.queue < ahead (qCons (pruneArrived h.queue d) h.queue) (leAt h.param 0 4)) :
    doorbell port n b = qstatus x.id fl h.queue .badArgument none (pruneArrived h.queue d) :=
  (doorbell_cases b hon ha hfault hq).trans ((if_neg (by omega)).trans (if_pos hd))

variable (hd : ahead (qCons (pruneArrived h.queue d) h.queue) (leAt h.param 0 4) ≤ 2 ^ qDepth (pruneArrived h.queue d) h.queue)
include hd

theorem doorbell_acts (h1 : ahead (qDseq (pruneArrived h.queue d) h.queue) (leAt h.param 4 4) = 1)
    (hall : allArrived (pruneArrived h.queue d) h.queue (leAt h.param 0 4) = true) :
    doorbell port n b = settleBells h.queue 16 (actBell h.queue (leAt h.param 0 4) (leAt h.param 4 4) (whoOf x fl) (pruneArrived h.queue d)) :=
  (doorbell_cases b hon ha hfault hq).trans ((if_neg (by omega)).trans ((if_neg (Nat.not_lt.mpr hd)).trans (if_pos ⟨h1, hall⟩)))

theorem doorbell_held (h1 : 1 ≤ ahead (qDseq (pruneArrived h.queue d) h.queue) (leAt h.param 4 4))
    (h2 : ahead (qDseq (pruneArrived h.queue d) h.queue) (leAt h.param 4 4) < 2 ^ 31)
    (hno : ahead (qDseq (pruneArrived h.queue d) h.queue) (leAt h.param 4 4) ≠ 1 ∨ allArrived (pruneArrived h.queue d) h.queue (leAt h.param 0 4) = false)
    (hbells : (queueRunOf (pruneArrived h.queue d) h.queue).bells = []) :
    doorbell port n b = qcount Off.qcpDbHeldLo (modQueueRun h.queue (fun r => { r with bells := r.bells ++ [⟨leAt h.param 0 4, leAt h.param 4 4, whoOf x fl,
      (pruneArrived h.queue d).face.time, false⟩] }) (pruneArrived h.queue d)) := by
  have hnot : ¬ (ahead (qDseq (pruneArrived h.queue d) h.queue) (leAt h.param 4 4) = 1 ∧ allArrived (pruneArrived h.queue d) h.queue (leAt h.param 0 4) = true) := by
    rintro ⟨h3, h4⟩
    exact hno.elim (fun h => h h3) fun h => by rw [h] at h4; cases h4
  refine (doorbell_cases b hon ha hfault hq).trans ((if_neg (by omega)).trans ((if_neg (Nat.not_lt.mpr hd)).trans ((if_neg hnot).trans ?_)))
  rw [hbells, List.any_nil, if_neg Bool.false_ne_true]
  exact if_neg (by decide)

end Commands

theorem queueRefusal_uses {x : Sess} {q : Nat} {l : List Nat} {c d : Block} (h : queueRefusal x q l c = (none, d)) : useQueue q c = (true, d) := by
  unfold queueRefusal at h
  dsimp only at h
  split at h
  · cases h
  · next hno =>
    split at h
    · cases h
    · rw [Prod.mk.injEq] at h
      refine Prod.ext ?_ h.2
      cases hu : (useQueue q c).1 with
      | true => rfl
      | false => exact absurd (by rw [hu]; rfl) hno

/-- The bells of a queue once one has been held. -/
theorem bells_held {q : Nat} {y : Bell} (h : (queueRunOf b q).bells = []) :
    (queueRunOf (qcount Off.qcpDbHeldLo (modQueueRun q (fun r => { r with bells := r.bells ++ [y] }) b)) q).bells = [y] := by
  rw [queueRunOf, qcp_qcount]
  simp only [modQueueRun, setQueueRun, modQcp, SMap.get_put, if_true, h, List.nil_append]

/-- A bell that has waited and was not told of is told of. -/
theorem bellTimeout_tells {q : Nat} {x : Bell} (hon : mainOn b = true) (hb : (queueRunOf b q).bells = [x]) (ht : x.told = false)
    (hs : x.since + 10000 ≤ b.face.time) :
    bellTimeout q b =
      let c := notify uQcp Fld.qcpStatusDbAhead .qcpDoorbellAhead q (qcount Off.qcpDbAheadLo
        (modQueueRun q (fun r => { r with bells := [{ x with told := true }] }) b))
      qstatus x.who.sess x.who.flow q .doorbellAhead (some (firstMissingIdx c q)) c := by
  have hdue : ([x].filter fun x => !x.told && decide (x.since + 10000 ≤ b.face.time)) = [x] := by
    rw [List.filter_cons_of_pos (by rw [ht, decide_eq_true hs]; rfl), List.filter_nil]
  have hmod : modQueueRun q (fun r => { r with bells := r.bells.map fun y => if y = x then { y with told := true } else y }) b =
      modQueueRun q (fun r => { r with bells := [{ x with told := true }] }) b := by
    rw [modQueueRun, modQueueRun, hb, List.map_singleton, if_pos rfl]
  unfold bellTimeout
  rw [hon, Bool.not_true, if_neg Bool.false_ne_true, hb, hdue, List.foldl_cons, List.foldl_nil]
  dsimp only
  rw [hmod]

/-! ### Completions kept, data, pages and SYNC -/

theorem length_syncHeader (len nqueue : Nat) : (syncHeader len nqueue b).length = 256 := by
  unfold syncHeader
  dsimp only
  rw [List.length_take, List.length_append]
  simp only [zeros, List.length_replicate]
  omega

section Frames
variable {port n : Nat} {x : Sess} {fl : Flow} {h : QHead} {p : List Byte} {c : Block} (hon : mainOn b = true)
include hon

theorem compQuery_kept {d : Block} {k : Nat × List Byte} (ha : Arrived b port n 0x13 x fl h p c) (hq : queueRefusal x h.queue [2] c = (none, d))
    (hk : (queueRunOf d h.queue).kept.find? (fun k => k.1 = leAt h.param 0 4) = some k) :
    compQuery port n b = sessSend x.id fl 0x21 h.queue [] k.2 false d := by
  rw [compQuery, engineAuth_arrived b hon ha]
  dsimp only
  rw [hq]
  dsimp only
  rw [hk]

theorem compQuery_unknown {d : Block} (ha : Arrived b port n 0x13 x fl h p c) (hq : queueRefusal x h.queue [2] c = (none, d))
    (hk : (queueRunOf d h.queue).kept.find? (fun k => k.1 = leAt h.param 0 4) = none) :
    compQuery port n b = qstatus x.id fl h.queue .notPresent none d := by
  rw [compQuery, engineAuth_arrived b hon ha]
  dsimp only
  rw [hq]
  dsimp only
  rw [hk]

section Data
variable (ha : Arrived b port n 0x30 x fl h p c) (hp : 16 ≤ p.length) (hres : leAt p 4 4 = 0)
include ha hp hres

theorem dataRx_cases : dataRx port n b = match x.windows.find (leAt p 0 4) with
    | none => qstatus x.id fl h.queue .notPresent none c
    | some w =>
      if w.bytes < leAt p 8 8 + (p.length - 16) then qstatus x.id fl h.queue .badArgument none c
      else (granaryWrite ⟨uQcp, some w.job, slotTrains c w.job, false⟩ (w.base + leAt p 8 8) (p.drop 16) none c).2 := by
  rw [dataRx, engineAuth_arrived b hon ha]
  dsimp only
  rw [if_neg (by omega), List.length_drop] <;> rfl

theorem dataRx_noWindow (hw : x.windows.find (leAt p 0 4) = none) : dataRx port n b = qstatus x.id fl h.queue .notPresent none c := by
  rw [dataRx_cases b hon ha hp hres, hw]

variable {w : Window} (hw : x.windows.find (leAt p 0 4) = some w)
include hw

theorem dataRx_outside (hb : w.bytes < leAt p 8 8 + (p.length - 16)) : dataRx port n b = qstatus x.id fl h.queue .badArgument none c := by
  rw [dataRx_cases b hon ha hp hres, hw]
  exact if_pos hb

theorem dataRx_inside (hb : leAt p 8 8 + (p.length - 16) ≤ w.bytes) :
    dataRx port n b = (granaryWrite ⟨uQcp, some w.job, slotTrains c w.job, false⟩ (w.base + leAt p 8 8) (p.drop 16) none c).2 := by
  rw [dataRx_cases b hon ha hp hres, hw]
  exact if_neg (Nat.not_lt.mpr hb)

end Data

section PageIn
variable {d : Block} {y : PageIn} (ha : Arrived b port n 0x32 x fl h p c) (hr : pageRefusal x h.queue c = (none, d)) (hp : p.length = 16 + 8192)
  (hres : leAt p 12 4 = 0) (h8 : leAt p 8 4 < 8)
  (hy : d.ctx.pageIns.find? (fun z => z.queue = h.queue ∧ z.page = leAt p 0 4 ∧ ptLoc (ptGet d h.queue (leAt p 0 4)) = 2) = some y)

/-- The page-in `y` with a chunk of the frame's added. -/
def withChunk (p : List Byte) (y : PageIn) : PageIn := { y with chunks := y.chunks.put (leAt p 8 4) (p.drop 16) }

/-- The block with that page-in in the list. -/
def chunkNoted (p : List Byte) (y : PageIn) (d : Block) : Block :=
  modCtx (fun c => { c with pageIns := c.pageIns.map fun z => if z = y then withChunk p y else z }) d

include ha hr hp hres h8 hy

theorem pageInChunk_cases : pageInChunk port n b =
    if y.gen ≠ leAt p 4 4 then qstatus x.id fl h.queue .badArgument none d
    else if (withChunk p y).chunks.length < 8 ∨ (withChunk p y).full.isSome then chunkNoted p y d
    else settleCloses (landPage (withChunk p y) (chunkNoted p y d)) := by
  rw [pageInChunk, engineAuth_arrived b hon ha]
  dsimp only
  rw [if_neg (by omega), hr]
  dsimp only
  rw [hy]
  rfl

theorem pageInChunk_otherGeneration (hg : y.gen ≠ leAt p 4 4) : pageInChunk port n b = qstatus x.id fl h.queue .badArgument none d :=
  (pageInChunk_cases b hon ha hr hp hres h8 hy).trans (if_pos hg)

theorem pageInChunk_more (hg : y.gen = leAt p 4 4) (hn : (withChunk p y).chunks.length < 8) : pageInChunk port n b = chunkNoted p y d :=
  (pageInChunk_cases b hon ha hr hp hres h8 hy).trans ((if_neg fun h => h hg).trans (if_pos (.inl hn)))

theorem pageInChunk_lands {e : Block} (hg : y.gen = leAt p 4 4) (hn : 8 ≤ (withChunk p y).chunks.length) (hf : y.full = none)
    (hi : installPage h.queue (leAt p 0 4) ((withChunk p y).chunks.flatMap (·.2)) (chunkNoted p y d) = (true, e)) :
    pageInChunk port n b = settleCloses (dropPageIn h.queue (leAt p 0 4) e) := by
  have hpred := List.find?_some hy
  rw [decide_eq_true_iff] at hpred
  obtain ⟨hqueue, hpage, hloc⟩ := hpred
  have hloc' : ptLoc (ptGet (chunkNoted p y d) h.queue (leAt p 0 4)) = 2 := hloc
  have hland : landPage (withChunk p y) (chunkNoted p y d) = dropPageIn h.queue (leAt p 0 4) e := by
    have hq : (withChunk p y).queue = h.queue := hqueue
    have hn : (withChunk p y).page = leAt p 0 4 := hpage
    have hfull : (withChunk p y).full = none := hf
    unfold landPage
    rw [hq, hn, hfull]
    simp only [hi, hloc']
    rfl
  refine (pageInChunk_cases b hon ha hr hp hres h8 hy).trans ((if_neg fun h => h hg).trans ((if_neg ?_).trans (by rw [hland])))
  rintro (h1 | h1)
  · omega
  · have hfull : (withChunk p y).full = none := hf
    rw [hfull] at h1
    cases h1

end PageIn

theorem pageAck_moves {d : Block} (ha : Arrived b port n 0x33 x fl h p c) (hr : pageRefusal x h.queue c = (none, d)) (hp : p.length = 8)
    (hm : ∃ m ∈ d.ctx.moves, m.queue = h.queue ∧ m.page = leAt p 0 4 ∧ m.gen = leAt p 4 4 ∧ m.peer = none) :
    pageAck port n b = sendPages (settleCloses (evictDone h.queue (leAt p 0 4) d)) := by
  have hany : (d.ctx.moves.any fun m => m.queue = h.queue ∧ m.page = leAt p 0 4 ∧ m.gen = leAt p 4 4 ∧ m.peer = none) = true := by
    obtain ⟨m, hm, hp⟩ := hm
    exact List.any_eq_true.mpr ⟨m, hm, decide_eq_true hp⟩
  rw [pageAck, engineAuth_arrived b hon ha]
  dsimp only
  rw [if_neg (fun h => h hp), hr]
  dsimp only
  rw [hany, if_pos rfl]

variable (ha : Arrived b port n 0x41 x fl h p c)
include ha

theorem syncRx_fault (hf : devState c = dsFault) : syncRx port n b = sessSend x.id fl 0x42 0 (leBytes 4 0) (syncHeader 256 0 c) false c := by
  have hlen := length_syncHeader c 256 0
  have hone : List.range ((256 + 8191) / 8192) = [0] := by decide
  rw [syncRx, engineAuth_arrived b hon ha]
  dsimp only
  rw [hf, if_neg (by decide), if_pos rfl, hlen, hone, List.foldl_cons, List.foldl_nil, Nat.mul_zero, List.drop_zero, List.take_of_length_le (by omega)]
  rfl

theorem syncRx_reads (h1 : devState c ≠ dsOff) : (syncRx port n b).grn = c.grn ∧ (syncRx port n b).ctx = c.ctx ∧ (syncRx port n b).qcp.jobs = c.qcp.jobs := by
  rw [syncRx, engineAuth_arrived b hon ha]
  dsimp only
  rw [if_neg h1]
  refine foldl_inv (fun d : Block => d.grn = c.grn ∧ d.ctx = c.ctx ∧ d.qcp.jobs = c.qcp.jobs) _ _ _ ⟨rfl, rfl, rfl⟩ fun d k hd => ?_
  obtain ⟨hjobs, hgrn, hctx⟩ := rest_sessSend d fl _ x.id 0x42 0 (leBytes 4 (8192 * k)) _
  exact ⟨hgrn.trans hd.1, hctx.trans hd.2.1, hjobs.trans hd.2.2⟩

end Frames
end Sys2Proof.Machine

open Sys2Proof Sys2Proof.Machine

/-- Settles O45, frame by frame. -/
theorem protocolFrames : Obligations.ProtocolFrames := by
  unfold Obligations.ProtocolFrames
  refine fun s port n hon => ⟨?opens, ?close, ?idle, ?write, ?bell, ?late, ?kept, ?data, ?page, ?ack, ?sync⟩
  case opens =>
    intro fl h c tag hf hop hl hr hid hrng b0 past b
    have he : openRx port n s.blk = openSess false false fl c b0 := engineTake_frame s.blk hon hf hop
    have hid0 : idOk b0 = true := (idOk_rxRelease s.blk port n port.isLt).trans hid
    have hrng0 : rngOk b0 = true := (rngOk_rxRelease s.blk port n port.isLt).trans hrng
    refine ⟨fun hp => acts_main (g := openRx port n) rfl hon (he.trans (openSess_flood b0 hp)),
      fun hp hk => acts_main (g := openRx port n) rfl hon (he.trans (openSess_unknownKey b0 hl hr hp hid0 hrng0 hk)),
      fun pub hp hk => ⟨fun hv => acts_main (g := openRx port n) rfl hon (he.trans (openSess_badSignature b0 hl hr hp hid0 hrng0 hk hv)),
        fun hv hn => acts_main (g := openRx port n) rfl hon (he.trans (openSess_full b0 hl hr hp hid0 hrng0 hk hv hn)), ?_⟩⟩
    intro hv hn e k hkeys
    have hacc := he.trans (openSess_accepts b0 hl hr hp hid0 hrng0 hk hv hn)
    have hsess := sessions_acceptSess (openNoted b0) (fl := fl) (slot := leAt c 32 1) (pub := pub) hkeys
    have hqcp : b0.qcp = s.blk.qcp := qcp_rxRelease ..
    have hall := (congrArg (fun x : Block => x.qcp.sessions) hacc).trans hsess
    have hsessions : (openNoted b0).qcp.sessions = s.blk.qcp.sessions := (congrArg Qcp.sessions hqcp :)
    have hnext : (openNoted b0).qcp.nextSess = s.blk.qcp.nextSess := (congrArg Qcp.nextSess hqcp :)
    rw [hsessions] at hall
    exact answersWith_main (g := openRx port n) rfl hon ⟨_, hall, hnext, rfl, rfl, rfl, rfl, rfl, rfl⟩
  case close => exact fun x fl h p c ha => acts_main (g := closeRx port n) rfl hon (engineAuth_arrived s.blk hon ha)
  case idle =>
    intro x id hs hra ht
    refine answersWith_run (g := idleClose id) rfl ?_
    have hc := closeSess_closes s.blk hs hra true
    rw [← idleClose_due s.blk hon hs hra ht] at hc
    exact hc
  case write =>
    exact fun x fl h p c d ha hq h72 hmod hmax hres hroom => acts_main (g := cmdWrite port n) rfl hon (cmdWrite_writes s.blk hon ha hq h72 hmod hmax hres hroom)
  case bell =>
    intro x fl h p c d ha hfault hq b prod dseq gap
    refine ⟨fun hg => acts_main (g := doorbell port n) rfl hon (doorbell_old s.blk hon ha hfault hq hg),
      fun h1 h2 hd => acts_main (g := doorbell port n) rfl hon (doorbell_tooFar s.blk hon ha hfault hq h1 h2 hd),
      fun h1 hd hall => acts_main (g := doorbell port n) rfl hon (doorbell_acts s.blk hon ha hfault hq hd h1 hall), ?_⟩
    intro h1 h2 hd hno hb
    have hheld := doorbell_held s.blk hon ha hfault hq hd h1 h2 hno hb
    have htime : b.face.time = s.blk.face.time := by
      have hd := time_useQueue c h.queue (queueRefusal_uses hq)
      have hc : c.face.time = s.blk.face.time := by
        rw [ha.takes]
        exact time_rxRelease ..
      exact hd.trans hc
    refine answersWith_main (g := doorbell port n) rfl hon ?_
    have hbells := bells_held b (y := ⟨prod, dseq, whoOf x fl, b.face.time, false⟩) hb
    have hmem : (doorbell port n s.blk).grn.mem = b.grn.mem := by rw [hheld, grn_qcount]; rfl
    rw [← hheld, htime] at hbells
    exact ⟨hbells, hmem⟩
  case late =>
    exact fun q x hb ht hs => acts_main (g := bellTimeout q) rfl hon (bellTimeout_tells s.blk hon hb ht hs)
  case kept =>
    exact fun x fl h p c d ha hq => ⟨fun k hk => acts_main (g := compQuery port n) rfl hon (compQuery_kept s.blk hon ha hq hk),
      fun hk => acts_main (g := compQuery port n) rfl hon (compQuery_unknown s.blk hon ha hq hk)⟩
  case data =>
    exact fun x fl h p c ha hp hres => ⟨fun hw => acts_main (g := dataRx port n) rfl hon (dataRx_noWindow s.blk hon ha hp hres hw),
      fun w hw => ⟨fun hb => acts_main (g := dataRx port n) rfl hon (dataRx_outside s.blk hon ha hp hres hw hb),
        fun hb => acts_main (g := dataRx port n) rfl hon (dataRx_inside s.blk hon ha hp hres hw hb)⟩⟩
  case page =>
    exact fun x fl h p c d y ha hr hp hres h8 hy =>
      ⟨fun hg => acts_main (g := pageInChunk port n) rfl hon (pageInChunk_otherGeneration s.blk hon ha hr hp hres h8 hy hg),
        fun hg => ⟨fun hn => acts_main (g := pageInChunk port n) rfl hon (pageInChunk_more s.blk hon ha hr hp hres h8 hy hg hn),
          fun e hn hf hi => acts_main (g := pageInChunk port n) rfl hon (pageInChunk_lands s.blk hon ha hr hp hres h8 hy hg hn hf hi)⟩⟩
  case ack => exact fun x fl h p c d ha hr hp hm => acts_main (g := pageAck port n) rfl hon (pageAck_moves s.blk hon ha hr hp hm)
  case sync =>
    refine fun x fl h p c ha => ⟨fun hf => acts_main (g := syncRx port n) rfl hon (syncRx_fault s.blk hon ha hf), fun hf ho => ?_⟩
    obtain ⟨hgrn, hctx, hjobs⟩ := syncRx_reads s.blk hon ha ho
    have hc := ha.takes
    refine answersWith_main (g := syncRx port n) rfl hon ⟨(congrArg Granary.mem hgrn).trans ?_, hctx.trans ?_, hjobs.trans ?_⟩ <;> rw [hc]
    · exact congrArg Granary.mem (grn_rxRelease ..)
    · exact ctx_rxRelease ..
    · exact (congrArg Qcp.jobs (qcp_rxRelease s.blk (uFe port) n) :)

end

section
/-! PROOFS. Commands taken and completed, and events forwarded (R443 to R446, R450). -/

namespace Sys2Proof.Machine

variable (b : Block)

/-! ### Words of the queue descriptors the context store holds -/

section Cached
variable {b} {q : Nat} {d : List Byte} (hc : cachedDesc b q = some d)
include hc

theorem qGet_cached (hb : queueBase b ≠ 0) (off n : Nat) : qGet b q off n = leAt d off n := by
  rw [qGet, if_neg hb, hc]

theorem cachedDesc_qPut (hb : queueBase b ≠ 0) (off : Nat) (v : List Byte) :
    cachedDesc (qPut q off v b) q = some (d.take off ++ v ++ d.drop (off + v.length)) := by
  have hfind (l : List (Nat × List Byte)) (h : (l.find? fun c => c.1 == q).map (·.2) = some d) (e : List Byte) :
      ((l.map fun x => if x.1 = q then (q, e) else x).find? fun c => c.1 == q).map (·.2) = some e := by
    induction l with
    | nil => cases h
    | cons x l ih =>
      by_cases hx : x.1 = q
      · simp [hx]
      · have hx' : (x.1 == q) = false := by simpa using hx
        rw [List.find?_cons, hx'] at h
        rw [List.map_cons, if_neg hx, List.find?_cons, hx']
        exact ih h
  rw [qPut, if_neg hb, hc]
  exact hfind _ hc _

/-- A word written to a held descriptor reads back. -/
theorem qGet_qSet (hb : queueBase b ≠ 0) (hl : d.length = 64) {off n v : Nat} (ho : off + n ≤ 64) (hv : v < 2 ^ (8 * n)) : qGet (qSet q off n v b) q off n = v := by
  have hbase : queueBase (qSet q off n v b) ≠ 0 := by
    have : queueBase (qSet q off n v b) = queueBase b := by
      rw [qSet, qPut, if_neg hb, hc]
      rfl
    rwa [this]
  rw [qGet_cached (b := qSet q off n v b) (cachedDesc_qPut hc hb off (leBytes n v)) hbase]
  refine leAt_mid _ (d.take off) (d.drop (off + (leBytes n v).length)) off n v (List.append_assoc ..) ?_ hv
  rw [List.length_take, hl]
  omega

end Cached

/-! ### Taking a command -/

theorem queueBase_granaryRead (iss : Issuer) (a n : Nat) : queueBase (granaryRead iss a n b).2.2 = queueBase b := by
  have h := farRegs_granaryRead b iss a n
  rw [queueBase, queueBase, reg_of_farRegs h (by decide) (by decide) (by decide), reg_of_farRegs h (by decide) (by decide) (by decide)]

theorem devState_granaryRead (iss : Issuer) (a n : Nat) : devState (granaryRead iss a n b).2.2 = devState b :=
  fld_of_reg (reg_of_farRegs (farRegs_granaryRead b iss a n) (by decide) (by decide) (by decide))

theorem queueBase_used {q : Nat} {c : Block} (h : qCons c q ≠ qProd c q) : queueBase c ≠ 0 := by
  intro h0
  apply h
  rw [qCons, qProd, qGet, qGet, if_pos h0, if_pos h0]

theorem reeveRuns_of_farRegs {b c : Block} (h : farRegs c = farRegs b) : reeveRuns c = reeveRuns b := by
  have hstate : devState c = devState b := fld_of_reg (reg_of_farRegs h (by decide) (by decide) (by decide))
  rw [reeveRuns, reeveRuns, mainOn_of_farRegs h, hstate]

theorem farRegs_touchQueue (q : Nat) : farRegs (touchQueue q b) = farRegs b := by
  have hfold (l : List (Nat × List Byte)) (c : Block) :
      farRegs (l.foldl (fun b c => (granaryWrite ctxIssuer (qAddr b c.1) c.2 none b).2) c) = farRegs c :=
    foldl_keeps farRegs _ l c fun d x => farRegs_granaryWrite ..
  have hctx (f : Ctx → Ctx) (c : Block) : farRegs (modCtx f c) = farRegs c := farRegs_of_face rfl
  unfold touchQueue
  dsimp only
  split
  · rw [if_neg (by simp), hfold, hctx]
  · split
    · exact farRegs_granaryRead ..
    · rw [hfold, hctx]
      exact farRegs_granaryRead ..

theorem useQueue_touches {q : Nat} {c : Block} (h : useQueue q b = (true, c)) : c = if queueBase b = 0 then b else touchQueue q b := by
  unfold useQueue at h
  dsimp only at h
  generalize (if queueBase b = 0 then b else touchQueue q b) = d at h ⊢
  split at h
  · simp at h
  · exact (Prod.mk.inj h).2.symm

theorem farRegs_useQueue {q : Nat} {c : Block} (h : useQueue q b = (true, c)) : farRegs c = farRegs b := by
  rw [useQueue_touches b h]
  split
  · rfl
  · exact farRegs_touchQueue ..

/-- The command an entry makes. -/
def takenCmd (q : Nat) (b : Block) : Cmd :=
  let r := granaryRead ⟨uReeve, none, false, false⟩ (ringAt b q (qCons b q)) 64 b
  ⟨q, qCons b q, ownerOf b q (qCons b q), if r.1 = .ok then r.2.1 else zeros 64, if r.1 = .ok then .taken else .finished r.1, 0, sha512 [], [], 0⟩

/-- The block that the read of the next entry leaves. -/
def entryRead (q : Nat) (b : Block) : Block := (granaryRead ⟨uReeve, none, false, false⟩ (ringAt b q (qCons b q)) 64 b).2.2

/-- A queue's run with entry `i` taken: its arrival and the stretch that ends with it are forgotten. -/
def entryGone (i : Nat) (r : QueueRun) : QueueRun :=
  { r with
    arrived := r.arrived.filter (· != i)
    spans := r.spans.filter fun s => s.2.1 != (i + 1) % 2 ^ 32 && !isBelow ((i + 1) % 2 ^ 32) s.2.1 }

theorem takeEntry_eq (q : Nat) : takeEntry q b =
    modQcp (fun x => { x with cmds := x.cmds ++ [takenCmd q b] }) (qSet q 8 4 ((qCons b q + 1) % 2 ^ 32) (modQueueRun q (entryGone (qCons b q)) (entryRead q b))) := by
  unfold takeEntry takenCmd entryRead entryGone
  rfl

/-- A queue whose consumer index is written, with what else changes of the engine's part. -/
theorem consumer_written {e : Block} {q v : Nat} {d : List Byte} (hc : cachedDesc e q = some d) (hl : d.length = 64) (hb : queueBase e ≠ 0) (hv : v < 2 ^ 32)
    (g : Qcp → Qcp) : qCons (modQcp g (qSet q 8 4 v e)) q = v ∧ (modQcp g (qSet q 8 4 v e)).qcp = g e.qcp ∧
      devState (modQcp g (qSet q 8 4 v e)) = devState e ∧ mainOn (modQcp g (qSet q 8 4 v e)) = mainOn e := by
  have hset : (qSet q 8 4 v e).qcp = e.qcp ∧ devState (qSet q 8 4 v e) = devState e ∧ mainOn (qSet q 8 4 v e) = mainOn e := by
    rw [qSet, qPut, if_neg hb, hc]
    exact ⟨rfl, rfl, rfl⟩
  exact ⟨qGet_qSet hc hb hl (by decide) hv, congrArg g hset.1, hset.2⟩

theorem mainOn_modQueueRun (q : Nat) (f : QueueRun → QueueRun) : mainOn (modQueueRun q f b) = mainOn b := rfl

theorem devState_modQueueRun (q : Nat) (f : QueueRun → QueueRun) : devState (modQueueRun q f b) = devState b := rfl

theorem takeEntry_takes {q : Nat} {d : List Byte} (hc : cachedDesc b q = some d) (hl : d.length = 64) (hb : queueBase b ≠ 0) :
    (takeEntry q b).qcp.cmds = (entryRead q b).qcp.cmds ++ [takenCmd q b] ∧ qCons (takeEntry q b) q = (qCons b q + 1) % 2 ^ 32 ∧
      devState (takeEntry q b) = devState b ∧ mainOn (takeEntry q b) = mainOn b := by
  have hctx : (entryRead q b).ctx = b.ctx := (restPart_eq_iff.mp (restPart_granaryRead ..)).1.2.1
  have hbase : queueBase (entryRead q b) ≠ 0 := by
    rw [entryRead, queueBase_granaryRead]
    exact hb
  have hon : mainOn (entryRead q b) = mainOn b := mainOn_of_farRegs (farRegs_granaryRead ..)
  have hdev : devState (entryRead q b) = devState b := devState_granaryRead ..
  have hcached : cachedDesc (entryRead q b) q = some d := by rw [cachedDesc, hctx]; exact hc
  have hmod : (modQueueRun q (entryGone (qCons b q)) (entryRead q b)).qcp.cmds = (entryRead q b).qcp.cmds := rfl
  obtain ⟨hq, hqcp, hstate, hmain⟩ := consumer_written (e := modQueueRun q (entryGone (qCons b q)) (entryRead q b)) hcached hl hbase (Nat.mod_lt (qCons b q + 1) (by decide))
    fun x => { x with cmds := x.cmds ++ [takenCmd q b] }
  rw [takeEntry_eq]
  rw [mainOn_modQueueRun] at hmain
  rw [devState_modQueueRun] at hstate
  refine ⟨?_, hq, hstate.trans hdev, hmain.trans hon⟩
  rw [hqcp, ← hmod]

theorem startCheck_of_devState {k : Cmd} {c : Block} (hj : namesJob (entryOp k) = false) (hs : devState c = devState b) : startCheck k c = startCheck k b := by
  unfold startCheck
  dsimp only
  rw [hs, hj, Bool.false_and]
  rfl

/-- The command just taken from a queue starts, unless it waits for the ones before it. -/
def startTaken (q : Nat) (b : Block) : Block := match b.qcp.cmds.find? fun c => c.queue = q ∧ c.phase = .taken with
  | none => b
  | some c => if entryAfter c && (b.qcp.cmds.any fun d => d.queue = q ∧ d.idx ≠ c.idx) then b else startCmd c b

theorem qCons_modCmd (q k i : Nat) (f : Cmd → Cmd) : qCons (modCmd k i f b) q = qCons b q := rfl

theorem cmds_takeEntry {q : Nat} {d : List Byte} (hp : qCons b q ≠ qProd b q) (hc : cachedDesc b q = some d) (hl : d.length = 64) :
    (takeEntry q b).qcp.cmds = b.qcp.cmds ++ [takenCmd q b] := by
  have hqcp : (entryRead q b).qcp = b.qcp := (restPart_eq_iff.mp (restPart_granaryRead ..)).2.1.1
  rw [(takeEntry_takes b hc hl (queueBase_used hp)).1, hqcp]

section Start
variable {b} {q : Nat} {c : Block} {d : List Byte} (hnone : ∀ d ∈ c.qcp.cmds, d.queue ≠ q)
include hnone

/-- The commands once the phase of the one just taken changes. -/
theorem cmds_modCmd {t : Block} {k : Cmd} (hk : k.queue = q) (hcmds : t.qcp.cmds = c.qcp.cmds ++ [k]) (f : Cmd → Cmd) :
    (modCmd k.queue k.idx f t).qcp.cmds = c.qcp.cmds ++ [f k] := by
  have hold : (c.qcp.cmds.map fun x => if x.queue = k.queue ∧ x.idx = k.idx then f x else x) = c.qcp.cmds := by
    refine (List.map_congr_left fun x hx => if_neg fun h => hnone x hx (h.1.trans hk)).trans (List.map_id' _)
  have hall : (modCmd k.queue k.idx f t).qcp.cmds = t.qcp.cmds.map fun x => if x.queue = k.queue ∧ x.idx = k.idx then f x else x := rfl
  rw [hall, hcmds, List.map_append, hold, List.map_singleton, if_pos ⟨rfl, rfl⟩]

theorem find_taken {k : Cmd} (hk : k.queue = q) : ((c.qcp.cmds ++ [k]).find? fun k => k.queue = q ∧ k.phase = .taken) = if k.phase = .taken then some k else none := by
  have hold : (c.qcp.cmds.find? fun k => k.queue = q ∧ k.phase = .taken) = none := by
    rw [List.find?_eq_none]
    intro x hx
    simp [hnone x hx]
  rw [List.find?_append, hold, Option.none_or, List.find?_singleton]
  simp [hk]

variable (hr : reeveRuns b = true) (hu : useQueue q b = (true, c)) (ht : qType c q = 2) (hen : qEnabled c q = true) (hp : qCons c q ≠ qProd c q)
include hr hu ht hen hp

theorem commandStart_takes : commandStart q b = startTaken q (takeEntry q c) := by
  have hrun : reeveRuns c = true := (reeveRuns_of_farRegs (farRegs_useQueue b hu)).trans hr
  have hheld : (c.qcp.cmds.any fun k => k.queue = q ∧ k.phase = .taken) = false := by
    rw [List.any_eq_false]
    intro k hk
    simp [hnone k hk]
  have hno : ¬ (false = true ∨ qCons c q = qProd c q) := fun h => h.elim Bool.false_ne_true hp
  have hopen : ¬ ((!true || !true || (2 : Nat) != 2 || !true) = true) := by decide
  unfold commandStart
  dsimp only
  rw [hu]
  dsimp only
  rw [hrun, ht, hen, hheld, if_neg hopen, if_neg hno]
  generalize takeEntry q c = e
  rfl

variable (hc : cachedDesc c q = some d) (hl : d.length = 64)
include hc hl

/-- An entry that cannot be read ends with the status of its read. -/
theorem commandStart_unread {st : Status} {v : List Byte} {k : Cmd}
    (hst : (granaryRead ⟨uReeve, none, false, false⟩ (ringAt c q (qCons c q)) 64 c).1 = st) (hne : st ≠ .ok)
    (hk : k = ⟨q, qCons c q, ownerOf c q (qCons c q), v, .taken, 0, sha512 [], [], 0⟩) :
    qCons (commandStart q b) q = (qCons c q + 1) % 2 ^ 32 ∧ (commandStart q b).qcp.cmds = c.qcp.cmds ++
      [{ k with entry := zeros 64, phase := .finished st }] := by
  have htaken : takenCmd q c = { k with entry := zeros 64, phase := .finished st } := by
    rw [takenCmd, hst, if_neg hne, if_neg hne, hk]
  have hqueue : k.queue = q := by rw [hk]
  have hcmds := cmds_takeEntry c hp hc hl
  rw [htaken] at hcmds
  have hstart : commandStart q b = takeEntry q c := by
    rw [commandStart_takes hnone hr hu ht hen hp, startTaken, hcmds, find_taken hnone (k := { k with entry := zeros 64, phase := .finished st }) hqueue]
    rfl
  rw [hstart]
  exact ⟨(takeEntry_takes c hc hl (queueBase_used hp)).2.1, hcmds⟩

/-- An entry that is read starts, or ends with what the checks find. -/
theorem commandStart_read {v : List Byte} {k : Cmd} (hst : (granaryRead ⟨uReeve, none, false, false⟩ (ringAt c q (qCons c q)) 64 c).1 = .ok)
    (hv : (granaryRead ⟨uReeve, none, false, false⟩ (ringAt c q (qCons c q)) 64 c).2.1 = v)
    (hk : k = ⟨q, qCons c q, ownerOf c q (qCons c q), v, .taken, 0, sha512 [], [], 0⟩) (hw : wakes (entryOp k) = false) (hj : namesJob (entryOp k) = false) :
    qCons (commandStart q b) q = (qCons c q + 1) % 2 ^ 32 ∧ (commandStart q b).qcp.cmds = c.qcp.cmds ++
      [{ k with phase := if startCheck k c = .ok then .started else .finished (startCheck k c) }] := by
  have htaken : takenCmd q c = k := by
    rw [takenCmd, hst, hv, hk]
    rfl
  have hcmds := cmds_takeEntry c hp hc hl
  rw [htaken] at hcmds
  obtain ⟨-, hcons, hstate, hon⟩ := takeEntry_takes c hc hl (queueBase_used hp)
  have hmain : mainOn c = true := by
    have hrun : reeveRuns c = true := (reeveRuns_of_farRegs (farRegs_useQueue b hu)).trans hr
    rw [reeveRuns, Bool.and_eq_true, Bool.and_eq_true] at hrun
    exact hrun.1.1
  have hqueue : k.queue = q := by rw [hk]
  have hphase : k.phase = .taken := by rw [hk]
  have hany : ((c.qcp.cmds ++ [k]).any fun d => d.queue = q ∧ d.idx ≠ k.idx) = false := by
    rw [List.any_eq_false]
    intro x hx
    rcases List.mem_append.mp hx with hx | hx
    · simp [hnone x hx]
    · simp [List.mem_singleton.mp hx]
  have hstart : commandStart q b = modCmd k.queue k.idx (fun x => { x with phase := if startCheck k c = .ok then .started else .finished (startCheck k c) }) (takeEntry q c) := by
    rw [commandStart_takes hnone hr hu ht hen hp, startTaken, hcmds, find_taken hnone hqueue, if_pos hphase]
    dsimp only
    rw [hany, Bool.and_false, if_neg Bool.false_ne_true, startCmd, hon, hmain, startCheck_of_devState c hj hstate, hw, hj]
    simp only [Bool.not_true, Bool.false_eq_true, if_false, Bool.and_false, Bool.false_and]
  rw [hstart]
  refine ⟨?_, cmds_modCmd hnone hqueue hcmds _⟩
  rw [← hcons]
  exact qCons_modCmd ..

end Start

theorem qCons_keepTally (f : Block → Block) (q : Nat) : qCons (keepTally f b) q = qCons (f b) q := rfl

theorem qcp_keepTally (f : Block → Block) : (keepTally f b).qcp = (f b).qcp := rfl

/-! ### Completions -/

section Completion
variable {q i : Nat} {c : Cmd} (hr : reeveRuns b = true) (hc : (b.qcp.cmds.find? fun c => c.queue = q ∧ c.idx = i) = some c)
include hr hc

theorem commandCompletion_waits (hp : c.phase = .started) : commandCompletion q i b = b := by
  unfold commandCompletion
  rw [hr, Bool.not_true, if_neg Bool.false_ne_true, hc]
  dsimp only
  rw [hp, if_neg (by decide), hc]
  dsimp only
  rw [hp]

/-- The block once a finished command's completion is sent and kept. -/
def completed (q i : Nat) (c : Cmd) (st : Status) (b : Block) : Block :=
  modQcp (fun x => { x with cmds := x.cmds.filter fun d => !(d.queue == q && d.idx == i) })
    (keepCompletion q i (completionBytes c st b) (entryTag c) (sessSend c.who.sess c.who.flow 0x21 q [] (completionBytes c st b) false b))

theorem commandCompletion_finished {st : Status} (hp : c.phase = .finished st) : commandCompletion q i b =
    if entryOp c = 0x04 ∧ st = .ok then closeKey (leAt c.entry 48 1) (completed q i c st b)
    else if entryOp c = 0x09 ∧ st = .ok ∧ c.mark = 3 then powerTo 3 (completed q i c st b) else completed q i c st b := by
  have hne : CmdPhase.finished st ≠ .waiting := by simp
  unfold commandCompletion
  rw [hr, Bool.not_true, if_neg Bool.false_ne_true, hc]
  dsimp only
  rw [hp, if_neg hne, hc]
  dsimp only
  rw [hp]
  rfl

end Completion

/-! ### Forwarding events -/

/-- What sending does not touch: the registers below the units' own, the rings and the granary. -/
structure SentOnly (b c : Block) : Prop where
  low : ∀ v o, o < 0x10000 → reg c v o = reg b v o
  ring : c.face.ring = b.face.ring
  grn : c.grn = b.grn

theorem sentOnly_refl : SentOnly b b := ⟨fun _ _ _ => rfl, rfl, rfl⟩

theorem SentOnly.trans {b c d : Block} (h : SentOnly b c) (h' : SentOnly c d) : SentOnly b d :=
  ⟨fun v o ho => (h'.low v o ho).trans (h.low v o ho), h'.ring.trans h.ring, h'.grn.trans h.grn⟩

theorem sentOnly_modQcp (f : Qcp → Qcp) : SentOnly b (modQcp f b) := ⟨fun _ _ _ => rfl, rfl, rfl⟩

theorem countedOnly_macSend (u c : Nat) (f : List Byte) : CountedOnly u b (macSend u c f b).2 := by
  unfold macSend
  dsimp only
  split
  · exact countedOnly_refl _ _
  · split
    · exact countedOnly_macCount b 1 (by decide)
    · have hqueue : CountedOnly u b (modPort u (fun p => { p with tx := p.tx.put (c % 8) (txOf p (c % 8) ++ [padFcs f]) }) b) := countedOnly_of_face u rfl
      have hsent := hqueue.trans (countedOnly_pump _)
      dsimp only
      exact hsent

theorem sentOnly_macSend (u c : Nat) (f : List Byte) : SentOnly b (macSend u c f b).2 where
  low v o ho := countedOnly_macSend b u c f v o (by omega)
  ring := (congrArg (fun x : Block => x.face.ring) (rxKept_macSend b u c f).rest :)
  grn := (rxKept_macSend b u c f).grn

theorem sentOnly_flowSend (ra : Bool) (fl : Flow) (p : List Byte) : SentOnly b (flowSend ra fl p b) := by
  unfold flowSend
  dsimp only
  split
  · unfold ringSend
    split <;> exact ⟨fun _ _ _ => rfl, rfl, rfl⟩
  · exact sentOnly_macSend _ _ _ _

theorem sentOnly_qcount (o : Nat) (ho : 0x10000 ≤ o) (ho' : o + 4 < 2 ^ 20) : SentOnly b (qcount o b) := by
  unfold qcount
  split
  · refine ⟨fun v o' hlow => ?_, rfl, rfl⟩
    exact reg_bump_other b (fun h => by have := ((regKey_inj v o' uQcp o (by omega) (by omega)).mp h).2; omega)
      fun h => by have := ((regKey_inj v o' uQcp (o + 4) (by omega) ho').mp h).2; omega
  · exact sentOnly_refl b

theorem sentOnly_sessSend (id : Nat) (fl : Flow) (op queue : Nat) (param p : List Byte) (more : Bool) : SentOnly b (sessSend id fl op queue param p more b) := by
  unfold sessSend
  split
  · exact sentOnly_refl b
  · next s _ =>
    have hput : SentOnly b (putSess { s with txSeq := s.txSeq + 1 } b) := sentOnly_modQcp b _
    dsimp only
    refine SentOnly.trans ?_ (sentOnly_flowSend _ _ _ _)
    split
    · exact hput
    · exact hput.trans (sentOnly_qcount _ _ (by decide) (by decide))

theorem sentOnly_flushEvents (id n : Nat) : SentOnly b (flushEvents id n b) := by
  induction n generalizing b with
  | zero => exact sentOnly_refl b
  | succ n ih =>
    unfold flushEvents
    split
    · exact sentOnly_refl b
    · split
      · exact sentOnly_refl b
      · next s _ _ e r rest _ =>
        split
        · have hput : SentOnly b (putSess { s with evWait := rest, eseq := e } b) := sentOnly_modQcp b _
          exact (hput.trans (sentOnly_sessSend _ _ _ _ _ _ _ _)).trans (ih _)
        · exact sentOnly_refl b

theorem sentOnly_queueEvent (s : Sess) (e : Nat) (r : List Byte) : SentOnly b (queueEvent s e r b) := by
  unfold queueEvent
  dsimp only
  refine (sentOnly_flushEvents b s.id (s.evWait.length + 1)).trans ?_
  generalize flushEvents s.id (s.evWait.length + 1) b = c
  split
  · exact sentOnly_refl c
  · next x _ =>
    split
    · have hput : SentOnly c (putSess { x with eseq := e } c) := sentOnly_modQcp c _
      exact hput.trans (sentOnly_sessSend _ _ _ _ _ _ _ _)
    · exact sentOnly_modQcp c _

theorem SentOnly.foldl {α : Type} {f : Block → α → Block} (hf : ∀ c x, SentOnly c (f c x)) (l : List α) : SentOnly b (l.foldl f b) :=
  foldl_inv (SentOnly b) f l b (sentOnly_refl b) fun c x h => h.trans (hf c x)

theorem sentOnly_forwardRecord (r : EvtRec) : SentOnly b (forwardRecord r b) := by
  unfold forwardRecord
  dsimp only
  split
  · exact sentOnly_refl b
  · exact (sentOnly_modQcp b _).trans (SentOnly.foldl _ (fun c s => sentOnly_queueEvent c s _ _) _)

theorem eventForward_reads {u : Nat} (hr : reeveRuns b = true) (hk : (kindOf u).isSome = true) :
    reg (eventForward u b) u Off.evtTail = reg b u Off.evtHead % 64 ∧ (eventForward u b).face.ring = b.face.ring ∧ (eventForward u b).grn = b.grn := by
  have hno : ¬ ((!reeveRuns b || (kindOf u).isNone) = true) := by
    rw [hr, Option.isNone_eq_false_iff.mpr hk]
    decide
  have hsent : SentOnly (setReg u Off.evtTail (reg b u Off.evtHead % 64) b) (eventForward u b) := by
    unfold eventForward
    rw [if_neg hno]
    dsimp only
    exact (SentOnly.foldl _ (fun c r => sentOnly_forwardRecord c r) _).trans (SentOnly.foldl _ (fun c (s : Sess) => sentOnly_flushEvents c s.id _) _)
  refine ⟨(hsent.low u Off.evtTail (by decide)).trans ?_, hsent.ring, hsent.grn⟩
  rw [reg_setReg, if_pos rfl]
  omega

end Sys2Proof.Machine

open Sys2Proof Sys2Proof.Machine

/-- Settles O46: commands taken, completed and left, and events forwarded. -/
theorem commandsAndEvents : Obligations.CommandsAndEvents := by
  unfold Obligations.CommandsAndEvents
  refine fun s q hon hr => ⟨?start, ?finish, ?started, ?forward⟩
  case start =>
    intro c hu ht hen hnone hp hcached r k
    obtain ⟨d, hc, hl⟩ := hcached
    have hqcp : r.2.2.qcp = c.qcp := (restPart_eq_iff.mp (restPart_granaryRead ..)).2.1.1
    have hstate : devState r.2.2 = devState c := devState_granaryRead ..
    refine ⟨fun hst hw hj => ?_, fun hst => ?_⟩
    · have hres := commandStart_read hnone hr hu ht hen hp hc hl (k := k) hst rfl rfl hw hj
      refine answersWith_main (g := commandStart q) rfl hon ?_
      rw [hqcp, startCheck_of_devState c hj hstate, qCons_keepTally, qcp_keepTally]
      exact hres
    · have hres := commandStart_unread hnone hr hu ht hen hp hc hl (st := r.1) (k := k) rfl hst rfl
      refine answersWith_main (g := commandStart q) rfl hon ?_
      rw [hqcp, qCons_keepTally, qcp_keepTally]
      exact hres
  case finish =>
    intro i c st hc hp p d
    have he := commandCompletion_finished s.blk hr hc hp
    exact ⟨fun h => acts_main (g := commandCompletion q i) rfl hon (he.trans (if_pos h)),
      fun h => acts_main (g := commandCompletion q i) rfl hon (he.trans ((if_neg fun h' => by rw [h.1] at h'; exact absurd h'.1 (by decide)).trans (if_pos h))),
      fun h h' => acts_main (g := commandCompletion q i) rfl hon (he.trans ((if_neg h).trans (if_neg h')))⟩
  case started => exact fun i c hc hp => acts_main (g := commandCompletion q i) rfl hon (commandCompletion_waits s.blk hr hc hp)
  case forward =>
    intro u hk
    obtain ⟨htail, hring, hgrn⟩ := eventForward_reads s.blk hr hk
    exact answersWith_main (g := eventForward u) rfl hon ⟨htail, hring, (congrArg Granary.mem hgrn :)⟩

end

section
/-! PROOFS. The reeve's commands on the module (Table 12.8). -/

namespace Sys2Proof.Machine

variable {b : Block} {q : Nat} {c : Cmd}

/-! ### Commands on the module -/

theorem runCmd_runs {op : Nat} {f : Cmd → List Byte → Block → Block} (h : Runs b q op c) : runCmd op q f b = f c (c.entry.drop 16) b := by
  obtain ⟨hr, hf⟩ := h
  rw [runCmd, hr, Bool.not_true, if_neg Bool.false_ne_true, hf]

section EnrolKey
variable (h : Runs b q 0x04 c)
include h

theorem cmdEnrolKey_otherKey (hs : c.who.slot ≠ 0) : cmdEnrolKey q b = finishCmd c .authFailed b := by
  rw [cmdEnrolKey, runCmd_runs h]
  dsimp only
  rw [enrolKey, if_pos hs]

variable (hs : c.who.slot = 0)
include hs

theorem cmdEnrolKey_bad (hn : 15 < leAt (c.entry.drop 16) 32 1 ∨ (leAt (c.entry.drop 16) 32 1 = 0 ∧ (c.entry.drop 16).take 32 = zeros 32)) :
    cmdEnrolKey q b = finishCmd c .badArgument b := by
  rw [cmdEnrolKey, runCmd_runs h]
  dsimp only
  rw [enrolKey, if_neg (fun h => h hs), if_pos hn]

theorem cmdEnrolKey_enrols (hn : leAt (c.entry.drop 16) 32 1 ≤ 15) (hz : leAt (c.entry.drop 16) 32 1 ≠ 0 ∨ (c.entry.drop 16).take 32 ≠ zeros 32) :
    cmdEnrolKey q b = finishCmd c (enrol (leAt (c.entry.drop 16) 32 1) ((c.entry.drop 16).take 32) b).1
      (enrol (leAt (c.entry.drop 16) 32 1) ((c.entry.drop 16).take 32) b).2 := by
  have hno : ¬ (15 < leAt (c.entry.drop 16) 32 1 ∨ (leAt (c.entry.drop 16) 32 1 = 0 ∧ (c.entry.drop 16).take 32 = zeros 32)) := by
    rintro (h1 | ⟨h1, h2⟩)
    · exact Nat.not_lt.mpr hn h1
    · exact hz.elim (fun h => h h1) fun h => h h2
  rw [cmdEnrolKey, runCmd_runs h]
  dsimp only
  rw [enrolKey, if_neg (fun h => h hs), if_neg hno]

end EnrolKey

section Config
variable (h : Runs b q 0x05 c)
include h

theorem cmdConfig_absent (hu : configUnit (leAt (c.entry.drop 16) 0 4) = false) : cmdConfig q b = finishCmd c .notPresent b := by
  rw [cmdConfig, runCmd_runs h]
  dsimp only
  rw [hu, Bool.not_false, if_pos rfl]

theorem cmdConfig_writes {v : Nat} {d : Block} (hu : configUnit (leAt (c.entry.drop 16) 0 4) = true)
    (hr : regRmw uReeve true (leAt (c.entry.drop 16) 0 4) (leAt (c.entry.drop 16) 4 4) (leAt (c.entry.drop 16) 8 4) (leAt (c.entry.drop 16) 12 4) b = (.ok, v, d)) :
    cmdConfig q b = finishCmd c .ok (setRet c (leBytes 4 v) d) := by
  rw [cmdConfig, runCmd_runs h]
  dsimp only
  rw [hu, Bool.not_true, if_neg Bool.false_ne_true, hr, if_pos rfl]

end Config

section Power
variable (h : Runs b q 0x09 c)
include h

theorem cmdPower_cases : cmdPower q b =
    if leAt (c.entry.drop 16) 0 1 = 0 ∨ 3 < leAt (c.entry.drop 16) 0 1 then finishCmd c .badArgument b
    else if leAt (c.entry.drop 16) 0 1 = 2 ∧ loadElsewhere b q then b
    else if leAt (c.entry.drop 16) 0 1 = 3 then finishCmd c .ok (modCmd c.queue c.idx (fun x => { x with mark := 3 }) b)
    else finishCmd c .ok (powerTo (leAt (c.entry.drop 16) 0 1) b) := by
  rw [cmdPower, runCmd_runs h]

theorem cmdPower_changes (hn : leAt (c.entry.drop 16) 0 1 = 1 ∨ (leAt (c.entry.drop 16) 0 1 = 2 ∧ loadElsewhere b q = false)) :
    cmdPower q b = finishCmd c .ok (powerTo (leAt (c.entry.drop 16) 0 1) b) := by
  rw [cmdPower_cases h]
  rcases hn with hn | ⟨hn, hl⟩ <;> rw [hn, if_neg (by decide)]
  · rw [if_neg (fun h => absurd h.1 (by decide)), if_neg (by decide)]
  · rw [if_neg (fun h => by rw [hl] at h; exact Bool.false_ne_true h.2), if_neg (by decide)]

theorem cmdPower_waits (hn : leAt (c.entry.drop 16) 0 1 = 2) (hl : loadElsewhere b q = true) : cmdPower q b = b := by
  rw [cmdPower_cases h, hn, if_neg (by decide), if_pos ⟨rfl, hl⟩]

theorem cmdPower_off (hn : leAt (c.entry.drop 16) 0 1 = 3) :
    cmdPower q b = finishCmd c .ok (modCmd c.queue c.idx (fun x => { x with mark := 3 }) b) := by
  rw [cmdPower_cases h, hn, if_neg (by decide), if_neg (fun h => absurd h.1 (by decide)), if_pos rfl]

end Power

theorem kindOf_of_resetUnit {u : Nat} (hu : resetUnit u = true) : (kindOf u).isNone = false := by
  unfold resetUnit at hu
  cases hk : kindOf u with
  | none => rw [hk] at hu; cases hu
  | some k => rfl

section ResetUnit
variable (h : Runs b q 0x0A c)
include h

theorem cmdResetUnit_cases : cmdResetUnit q b =
    if (kindOf (leAt (c.entry.drop 16) 0 4)).isNone then finishCmd c .notPresent b
    else if !resetUnit (leAt (c.entry.drop 16) 0 4) then finishCmd c .badArgument b
    else if resetBusy b (leAt (c.entry.drop 16) 0 4) then finishCmd c .busy b
    else waitCmd c (leAt (c.entry.drop 16) 0 4) (pulse (leAt (c.entry.drop 16) 0 4) 0 b) := by
  rw [cmdResetUnit, runCmd_runs h]

theorem cmdResetUnit_absent (hk : kindOf (leAt (c.entry.drop 16) 0 4) = none) : cmdResetUnit q b = finishCmd c .notPresent b := by
  rw [cmdResetUnit_cases h, hk]
  rfl

theorem cmdResetUnit_noReset (hk : (kindOf (leAt (c.entry.drop 16) 0 4)).isSome = true) (hr : resetUnit (leAt (c.entry.drop 16) 0 4) = false) :
    cmdResetUnit q b = finishCmd c .badArgument b := by
  rw [cmdResetUnit_cases h, Option.isNone_eq_false_iff.mpr hk, hr]
  rfl

variable (hr : resetUnit (leAt (c.entry.drop 16) 0 4) = true)
include hr

theorem cmdResetUnit_busy (hb : resetBusy b (leAt (c.entry.drop 16) 0 4) = true) : cmdResetUnit q b = finishCmd c .busy b := by
  rw [cmdResetUnit_cases h, kindOf_of_resetUnit hr, hr, hb]
  rfl

theorem cmdResetUnit_pulses (hb : resetBusy b (leAt (c.entry.drop 16) 0 4) = false) :
    cmdResetUnit q b = waitCmd c (leAt (c.entry.drop 16) 0 4) (pulse (leAt (c.entry.drop 16) 0 4) 0 b) := by
  rw [cmdResetUnit_cases h, kindOf_of_resetUnit hr, hr, hb]
  rfl

end ResetUnit

theorem cmdAttest_runs (h : Runs b q 0x03 c) : cmdAttest q b =
    if idOk b then finishCmd c .ok (sendResults c (attestReport ((c.entry.drop 16).take 32) b) b) else finishCmd c .opFailed b := by
  rw [cmdAttest, runCmd_runs h]
  rfl

section Counters
variable (h : Runs b q 0x06 c)
include h

theorem cmdCounters_absent (hk : kindOf (leAt (c.entry.drop 16) 0 4) = none) : cmdCounters q b = finishCmd c .notPresent b := by
  rw [cmdCounters, runCmd_runs h]
  dsimp only
  rw [hk]
  rfl

theorem cmdCounters_reads (hk : (kindOf (leAt (c.entry.drop 16) 0 4)).isSome = true) : cmdCounters q b =
    let d := (countersOf (leAt (c.entry.drop 16) 0 4)).foldl (fun b o => drainCounter (leAt (c.entry.drop 16) 0 4) o b) b
    finishCmd c .ok (sendResults c ((countersOf (leAt (c.entry.drop 16) 0 4)).flatMap fun o => leBytes 8 (totalOf d (leAt (c.entry.drop 16) 0 4) o)) d) := by
  rw [cmdCounters, runCmd_runs h]
  dsimp only
  rw [Option.isNone_eq_false_iff.mpr hk, if_neg Bool.false_ne_true]
  rfl

end Counters

section Events
variable (h : Runs b q 0x07 c)
include h

theorem cmdEvents_bad (hn : 3 < leAt (c.entry.drop 16) 0 1) : cmdEvents q b = finishCmd c .badArgument b := by
  rw [cmdEvents, runCmd_runs h]
  exact if_pos hn

theorem cmdEvents_subscribes {x : Sess} (hn : leAt (c.entry.drop 16) 0 1 ≤ 3) (hs : sessOf b c.who.sess = some x) :
    cmdEvents q b = finishCmd c .ok (putSess { x with evSev := leAt (c.entry.drop 16) 0 1, evBlocks := leAt (c.entry.drop 16) 4 4 } b) := by
  rw [cmdEvents, runCmd_runs h]
  rw [if_neg (Nat.not_lt.mpr hn), hs]

end Events

section Windows
variable (h : Runs b q 0x13 c) {x : Sess} (hs : sessOf b c.who.sess = some x)
include h hs

theorem cmdWindowClose_cases : cmdWindowClose q b =
    if (x.windows.find (leAt (c.entry.drop 16) 0 4)).isNone then finishCmd c .notPresent b
    else finishCmd c .ok (putSess { x with windows := x.windows.drop (leAt (c.entry.drop 16) 0 4) } b) := by
  rw [cmdWindowClose, runCmd_runs h]
  rw [hs]

theorem cmdWindowClose_absent (hw : x.windows.find (leAt (c.entry.drop 16) 0 4) = none) : cmdWindowClose q b = finishCmd c .notPresent b := by
  rw [cmdWindowClose_cases h hs, hw]
  rfl

theorem cmdWindowClose_closes (hw : (x.windows.find (leAt (c.entry.drop 16) 0 4)).isSome = true) :
    cmdWindowClose q b = finishCmd c .ok (putSess { x with windows := x.windows.drop (leAt (c.entry.drop 16) 0 4) } b) := by
  rw [cmdWindowClose_cases h hs, Option.isNone_eq_false_iff.mpr hw]
  rfl

end Windows

section Fetch
variable (h : Runs b q 0x15 c)
include h

theorem cmdFetch_bad (hn : 2 ^ 40 < leAt (c.entry.drop 16) 8 8) : cmdFetch q b = finishCmd c .badArgument b := by
  rw [cmdFetch, runCmd_runs h]
  exact if_pos hn

theorem cmdFetch_reads {st : Status} {v : List Byte} {d : Block} (hn : leAt (c.entry.drop 16) 8 8 ≤ 2 ^ 40)
    (hr : readRange (leAt (c.entry.drop 16) 0 8) (leAt (c.entry.drop 16) 8 8) b = (st, v, d)) :
    cmdFetch q b = if st = .ok then finishCmd c .ok (sendResults c v d) else finishCmd c st d := by
  rw [cmdFetch, runCmd_runs h]
  dsimp only
  rw [if_neg (Nat.not_lt.mpr hn), hr]
  rfl

end Fetch

section Queue
variable (h : Runs b q 0x18 c)
include h

theorem cmdQueueDestroy_absent (hk : jobQueue b (entryJob c) (leAt (c.entry.drop 16) 0 4) = false) : cmdQueueDestroy q b = finishCmd c .notPresent b := by
  rw [cmdQueueDestroy, runCmd_runs h]
  dsimp only
  rw [hk]
  rfl

theorem cmdQueueDestroy_drops (hk : jobQueue b (entryJob c) (leAt (c.entry.drop 16) 0 4) = true) :
    cmdQueueDestroy q b = waitCmd c (leAt (c.entry.drop 16) 0 4) (dropQueue (leAt (c.entry.drop 16) 0 4) b) := by
  rw [cmdQueueDestroy, runCmd_runs h]
  dsimp only
  rw [hk]
  rfl

end Queue

theorem cmdDrain_runs (h : Runs b q 0x0B c) : cmdDrain q b =
    if devState b = dsReady then finishCmd c .ok b else waitCmd c 0 (settleStops (setDevState dsDraining b)) := by
  rw [cmdDrain, runCmd_runs h]

end Sys2Proof.Machine

open Sys2Proof Sys2Proof.Machine

/-- Settles O47, command by command. -/
theorem moduleCommands : Obligations.ModuleCommands := by
  unfold Obligations.ModuleCommands
  intro s q c hon a
  have hall {i : Instr} {g : Block → Block} {f : Block → Block} (he : exec i s = s.runAll (whenMain g)) (h : g s.blk = f s.blk) : Answers i s f :=
    answers_all (g := whenMain g) he ((whenMain_on g s.blk hon).trans h)
  refine ⟨?nop, ?identify, ?attest, ?enrol, ?config, ?counters, ?events, ?debug, ?power, ?reset, ?drain, ?release, ?quarantine, ?window, ?fetch, ?queue⟩
  case nop => exact fun h => acts_main (g := cmdNop q) rfl hon (runCmd_runs h)
  case identify => exact fun h => acts_main (g := cmdIdentify q) rfl hon (runCmd_runs h)
  case attest =>
    exact fun h => ⟨fun hid => acts_main (g := cmdAttest q) rfl hon ((cmdAttest_runs h).trans (if_pos hid)),
      fun hid => acts_main (g := cmdAttest q) rfl hon ((cmdAttest_runs h).trans (if_neg (by rw [hid]; decide)))⟩
  case enrol =>
    exact fun h => ⟨fun hs => hall (g := cmdEnrolKey q) rfl (cmdEnrolKey_otherKey h hs), fun hs hn => hall (g := cmdEnrolKey q) rfl (cmdEnrolKey_bad h hs hn),
      fun hs hn hz => hall (g := cmdEnrolKey q) rfl (cmdEnrolKey_enrols h hs hn hz)⟩
  case config =>
    exact fun h => ⟨fun hu => hall (g := cmdConfig q) rfl (cmdConfig_absent h hu), fun hu v d hr => hall (g := cmdConfig q) rfl (cmdConfig_writes h hu hr)⟩
  case counters =>
    exact fun h => ⟨fun hk => acts_main (g := cmdCounters q) rfl hon (cmdCounters_absent h hk), fun hk => acts_main (g := cmdCounters q) rfl hon (cmdCounters_reads h hk)⟩
  case events =>
    exact fun h => ⟨fun hn => acts_main (g := cmdEvents q) rfl hon (cmdEvents_bad h hn),
      fun x hn hs => acts_main (g := cmdEvents q) rfl hon (cmdEvents_subscribes h hn hs)⟩
  case debug => exact fun h => acts_main (g := cmdDebug q) rfl hon (runCmd_runs h)
  case power =>
    exact fun h => ⟨fun hn => acts_main (g := cmdPower q) rfl hon ((cmdPower_cases h).trans (if_pos hn)),
      fun hn => acts_main (g := cmdPower q) rfl hon (cmdPower_changes h hn), fun hn hl => acts_main (g := cmdPower q) rfl hon (cmdPower_waits h hn hl),
      fun hn => acts_main (g := cmdPower q) rfl hon (cmdPower_off h hn)⟩
  case reset =>
    exact fun h => ⟨fun hk => acts_main (g := cmdResetUnit q) rfl hon (cmdResetUnit_absent h hk),
      fun hk hr => acts_main (g := cmdResetUnit q) rfl hon (cmdResetUnit_noReset h hk hr),
      fun hr hb => acts_main (g := cmdResetUnit q) rfl hon (cmdResetUnit_busy h hr hb),
      fun hr hb => acts_main (g := cmdResetUnit q) rfl hon (cmdResetUnit_pulses h hr hb)⟩
  case drain =>
    exact fun h => ⟨fun hd => acts_main (g := cmdDrain q) rfl hon ((cmdDrain_runs h).trans (if_pos hd)),
      fun hd => acts_main (g := cmdDrain q) rfl hon ((cmdDrain_runs h).trans (if_neg hd))⟩
  case release => exact fun h => acts_main (g := cmdRelease q) rfl hon (runCmd_runs h)
  case quarantine => exact fun h => acts_main (g := cmdQuarantine q) rfl hon (runCmd_runs h)
  case window =>
    exact fun h x hs => ⟨fun hw => acts_main (g := cmdWindowClose q) rfl hon (cmdWindowClose_absent h hs hw),
      fun hw => acts_main (g := cmdWindowClose q) rfl hon (cmdWindowClose_closes h hs hw)⟩
  case fetch =>
    exact fun h => ⟨fun hn => acts_main (g := cmdFetch q) rfl hon (cmdFetch_bad h hn),
      fun st v d hn hr => acts_main (g := cmdFetch q) rfl hon (cmdFetch_reads h hn hr)⟩
  case queue =>
    exact fun h => ⟨fun hk => acts_main (g := cmdQueueDestroy q) rfl hon (cmdQueueDestroy_absent h hk),
      fun hk => acts_main (g := cmdQueueDestroy q) rfl hon (cmdQueueDestroy_drops h hk)⟩

end

section
/-! PROOFS. The reeve's commands on jobs (Table 12.8). -/

namespace Sys2Proof.Machine

variable {b : Block} {q : Nat} {c : Cmd}

/-! ### Commands that name a job -/

theorem runJob_absent {op : Nat} {f : Cmd → JobSlot → Nat → List Byte → Block → Block} (h : Runs b q op c) (hj : b.qcp.jobs.find (entryJob c) = none) :
    runJob op q f b = finishCmd c .notPresent b := by
  rw [runJob, runCmd_runs h, hj]

theorem runJob_runs {op : Nat} {f : Cmd → JobSlot → Nat → List Byte → Block → Block} (h : Runs b q op c) {x : JobSlot}
    (hj : b.qcp.jobs.find (entryJob c) = some x) : runJob op q f b = f c x (entryJob c) (c.entry.drop 16) b := by
  rw [runJob, runCmd_runs h, hj]

section Argument
variable {op : Nat} {f : Cmd → List Byte → List Byte → Block → Block} {l : List Byte} {d : Block} (h : Runs b q op c) (he : entryArgblk c = true)
  (ha : argBlock c b = (.ok, l, d))
include h he ha

theorem runBlk_block (hl : 48 ≤ l.length) : runBlk op q true f b = f c (l.take 48) (l.drop 48) d := by
  have hno : ¬ (Status.ok ≠ .ok ∨ (!true) = true ∨ true = true ∧ l.length < 48) := by
    rintro (h | h | ⟨-, h⟩)
    · exact h rfl
    · cases h
    · omega
  rw [runBlk, runCmd_runs h]
  dsimp only
  rw [ha, he, if_neg hno, if_pos rfl]

theorem runBlk_entry : runBlk op q false f b = f c (c.entry.drop 16) l d := by
  have hno : ¬ (Status.ok ≠ .ok ∨ (!true) = true ∨ false = true ∧ l.length < 48) := by
    rintro (h | h | ⟨h, -⟩)
    · exact h rfl
    · cases h
    · cases h
  rw [runBlk, runCmd_runs h]
  dsimp only
  rw [ha, he, if_neg hno, if_neg Bool.false_ne_true]

end Argument

theorem restPart_argBlock {l : List Byte} {d : Block} (ha : argBlock c b = (.ok, l, d)) : restPart d = restPart b := by
  unfold argBlock at ha
  dsimp only at ha
  split at ha
  · split at ha
    · cases ha
    · rw [← show (granaryRead ⟨uReeve, none, false, false⟩ (leAt c.entry 16 8) (leAt c.entry 24 4) b).2.2 = d from congrArg (fun r => r.2.2) ha]
      exact restPart_granaryRead ..
  · cases ha
    rfl

theorem qcp_argBlock {l : List Byte} {d : Block} (ha : argBlock c b = (.ok, l, d)) : d.qcp = b.qcp := (restPart_eq_iff.mp (restPart_argBlock ha)).2.1.1

theorem time_argBlock {l : List Byte} {d : Block} (ha : argBlock c b = (.ok, l, d)) : d.face.time = b.face.time := (restPart_eq_iff.mp (restPart_argBlock ha)).2.2.2

/-! ### The registers of a job slot's image -/

theorem qcp_plainWrite (u o v : Nat) (b : Block) : (plainWrite u o v b).qcp = b.qcp := by
  unfold plainWrite
  split
  · rfl
  · split
    · rfl
    · rfl
    · rfl


theorem qcp_notify (u : Nat) (f : Field) (e : Ev) (a : Nat) (b : Block) : (notify u f e a b).qcp = b.qcp := (restPart_eq_iff.mp (restPart_notify ..)).2.1.1
theorem qcp_raise (u : Nat) (e : Ev) (a : Nat) (b : Block) : (raise u e a b).qcp = b.qcp := (restPart_eq_iff.mp (restPart_raise ..)).2.1.1

theorem qcp_endReq (r : FabReq) (s : Status) (v : Nat) (b : Block) : (endReq r s v b).qcp = b.qcp := by
  have hrefused (d : Block) : (if s = .notPresent then addrFault ⟨r.unit, some r.job, r.train, false⟩ (r.rank * 2 ^ 54 + r.addr % 2 ^ 54) d else d).qcp = d.qcp := by
    split
    · exact qcp_raise ..
    · rfl
  unfold endReq
  dsimp only
  split
  · split
    · rfl
    · exact hrefused _
  · exact hrefused _

theorem qcp_flushJob (j : Nat) (b : Block) : (flushJob j b).qcp = b.qcp := by
  unfold flushJob
  dsimp only
  refine (foldl_keeps Block.qcp _ _ _ fun d r => qcp_endReq ..).trans ?_
  exact foldl_keeps Block.qcp _ _ _ fun d h => qcp_endReq ..

theorem qcp_hrvFault (f j idx : Nat) (s : Status) (b : Block) : (hrvFault f j idx s b).qcp = b.qcp := by
  unfold hrvFault
  dsimp only
  rw [qcp_notify]
  show (if _ then modJob j _ b else b).qcp = b.qcp
  split <;> rfl

theorem qcp_hrvRun (f j : Nat) (b : Block) : (hrvRun f j [] b).qcp = b.qcp := by
  have hread : (granaryRead (hrvIssuer b f j) (hrvBase b f j) 128 b).2.2.qcp = b.qcp := (restPart_eq_iff.mp (restPart_granaryRead ..)).2.1.1
  unfold hrvRun
  dsimp only [strike, List.foldl_nil]
  split
  · rfl
  · split
    · exact (qcp_hrvFault ..).trans hread
    · split
      · exact (qcp_hrvFault ..).trans hread
      · exact hread

theorem qcp_hrvStop (f j : Nat) (b : Block) : (hrvStop f j b).qcp = b.qcp := by
  unfold hrvStop hrvSettle
  dsimp only
  split
  · rfl
  · split <;> rfl

theorem qcp_shareWrite (t j v : Nat) (b : Block) : (shareWrite t j v b).qcp = b.qcp := by
  unfold shareWrite
  split
  · exact qcp_notify ..
  · rfl

theorem qcp_sclCtrlWrite (j v : Nat) (b : Block) : (sclCtrlWrite j v b).qcp = b.qcp := by
  unfold sclCtrlWrite
  dsimp only
  split <;> rfl

theorem qcp_trnRegWrite (u o v : Nat) (b : Block) : (trnRegWrite u o v b).qcp = b.qcp := by
  unfold trnRegWrite
  split
  · exact qcp_sclCtrlWrite ..
  · exact qcp_plainWrite ..

section Slot
variable {j u o : Nat} (hj : j < 8)
include hj

theorem qcp_chipRegWrite (ho : 0x30100 + 0x20 * j ≤ o ∧ o < 0x30100 + 0x20 * j + 0x20 ∨ 0x40000 + 0x40 * j ≤ o ∧ o < 0x40000 + 0x40 * j + 0x40) (v : Nat)
    (b : Block) : (chipRegWrite u o v b).qcp = b.qcp := by
  have hlo : o ≠ Off.grnLocalLo := by simp only [Off.grnLocalLo]; omega
  have hhi : o ≠ Off.grnLocalHi := by simp only [Off.grnLocalHi]; omega
  have hboot : o ≠ Off.sysBootCmd := by simp only [Off.sysBootCmd]; omega
  have hscrub : o ≠ Off.grnScrubCtrl := by simp only [Off.grnScrubCtrl]; omega
  have hheld (k : Nat) : (if slotHolds b k then b else plainWrite u o v b).qcp = b.qcp := by
    split
    · rfl
    · exact qcp_plainWrite ..
  unfold chipRegWrite
  rw [if_neg hlo, if_neg hhi, if_neg hboot, if_neg hscrub]
  split
  · dsimp only
    split
    · exact (qcp_flushJob ..).trans (hheld _)
    · exact hheld _
  · split
    · split
      · rfl
      · exact qcp_plainWrite ..
    · exact qcp_plainWrite ..

theorem qcp_tileRegWrite (v : Nat) (b : Block) : (tileRegWrite u (Off.lftShare j) v b).qcp = b.qcp := by
  have ho : Off.lftShare j ≠ Off.tilCtrl ∧ Off.lftShare j ≠ Off.tilIdent ∧ Off.lftShare j ≠ Off.thrCtrl := by
    simp only [Off.lftShare, Off.tilCtrl, Off.tilIdent, Off.thrCtrl]
    omega
  obtain ⟨hctrl, hident, hthr⟩ := ho
  unfold tileRegWrite
  dsimp only
  rw [if_neg hctrl, if_neg hident, if_neg hthr]
  split
  · split
    · exact qcp_plainWrite ..
    · rfl
  · split
    · exact qcp_shareWrite ..
    · exact qcp_plainWrite ..

theorem qcp_stackRegWrite (ho : 0x11000 + 0x20 * j ≤ o ∧ o < 0x11000 + 0x20 * j + 0x20 ∨ 0x12000 + 0x40 * j ≤ o ∧ o < 0x12000 + 0x40 * j + 0x40) (v : Nat)
    (b : Block) : (stackRegWrite u o v b).qcp = b.qcp := by
  have hcmd : o ≠ Off.grnGlCmd := by simp only [Off.grnGlCmd]; omega
  have hentry : ¬ (Off.grnGlEntry ≤ o ∧ o ≤ Off.grnGlMask 3) := by simp only [Off.grnGlEntry, Off.grnGlMask]; omega
  have hctrl : o ≠ Off.grnGrCtrl := by simp only [Off.grnGrCtrl]; omega
  have hrun (f k : Nat) : (if bitOf v 0 then hrvRun f k [] b else b).qcp = b.qcp := by
    split
    · exact qcp_hrvRun ..
    · rfl
  unfold stackRegWrite
  dsimp only
  by_cases ha : absentHere u o = true
  · rw [if_pos ha]
  · rw [if_neg ha, if_neg hcmd, if_neg hentry, if_neg hctrl]
    split
    · split
      · split
        · exact (qcp_hrvStop ..).trans (hrun _ _)
        · exact hrun _ _
      · split
        · exact qcp_plainWrite ..
        · rfl
    · exact qcp_plainWrite ..

theorem qcp_blockRegWrite (h : slotReg j u o = true) (v : Nat) (b : Block) : (blockRegWrite false u o v b).2.qcp = b.qcp := by
  have within {base size : Nat} (h : (decide (base + size * j ≤ o) && decide (o < base + size * j + size)) = true) :
      base + size * j ≤ o ∧ o < base + size * j + size := by simpa using h
  unfold slotReg at h
  dsimp only at h
  unfold blockRegWrite
  split at h
  · next hk =>
    rw [hk]
    dsimp only
    split
    · split
      · rfl
      · exact qcp_plainWrite ..
    · exact qcp_plainWrite ..
  · next hk =>
    rw [hk]
    exact qcp_chipRegWrite hj (((Bool.or_eq_true ..).mp h).imp within within) v b
  · next hk =>
    rw [hk]
    exact qcp_trnRegWrite ..
  · next hk =>
    rw [hk]
    have hcmd : o ≠ Off.colCmd := by
      have := within h
      simp only [Off.colCmd]
      omega
    dsimp only
    rw [if_neg hcmd]
    exact qcp_plainWrite ..
  · next hk =>
    rw [hk, eq_of_beq h]
    exact qcp_tileRegWrite hj v b
  · next hk =>
    rw [hk]
    rw [Bool.and_eq_true, Bool.or_eq_true] at h
    exact qcp_stackRegWrite hj (h.2.imp within within) v b
  · cases h

theorem ge_of_slotReg (h : slotReg j u o = true) : 0x10000 ≤ o := by
  have within {base size : Nat} (h : (decide (base + size * j ≤ o) && decide (o < base + size * j + size)) = true) : base ≤ o := by
    have : base + size * j ≤ o ∧ o < base + size * j + size := by simpa using h
    omega
  unfold slotReg at h
  dsimp only at h
  split at h
  · exact Nat.le_trans (by decide) (within h)
  · exact ((Bool.or_eq_true ..).mp h).elim (fun h => Nat.le_trans (by decide) (within h)) fun h => Nat.le_trans (by decide) (within h)
  · exact ((Bool.or_eq_true ..).mp h).elim (fun h => Nat.le_trans (by decide) (within h)) fun h => Nat.le_trans (by decide) (within h)
  · exact Nat.le_trans (by decide) (within h)
  · rw [eq_of_beq h]
    simp only [Off.lftShare]
    omega
  · rw [Bool.and_eq_true, Bool.or_eq_true] at h
    exact h.2.elim (fun h => Nat.le_trans (by decide) (within h)) fun h => Nat.le_trans (by decide) (within h)
  · cases h

/-- A write of a job slot's register makes and removes no job. -/
theorem qcp_regWrite (h : slotReg j u o = true) (v : Nat) (b : Block) : (regWrite uReeve false u o v b).2.qcp = b.qcp := by
  have ho := ge_of_slotReg hj h
  have hreset : o ≠ Off.unitReset := by simp only [Off.unitReset]; omega
  have hmbx : o ≠ Off.mbxCtrl := by simp only [Off.mbxCtrl]; omega
  have hany : (writeAny uReeve false u o v b).2.qcp = b.qcp := by
    unfold writeAny
    dsimp only
    split
    · rfl
    · split
      · rfl
      · split
        · show (if mainOn b then raise uReeve .sysAddrFault ((u * 2 ^ 20 + o) % 2 ^ 32) b else b).qcp = b.qcp
          split
          · exact qcp_raise ..
          · rfl
        · rw [if_neg (by omega)]
          exact qcp_blockRegWrite hj h _ b
  unfold regWrite
  dsimp only
  split
  · exact hany
  · exact hany

theorem qcp_imageWrites {l : List (Nat × Nat × Nat)} (h : ∀ p ∈ l, slotReg j p.1 p.2.1 = true) (b : Block) :
    (l.foldl (fun b p => (regWrite uReeve false p.1 p.2.1 p.2.2 b).2) b).qcp = b.qcp :=
  List.foldlRecOn l _ (motive := fun d : Block => d.qcp = b.qcp) rfl fun d hd p hp => (qcp_regWrite hj (h p hp) _ d).trans hd

end Slot

/-! ### JOB_CREATE and SPARE_ASSIGN -/

theorem qcp_settleDev (b : Block) : (settleDev b).qcp = b.qcp := by
  have hset (n : Nat) : (setDevState n b).qcp = b.qcp := by
    unfold setDevState
    dsimp only
    split
    · rfl
    · exact qcp_notify ..
  unfold settleDev
  dsimp only
  split
  · split
    · exact hset _
    · rfl
  · split
    · exact hset _
    · rfl

/-- The block with job `x` in slot `j`. -/
def withSlot (j : Nat) (x : JobSlot) (b : Block) : Block := modQcp (fun y => { y with jobs := y.jobs.put j x }) b

/-- A job slot made: its job and no other, and the command that made it finished. -/
theorem slot_made {j id : Nat} {x : JobSlot} {d : Block} (hd : d.qcp.jobs = b.qcp.jobs) :
    let e := finishCmd c .ok (nameJob j id (settleDev (withSlot j x d)))
    e.qcp.jobs.find j = some x ∧ (∀ k, k ≠ j → e.qcp.jobs.find k = b.qcp.jobs.find k) ∧
      ∀ k ∈ e.qcp.cmds, k.queue = c.queue → k.idx = c.idx → k.phase = .finished .ok := by
  intro e
  have hjobs : e.qcp.jobs = b.qcp.jobs.put j x := by
    rw [← hd]
    exact congrArg Qcp.jobs (qcp_settleDev (withSlot j x d))
  have hcmds : e.qcp.cmds = (nameJob j id (settleDev (withSlot j x d))).qcp.cmds.map
      fun k => if k.queue = c.queue ∧ k.idx = c.idx then { k with phase := .finished .ok } else k := rfl
  refine ⟨by rw [hjobs, SMap.find_put, if_pos rfl], fun k hk => by rw [hjobs, SMap.find_put, if_neg hk], fun k hk hq hi => ?_⟩
  rw [hcmds] at hk
  obtain ⟨y, -, rfl⟩ := List.mem_map.mp hk
  by_cases hy : y.queue = c.queue ∧ y.idx = c.idx
  · rw [if_pos hy]
  · rw [if_neg hy] at hq hi
    exact absurd ⟨hq, hi⟩ hy

theorem leAt_take {l : List Byte} (hl : 48 ≤ l.length) {off n : Nat} (ho : off + n ≤ 48) : leAt (l.take 48) off n = leAt l off n := by
  have := leAt_left (l.take 48) (l.drop 48) off n (by rw [List.length_take]; omega)
  rw [List.take_append_drop] at this
  exact this.symm

theorem image_good {j : Nat} {l : List Byte} (hlen : l.length % 8 = 0) (himage : ∀ p ∈ imagePairs l, slotReg j p.1 p.2.1 = true) : ¬ (l.length % 8 ≠ 0 ∨ (imagePairs l).any (fun p => !slotReg j p.1 p.2.1) = true) := by
  rintro (h | h)
  · exact h hlen
  · obtain ⟨p, hp, hbad⟩ := List.any_eq_true.mp h
    rw [himage p hp] at hbad
    cases hbad

section JobCreate
variable {l : List Byte} {d : Block} (h : Runs b q 0x10 c) (he : entryArgblk c = true) (ha : argBlock c b = (.ok, l, d)) (hl : 48 ≤ l.length)
include h he ha hl

theorem cmdJobCreate_cases : cmdJobCreate q b =
    if slotHolds d (entryJob c) then finishCmd c (if 8 ≤ d.qcp.jobs.length then .noResource else .stateConflict) d
    else if (l.drop 48).length % 8 ≠ 0 ∨ (imagePairs (l.drop 48)).any (fun p => !slotReg (entryJob c) p.1 p.2.1) then finishCmd c .badArgument d
    else if bitOf (leAt (l.take 48) 0 1) 0 && decide (2 ≤ trainingJobs d) then finishCmd c .noResource d
    else
      let e := freshJobRegs (entryJob c) d
      let e := (imagePairs (l.drop 48)).foldl (fun b p => (regWrite uReeve false p.1 p.2.1 p.2.2 b).2) e
      let e := setReg uChip (Off.jxlJobId (entryJob c)) (leAt (l.take 48) 4 4) e
      let e := setFld uCtx Fld.ctxJobCtrlTrain (b2n (bitOf (leAt (l.take 48) 0 1) 0)) (setFld uCtx Fld.ctxJobCtrlValid 1 e (entryJob c)) (entryJob c)
      let e := modCtx (fun x => { x with jobSeed := x.jobSeed.put (entryJob c) (leAt (l.take 48) 8 4) }) e
      let e := modQcp (fun x => { x with jobs := x.jobs.put (entryJob c) (newSlot c (bitOf (leAt (l.take 48) 0 1) 0) (bitOf (leAt (l.take 48) 0 1) 1)
        (leAt (l.take 48) 4 4) (sha512 (l.drop 48))) }) e
      finishCmd c .ok (nameJob (entryJob c) c.who.sess (settleDev e)) := by
  rw [cmdJobCreate, runBlk_block h he ha hl]

variable (hfree : slotHolds d (entryJob c) = false) (hlen : (l.drop 48).length % 8 = 0)
  (himage : ∀ p ∈ imagePairs (l.drop 48), slotReg (entryJob c) p.1 p.2.1 = true)
include hfree hlen himage

theorem cmdJobCreate_full (ht : bitOf (leAt l 0 1) 0 = true) (hn : 2 ≤ trainingJobs d) : cmdJobCreate q b = finishCmd c .noResource d := by
  refine (cmdJobCreate_cases h he ha hl).trans ?_
  rw [hfree, if_neg Bool.false_ne_true, if_neg (image_good hlen himage), leAt_take hl (by decide), ht, decide_eq_true hn, Bool.and_self, if_pos rfl]

theorem cmdJobCreate_makes (hn : bitOf (leAt l 0 1) 0 = false ∨ trainingJobs d < 2) :
    ∃ y, (cmdJobCreate q b).qcp.jobs.find (entryJob c) = some y ∧ y.train = bitOf (leAt l 0 1) 0 ∧ y.spare = bitOf (leAt l 0 1) 1 ∧ y.owner = c.who.pub ∧
      y.jobId = leAt l 4 4 ∧ y.image = sha512 (l.drop 48) ∧ (∀ k, k ≠ entryJob c → (cmdJobCreate q b).qcp.jobs.find k = b.qcp.jobs.find k) ∧
      ∀ k ∈ (cmdJobCreate q b).qcp.cmds, k.queue = c.queue → k.idx = c.idx → k.phase = .finished .ok := by
  have hjob : entryJob c < 8 := Nat.mod_lt _ (by decide)
  have hno : ¬ ((bitOf (leAt l 0 1) 0 && decide (2 ≤ trainingJobs d)) = true) := by
    rcases hn with hn | hn
    · rw [hn]; exact Bool.false_ne_true
    · rw [decide_eq_false (Nat.not_le.mpr hn), Bool.and_false]; exact Bool.false_ne_true
  have hfresh : (freshJobRegs (entryJob c) d).qcp = d.qcp := rfl
  have himg := (qcp_imageWrites hjob himage (freshJobRegs (entryJob c) d)).trans (hfresh.trans (qcp_argBlock ha))
  have hcases := cmdJobCreate_cases h he ha hl
  rw [hfree, if_neg Bool.false_ne_true, if_neg (image_good hlen himage), leAt_take hl (by decide), leAt_take hl (by decide), leAt_take hl (by decide), if_neg hno] at hcases
  dsimp only at hcases
  generalize (imagePairs (l.drop 48)).foldl (fun b p => (regWrite uReeve false p.1 p.2.1 p.2.2 b).2) (freshJobRegs (entryJob c) d) = e at himg hcases
  obtain ⟨hjob, hothers, hcmds⟩ := slot_made (b := b) (c := c) (j := entryJob c) (id := c.who.sess)
    (x := newSlot c (bitOf (leAt l 0 1) 0) (bitOf (leAt l 0 1) 1) (leAt l 4 4) (sha512 (l.drop 48)))
    (d := modCtx (fun x => { x with jobSeed := x.jobSeed.put (entryJob c) (leAt l 8 4) })
      (setFld uCtx Fld.ctxJobCtrlTrain (b2n (bitOf (leAt l 0 1) 0)) (setFld uCtx Fld.ctxJobCtrlValid 1 (setReg uChip (Off.jxlJobId (entryJob c)) (leAt l 4 4) e)
        (entryJob c)) (entryJob c))) (congrArg Qcp.jobs himg)
  rw [hcases]
  exact ⟨_, hjob, rfl, rfl, rfl, rfl, rfl, hothers, hcmds⟩


end JobCreate

section SpareAssign
variable (h : Runs b q 0x27 c)
include h

theorem cmdSpareAssign_held {x : JobSlot} (hx : b.qcp.jobs.find (entryJob c) = some x) (ho : x.owner = c.who.pub) (hi : x.jobId = leAt (c.entry.drop 16) 0 4) :
    cmdSpareAssign q b = finishCmd c .ok (settleDev (modSlot (entryJob c) (fun y => { y with spare := true, jstate := jSpare }) b)) := by
  rw [cmdSpareAssign, runCmd_runs h]
  dsimp only
  rw [hx]
  dsimp only
  rw [if_neg (fun h => h ho), if_neg (fun h => h hi)]

variable (hx : b.qcp.jobs.find (entryJob c) = none)
include hx

theorem cmdSpareAssign_full (hn : 2 ≤ trainingJobs b) : cmdSpareAssign q b = finishCmd c .noResource b := by
  rw [cmdSpareAssign, runCmd_runs h]
  dsimp only
  rw [hx]
  exact if_pos hn

theorem cmdSpareAssign_makes (hn : trainingJobs b < 2) :
    ∃ y, (cmdSpareAssign q b).qcp.jobs.find (entryJob c) = some y ∧ y.train = true ∧ y.spare = true ∧ y.jobId = leAt (c.entry.drop 16) 0 4 ∧
      y.owner = c.who.pub ∧ y.jstate = jSpare := by
  have hmakes : cmdSpareAssign q b = finishCmd c .ok (nameJob (entryJob c) c.who.sess (settleDev (withSlot (entryJob c) (newSlot c true true (leAt (c.entry.drop 16) 0 4) (sha512 []))
      (setFld uCtx Fld.ctxJobCtrlTrain 1 (setFld uCtx Fld.ctxJobCtrlValid 1 (setReg uChip (Off.jxlJobId (entryJob c)) (leAt (c.entry.drop 16) 0 4)
        (freshJobRegs (entryJob c) b)) (entryJob c)) (entryJob c))))) := by
    rw [cmdSpareAssign, runCmd_runs h]
    dsimp only
    rw [hx]
    rw [if_neg (Nat.not_le.mpr hn)]
    rfl
  have hmade := slot_made (b := b) (c := c) (j := entryJob c) (id := c.who.sess) (x := newSlot c true true (leAt (c.entry.drop 16) 0 4) (sha512 []))
    (d := setFld uCtx Fld.ctxJobCtrlTrain 1 (setFld uCtx Fld.ctxJobCtrlValid 1 (setReg uChip (Off.jxlJobId (entryJob c)) (leAt (c.entry.drop 16) 0 4)
        (freshJobRegs (entryJob c) b)) (entryJob c)) (entryJob c)) rfl
  rw [hmakes]
  exact ⟨_, hmade.1, rfl, rfl, rfl, rfl, rfl⟩

end SpareAssign

/-! ### JOB_ADMIT -/

/-- What an admission rests on: the exchanges under way, the admissions and the state of the entropy source. -/
def admitPart (b : Block) : SMap Agree × SMap Nat × Nat := (b.fab.agree, b.fab.admitting, reg b uSec Off.secState)

theorem admitPart_eq_iff {b d : Block} : admitPart d = admitPart b ↔
    d.fab.agree = b.fab.agree ∧ d.fab.admitting = b.fab.admitting ∧ reg d uSec Off.secState = reg b uSec Off.secState := by
  simp [admitPart]

theorem rngOk_of_admitPart {b d : Block} (h : admitPart d = admitPart b) : rngOk d = rngOk b := by
  obtain ⟨-, -, hreg⟩ := admitPart_eq_iff.mp h
  unfold rngOk flag
  rw [fld_of_reg (b := b) (c := d) (u := uSec) (f := Fld.secStateRngOk) (i := 0) hreg]

theorem admitPart_of {b d : Block} (hf : d.fab = b.fab) (hr : farRegs d = farRegs b) : admitPart d = admitPart b := by
  rw [admitPart, admitPart, hf, reg_of_farRegs hr (by decide) (by decide) (by decide)]

section AdmitKept
variable (b : Block)

theorem admitPart_bumpLink (l o n : Nat) : admitPart (bump (uLink l) o n b) = admitPart b := by
  have hne (k : Nat) : regKey uSec Off.secState ≠ regKey (uLink l) k := by
    unfold regKey uSec uLink Off.secState
    omega
  have hreg : reg (bump (uLink l) o n b) uSec Off.secState = reg b uSec Off.secState := reg_bump_other b (hne o) (hne (o + 4))
  rw [admitPart, admitPart, hreg]
  rfl

theorem admitPart_sendData (l v : Nat) : admitPart (sendData l v b) = admitPart b := (admitPart_bumpLink _ l _ _).trans rfl

theorem admitPart_pumpGo (l n : Nat) : admitPart (pumpGo l n b) = admitPart b := by
  induction n generalizing b with
  | zero => rfl
  | succ n ih =>
    unfold pumpGo
    dsimp only
    split
    · rfl
    · split
      · exact (ih _).trans (admitPart_sendData ..)
      · rfl

theorem admitPart_pumpLink (l : Nat) : admitPart (pumpLink l b) = admitPart b := by
  unfold pumpLink
  split
  · exact admitPart_pumpGo ..
  · rfl

theorem admitPart_macSend (l c : Nat) (f : List Byte) : admitPart (macSend (uLink l) c f b).2 = admitPart b := by
  have hreg : reg (macSend (uLink l) c f b).2 uSec Off.secState = reg b uSec Off.secState :=
    countedOnly_macSend b (uLink l) c f uSec Off.secState (.inl ⟨by unfold uSec uLink; omega, by decide⟩)
  rw [admitPart, admitPart, fab_macSend, hreg]

theorem admitPart_putFrame (j l r v : Nat) (f : List Byte) : admitPart (putFrame j l r v f b) = admitPart b := by
  unfold putFrame
  split
  · exact (admitPart_pumpLink ..).trans rfl
  · split
    · exact admitPart_macSend ..
    · rfl

theorem admitPart_routeFrame (j r : Nat) (p : Option Nat) (f : List Byte) : admitPart (routeFrame j r p f b).2 = admitPart b := by
  unfold routeFrame
  dsimp only
  split
  · split
    · exact admitPart_putFrame ..
    · rfl
  · exact admitPart_putFrame ..

theorem admitPart_engineWrite (u a : Nat) (v : List Byte) : admitPart (engineWrite u a v b).2 = admitPart b :=
  admitPart_of (fab_granaryWrite ..) (farRegs_granaryWrite ..)

theorem admitPart_routeWrite (j r e : Nat) : admitPart (routeWrite j r e b) = admitPart b := (show admitPart (routeWrite j r e b) = _ from rfl).trans
  (admitPart_engineWrite b uReeve (routeAddr b j r) (leBytes 8 e))

theorem admitPart_tablePut_unless (p : Prop) [Decidable p] (a : Nat) (v : List Byte) : admitPart (if p then b else tablePut a v b) = admitPart b := by
  split
  · rfl
  · exact admitPart_of (fab_tablePut ..) (farRegs_tablePut ..)

theorem admitPart_admitRoutes (j : Nat) (ms : List (Nat × List Byte)) : admitPart (admitRoutes j ms b) = admitPart b := by
  have hvia (d : Block) : admitPart (rewriteVia j d) = admitPart d := by
    unfold rewriteVia
    dsimp only
    exact foldl_keeps admitPart _ _ _ fun d r => admitPart_tablePut_unless ..
  unfold admitRoutes
  dsimp only
  rw [hvia]
  refine (foldl_keeps admitPart _ _ _ fun d m => admitPart_routeWrite ..).trans ?_
  exact foldl_keeps admitPart _ _ _ fun d r => admitPart_engineWrite ..

/-- An exchange that is noted stays so. -/
theorem agree_put {k n : Nat} {a : Agree} {m : SMap Agree} (h : (m.find k).isSome = true) : ((m.put n a).find k).isSome = true := by
  rw [SMap.find_put]
  split
  · rfl
  · exact h

theorem sendKeyx_keeps (j r : Nat) : (∀ k, (b.fab.agree.find k).isSome = true → ((sendKeyx j r b).fab.agree.find k).isSome = true) ∧
    (sendKeyx j r b).fab.admitting = b.fab.admitting ∧ rngOk (sendKeyx j r b) = rngOk b := by
  unfold sendKeyx
  split
  · exact ⟨fun k h => h, rfl, rfl⟩
  · next a _ =>
    have hsent (f : List Byte) := admitPart_routeFrame (modFab (fun f => { f with agree := f.agree.put (rankKey j r) { a with sentAt := b.face.time } }) b) j r none f
    dsimp only
    generalize (_ : List Byte) ++ _ = f
    obtain ⟨hagree, hadm, -⟩ := admitPart_eq_iff.mp (hsent f)
    refine ⟨fun k hk => ?_, hadm, (rngOk_of_admitPart (hsent f)).trans rfl⟩
    rw [hagree]
    exact agree_put hk

/-- An exchange begun stands, and those begun before it. -/
theorem startAgree_begins (j r : Nat) (h : rngOk b = true) :
    ((startAgree j r 0 b).fab.agree.find (rankKey j r)).isSome = true ∧
      (∀ k, (b.fab.agree.find k).isSome = true → ((startAgree j r 0 b).fab.agree.find k).isSome = true) ∧
      (startAgree j r 0 b).fab.admitting = b.fab.admitting ∧ rngOk (startAgree j r 0 b) = true := by
  have hdraw : (drawEntropy (drawEntropy b).2).2.fab = b.fab := rfl
  have hrng : rngOk (drawEntropy (drawEntropy b).2).2 = rngOk b := rfl
  unfold startAgree
  rw [h, Bool.not_true, if_neg Bool.false_ne_true]
  generalize drawEntropy b = e at hdraw hrng ⊢
  dsimp only
  generalize drawEntropy e.2 = n at hdraw hrng ⊢
  obtain ⟨hkeep, hadm, hr⟩ := sendKeyx_keeps (modFab (fun f => { f with
    agree := f.agree.put (rankKey j r) ⟨0, some e.1, x25519Public e.1, n.1, none, false, b.face.time⟩ }) n.2) j r
  refine ⟨hkeep _ ?_, fun k hk => hkeep k ?_, hadm.trans (congrArg Fabric.admitting hdraw :), hr.trans (hrng.trans h)⟩
  · show ((SMap.put _ _ _).find _).isSome = true
    rw [SMap.find_put, if_pos rfl]
    rfl
  · rw [← hdraw] at hk
    exact agree_put hk

/-- Exchanges begun with every member of a list. -/
theorem startAgrees_begin (j : Nat) (l : List (Nat × List Byte)) (h : rngOk b = true) :
    (∀ m ∈ l, ((l.foldl (fun b m => startAgree j m.1 0 b) b).fab.agree.find (rankKey j m.1)).isSome = true) ∧
      (∀ k, (b.fab.agree.find k).isSome = true → ((l.foldl (fun b m => startAgree j m.1 0 b) b).fab.agree.find k).isSome = true) ∧
      (l.foldl (fun b m => startAgree j m.1 0 b) b).fab.admitting = b.fab.admitting := by
  induction l generalizing b with
  | nil => exact ⟨fun m hm => (List.not_mem_nil hm).elim, fun k hk => hk, rfl⟩
  | cons m l ih =>
    obtain ⟨hnew, hold, hadm, hr⟩ := startAgree_begins b j m.1 h
    obtain ⟨hall, hkeep, hadm'⟩ := ih (startAgree j m.1 0 b) hr
    refine ⟨fun x hx => ?_, fun k hk => hkeep k (hold k hk), hadm'.trans hadm⟩
    rcases List.mem_cons.mp hx with rfl | hx
    · exact hkeep _ hnew
    · exact hall x hx

end AdmitKept

/-- The block of an admission before its exchanges begin. -/
def admitted (j own : Nat) (ms : List (Nat × List Byte)) (b : Block) : Block :=
  admitRoutes j ms (modFab (fun f => { f with
    members := ms.foldl (fun m x => SMap.put m (rankKey j x.1) x.2) f.members
    admitting := f.admitting.put j b.face.time
    admitFail := f.admitFail.drop j }) (setFld uChip Fld.jxlJobCtrlRank own b j))

theorem admitted_keeps (b : Block) (j own : Nat) (ms : List (Nat × List Byte)) (hj : j < 8) :
    (admitted j own ms b).fab.admitting = b.fab.admitting.put j b.face.time ∧ rngOk (admitted j own ms b) = rngOk b := by
  have hpart := admitPart_admitRoutes (modFab (fun f => { f with
    members := ms.foldl (fun m x => SMap.put m (rankKey j x.1) x.2) f.members
    admitting := f.admitting.put j b.face.time
    admitFail := f.admitFail.drop j }) (setFld uChip Fld.jxlJobCtrlRank own b j)) j ms
  have hreg : rngOk (setFld uChip Fld.jxlJobCtrlRank own b j) = rngOk b := by
    have hne : regKey uSec (Fld.secStateRngOk.off + Fld.secStateRngOk.stride * 0) ≠ regKey uChip (Fld.jxlJobCtrlRank.off + Fld.jxlJobCtrlRank.stride * j) := by
      simp only [regKey, uSec, uChip, Fld.secStateRngOk, Fld.jxlJobCtrlRank]
      omega
    unfold rngOk flag
    rw [fld_setFld_other b own hne]
  obtain ⟨-, hadm, -⟩ := admitPart_eq_iff.mp hpart
  constructor
  · rw [admitted, hadm]
    rfl
  · rw [admitted, rngOk_of_admitPart hpart]
    exact hreg

section JobAdmit
variable {l : List Byte} {d : Block} (h : Runs b q 0x20 c) (he : entryArgblk c = true) (ha : argBlock c b = (.ok, l, d)) (hl : 48 ≤ l.length)
  (hjob : (d.qcp.jobs.find (entryJob c)).isSome = true) (hrank : leAt l 0 2 < 1024) (hlen : (l.length - 48) % 72 = 0)
  (hown : (memberList (l.drop 48)).find? (fun m => m.1 = leAt l 0 2) = some (leAt l 0 2, identityDigest))
include h he ha hl hjob hrank hlen hown

theorem cmdJobAdmit_cases : cmdJobAdmit q b =
    if (!rngOk d) = true ∨ (!idOk d) = true then finishCmd c .opFailed d
    else waitCmd c 0 (((memberList (l.drop 48)).filter fun m => m.1 != leAt l 0 2).foldl (fun b m => startAgree (entryJob c) m.1 0 b)
      (admitted (entryJob c) (leAt l 0 2) (memberList (l.drop 48)) d)) := by
  have hno : ¬ (1024 ≤ leAt l 0 2 ∨ (l.drop 48).length % 72 ≠ 0 ∨ (memberList (l.drop 48)).find? (fun m => m.1 = leAt l 0 2) ≠ some (leAt l 0 2, identityDigest)) := by
    rintro (h | h | h)
    · omega
    · exact h (by rw [List.length_drop]; exact hlen)
    · exact h hown
  rw [cmdJobAdmit, runBlk_block h he ha hl]
  dsimp only
  rw [Option.isNone_eq_false_iff.mpr hjob, if_neg Bool.false_ne_true, leAt_take hl (by decide), if_neg hno]
  rfl

theorem cmdJobAdmit_fails (hr : rngOk d = false ∨ idOk d = false) : cmdJobAdmit q b = finishCmd c .opFailed d := by
  refine (cmdJobAdmit_cases h he ha hl hjob hrank hlen hown).trans (if_pos ?_)
  exact hr.imp (fun h => by rw [h]; rfl) fun h => by rw [h]; rfl

theorem cmdJobAdmit_begins (hr : rngOk d = true) (hid : idOk d = true) :
    (cmdJobAdmit q b).fab.admitting.find (entryJob c) = some b.face.time ∧
      (∀ m ∈ memberList (l.drop 48), m.1 ≠ leAt l 0 2 → ((cmdJobAdmit q b).fab.agree.find (rankKey (entryJob c) m.1)).isSome = true) ∧
      ∀ k ∈ (cmdJobAdmit q b).qcp.cmds, k.queue = c.queue → k.idx = c.idx → k.phase = .waiting := by
  have hno : ¬ ((!rngOk d) = true ∨ (!idOk d) = true) := by
    rw [hr, hid]
    decide
  have hcases := (cmdJobAdmit_cases h he ha hl hjob hrank hlen hown).trans (if_neg hno)
  obtain ⟨hadm, hrng⟩ := admitted_keeps d (entryJob c) (leAt l 0 2) (memberList (l.drop 48)) (Nat.mod_lt _ (by decide))
  obtain ⟨hall, -, hadm'⟩ := startAgrees_begin (admitted (entryJob c) (leAt l 0 2) (memberList (l.drop 48)) d) (entryJob c)
    ((memberList (l.drop 48)).filter fun m => m.1 != leAt l 0 2) (hrng.trans hr)
  rw [hcases]
  refine ⟨?_, fun m hm hne => hall m (List.mem_filter.mpr ⟨hm, by simpa using hne⟩), fun k hk hq hi => ?_⟩
  · rw [← time_argBlock ha]
    exact (congrArg (SMap.find · (entryJob c)) (hadm'.trans hadm)).trans (by rw [SMap.find_put, if_pos rfl])
  · obtain ⟨y, -, rfl⟩ := List.mem_map.mp hk
    by_cases hy : y.queue = c.queue ∧ y.idx = c.idx
    · rw [if_pos hy]
    · rw [if_neg hy] at hq hi
      exact absurd ⟨hq, hi⟩ hy

end JobAdmit

/-! ### RESHARD and the time limit of an admission -/

section Reshard
variable {l : List Byte} {d : Block} (h : Runs b q 0x29 c) (he : entryArgblk c = true) (ha : argBlock c b = (.ok, l, d))
  (hjob : (d.qcp.jobs.find (entryJob c)).isSome = true)
include h he ha hjob

theorem cmdReshard_bad (hl : l.length < 256 ∨ l.length % 64 ≠ 0) : cmdReshard q b = finishCmd c .badArgument d := by
  rw [cmdReshard, runBlk_entry h he ha]
  dsimp only
  rw [Option.isNone_eq_false_iff.mpr hjob, if_neg Bool.false_ne_true, if_pos hl]

variable (hl : 256 ≤ l.length) (hm : l.length % 64 = 0)
include hl hm

theorem cmdReshard_cases : cmdReshard q b =
    if (trnOf d (entryJob c)).reshardTo.isSome then finishCmd c .busy d
    else match (reshardDue (entryJob c) (modJob (entryJob c) (fun x => { x with reshardTo := some l }) d)).1 with
    | some s => finishCmd c s (reshardDue (entryJob c) (modJob (entryJob c) (fun x => { x with reshardTo := some l }) d)).2
    | none => waitCmd c 0 (reshardDue (entryJob c) (modJob (entryJob c) (fun x => { x with reshardTo := some l }) d)).2 := by
  have hno : ¬ (l.length < 256 ∨ l.length % 64 ≠ 0) := by omega
  rw [cmdReshard, runBlk_entry h he ha]
  dsimp only
  rw [Option.isNone_eq_false_iff.mpr hjob, if_neg Bool.false_ne_true, if_neg hno] <;> rfl

theorem cmdReshard_busy (hr : (trnOf d (entryJob c)).reshardTo ≠ none) : cmdReshard q b = finishCmd c .busy d :=
  (cmdReshard_cases h he ha hjob hl hm).trans (if_pos (Option.isSome_iff_ne_none.mpr hr))

theorem cmdReshard_ends (hr : (trnOf d (entryJob c)).reshardTo = none) {st : Status}
    (hd : (reshardDue (entryJob c) (modJob (entryJob c) (fun x => { x with reshardTo := some l }) d)).1 = some st) :
    cmdReshard q b = finishCmd c st (reshardDue (entryJob c) (modJob (entryJob c) (fun x => { x with reshardTo := some l }) d)).2 := by
  rw [cmdReshard_cases h he ha hjob hl hm, hr, hd]
  rfl

theorem cmdReshard_waits (hr : (trnOf d (entryJob c)).reshardTo = none)
    (hd : (reshardDue (entryJob c) (modJob (entryJob c) (fun x => { x with reshardTo := some l }) d)).1 = none) :
    cmdReshard q b = waitCmd c 0 (reshardDue (entryJob c) (modJob (entryJob c) (fun x => { x with reshardTo := some l }) d)).2 := by
  rw [cmdReshard_cases h he ha hjob hl hm, hr, hd]
  rfl

end Reshard

theorem admitTimeout_due {j t r : Nat} {k : Cmd} {ks : List Cmd} {rs : List Nat} (ha : b.fab.admitting.find j = some t)
    (hw : (waitingCmds b fun c => entryOp c == 0x20 && entryJob c == j) = k :: ks) (ht : t + 2000000 ≤ b.face.time) (hf : b.fab.admitFail.find j = none)
    (hk : keyless b j = r :: rs) : admitTimeout j b = admitEnd k .opFailed r b := by
  unfold admitTimeout
  rw [ha, hw]
  dsimp only
  rw [if_pos ⟨ht, hf⟩, hk]

/-! ### Commands on a job that is there -/

section Held
variable {x : JobSlot} (hx : b.qcp.jobs.find (entryJob c) = some x)
include hx

section WindowOpen
variable (h : Runs b q 0x12 c) {y : Sess} (ho : leAt (c.entry.drop 16) 0 8 % 2 ^ 21 = 0) (hn : leAt (c.entry.drop 16) 8 8 ≠ 0) (hm : leAt (c.entry.drop 16) 8 8 % 2 ^ 21 = 0)
  (hin : leAt (c.entry.drop 16) 0 8 + leAt (c.entry.drop 16) 8 8 ≤ granarySize)
  (hown : ∀ i < leAt (c.entry.drop 16) 8 8 / 2 ^ 21, ownedBy b (entryJob c) (leAt (c.entry.drop 16) 0 8 / 2 ^ 21 + i) = true ∧
    bitOf (frameEntry b (leAt (c.entry.drop 16) 0 8 / 2 ^ 21 + i)) 36 = true) (hs : sessOf b c.who.sess = some y)
include h ho hn hm hin hown hs

theorem cmdWindowOpen_cases : cmdWindowOpen q b =
    if 16 ≤ y.windows.length then finishCmd c .noResource b
    else finishCmd c .ok (setRet c (leBytes 4 (freshWindow y.windows)) (putSess { y with
      windows := y.windows.put (freshWindow y.windows) ⟨entryJob c, leAt (c.entry.drop 16) 0 8, leAt (c.entry.drop 16) 8 8⟩ } b)) := by
  have hno : ¬ (leAt (c.entry.drop 16) 0 8 % 2 ^ 21 ≠ 0 ∨ leAt (c.entry.drop 16) 8 8 = 0 ∨ leAt (c.entry.drop 16) 8 8 % 2 ^ 21 ≠ 0 ∨
      granarySize < leAt (c.entry.drop 16) 0 8 + leAt (c.entry.drop 16) 8 8) := by
    rintro (h | h | h | h)
    · exact h ho
    · exact hn h
    · exact h hm
    · omega
  have hany : ((List.range (leAt (c.entry.drop 16) 8 8 / 2 ^ 21)).any fun i => !ownedBy b (entryJob c) (leAt (c.entry.drop 16) 0 8 / 2 ^ 21 + i) ||
      !bitOf (frameEntry b (leAt (c.entry.drop 16) 0 8 / 2 ^ 21 + i)) 36) = false := by
    rw [List.any_eq_false]
    intro i hi
    obtain ⟨h1, h2⟩ := hown i (List.mem_range.mp hi)
    rw [h1, h2]
    decide
  rw [cmdWindowOpen, runJob_runs h hx]
  dsimp only
  rw [if_neg hno, hany, if_neg Bool.false_ne_true, hs]

end WindowOpen

theorem cmdCommit_reads (h : Runs b q 0x14 c) {v : List Byte} {d : Block} (hr : readRange (leAt (c.entry.drop 16) 0 8) (leAt (c.entry.drop 16) 8 8) b = (.ok, v, d)) :
    cmdCommit q b =
      let t := commitTensor ⟨entryJob c, leAt (c.entry.drop 16) 0 8, leAt (c.entry.drop 16) 8 8, tensorDigest v⟩ (noteResult c v d)
      finishCmd c t.1 (if t.1 = .ok then setRet c (leBytes 2 t.2.1) t.2.2 else t.2.2) := by
  rw [cmdCommit, runJob_runs h hx]
  dsimp only
  rw [hr, if_neg (fun h => h rfl)]

theorem cmdLoadProgram_loads (h : Runs b q 0x16 c) {lost : List (Nat × Nat)} {v : List Byte} {d e : Block} (hk : leAt (c.entry.drop 16) 0 1 = 0)
    (hn : leAt (c.entry.drop 16) 16 4 ≠ 0) (hr : readRange (leAt (c.entry.drop 16) 8 8) (leAt (c.entry.drop 16) 16 4) b = (.ok, v, d))
    (hp : addProgram ⟨2, entryJob c, 0, leAt (c.entry.drop 16) 16 4, leAt (c.entry.drop 16) 8 8, sha512 v⟩ d = some e) :
    cmdLoadProgram q lost b = finishCmd c .ok { e with til := { e.til with
      progRanges := e.til.progRanges ++ [(leAt (c.entry.drop 16) 8 8, leAt (c.entry.drop 16) 16 4)] } } := by
  have h01 : ¬ ((0 : Nat) = 1) := by decide
  have hno (p r : Prop) : ¬ (1 < 0 ∨ leAt (c.entry.drop 16) 16 4 = 0 ∨ ((0 : Nat) = 1 ∧ p)) := by
    rintro (h | h | ⟨h, -⟩)
    · omega
    · exact hn h
    · omega
  have hbusy (p : Prop) : ¬ ((0 : Nat) = 1 ∧ p) := fun h => h01 h.1
  rw [cmdLoadProgram, runJob_runs h hx]
  dsimp only
  rw [hk, if_neg (hno _ True), if_neg (hbusy _), if_neg (hbusy _), hr, if_neg (fun h => h rfl), if_neg h01, if_neg h01, Nat.zero_add]
  dsimp only
  rw [hp]
  rfl

section QueueCreate
variable (h : Runs b q 0x17 c) (hk : leAt (c.entry.drop 16) 0 4 < 2 ^ 18) (ht : 1 ≤ leAt (c.entry.drop 16) 4 1) (ht' : leAt (c.entry.drop 16) 4 1 ≤ 4)
  (hd : leAt (c.entry.drop 16) 5 1 ≤ 20) (hp : leAt (c.entry.drop 16) 6 1 ≤ 15) (hr : leAt (c.entry.drop 16) 8 8 % 64 = 0)
  (hc : leAt (c.entry.drop 16) 16 8 % 64 = 0) (hl : leAt (c.entry.drop 16) 24 4 ≤ 2 ^ 20)
include h hk ht ht' hd hp hr hc hl

theorem cmdQueueCreate_cases : cmdQueueCreate q b =
    if qType b (leAt (c.entry.drop 16) 0 4) ≠ 0 then finishCmd c .stateConflict b
    else if leAt (c.entry.drop 16) 4 1 = 2 ∧ 1024 ≤ (hostQueues b).length then finishCmd c .noResource b
    else finishCmd c .ok (setQueueRun (leAt (c.entry.drop 16) 0 4) ⟨[], [], [], [], 0⟩
      (newQueue (leAt (c.entry.drop 16) 0 4) (newDescriptor (entryJob c) (c.entry.drop 16)) b)) := by
  rw [cmdQueueCreate, runJob_runs h hx]
  dsimp only
  exact if_neg (by omega)

end QueueCreate

section PageEvict
variable (h : Runs b q 0x19 c) (hj : jobQueue b (entryJob c) (leAt (c.entry.drop 16) 0 4) = true) (ht : qType b (leAt (c.entry.drop 16) 0 4) = 1)
  (hl : leAt (c.entry.drop 16) 4 4 < qPtLen b (leAt (c.entry.drop 16) 0 4))
  (hq : entryQualifies b (leAt (c.entry.drop 16) 0 4) (leAt (c.entry.drop 16) 4 4) = true) (peer : Option Nat)
include h hj ht hl hq

theorem cmdPageEvict_cases : cmdPageEvict q peer b =
    if inBatch b (leAt (c.entry.drop 16) 0 4) then finishCmd c .busy b
    else waitCmd c (leAt (c.entry.drop 16) 0 4 * 2 ^ 32 + leAt (c.entry.drop 16) 4 4) (sendPages (beginEvict (leAt (c.entry.drop 16) 0 4)
      (leAt (c.entry.drop 16) 4 4) (flag b uCtx Fld.ctxJobEvictExport (entryJob c)) (fld b uCtx Fld.ctxJobEvictRank (entryJob c)) peer b)) := by
  have hno : ¬ ((!jobQueue b (entryJob c) (leAt (c.entry.drop 16) 0 4)) = true ∨ qType b (leAt (c.entry.drop 16) 0 4) ≠ 1 ∨
      qPtLen b (leAt (c.entry.drop 16) 0 4) ≤ leAt (c.entry.drop 16) 4 4 ∨ (!entryQualifies b (leAt (c.entry.drop 16) 0 4) (leAt (c.entry.drop 16) 4 4)) = true) := by
    rw [hj, hq]
    rintro (h | h | h | h)
    · cases h
    · exact h ht
    · omega
    · cases h
  rw [cmdPageEvict, runJob_runs h hx]
  dsimp only
  rw [if_neg hno]

end PageEvict

section Step
variable (h : Runs b q 0x22 c) (ht : x.train = true) (hs : x.jstate = jRunning) (hr : recPhase b (entryJob c) = pNone)
include h ht hs hr

theorem cmdStep_cases : cmdStep q b =
    if x.steps.isSome then finishCmd c .busy b
    else if leAt (c.entry.drop 16) 0 4 = 0 ∨ leAt (c.entry.drop 16) 4 4 = noStep ∨
        (trnClosed b (entryJob c) ≠ noStep ∧ leAt (c.entry.drop 16) 4 4 ≠ trnClosed b (entryJob c) + 1) ∨
        noStep ≤ leAt (c.entry.drop 16) 4 4 + leAt (c.entry.drop 16) 0 4 - 1 then finishCmd c .badArgument b
    else waitCmd c (leAt (c.entry.drop 16) 4 4 + leAt (c.entry.drop 16) 0 4 - 1) (modSlot (entryJob c) (fun y => { y with
      steps := some (leAt (c.entry.drop 16) 4 4, leAt (c.entry.drop 16) 4 4 + leAt (c.entry.drop 16) 0 4 - 1) })
      (if trnClosed b (entryJob c) = noStep then mirrorBuild (entryJob c) false [] (tagArrays (entryJob c) (leAt (c.entry.drop 16) 4 4) b) else b)) := by
  have hno : ¬ ((!x.train) = true ∨ x.jstate ≠ jRunning ∨ recPhase b (entryJob c) ≠ pNone) := by
    rw [ht]
    rintro (h | h | h)
    · cases h
    · exact h hs
    · exact h hr
  rw [cmdStep, runJob_runs h hx]
  dsimp only
  rw [if_neg hno]

theorem cmdStep_busy (hst : x.steps.isSome = true) : cmdStep q b = finishCmd c .busy b := (cmdStep_cases hx h ht hs hr).trans (if_pos hst)

variable (hst : x.steps = none) (hn : leAt (c.entry.drop 16) 0 4 ≠ 0) (hlast : leAt (c.entry.drop 16) 4 4 + leAt (c.entry.drop 16) 0 4 - 1 < noStep)
include hst hn hlast

theorem cmdStep_next (hc : trnClosed b (entryJob c) ≠ noStep) (hf : leAt (c.entry.drop 16) 4 4 = trnClosed b (entryJob c) + 1) :
    cmdStep q b = waitCmd c (leAt (c.entry.drop 16) 4 4 + leAt (c.entry.drop 16) 0 4 - 1) (modSlot (entryJob c) (fun y => { y with
      steps := some (leAt (c.entry.drop 16) 4 4, leAt (c.entry.drop 16) 4 4 + leAt (c.entry.drop 16) 0 4 - 1) }) b) := by
  have hsome : ¬ (x.steps.isSome = true) := by rw [hst]; exact Bool.false_ne_true
  refine (cmdStep_cases hx h ht hs hr).trans ((if_neg hsome).trans ((if_neg ?_).trans (by rw [if_neg hc])))
  rintro (h | h | ⟨-, h⟩ | h)
  · exact hn h
  · omega
  · exact h hf
  · omega

theorem cmdStep_first (hc : trnClosed b (entryJob c) = noStep) :
    cmdStep q b = waitCmd c (leAt (c.entry.drop 16) 4 4 + leAt (c.entry.drop 16) 0 4 - 1) (modSlot (entryJob c) (fun y => { y with
      steps := some (leAt (c.entry.drop 16) 4 4, leAt (c.entry.drop 16) 4 4 + leAt (c.entry.drop 16) 0 4 - 1) })
      (mirrorBuild (entryJob c) false [] (tagArrays (entryJob c) (leAt (c.entry.drop 16) 4 4) b))) := by
  have hsome : ¬ (x.steps.isSome = true) := by rw [hst]; exact Bool.false_ne_true
  refine (cmdStep_cases hx h ht hs hr).trans ((if_neg hsome).trans ((if_neg ?_).trans (by rw [if_pos hc])))
  rintro (h | h | ⟨h, -⟩ | h)
  · exact hn h
  · omega
  · exact h hc
  · omega

end Step

end Held
end Sys2Proof.Machine

open Sys2Proof Sys2Proof.Machine

/-- Settles O48, command by command. -/
theorem jobCommands : Obligations.JobCommands := by
  unfold Obligations.JobCommands
  intro s q c hon a j
  refine ⟨?absent, ?create, ?admitted, ?admitLate, ?reshard, ?spare, ?held⟩
  case absent =>
    intro op i hi h hj
    simp only [List.mem_cons, Prod.mk.injEq, List.not_mem_nil, or_false] at hi
    rcases hi with ⟨rfl, rfl⟩ | ⟨rfl, rfl⟩ | ⟨rfl, rfl⟩ | ⟨rfl, rfl⟩ | ⟨rfl, rfl⟩ | ⟨rfl, rfl⟩ | ⟨rfl, rfl⟩ | ⟨rfl, rfl⟩ | ⟨rfl, rfl⟩ | ⟨rfl, rfl⟩ | ⟨rfl, rfl⟩ |
      ⟨rfl, rfl⟩ | ⟨rfl, rfl⟩ | ⟨rfl, rfl⟩ | ⟨rfl, rfl⟩
    · exact acts_main (g := cmdJobDestroy q) rfl hon (runJob_absent h hj)
    · exact acts_main (g := cmdWindowOpen q) rfl hon (runJob_absent h hj)
    · exact acts_main (g := cmdCommit q) rfl hon (runJob_absent h hj)
    · exact acts_main (g := cmdLoadProgram q []) rfl hon (runJob_absent h hj)
    · exact acts_main (g := cmdQueueCreate q) rfl hon (runJob_absent h hj)
    · exact acts_main (g := cmdPageEvict q none) rfl hon (runJob_absent h hj)
    · exact acts_main (g := cmdJobStart q) rfl hon (runJob_absent h hj)
    · exact acts_main (g := cmdStep q) rfl hon (runJob_absent h hj)
    · exact acts_main (g := cmdScaleSet q) rfl hon (runJob_absent h hj)
    · exact acts_main (g := cmdJobStop q) rfl hon (runJob_absent h hj)
    · exact acts_main (g := cmdFreeze q) rfl hon (runJob_absent h hj)
    · exact acts_main (g := cmdReplay q) rfl hon (runJob_absent h hj)
    · exact acts_main (g := cmdAdopt q) rfl hon (runJob_absent h hj)
    · exact acts_main (g := cmdSnapshot q) rfl hon (runJob_absent h hj)
    · exact acts_main (g := cmdCheckpoint q) rfl hon (runJob_absent h hj)
  case create =>
    intro l b h he ha hl
    refine ⟨fun hh => acts_main (g := cmdJobCreate q) rfl hon ((cmdJobCreate_cases h he ha hl).trans (if_pos hh)), fun hfree hlen himage => ⟨?_, ?_⟩⟩
    · exact fun ht hn => acts_main (g := cmdJobCreate q) rfl hon (cmdJobCreate_full h he ha hl hfree hlen himage ht hn)
    · exact fun hn => answersWith_main (g := cmdJobCreate q) rfl hon (cmdJobCreate_makes h he ha hl hfree hlen himage hn)
  case admitted =>
    exact fun l b h he ha hl hjob hrank hlen hown => ⟨fun hr => acts_main (g := cmdJobAdmit q) rfl hon (cmdJobAdmit_fails h he ha hl hjob hrank hlen hown hr),
      fun hr hid => answersWith_main (g := cmdJobAdmit q) rfl hon (cmdJobAdmit_begins h he ha hl hjob hrank hlen hown hr hid)⟩
  case admitLate => exact fun j t k ks r rs ha hw ht hf hk => acts_main (g := admitTimeout j) rfl hon (admitTimeout_due ha hw ht hf hk)
  case reshard =>
    exact fun l b h he ha hjob => ⟨fun hl => acts_main (g := cmdReshard q) rfl hon (cmdReshard_bad h he ha hjob hl),
      fun hl hm hr => acts_main (g := cmdReshard q) rfl hon (cmdReshard_busy h he ha hjob hl hm hr),
      fun hl hm hr => ⟨fun st hd => acts_main (g := cmdReshard q) rfl hon (cmdReshard_ends h he ha hjob hl hm hr hd),
        fun hd => acts_main (g := cmdReshard q) rfl hon (cmdReshard_waits h he ha hjob hl hm hr hd)⟩⟩
  case spare =>
    exact fun h hx => ⟨fun hn => acts_main (g := cmdSpareAssign q) rfl hon (cmdSpareAssign_full h hx hn),
      fun hn => answersWith_main (g := cmdSpareAssign q) rfl hon (cmdSpareAssign_makes h hx hn)⟩
  case held =>
    intro x hx
    refine ⟨?assign, ?destroy, ?window, ?commit, ?load, ?queue, ?evict, ?start, ?step, ?scale, ?stop, ?freeze, ?replay, ?adopt, ?snapshot, ?checkpoint⟩
    case assign => exact fun h ho hi => acts_main (g := cmdSpareAssign q) rfl hon (cmdSpareAssign_held h hx ho hi)
    case destroy => exact fun h => acts_main (g := cmdJobDestroy q) rfl hon (runJob_runs h hx)
    case window =>
      intro h y ho hn hm hin hown hs
      have he := cmdWindowOpen_cases hx h ho hn hm hin hown hs
      exact ⟨fun hw => acts_main (g := cmdWindowOpen q) rfl hon (he.trans (if_pos hw)),
        fun hw => acts_main (g := cmdWindowOpen q) rfl hon (he.trans (if_neg (Nat.not_le.mpr hw)))⟩
    case commit => exact fun h v b hr => acts_main (g := cmdCommit q) rfl hon (cmdCommit_reads hx h hr)
    case load => exact fun h lost v b d hk hn hr hp => acts_main (g := cmdLoadProgram q lost) rfl hon (cmdLoadProgram_loads hx h hk hn hr hp)
    case queue =>
      intro h hk ht ht' hd hp hr hc hl
      have he := cmdQueueCreate_cases hx h hk ht ht' hd hp hr hc hl
      exact ⟨fun hq => acts_main (g := cmdQueueCreate q) rfl hon (he.trans (if_pos hq)),
        fun hq h2 => acts_main (g := cmdQueueCreate q) rfl hon (he.trans ((if_neg fun h => h hq).trans (if_neg fun h => h2 h.1)))⟩
    case evict =>
      intro h peer hj ht hl hq
      have he := cmdPageEvict_cases hx h hj ht hl hq peer
      exact ⟨fun hb => acts_main (g := cmdPageEvict q peer) rfl hon (he.trans (if_pos hb)),
        fun hb => acts_main (g := cmdPageEvict q peer) rfl hon (he.trans (if_neg (by rw [hb]; exact Bool.false_ne_true)))⟩
    case start =>
      intro h
      have he : cmdJobStart q s.blk = if x.jstate ≠ jLoaded then finishCmd c .stateConflict s.blk
          else if x.train then
            if spares s.blk j = [] then finishCmd c .noResource s.blk else finishCmd c .ok (setJState j jRunning (bindTiles j s.blk))
          else finishCmd c .ok (setJState j jRunning s.blk) := runJob_runs h hx
      exact ⟨fun hs => acts_main (g := cmdJobStart q) rfl hon (he.trans (if_pos hs)),
        fun hs ht => acts_main (g := cmdJobStart q) rfl hon (he.trans ((if_neg fun h => h hs).trans (if_neg (by rw [ht]; exact Bool.false_ne_true)))),
        fun hs ht hn => acts_main (g := cmdJobStart q) rfl hon (he.trans ((if_neg fun h => h hs).trans ((if_pos ht).trans (if_pos hn)))),
        fun hs ht hn => acts_main (g := cmdJobStart q) rfl hon (he.trans ((if_neg fun h => h hs).trans ((if_pos ht).trans (if_neg hn))))⟩
    case step =>
      exact fun h ht hs hr => ⟨fun hst => acts_main (g := cmdStep q) rfl hon (cmdStep_busy hx h ht hs hr hst),
        fun hst hn hc hf hl => acts_main (g := cmdStep q) rfl hon (cmdStep_next hx h ht hs hr hst hn hl hc hf),
        fun hst hn hc hl => acts_main (g := cmdStep q) rfl hon (cmdStep_first hx h ht hs hr hst hn hl hc)⟩
    case scale => exact fun h => acts_main (g := cmdScaleSet q) rfl hon (runJob_runs h hx)
    case stop =>
      intro h
      have he : cmdJobStop q s.blk = if x.jstate = jRunning then waitCmd c 0 (settleStop j (setJState j jStopping (callBack j s.blk)))
          else finishCmd c .stateConflict s.blk := runJob_runs h hx
      exact ⟨fun hs => acts_main (g := cmdJobStop q) rfl hon (he.trans (if_pos hs)), fun hs => acts_main (g := cmdJobStop q) rfl hon (he.trans (if_neg hs))⟩
    case freeze =>
      intro h
      have he : cmdFreeze q s.blk = if !x.train then finishCmd c .stateConflict s.blk
          else finishCmd c .ok (if isLead (cancelStep j s.blk) j then declare j [] (cancelStep j s.blk)
            else recSend j (toLead (cancelStep j s.blk) j) kFail 0 [] 0 (cancelStep j s.blk)) := runJob_runs h hx
      exact ⟨fun ht => acts_main (g := cmdFreeze q) rfl hon (he.trans (if_pos (by rw [ht]; rfl))),
        fun ht => acts_main (g := cmdFreeze q) rfl hon (he.trans (if_neg (by rw [ht]; exact Bool.false_ne_true)))⟩
    case replay =>
      intro h
      have he : cmdReplay q s.blk = if (!x.train) = true ∨ trnPhase s.blk j ≠ 0 then finishCmd c .stateConflict s.blk
          else if leAt a 0 4 = 0 then finishCmd c .badArgument s.blk else replayFrom j (leAt a 0 4) (waitCmd c (leAt a 0 4) s.blk) := runJob_runs h hx
      refine ⟨fun ht => acts_main (g := cmdReplay q) rfl hon (he.trans (if_pos (ht.imp_left fun ht => by rw [ht]; rfl))),
        fun ht hp hn => acts_main (g := cmdReplay q) rfl hon (he.trans ((if_neg ?_).trans (if_neg hn)))⟩
      rw [ht]
      exact fun h => h.elim (fun h => Bool.false_ne_true h) fun h => h hp
    case adopt =>
      intro h hf
      have he : cmdAdopt q s.blk = if 1024 ≤ leAt a 0 2 then finishCmd c .badArgument s.blk else if !x.spare then finishCmd c .stateConflict s.blk
          else waitCmd c (leAt a 0 2) (adoptRank j (leAt a 0 2) s.blk) := runJob_runs h hx
      exact ⟨fun hs => acts_main (g := cmdAdopt q) rfl hon (he.trans ((if_neg (Nat.not_le.mpr hf)).trans (if_pos (by rw [hs]; rfl)))),
        fun hs => acts_main (g := cmdAdopt q) rfl hon (he.trans ((if_neg (Nat.not_le.mpr hf)).trans (if_neg (by rw [hs]; exact Bool.false_ne_true))))⟩
    case snapshot =>
      intro h ht d
      have he : cmdSnapshot q s.blk = if !x.train then finishCmd c .stateConflict s.blk
          else if d = leAt a 0 4 ∧ d ≠ noStep then answerRanges c (masterRanges s.blk j) s.blk
          else if d ≠ noStep ∧ leAt a 0 4 < d then finishCmd c .badArgument s.blk else waitCmd c (leAt a 0 4) s.blk := runJob_runs h hx
      have hno : ¬ ((!x.train) = true) := by rw [ht]; exact Bool.false_ne_true
      refine ⟨fun hd hn => acts_main (g := cmdSnapshot q) rfl hon (he.trans ((if_neg hno).trans (if_pos ⟨hd, hn⟩))),
        fun hn hl => acts_main (g := cmdSnapshot q) rfl hon (he.trans ((if_neg hno).trans ((if_neg fun h => by omega).trans (if_pos ⟨hn, hl⟩)))),
        fun hd => acts_main (g := cmdSnapshot q) rfl hon (he.trans ((if_neg hno).trans ((if_neg fun h => ?_).trans (if_neg fun h => ?_))))⟩
      · exact hd.elim h.2 fun hl => by omega
      · exact hd.elim h.1 fun hl => by omega
    case checkpoint =>
      intro h ht
      have he : cmdCheckpoint q s.blk = if !x.train then finishCmd c .stateConflict s.blk
          else if leAt a 0 2 ≠ scb s.blk j 28 2 % 1024 then finishCmd c .notPresent s.blk else checkpointDue j (waitCmd c 0 s.blk) := runJob_runs h hx
      have hno : ¬ ((!x.train) = true) := by rw [ht]; exact Bool.false_ne_true
      exact ⟨fun hr => acts_main (g := cmdCheckpoint q) rfl hon (he.trans ((if_neg hno).trans (if_pos hr))),
        fun hr => acts_main (g := cmdCheckpoint q) rfl hon (he.trans ((if_neg hno).trans (if_neg fun h => h hr)))⟩

end

section
/-! PROOFS. Recovery messages: an adopter beyond the width of SYS_RECj_LAST (R476). -/

namespace Sys2Proof.Machine

/-! ### An ADOPTED that names an adopter no register can hold -/

/-- The ADOPTED that rank 1 sends about itself: SEQ 1, epoch 5. -/
def adoptedMsg : RecMsg := ⟨5, 6, 1, 1, 9, [1], 0⟩

/-- A training job runs in slot 0 of a loaded module, its recovery area at 0x100000; rank 1's slot there holds the ADOPTED. -/
def adoptedTold : Block :=
  let b := setReg uChip (Off.sysRecAreaLo 0) 0x100000 (setFld uCtx Fld.ctxJobCtrlTrain 1 (setFld uTly Fld.tlyPowerMainOn 1 blockFresh))
  let b := poke 0x100040 adoptedMsg.bytes (setFld uQcp Fld.qcpDevstateState dsLoaded b)
  { b with qcp := { b.qcp with jobs := [(0, ⟨jRunning, true, false, [1], 0, 0, [], none⟩)] } }

/-- The rank recorded as the taker of rank 1 is beyond 32 bits. -/
def hugeAdopter : Block := modFab (fun x => { x with takenBy := [(rankKey 0 1, 2 ^ 32)] }) adoptedTold

theorem hugeAdopter_told : mainOn hugeAdopter = true ∧ recWatched hugeAdopter 0 = true ∧ newMsg hugeAdopter 0 1 = some adoptedMsg ∧
    (touchRanges uReeve [(recSlot hugeAdopter 0 1, 64)] hugeAdopter).1 = .ok := by decide +kernel

/-- What reading the slot leaves, with the message noted. -/
def hugeAdopterNoted : Block :=
  modRec 0 (fun x => { x with seen := x.seen.put 1 1, high := max x.high 5 }) (touchRanges uReeve [(recSlot hugeAdopter 0 1, 64)] hugeAdopter).2

theorem hugeAdopterNoted_taker : (hugeAdopterNoted.fab.takenBy.find (rankKey 0 1)) = some (2 ^ 32) ∧ ownRank hugeAdopterNoted 0 ≠ 1 := by decide +kernel

/-- A recorded taker is the adopter. -/
theorem adopterOfRank_of_takenBy {b : Block} {j f p : Nat} (h : b.fab.takenBy.find (rankKey j f) = some p) : adopterOfRank b j f = some p := by
  simp [adopterOfRank, h]

end Sys2Proof.Machine

open Sys2Proof Sys2Proof.Machine

/-- Refutes O49: where the taker recorded for the rank is no 16-bit number, SYS_RECj_LAST cannot hold what the statement says it does. -/
theorem not_recoveryMessages : ¬ Obligations.RecoveryMessages := by
  unfold Obligations.RecoveryMessages
  intro h
  obtain ⟨hon, hw, hm, hok⟩ := hugeAdopter_told
  obtain ⟨htaker, hown⟩ := hugeAdopterNoted_taker
  obtain ⟨-, -, hacts⟩ := h ⟨hugeAdopter, []⟩ 0 1 hon
  obtain ⟨-, -, -, -, -, -, hadopted, -⟩ := hacts adoptedMsg (touchRanges uReeve [(recSlot hugeAdopter 0 1, 64)] hugeAdopter).2 hw hm
    (Prod.ext hok rfl)
  obtain ⟨b, -, -, -, hlast⟩ := (hadopted rfl).2 (2 ^ 32) hown.symm (adopterOfRank_of_takenBy htaker)
  have hlt := Nat.lt_of_le_of_lt (Nat.le_of_eq hlast.symm) (reg_lt b uChip _)
  exact absurd hlt (by decide)

end

section
/-! PROOFS. Recovery of its own accord: a shrink while the engine's failed access stands (R464). -/

namespace Sys2Proof.Machine

/-! ### A shrink that has nothing to do while an access of the job's engine stands failed -/

/-- Job 0's training engine has met a failed access that it has not answered yet; no rank of the job has failed. -/
def engineFailed : Block :=
  modJob 0 (fun x => { x with failed := some .elsewhere }) (setFld uTly Fld.tlyPowerMainOn 1 blockFresh)

theorem engineFailed_rests : mainOn engineFailed = true ∧ untaken engineFailed 0 = [] := by decide +kernel
theorem engineFailed_stands : (trnOf (keepTally id engineFailed) 0).failed = some .elsewhere := by decide +kernel
theorem engineFailed_answered : (trnOf (keepTally (fun b => engineEnd 0 (shrink 0 b)) engineFailed) 0).failed = none := by decide +kernel

end Sys2Proof.Machine

open Sys2Proof Sys2Proof.Machine

/-- Refutes O50: with nothing to shrink, `shrink` still ends by answering a failed access of the job's engine (R464), so it does change the state. -/
theorem not_recoveryActions : ¬ Obligations.RecoveryActions := by
  unfold Obligations.RecoveryActions
  intro h
  obtain ⟨hon, hnone⟩ := engineFailed_rests
  obtain ⟨-, -, -, -, -, -, -, -, hshrink, -⟩ := h ⟨engineFailed, []⟩ 0 hon
  have hacts : Acts (.shrink 0) ⟨engineFailed, []⟩ (fun b => engineEnd 0 (shrink 0 b)) :=
    acts_main (g := fun b => engineEnd 0 (shrink 0 b)) rfl hon rfl
  have hblk := blk_of_acts (hshrink (.inl hnone)) hacts
  have hfailed := engineFailed_stands
  rw [hblk, engineFailed_answered] at hfailed
  exact absurd hfailed (by decide)

end

section
/-! PROOFS. Register access at bring-up (R497 to R501). -/

namespace Sys2Proof.Machine

/-! ### Frames for a bring-up server (R497) -/

section
variable {port q op : Nat} {run : Flow → QHead → List Byte → List Byte → Block → Block} {b : Block} {f : List Byte}
  {fl : Flow} {p : List Byte} {h : QHead} {c t : List Byte}

/-- Without a frame at the head a server does nothing. -/
theorem raTake_none (hh : raHead port q b = none) : raTake port q op run b = b := by
  simp [raTake, hh]

/-- A frame that comes from a device, is reserved or names a queue is dropped and counted. -/
theorem raTake_refused (hh : raHead port q b = some f) (hin : raIn port f = some (fl, p)) (hp : qcpParse p = some (h, c, t))
    (hbad : h.dev = true ∨ raOp h.op = false ∨ h.queue ≠ 0) : raTake port q op run b = qcount Off.qcpRxBadLo (raDrop port q b) := by
  have hbad' : (h.dev || !raOp h.op || h.queue != 0) = true := by
    obtain hd | ho | hq := hbad
    · simp [hd]
    · simp [ho]
    · simp [hq]
  simp only [raTake, hh, hin, hp, hbad', if_true]

/-- A good frame of the operation asked for is taken and acted on. -/
theorem raTake_taken (hh : raHead port q b = some f) (hin : raIn port f = some (fl, p)) (hp : qcpParse p = some (h, c, t))
    (hd : h.dev = false) (ho : raOp h.op = true) (hq : h.queue = 0) (hop : h.op = op) :
    raTake port q op run b = run fl h c t (raDrop port q b) := by
  have hbad : (h.dev || !raOp h.op || h.queue != 0) = false := by simp [hd, ho, hq]
  simp only [raTake, hh, hin, hp]
  rw [if_neg (by rw [hbad]; decide), if_pos hop]

end

/-! ### Frames of a bring-up session -/

section
variable {port q op : Nat} {run : Sess → Flow → List Byte → Block → Block} {b d : Block} {f : List Byte}
  {fl : Flow} {p : List Byte} {h : QHead} {c t : List Byte} {x : Sess} {v : List Byte}

theorem raAuth_none (hh : raHead port q b = none) : raAuth port q op run b = b := raTake_none hh

theorem raAuth_refused (hh : raHead port q b = some f) (hin : raIn port f = some (fl, p)) (hp : qcpParse p = some (h, c, t))
    (hbad : h.dev = true ∨ raOp h.op = false ∨ h.queue ≠ 0) : raAuth port q op run b = qcount Off.qcpRxBadLo (raDrop port q b) :=
  raTake_refused hh hin hp hbad

/-- A frame that its session accepts is acted on in the state that accepting it leaves. -/
theorem raAuth_taken (hh : raHead port q b = some f) (hin : raIn port f = some (fl, p)) (hp : qcpParse p = some (h, c, t))
    (hd : h.dev = false) (ho : raOp h.op = true) (hq : h.queue = 0) (hop : h.op = op)
    (hs : sessTake true (onRing port) fl h c t (raDrop port q b) = (some (x, v), d)) : raAuth port q op run b = run x fl v d := by
  unfold raAuth
  rw [raTake_taken hh hin hp hd ho hq hop]
  simp only [hs]

/-- A BLOB of one chunk is stored where registers may be written, and only there (R501, R505). -/
theorem raBlob_taken (hh : raHead port q b = some f) (hin : raIn port f = some (fl, p)) (hp : qcpParse p = some (h, c, t))
    (hd : h.dev = false) (hq : h.queue = 0) (hop : h.op = 0x120)
    (hs : sessTake true (onRing port) fl h c t (raDrop port q b) = (some (x, v), d)) (hv : v.length = 8200) :
    raBlob port q b = if mainOn d && raMayWrite (onRing port) d then blobWrite (leAt v 0 8) (v.drop 8) d else d := by
  unfold raBlob
  rw [raAuth_taken hh hin hp hd (by rw [hop]; decide) hq hop hs]
  simp [hv]

end

/-! ### The next entry of a server's oldest run (R498, R501) -/

section
variable {port q op : Nat} {run : List Byte → Block → Block} {b d : Block} {r : RaRun} {e : List Byte} {es : List (List Byte)} {u o v : Nat}

/-- The entry at the head of a run is executed by its operation; a bad entry after it is refused at once. -/
theorem raEntry_head (hr : raRun port b = some r) (hl : r.left = e :: es) (hop : leAt e 0 1 = op) :
    raEntry port q op run b = raRefuseBad port (run e b) := by
  have hb : raBegin port q b = b := by simp [raBegin, hr]
  simp [raEntry, hb, hr, hl, hop]

theorem raRead_ok (hr : raRun port b = some r) (hl : r.left = e :: es) (ha : raAddr e = some (u, o)) (hop : leAt e 0 1 = 1)
    (hread : regRead (raUnit port) u o b = (.ok, v, d)) : raRead port q b = raRefuseBad port (raResult port .ok (some v) d) := by
  unfold raRead
  rw [raEntry_head hr hl hop]
  simp [ha, hread]

theorem raWrite_allowed (hr : raRun port b = some r) (hl : r.left = e :: es) (ha : raAddr e = some (u, o)) (hop : leAt e 0 1 = 2)
    (hmay : raMayWrite (onRing port) b = true) :
    raWrite port q b = (let x := regWrite (raUnit port) (!onRing port) u o (leAt e 16 4) (raWakes b)
      raRefuseBad port (raResult port x.1 none x.2)) := by
  unfold raWrite
  rw [raEntry_head hr hl hop]
  simp [ha, hmay]

theorem raWrite_conflict (hr : raRun port b = some r) (hl : r.left = e :: es) (ha : raAddr e = some (u, o)) (hop : leAt e 0 1 = 2)
    (hmay : raMayWrite (onRing port) b = false) : raWrite port q b = raRefuseBad port (raResult port .stateConflict none b) := by
  unfold raWrite
  rw [raEntry_head hr hl hop]
  simp [ha, hmay]

theorem raRmw_ok (hr : raRun port b = some r) (hl : r.left = e :: es) (ha : raAddr e = some (u, o)) (hop : leAt e 0 1 = 3)
    (hmay : raMayWrite (onRing port) b = true)
    (hrmw : regRmw (raUnit port) (!onRing port) u o (leAt e 16 4) (leAt e 20 4) (raWakes b) = (.ok, v, d)) :
    raRmw port q b = raRefuseBad port (raResult port .ok (some v) d) := by
  unfold raRmw
  rw [raEntry_head hr hl hop]
  simp [ha, hmay, hrmw]

theorem raRmw_conflict (hr : raRun port b = some r) (hl : r.left = e :: es) (ha : raAddr e = some (u, o)) (hop : leAt e 0 1 = 3)
    (hmay : raMayWrite (onRing port) b = false) : raRmw port q b = raRefuseBad port (raResult port .stateConflict none b) := by
  unfold raRmw
  rw [raEntry_head hr hl hop]
  simp [ha, hmay]

/-- A POLL whose value is there answers it. -/
theorem raPoll_match (hr : raRun port b = some r) (hl : r.left = e :: es) (ha : raAddr e = some (u, o)) (hop : leAt e 0 1 = 4)
    (hread : regRead (raUnit port) u o b = (.ok, v, d)) (hv : Nat.land v (leAt e 20 4) = leAt e 16 4) :
    raPoll port q b = raRefuseBad port (raResult port .ok (some v) d) := by
  unfold raPoll
  rw [raEntry_head hr hl hop]
  simp only [ha, hread, hv, ne_eq, not_true_eq_false, if_false, if_true]

/-- A POLL past its TIMEOUT answers BUSY, and one within it goes on. -/
theorem raPollTimeout_at (hr : raRun port b = some r) (hl : r.left = e :: es) {t : Nat} (ht : r.pollAt = some t) :
    raPollTimeout port b = if t + 1000 * leAt e 4 4 ≤ b.face.time then raResult port .busy none b else b := by
  simp [raPollTimeout, hr, hl, ht]

end

end Sys2Proof.Machine

open Sys2Proof Sys2Proof.Machine

/-- Settles O51: by the frame at the server's head, and by the OP of the oldest run's next entry. -/
theorem registerAccess : Obligations.RegisterAccess := by
  unfold Obligations.RegisterAccess
  intro s port q
  refine ⟨fun hh => ?noFrame, fun f fl p h c t hh hin hp hbad => ?refused, fun f fl p h c t hh hin hp hd hq => ⟨?opens, ?claims, ?session⟩,
    fun r e es u o hr hl ha => ⟨?read, ?write, ?rmw, ?conflict, ?poll, ?timeout⟩⟩
  case noFrame =>
    refine ⟨answers_all (g := raClaim port q) rfl (raTake_none hh), List.forall_mem_cons.2 ⟨?_, List.forall_mem_cons.2 ⟨?_, List.forall_mem_singleton.2 ?_⟩⟩⟩
    · exact acts_run (g := raOpen port q) rfl (raTake_none hh)
    · exact acts_run (g := raClose port q) rfl (raAuth_none hh)
    · exact acts_run (g := raBlob port q) rfl (raAuth_none hh)
  case refused =>
    refine ⟨answers_all (g := raClaim port q) rfl (raTake_refused hh hin hp hbad),
      List.forall_mem_cons.2 ⟨?_, List.forall_mem_cons.2 ⟨?_, List.forall_mem_singleton.2 ?_⟩⟩⟩
    · exact acts_run (g := raOpen port q) rfl (raTake_refused hh hin hp hbad)
    · exact acts_run (g := raClose port q) rfl (raAuth_refused hh hin hp hbad)
    · exact acts_run (g := raBlob port q) rfl (raAuth_refused hh hin hp hbad)
  case opens =>
    intro hop
    exact acts_run (g := raOpen port q) rfl (raTake_taken hh hin hp hd (by rw [hop]; decide) hq hop)
  case claims =>
    intro hop
    exact answers_all (g := raClaim port q) rfl (raTake_taken hh hin hp hd (by rw [hop]; decide) hq hop)
  case session =>
    intro x v d hs
    refine ⟨fun hop => ?_, fun hop hv hon hmay => ?_, fun hop hv hno => ?_⟩
    · exact acts_run (g := raClose port q) rfl (raAuth_taken hh hin hp hd (by rw [hop]; decide) hq hop hs)
    · exact acts_run (g := raBlob port q) rfl ((raBlob_taken hh hin hp hd hq hop hs hv).trans (by simp [hon, hmay]))
    · refine acts_run (g := raBlob port q) rfl ((raBlob_taken hh hin hp hd hq hop hs hv).trans ?_)
      obtain hoff | hmay := hno
      · simp [hoff]
      · simp [hmay]
  case read =>
    intro hop v d hread
    exact acts_run (g := raRead port q) rfl (raRead_ok hr hl ha hop hread)
  case write =>
    intro hop hmay
    exact answers_all (g := raWrite port q) rfl (raWrite_allowed hr hl ha hop hmay)
  case rmw =>
    intro hop hmay v d hrmw
    exact answers_all (g := raRmw port q) rfl (raRmw_ok hr hl ha hop hmay hrmw)
  case conflict =>
    intro hmay
    exact ⟨fun hop => answers_all (g := raWrite port q) rfl (raWrite_conflict hr hl ha hop hmay),
      fun hop => answers_all (g := raRmw port q) rfl (raRmw_conflict hr hl ha hop hmay)⟩
  case poll =>
    intro hop v d hread hv
    exact acts_run (g := raPoll port q) rfl (raPoll_match hr hl ha hop hread hv)
  case timeout =>
    intro t ht
    refine ⟨fun hlt => acts_run (g := raPollTimeout port) rfl ?_, fun hle => acts_run (g := raPollTimeout port) rfl ?_⟩
    · rw [raPollTimeout_at hr hl ht, if_neg (Nat.not_le.2 hlt)]; rfl
    · rw [raPollTimeout_at hr hl ht, if_pos hle]

end

section
/-! PROOFS. Bring-up: actions, loads and their end (R502 to R510). -/

namespace Sys2Proof.Machine

variable (b : Block)

/-! ### What closing sessions leaves of the bring-up state and of the units' resets -/

/-- The reset register of each unit. -/
def resetRegs (b : Block) (u : Nat) : Nat := reg b u Fld.unitResetHold.off

/-- The bring-up state, and each unit's state and reset register. -/
def unitPart (b : Block) : Boot × SMap Nat × (Nat → Nat) := (b.boot, b.face.own, resetRegs b)

theorem unitPart_eq_iff {b c : Block} : unitPart c = unitPart b ↔ c.boot = b.boot ∧ c.face.own = b.face.own ∧ resetRegs c = resetRegs b := by
  simp [unitPart]

theorem unitPart_of {b c : Block} (hf : c.face = b.face) (hb : c.boot = b.boot) : unitPart c = unitPart b :=
  unitPart_eq_iff.mpr ⟨hb, by rw [hf], funext fun _ => reg_of_face hf ..⟩

theorem reg_of_unitPart {b c : Block} (h : unitPart c = unitPart b) (u : Nat) : reg c u Fld.unitResetHold.off = reg b u Fld.unitResetHold.off :=
  congrFun (unitPart_eq_iff.mp h).2.2 u

theorem own_of_unitPart {b c : Block} (h : unitPart c = unitPart b) (u : Nat) : ownOf c u = ownOf b u := by
  rw [ownOf, ownOf, (unitPart_eq_iff.mp h).2.1]

theorem boot_of_unitPart {b c : Block} (h : unitPart c = unitPart b) : c.boot = b.boot := (unitPart_eq_iff.mp h).1

@[simp] theorem unitPart_ite (p : Prop) [Decidable p] (c d : Block) : unitPart (if p then c else d) = if p then unitPart c else unitPart d := apply_ite ..

/-- A register at another offset of its unit is no reset register. -/
theorem resetKey_ne {u u' o : Nat} (h : o % 2 ^ 20 ≠ 12) : regKey u' Fld.unitResetHold.off ≠ regKey u o := by
  have : Fld.unitResetHold.off = 12 := rfl
  unfold regKey
  omega

@[simp] theorem unitPart_setReg {u o : Nat} (v : Nat) (h : o % 2 ^ 20 ≠ 12) : unitPart (setReg u o v b) = unitPart b :=
  unitPart_eq_iff.mpr ⟨rfl, rfl, funext fun _ => by rw [resetRegs, resetRegs, reg_setReg, if_neg (resetKey_ne h)]⟩

@[simp] theorem unitPart_bump {u o : Nat} (n : Nat) (h : o % 2 ^ 20 ≠ 12) (h' : (o + 4) % 2 ^ 20 ≠ 12) : unitPart (bump u o n b) = unitPart b := by
  simp only [bump]
  rw [unitPart_setReg _ _ h', unitPart_setReg _ _ h]

theorem unitPart_setSq (u : Nat) {f : Field} (h : f.off % 2 ^ 20 ≠ 12) : unitPart (setSq u f b) = unitPart b := by
  refine unitPart_eq_iff.mpr ⟨rfl, rfl, funext fun _ => ?_⟩
  rw [resetRegs, resetRegs, reg_setSq, if_neg (resetKey_ne (by simpa using h))]

@[simp] theorem unitPart_raise (u : Nat) (e : Ev) (a : Nat) : unitPart (raise u e a b) = unitPart b :=
  unitPart_eq_iff.mpr ⟨(raise_frame b u e a).2.2.2.2.2.2.2.2.1, own_raise .., funext fun v =>
    reg_raise_beside b u e a (by decide) (by decide) (by decide) (by decide) (resetKey_ne (by decide)) (resetKey_ne (by decide))⟩
@[simp] theorem unitPart_notify (u : Nat) {f : Field} (e : Ev) (a : Nat) (h : f.off % 2 ^ 20 ≠ 12) : unitPart (notify u f e a b) = unitPart b := by
  rw [notify, unitPart_raise, unitPart_setSq _ _ h]
@[simp] theorem unitPart_poke (a : Nat) (v : List Byte) : unitPart (poke a v b) = unitPart b := unitPart_of rfl rfl
@[simp] theorem unitPart_setMark (l : Nat) (m : Option LineMark) : unitPart (setMark l m b) = unitPart b := unitPart_of rfl rfl
@[simp] theorem unitPart_noteFail (l : Nat) : unitPart (noteFail l b) = unitPart b := unitPart_of rfl rfl
@[simp] theorem unitPart_failElsewhere : unitPart (failElsewhere b) = unitPart b := unitPart_of rfl rfl
@[simp] theorem unitPart_addrFault (i : Issuer) (a : Nat) : unitPart (addrFault i a b) = unitPart b := unitPart_raise ..
@[simp] theorem unitPart_recordRow (pl : Place) (u : Bool) : unitPart (recordRow pl u b) = unitPart b := by
  unfold recordRow; dsimp only; (repeat' split) <;> exact unitPart_of rfl rfl
@[simp] theorem unitPart_chargeRereads (ls : List Nat) : unitPart (chargeRereads ls b) = unitPart b := foldl_keeps _ _ _ _ (by simp (disch := decide))
@[simp] theorem unitPart_readOne (l : Nat) : unitPart (readOne l b).2 = unitPart b := by
  unfold readOne
  split
  · exact unitPart_noteFail ..
  · dsimp only
    split
    case h_3 => split <;> simp (disch := decide)
    all_goals simp (disch := decide)
@[simp] theorem unitPart_readLine (l : Nat) : unitPart (readLine l b).2 = unitPart b := by simp (disch := decide) [readLine]
@[simp] theorem unitPart_readLines (ls : List Nat) : unitPart (readLines ls b).2 = unitPart b := by
  unfold readLines
  rw [foldl_keeps (fun (acc : Bool × Block) => unitPart acc.2) _ _ _ (by simp (disch := decide)), unitPart_chargeRereads]
@[simp] theorem unitPart_writeLine (a : Nat) (v : List Byte) (t : Option Nat) (l : Nat) : unitPart (writeLine a v t l b).2 = unitPart b := by
  unfold writeLine
  dsimp only
  split
  · exact unitPart_noteFail ..
  · split
    · rw [unitPart_poke]; split <;> exact unitPart_of rfl rfl
    · simp (disch := decide)
@[simp] theorem unitPart_serveRead (a n : Nat) : unitPart (serveRead a n b).2.2 = unitPart b := by
  unfold serveRead; dsimp only; split <;> split <;> simp (disch := decide)
@[simp] theorem unitPart_serveWrite (a : Nat) (v : List Byte) (t : Option Nat) : unitPart (serveWrite a v t b).2 = unitPart b := by
  unfold serveWrite
  dsimp only
  rw [foldl_keeps (fun (acc : Bool × Block) => unitPart acc.2) _ _ _ (by simp (disch := decide))]
  split <;> simp (disch := decide)
@[simp] theorem unitPart_tablePut (a : Nat) (v : List Byte) : unitPart (tablePut a v b) = unitPart b := by unfold tablePut; split <;> simp (disch := decide)
@[simp] theorem unitPart_modGl (g : Nat) (f : Gleaner → Gleaner) : unitPart (modGl g f b) = unitPart b := unitPart_of rfl rfl
@[simp] theorem unitPart_dropGrant (g : Nat) : unitPart (dropGrant g b) = unitPart b := unitPart_of rfl rfl
@[simp] theorem unitPart_refreshOwed (c k : Nat) : unitPart (refreshOwed c k b) = unitPart b := by
  unfold refreshOwed; dsimp only; split <;> exact unitPart_of rfl rfl
@[simp] theorem unitPart_landPut (g : Nat) (p : Nat × List Byte × Nat) : unitPart (landPut g p b) = unitPart b := by
  unfold landPut; dsimp only; split <;> split <;> simp (disch := decide)
@[simp] theorem unitPart_commit (g : Nat) (f : Bool) : unitPart (commit g f b) = unitPart b := by
  unfold commit
  dsimp only
  split
  · rfl
  · rename_i sg _
    have hp : unitPart (sg.puts.foldl (fun b p => landPut g p b) b) = unitPart b := foldl_keeps _ _ _ _ (by simp (disch := decide))
    have hb (c : Block) : unitPart (sg.banks.foldl (fun b k => refreshOwed (glChannel g) k.1 b) c) = unitPart c := foldl_keeps _ _ _ _ (by simp (disch := decide))
    split <;> split <;> simp (disch := decide) [hp, hb]
@[simp] theorem unitPart_releaseBanks (a n : Nat) : unitPart (releaseBanks a n b) = unitPart b := by
  unfold releaseBanks; split
  · rfl
  · refine foldl_keeps _ _ _ _ fun c l => ?_
    unfold releaseBank
    split
    · rfl
    · split <;> simp (disch := decide)
@[simp] theorem unitPart_granaryRead (iss : Issuer) (a n : Nat) : unitPart (granaryRead iss a n b).2.2 = unitPart b := by
  unfold granaryRead; split <;> simp (disch := decide)
@[simp] theorem unitPart_granaryWrite (iss : Issuer) (a : Nat) (v : List Byte) (t : Option Nat) : unitPart (granaryWrite iss a v t b).2 = unitPart b := by
  unfold granaryWrite; split
  · rfl
  · split <;> simp (disch := decide)


/-! #### Pages and their waits -/

@[simp] theorem unitPart_modCtx (f : Ctx → Ctx) : unitPart (modCtx f b) = unitPart b := unitPart_of rfl rfl
@[simp] theorem unitPart_chargeNs (u since : Nat) : unitPart (chargeNs u since b) = unitPart b := unitPart_bump _ _ (by decide) (by decide)
@[simp] theorem unitPart_answer (s : Status) (v : Nat) : unitPart (answer s v b) = unitPart b :=
  unitPart_eq_iff.mpr ⟨rfl, rfl, rfl⟩
@[simp] theorem unitPart_setFrameEntry (f v : Nat) : unitPart (setFrameEntry f v b) = unitPart b := by unfold setFrameEntry; split <;> simp
@[simp] theorem unitPart_setUsed (j n : Nat) : unitPart (setUsed j n b) = unitPart b := unitPart_setReg _ _ (by unfold Off.ctxJobUsed; omega)
@[simp] theorem unitPart_freePage (p : Nat) : unitPart (freePage p b) = unitPart b := by
  unfold freePage; dsimp only; split
  · rfl
  · rw [unitPart_setUsed, unitPart_setFrameEntry]; exact unitPart_of rfl rfl
@[simp] theorem unitPart_qPut (q off : Nat) (v : List Byte) : unitPart (qPut q off v b) = unitPart b := by
  unfold qPut; split
  · rfl
  · split <;> simp
@[simp] theorem unitPart_qSet (q off n v : Nat) : unitPart (qSet q off n v b) = unitPart b := by simp [qSet]
@[simp] theorem unitPart_ptSet (q n v : Nat) : unitPart (ptSet q n v b) = unitPart b := by unfold ptSet; split <;> simp
@[simp] theorem unitPart_finishOp (t k : Nat) (s : Status) : unitPart (finishOp t k s b) = unitPart b := by unfold finishOp; split <;> exact unitPart_of rfl rfl
@[simp] theorem unitPart_unpark (t k : Nat) : unitPart (unpark t k b) = unitPart b := by
  unfold unpark; split
  · dsimp only; split <;> simp (disch := decide)
  · rfl
@[simp] theorem unitPart_failOp (t k : Nat) : unitPart (failOp t k b) = unitPart b := by
  rw [failOp, unitPart_finishOp, dropRow, failElsewhere]
  exact (unitPart_of rfl rfl).trans (unitPart_unpark ..)
@[simp] theorem unitPart_failParked (sel : Parked → Bool) : unitPart (failParked sel b) = unitPart b := foldl_keeps unitPart _ _ _ (by simp)
@[simp] theorem unitPart_pageInFails (expired : Bool) (p : PageIn) : unitPart (pageInFails expired p b) = unitPart b := by
  unfold pageInFails
  dsimp only
  rw [unitPart_failParked]
  split <;> split <;> simp (disch := decide) [dropPageIn]

@[simp] theorem unitPart_evictLow (j : Nat) : unitPart (evictLow j b) = unitPart b := by unfold evictLow; dsimp only; split <;> simp (disch := decide)

theorem unitPart_takeTensor {j n : Nat} {stack : Option Nat} {c : Block} (h : takeTensor j stack b = some (n, c)) : unitPart c = unitPart b := by
  unfold takeTensor at h
  split at h
  · simp at h
  · split at h
    · obtain ⟨-, rfl⟩ := Prod.mk.inj (Option.some.inj h); simp
    · simp at h

theorem unitPart_takePage {j n : Nat} {stack : Option Nat} {c : Block} (h : takePage j stack b = some (n, c)) : unitPart c = unitPart b := by
  have hand {f e : Nat} {d : Block} (hd : unitPart d = unitPart b) {r : Nat × Block} (hr : (freeIn d f).map (fun k =>
      (32 * f + k, evictLow j (setUsed j (jobUsed d j + 1) (setFrameEntry f (Nat.lor e (2 ^ k)) d)))) = some r) : unitPart r.2 = unitPart b := by
    obtain ⟨k, -, rfl⟩ := Option.map_eq_some_iff.mp hr
    exact (unitPart_evictLow ..).trans ((unitPart_setUsed ..).trans ((unitPart_setFrameEntry ..).trans hd))
  unfold takePage at h
  dsimp only at h
  split at h
  · simp at h
  · split at h
    · exact hand rfl h
    · split at h
      · exact hand (unitPart_modCtx ..) h
      · simp at h

theorem unitPart_installPage (q n : Nat) (v : List Byte) : unitPart (installPage q n v b).2 = unitPart b := by
  unfold installPage
  dsimp only
  split
  · rename_i r hr
    have htake : unitPart r.2 = unitPart b := by
      split at hr
      · simp at hr
      · exact unitPart_takePage b hr
    split
    · rfl
    · rw [unitPart_bump _ _ (by decide) (by decide), unitPart_qSet, unitPart_ptSet, unitPart_granaryWrite, htake]
  · rfl

@[simp] theorem unitPart_peerPage (j rank page : Nat) (w : Bool) (v : List Byte) : unitPart (peerPage j rank page w v b) = unitPart b := unitPart_of rfl rfl

@[simp] theorem unitPart_landPage (p : PageIn) : unitPart (landPage p b) = unitPart b := by
  unfold landPage
  dsimp only
  split
  · rw [dropPageIn, unitPart_modCtx]
    split <;> split <;> simp [unitPart_installPage]
  · split
    · simp
    · split
      · simp
      · split
        · rfl
        · rw [unitPart_bump _ _ (by decide) (by decide), unitPart_modCtx]

theorem unitPart_retryPageIns : unitPart (retryPageIns b) = unitPart b := foldl_keeps unitPart _ _ _ (by simp)

theorem unitPart_retryWaits : unitPart (retryWaits b) = unitPart b := by
  refine foldl_keeps unitPart _ _ _ fun c w => ?_
  have hend (d : Block) : unitPart (endWait w d) = unitPart d := by simp [endWait, chargeWait]
  have hgot (d : Block) : unitPart (stashGot w.stash w.job d) = unitPart d := by unfold stashGot; split <;> exact unitPart_of rfl rfl
  have hlost (d : Block) : unitPart (stashLost w.stash w.job d) = unitPart d := by unfold stashLost; split <;> exact unitPart_of rfl rfl
  split
  · rw [unitPart_answer, hlost, hend]
  · split
    · rename_i r hr
      have htake : unitPart r.2 = unitPart c := by
        split at hr
        · exact unitPart_takeTensor c hr
        · exact unitPart_takePage c hr
      rw [unitPart_answer, hgot, hend, htake]
    · rfl

theorem unitPart_retryAllocs : unitPart (retryAllocs b) = unitPart b := (unitPart_retryPageIns _).trans (unitPart_retryWaits b)

theorem unitPart_closeSessionPages (q : Nat) : unitPart (closeSessionPages q b) = unitPart b := by
  unfold closeSessionPages
  rw [unitPart_retryAllocs, unitPart_modCtx, unitPart_qSet, unitPart_qSet]
  refine foldl_keeps unitPart _ _ _ fun c i => ?_
  dsimp only
  split
  · rw [unitPart_ptSet]
    split
    · exact (unitPart_freePage ..).trans (unitPart_modCtx ..)
    · split
      · exact unitPart_peerPage ..
      · rfl
  · rfl

theorem unitPart_settleCloses : unitPart (settleCloses b) = unitPart b := by
  refine foldl_keeps unitPart _ _ _ fun c q => ?_
  split
  · exact unitPart_closeSessionPages ..
  · rfl

/-! ### Clearing a unit leaves the bring-up state alone -/

theorem boot_of_restPart {b c : Block} (h : restPart c = restPart b) : c.boot = b.boot := by
  obtain ⟨-, ⟨-, hboot, -⟩, -⟩ := restPart_eq_iff.mp h
  exact hboot

@[simp] theorem boot_setReg (u o v : Nat) : (setReg u o v b).boot = b.boot := rfl
@[simp] theorem boot_setFld (u : Nat) (f : Field) (v i : Nat) : (setFld u f v b i).boot = b.boot := rfl
@[simp] theorem boot_notify (u : Nat) (f : Field) (e : Ev) (a : Nat) : (notify u f e a b).boot = b.boot := boot_of_restPart (by simp)
@[simp] theorem boot_granaryAtomic (iss : Issuer) (op a x y : Nat) : (granaryAtomic iss op a x y b).2.2.boot = b.boot := boot_of_restPart (by simp)
theorem boot_settleCloses : (settleCloses b).boot = b.boot := boot_of_unitPart (unitPart_settleCloses b)
@[simp] theorem boot_setOwn (u h : Nat) : (setOwn u h b).boot = b.boot := boot_of_restPart (restPart_setOwn b u h)

theorem boot_clearMbx (u : Nat) : (clearMbx u b).boot = b.boot := by
  rw [clearMbx, boot_setReg]
  exact foldl_keeps Block.boot _ _ _ fun _ _ => rfl
theorem boot_clearTile (t : Nat) : (clearTile t b).boot = b.boot := rfl
theorem boot_clearGleaner (g : Nat) : (clearGleaner g b).boot = b.boot := by
  unfold clearGleaner
  dsimp only
  split
  · rfl
  · exact boot_granaryAtomic ..

/-! ### The reset that a HOLD begins at a tile or a gleaner (R512) -/

variable {b} {u : Nat}

/-- Clearing a tile or a gleaner leaves the bring-up state alone. -/
theorem boot_clearUnit (h : kindOf u = some .tile ∨ kindOf u = some .gleaner) : (clearUnit u b).boot = b.boot := by
  obtain h | h := h
  · rw [clearUnit, h]; exact (boot_clearTile ..).trans (boot_clearMbx ..)
  · rw [clearUnit, h]; exact (boot_clearGleaner ..).trans (boot_clearMbx ..)

theorem loads_clearDrained (h : kindOf u = some .tile ∨ kindOf u = some .gleaner) : (clearDrained u b).boot.loads = b.boot.loads := by
  unfold clearDrained
  split
  · split
    · rw [boot_clearUnit h]; rfl
    · rfl
  · rfl

theorem loads_beginReset (h : kindOf u = some .tile ∨ kindOf u = some .gleaner) (out : Nat) (held : Bool) :
    (beginReset u out held b).boot.loads = b.boot.loads := by
  unfold beginReset
  split
  · split <;> rfl
  · dsimp only
    rw [loads_clearDrained h]
    obtain h | h := h
    · rw [h]
      dsimp only
      rw [foldl_keeps Block.boot (fun b x => settleCloses (abandonBatch x b)) _ _ fun c x => boot_settleCloses _, boot_setFld, boot_setFld, boot_setOwn]
      rfl
    · rw [h]
      dsimp only
      rw [boot_setFld, boot_setFld, boot_setOwn]
      rfl

theorem loads_hold (h : kindOf u = some .tile ∨ kindOf u = some .gleaner) (out : Nat) : (hold u true out b).boot.loads = b.boot.loads := by
  have hreach : resetReach u = [u] := by obtain h | h := h <;> rw [resetReach, h]
  have hchip : u ≠ uChip := by rintro rfl; exact absurd h (by decide)
  have hgl : forGleaners u = false := by obtain h | h := h <;> rw [forGleaners, h] <;> rfl
  unfold hold
  rw [if_neg hchip]
  split
  · rfl
  · simp [setHold, startReset, hreach, hchip, hgl, loads_beginReset h]


variable {b : Block}

/-! ### Bring-up actions (R502) -/

/-- BUSY stands. -/
def stageBusy (b : Block) : Block := setFld uChip Fld.sysBootStageBusy 1 b

/-- An action runs, with the outcome and the detail found. -/
def actionRuns (act : Nat) (r : Status × Nat × Block) : Block := modBoot (fun x => { x with running := some ⟨act, r.1, r.2.1⟩ }) r.2.2

section
variable {act : Nat} {stages : List Nat} {run : Block → Status × Nat × Block}

/-- While another action runs, or out of its stage, an action only sets CMD_REJECT. -/
theorem bootAction_refused (hon : mainOn b = true) (h : b.boot.running.isSome = true ∨ bootStage b ∉ stages) :
    bootAction act stages run b = setSq uChip Fld.sysBootStatusCmdReject b := by
  unfold bootAction
  rw [hon]
  simpa using fun hnone hmem => absurd h (by simp [hnone, hmem])

theorem bootAction_runs (hon : mainOn b = true) (hnone : b.boot.running = none) (hmem : bootStage b ∈ stages) :
    bootAction act stages run b = actionRuns act (run (stageBusy b)) := by
  simp [bootAction, hon, hnone, hmem, actionRuns, stageBusy]

end

/-- A state in which an action runs that found `r`. -/
structure ActionRan (act : Nat) (r : Status × Nat × Block) (c : Block) : Prop where
  boot : c.boot = { r.2.2.boot with running := some ⟨act, r.1, r.2.1⟩ }
  reg : ∀ u o, Machine.reg c u o = Machine.reg r.2.2 u o
  own : ∀ u, ownOf c u = ownOf r.2.2 u
  retired : c.grn.retired = r.2.2.grn.retired
  qcp : c.qcp = r.2.2.qcp

theorem ActionRan.running {act : Nat} {r : Status × Nat × Block} {c : Block} (h : ActionRan act r c) : c.boot.running = some ⟨act, r.1, r.2.1⟩ := by
  rw [h.boot]

theorem actionRan_actionRuns (act : Nat) (r : Status × Nat × Block) : ActionRan act r (keepTally (fun _ => actionRuns act r) b) :=
  ⟨rfl, fun _ _ => rfl, fun _ => rfl, rfl, rfl⟩

theorem answersWith_action {i : Instr} {s : State} {p : Block → Prop} {g : Block → Block} {act : Nat} {r : Status × Nat × Block}
    (he : exec i s = s.runMain g) (hon : mainOn s.blk = true) (hrun : g s.blk = actionRuns act r) (hp : ∀ c, ActionRan act r c → p c) :
    AnswersWith i s p :=
  answersWith_of_acts (f := fun _ => actionRuns act r) (acts_main he hon hrun) (hp _ (actionRan_actionRuns act r))

/-- BUSY changes nothing but its bit. -/
theorem stageBusy_busy : flag (stageBusy b) uChip Fld.sysBootStageBusy = true := by
  rw [stageBusy, flag, fld_setFld_same _ _ _ (by decide) (by decide)]
  rfl

/-! ### SPINES: the lane exclusions of the store (R502) -/

/-- A link takes the exclusions and the count that the store holds of it. -/
def spineLoad (b : Block) (l : Nat) : Block :=
  setFld (uLink l) Fld.jxlLanemapUsed (b.tly.store.laneUsed.get 0 l) (setReg (uLink l) Off.jxlLanemap (b.tly.store.lanes.get 0 l) b)

/-- The links up to n have taken theirs. -/
def spinesLoaded (n : Nat) (b : Block) : Block := (List.range n).foldl spineLoad b

theorem bootSpines_runs (hon : mainOn b = true) (hnone : b.boot.running = none) (h : bootStage b = 0) :
    bootSpines b = actionRuns 0 (.ok, 0, spinesLoaded 24 (stageBusy b)) := bootAction_runs hon hnone (by simp [h])

theorem tly_spinesLoaded (n : Nat) : (spinesLoaded n b).tly = b.tly := foldl_keeps Block.tly spineLoad _ b fun _ _ => rfl

/-- A field of the lane map of another link stays. -/
theorem reg_spineLoad_other {u o l : Nat} (h : regKey u o ≠ regKey (uLink l) Off.jxlLanemap) : reg (spineLoad b l) u o = reg b u o := by
  rw [spineLoad, setFld, reg_setReg, if_neg (show regKey u o ≠ regKey (uLink l) (Fld.jxlLanemapUsed.off + Fld.jxlLanemapUsed.stride * 0) from h),
    reg_setReg, if_neg h]

theorem fld_spineLoad_used (l : Nat) : fld (spineLoad b l) (uLink l) Fld.jxlLanemapUsed = b.tly.store.laneUsed.get 0 l % 16 :=
  fld_setFld_same _ _ _ (by decide) (by decide)

theorem fld_spineLoad_txex (l : Nat) : fld (spineLoad b l) (uLink l) Fld.jxlLanemapTxex = b.tly.store.lanes.get 0 l % 256 := by
  rw [spineLoad, fld_setFld_beside (f := Fld.jxlLanemapUsed) (g := Fld.jxlLanemapTxex) _ _ _ rfl (by decide) (by decide) (.inl (by decide)), fld,
    show Fld.jxlLanemapTxex.off + Fld.jxlLanemapTxex.stride * 0 = Off.jxlLanemap from rfl, reg_setReg_same, bitsOf, Nat.shiftRight_eq_div_pow]
  simp only [Fld.jxlLanemapTxex]
  omega

theorem fld_spineLoad_rxex (l : Nat) : fld (spineLoad b l) (uLink l) Fld.jxlLanemapRxex = b.tly.store.lanes.get 0 l / 256 % 256 := by
  rw [spineLoad, fld_setFld_beside (f := Fld.jxlLanemapUsed) (g := Fld.jxlLanemapRxex) _ _ _ rfl (by decide) (by decide) (.inl (by decide)), fld,
    show Fld.jxlLanemapRxex.off + Fld.jxlLanemapRxex.stride * 0 = Off.jxlLanemap from rfl, reg_setReg_same, bitsOf, Nat.shiftRight_eq_div_pow]
  simp only [Fld.jxlLanemapRxex]
  omega

/-- What each link takes does not depend on the links before it, and the links after it leave it alone. -/
theorem fld_spinesLoaded {g : Field} (hg : g.off + g.stride * 0 = Off.jxlLanemap) {l x : Nat}
    (h : ∀ c : Block, c.tly = b.tly → fld (spineLoad c l) (uLink l) g = x) : ∀ n, l < n → fld (spinesLoaded n b) (uLink l) g = x := by
  intro n
  induction n with
  | zero => exact fun hl => absurd hl (Nat.not_lt_zero l)
  | succ n ih =>
    intro hl
    have hstep : spinesLoaded (n + 1) b = spineLoad (spinesLoaded n b) n := by
      rw [spinesLoaded, List.range_succ, List.foldl_append]; rfl
    rw [hstep]
    obtain hlt | rfl := Nat.lt_succ_iff_lt_or_eq.mp hl
    · have hne : regKey (uLink l) (g.off + g.stride * 0) ≠ regKey (uLink n) Off.jxlLanemap := by
        rw [hg, ne_eq, regKey_inj _ _ _ _ (by decide) (by decide)]
        unfold uLink
        omega
      rw [fld_of_reg (reg_spineLoad_other hne)]
      exact ih hlt
    · exact h _ (tly_spinesLoaded _)

/-- Every link has the exclusions and the count that the store held when BUSY was set. -/
theorem spinesLoaded_exclusions {l : Nat} (hl : l < 24) :
    fld (spinesLoaded 24 (stageBusy b)) (uLink l) Fld.jxlLanemapTxex = b.tly.store.lanes.get 0 l % 256 ∧
    fld (spinesLoaded 24 (stageBusy b)) (uLink l) Fld.jxlLanemapRxex = b.tly.store.lanes.get 0 l / 256 % 256 ∧
    fld (spinesLoaded 24 (stageBusy b)) (uLink l) Fld.jxlLanemapUsed = b.tly.store.laneUsed.get 0 l % 16 :=
  ⟨fld_spinesLoaded rfl (fun c hc => by rw [fld_spineLoad_txex, hc]; rfl) 24 hl,
    fld_spinesLoaded rfl (fun c hc => by rw [fld_spineLoad_rxex, hc]; rfl) 24 hl,
    fld_spinesLoaded rfl (fun c hc => by rw [fld_spineLoad_used, hc]; rfl) 24 hl⟩

/-- The stage register is no link's. -/
theorem flag_spinesLoaded_busy (n : Nat) : flag (spinesLoaded n b) uChip Fld.sysBootStageBusy = flag b uChip Fld.sysBootStageBusy := by
  refine foldl_keeps (fun c => flag c uChip Fld.sysBootStageBusy) spineLoad _ b fun c l => flag_of_reg (reg_spineLoad_other ?_)
  rw [ne_eq, regKey_inj _ _ _ _ (by decide) (by decide)]
  exact fun h => absurd h.2 (by decide)

/-! ### TRAIN: channels that fail are retired, eight at most (R503, R231) -/

/-- The retired channels, in the order of their retirement. -/
def retiredChs (b : Block) : List Nat := b.grn.retired.map (·.ch)

theorem retirementOf_isSome (ch : Nat) : (retirementOf b ch).isSome = true ↔ ch ∈ retiredChs b := by
  simp [retirementOf, retiredChs, List.find?_isSome]

theorem retiredChs_of_grn {b c : Block} (h : c.grn = b.grn) : retiredChs c = retiredChs b := by rw [retiredChs, retiredChs, h]

theorem retiredChs_reformChannel (ch : Nat) : retiredChs (reformChannel ch b) = retiredChs b := by
  simp only [retiredChs, reformChannel, List.map_map]
  refine List.map_congr_left fun r _ => ?_
  dsimp only [Function.comp_apply]
  split <;> rfl

theorem retiredChs_calResult_ok (ch task : Nat) : retiredChs (calResult ch task true b) = retiredChs b := by
  unfold calResult
  simp only [if_true]
  split <;> rfl

/-- The controller of a failed channel stops. -/
def channelFails (ch : Nat) (b : Block) : Block :=
  setOwn (uChannel ch) hFailed { b with grn := { b.grn with chFailed := if b.grn.chFailed.contains ch then b.grn.chFailed else b.grn.chFailed ++ [ch] } }

/-- A channel joins the retired ones, and the tally's records. -/
def channelRetires (ch : Nat) (b : Block) : Block :=
  bbRecord 6 .tlyRetire (leBytes 4 (2 ^ 31 + ch))
    { b with grn := { b.grn with retired := b.grn.retired ++ [⟨ch, false, targetsFor b ch⟩], chFailed := b.grn.chFailed.filter (· != ch) } }

theorem retiredChs_channelFails (ch : Nat) : retiredChs (channelFails ch b) = retiredChs b := by
  rw [retiredChs, channelFails, (setOwn_frame _ _ _).1]
  rfl

theorem retiredChs_channelRetires (ch : Nat) : retiredChs (channelRetires ch b) = retiredChs b ++ [ch] := by
  rw [retiredChs, channelRetires, bbRecord, (bbPush_frame _ _).1]
  exact List.map_append

theorem retireChannel_fresh {ch : Nat} (h : (retirementOf b ch).isSome = false) :
    retireChannel ch true b = if 8 ≤ (channelFails ch b).grn.retired.length then channelFails ch b
      else notify uChip Fld.grnStatusChRetired .grnChannelRetired ch
        (if !(groupHolds { b with grn := { b.grn with chFailed := b.grn.chFailed.filter (· != ch) } } 63)
          then reformChannel ch (channelRetires ch (channelFails ch b)) else channelRetires ch (channelFails ch b)) := by
  unfold retireChannel
  simp only [h, Bool.true_or, Bool.not_true, Bool.or_self, Bool.false_eq_true, if_false]
  rfl

/-- A failed channel is retired while fewer than eight are. -/
theorem retiredChs_retireChannel {ch : Nat} (h : ch ∉ retiredChs b) :
    retiredChs (retireChannel ch true b) = retiredChs b ++ [ch].take (8 - (retiredChs b).length) := by
  have hnone : (retirementOf b ch).isSome = false := by rw [← Bool.not_eq_true, retirementOf_isSome]; exact h
  have hlen : (channelFails ch b).grn.retired.length = (retiredChs b).length := by rw [← retiredChs_channelFails ch]; exact (List.length_map _).symm
  rw [retireChannel_fresh hnone, hlen]
  split
  · rename_i h8
    rw [retiredChs_channelFails, Nat.sub_eq_zero_of_le h8]
    exact (List.append_nil _).symm
  · rename_i h8
    rw [List.take_of_length_le (by rw [List.length_singleton]; omega), retiredChs_of_grn (notify_frame _ _ _ _ _).1]
    split
    · rw [retiredChs_reformChannel, retiredChs_channelRetires, retiredChs_channelFails]
    · rw [retiredChs_channelRetires, retiredChs_channelFails]

/-- Of several failed channels the first ones are retired, up to eight in all. -/
theorem retiredChs_retireChannels (l : List Nat) : ∀ b : Block, l.Nodup → (∀ ch ∈ l, ch ∉ retiredChs b) →
    retiredChs (l.foldl (fun b ch => retireChannel ch true b) b) = retiredChs b ++ l.take (8 - (retiredChs b).length) := by
  induction l with
  | nil => simp
  | cons ch l ih =>
    intro b hnd hfresh
    obtain ⟨hch, hnd⟩ := List.nodup_cons.mp hnd
    have hone := retiredChs_retireChannel (hfresh ch List.mem_cons_self)
    rw [List.foldl_cons, ih _ hnd, hone]
    · by_cases h8 : 8 ≤ (retiredChs b).length
      · simp [Nat.sub_eq_zero_of_le h8]
      · obtain ⟨k, hk⟩ : ∃ k, 8 - (retiredChs b).length = k + 1 := ⟨7 - (retiredChs b).length, by omega⟩
        have hk' : 8 - ((retiredChs b).length + 1) = k := by omega
        simp [hk, hk', List.append_assoc]
    · intro x hx hmem
      rw [hone] at hmem
      obtain hold | hnew := List.mem_append.mp hmem
      · exact hfresh x (List.mem_cons_of_mem _ hx) hold
      · exact hch (List.mem_singleton.mp (List.mem_of_mem_take hnew) ▸ hx)

theorem nodup_eraseDups {α : Type} [BEq α] [LawfulBEq α] (l : List α) : l.eraseDups.Nodup := by
  match l with
  | [] => exact List.nodup_nil
  | a :: l =>
    rw [List.eraseDups_cons, List.nodup_cons]
    refine ⟨fun h => ?_, nodup_eraseDups _⟩
    have := List.mem_filter.mp (List.mem_eraseDups.mp h)
    simp at this
termination_by l.length
decreasing_by exact Nat.lt_succ_of_le (List.length_filter_le _ _)

/-- The channels that failed the training of theirs, each once, without those retired before. -/
def failedChannels (b : Block) (failed : List Nat) : List Nat := failed.eraseDups.filter fun ch => (retirementOf b ch).isNone

/-- The retired channels are formed anew, and the others that work have calibrated. -/
def channelsTrained (bad : List Nat) (b : Block) : Block :=
  allChannels.foldl (fun b ch => if channelWorks b ch && !(bad.contains ch) then calResult ch 2 true (calResult ch 1 true b) else b)
    (b.grn.retired.foldl (fun b r => if r.reformed then b else reformChannel r.ch b) b)

theorem retiredChs_channelsTrained (bad : List Nat) : retiredChs (channelsTrained bad b) = retiredChs b := by
  refine (foldl_keeps retiredChs _ _ _ fun c ch => ?_).trans (foldl_keeps retiredChs _ _ _ fun c r => ?_)
  · split
    · rw [retiredChs_calResult_ok, retiredChs_calResult_ok]
    · rfl
  · split
    · rfl
    · exact retiredChs_reformChannel _

/-- What TRAIN leaves where REFCLK0 runs. -/
def trained (failed : List Nat) (b : Block) : Block :=
  (failedChannels b failed).foldl (fun b ch => retireChannel ch true b) (channelsTrained (failedChannels b failed) b)

theorem retiredChs_trained (failed : List Nat) :
    retiredChs (trained failed b) = retiredChs b ++ (failedChannels b failed).take (8 - (retiredChs b).length) := by
  have hnodup : (failedChannels b failed).Nodup := (nodup_eraseDups _).filter _
  rw [trained, retiredChs_retireChannels _ _ hnodup, retiredChs_channelsTrained]
  intro ch hch hret
  rw [retiredChs_channelsTrained, ← retirementOf_isSome] at hret
  obtain ⟨-, hnone⟩ := List.mem_filter.mp hch
  rw [Option.isNone_iff_eq_none.mp hnone] at hret
  exact absurd hret (by decide)

theorem retired_length (b : Block) : b.grn.retired.length = (retiredChs b).length := (List.length_map _).symm

theorem retiredChs_stageBusy : retiredChs (stageBusy b) = retiredChs b := rfl
theorem failedChannels_stageBusy (failed : List Nat) : failedChannels (stageBusy b) failed = failedChannels b failed := rfl

/-- As many as have room are retired. -/
theorem trained_length {failed : List Nat} : (trained failed (stageBusy b)).grn.retired.length =
    max b.grn.retired.length (min 8 (b.grn.retired.length + (failedChannels b failed).length)) := by
  rw [retired_length, retiredChs_trained, List.length_append, List.length_take, retiredChs_stageBusy, failedChannels_stageBusy, retired_length b]
  omega

/-- Where all have room all are retired. -/
theorem trained_all {failed : List Nat} (h : b.grn.retired.length + (failedChannels b failed).length ≤ 8) {ch : Nat} (hch : ch ∈ failedChannels b failed) :
    (retirementOf (trained failed (stageBusy b)) ch).isSome = true := by
  rw [retired_length] at h
  rw [retirementOf_isSome, retiredChs_trained, retiredChs_stageBusy, failedChannels_stageBusy, List.take_of_length_le (by omega)]
  exact List.mem_append_right _ hch

theorem bootTrain_stopped (hon : mainOn b = true) (hnone : b.boot.running = none) (h : bootStage b = 1) (failed : List Nat) (href : b.tly.ref0 = false) :
    bootTrain failed b = actionRuns 1 (.opFailed, 0, stageBusy b) :=
  (bootAction_runs hon hnone (by simp [h])).trans (by simp [show (stageBusy b).tly = b.tly from rfl, href])

theorem bootTrain_runs (hon : mainOn b = true) (hnone : b.boot.running = none) (h : bootStage b = 1) (failed : List Nat) (href : b.tly.ref0 = true) :
    bootTrain failed b = actionRuns 1 (if 8 < (failedChannels b failed).length then .opFailed else .ok,
      (trained failed (stageBusy b)).grn.retired.length - b.grn.retired.length, trained failed (stageBusy b)) := by
  have hbefore : (channelsTrained (failedChannels (stageBusy b) failed) (stageBusy b)).grn.retired.length = b.grn.retired.length := by
    rw [retired_length, retiredChs_channelsTrained]
    exact (retired_length b).symm
  have href' : (stageBusy b).tly.ref0 = true := href
  rw [← hbefore, show failedChannels b failed = failedChannels (stageBusy b) failed from rfl, bootTrain, bootAction_runs hon hnone (by simp [h])]
  unfold trained channelsTrained failedChannels
  generalize allChannels = chs
  simp only [href', Bool.not_true, Bool.false_eq_true, if_false]

/-! ### VERIFY: the staged image (R505) -/

/-- Is the header what Table 14.3 says, with its components? -/
def headerOk (b : Block) : Bool := decide (numAt b 0 4 = 0x51583430) && decide (numAt b 4 4 = 1) && componentsOk b
/-- Do the digest and the signature hold, and is the version not below the floor? -/
def imageSigned (b : Block) : Bool :=
  decide (sha512 (bytesAt b 160 (imageLen b - 160)) = bytesAt b 32 64) &&
    edVerify Config.firmwareKey (bytesAt b 0 96) (bytesAt b 96 64) && decide (b.tly.store.floor ≤ numAt b 16 4)
/-- What VERIFY finds where every unit of the image is staged and its read answers `st`. -/
def verdictOf (st : Status) (b : Block) : Status :=
  if st ≠ .ok then st else if !headerOk b then .badArgument else if !imageSigned b then .authFailed else .ok

theorem boot_touchRanges (u : Nat) (rs : List (Nat × Nat)) : (touchRanges u rs b).2.boot = b.boot :=
  foldl_keeps (fun x : Status × Block => x.2.boot) _ rs (Status.ok, b) fun _ _ => boot_of_restPart (restPart_granaryRead _ _ _ _)

theorem verifyImage_missing {u : Nat} (h : firstMissing b = some u) : verifyImage b = (.notPresent, setReg uChip Off.sysBootMissing u b) := by
  rw [verifyImage, h]

theorem verifyImage_read {st : Status} {c : Block} (h : firstMissing b = none)
    (hr : touchRanges uReeve [(0, min stageBytes (imageLen b))] b = (st, c)) : verifyImage b = (verdictOf st c, c) := by
  have hhead : (numAt c 0 4 ≠ 0x51583430 ∨ numAt c 4 4 ≠ 1 ∨ (!componentsOk c) = true) ↔ (!headerOk c) = true := by
    simp [headerOk, Classical.or_iff_not_imp_left]
  have hsigned : (!imageSigned c) = true ↔ (sha512 (bytesAt c 160 (imageLen c - 160)) ≠ bytesAt c 32 64 ∨
      (!edVerify Config.firmwareKey (bytesAt c 0 96) (bytesAt c 96 64)) = true) ∨ numAt c 16 4 < c.tly.store.floor := by
    simp [imageSigned, Classical.or_iff_not_imp_left]
  unfold verifyImage verdictOf
  simp only [h, hr, hhead, hsigned]
  by_cases hst : st ≠ .ok
  · rw [if_pos hst, if_pos hst]
  · rw [if_neg hst, if_neg hst]
    split
    · rfl
    · split
      · rename_i hd
        rw [if_pos (.inl hd)]
      · rename_i hd
        by_cases hfl : numAt c 16 4 < c.tly.store.floor
        · rw [if_pos hfl, if_pos (.inr hfl)]
        · rw [if_neg hfl, if_neg (not_or.mpr ⟨hd, hfl⟩)]

/-- The image that VERIFY keeps. -/
def imageKept (r : Status × Block) : Block := if r.1 = .ok then modBoot (fun x => { x with verified := some (imageNow r.2) }) r.2 else r.2

theorem bootVerify_runs (hon : mainOn b = true) (hnone : b.boot.running = none) (h : bootStage b = 2) :
    bootVerify b = actionRuns 2 ((verifyImage (stageBusy b)).1, 0, imageKept (verifyImage (stageBusy b))) :=
  bootAction_runs hon hnone (by simp [h])

theorem verified_imageKept (st : Status) (c : Block) :
    (imageKept (st, c)).boot.verified = if st = .ok then some (imageNow c) else c.boot.verified := by
  unfold imageKept
  dsimp only
  split <;> rfl

/-! ### LOAD, SELFTEST and START (R506, R509, R510) -/

theorem bootLoad_runs (hon : mainOn b = true) (hnone : b.boot.running = none) (h : bootStage b = 3) (lost : List (Nat × Nat)) :
    bootLoad lost b = actionRuns 3 (.ok, 0, settleLoads (startLoad 4 (verifiedImage b).lib allGleaners lost
      (startLoad 0 (verifiedImage b).seq allTiles lost (stageBusy b)))) :=
  bootAction_runs hon hnone (by simp [h])

/-- The lofts of the tiles in service are wiped, and their self test runs. -/
def tilesTested (b : Block) : Block :=
  (List.range 64).foldl (fun b t => if ownOf b (uTile t) < hOffline then modTile t (fun x => { x with selfTest := true }) b else b)
    ((List.range 64).foldl (fun b t => if ownOf b (uTile t) < hOffline then wipeLoft t b else b) b)

/-- Units are taken out of service. -/
def takenOffline (us : List Nat) (b : Block) : Block := us.foldl (fun b u => setOwn u hOffline b) b

/-- The units that failed and are still in service, each once. -/
def failedUnits (x : List Nat × Block) : List Nat := x.1.eraseDups.filter fun u => decide (ownOf x.2 u < hOffline)

/-- What SELFTEST finds of the granary's banks, on top of the units known to fail. -/
def banksRead (failed : List Nat) (b : Block) : List Nat × Block := allChannels.foldl readBanks (failed, b)

/-- What SELFTEST leaves. -/
def selfTested (x : List Nat × Block) : Block := takenOffline (failedUnits x) (tilesTested x.2)

theorem bootSelfTest_runs (hon : mainOn b = true) (hnone : b.boot.running = none) (h : bootStage b = 4 ∨ bootStage b = 5) (failed : List Nat) :
    bootSelfTest failed b = actionRuns 4 (if inService (selfTested (banksRead failed (stageBusy b))) then .ok else .opFailed,
      (failedUnits (banksRead failed (stageBusy b))).length, selfTested (banksRead failed (stageBusy b))) := by
  rw [bootSelfTest, bootAction_runs hon hnone (by simpa using h)]
  unfold selfTested banksRead tilesTested takenOffline failedUnits
  generalize allChannels = chs
  generalize List.range 64 = ts
  rfl

theorem own_tilesTested : (tilesTested b).face.own = b.face.own := by
  unfold tilesTested
  generalize List.range 64 = ts
  refine (foldl_keeps (fun c : Block => c.face.own) _ _ _ fun c t => ?_).trans (foldl_keeps (fun c : Block => c.face.own) _ _ _ fun c t => ?_)
  · split <;> rfl
  · split <;> rfl

theorem inService_of_own {c : Block} (h : ∀ u, ownOf c u = ownOf b u) : inService c = inService b := by
  simp only [inService, h]

theorem ownOf_setOwn (u v h : Nat) : ownOf (setOwn u h b) v = if v = u then h else ownOf b v := by
  rw [ownOf, own_setOwn]
  split
  · rename_i hv; rw [hv]; simp
  · rename_i hv; simp [ownOf, hv]

/-- A unit taken out of service stays out, and no other changes. -/
theorem ownOf_takenOffline (v : Nat) (us : List Nat) : ∀ b : Block, ownOf (takenOffline us b) v = if v ∈ us then hOffline else ownOf b v := by
  induction us with
  | nil => exact fun _ => (if_neg List.not_mem_nil).symm
  | cons u us ih =>
    intro b
    rw [takenOffline, List.foldl_cons, ← takenOffline, ih, ownOf_setOwn]
    by_cases hm : v ∈ us <;> by_cases hv : v = u <;> simp [hm, hv]

/-- Reading banks only adds to the units that fail. -/
theorem mem_readBanks {u : Nat} (acc : List Nat × Block) (ch : Nat) (h : u ∈ acc.1) : u ∈ (readBanks acc ch).1 := by
  unfold readBanks
  split
  · exact h
  · next hgo =>
    clear hgo
    generalize List.range 16 = ks
    induction ks generalizing acc with
    | nil => exact h
    | cons k ks ih =>
      rw [List.foldl_cons]
      refine ih _ ?_
      split
      · dsimp only
        split
        · exact h
        · exact List.mem_append_left _ h
      · exact h

theorem mem_banksRead {u : Nat} {failed : List Nat} (h : u ∈ failed) : u ∈ (banksRead failed b).1 := by
  unfold banksRead
  generalize allChannels = chs
  generalize hacc : (failed, b) = acc
  have hm : u ∈ acc.1 := by rw [← hacc]; exact h
  clear hacc
  induction chs generalizing acc with
  | nil => exact hm
  | cons ch chs ih => exact ih _ (mem_readBanks _ _ hm)

theorem selfTested_offline {u : Nat} {x : List Nat × Block} (h : u ∈ x.1) : hOffline ≤ ownOf (selfTested x) u := by
  rw [selfTested, ownOf_takenOffline]
  split
  · exact Nat.le_refl _
  · rename_i hm
    refine Decidable.byContradiction fun hlt => ?_
    rw [ownOf, own_tilesTested] at hlt
    exact hm (List.mem_filter.mpr ⟨List.mem_eraseDups.mpr h, decide_eq_true (Nat.lt_of_not_le hlt)⟩)

/-- The verified image's digest, versions and programs are the module's. -/
def firmwareTaken (img : FwImage) (b : Block) : Block :=
  modBoot (fun x => { x with
    fwDigest := img.digest
    fwVersion := img.version
    fwSvn := img.svn
    reeve := img.reeve
    programs := [⟨0, 0xFF, 0, img.seq.length, 0, sha512 img.seq⟩, ⟨1, 0xFF, 0, img.lib.length, 0, sha512 img.lib⟩] }) b

/-- The boot ROM's sessions are closed. -/
def romClosed (b : Block) : Block := modQcp (fun q => { q with sessions := q.sessions.filter fun s => !s.rom }) b

theorem bootStart_runs (hon : mainOn b = true) (hnone : b.boot.running = none) (h : bootStage b = 5) :
    bootStart b = actionRuns 5 (.ok, 0, setDevState dsBoot (romClosed (firmwareTaken (verifiedImage b) (stageBusy b)))) :=
  bootAction_runs hon hnone (by simp [h])

theorem setDevState_leaves (n : Nat) : (setDevState n b).boot = b.boot ∧ (setDevState n b).qcp = b.qcp := by
  unfold setDevState
  dsimp only
  split
  · exact ⟨rfl, rfl⟩
  · exact ⟨boot_notify .., (notify_frame _ _ _ _ _).2.2.2.2.2.2.2.1⟩

theorem devState_setDevState {n : Nat} (h : n < 16) : devState (setDevState n b) = n := by
  unfold setDevState
  dsimp only
  split
  · assumption
  · have hreg (c : Block) (a : Nat) : reg (notify uQcp Fld.qcpStatusStateChange .qcpStateChange a c) uQcp (Fld.qcpDevstateState.off + Fld.qcpDevstateState.stride * 0) =
        reg c uQcp (Fld.qcpDevstateState.off + Fld.qcpDevstateState.stride * 0) :=
      reg_notify_own _ _ _ _ _ (by decide) (by decide) (by decide)
    rw [devState, fld_of_reg (hreg _ _), fld_setFld_same _ _ _ (by decide) (by decide)]
    exact Nat.mod_eq_of_lt h

/-! ### The end of an action (R502) -/

/-- What SYS_BOOT_RESULT says of an action. -/
def resultOf (a : Action) : Nat := statusCode a.status * 2 ^ 28 + a.act * 2 ^ 24 + a.detail

/-- No action runs, nor a self test. -/
def actionGone (a : Action) (b : Block) : Block :=
  let b := modBoot (fun x => { x with running := none }) b
  if a.act = 4 then (List.range 64).foldl (fun b t => modTile t (fun x => { x with selfTest := false }) b) b else b

/-- An action that is done leads to the next stage. -/
def stageMoved (a : Action) (b : Block) : Block := if a.status = .ok then setFld uChip Fld.sysBootStageStage (stageAfter a.act) b else b

/-- The result is shown, and in the tally's records. -/
def resultShown (a : Action) (b : Block) : Block :=
  tallyRecord 7 .tlyBootAction (resultOf a) (setReg uChip Off.sysBootResult (resultOf a) (setFld uChip Fld.sysBootStageBusy 0 b))

/-- The status bit and the event of the outcome. -/
def outcomeTold (a : Action) (b : Block) : Block :=
  if a.status = .ok then notify uChip Fld.sysBootStatusDone .sysBootDone (resultOf a % 2 ^ 28) b
  else notify uChip Fld.sysBootStatusFailed .sysBootFail (resultOf a) b

/-- After SPINES the links begin to train. -/
def linksFreed (a : Action) (b : Block) : Block := if a.act = 0 ∧ a.status = .ok then releaseLinks b else b

theorem bootActionEnd_over {a : Action} (hr : b.boot.running = some a) (h : a.act ≠ 3 ∨ b.boot.loads = []) :
    bootActionEnd b = linksFreed a (outcomeTold a (resultShown a (stageMoved a (actionGone a b)))) := by
  have hgo : ¬(a.act = 3 ∧ (!b.boot.loads.isEmpty) = true) := by
    rintro ⟨h3, hl⟩
    obtain h | h := h
    · exact h h3
    · simp [h] at hl
  unfold bootActionEnd
  simp only [hr, if_neg hgo]
  rfl

theorem bootActionEnd_loading {a : Action} (hr : b.boot.running = some a) (h3 : a.act = 3) (hl : b.boot.loads ≠ []) : bootActionEnd b = b := by
  unfold bootActionEnd
  simp [hr, h3, hl]

theorem boot_bbPush (r : BbRec) : (bbPush r b).boot = b.boot := boot_of_restPart (by simp)

theorem face_actionGone (a : Action) : (actionGone a b).face = b.face := by
  unfold actionGone
  dsimp only
  split
  · generalize List.range 64 = ts
    exact foldl_keeps Block.face _ _ _ fun _ _ => rfl
  · rfl

theorem running_actionGone (a : Action) : (actionGone a b).boot.running = none := by
  unfold actionGone
  dsimp only
  split
  · generalize List.range 64 = ts
    exact foldl_keeps (fun c : Block => c.boot.running) _ ts _ fun _ _ => rfl
  · rfl

/-- No register but a link's changes when the links begin to train, and nothing of the bring-up state. -/
theorem linksFreed_leaves (a : Action) {u : Nat} (hu : u < 128) {o : Nat} (ho : o < 2 ^ 20) :
    reg (linksFreed a b) u o = reg b u o ∧ (linksFreed a b).boot = b.boot := by
  unfold linksFreed
  split
  · unfold releaseLinks
    refine ⟨foldl_keeps (fun c => reg c u o) _ _ b fun c l => ?_, foldl_keeps Block.boot _ _ b fun c l => ?_⟩
    · have hne : regKey u o ≠ regKey (uLink l) (Fld.jxlStateState.off + Fld.jxlStateState.stride * 0) := by
        rw [ne_eq, regKey_inj _ _ _ _ ho (by decide)]
        unfold uLink
        omega
      split
      · rfl
      · rw [setLinkState, setFld, reg_setReg, if_neg hne]
        split <;> rfl
    · split
      · rfl
      · rw [setLinkState, boot_setFld]
        split <;> rfl
  · exact ⟨rfl, rfl⟩

/-- A register of its own of a unit that is not the tally die, outside SYS_BOOT_STATUS, is as it was. -/
theorem reg_outcomeTold (a : Action) {u o : Nat} (hu : u ≠ uTly) (ho : OwnOffset o) (hs : regKey u o ≠ regKey uChip Off.sysBootStatus) :
    reg (outcomeTold a b) u o = reg b u o := by
  unfold outcomeTold
  split
  · exact reg_notify_own _ _ _ _ _ hu ho hs
  · exact reg_notify_own _ _ _ _ _ hu ho hs

theorem boot_outcomeTold (a : Action) : (outcomeTold a b).boot = b.boot := by
  unfold outcomeTold; split <;> exact boot_notify ..

theorem reg_resultShown (a : Action) {u o : Nat} (hu : u ≠ uTly) (ho : OwnOffset o) :
    reg (resultShown a b) u o = reg (setReg uChip Off.sysBootResult (resultOf a) (setFld uChip Fld.sysBootStageBusy 0 b)) u o :=
  reg_bbPush _ _ hu ho

theorem boot_resultShown (a : Action) : (resultShown a b).boot = b.boot := boot_bbPush _

/-- The end of an action ends its running. -/
theorem running_bootActionEnd {a : Action} (hr : b.boot.running = some a) (h : a.act ≠ 3 ∨ b.boot.loads = []) :
    (bootActionEnd b).boot.running = none := by
  rw [bootActionEnd_over hr h, (linksFreed_leaves a (show uChip < 128 by decide) (show (0 : Nat) < 2 ^ 20 by decide)).2, boot_outcomeTold, boot_resultShown,
    stageMoved]
  split
  · exact running_actionGone a
  · exact running_actionGone a

/-- Writes of registers see the registers alone. -/
theorem face_setReg_congr {b c : Block} (h : c.face = b.face) (u o v : Nat) : (setReg u o v c).face = (setReg u o v b).face := by
  simp only [setReg, h]

theorem face_setFld_congr {b c : Block} (h : c.face = b.face) (u : Nat) (f : Field) (v : Nat) : (setFld u f v c).face = (setFld u f v b).face := by
  rw [setFld, setFld, reg_of_face h]
  exact face_setReg_congr h ..

theorem face_stageMoved_congr {b c : Block} (h : c.face = b.face) (a : Action) : (stageMoved a c).face = (stageMoved a b).face := by
  unfold stageMoved
  split
  · exact face_setFld_congr h ..
  · exact h

/-- The result shown, and BUSY and the stage, over a state's registers. -/
def endShown (a : Action) (b : Block) : Block :=
  setReg uChip Off.sysBootResult (resultOf a) (setFld uChip Fld.sysBootStageBusy 0 (stageMoved a b))

/-- What the end of an action leaves of a register beside SYS_BOOT_STATUS: the result, the stage and BUSY, and nothing more. -/
theorem reg_bootActionEnd {a : Action} (hr : b.boot.running = some a) (h : a.act ≠ 3 ∨ b.boot.loads = []) {u o : Nat} (hu : u ≠ uTly) (hlow : u < 128)
    (ho : OwnOffset o) (hs : regKey u o ≠ regKey uChip Off.sysBootStatus) : reg (bootActionEnd b) u o = reg (endShown a b) u o := by
  rw [bootActionEnd_over hr h, (linksFreed_leaves a hlow ho.2).1, reg_outcomeTold a hu ho hs, reg_resultShown a hu ho]
  exact reg_of_face (face_setReg_congr (face_setFld_congr (face_stageMoved_congr (face_actionGone a) a) ..) ..) u o

theorem devState_bootActionEnd {a : Action} (hr : b.boot.running = some a) (h : a.act ≠ 3 ∨ b.boot.loads = []) :
    devState (bootActionEnd b) = devState b := by
  refine (fld_of_reg (reg_bootActionEnd hr h (by decide) (by decide) (by decide) (by decide))).trans ?_
  rw [endShown, fld_setReg_other _ _ (by decide), fld_setFld_other _ _ (by decide), stageMoved]
  split
  · exact fld_setFld_other _ _ (by decide)
  · rfl

theorem reg_endShown_result (a : Action) : reg (endShown a b) uChip Off.sysBootResult = resultOf a % 2 ^ 32 := reg_setReg_same ..

theorem busy_endShown (a : Action) : flag (endShown a b) uChip Fld.sysBootStageBusy = false := by
  rw [flag, endShown, fld_setReg_other _ _ (by decide), fld_setFld_same _ _ _ (by decide) (by decide)]
  rfl

theorem bootStage_endShown (a : Action) (h : a.act ≤ 5) :
    bootStage (endShown a b) = if a.status = .ok then a.act + 1 else bootStage b := by
  rw [bootStage, endShown, fld_setReg_other _ _ (by decide),
    fld_setFld_beside (f := Fld.sysBootStageBusy) (g := Fld.sysBootStageStage) _ _ _ rfl (by decide) (by decide) (.inr (by decide)), stageMoved]
  split
  · rw [fld_setFld_same _ _ _ (by decide) (by decide)]
    exact Nat.mod_eq_of_lt (show a.act + 1 < 16 by omega)
  · rfl

/-- The status bit of the outcome stands. -/
theorem told_bootActionEnd {a : Action} (hr : b.boot.running = some a) (h : a.act ≠ 3 ∨ b.boot.loads = []) :
    (a.status = .ok → flag (bootActionEnd b) uChip Fld.sysBootStatusDone = true) ∧
    (a.status ≠ .ok → flag (bootActionEnd b) uChip Fld.sysBootStatusFailed = true) := by
  have hlinks (c : Block) (f : Field) (hf : f.off + f.stride * 0 = Off.sysBootStatus) : flag (linksFreed a c) uChip f = flag c uChip f :=
    flag_of_reg (by rw [hf]; exact (linksFreed_leaves a (by decide) (by decide)).1)
  have htold (c : Block) (f : Field) (e : Ev) (arg : Nat) (hf : f.off + f.stride * 0 = Off.sysBootStatus) (hb : f.hi = f.lo) (hlt : f.lo < 16) :
      flag (notify uChip f e arg c) uChip f = true := by
    have hraise : flag (raise uChip e arg (setSq uChip f c)) uChip f = flag (setSq uChip f c) uChip f :=
      flag_of_reg (by rw [hf]; exact reg_raise_own _ _ _ _ (by decide) (by decide))
    exact hraise.trans (flag_setSq_same _ hb hlt)
  rw [bootActionEnd_over hr h]
  refine ⟨fun hok => ?_, fun hno => ?_⟩
  · rw [hlinks _ _ rfl, outcomeTold, if_pos hok]
    exact htold _ _ _ _ rfl rfl (by decide)
  · rw [hlinks _ _ rfl, outcomeTold, if_neg hno]
    exact htold _ _ _ _ rfl rfl (by decide)

/-! ### Chunks and repair rounds of a load (R506, R507) -/

theorem chunkReceive_dropped {u : Nat} {c : Chunk} (ha : absorbing b u = false) (h : crc32c c.data ≠ c.crc ∨ c.count ≤ c.num ∨ ownOf b u = hOffline) :
    chunkReceive u c b = b := by
  simp only [chunkReceive, ha, Bool.false_eq_true, if_false, if_pos h]

/-- A good chunk of a target in service begins its image's load, if it is another image's than the one before. -/
theorem chunkReceive_begun {u : Nat} {c : Chunk} {t : LoadTarget} (ha : absorbing b u = false) (hc : crc32c c.data = c.crc) (hn : c.num < c.count)
    (ho : ownOf b u ≠ hOffline) (ht : (beginTarget u c b).boot.targets.find u = some t) :
    chunkReceive u c b = if loadState (beginTarget u c b) u = 2 then beginTarget u c b
      else
        let e := modBoot (fun x => { x with targets := x.targets.put u { t with chunks := t.chunks.put c.num c.data } }) (beginTarget u c b)
        checkWhole u (setMiss u c.num false (if loadState e u = 3 then setFld u Fld.tilLoadStateState 1 e else e)) := by
  have hgood : ¬(crc32c c.data ≠ c.crc ∨ c.count ≤ c.num ∨ ownOf b u = hOffline) := by
    rintro (h | h | h)
    · exact h hc
    · omega
    · exact ho h
  simp only [chunkReceive, ha, Bool.false_eq_true, if_false, if_neg hgood, ht]

/-- Loads of which some target is not done stay. -/
theorem settleLoads_waiting (h : ∀ l ∈ b.boot.loads, l.targets.all (targetDone b) = false) : settleLoads b = b := by
  have hf : (b.boot.loads.filter fun l => !(l.targets.all (targetDone b))) = b.boot.loads := List.filter_eq_self.mpr fun l hl => by simp [h l hl]
  unfold settleLoads modBoot
  dsimp only
  rw [hf]

theorem loadRepairRound_none (lost : List (Nat × Nat)) (h : b.boot.loads = []) : loadRepairRound lost b = b := by
  have hs : settleLoads b = b := settleLoads_waiting (by simp [h])
  rw [loadRepairRound, hs, h]
  exact hs

theorem loadRepairRound_one {lost : List (Nat × Nat)} {l : LoadRun} (h : b.boot.loads = [l]) (hr : l.round < 3) (hd : l.targets.all (targetDone b) = false) :
    loadRepairRound lost b = settleLoads (repairRound l lost b) := by
  have hs : settleLoads b = b := settleLoads_waiting (by simpa [h] using hd)
  rw [loadRepairRound, hs, h, List.foldl_cons, List.foldl_nil, if_pos hr]

/-- Where every chunk is lost on its way none arrives. -/
theorem resendChunks_lost {u image : Nat} {l : List Byte} {lost : List (Nat × Nat)} (h : ∀ n < (l.length + 4095) / 4096, lost.contains (u, n) = true) :
    resendChunks u image l lost b = b := by
  unfold resendChunks
  have hall : ∀ n ∈ (List.range ((l.length + 4095) / 4096)).filter (missing b u), lost.contains (u, n) = true := fun n hn =>
    h n (List.mem_range.mp (List.mem_filter.mp hn).1)
  generalize hns : (List.range ((l.length + 4095) / 4096)).filter (missing b u) = ns at hall
  clear hns
  induction ns with
  | nil => rfl
  | cons n ns ih =>
    rw [List.foldl_cons, if_pos (hall n List.mem_cons_self)]
    exact ih fun m hm => hall m (List.mem_cons_of_mem _ hm)

section
variable {u : Nat} (hk : kindOf u = some .tile ∨ kindOf u = some .gleaner)
include hk

theorem ne_uChip_of_loads : u ≠ uChip ∧ u ≠ uTly := by
  constructor <;> (rintro rfl; exact absurd hk (by decide))

/-- A held unit's HOLD stands. -/
theorem flag_hold (hm : moduleHeld b = false) (out : Nat) : flag (hold u true out b) u Fld.unitResetHold = true := by
  obtain ⟨hchip, -⟩ := ne_uChip_of_loads hk
  have hreach : resetReach u = [u] := by obtain h | h := hk <;> rw [resetReach, h]
  have hgl : forGleaners u = false := by obtain h | h := hk <;> rw [forGleaners, h] <;> rfl
  unfold hold
  rw [if_neg hchip, hm]
  simp only [hreach, List.isEmpty_cons, Bool.or_self, Bool.false_eq_true, if_false, if_true, setHold, hgl, List.nil_append, List.foldl_cons, List.foldl_nil]
  rw [flag, fld_setFld_same _ _ _ (by decide) (by decide)]
  rfl

/-- What putting a target on HOLD leaves of it. -/
structure HeldTarget (u : Nat) (loads : List LoadRun) (b : Block) : Prop where
  own : ownOf b u = hOffline
  state : loadState b u = 4
  held : flag b u Fld.unitResetHold = true
  told : flag b uChip Fld.sysBootStatusLoadHeld = true
  loads : b.boot.loads = loads

/-- The event of a held target leaves the target's registers alone. -/
theorem reg_loadHeld {o : Nat} (ho : o < 2 ^ 20) (hs : o ≠ Off.unitStatus) (hh : o ≠ Off.evtHead) (hd : o ≠ Off.evtDrop) (f : Field) (hf : f.off + f.stride * 0 < 2 ^ 20)
    (v arg : Nat) (c : Block) :
    reg (notify uChip Fld.sysBootStatusLoadHeld .sysLoadHeld arg (setFld uChip f v c)) u o = reg c u o := by
  obtain ⟨hchip, htly⟩ := ne_uChip_of_loads hk
  have hother {u' k : Nat} (hu : u ≠ u') (hk : k < 2 ^ 20) : regKey u o ≠ regKey u' k := fun h => hu ((regKey_inj _ _ _ _ ho hk).mp h).1
  rw [notify, reg_raise_beside _ _ _ _ ho hs hh hd (hother htly (by decide)) (hother htly (by decide)), reg_setSq, if_neg (hother hchip (by decide)),
    setFld, reg_setReg, if_neg (hother hchip hf)]

omit hk in
/-- A unit that goes OFFLINE keeps its registers. -/
theorem reg_setOwn_offline (o : Nat) : reg (setOwn u hOffline b) u o = reg b u o := by
  unfold setOwn
  dsimp only
  rw [if_neg (by rintro ⟨h, -⟩; exact absurd h (by decide))]
  rfl

/-- A held target keeps what LOAD_STATE and LOAD_MISS said of it. -/
def loadStateKept (u : Nat) (b : Block) : Block :=
  ((List.range 9).map fun k => (Off.tilLoadState + 4 * k, reg b u (Off.tilLoadState + 4 * k))).foldl (fun b p => setReg u p.1 p.2 b) (hold u true 0 b)

/-- A target on HOLD, OFFLINE and with the state HELD. -/
def targetHeld (u : Nat) (b : Block) : Block := setOwn u hOffline (setFld u Fld.tilLoadStateState 4 (loadStateKept u b))

/-- The counter of the targets held of a kind. -/
def heldCounter (u : Nat) : Field := if u < 4096 then Fld.sysBootHeldTiles else Fld.sysBootHeldGleaners

omit hk in
theorem holdTarget_eq (image : Nat) : holdTarget u image b =
    notify uChip Fld.sysBootStatusLoadHeld .sysLoadHeld (u * 2 ^ 16 + image * 2 ^ 12)
      (setFld uChip (heldCounter u) (fld (targetHeld u b) uChip (heldCounter u) + 1) (targetHeld u b)) := rfl

omit hk in
/-- Writes of the load's registers leave HOLD alone. -/
theorem flag_loadStateKept : flag (loadStateKept u b) u Fld.unitResetHold = flag (hold u true 0 b) u Fld.unitResetHold := by
  unfold loadStateKept
  generalize hold u true 0 b = c
  generalize List.range 9 = ks
  induction ks generalizing c with
  | nil => rfl
  | cons k ks ih =>
    rw [List.map_cons, List.foldl_cons, ih, flag, fld_setReg_other]
    · rfl
    · intro h
      have := (regKey_same_unit _ _ _).mp h
      have : Off.tilLoadState = 0x10200 := rfl
      have : Fld.unitResetHold.off + Fld.unitResetHold.stride * 0 = 0xc := rfl
      omega

theorem flag_targetHeld (hm : moduleHeld b = false) : flag (targetHeld u b) u Fld.unitResetHold = true := by
  rw [targetHeld, flag_of_reg (reg_setOwn_offline _), flag, fld_setFld_other _ _ (mt (regKey_same_unit _ _ _).mp (by decide))]
  exact flag_loadStateKept.trans (flag_hold hk hm 0)

omit hk in
theorem loadState_targetHeld : loadState (targetHeld u b) u = 4 := by
  rw [loadState, targetHeld, fld_of_reg (reg_setOwn_offline _), fld_setFld_same _ _ _ (by decide) (by decide)]
  rfl

theorem boot_targetHeld : (targetHeld u b).boot.loads = b.boot.loads := by
  have hkept : (loadStateKept u b).boot = (hold u true 0 b).boot := by
    unfold loadStateKept
    generalize List.range 9 = ks
    exact foldl_keeps Block.boot (fun b (p : Nat × Nat) => setReg u p.1 p.2 b) _ _ fun _ _ => rfl
  rw [targetHeld, boot_setOwn, boot_setFld, hkept]
  exact loads_hold hk 0

theorem heldTarget_holdTarget (hm : moduleHeld b = false) (image : Nat) : HeldTarget u b.boot.loads (holdTarget u image b) := by
  have hf : (heldCounter u).off + (heldCounter u).stride * 0 < 2 ^ 20 := by
    unfold heldCounter
    split <;> decide
  rw [holdTarget_eq]
  refine ⟨?own, ?state, ?held, ?told, ?loads⟩
  case own =>
    have hown : ownOf (targetHeld u b) u = hOffline := by rw [targetHeld, ownOf_setOwn, if_pos rfl]
    have hset (f : Field) (v : Nat) (c : Block) : ownOf (setFld uChip f v c) u = ownOf c u := rfl
    have hnotify (f : Field) (e : Ev) (arg : Nat) (c : Block) : ownOf (notify uChip f e arg c) u = ownOf c u := by rw [ownOf, ownOf, own_notify]
    rw [hnotify, hset, hown]
  case state =>
    rw [loadState, fld_of_reg (reg_loadHeld hk (by decide) (by decide) (by decide) (by decide) _ hf _ _ _)]
    exact loadState_targetHeld
  case held =>
    rw [flag_of_reg (reg_loadHeld hk (by decide) (by decide) (by decide) (by decide) _ hf _ _ _)]
    exact flag_targetHeld hk hm
  case told =>
    have hraise (arg : Nat) (c : Block) : flag (raise uChip .sysLoadHeld arg (setSq uChip Fld.sysBootStatusLoadHeld c)) uChip Fld.sysBootStatusLoadHeld =
        flag (setSq uChip Fld.sysBootStatusLoadHeld c) uChip Fld.sysBootStatusLoadHeld := flag_of_reg (reg_raise_own _ _ _ _ (by decide) (by decide))
    rw [notify, hraise]
    exact flag_setSq_same _ rfl (by decide)
  case loads =>
    rw [boot_notify, boot_setFld]
    exact boot_targetHeld hk

/-- The round of a load counts up. -/
def roundNoted (l : LoadRun) (r : Nat) (b : Block) : Block :=
  modBoot (fun x => { x with loads := x.loads.map fun y => if y = l then { y with round := r } else y }) b

omit hk in
theorem HeldTarget.of_face {loads : List LoadRun} {c : Block} (h : HeldTarget u loads b) (hf : c.face = b.face) {loads' : List LoadRun}
    (hl : c.boot.loads = loads') : HeldTarget u loads' c where
  own := by rw [ownOf, hf]; exact h.own
  state := (fld_of_face hf ..).trans h.state
  held := (flag_of_reg (reg_of_face hf ..)).trans h.held
  told := (flag_of_reg (reg_of_face hf ..)).trans h.told
  loads := hl

omit hk in
theorem face_settleLoads_roundNoted (l : LoadRun) (r : Nat) : (settleLoads (roundNoted l r b)).face = b.face := rfl

omit hk in
/-- The only load, to one target that is done, is over. -/
theorem settleLoads_roundNoted {l : LoadRun} (hl : b.boot.loads = [l]) (ht : l.targets = [u]) (hd : targetDone b u = true) (r : Nat) :
    (settleLoads (roundNoted l r b)).boot.loads = [] := by
  have hone : targetDone (roundNoted l r b) u = true := hd
  have hall : (roundNoted l r b).boot.loads = [{ l with round := r }] := by simp [roundNoted, modBoot, hl]
  show (roundNoted l r b).boot.loads.filter _ = []
  rw [hall]
  simp [ht, hone]

/-- A target that lacks chunks after its third round is put on HOLD, and its load is over. -/
theorem heldTarget_loadRepairRound {l : LoadRun} {lost : List (Nat × Nat)} (hl : b.boot.loads = [l]) (hround : l.round = 2) (ht : l.targets = [u])
    (hm : moduleHeld b = false) (hd : targetDone b u = false) (ha : absorbing b u = false)
    (hlost : ∀ n < (l.bytes.length + 4095) / 4096, lost.contains (u, n) = true) : HeldTarget u [] (loadRepairRound lost b) := by
  obtain ⟨hchip, -⟩ := ne_uChip_of_loads hk
  generalize hc : setFld u Fld.tilLoadStateRound 3 b = c
  have hstate : loadState c u = loadState b u := by
    rw [← hc]
    exact fld_setFld_beside _ _ _ rfl (by decide) (by decide) (.inr (by decide))
  have hdone : targetDone c u = false := by
    have hown : ownOf c u = ownOf b u := by rw [← hc]; rfl
    rw [targetDone, hstate, hown]
    exact hd
  have habs : absorbing c u = false := by
    rw [← hc, absorbing, flag, fld_setFld_other _ _ (mt (regKey_same_unit _ _ _).mp (by decide))]
    exact ha
  have hfree : moduleHeld c = false := by
    rw [← hc, moduleHeld, flag, fld_setFld_other _ _ fun h => hchip ((regKey_inj _ _ _ _ (by decide) (by decide)).mp h).1.symm]
    exact hm
  have hloads : c.boot.loads = [l] := by rw [← hc]; exact hl
  have hrepair : repairRound l lost b = roundNoted l 3 (holdTarget u l.image c) := by
    unfold repairRound
    simp only [ht, List.foldl_cons, List.foldl_nil, hd, Bool.false_eq_true, if_false, hround]
    rw [hc, resendChunks_lost hlost, if_pos (by simp [hdone, habs])]
    rfl
  have hheld := heldTarget_holdTarget hk hfree l.image
  rw [hloads] at hheld
  have hall : l.targets.all (targetDone b) = false := by rw [ht]; simpa using hd
  have hover : targetDone (holdTarget u l.image c) u = true := by simp [targetDone, hheld.state]
  rw [loadRepairRound_one hl (by omega) hall, hrepair]
  exact hheld.of_face (face_settleLoads_roundNoted l 3) (settleLoads_roundNoted hheld.loads ht hover 3)

end

end Sys2Proof.Machine

open Sys2Proof Sys2Proof.Machine

/-- Settles O52: by the action, its stage and what it finds; the end of an action by its registers; a load by its targets. -/
theorem bringUp : Obligations.BringUp := by
  unfold Obligations.BringUp
  intro s hon stage d
  refine ⟨?rejected, fun hnone => ⟨?spines, ?train, ?verify, ?load, ?selftest, ?start, ?ready, ?idle⟩, ?loading, ?ended, ?chunk, ?noLoad, ?held, ?again⟩
  case rejected =>
    intro n i hi hno
    simp only [List.mem_cons, Prod.mk.injEq, List.not_mem_nil, or_false] at hi
    obtain ⟨rfl, rfl⟩ | ⟨rfl, rfl⟩ | ⟨rfl, rfl⟩ | ⟨rfl, rfl⟩ | ⟨rfl, rfl⟩ | ⟨rfl, rfl⟩ := hi
    · exact acts_main (g := bootSpines) rfl hon (bootAction_refused hon hno)
    · exact acts_main (g := bootTrain []) rfl hon (bootAction_refused hon hno)
    · exact acts_main (g := bootVerify) rfl hon (bootAction_refused hon hno)
    · exact acts_main (g := bootLoad []) rfl hon (bootAction_refused hon hno)
    · exact acts_main (g := bootSelfTest []) rfl hon (bootAction_refused hon hno)
    · exact acts_main (g := bootStart) rfl hon (bootAction_refused hon hno)
  case spines =>
    intro h
    refine answersWith_action (g := bootSpines) rfl hon (bootSpines_runs hon hnone h) fun c hc => ⟨hc.running, ?_, fun l hl => ⟨?_, ?_, ?_⟩⟩
    · exact (flag_of_reg (hc.reg _ _)).trans ((flag_spinesLoaded_busy 24).trans stageBusy_busy)
    · exact (fld_of_reg (hc.reg _ _)).trans (spinesLoaded_exclusions hl).1
    · exact (fld_of_reg (hc.reg _ _)).trans (spinesLoaded_exclusions hl).2.1
    · exact (fld_of_reg (hc.reg _ _)).trans (spinesLoaded_exclusions hl).2.2
  case train =>
    refine fun failed h => ⟨fun href => ?_, fun href => ?_⟩
    · have hacts : Acts (.train failed) s fun b => actionRuns 1 (.opFailed, 0, stageBusy b) :=
        acts_main (g := bootTrain failed) rfl hon (bootTrain_stopped hon hnone h failed href)
      exact answersWith_of_acts hacts ⟨rfl, rfl⟩
    · refine answersWith_action (g := bootTrain failed) rfl hon (bootTrain_runs hon hnone h failed href) fun c hc => ⟨?_, ?_, fun hroom ch hch => ?_⟩
      · rw [hc.running, hc.retired]
        rfl
      · rw [hc.retired]
        exact trained_length
      · rw [retirementOf, hc.retired]
        exact trained_all hroom hch
  case verify =>
    refine fun h => ⟨fun u hu => ?_, fun st c hall hr => ?_⟩
    · have hrun := bootVerify_runs hon hnone h
      rw [verifyImage_missing (b := stageBusy s.blk) hu] at hrun
      exact answersWith_action (g := bootVerify) rfl hon hrun fun c hc => ⟨hc.running, (hc.reg _ _).trans (reg_setReg_same ..)⟩
    · have hrun := bootVerify_runs hon hnone h
      rw [verifyImage_read (b := stageBusy s.blk) hall hr] at hrun
      refine answersWith_action (g := bootVerify) rfl hon hrun fun c' hc => ⟨hc.running, ?_⟩
      have hboot : c.boot = s.blk.boot := by
        have := boot_touchRanges (b := d) uReeve [(0, min stageBytes (imageLen d))]
        rw [hr] at this
        exact this
      rw [hc.boot]
      exact (verified_imageKept (verdictOf st c) c).trans (by rw [hboot]; rfl)
  case load =>
    intro lost h
    have hrun := bootLoad_runs hon hnone h lost
    unfold actionRuns stageBusy at hrun
    dsimp only at hrun
    refine acts_main (g := bootLoad lost) rfl hon (hrun.trans ?_)
    generalize allGleaners = gs
    generalize allTiles = ts
    rfl
  case selftest =>
    intro failed h x bad
    have hx : banksRead failed (stageBusy s.blk) = x := by unfold banksRead stageBusy; rfl
    have hmem : ∀ u ∈ failed, u ∈ x.1 := fun u hu => hx ▸ mem_banksRead hu
    have hrun := bootSelfTest_runs hon hnone h failed
    rw [hx] at hrun
    clear_value x
    refine answersWith_action (g := bootSelfTest failed) rfl hon hrun fun c hc => ⟨?_, fun u hu _ => ?_⟩
    · rw [hc.running, inService_of_own hc.own]
      rfl
    · rw [hc.own]
      exact selfTested_offline (hmem u hu)
  case start =>
    intro h
    obtain ⟨hboot, hqcp⟩ := setDevState_leaves (b := romClosed (firmwareTaken (verifiedImage s.blk) (stageBusy s.blk))) dsBoot
    refine answersWith_action (g := bootStart) rfl hon (bootStart_runs hon hnone h) fun c hc => ⟨?_, hc.running, ?_, ?_, ?_, ?_, ?_⟩
    · exact (fld_of_reg (hc.reg _ _)).trans (devState_setDevState (by decide))
    · rw [hc.boot]; exact congrArg Boot.fwDigest hboot
    · rw [hc.boot]; exact congrArg Boot.fwSvn hboot
    · rw [hc.boot]; exact congrArg Boot.fwVersion hboot
    · rw [hc.boot]; exact congrArg Boot.reeve hboot
    · rw [hc.qcp]; exact congrArg Qcp.sessions hqcp
  case ready => exact fun h6 hd => acts_main (g := bootActionEnd) rfl hon (by simp only [bootActionEnd, hnone]; exact if_pos ⟨h6, hd⟩)
  case idle =>
    exact fun h => acts_main (g := bootActionEnd) rfl hon (by
      simp only [bootActionEnd, hnone]
      exact if_neg fun hc => h.elim (fun h6 => h6 hc.1) fun hd => hd hc.2)
  case loading => exact fun a ha h3 hl => acts_main (g := bootActionEnd) rfl hon (bootActionEnd_loading ha h3 hl)
  case ended =>
    intro a ha hover hact hdet
    obtain ⟨hdone, hfailed⟩ := told_bootActionEnd ha hover
    have hstage : bootStage (bootActionEnd s.blk) = if a.status = .ok then a.act + 1 else bootStage s.blk :=
      (fld_of_reg (reg_bootActionEnd ha hover (by decide) (by decide) (by decide) (by decide))).trans (bootStage_endShown a hact)
    refine answersWith_of_acts (acts_main (g := bootActionEnd) (f := bootActionEnd) rfl hon rfl) ⟨?_, ?_, ?_, ?_, fun hok => ⟨?_, ?_⟩, fun hno => ⟨?_, ?_⟩⟩
    · exact running_bootActionEnd ha hover
    · exact (flag_of_reg (reg_bootActionEnd ha hover (by decide) (by decide) (by decide) (by decide))).trans (busy_endShown a)
    · exact (reg_bootActionEnd ha hover (by decide) (by decide) (by decide) (by decide)).trans (reg_endShown_result a)
    · exact devState_bootActionEnd ha hover
    · exact hstage.trans (if_pos hok)
    · exact hdone hok
    · exact hstage.trans (if_neg hno)
    · exact hfailed hno
  case chunk =>
    refine fun u c => ⟨fun ha => ?_, fun ha h => ?_, fun t ha hc hn ho => ?_⟩
    · exact acts_main (g := chunkReceive u c) rfl hon (by rw [chunkReceive, if_pos ha])
    · exact acts_main (g := chunkReceive u c) rfl hon (chunkReceive_dropped ha h)
    · intro e ht
      have hbegun := chunkReceive_begun ha hc hn ho ht
      exact ⟨fun h2 => acts_main (g := chunkReceive u c) rfl hon (hbegun.trans (if_pos h2)),
        fun h2 => acts_main (g := chunkReceive u c) rfl hon (hbegun.trans (if_neg h2))⟩
  case noLoad => exact fun lost h => acts_main (g := loadRepairRound lost) rfl hon (loadRepairRound_none lost h)
  case held =>
    intro lost l u hl hround ht hk hd ha hlost
    have hm : moduleHeld s.blk = false := by
      have := hon
      rw [mainOn, Bool.and_eq_true, Bool.not_eq_true'] at this
      exact this.2
    have h := heldTarget_loadRepairRound hk hl hround ht hm hd ha hlost
    exact answersWith_of_acts (acts_main (g := loadRepairRound lost) (f := loadRepairRound lost) rfl hon rfl) ⟨h.own, h.state, h.held, h.told, h.loads⟩
  case again => exact fun lost l hl hround hd => acts_main (g := loadRepairRound lost) rfl hon (loadRepairRound_one hl (by omega) hd)

end

section
/-! PROOFS. Resets: pulse, hold, drain time-outs and their end (R511 to R514). -/

namespace Sys2Proof.Machine

variable {b : Block} {u out : Nat}

/-! ### Resets written while the rails are up (R511, R513) -/

theorem powered_of_mainOn (h : mainOn b = true) : railsUp b = true ∧ moduleHeld b = false := by
  rw [mainOn, Bool.and_eq_true, Bool.not_eq_true'] at h
  exact h

section
variable {s : State} {w : Fin 8192} {v : Bool} {f : Block → Block} {p : Block → Prop}

theorem acts_hold (h : railsUp s.blk = true) (hg : hold w v out s.blk = f s.blk) : Acts (.hold w v out) s f :=
  acts_run (g := fun b => if railsUp b then hold w v out b else b) rfl (by rw [h]; exact hg)

theorem acts_pulse (h : railsUp s.blk = true) (hg : pulse w out s.blk = f s.blk) : Acts (.pulse w out) s f :=
  acts_run (g := fun b => if railsUp b then pulse w out b else b) rfl (by rw [h]; exact hg)

end

/-- On the chip HOLD holds the module, or releases it. -/
theorem hold_chip (v : Bool) : hold uChip v out b = if v = moduleHeld b then b else if v then moduleHold b else moduleReset b := if_pos rfl

theorem hold_of_moduleHeld (hu : u ≠ uChip) (hm : moduleHeld b = true) (v : Bool) : hold u v out b = b := by
  simp [hold, hu, hm]

theorem hold_of_noReach (hu : u ≠ uChip) (hr : resetReach u = []) (v : Bool) : hold u v out b = b := by
  simp [hold, hu, hr]

theorem pulse_of_moduleHeld (hm : moduleHeld b = true) : pulse u out b = b := by simp [pulse, hm]

theorem pulse_in_reset (h : (rstOf b u).isSome = true) : pulse u out b = b := by simp [pulse, h]

theorem pulse_fresh (hm : moduleHeld b = false) (h : rstOf b u = none) : pulse u out b = startReset u out false b := by simp [pulse, hm, h]

theorem startReset_of_noReach (hu : u ≠ uChip) (hr : resetReach u = []) (held : Bool) : startReset u out held b = b := by
  simp [startReset, hu, hr]

/-! ### A unit that resets alone -/

/-- The units whose reset reaches themselves only. -/
theorem kindOf_of_reach (h : resetReach u = [u]) : kindOf u = some .tile ∨ kindOf u = some .gleaner ∨ kindOf u = some .fe := by
  have hlen := congrArg List.length h
  unfold resetReach at hlen
  split at hlen
  · next hk => exact .inr (.inl hk)
  · simp at hlen
  · simp at hlen
  · next hk => exact .inl hk
  · simp at hlen
  · simp [Function.comp_def, List.range_succ] at hlen
  · next hk => exact .inr (.inr hk)
  · simp at hlen

section
variable (hr : resetReach u = [u])
include hr

theorem ne_uChip_of_reach : u ≠ uChip := by
  rintro rfl
  exact absurd hr (by decide)

theorem forGleaners_of_reach : forGleaners u = false := by
  obtain h | h | h := kindOf_of_reach hr <;> rw [forGleaners, h] <;> rfl

theorem startReset_alone (held : Bool) : startReset u out held b = beginReset u out held b := by
  simp [startReset, ne_uChip_of_reach hr, hr]

theorem hold_alone (hm : moduleHeld b = false) : hold u true out b = setFld u Fld.unitResetHold 1 (beginReset u out true b) := by
  simp [hold, ne_uChip_of_reach hr, hm, hr, setHold, forGleaners_of_reach hr, startReset_alone hr, b2n]

theorem release_alone (hm : moduleHeld b = false) : hold u false out b = freeUnit (freeUnit (setFld u Fld.unitResetHold 0 b) u) u := by
  simp [hold, ne_uChip_of_reach hr, hm, hr, setHold, forGleaners_of_reach hr, b2n]

end

/-- The boundary is up: the unit absorbs its traffic, IN_RESET. -/
def resetRaised (u out : Nat) (held : Bool) (b : Block) : Block :=
  setFld u Fld.unitResetInReset 1 (setFld u Fld.unitResetAbsorbing 1 (setOwn u hInReset (setRst u (some ⟨b.face.time, out, !held, false⟩) b)))

/-- What a unit was doing for others ends (Table 14.7). -/
def trafficEnded (u : Nat) (b : Block) : Block := match kindOf u with
  | some .tile => (b.ctx.batches.filter fun x => x.tiles.contains (u - 64)).foldl (fun b x => settleCloses (abandonBatch x b)) b
  | some .col => absorbColls (u - 24) b
  | _ => b

theorem beginReset_fresh (h : rstOf b u = none) (held : Bool) : beginReset u out held b = clearDrained u (trafficEnded u (resetRaised u out held b)) := by
  unfold beginReset
  rw [h]
  rfl

theorem unitPart_trafficEnded (hr : resetReach u = [u]) : unitPart (trafficEnded u b) = unitPart b := by
  unfold trafficEnded
  obtain h | h | h := kindOf_of_reach hr
  · rw [h]
    exact foldl_keeps unitPart _ _ _ fun c x => (unitPart_settleCloses _).trans (unitPart_modCtx ..)
  · rw [h]
  · rw [h]

theorem rstOf_of_boot {b c : Block} (h : c.boot = b.boot) (u : Nat) : rstOf c u = rstOf b u := by rw [rstOf, rstOf, h]

theorem rstOf_setRst (v : Nat) (r : Option Rst) : rstOf (setRst v r b) u = if u = v then r else rstOf b u := by
  cases r with
  | none => exact SMap.find_drop ..
  | some r => exact SMap.find_put ..

theorem rstOf_resetRaised (held : Bool) : rstOf (resetRaised u out held b) u = some ⟨b.face.time, out, !held, false⟩ := by
  have hb : (resetRaised u out held b).boot = (setRst u (some ⟨b.face.time, out, !held, false⟩) b).boot := by
    rw [resetRaised, boot_setFld, boot_setFld, boot_setOwn]
  rw [rstOf_of_boot hb, rstOf_setRst, if_pos rfl]

theorem absorbing_resetRaised (held : Bool) : absorbing (resetRaised u out held b) u = true := by
  rw [absorbing, flag, resetRaised, fld_setFld_beside (f := Fld.unitResetInReset) (g := Fld.unitResetAbsorbing) _ _ _ rfl (by decide) (by decide) (.inr (by decide)),
    fld_setFld_same _ _ _ (by decide) (by decide)]
  rfl

theorem own_resetRaised (held : Bool) : ownOf (resetRaised u out held b) u = hInReset := by
  have h (c : Block) : ownOf (setFld u Fld.unitResetInReset 1 (setFld u Fld.unitResetAbsorbing 1 c)) u = ownOf c u := rfl
  rw [resetRaised, h, ownOf_setOwn, if_pos rfl]

/-- With accesses outstanding the unit waits for them, absorbing. -/
theorem beginReset_waits (hr : resetReach u = [u]) (h : rstOf b u = none) (hout : out ≠ 0) (held : Bool) :
    rstOf (beginReset u out held b) u = some ⟨b.face.time, out, !held, false⟩ ∧ absorbing (beginReset u out held b) u = true ∧
      ownOf (beginReset u out held b) u = hInReset := by
  have hpart := unitPart_trafficEnded (b := resetRaised u out held b) hr
  have hrst : rstOf (trafficEnded u (resetRaised u out held b)) u = some ⟨b.face.time, out, !held, false⟩ :=
    (rstOf_of_boot (boot_of_unitPart hpart) u).trans (rstOf_resetRaised held)
  have hclear : clearDrained u (trafficEnded u (resetRaised u out held b)) = trafficEnded u (resetRaised u out held b) := by
    unfold clearDrained
    rw [hrst]
    exact if_neg fun hc => hout hc.1
  rw [beginReset_fresh h, hclear]
  exact ⟨hrst, (flag_of_reg (reg_of_unitPart hpart u)).trans (absorbing_resetRaised held), (own_of_unitPart hpart u).trans (own_resetRaised held)⟩

theorem boot_macLinkDown : (macLinkDown u b).boot = b.boot := by
  have hlpi (c : Block) : (settleLpi u c).boot = c.boot := by unfold settleLpi; split <;> rfl
  have htx (c : Block) : (settleTx u c).boot = c.boot := by unfold settleTx; dsimp only; split <;> rfl
  unfold macLinkDown
  dsimp only
  split
  · rfl
  · rw [boot_notify, htx]
    exact hlpi b

/-- Clearing a unit that resets alone leaves the bring-up state alone. -/
theorem boot_clearUnit_alone (hr : resetReach u = [u]) : (clearUnit u b).boot = b.boot := by
  obtain h | h | h := kindOf_of_reach hr
  · exact boot_clearUnit (.inl h)
  · exact boot_clearUnit (.inr h)
  · rw [clearUnit, h]
    exact boot_macLinkDown.trans (boot_clearMbx ..)

/-- With nothing outstanding the unit is cleared at once. -/
theorem beginReset_clears (hr : resetReach u = [u]) (h : rstOf b u = none) (held : Bool) :
    rstOf (beginReset u 0 held b) u = some ⟨b.face.time, 0, !held, true⟩ := by
  have hrst : rstOf (trafficEnded u (resetRaised u 0 held b)) u = some ⟨b.face.time, 0, !held, false⟩ :=
    (rstOf_of_boot (boot_of_unitPart (unitPart_trafficEnded hr)) u).trans (rstOf_resetRaised held)
  rw [beginReset_fresh h, clearDrained, hrst]
  dsimp only
  rw [if_pos ⟨rfl, rfl⟩, rstOf_of_boot (boot_clearUnit_alone hr), rstOf_setRst, if_pos rfl]

/-! ### The release of a HOLD -/

/-- A unit that no HOLD holds any more is released; one that another HOLD holds is not. -/
theorem rstOf_freeUnit {r : Rst} (h : rstOf b u = some r) :
    rstOf (freeUnit b u) u = some { r with release := if heldBy b u then r.release else true } := by
  unfold freeUnit
  rw [h]
  dsimp only
  split
  · exact h
  · exact (rstOf_setRst ..).trans (if_pos rfl)

theorem face_freeUnit (v : Nat) : (freeUnit b v).face = b.face := by
  unfold freeUnit
  split
  · split <;> rfl
  · rfl

theorem heldBy_of_face {b c : Block} (h : c.face = b.face) (u : Nat) : heldBy c u = heldBy b u := by
  have hflag (v : Nat) : flag c v Fld.unitResetHold = flag b v Fld.unitResetHold := flag_of_reg (reg_of_face h ..)
  simp only [heldBy, hflag]

/-- After the unit's own release only the quad and the field above it may still hold it. -/
theorem heldBy_released : heldBy (setFld u Fld.unitResetHold 0 b) u = (stooksOf u).any fun v => flag b v Fld.unitResetHold := by
  have hown : flag (setFld u Fld.unitResetHold 0 b) u Fld.unitResetHold = false := by
    rw [flag, fld_setFld_same _ _ _ (by decide) (by decide)]
    rfl
  rw [heldBy, List.any_cons, hown, Bool.false_or]
  have hstook : ∀ v ∈ stooksOf u, flag (setFld u Fld.unitResetHold 0 b) v Fld.unitResetHold = flag b v Fld.unitResetHold := by
    intro v hv
    have hne : v ≠ u := by
      have := (List.mem_filter.mp hv).2
      simp only [Bool.and_eq_true, bne_iff_ne] at this
      exact this.1
    exact flag_of_reg (by rw [setFld, reg_setReg, if_neg fun h => hne ((regKey_inj _ _ _ _ (by decide) (by decide)).mp h).1])
  rw [Bool.eq_iff_iff, List.any_eq_true, List.any_eq_true]
  exact ⟨fun ⟨v, hv, h⟩ => ⟨v, hv, by rwa [hstook v hv] at h⟩, fun ⟨v, hv, h⟩ => ⟨v, hv, by rwa [hstook v hv]⟩⟩

theorem release_alone_frees (hr : resetReach u = [u]) (hm : moduleHeld b = false) {r : Rst} (h : rstOf b u = some r) :
    rstOf (hold u false out b) u = some { r with release := if (stooksOf u).any (fun v => flag b v Fld.unitResetHold) then r.release else true } ∧
      flag (hold u false out b) u Fld.unitResetHold = false := by
  rw [release_alone hr hm]
  generalize hc : setFld u Fld.unitResetHold 0 b = c
  have hrst : rstOf c u = some r := by rw [← hc]; exact h
  have hheld : heldBy c u = (stooksOf u).any fun v => flag b v Fld.unitResetHold := by rw [← hc]; exact heldBy_released
  constructor
  · rw [rstOf_freeUnit (rstOf_freeUnit hrst), heldBy_of_face (face_freeUnit u), hheld]
    split <;> simp
  · rw [flag_of_reg (reg_of_face ((face_freeUnit u).trans (face_freeUnit u)) ..), ← hc, flag, fld_setFld_same _ _ _ (by decide) (by decide)]
    rfl

/-! ### Drain time-outs (R511) -/

theorem drainTimeout_none (h : rstOf b u = none) : drainTimeout u b = b := by rw [drainTimeout, h]

theorem drainTimeout_early {r : Rst} (h : rstOf b u = some r) (hw : r.out = 0 ∨ b.face.time < r.since + 2000) : drainTimeout u b = b := by
  simp only [drainTimeout, h, if_pos hw]

theorem drainTimeout_due {r : Rst} (h : rstOf b u = some r) (hout : 0 < r.out) (ht : r.since + 2000 ≤ b.face.time) :
    drainTimeout u b = clearDrained u (notify uChip Fld.sysBootStatusRstAbandon .sysRstAbandon (u * 2 ^ 16 + min r.out 0xFFFF)
      (bump uChip Off.sysRstAbandonedLo r.out (setRst u (some { r with out := 0 }) b))) := by
  simp only [drainTimeout, h, if_neg (show ¬(r.out = 0 ∨ b.face.time < r.since + 2000) by omega)]

/-! ### The end of a reset (R512) -/

section
variable {good : Bool}

/-- The unit is out of its reset, and answers again. -/
def resetLeft (u : Nat) (r : Rst) (b : Block) : Block :=
  setFld u Fld.unitResetInReset 0 (setFld u Fld.unitResetAbsorbing 0 (setRst u none (clearDrained u (setRst u (some { r with out := 0 }) b))))

/-- The unit reloads, and is GOOD where its checks pass. -/
def unitReady (u : Nat) (good : Bool) (b : Block) : Block :=
  if forGleaners u then b else setOwn u (if good && imagesGood (reload u good b) u then hGood else hOffline) (reload u good b)

theorem resetDone_none (h : rstOf b u = none) : resetDone u good b = b := by rw [resetDone, h]

theorem resetDone_early {r : Rst} (h : rstOf b u = some r) (hw : r.release = false ∨ memberWaits b u = true) : resetDone u good b = b := by
  have hw' : (!r.release || memberWaits b u) = true := by obtain hw | hw := hw <;> simp [hw]
  simp only [resetDone, h, hw', if_true]

theorem resetDone_leaves {r : Rst} (h : rstOf b u = some r) (hr : r.release = true) (hw : memberWaits b u = false) :
    resetDone u good b = notify u Fld.unitStatusResetDone .sysResetDone 0 (settleChannel u (unitReady u good (resetLeft u r b))) := by
  unfold resetDone
  simp only [h, hr, hw, Bool.not_true, Bool.or_self, Bool.false_eq_true, if_false, unitReady, resetLeft]

theorem resetDoneCmd_kept (h : resetDone u good b = b) : resetDoneCmd u good b = b := by
  unfold resetDoneCmd
  simp only [h]
  exact if_neg fun hc => by cases hr : rstOf b u <;> simp [hr] at hc

/-- Loads that have had their three rounds are sent to the unit again. -/
def loadsResent (u : Nat) (b : Block) : Block :=
  settleLoads ((b.boot.loads.filter fun l => l.round == 3 && l.targets.contains u).foldl (fun b l => resendChunks u l.image l.bytes [] b) b)

theorem resetDoneCmd_resends (h : (rstOf b u).isSome = true) (hn : rstOf (resetDone u good b) u = none) :
    resetDoneCmd u good b = loadsResent u (resetDone u good b) := by
  unfold resetDoneCmd
  exact if_pos ⟨h, by rw [hn]; rfl⟩

/-! #### What a load leaves of the resets -/

/-- The resets, and each unit's state and its reset and status registers. -/
def loadPart (b : Block) : SMap Rst × SMap Nat × (Nat → Nat × Nat) :=
  (b.boot.resets, b.face.own, fun v => (reg b v Fld.unitResetHold.off, reg b v Off.unitStatus))

theorem loadPart_eq_iff {b c : Block} : loadPart c = loadPart b ↔ c.boot.resets = b.boot.resets ∧ c.face.own = b.face.own ∧
    ∀ v, reg c v Fld.unitResetHold.off = reg b v Fld.unitResetHold.off ∧ reg c v Off.unitStatus = reg b v Off.unitStatus := by
  simp [loadPart, funext_iff]

@[simp] theorem loadPart_setReg {v o : Nat} (x : Nat) (h : 16 ≤ o % 2 ^ 20) : loadPart (setReg v o x b) = loadPart b := by
  have hne (v' : Nat) {o' : Nat} (ho : o' < 16) : regKey v' o' ≠ regKey v o := by
    unfold regKey
    omega
  exact loadPart_eq_iff.mpr ⟨rfl, rfl, fun v' => ⟨by rw [reg_setReg, if_neg (hne v' (by decide))], by rw [reg_setReg, if_neg (hne v' (by decide))]⟩⟩

theorem loadPart_modBoot {f : Boot → Boot} (h : ∀ x, (f x).resets = x.resets) : loadPart (modBoot f b) = loadPart b :=
  loadPart_eq_iff.mpr ⟨h _, rfl, fun _ => ⟨rfl, rfl⟩⟩

theorem loadPart_setFld_load {v : Nat} {f : Field} (hf : f.off + f.stride * 0 = Off.tilLoadState) (x : Nat) : loadPart (setFld v f x b) = loadPart b := by
  rw [setFld, hf]
  exact loadPart_setReg _ (by decide)

theorem loadPart_allMissing (v n : Nat) : loadPart (allMissing v n b) = loadPart b := by
  simp (disch := decide) [allMissing, List.range, List.range.loop]

theorem loadPart_setMiss (v n : Nat) (x : Bool) : loadPart (setMiss v n x b) = loadPart b :=
  loadPart_setReg _ (by unfold Off.tilLoadMiss; omega)

theorem loadPart_absorb (n : Nat) : loadPart (absorb n b) = loadPart b := by
  rw [absorb, bump, loadPart_setReg _ (by decide), loadPart_setReg _ (by decide)]

theorem loadPart_installImage (v image : Nat) (l : List Byte) : loadPart (installImage v image l b) = loadPart b := by
  unfold installImage
  split <;> rfl

theorem loadPart_beginTarget (v : Nat) (c : Chunk) : loadPart (beginTarget v c b) = loadPart b := by
  have hnew : loadPart (beginTarget.startNew v c b) = loadPart b := by
    rw [beginTarget.startNew, loadPart_allMissing, loadPart_setReg _ (by decide), loadPart_modBoot (by intro _; rfl)]
  unfold beginTarget
  split
  · split
    · rfl
    · exact hnew
  · exact hnew

theorem loadPart_checkWhole (v : Nat) : loadPart (checkWhole v b) = loadPart b := by
  unfold checkWhole
  split
  · rfl
  · split
    · rfl
    · dsimp only
      split
      · rw [loadPart_installImage, loadPart_setFld_load rfl]
      · rw [loadPart_allMissing, loadPart_setFld_load rfl, loadPart_modBoot (by intro _; rfl)]

theorem loadPart_chunkReceive (v : Nat) (c : Chunk) : loadPart (chunkReceive v c b) = loadPart b := by
  unfold chunkReceive
  split
  · exact loadPart_absorb 1
  · split
    · rfl
    · dsimp only
      split
      · exact loadPart_beginTarget v c
      · split
        · exact loadPart_beginTarget v c
        · rw [loadPart_checkWhole, loadPart_setMiss]
          split
          · rw [loadPart_setFld_load rfl, loadPart_modBoot (by intro _; rfl), loadPart_beginTarget]
          · rw [loadPart_modBoot (by intro _; rfl), loadPart_beginTarget]

theorem loadPart_loadsResent : loadPart (loadsResent u b) = loadPart b := by
  unfold loadsResent
  rw [settleLoads, loadPart_modBoot (by intro _; rfl)]
  refine foldl_keeps loadPart _ _ _ fun c l => foldl_keeps loadPart _ _ _ fun d n => ?_
  split
  · rfl
  · exact loadPart_chunkReceive ..

/-! #### What the unit is when it leaves its reset -/

theorem rstOf_resetLeft (r : Rst) : rstOf (resetLeft u r b) u = none := by
  have h : (resetLeft u r b).boot = (setRst u none (clearDrained u (setRst u (some { r with out := 0 }) b))).boot := rfl
  rw [rstOf_of_boot h, rstOf_setRst, if_pos rfl]

theorem inReset_resetLeft (r : Rst) : flag (resetLeft u r b) u Fld.unitResetInReset = false := by
  rw [flag, resetLeft, fld_setFld_same _ _ _ (by decide) (by decide)]
  rfl

/-- A unit that was cleared already has its parts as they were. -/
theorem resetLeft_cleared {r : Rst} (hc : r.cleared = true) :
    (resetLeft u r b).gln = b.gln ∧ (resetLeft u r b).boot = { b.boot with resets := (b.boot.resets.put u { r with out := 0 }).drop u } := by
  have hclear : clearDrained u (setRst u (some { r with out := 0 }) b) = setRst u (some { r with out := 0 }) b := by
    unfold clearDrained
    rw [rstOf_setRst, if_pos rfl]
    exact if_neg (by simp [hc])
  rw [resetLeft, hclear]
  exact ⟨rfl, rfl⟩

/-- What a reload leaves: the bring-up state, each unit's state, and the reset registers. -/
theorem unitPart_reload (good : Bool) : unitPart (reload u good b) = unitPart b := by
  unfold reload
  split
  · split
    · split
      · exact unitPart_setReg _ _ (by decide)
      · rfl
    · rfl
  · refine foldl_keeps unitPart _ _ _ fun c r => ?_
    split <;> rfl
  · rfl

/-- A unit that becomes GOOD or OFFLINE keeps its registers. -/
theorem reg_setOwn_ready (h : Nat) (hf : h ≠ hFailed) (v o : Nat) : reg (setOwn u h b) v o = reg b v o := by
  unfold setOwn
  dsimp only
  rw [if_neg fun hc => hf hc.1]
  rfl

theorem ready_ne_failed (p : Bool) : (if p then hGood else hOffline) ≠ hFailed := by cases p <;> decide

theorem boot_unitReady : (unitReady u good b).boot = b.boot := by
  unfold unitReady
  split
  · rfl
  · rw [boot_setOwn]
    exact boot_of_unitPart (unitPart_reload good)

theorem reg_unitReady : reg (unitReady u good b) u Fld.unitResetHold.off = reg b u Fld.unitResetHold.off := by
  unfold unitReady
  split
  · rfl
  · rw [reg_setOwn_ready _ (ready_ne_failed _)]
    exact reg_of_unitPart (unitPart_reload good) u

theorem own_unitReady (h : forGleaners u = false) :
    ownOf (unitReady u good b) u = if good && imagesGood (reload u good b) u then hGood else hOffline := by
  rw [unitReady, h]
  exact (ownOf_setOwn ..).trans (if_pos rfl)

/-- A channel that no gleaner of its own keeps in reset shows IN_RESET no more; the unit itself is another. -/
theorem settleChannel_leaves : (settleChannel u b).boot = b.boot ∧ (settleChannel u b).face.own = b.face.own ∧
    reg (settleChannel u b) u Fld.unitResetHold.off = reg b u Fld.unitResetHold.off := by
  unfold settleChannel
  dsimp only
  split
  · exact ⟨rfl, rfl, rfl⟩
  · next hgo =>
    have hk : kindOf u = some .gleaner := by
      refine Decidable.byContradiction fun hne => ?_
      exact hgo (.inl hne)
    refine ⟨rfl, rfl, ?_⟩
    have hu : 512 + (u - 4096) / 8 ≠ u := by
      intro heq
      have hlow : u < 4096 := by omega
      have : u = 512 := by omega
      rw [this] at hk
      exact absurd hk (by decide)
    rw [setFld, reg_setReg, if_neg fun h => hu ((regKey_inj _ _ _ _ (by decide) (by decide)).mp h).1.symm]

/-- What a unit is after its reset. -/
structure ResetOver (u : Nat) (good : Bool) (r : Rst) (b c : Block) : Prop where
  rst : rstOf c u = none
  out : flag c u Fld.unitResetInReset = false
  done : flag c u Fld.unitStatusResetDone = true
  own : ownOf c u = ownOf (unitReady u good (resetLeft u r b)) u

theorem resetOver_resetDone {r : Rst} (h : rstOf b u = some r) (hr : r.release = true) (hw : memberWaits b u = false) :
    ResetOver u good r b (resetDone u good b) := by
  rw [resetDone_leaves h hr hw]
  obtain ⟨hboot, hown, hreg⟩ := settleChannel_leaves (u := u) (b := unitReady u good (resetLeft u r b))
  have hpart := unitPart_notify (settleChannel u (unitReady u good (resetLeft u r b))) u (f := Fld.unitStatusResetDone) .sysResetDone 0 (by decide)
  refine ⟨?_, ?_, ?_, ?_⟩
  · rw [rstOf_of_boot (boot_of_unitPart hpart), rstOf_of_boot hboot, rstOf_of_boot boot_unitReady]
    exact rstOf_resetLeft r
  · exact (flag_of_reg (reg_of_unitPart hpart u)).trans ((flag_of_reg hreg).trans ((flag_of_reg reg_unitReady).trans (inReset_resetLeft r)))
  · exact flag_notify_status _ _ (by decide) rfl (by decide) rfl
  · rw [own_of_unitPart hpart, ownOf, hown]
    rfl

theorem resetOver_resetDoneCmd {r : Rst} (h : rstOf b u = some r) (hr : r.release = true) (hw : memberWaits b u = false) :
    ResetOver u good r b (resetDoneCmd u good b) := by
  have hd := resetOver_resetDone (good := good) h hr hw
  rw [resetDoneCmd_resends (by rw [h]; rfl) hd.rst]
  obtain ⟨hrst, hown, hregs⟩ := loadPart_eq_iff.mp (loadPart_loadsResent (u := u) (b := resetDone u good b))
  exact ⟨by rw [rstOf, hrst]; exact hd.rst, (flag_of_reg (hregs u).1).trans hd.out, (flag_of_reg (hregs u).2).trans hd.done,
    by rw [ownOf, hown]; exact hd.own⟩

/-! #### A gleaner's regions -/

theorem SMap.mem_put_of_ne {α : Type} {p : Nat × α} {i : Nat} (x : α) (h : p.1 ≠ i) : ∀ {m : SMap α}, p ∈ m → p ∈ m.put i x := by
  intro m
  induction m with
  | nil => exact fun hp => absurd hp List.not_mem_nil
  | cons q m ih =>
    intro hp
    rw [SMap.put]
    split
    · exact List.mem_cons_of_mem _ hp
    · split
      · next hi =>
        obtain rfl | hp := List.mem_cons.mp hp
        · exact absurd hi.symm h
        · exact List.mem_cons_of_mem _ hp
      · obtain rfl | hp := List.mem_cons.mp hp
        · exact List.mem_cons_self
        · exact List.mem_cons_of_mem _ (ih hp)

/-- A loaded region whose CRC differs from the recorded one. -/
def BadRegion (x : Gleaner) (p : Nat × List Byte) : Prop := p ∈ x.imem ∧ ∃ c, x.crcs.find p.1 = some c ∧ crc32c p.2 ≠ c

theorem mem_badRegions {x : Gleaner} {k : Nat} : k ∈ badRegions x ↔ ∃ p, BadRegion x p ∧ p.1 = k := by
  unfold badRegions BadRegion
  simp only [List.mem_map, List.mem_filter]
  constructor
  · rintro ⟨p, ⟨hp, hc⟩, rfl⟩
    cases hf : x.crcs.find p.1 with
    | none => simp [hf] at hc
    | some c => exact ⟨p, ⟨hp, c, hf, by simpa [hf] using hc⟩, rfl⟩
  · rintro ⟨p, ⟨hp, c, hf, hc⟩, rfl⟩
    exact ⟨p, ⟨hp, by simp [hf, hc]⟩, rfl⟩

/-- A region of which the reeve holds no image stays as it is. -/
theorem badRegion_mendRegions {p : Nat × List Byte} (hp : BadRegion (glOf b (u - 4096)) p) (hn : regionImage b u p.1 = none) :
    BadRegion (glOf (mendRegions u b) (u - 4096)) p := by
  unfold mendRegions
  generalize badRegions (glOf b (u - 4096)) = rs
  induction rs generalizing b with
  | nil => exact hp
  | cons r rs ih =>
    rw [List.foldl_cons]
    cases hl : regionImage b u r with
    | none => exact ih hp hn
    | some l =>
      have hne : p.1 ≠ r := fun h => by rw [h, hl] at hn; simp at hn
      obtain ⟨hmem, c, hf, hc⟩ := hp
      refine ih ⟨?_, c, ?_, hc⟩ hn
      · rw [glOf_modGl, if_pos rfl]
        exact SMap.mem_put_of_ne _ hne hmem
      · rw [glOf_modGl, if_pos rfl]
        exact hf

theorem imagesGood_other (h : kindOf u ≠ some .gleaner) : imagesGood b u = true := by simp [imagesGood, h]

theorem reload_gleaner (h : kindOf u = some .gleaner) : reload u good b = mendRegions u b := by rw [reload, h]

theorem imagesGood_whole (h : kindOf u = some .gleaner) (hb : badRegions (glOf b (u - 4096)) = []) : imagesGood (reload u good b) u = true := by
  have hm : mendRegions u b = b := by rw [mendRegions, hb]; rfl
  rw [reload_gleaner h, hm, imagesGood, hb]
  simp

theorem imagesGood_lost (h : kindOf u = some .gleaner) {k : Nat} (hk : k ∈ badRegions (glOf b (u - 4096))) (hn : regionImage b u k = none) :
    imagesGood (reload u good b) u = false := by
  obtain ⟨p, hp, rfl⟩ := mem_badRegions.mp hk
  have hbad := mem_badRegions.mpr ⟨p, badRegion_mendRegions hp hn, rfl⟩
  have hne : badRegions (glOf (mendRegions u b) (u - 4096)) ≠ [] := List.ne_nil_of_mem hbad
  rw [reload_gleaner h, imagesGood]
  simp [h, hne]

/-- A unit that was cleared before its end has the same regions and images to mend them. -/
theorem regions_resetLeft {r : Rst} (hc : r.cleared = true) :
    glOf (resetLeft u r b) (u - 4096) = glOf b (u - 4096) ∧ ∀ k, regionImage (resetLeft u r b) u k = regionImage b u k := by
  obtain ⟨hgln, hboot⟩ := resetLeft_cleared (u := u) (b := b) hc
  exact ⟨glOf_of_gln hgln _, fun k => by rw [regionImage, regionImage, hboot]⟩

end

end Sys2Proof.Machine

open Sys2Proof Sys2Proof.Machine

/-- Settles O53: by what the unit's reset reaches, whether it is in reset and who holds it; the end of a reset by the unit's kind. -/
theorem resets : Obligations.Resets := by
  unfold Obligations.Resets
  intro s u
  refine ⟨fun hrails hm out => ⟨?heldChip, fun v hu => ?heldUnit, ?heldPulse⟩, fun hon => ?on⟩
  case heldChip =>
    intro v hu
    refine acts_hold hrails ?_
    rw [hu, hold_chip, hm]
    cases v <;> rfl
  case heldUnit => exact acts_hold hrails (hold_of_moduleHeld hu hm v)
  case heldPulse => exact acts_pulse hrails (pulse_of_moduleHeld hm)
  case on =>
    obtain ⟨hrails, hm⟩ := powered_of_mainOn hon
    refine ⟨?chip, ?inReset, ?noReset, ?waits, ?clears, ?chipPulse, ?released, ?noEnd, fun r hr => ⟨?early, ?due, ?stays, ?leaves⟩⟩
    case chip =>
      intro hu v out
      refine acts_hold hrails ?_
      rw [hu, hold_chip, hm]
      cases v <;> rfl
    case inReset => exact fun h out => acts_pulse hrails (pulse_in_reset h)
    case noReset =>
      intro hu hr out v
      refine ⟨acts_pulse hrails ?_, acts_hold hrails (hold_of_noReach hu hr v)⟩
      by_cases h : (rstOf s.blk u).isSome = true
      · exact pulse_in_reset h
      · exact (pulse_fresh hm (by simpa using h)).trans (startReset_of_noReach hu hr false)
    case waits =>
      intro h hr out hout
      obtain ⟨hrst, habs, hown⟩ := beginReset_waits hr h hout false
      have hpulse : Acts (.pulse u out) s (beginReset u out false) := acts_pulse hrails ((pulse_fresh hm h).trans (startReset_alone hr false))
      have hhold : Acts (.hold u true out) s (fun b => setFld u Fld.unitResetHold 1 (beginReset u out true b)) := acts_hold hrails (hold_alone hr hm)
      refine ⟨answersWith_of_acts hpulse ⟨hrst, habs, hown⟩, answersWith_of_acts hhold ⟨(beginReset_waits hr h hout true).1, ?_⟩⟩
      refine (?_ : flag (setFld u Fld.unitResetHold 1 (beginReset u out true s.blk)) u Fld.unitResetHold = true)
      rw [flag, fld_setFld_same _ _ _ (by decide) (by decide)]
      rfl
    case clears =>
      intro h hr
      have hpulse : Acts (.pulse u 0) s (beginReset u 0 false) := acts_pulse hrails ((pulse_fresh hm h).trans (startReset_alone hr false))
      have hhold : Acts (.hold u true 0) s (fun b => setFld u Fld.unitResetHold 1 (beginReset u 0 true b)) := acts_hold hrails (hold_alone hr hm)
      exact ⟨answersWith_of_acts hpulse (beginReset_clears hr h false), answersWith_of_acts hhold (beginReset_clears hr h true)⟩
    case chipPulse =>
      intro hu out h
      refine acts_pulse hrails ((pulse_fresh hm h).trans ?_)
      rw [hu]
      exact if_pos rfl
    case released =>
      intro r out h hr
      have hacts : Acts (.hold u false out) s (hold u false out) := acts_hold hrails rfl
      exact answersWith_of_acts hacts (release_alone_frees hr hm h)
    case noEnd =>
      exact fun h => ⟨acts_main (g := drainTimeout u) rfl hon (drainTimeout_none h),
        fun good => acts_main (g := resetDoneCmd u good) rfl hon (resetDoneCmd_kept (resetDone_none h))⟩
    case early => exact fun hw => acts_main (g := drainTimeout u) rfl hon (drainTimeout_early hr hw)
    case due => exact fun hout ht => acts_main (g := drainTimeout u) rfl hon (drainTimeout_due hr hout ht)
    case stays => exact fun good hw => acts_main (g := resetDoneCmd u good) rfl hon (resetDoneCmd_kept (resetDone_early hr hw))
    case leaves =>
      intro good hrel hw
      have hacts : Acts (.sysResetDone u good) s (resetDoneCmd u good) := acts_main (g := resetDoneCmd u good) rfl hon rfl
      have h := resetOver_resetDoneCmd (good := good) hr hrel hw
      refine answersWith_of_acts hacts ⟨h.rst, h.out, h.done, fun hgl hk => ?_, fun hk hc => ?_⟩
      · refine (h.own.trans (own_unitReady hgl)).trans ?_
        rw [imagesGood_other hk, Bool.and_true]
      · have hgl : forGleaners u = false := by rw [forGleaners, hk]; rfl
        obtain ⟨hregions, himages⟩ := regions_resetLeft (u := u) (b := s.blk) hc
        refine ⟨fun hb => ?_, fun k hbad hn => ?_⟩
        · refine (h.own.trans (own_unitReady hgl)).trans ?_
          rw [imagesGood_whole hk (by rw [hregions]; exact hb), Bool.and_true]
        · refine (h.own.trans (own_unitReady hgl)).trans ?_
          rw [imagesGood_lost hk (by rw [hregions]; exact hbad) (by rw [himages]; exact hn), Bool.and_false]
          rfl

end

section
/-! PROOFS. The power manager: cap, temperatures, rails and clocks (R454, R555 to R565, R590). -/

namespace Sys2Proof.Machine

variable (b : Block)

/-! ### What the links' frames leave of the power and the reference clocks -/

/-- The reference clocks, and the registers that say whether the main domain is on. -/
def powerPart (b : Block) : Bool × Bool × Nat × Nat :=
  (b.tly.ref0, b.tly.ref1, reg b uTly Fld.tlyPowerMainOn.off, reg b uChip Fld.unitResetHold.off)

theorem powerPart_eq_iff {b c : Block} : powerPart c = powerPart b ↔ c.tly.ref0 = b.tly.ref0 ∧ c.tly.ref1 = b.tly.ref1 ∧
    reg c uTly Fld.tlyPowerMainOn.off = reg b uTly Fld.tlyPowerMainOn.off ∧ reg c uChip Fld.unitResetHold.off = reg b uChip Fld.unitResetHold.off := by
  simp [powerPart]

theorem powerPart_of {b c : Block} (hf : c.face = b.face) (ht : c.tly = b.tly) : powerPart c = powerPart b :=
  powerPart_eq_iff.mpr ⟨by rw [ht], by rw [ht], reg_of_face hf .., reg_of_face hf ..⟩

theorem mainOn_of_powerPart {b c : Block} (h : powerPart c = powerPart b) : mainOn c = mainOn b := by
  obtain ⟨-, -, hpower, hreset⟩ := powerPart_eq_iff.mp h
  rw [mainOn, mainOn, railsUp, railsUp, moduleHeld, moduleHeld, flag, flag, flag, flag, fld, fld, fld, fld]
  simp only [Nat.mul_zero, Nat.add_zero, hpower, hreset]

theorem ref1_of_powerPart {b c : Block} (h : powerPart c = powerPart b) : c.tly.ref1 = b.tly.ref1 := (powerPart_eq_iff.mp h).2.1

@[simp] theorem powerPart_setReg {u o : Nat} (v : Nat) (h : o % 2 ^ 20 ≠ Fld.tlyPowerMainOn.off ∧ o % 2 ^ 20 ≠ Fld.unitResetHold.off) :
    powerPart (setReg u o v b) = powerPart b := by
  have hp : Fld.tlyPowerMainOn.off = 0x10004 := rfl
  have hh : Fld.unitResetHold.off = 0xc := rfl
  have hne {v' o' : Nat} (ho : o' < 2 ^ 20) (hneq : o % 2 ^ 20 ≠ o') : regKey v' o' ≠ regKey u o := by
    unfold regKey
    omega
  exact powerPart_eq_iff.mpr ⟨rfl, rfl, by rw [reg_setReg, if_neg (hne (by decide) h.1)], by rw [reg_setReg, if_neg (hne (by decide) h.2)]⟩

@[simp] theorem powerPart_ite (p : Prop) [Decidable p] (c d : Block) : powerPart (if p then c else d) = if p then powerPart c else powerPart d := apply_ite ..
@[simp] theorem powerPart_bump {u o : Nat} (n : Nat) (h : o % 2 ^ 20 ≠ Fld.tlyPowerMainOn.off ∧ o % 2 ^ 20 ≠ Fld.unitResetHold.off)
    (h' : (o + 4) % 2 ^ 20 ≠ Fld.tlyPowerMainOn.off ∧ (o + 4) % 2 ^ 20 ≠ Fld.unitResetHold.off) : powerPart (bump u o n b) = powerPart b := by
  simp only [bump]
  rw [powerPart_setReg _ _ h', powerPart_setReg _ _ h]
@[simp] theorem powerPart_setFld {u : Nat} {f : Field} (v : Nat) (h : f.off % 2 ^ 20 ≠ Fld.tlyPowerMainOn.off ∧ f.off % 2 ^ 20 ≠ Fld.unitResetHold.off) :
    powerPart (setFld u f v b) = powerPart b := powerPart_setReg _ _ (by simpa using h)
@[simp] theorem powerPart_setSq (u : Nat) {f : Field} (h : f.off % 2 ^ 20 ≠ Fld.tlyPowerMainOn.off ∧ f.off % 2 ^ 20 ≠ Fld.unitResetHold.off) :
    powerPart (setSq u f b) = powerPart b := by
  have hset := powerPart_setReg (u := u) (o := f.off + f.stride * 0) b
    ((reg b u (f.off + f.stride * 0) / 2 ^ 16 + 1) % 2 ^ 16 * 2 ^ 16 + Nat.lor (reg b u (f.off + f.stride * 0) % 2 ^ 16) (2 ^ f.lo)) (by simpa using h)
  exact hset
@[simp] theorem powerPart_bbPush (r : BbRec) : powerPart (bbPush r b) = powerPart b := by
  unfold bbPush
  split
  · exact powerPart_of rfl rfl
  · rw [powerPart_bump _ _ (by decide) (by decide)]
    rfl
@[simp] theorem powerPart_raise (u : Nat) (e : Ev) (a : Nat) : powerPart (raise u e a b) = powerPart b := by
  have href : (raise u e a b).tly.ref0 = b.tly.ref0 ∧ (raise u e a b).tly.ref1 = b.tly.ref1 := by
    have hput : (countEvent e (ringPut u e a b)).tly = b.tly := by
      unfold countEvent ringPut
      dsimp only
      split <;> split <;> rfl
    unfold raise
    dsimp only
    split
    · exact ⟨(powerPart_eq_iff.mp (powerPart_bbPush _ _)).1.trans (by rw [hput]), (powerPart_eq_iff.mp (powerPart_bbPush _ _)).2.1.trans (by rw [hput])⟩
    · exact ⟨by rw [hput], by rw [hput]⟩
  exact powerPart_eq_iff.mpr ⟨href.1, href.2, reg_raise_beside b u e a (by decide) (by decide) (by decide) (by decide) (by decide) (by decide),
    reg_raise_beside b u e a (by decide) (by decide) (by decide) (by decide) (by decide) (by decide)⟩
@[simp] theorem powerPart_notify (u : Nat) {f : Field} (e : Ev) (a : Nat) (h : f.off % 2 ^ 20 ≠ Fld.tlyPowerMainOn.off ∧ f.off % 2 ^ 20 ≠ Fld.unitResetHold.off) :
    powerPart (notify u f e a b) = powerPart b := by rw [notify, powerPart_raise, powerPart_setSq _ _ h]
@[simp] theorem powerPart_poke (a : Nat) (v : List Byte) : powerPart (poke a v b) = powerPart b := powerPart_of rfl rfl
@[simp] theorem powerPart_setMark (l : Nat) (m : Option LineMark) : powerPart (setMark l m b) = powerPart b := powerPart_of rfl rfl
@[simp] theorem powerPart_noteFail (l : Nat) : powerPart (noteFail l b) = powerPart b := powerPart_of rfl rfl
@[simp] theorem powerPart_failElsewhere : powerPart (failElsewhere b) = powerPart b := powerPart_of rfl rfl
@[simp] theorem powerPart_addrFault (i : Issuer) (a : Nat) : powerPart (addrFault i a b) = powerPart b := powerPart_raise ..
@[simp] theorem powerPart_recordRow (pl : Place) (u : Bool) : powerPart (recordRow pl u b) = powerPart b := by
  unfold recordRow; dsimp only; (repeat' split) <;> exact powerPart_of rfl rfl
@[simp] theorem powerPart_chargeRereads (ls : List Nat) : powerPart (chargeRereads ls b) = powerPart b := foldl_keeps _ _ _ _ (by simp (disch := decide))
@[simp] theorem powerPart_readOne (l : Nat) : powerPart (readOne l b).2 = powerPart b := by
  unfold readOne
  split
  · exact powerPart_noteFail ..
  · dsimp only
    split
    case h_3 => split <;> simp (disch := decide)
    all_goals simp (disch := decide)
@[simp] theorem powerPart_writeLine (a : Nat) (v : List Byte) (t : Option Nat) (l : Nat) : powerPart (writeLine a v t l b).2 = powerPart b := by
  unfold writeLine
  dsimp only
  split
  · exact powerPart_noteFail ..
  · split
    · rw [powerPart_poke]; split <;> exact powerPart_of rfl rfl
    · simp (disch := decide)
@[simp] theorem powerPart_serveWrite (a : Nat) (v : List Byte) (t : Option Nat) : powerPart (serveWrite a v t b).2 = powerPart b := by
  unfold serveWrite
  dsimp only
  rw [foldl_keeps (fun (acc : Bool × Block) => powerPart acc.2) _ _ _ (by simp (disch := decide))]
  split <;> simp (disch := decide)
@[simp] theorem powerPart_tablePut (a : Nat) (v : List Byte) : powerPart (tablePut a v b) = powerPart b := by unfold tablePut; split <;> simp (disch := decide)
@[simp] theorem powerPart_answer (s : Status) (v : Nat) : powerPart (answer s v b) = powerPart b := powerPart_eq_iff.mpr ⟨rfl, rfl, rfl, rfl⟩
@[simp] theorem powerPart_modFab (f : Fabric → Fabric) : powerPart (modFab f b) = powerPart b := powerPart_of rfl rfl
@[simp] theorem powerPart_setLink (l : Nat) (x : Link) : powerPart (setLink l x b) = powerPart b := powerPart_of rfl rfl
@[simp] theorem powerPart_modLink (l : Nat) (f : Link → Link) : powerPart (modLink l f b) = powerPart b := powerPart_of rfl rfl
@[simp] theorem powerPart_setLinkState (l s : Nat) : powerPart (setLinkState l s b) = powerPart b := powerPart_setFld _ _ (by decide)
@[simp] theorem powerPart_setPair (j r : Nat) (p : Pair) : powerPart (setPair j r p b) = powerPart b := powerPart_of rfl rfl
@[simp] theorem powerPart_drawEntropy : powerPart (drawEntropy b).2 = powerPart b := powerPart_eq_iff.mpr ⟨rfl, rfl, rfl, rfl⟩
theorem powerPart_of_counted {u : Nat} {b c : Block} (h : CountedOnly u b c) (ht : c.tly = b.tly) : powerPart c = powerPart b := by
  have hreg {v o : Nat} (ho : o < 0x20100) : reg c v o = reg b v o := h v o (by omega)
  exact powerPart_eq_iff.mpr ⟨by rw [ht], by rw [ht], hreg (by decide), hreg (by decide)⟩
@[simp] theorem powerPart_macSend (u c : Nat) (f : List Byte) : powerPart (macSend u c f b).2 = powerPart b :=
  powerPart_of_counted (countedOnly_macSend b u c f) (congrArg Block.tly (rxKept_macSend b u c f).rest :)
@[simp] theorem powerPart_sendData (l v : Nat) : powerPart (sendData l v b) = powerPart b := by
  simp only [sendData]
  rw [powerPart_bump _ _ (by decide) (by decide)]
  exact powerPart_of rfl rfl
@[simp] theorem powerPart_pumpGo (l n : Nat) : powerPart (pumpGo l n b) = powerPart b := by
  induction n generalizing b with
  | zero => rfl
  | succ n ih =>
    unfold pumpGo; dsimp only; split
    · rfl
    · split <;> simp (disch := decide) [ih]
@[simp] theorem powerPart_pumpLink (l : Nat) : powerPart (pumpLink l b) = powerPart b := by unfold pumpLink; split <;> simp (disch := decide)
@[simp] theorem powerPart_putFrame (j l r v : Nat) (f : List Byte) : powerPart (putFrame j l r v f b) = powerPart b := by
  unfold putFrame; split
  · simp (disch := decide)
  · split <;> simp (disch := decide)
@[simp] theorem powerPart_routeFrame (j r : Nat) (p : Option Nat) (f : List Byte) : powerPart (routeFrame j r p f b).2 = powerPart b := by
  unfold routeFrame; dsimp only; split
  · split <;> simp (disch := decide)
  · simp (disch := decide)
@[simp] theorem powerPart_sendKeyx (j r : Nat) : powerPart (sendKeyx j r b) = powerPart b := by unfold sendKeyx; split <;> simp (disch := decide)
@[simp] theorem powerPart_startAgree (j r n : Nat) : powerPart (startAgree j r n b) = powerPart b := by unfold startAgree; split <;> simp (disch := decide)
@[simp] theorem powerPart_noteAdvance (j r : Nat) (p q : Pair) : powerPart (noteAdvance j r p q b) = powerPart b := by
  unfold noteAdvance; dsimp only; split <;> simp (disch := decide)
theorem powerPart_issueReq {q : FabReq} {p : Pair} {c : Block} (h : issueReq q p b = some c) : powerPart c = powerPart b := by
  unfold issueReq at h
  dsimp only at h
  split at h
  · cases h
  · cases h; simp (disch := decide)
@[simp] theorem powerPart_endReq (q : FabReq) (s : Status) (v : Nat) : powerPart (endReq q s v b) = powerPart b := by
  unfold endReq; dsimp only; (repeat' split) <;> simp (disch := decide)
@[simp] theorem powerPart_tryReq (q : FabReq) : powerPart (tryReq q b) = powerPart b := by
  unfold tryReq; dsimp only; split
  · simp (disch := decide)
  · split
    · simp (disch := decide)
    · split
      · simp (disch := decide)
      · rename_i p _ _
        cases h : issueReq q p b with
        | none => simp (disch := decide)
        | some c => simpa using powerPart_issueReq b h
@[simp] theorem powerPart_fabricRequest (q : FabReq) : powerPart (fabricRequest q b) = powerPart b := by unfold fabricRequest; split <;> simp (disch := decide)
@[simp] theorem powerPart_retryWants : powerPart (retryWants b) = powerPart b := by
  unfold retryWants; exact (foldl_keeps _ _ _ _ (by simp (disch := decide))).trans (powerPart_modFab ..)
@[simp] theorem powerPart_finishReq (h : Held) (s : Status) (v : Nat) : powerPart (finishReq h s v b) = powerPart b := by simp (disch := decide) [finishReq]
@[simp] theorem powerPart_resend (h : Held) : powerPart (resend h b) = powerPart b := by
  unfold resend; dsimp only; split
  · rw [powerPart_finishReq, powerPart_notify _ _ _ _ (by decide)]
  · rw [powerPart_bump _ _ (by decide) (by decide)]; simp
@[simp] theorem powerPart_rewriteVia (j : Nat) : powerPart (rewriteVia j b) = powerPart b := by
  unfold rewriteVia; dsimp only
  refine foldl_keeps _ _ _ _ fun c r => ?_
  simp (disch := decide)
@[simp] theorem powerPart_linksChanged : powerPart (linksChanged b) = powerPart b := foldl_keeps _ _ _ _ (by simp (disch := decide))
@[simp] theorem powerPart_linkLeft (l : Nat) : powerPart (linkLeft l b) = powerPart b := by
  unfold linkLeft; exact (foldl_keeps _ _ _ _ (by simp (disch := decide))).trans (powerPart_linksChanged b)

@[simp] theorem powerPart_failLink (l : Nat) : powerPart (failLink l b) = powerPart b := by
  unfold failLink
  dsimp only
  split <;> simp (disch := decide)

@[simp] theorem powerPart_enterRetrain (l : Nat) : powerPart (enterRetrain l b) = powerPart b := by
  unfold enterRetrain
  dsimp only
  split <;> simp (disch := decide)

theorem powerPart_macCount (u n : Nat) {k : Nat} (hk : k < 32) : powerPart (macCount u k n b) = powerPart b :=
  powerPart_of_counted (countedOnly_macCount b n hk) rfl

@[simp] theorem powerPart_macLinkDown (u : Nat) : powerPart (macLinkDown u b) = powerPart b := by
  have hlpi (c : Block) : powerPart (settleLpi u c) = powerPart c := by
    unfold settleLpi
    split
    · exact (powerPart_macCount _ _ _ (by decide)).trans (powerPart_of rfl rfl)
    · rfl
  have htx (c : Block) : powerPart (settleTx u c) = powerPart c := powerPart_of_counted (countedOnly_settleTx c) (by
    unfold settleTx
    dsimp only
    split <;> rfl)
  unfold macLinkDown
  dsimp only
  split
  · rfl
  · rw [powerPart_notify _ _ _ _ (by decide), htx, powerPart_macCount _ _ _ (by decide)]
    exact (powerPart_of rfl rfl).trans (hlpi b)

@[simp] theorem powerPart_portDown (u : Nat) : powerPart (portDown u b) = powerPart b := by
  unfold portDown
  dsimp only
  split <;> simp


variable {b : Block}

/-! ### The code of the supply, and the stacks' caps of the temperature and the power cap (R558, R561) -/

theorem vcode_lt : vcode b < 64 := Nat.mod_lt _ (by decide)

/-- A code set stands, and nothing but the supply's state and its voltage changes. -/
theorem vcode_setVcode {v : Nat} (h : v < 64) : vcode (setVcode v b) = v := by
  unfold setVcode
  dsimp only
  rw [vcode, fld_setFld_beside (f := Fld.pwrStateLimited) (g := Fld.pwrStateVcode) _ _ _ rfl (by decide) (by decide) (.inr (by decide)),
    fld_setFld_same _ _ _ (by decide) (by decide)]
  exact Nat.mod_eq_of_lt h

theorem tly_setVcode (v : Nat) : (setVcode v b).tly = b.tly := rfl

theorem reg_setVcode (v : Nat) {u o : Nat} (hs : regKey u o ≠ regKey uPwr Off.pwrState) (hv : regKey u o ≠ regKey uPwr Off.pwrVcore) :
    reg (setVcode v b) u o = reg b u o := by
  unfold setVcode
  dsimp only
  have h1 (f : Field) (x : Nat) (c : Block) (hf : f.off + f.stride * 0 = Off.pwrState) : reg (setFld uPwr f x c) u o = reg c u o := by
    rw [setFld, reg_setReg, hf, if_neg hs]
  rw [h1 _ _ _ rfl, h1 _ _ _ rfl, h1 _ _ _ rfl, reg_setReg, if_neg hv]
  rfl

/-- A stack's TLYCAP is the lower of its temperature's and the power cap's. -/
def tlycapSet (b : Block) (s : Nat) : Block :=
  let c := min (tempTerm (b.tly.base.get 0 s)) (capTerm b)
  if c = fld b (uStack s) Fld.grnGrStateTlycap then b else tlycapChange s c b

theorem setTlycaps_eq : setTlycaps b = (List.range 32).foldl tlycapSet b := rfl

theorem face_giveUps (l : List Nat) : (l.foldl (fun b g => modGl g (fun x => { x with giveUp := true }) b) b).face = b.face :=
  foldl_keeps Block.face _ _ _ fun _ _ => rfl

theorem tly_tlycapSet (s : Nat) : (tlycapSet b s).tly = b.tly := by
  unfold tlycapSet
  dsimp only
  split
  · rfl
  · exact foldl_keeps Block.tly _ _ _ fun _ _ => rfl

theorem reg_tlycapSet (s : Nat) {u o : Nat} (h : regKey u o ≠ regKey (uStack s) Fld.grnGrStateTlycap.off) : reg (tlycapSet b s) u o = reg b u o := by
  unfold tlycapSet
  dsimp only
  split
  · rfl
  · refine (reg_of_face (face_giveUps _) u o).trans ?_
    rw [setFld, reg_setReg]
    exact if_neg h

theorem tly_setTlycaps : (setTlycaps b).tly = b.tly := foldl_keeps Block.tly _ _ b fun _ s => tly_tlycapSet s

/-- A register of a unit below the stacks stays. -/
theorem reg_setTlycaps {u o : Nat} (hu : u < 160) (ho : o < 2 ^ 20) : reg (setTlycaps b) u o = reg b u o := by
  refine foldl_keeps (fun c => reg c u o) _ _ b fun c s => reg_tlycapSet s fun h => ?_
  have := ((regKey_inj _ _ _ _ ho (by decide)).mp h).1
  unfold uStack at this
  omega

theorem capTerm_of {c : Block} (ht : c.tly = b.tly) (hr : reg c uPwr Off.pwrCap = reg b uPwr Off.pwrCap) : capTerm c = capTerm b := by
  have hw : fld c uPwr Fld.pwrCapWatts = fld b uPwr Fld.pwrCapWatts := fld_of_reg hr
  rw [capTerm, capTerm, capBase, capBase, hw, ht]

theorem capTerm_setTlycaps : capTerm (setTlycaps b) = capTerm b := capTerm_of tly_setTlycaps (reg_setTlycaps (by decide) (by decide))

theorem tempTerm_le (t : Nat) : tempTerm t ≤ 32 := by
  unfold tempTerm
  dsimp only
  split
  · exact Nat.le_refl _
  · split
    · decide
    · split <;> decide

/-- The stack's own cap. -/
theorem tlycap_tlycapSet (s : Nat) : fld (tlycapSet b s) (uStack s) Fld.grnGrStateTlycap = min (tempTerm (b.tly.base.get 0 s)) (capTerm b) := by
  have hle := tempTerm_le (b.tly.base.get 0 s)
  unfold tlycapSet
  dsimp only
  split
  · next h => exact h.symm
  · refine (fld_of_face (face_giveUps _) ..).trans ?_
    rw [fld_setFld_same _ _ _ (by decide) (by decide)]
    have h64 : 2 ^ (Fld.grnGrStateTlycap.hi + 1 - Fld.grnGrStateTlycap.lo) = 64 := rfl
    rw [h64]
    omega

/-- Every stack takes the cap of its temperature and of the power cap. -/
theorem tlycap_setTlycaps {k : Nat} (hk : k < 32) : fld (setTlycaps b) (uStack k) Fld.grnGrStateTlycap = min (tempTerm (b.tly.base.get 0 k)) (capTerm b) := by
  have hfold : ∀ n (c : Block), c.tly = b.tly → capTerm c = capTerm b → k < n →
      fld ((List.range n).foldl tlycapSet c) (uStack k) Fld.grnGrStateTlycap = min (tempTerm (b.tly.base.get 0 k)) (capTerm b) := by
    intro n
    induction n with
    | zero => exact fun _ _ _ h => absurd h (Nat.not_lt_zero k)
    | succ n ih =>
      intro c ht hc hlt
      have htly : ((List.range n).foldl tlycapSet c).tly = b.tly := (foldl_keeps Block.tly _ _ c fun _ s => tly_tlycapSet s).trans ht
      have hterm : capTerm ((List.range n).foldl tlycapSet c) = capTerm b :=
        (foldl_keeps capTerm _ _ c fun d s => capTerm_of (tly_tlycapSet s) (reg_tlycapSet s (by
          rw [ne_eq, regKey_inj _ _ _ _ (by decide) (by decide)]
          exact fun h => absurd h.2 (by decide)))).trans hc
      rw [List.range_succ, List.foldl_append, List.foldl_cons, List.foldl_nil]
      obtain hlt | rfl := Nat.lt_succ_iff_lt_or_eq.mp hlt
      · refine (fld_of_reg (reg_tlycapSet n ?_)).trans (ih c ht hc hlt)
        rw [ne_eq, regKey_inj _ _ _ _ (by decide) (by decide)]
        unfold uStack
        omega
      · rw [tlycap_tlycapSet, htly, hterm]
  exact hfold 32 b rfl rfl hk

theorem vcode_setTlycaps : vcode (setTlycaps b) = vcode b := fld_of_reg (reg_setTlycaps (by decide) (by decide))

/-! ### PWR_CAP (R558) -/

theorem pwrCapWrite_refused {v : Nat} (h : v % 2 ^ 16 < 800 ∨ envelopeWatts < v % 2 ^ 16 ∨ envelopeCode < bitsOf v 29 24) :
    pwrCapWrite v b = (.badArgument, setSq uPwr Fld.pwrStatusCapReject b) := if_pos h

/-- The cap is in force, and the code is no higher than its ceiling. -/
def capTaken (v : Nat) (b : Block) : Block :=
  let c := setReg uPwr Off.pwrCap (v % 2 ^ 30) b
  if vmax c < vcode c then setVcode (vmax c) c else setFld uPwr Fld.pwrStateLimited (b2n (decide (vcode c < vmax c))) c

theorem pwrCapWrite_taken {v : Nat} (h : 800 ≤ v % 2 ^ 16) (h' : v % 2 ^ 16 ≤ envelopeWatts) (hc : bitsOf v 29 24 ≤ envelopeCode) :
    pwrCapWrite v b = (.ok, setTlycaps (capTaken v b)) := if_neg (by omega)

theorem reg_capTaken (v : Nat) : reg (capTaken v b) uPwr Off.pwrCap = v % 2 ^ 30 := by
  have hcap : reg (setReg uPwr Off.pwrCap (v % 2 ^ 30) b) uPwr Off.pwrCap = v % 2 ^ 30 := by
    rw [reg_setReg_same]
    omega
  unfold capTaken
  dsimp only
  split
  · rw [reg_setVcode _ (by decide) (by decide), hcap]
  · refine Eq.trans ?_ hcap
    rw [setFld, reg_setReg]
    exact if_neg (by decide)

theorem watts_capTaken (v : Nat) : fld (capTaken v b) uPwr Fld.pwrCapWatts = v % 2 ^ 16 := by
  rw [fld, show Fld.pwrCapWatts.off + Fld.pwrCapWatts.stride * 0 = Off.pwrCap from rfl, reg_capTaken]
  simp only [bitsOf, Fld.pwrCapWatts, Nat.shiftRight_zero]
  omega

theorem vceil_capTaken (v : Nat) : fld (capTaken v b) uPwr Fld.pwrCapVceil = bitsOf v 29 24 := by
  rw [fld, show Fld.pwrCapVceil.off + Fld.pwrCapVceil.stride * 0 = Off.pwrCap from rfl, reg_capTaken]
  simp only [bitsOf, Fld.pwrCapVceil, Nat.shiftRight_eq_div_pow]
  omega

theorem vcode_capTaken (v : Nat) : vcode (capTaken v b) ≤ bitsOf v 29 24 := by
  have hmax : vmax (setReg uPwr Off.pwrCap (v % 2 ^ 30) b) ≤ bitsOf v 29 24 := by
    refine Nat.le_trans (Nat.min_le_left _ _) (Nat.le_of_eq ?_)
    rw [fld, show Fld.pwrCapVceil.off + Fld.pwrCapVceil.stride * 0 = Off.pwrCap from rfl, reg_setReg_same]
    simp only [bitsOf, Fld.pwrCapVceil, Nat.shiftRight_eq_div_pow]
    omega
  unfold capTaken
  dsimp only
  split
  · next h => rw [vcode_setVcode (Nat.lt_trans h vcode_lt)]; exact hmax
  · next h =>
    rw [vcode, fld_setFld_beside (f := Fld.pwrStateLimited) (g := Fld.pwrStateVcode) _ _ _ rfl (by decide) (by decide) (.inr (by decide))]
    exact Nat.le_trans (Nat.le_of_not_lt h) hmax

/-! ### The cap loop (R559) -/

/-- The average power is shown. -/
def capPinned (avg : Nat) (b : Block) : Block := modTly (fun t => { t with loopAt := b.face.time }) (setFld uPwr Fld.pwrPinAvg avg b)

/-- What the loop measures. -/
def capMeasured (avg : Nat) (b : Block) : Block :=
  let ns := 1000 * (b.face.time - b.tly.loopAt)
  let c := capPinned avg b
  let c := if vcode c < vmax c then bump uPwr Off.pwrLimitedNsLo ns c else c
  if c.tly.hot then bump uPwr Off.pwrThrottleNsLo ns c else c

/-- Is a junction at its throttling temperature, and are all of them well below it? -/
def anyHot (b : Block) : Bool := b.tly.junction.any fun p => decide (throttleTemp b ≤ signedOf 8 p.2)
def allCool (b : Block) : Bool := b.tly.junction.all fun p => decide (signedOf 8 p.2 < throttleTemp b - 3)
/-- Is the power below the cap by more than the hysteresis? -/
def belowCap (avg : Nat) (b : Block) : Bool := decide (avg + fld b uPwr Fld.pwrCapHyst < fld b uPwr Fld.pwrCapWatts)

/-- The loop's step of the code, from `v`. -/
def capSteered (v avg : Nat) (lim : Bool) (b : Block) : Block :=
  let watts := fld b uPwr Fld.pwrCapWatts
  if watts < avg ∨ anyHot b ∨ lim then
    if v = 0 then setVcode 0 b
    else
      let b' := setVcode (v - 1) b
      if v = vmax b then notify uPwr Fld.pwrStatusCapLimited .pwrCapLimited ((v - 1) * 2 ^ 24 + watts) b' else b'
  else if v < vmax b ∧ belowCap avg b ∧ allCool b ∧ b.tly.raiseAt + 1000 ≤ b.face.time then
    setVcode (v + 1) (modTly (fun t => { t with raiseAt := b.face.time }) b)
  else setVcode v b

/-- Since when the power exceeds the cap at the lowest code. -/
def overNoted (avg watts : Nat) (b : Block) : Block :=
  let exceeds := decide (watts < avg) && decide (vcode b = 0)
  modTly (fun t => { t with overAt := if exceeds then some (t.overAt.getD b.face.time) else none }) b

/-- The cap's term rises again where the power has long been below the cap. -/
def capRecovered (below : Bool) (b : Block) : Block :=
  if !below || decide (b.tly.capOff = 0) then modTly (fun t => { t with metSince := none }) b
  else match b.tly.metSince with
    | none => modTly (fun t => { t with metSince := some b.face.time }) b
    | some t0 =>
      if t0 + 100000 ≤ b.face.time then
        setTlycaps (modTly (fun t => { t with metSince := some b.face.time }) (setCapTerm (min (capBase b) (capTerm b + 8)) b))
      else b

theorem capCheck_early (avg : Nat) (lim : Bool) (h : b.face.time < b.tly.loopAt + 100) : capCheck avg lim b = b := by
  unfold capCheck
  exact if_pos (by simp [h])

theorem capCheck_eq (avg : Nat) (lim : Bool) : capCheck avg lim b = if !mainOn b || decide (b.face.time < b.tly.loopAt + 100) then b
    else if asleep (capMeasured avg b) then capMeasured avg b
    else capRecovered (belowCap avg (capMeasured avg b))
      (overNoted avg (fld (capMeasured avg b) uPwr Fld.pwrCapWatts) (capSteered (vcode (capPinned avg b)) avg lim (capMeasured avg b))) := rfl

theorem capCheck_awake (avg : Nat) (lim : Bool) (hon : mainOn b = true) (h : b.tly.loopAt + 100 ≤ b.face.time) (ha : asleep (capMeasured avg b) = false) :
    capCheck avg lim b = capRecovered (belowCap avg (capMeasured avg b))
      (overNoted avg (fld (capMeasured avg b) uPwr Fld.pwrCapWatts) (capSteered (vcode (capPinned avg b)) avg lim (capMeasured avg b))) := by
  have hgo : (!mainOn b || decide (b.face.time < b.tly.loopAt + 100)) = false := by simp [hon, h]
  rw [capCheck_eq, hgo, ha]
  rfl

/-- What measuring leaves of the power manager. -/
structure Measured (b c : Block) : Prop where
  cap : reg c uPwr Off.pwrCap = reg b uPwr Off.pwrCap
  state : reg c uPwr Off.pwrState = reg b uPwr Off.pwrState
  therm : reg c uPwr Off.pwrTherm = reg b uPwr Off.pwrTherm
  junction : c.tly.junction = b.tly.junction
  raiseAt : c.tly.raiseAt = b.tly.raiseAt
  time : c.face.time = b.face.time

theorem Measured.trans {b c d : Block} (h : Measured b c) (h' : Measured c d) : Measured b d :=
  ⟨h'.cap.trans h.cap, h'.state.trans h.state, h'.therm.trans h.therm, h'.junction.trans h.junction, h'.raiseAt.trans h.raiseAt, h'.time.trans h.time⟩

theorem measured_bump (n : Nat) {o : Nat} (h : 0x10010 ≤ o ∧ o < 0x20000) : Measured b (bump uPwr o n b) := by
  have hreg {k : Nat} (hk : k < 0x10010) : reg (bump uPwr o n b) uPwr k = reg b uPwr k :=
    reg_bump_other _ (mt (regKey_same_unit _ _ _).mp (by omega)) (mt (regKey_same_unit _ _ _).mp (by omega))
  exact ⟨hreg (by decide), hreg (by decide), hreg (by decide), rfl, rfl, rfl⟩

theorem measured_capPinned (avg : Nat) : Measured b (capPinned avg b) := by
  have hreg {k : Nat} (hk : k ≠ Fld.pwrPinAvg.off) : reg (setFld uPwr Fld.pwrPinAvg avg b) uPwr k = reg b uPwr k := by
    rw [setFld, reg_setReg]
    exact if_neg (mt (regKey_same_unit _ _ _).mp hk)
  exact ⟨hreg (by decide), hreg (by decide), hreg (by decide), rfl, rfl, rfl⟩

theorem measured_capMeasured (avg : Nat) : Measured b (capMeasured avg b) := by
  have hpin := measured_capPinned (b := b) avg
  unfold capMeasured
  extract_lets ns c c'
  have hc' : Measured b c' := by
    unfold c'
    split
    · exact hpin.trans (measured_bump _ (by decide))
    · exact hpin
  split
  · exact hc'.trans (measured_bump _ (by decide))
  · exact hc'

section
variable {c : Block} (h : Measured b c)
include h

theorem Measured.watts : fld c uPwr Fld.pwrCapWatts = fld b uPwr Fld.pwrCapWatts := fld_of_reg h.cap
theorem Measured.vcode : Machine.vcode c = Machine.vcode b := fld_of_reg h.state
theorem Measured.vmax : Machine.vmax c = Machine.vmax b := by
  rw [Machine.vmax, Machine.vmax, show fld c uPwr Fld.pwrCapVceil = fld b uPwr Fld.pwrCapVceil from fld_of_reg h.cap]
theorem Measured.asleep : Machine.asleep c = Machine.asleep b := by
  rw [Machine.asleep, Machine.asleep, show fld c uPwr Fld.pwrStateDstate = fld b uPwr Fld.pwrStateDstate from fld_of_reg h.state]
theorem Measured.throttle : throttleTemp c = throttleTemp b := by
  rw [throttleTemp, throttleTemp, show fld c uPwr Fld.pwrThermThrottle = fld b uPwr Fld.pwrThermThrottle from fld_of_reg h.therm]
theorem Measured.anyHot : Machine.anyHot c = Machine.anyHot b := by rw [Machine.anyHot, Machine.anyHot, h.throttle, h.junction]
theorem Measured.allCool : Machine.allCool c = Machine.allCool b := by rw [Machine.allCool, Machine.allCool, h.throttle, h.junction]
theorem Measured.belowCap (avg : Nat) : Machine.belowCap avg c = Machine.belowCap avg b := by
  rw [Machine.belowCap, Machine.belowCap, h.watts, show fld c uPwr Fld.pwrCapHyst = fld b uPwr Fld.pwrCapHyst from fld_of_reg h.cap]

end

section
variable {v avg : Nat} {lim : Bool} (hv : v < 64)
include hv

/-- Above the cap, with a junction hot or a rail at its limit, the code falls by one. -/
theorem vcode_capSteered_falls (h : fld b uPwr Fld.pwrCapWatts < avg ∨ anyHot b = true ∨ lim = true) : vcode (capSteered v avg lim b) = v - 1 := by
  unfold capSteered
  dsimp only
  rw [if_pos h]
  split
  · next h0 => rw [vcode_setVcode (by decide), h0]
  · split
    · refine (fld_of_reg (reg_notify_own _ _ _ _ _ (by decide) (by decide) (by decide))).trans ?_
      exact vcode_setVcode (by omega)
    · exact vcode_setVcode (by omega)

omit hv in
theorem capSteered_rises (h : ¬(fld b uPwr Fld.pwrCapWatts < avg ∨ anyHot b = true ∨ lim = true))
    (hup : v < vmax b ∧ belowCap avg b = true ∧ allCool b = true ∧ b.tly.raiseAt + 1000 ≤ b.face.time) :
    capSteered v avg lim b = setVcode (v + 1) (modTly (fun t => { t with raiseAt := b.face.time }) b) := by
  unfold capSteered
  dsimp only
  rw [if_neg h]
  exact if_pos hup

omit hv in
theorem capSteered_stays (h : ¬(fld b uPwr Fld.pwrCapWatts < avg ∨ anyHot b = true ∨ lim = true))
    (hup : ¬(v < vmax b ∧ belowCap avg b = true ∧ allCool b = true ∧ b.tly.raiseAt + 1000 ≤ b.face.time)) :
    capSteered v avg lim b = setVcode v b := by
  unfold capSteered
  dsimp only
  rw [if_neg h]
  exact if_neg hup

end

/-- What the loop watches changes neither the code nor when it was last raised. -/
theorem capRecovered_leaves (below : Bool) :
    vcode (capRecovered below b) = vcode b ∧ (capRecovered below b).tly.raiseAt = b.tly.raiseAt := by
  unfold capRecovered
  split
  · exact ⟨rfl, rfl⟩
  · split
    · exact ⟨rfl, rfl⟩
    · split
      · rw [vcode_setTlycaps, tly_setTlycaps]
        exact ⟨rfl, rfl⟩
      · exact ⟨rfl, rfl⟩

/-- The code after the loop is the one it steered to, and so is the time of its last raise. -/
theorem capCheck_leaves {avg : Nat} {lim : Bool} (hon : mainOn b = true) (h : b.tly.loopAt + 100 ≤ b.face.time) (hd : fld b uPwr Fld.pwrStateDstate = 0) :
    vcode (capCheck avg lim b) = vcode (capSteered (vcode (capPinned avg b)) avg lim (capMeasured avg b)) ∧
      (capCheck avg lim b).tly.raiseAt = (capSteered (vcode (capPinned avg b)) avg lim (capMeasured avg b)).tly.raiseAt := by
  have ha : asleep (capMeasured avg b) = false := by
    rw [(measured_capMeasured avg).asleep, asleep, hd]
    rfl
  rw [capCheck_awake avg lim hon h ha]
  obtain ⟨hv, hr⟩ := capRecovered_leaves (b := overNoted avg (fld (capMeasured avg b) uPwr Fld.pwrCapWatts) (capSteered (vcode (capPinned avg b)) avg lim (capMeasured avg b)))
    (belowCap avg (capMeasured avg b))
  exact ⟨hv, hr⟩

theorem capCheck_falls {avg : Nat} {lim : Bool} (hon : mainOn b = true) (h : b.tly.loopAt + 100 ≤ b.face.time) (hd : fld b uPwr Fld.pwrStateDstate = 0)
    (hf : fld b uPwr Fld.pwrCapWatts < avg ∨ anyHot b = true ∨ lim = true) : vcode (capCheck avg lim b) = vcode b - 1 := by
  have hm := measured_capMeasured (b := b) avg
  have hv := (measured_capPinned (b := b) avg).vcode
  rw [(capCheck_leaves hon h hd).1, hv, vcode_capSteered_falls vcode_lt (by rw [hm.watts, hm.anyHot]; exact hf)]

section
variable {avg : Nat} (hon : mainOn b = true) (h : b.tly.loopAt + 100 ≤ b.face.time) (hd : fld b uPwr Fld.pwrStateDstate = 0)
  (hw : avg ≤ fld b uPwr Fld.pwrCapWatts) (hh : anyHot b = false)
include hon h hd hw hh

theorem capCheck_rises (hb : avg + fld b uPwr Fld.pwrCapHyst < fld b uPwr Fld.pwrCapWatts) (hc : allCool b = true) (hv : vcode b < vmax b)
    (hr : b.tly.raiseAt + 1000 ≤ b.face.time) :
    vcode (capCheck avg false b) = vcode b + 1 ∧ (capCheck avg false b).tly.raiseAt = b.face.time := by
  have hm := measured_capMeasured (b := b) avg
  have hno : ¬(fld (capMeasured avg b) uPwr Fld.pwrCapWatts < avg ∨ anyHot (capMeasured avg b) = true ∨ false = true) := by
    rw [hm.watts, hm.anyHot, hh]
    simpa using hw
  have hup : vcode b < vmax (capMeasured avg b) ∧ belowCap avg (capMeasured avg b) = true ∧ allCool (capMeasured avg b) = true ∧
      (capMeasured avg b).tly.raiseAt + 1000 ≤ (capMeasured avg b).face.time := by
    rw [hm.vmax, hm.belowCap, hm.allCool, hm.raiseAt, hm.time]
    exact ⟨hv, decide_eq_true hb, hc, hr⟩
  have hmax : vmax b ≤ envelopeCode := Nat.min_le_right _ _
  have henv : envelopeCode < 63 := by unfold envelopeCode; split <;> decide
  obtain ⟨hcode, hraise⟩ := capCheck_leaves (avg := avg) (lim := false) hon h hd
  rw [hcode, hraise, (measured_capPinned avg).vcode, capSteered_rises hno hup, vcode_setVcode (by omega), tly_setVcode]
  exact ⟨rfl, hm.time⟩

theorem capCheck_stays (hr : b.face.time < b.tly.raiseAt + 1000) :
    vcode (capCheck avg false b) = vcode b ∧ (capCheck avg false b).tly.raiseAt = b.tly.raiseAt := by
  have hm := measured_capMeasured (b := b) avg
  have hno : ¬(fld (capMeasured avg b) uPwr Fld.pwrCapWatts < avg ∨ anyHot (capMeasured avg b) = true ∨ false = true) := by
    rw [hm.watts, hm.anyHot, hh]
    simpa using hw
  have hup : ¬(vcode b < vmax (capMeasured avg b) ∧ belowCap avg (capMeasured avg b) = true ∧ allCool (capMeasured avg b) = true ∧
      (capMeasured avg b).tly.raiseAt + 1000 ≤ (capMeasured avg b).face.time) := by
    rintro ⟨-, -, -, hlate⟩
    rw [hm.raiseAt, hm.time] at hlate
    omega
  obtain ⟨hcode, hraise⟩ := capCheck_leaves (avg := avg) (lim := false) hon h hd
  rw [hcode, hraise, (measured_capPinned avg).vcode, capSteered_stays hno hup, vcode_setVcode vcode_lt, tly_setVcode]
  exact ⟨rfl, hm.raiseAt⟩

end

/-! ### The cap that is not met (R561) -/

theorem capUnmet_early {avg : Nat} (h : vcode b ≠ 0 ∨ avg ≤ fld b uPwr Fld.pwrCapWatts ∨ b.tly.overAt.any (fun t => decide (t + 10000 ≤ b.face.time)) = false) :
    capUnmet avg b = b := by
  unfold capUnmet
  refine if_pos ?_
  obtain h | h | h := h
  · simp [h]
  · simp [h]
  · simp [h]

/-- The cap's term has fallen by eight, and its time begins again. -/
def capTermFallen (avg : Nat) (b : Block) : Block :=
  modTly (fun t => { t with overAt := some b.face.time, metSince := none }) (setCapTerm (max 8 (capTerm b - 8)) (setFld uPwr Fld.pwrPinAvg avg b))

theorem capUnmet_due {avg t : Nat} (hon : mainOn b = true) (hv : vcode b = 0) (hw : fld b uPwr Fld.pwrCapWatts < avg) (ho : b.tly.overAt = some t)
    (ht : t + 10000 ≤ b.face.time) : capUnmet avg b = notify uPwr Fld.pwrStatusCapUnmet .pwrCapUnmet avg (setTlycaps (capTermFallen avg b)) := by
  unfold capUnmet
  exact if_neg (by simp [hon, hv, hw, ho, ht])

theorem capTerm_capTermFallen (avg : Nat) : capTerm (capTermFallen avg b) = max 8 (capTerm b - 8) := by
  have hbase : capBase (setFld uPwr Fld.pwrPinAvg avg b) = capBase b := by
    rw [capBase, capBase, fld_setFld_other _ _ (by decide)]
  have hle : 8 ≤ capBase b := by unfold capBase; split <;> decide
  have hdef : capTerm (capTermFallen avg b) = max 8 (capBase (setFld uPwr Fld.pwrPinAvg avg b) -
      (capBase (setFld uPwr Fld.pwrPinAvg avg b) - max 8 (capTerm b - 8))) := rfl
  have hterm : capTerm b ≤ capBase b := by unfold capTerm; omega
  rw [hdef, hbase]
  omega

/-! ### The loss of the main domain (R555, R565, R590) -/

/-- What the loss of the main domain leaves. -/
structure MainLost (ref0 : Bool) (c : Block) : Prop where
  off : mainOn c = false
  state : devState c = dsOff
  cut : c.tly.cut = true
  jobs : c.qcp.jobs = []
  ref0 : c.tly.ref0 = ref0

theorem SMap.find_filter_none {α : Type} {p : Nat × α → Bool} {i : Nat} (h : ∀ x, p (i, x) = false) : ∀ m : SMap α, SMap.find (m.filter p) i = none := by
  intro m
  induction m with
  | nil => rfl
  | cons q m ih =>
    rw [List.filter_cons]
    split
    · next hq =>
      have hne : ¬q.1 = i := by
        rintro rfl
        rw [h q.2] at hq
        exact absurd hq (by decide)
      rw [SMap.find, if_neg hne]
      exact ih
    · exact ih

/-- Without the main domain only the tally die's registers hold a value of their own. -/
theorem reg_mainCold {u o : Nat} (hu : u ≠ uTly) (ho : o < 2 ^ 20) : reg (mainCold b) u o = (resetOf u o).toNat := by
  have hout (x : Word) : decide (regKey u o / 1 / 0x10_0000 = uTly) = false := by
    have hkey : regKey u o / 1 / 0x10_0000 = u := by unfold regKey; omega
    rw [hkey]
    exact decide_eq_false hu
  have hnone : (tallyRegs b.face.regs 1).find (regKey u o) = none := SMap.find_filter_none (p := fun p => decide (p.1 / 1 / 0x10_0000 = uTly)) hout _
  show ((((mainCold b).face.regs).find (regKey u o)).getD (resetOf u o)).toNat = _
  rw [show (mainCold b).face.regs = tallyRegs b.face.regs 1 from rfl, hnone]
  rfl

theorem MainLost.bbPush {ref0 : Bool} {c : Block} (h : MainLost ref0 c) (r : BbRec) : MainLost ref0 (bbPush r c) where
  off := (mainOn_of_powerPart (powerPart_bbPush ..)).trans h.off
  state := (fld_of_reg (reg_bbPush _ _ (by decide) (by decide))).trans h.state
  cut := by
    rw [← h.cut]
    unfold Machine.bbPush
    split <;> rfl
  jobs := (congrArg Qcp.jobs (bbPush_frame c r).2.2.2.2.2.2.2.1).trans h.jobs
  ref0 := (powerPart_eq_iff.mp (powerPart_bbPush ..)).1.trans h.ref0

/-- The rails fall. -/
def mainCut (b : Block) : Block := modTly (fun t => { t with cut := true }) (setFld uTly Fld.tlyPowerMainOn 0 (mainCold b))

theorem mainOff_cut (h : railsUp b = true) : mainOff true b = pstateRecord (powerState b) 3 (mainCut b) := by
  unfold mainOff
  rw [h]
  rfl

theorem mainLost_mainCut : MainLost b.tly.ref0 (mainCut b) where
  off := by
    have hoff : railsUp (mainCut b) = false := by
      have h : flag (setFld uTly Fld.tlyPowerMainOn 0 (mainCold b)) uTly Fld.tlyPowerMainOn = false := by
        rw [flag, fld_setFld_same _ _ _ (by decide) (by decide)]
        rfl
      exact h
    rw [mainOn, hoff]
    rfl
  state := by
    have hreg : reg (mainCut b) uQcp (Fld.qcpDevstateState.off + Fld.qcpDevstateState.stride * 0) = (resetOf uQcp Fld.qcpDevstateState.off).toNat := by
      have hset : reg (setFld uTly Fld.tlyPowerMainOn 0 (mainCold b)) uQcp Fld.qcpDevstateState.off = reg (mainCold b) uQcp Fld.qcpDevstateState.off := by
        rw [setFld, reg_setReg]
        exact if_neg (by decide)
      exact hset.trans (reg_mainCold (by decide) (by decide))
    rw [devState, fld, hreg]
    decide
  cut := rfl
  jobs := rfl
  ref0 := rfl

theorem mainLost_mainOff (h : railsUp b = true) : MainLost b.tly.ref0 (mainOff true b) := by
  rw [mainOff_cut h]
  exact mainLost_mainCut.bbPush _

/-- The loss of the main domain and its record. -/
theorem mainLost_recorded (h : railsUp b = true) (e : Ev) (arg : Nat) : MainLost b.tly.ref0 (tallyRecord 2 e arg (mainOff true b)) :=
  (mainLost_mainOff h).bbPush _

theorem bbQueue_bbPush {r : BbRec} (h : b.bbQueue.length < 2048) : (bbPush r b).bbQueue = b.bbQueue ++ [r] := by
  unfold bbPush
  rw [if_pos h]

/-- Where the queue has room for both the record of the loss is the last. -/
theorem last_recorded (h : railsUp b = true) (hq : b.bbQueue.length + 2 ≤ 2048) (e : Ev) (arg : Nat) :
    (tallyRecord 2 e arg (mainOff true b)).bbQueue.getLast?.map (fun x => (x.kind, x.code)) = some (2, evCode e) := by
  have hcut : (mainCut b).bbQueue = b.bbQueue := rfl
  have hlen : (mainOff true b).bbQueue.length < 2048 := by
    rw [mainOff_cut h, pstateRecord, tallyRecord, bbRecord, bbQueue_bbPush (by rw [hcut]; omega), hcut, List.length_append, List.length_singleton]
    omega
  rw [tallyRecord, bbRecord, bbQueue_bbPush hlen]
  simp

/-! ### Temperatures (R560, R565) -/

/-- The samples are noted, and the hottest are shown. -/
def sampled (js bs : List Nat) (b : Block) : Block :=
  setReg uPwr Off.pwrTemp (js.getD (hottest js) 0 % 256 * 2 ^ 24 + bs.getD (hottest bs) 0 % 256 * 2 ^ 16 + hottest js)
    (modTly (fun t => { t with junction := listMap js, base := listMap bs, sampleAt := b.face.time }) b)

/-- Is a junction or a base over its limit of shutdown? -/
def overJunction (js : List Nat) (b : Block) : Bool := decide ((fld b uPwr Fld.pwrThermShutdown : Int) ≤ signedOf 8 (js.getD (hottest js) 0 % 256))
def overBase (bs : List Nat) : Bool := decide (105 ≤ signedOf 8 (bs.getD (hottest bs) 0 % 256))

/-- A junction that begins to throttle is told. -/
def throttleTold (js : List Nat) (b : Block) : Block :=
  if decide (throttleTemp b ≤ signedOf 8 (js.getD (hottest js) 0 % 256)) && !b.tly.hot then
    notify uPwr Fld.pwrStatusThermal .pwrThermal (js.getD (hottest js) 0 % 256) b else b

/-- What a sample leaves that does not shut the module down. -/
def thermalTaken (js bs : List Nat) (b : Block) : Block :=
  setTlycaps (modTly (fun t => { t with
    isOver := overJunction js b || overBase bs
    hot := decide (throttleTemp b ≤ signedOf 8 (js.getD (hottest js) 0 % 256)) }) (throttleTold js b))

theorem thermalSample_eq (js bs : List Nat) : thermalSample js bs b = if !mainOn b || decide (b.face.time < b.tly.sampleAt + 250) then b
    else if (sampled js bs b).tly.isOver && (overJunction js (sampled js bs b) || overBase bs) then
      tallyRecord 2 .tlyThermShut (if overJunction js (sampled js bs b) then js.getD (hottest js) 0 % 256 * 256 + hottest js
        else bs.getD (hottest bs) 0 % 256 * 256 + (64 + hottest bs)) (mainOff true (sampled js bs b))
    else thermalTaken js bs (sampled js bs b) := rfl

theorem thermalSample_early {js bs : List Nat} (h : b.face.time < b.tly.sampleAt + 250) : thermalSample js bs b = b := by
  rw [thermalSample_eq]
  exact if_pos (by simp [h])

theorem overJunction_sampled (js bs : List Nat) : overJunction js (sampled js bs b) = overJunction js b := by
  have hreg : fld (sampled js bs b) uPwr Fld.pwrThermShutdown = fld b uPwr Fld.pwrThermShutdown := fld_setReg_other _ _ (by decide)
  rw [overJunction, overJunction, hreg]

theorem farRegs_setTlycaps : farRegs (setTlycaps b) = farRegs b := by
  refine farRegs_of_reg fun u o hf => ?_
  obtain ⟨-, hu, -, ho⟩ | ⟨rfl, rfl⟩ | ⟨rfl, rfl⟩ := hf
  · exact reg_setTlycaps hu ho
  · exact reg_setTlycaps (by decide) (by decide)
  · exact reg_setTlycaps (by decide) (by decide)

theorem mainOn_thermalTaken (js bs : List Nat) : mainOn (thermalTaken js bs b) = mainOn b := by
  have htold : mainOn (throttleTold js b) = mainOn b := by
    unfold throttleTold
    split
    · exact mainOn_of_powerPart (powerPart_notify _ _ _ _ (by decide))
    · rfl
  exact (mainOn_of_farRegs farRegs_setTlycaps).trans htold

theorem tly_throttleTold (js : List Nat) : (throttleTold js b).tly = b.tly := by
  unfold throttleTold
  split
  · unfold notify raise countEvent ringPut
    dsimp only
    rw [if_neg (by decide)]
    split <;> split <;> rfl
  · rfl

/-- What a sample that does not shut the module down leaves of the temperatures' state and of the caps. -/
theorem thermalTaken_leaves (js bs : List Nat) : (thermalTaken js bs b).tly.isOver = (overJunction js b || overBase bs) ∧
    ∀ k < 32, fld (thermalTaken js bs b) (uStack k) Fld.grnGrStateTlycap =
      min (tempTerm ((thermalTaken js bs b).tly.base.get 0 k)) (capTerm (thermalTaken js bs b)) := by
  unfold thermalTaken
  refine ⟨by rw [tly_setTlycaps]; rfl, fun k hk => ?_⟩
  rw [tlycap_setTlycaps hk, tly_setTlycaps, capTerm_setTlycaps]

section
variable {js bs : List Nat} (hon : mainOn b = true) (h : b.tly.sampleAt + 250 ≤ b.face.time)
include hon h

theorem thermalSample_shuts (hover : b.tly.isOver = true) (hhigh : overJunction js b = true ∨ overBase bs = true) :
    ∃ arg, thermalSample js bs b = tallyRecord 2 .tlyThermShut arg (mainOff true (sampled js bs b)) := by
  have hgo : (!mainOn b || decide (b.face.time < b.tly.sampleAt + 250)) = false := by simp [hon, h]
  have hshut : ((sampled js bs b).tly.isOver && (overJunction js (sampled js bs b) || overBase bs)) = true := by
    rw [overJunction_sampled, show (sampled js bs b).tly.isOver = b.tly.isOver from rfl, hover]
    simpa using hhigh
  rw [thermalSample_eq, hgo, hshut]
  exact ⟨_, rfl⟩

theorem thermalSample_taken (hno : b.tly.isOver = false ∨ overJunction js b = false ∧ overBase bs = false) :
    thermalSample js bs b = thermalTaken js bs (sampled js bs b) := by
  have hgo : (!mainOn b || decide (b.face.time < b.tly.sampleAt + 250)) = false := by simp [hon, h]
  have hstay : ((sampled js bs b).tly.isOver && (overJunction js (sampled js bs b) || overBase bs)) = false := by
    rw [overJunction_sampled, show (sampled js bs b).tly.isOver = b.tly.isOver from rfl]
    obtain h | ⟨hj, hb⟩ := hno
    · rw [h]; rfl
    · rw [hj, hb, Bool.or_self, Bool.and_false]
  rw [thermalSample_eq, hgo, hstay]
  rfl

end

theorem mainOn_sampled (js bs : List Nat) : mainOn (sampled js bs b) = mainOn b :=
  mainOn_of_powerPart ((powerPart_setReg _ _ (by decide)).trans (powerPart_eq_iff.mpr ⟨rfl, rfl, rfl, rfl⟩))

/-! ### Ports that lose their clock (R590) -/

theorem portOf_settleLpi_other (b : Block) {u v : Nat} (hv : v ≠ u) : portOf (settleLpi u b) v = portOf b v := by
  have hcount (n : Nat) (c : Block) : portOf (macCount u 26 n c) v = portOf c v := portOf_of_mac rfl v
  unfold settleLpi
  split
  · rw [hcount, modPort, portOf_setPort, if_neg hv]
  · rfl

theorem link_of_portLinks {b c : Block} (h : portLinks c = portLinks b) (v : Nat) : (portOf c v).link = (portOf b v).link := by
  have hv := congrFun h v
  simp only [portLinks, linkPart, Prod.mk.injEq] at hv
  exact hv.1

theorem link_linkWentDown_same (u : Nat) : (portOf (linkWentDown u b) u).link = false := by
  have hport := (port_linkWentDown b (u := u)).1
  simp only [linkPart, Prod.mk.injEq] at hport
  exact hport.1

theorem link_linkWentDown_other {u v : Nat} (hv : v ≠ u) : (portOf (linkWentDown u b) v).link = (portOf b v).link := by
  have hcount (n : Nat) (c : Block) : portOf (macCount u 21 n c) v = portOf c v := portOf_of_mac rfl v
  rw [linkWentDown, link_of_portLinks (portLinks_settleTx ..), hcount, portOf_setPort, if_neg hv, portOf_settleLpi_other b hv]

theorem link_macLinkDown (u v : Nat) : (portOf (macLinkDown u b) v).link = if v = u then false else (portOf b v).link := by
  cases hup : (portOf b u).link with
  | false =>
    have hsame : macLinkDown u b = b := by
      unfold macLinkDown
      dsimp only
      rw [hup]
      rfl
    rw [hsame]
    split
    · next hv => rw [hv, hup]
    · rfl
  | true =>
    rw [macLinkDown_up b hup, link_of_portLinks (portLinks_notify ..)]
    split
    · next hv => rw [hv, link_linkWentDown_same]
    · next hv => exact link_linkWentDown_other hv

/-- A port that goes down has no link, and no other port's link changes. -/
theorem link_portDown (u v : Nat) : (portOf (portDown u b) v).link = if v = u then false else (portOf b v).link := by
  have hmac : portLinks (portDown u b) = portLinks (macLinkDown u b) := by
    unfold portDown
    dsimp only
    split <;> simp
  rw [link_of_portLinks hmac, link_macLinkDown]

theorem link_portsDown {v : Nat} {l : List Nat} (h : v ∈ l) : ∀ b : Block, (portOf (l.foldl (fun b u => portDown u b) b) v).link = false := by
  have hkeep (l : List Nat) : ∀ b : Block, (portOf b v).link = false → (portOf (l.foldl (fun b u => portDown u b) b) v).link = false := by
    induction l with
    | nil => exact fun _ h => h
    | cons u l ih =>
      intro b hb
      refine ih _ ?_
      rw [link_portDown, hb, ite_self]
  intro b
  induction l generalizing b with
  | nil => exact absurd h List.not_mem_nil
  | cons u l ih =>
    obtain rfl | h := List.mem_cons.mp h
    · exact hkeep l _ (by rw [link_portDown, if_pos rfl])
    · exact ih h _

/-! ### The reeve's fault (R454) -/

/-- The units' states and the device's. -/
def faultPart (b : Block) : SMap Nat × Nat := (b.face.own, reg b uQcp Fld.qcpDevstateState.off)

theorem faultPart_eq_iff {b c : Block} : faultPart c = faultPart b ↔ c.face.own = b.face.own ∧
    reg c uQcp Fld.qcpDevstateState.off = reg b uQcp Fld.qcpDevstateState.off := by
  simp [faultPart]

theorem faultPart_of_face {b c : Block} (h : c.face = b.face) : faultPart c = faultPart b := faultPart_eq_iff.mpr ⟨by rw [h], reg_of_face h ..⟩

theorem faultPart_flowSend (ra : Bool) (fl : Flow) (p : List Byte) : faultPart (flowSend ra fl p b) = faultPart b := by
  unfold flowSend
  dsimp only
  split
  · unfold ringSend
    split <;> exact faultPart_of_face rfl
  · refine faultPart_eq_iff.mpr ⟨(congrArg (fun x : Block => x.face.own) (rxKept_macSend b _ _ _).rest :), ?_⟩
    exact countedOnly_macSend b _ _ _ _ _ (by
      have : Fld.qcpDevstateState.off < 0x20100 := by decide
      omega)

theorem faultPart_qcount {o : Nat} (h : Fld.qcpDevstateState.off ≠ o ∧ Fld.qcpDevstateState.off ≠ o + 4) : faultPart (qcount o b) = faultPart b := by
  unfold qcount
  split
  · exact faultPart_eq_iff.mpr ⟨rfl, reg_bump_other _ (mt (regKey_same_unit _ _ _).mp h.1) (mt (regKey_same_unit _ _ _).mp h.2)⟩
  · rfl

theorem faultPart_sessSend (id : Nat) (fl : Flow) (op q : Nat) (param p : List Byte) (more : Bool) : faultPart (sessSend id fl op q param p more b) = faultPart b := by
  unfold sessSend
  split
  · rfl
  · dsimp only
    rw [faultPart_flowSend]
    split
    · exact faultPart_of_face rfl
    · exact (faultPart_qcount (by decide)).trans (faultPart_of_face rfl)

theorem faultPart_faultBells : faultPart (faultBells b) = faultPart b := by
  refine foldl_keeps faultPart _ _ b fun c e => (faultPart_of_face rfl).trans ?_
  refine foldl_keeps faultPart _ _ c fun d x => ?_
  unfold qstatus
  rw [faultPart_sessSend]
  rfl

theorem reeveFault_eq (h : started b = true) : reeveFault b = faultBells (setDevState dsFault (setOwn uReeve hFailed b)) := by
  unfold reeveFault
  rw [h]
  rfl

theorem reeveFault_leaves (h : started b = true) : devState (reeveFault b) = dsFault ∧ ownOf (reeveFault b) uReeve = hFailed := by
  obtain ⟨hown, hdev⟩ := faultPart_eq_iff.mp (faultPart_faultBells (b := setDevState dsFault (setOwn uReeve hFailed b)))
  have hset (c : Block) : (setDevState dsFault c).face.own = c.face.own := by
    unfold setDevState
    dsimp only
    split
    · rfl
    · exact own_notify ..
  rw [reeveFault_eq h]
  refine ⟨(fld_of_reg hdev).trans (devState_setDevState (by decide)), ?_⟩
  rw [ownOf, hown, hset, own_setOwn]
  simp

/-! ### The clauses of O55 -/

theorem taken_leaves {v : Nat} (h : 800 ≤ v % 2 ^ 16) (h' : v % 2 ^ 16 ≤ envelopeWatts) (hc : bitsOf v 29 24 ≤ envelopeCode) :
    fld (capWriteCmd v b) uPwr Fld.pwrCapWatts = v % 2 ^ 16 ∧ fld (capWriteCmd v b) uPwr Fld.pwrCapVceil = bitsOf v 29 24 ∧
      vcode (capWriteCmd v b) ≤ bitsOf v 29 24 := by
  have hreg {o : Nat} (ho : o < 2 ^ 20) : reg (capWriteCmd v b) uPwr o = reg (capTaken v b) uPwr o := by
    rw [capWriteCmd, pwrCapWrite_taken h h' hc, answered]
    rw [reg_answer, reg_setTlycaps (by decide) ho]
  have hcode : vcode (capWriteCmd v b) = vcode (capTaken v b) := fld_of_reg (hreg (by decide))
  refine ⟨(fld_of_reg (hreg (by decide))).trans (watts_capTaken v), (fld_of_reg (hreg (by decide))).trans (vceil_capTaken v), ?_⟩
  rw [hcode]
  exact vcode_capTaken v

theorem unmet_notify (arg : Nat) (c : Block) : (notify uPwr Fld.pwrStatusCapUnmet .pwrCapUnmet arg c).tly.capOff = c.tly.capOff ∧
    (notify uPwr Fld.pwrStatusCapUnmet .pwrCapUnmet arg c).tly.overAt = c.tly.overAt := by
  have hput (d : Block) : (countEvent .pwrCapUnmet (ringPut uPwr .pwrCapUnmet arg d)).tly = d.tly := by
    unfold countEvent ringPut
    dsimp only
    split <;> split <;> rfl
  unfold notify raise
  dsimp only
  rw [if_pos (by decide)]
  unfold bbPush
  split
  · exact ⟨by rw [hput]; rfl, by rw [hput]; rfl⟩
  · exact ⟨(congrArg Tally.capOff (hput _) :), (congrArg Tally.overAt (hput _) :)⟩

/-- The term of a cap that is not met has fallen, with the status bit, and its time begins again. -/
theorem capUnmet_leaves {avg t : Nat} (hon : mainOn b = true) (hv : vcode b = 0) (hw : fld b uPwr Fld.pwrCapWatts < avg) (ho : b.tly.overAt = some t)
    (ht : t + 10000 ≤ b.face.time) : capTerm (capUnmet avg b) = max 8 (capTerm b - 8) ∧ flag (capUnmet avg b) uPwr Fld.pwrStatusCapUnmet = true ∧
      (capUnmet avg b).tly.overAt = some b.face.time := by
  rw [capUnmet_due hon hv hw ho ht]
  generalize hc : setTlycaps (capTermFallen avg b) = c
  obtain ⟨hoff, hover⟩ := unmet_notify avg c
  refine ⟨?_, flag_notify_same _ _ _ (by decide) rfl (by decide) (by decide), ?_⟩
  · have hcap : fld (notify uPwr Fld.pwrStatusCapUnmet .pwrCapUnmet avg c) uPwr Fld.pwrCapWatts = fld c uPwr Fld.pwrCapWatts :=
      fld_of_reg (reg_notify_own _ _ _ _ _ (by decide) (by decide) (by decide))
    rw [capTerm, capBase, hcap, hoff, ← capBase, ← capTerm, ← hc, capTerm_setTlycaps, capTerm_capTermFallen]
  · rw [hover, ← hc, tly_setTlycaps]
    rfl

/-- The ports that lose their clock. -/
def ref1Downs (b : Block) : Block := (ref1Ports b).foldl (fun b u => portDown u b) (modTly (fun t => { t with ref1 := false }) b)

theorem refclkLost_1 (hon : mainOn b = true) : refclkLost 1 b = tallyRecord 2 .tlyRefclkLost 1 (ref1Downs b) := by
  unfold refclkLost
  rw [if_neg (by decide)]
  exact if_pos hon

theorem refclkLost_1_leaves (hon : mainOn b = true) : (refclkLost 1 b).tly.ref1 = false ∧ mainOn (refclkLost 1 b) = true ∧
    ∀ v ∈ ref1Ports b, (portOf (refclkLost 1 b) v).link = false := by
  have hpart : powerPart (refclkLost 1 b) = powerPart (modTly (fun t => { t with ref1 := false }) b) := by
    rw [refclkLost_1 hon]
    exact (powerPart_bbPush ..).trans (foldl_keeps powerPart _ _ _ fun c u => powerPart_portDown c u)
  refine ⟨ref1_of_powerPart hpart, (mainOn_of_powerPart hpart).trans hon, fun v hv => ?_⟩
  have hport : portOf (refclkLost 1 b) v = portOf (ref1Downs b) v := by
    rw [refclkLost_1 hon]
    unfold tallyRecord bbRecord bbPush
    dsimp only
    split <;> exact portOf_of_mac rfl v
  rw [hport]
  exact link_portsDown hv _

theorem railsUp_of_powerState (h : powerState b < 2) : railsUp b = true := by
  unfold powerState at h
  split at h
  · assumption
  · omega

end Sys2Proof.Machine

open Sys2Proof Sys2Proof.Machine

/-- Settles O55: the power manager and the loss of the main domain. -/
theorem powerManager : Obligations.PowerManager := by
  intro s
  refine ⟨fun v hon => ⟨?refused, ?taken⟩, ?early, fun avg lim hon ht hd => ⟨?falls, ?rises, ?stays⟩, fun avg hon => ⟨?met, ?wait, ?unmet⟩, ?between,
    fun js bs hon ht => ⟨?shuts, ?warm, ?cool⟩, fun r => ⟨?down, ?rail⟩, ?ref0, ?ref0Off, ?ref1, ?back, fun hon => ⟨?boot, ?fault⟩⟩
  case refused => exact fun h => acts_main (g := capWriteCmd v.toNat) rfl hon (by rw [capWriteCmd, pwrCapWrite_refused h]; rfl)
  case taken => exact fun h h' hc => answersWith_main (g := capWriteCmd v.toNat) rfl hon (taken_leaves h h' hc)
  case early => exact fun avg lim hon ht => acts_main (g := capCheck avg lim) rfl hon (capCheck_early avg lim ht)
  case falls => exact fun h => answersWith_main (g := capCheck avg lim) rfl hon (capCheck_falls hon ht hd h)
  case rises =>
    intro hb hh hl hc hv hr
    rw [hl]
    exact answersWith_main (g := capCheck avg false) rfl hon (capCheck_rises hon ht hd (by omega) hh hb hc hv hr)
  case stays =>
    intro hw hh hl hr
    rw [hl]
    exact answersWith_main (g := capCheck avg false) rfl hon (capCheck_stays hon ht hd hw hh hr)
  case met =>
    refine fun h => acts_main (g := capUnmet avg) rfl hon (capUnmet_early ?_)
    exact h.imp id fun h => h.imp id fun h => by rw [h]; rfl
  case wait => exact fun t ho ht => acts_main (g := capUnmet avg) rfl hon (capUnmet_early (.inr (.inr (by rw [ho]; simpa using ht))))
  case unmet => exact fun t hv hw ho ht => answersWith_main (g := capUnmet avg) rfl hon (capUnmet_leaves hon hv hw ho ht)
  case between => exact fun js bs hon ht => acts_run (g := thermalSample js bs) rfl (thermalSample_early ht)
  case shuts =>
    intro ho hhigh
    obtain ⟨arg, he⟩ := thermalSample_shuts hon ht ho (hhigh.imp decide_eq_true decide_eq_true)
    have h := mainLost_recorded (b := sampled js bs s.blk) (railsUp_of_mainOn ((mainOn_sampled js bs).trans hon)) .tlyThermShut arg
    rw [← he] at h
    exact answersWith_run (g := thermalSample js bs) rfl ⟨h.off, h.state, h.cut⟩
  case warm =>
    intro ho hhigh
    have he := thermalSample_taken hon ht (js := js) (bs := bs) (.inl ho)
    have hover : (overJunction js (sampled js bs s.blk) || overBase bs) = true := by
      rw [overJunction_sampled, Bool.or_eq_true]
      exact hhigh.imp decide_eq_true decide_eq_true
    refine answersWith_run (g := thermalSample js bs) rfl ?_
    refine (?_ : mainOn (thermalSample js bs s.blk) = true ∧ (thermalSample js bs s.blk).tly.isOver = true)
    rw [he, mainOn_thermalTaken, mainOn_sampled, (thermalTaken_leaves js bs).1, hover]
    exact ⟨hon, rfl⟩
  case cool =>
    intro hlow
    obtain ⟨hj, hb⟩ := not_or.mp hlow
    have he := thermalSample_taken hon ht (js := js) (bs := bs) (.inr ⟨decide_eq_false hj, decide_eq_false hb⟩)
    have hover : (overJunction js (sampled js bs s.blk) || overBase bs) = false := by
      rw [overJunction_sampled, Bool.or_eq_false_iff]
      exact ⟨decide_eq_false hj, decide_eq_false hb⟩
    obtain ⟨hisOver, hcaps⟩ := thermalTaken_leaves (b := sampled js bs s.blk) js bs
    refine answersWith_run (g := thermalSample js bs) rfl ⟨?_, ?_, ?_⟩
    · refine (?_ : mainOn (thermalSample js bs s.blk) = true)
      rw [he, mainOn_thermalTaken, mainOn_sampled, hon]
    · refine (?_ : (thermalSample js bs s.blk).tly.isOver = false)
      rw [he, hisOver, hover]
    · refine (?_ : ∀ k < 32, fld (thermalSample js bs s.blk) (uStack k) Fld.grnGrStateTlycap =
        min (tempTerm ((thermalSample js bs s.blk).tly.base.get 0 k)) (capTerm (thermalSample js bs s.blk)))
      rw [he]
      exact hcaps
  case down => exact fun h => acts_run (g := railUv r) rfl (if_pos (by rw [h]; rfl))
  case rail =>
    intro h
    have he : railUv r s.blk = tallyRecord 2 .tlyRailUv (r % 16) (mainOff true s.blk) := if_neg (by rw [h]; decide)
    have hlost := mainLost_recorded h .tlyRailUv (r % 16)
    have hlast (hq) := last_recorded h hq .tlyRailUv (r % 16)
    rw [← he] at hlost hlast
    exact answersWith_run (g := railUv r) rfl ⟨hlost.off, hlost.state, hlost.cut, hlost.jobs, hlast⟩
  case ref0 =>
    intro h
    have hlost := mainLost_recorded (b := modTly (fun t => { t with ref0 := false }) s.blk) (railsUp_of_powerState h) .tlyRefclkLost 0
    have he : refclkLost 0 s.blk = tallyRecord 2 .tlyRefclkLost 0 (mainOff true (modTly (fun t => { t with ref0 := false }) s.blk)) := if_pos h
    rw [← he] at hlost
    exact answersWith_run (g := refclkLost 0) rfl ⟨hlost.off, hlost.ref0, hlost.cut⟩
  case ref0Off => exact fun h => acts_run (g := refclkLost 0) rfl (if_neg (Nat.not_lt.mpr h))
  case ref1 => exact fun hon => answersWith_run (g := refclkLost 1) rfl (refclkLost_1_leaves hon)
  case back =>
    intro c
    refine answersWith_run (g := refclkReturn c) rfl ?_
    match c with
    | 0 => exact rfl
    | 1 => exact rfl
  case boot => exact fun h => acts_main (g := reeveFault) rfl hon (if_pos (by rw [h]; rfl))
  case fault => exact fun h => answersWith_main (g := reeveFault) rfl hon (reeveFault_leaves h)

end

section
/-! PROOFS. The tally die: feeds, power, ring and black box (R552 to R554, R570 to R581, R598). -/

namespace Sys2Proof.Machine

variable {b : Block}

/-! ### What a tally event and a tally record leave (R572, R577) -/

/-- Counting an event and noting it in a ring leave memory and the tally die's state. -/
theorem noted_leaves (u : Nat) (e : Ev) (arg : Nat) : (countEvent e (ringPut u e arg b)).grn = b.grn ∧ (countEvent e (ringPut u e arg b)).tly = b.tly := by
  unfold countEvent ringPut
  dsimp only
  split <;> split <;> exact ⟨rfl, rfl⟩

/-- What stays of the tally die's state under `c`'s making from `b`: all but what a record that found no room counts, and the registers of status. -/
structure TallyKept (b c : Block) : Prop where
  feeds : c.tly.feeds = b.tly.feeds
  powered : c.tly.powered = b.tly.powered
  lossAt : c.tly.lossAt = b.tly.lossAt
  store : c.tly.store = b.tly.store
  bucket : c.tly.bucket = b.tly.bucket
  time : c.face.time = b.face.time
  switch : pair c uTly Off.tlySwitchLo = pair b uTly Off.tlySwitchLo
  power : reg c uTly Fld.tlyPowerMainOn.off = reg b uTly Fld.tlyPowerMainOn.off
  ring : reg c uTly Fld.tlyRingBypassed.off = reg b uTly Fld.tlyRingBypassed.off
  main : mainOn c = mainOn b

theorem TallyKept.trans {b c d : Block} (h : TallyKept b c) (h' : TallyKept c d) : TallyKept b d :=
  ⟨h'.feeds.trans h.feeds, h'.powered.trans h.powered, h'.lossAt.trans h.lossAt, h'.store.trans h.store, h'.bucket.trans h.bucket, h'.time.trans h.time,
    h'.switch.trans h.switch, h'.power.trans h.power, h'.ring.trans h.ring, h'.main.trans h.main⟩

theorem tallyKept_setSq {f : Field} (hf : f.off + f.stride * 0 = Off.tlyStatus) : TallyKept b (setSq uTly f b) := by
  have hreg {u o : Nat} (h : regKey u o ≠ regKey uTly Off.tlyStatus) : reg (setSq uTly f b) u o = reg b u o := by rw [reg_setSq, hf, if_neg h]
  refine ⟨rfl, rfl, rfl, rfl, rfl, rfl, ?_, hreg (by decide), hreg (by decide), ?_⟩
  · rw [pair, pair, hreg (by decide), hreg (by decide)]
  · exact mainOn_of_powerPart (powerPart_eq_iff.mpr ⟨rfl, rfl, hreg (by decide), hreg (by decide)⟩)

theorem tallyKept_raise {e : Ev} (arg : Nat) (he : evSeverity e < 2) : TallyKept b (raise uTly e arg b) := by
  have htly : (raise uTly e arg b).tly = b.tly := by
    rw [raise_mild _ _ _ he]
    exact (noted_leaves ..).2
  have hreg {o : Nat} (hs : o ≠ Off.unitStatus) (hh : o ≠ Off.evtHead) (hd : o ≠ Off.evtDrop) : reg (raise uTly e arg b) uTly o = reg b uTly o :=
    reg_raise_mild _ _ he hs hh hd
  refine ⟨by rw [htly], by rw [htly], by rw [htly], by rw [htly], by rw [htly], ?_, ?_, hreg (by decide) (by decide) (by decide),
    hreg (by decide) (by decide) (by decide), mainOn_of_powerPart (powerPart_raise ..)⟩
  · rw [raise_mild _ _ _ he]
    unfold countEvent ringPut
    dsimp only
    split <;> split <;> rfl
  · rw [pair, pair, hreg (by decide) (by decide) (by decide), hreg (by decide) (by decide) (by decide)]

theorem tallyKept_bbPush (r : BbRec) : TallyKept b (bbPush r b) := by
  have hmain : mainOn (bbPush r b) = mainOn b := mainOn_of_powerPart (powerPart_bbPush ..)
  unfold bbPush at hmain ⊢
  split at hmain
  · next h =>
    rw [if_pos h]
    exact ⟨rfl, rfl, rfl, rfl, rfl, rfl, rfl, rfl, rfl, rfl⟩
  · next h =>
    rw [if_neg h]
    have hreg {c : Block} {o : Nat} (hlo : regKey uTly o ≠ regKey uTly Off.tlyBbDropLo) (hhi : regKey uTly o ≠ regKey uTly (Off.tlyBbDropLo + 4)) :
        reg (bump uTly Off.tlyBbDropLo 1 c) uTly o = reg c uTly o := reg_bump_other _ hlo hhi
    refine ⟨rfl, rfl, rfl, rfl, rfl, rfl, ?_, hreg (by decide) (by decide), hreg (by decide) (by decide), hmain⟩
    rw [pair, pair, hreg (by decide) (by decide), hreg (by decide) (by decide)]
    rfl

theorem tallyKept_tallyEvent {f : Field} {e : Ev} (arg : Nat) (he : evSeverity e < 2) (hf : f.off + f.stride * 0 = Off.tlyStatus) :
    TallyKept b (tallyEvent f e arg b) := by
  unfold tallyEvent
  split
  · exact (tallyKept_setSq hf).trans (tallyKept_raise arg he)
  · exact tallyKept_setSq hf

theorem tallyKept_tallyRecord (k : Nat) (e : Ev) (arg : Nat) : TallyKept b (tallyRecord k e arg b) := tallyKept_bbPush _

theorem flag_tallyEvent {f : Field} {e : Ev} (arg : Nat) (he : evSeverity e < 2) (hf : f.hi = f.lo) (hlt : f.lo < 16)
    (ho : f.off + f.stride * 0 = Off.tlyStatus) : flag (tallyEvent f e arg b) uTly f = true := by
  unfold tallyEvent
  split
  · rw [notify, flag_of_reg (reg_raise_mild _ _ he (by rw [ho]; decide) (by rw [ho]; decide) (by rw [ho]; decide))]
    exact flag_setSq_same _ hf hlt
  · exact flag_setSq_same _ hf hlt

theorem reg_status_bbPush (r : BbRec) : reg (bbPush r b) uTly Off.tlyStatus = reg b uTly Off.tlyStatus := by
  unfold bbPush
  split
  · rfl
  · exact reg_bump_other _ (by decide) (by decide)

/-- A tally event and its record. -/
theorem flag_recorded {f : Field} {e : Ev} (k arg : Nat) (he : evSeverity e < 2) (hf : f.hi = f.lo) (hlt : f.lo < 16)
    (ho : f.off + f.stride * 0 = Off.tlyStatus) : flag (tallyRecord k e arg (tallyEvent f e arg b)) uTly f = true := by
  rw [flag_of_reg (b := tallyEvent f e arg b) (by rw [ho]; exact reg_status_bbPush _)]
  exact flag_tallyEvent arg he hf hlt ho

/-! ### Feeds (R552 to R554) -/

theorem feedOf_setFeed (f : Nat) (x : Feed) (g : Nat) : feedOf (setFeed f x b) g = if g = f then x else feedOf b g := by
  rw [feedOf, setFeed]
  exact SMap.get_put ..

theorem TallyKept.feedOf {b c : Block} (h : TallyKept b c) (f : Nat) : Machine.feedOf c f = Machine.feedOf b f := by rw [Machine.feedOf, h.feeds, Machine.feedOf]

theorem pair_bump_same {u o : Nat} (ho : o + 4 < 2 ^ 20) (n : Nat) : pair (bump u o n b) u o = (pair b u o + n) % 2 ^ 64 := by
  have hne : regKey u o ≠ regKey u (o + 4) := fun h => by
    have := ((regKey_inj u o u (o + 4) (by omega) ho).mp h).2
    omega
  rw [bump, pair, reg_setReg, if_neg hne, reg_setReg_same, reg_setReg_same]
  generalize pair b u o + n = v
  omega

/-- The feed is off, with its counter, its status bit and its record. -/
def feedIsolated (f cause tenths : Nat) (b : Block) : Block :=
  tallyRecord 1 .tlyFeedLost (cause * 2 ^ 8 + f) (tallyEvent Fld.tlyStatusFeedLost .tlyFeedLost (cause * 2 ^ 8 + f)
    (bump uTly Off.tlySwitchLo 1 (setFeed f ⟨tenths, false, b.face.time⟩ b)))

/-- The counter of the switch has moved, and with it nothing the tally die keeps. -/
theorem tallyKept_feedIsolated (f cause tenths : Nat) :
    TallyKept (bump uTly Off.tlySwitchLo 1 (setFeed f ⟨tenths, false, b.face.time⟩ b)) (feedIsolated f cause tenths b) :=
  (tallyKept_tallyEvent _ (by decide) rfl).trans (tallyKept_tallyRecord ..)

/-- What the loss of a feed leaves, whether or not the other is on. -/
structure FeedLost (f : Nat) (b c : Block) : Prop where
  off : (feedOf c f).on = false
  switch : pair c uTly Off.tlySwitchLo = (pair b uTly Off.tlySwitchLo + 1) % 2 ^ 64
  status : flag c uTly Fld.tlyStatusFeedLost = true

theorem feedLost_feedIsolated (f cause tenths : Nat) : FeedLost f b (feedIsolated f cause tenths b) where
  off := by
    have h := (tallyKept_feedIsolated (b := b) f cause tenths).feedOf f
    rw [h]
    refine (congrArg Feed.on (feedOf_setFeed (b := b) f ⟨tenths, false, b.face.time⟩ f) :).trans ?_
    rw [if_pos rfl]
  switch := by
    rw [(tallyKept_feedIsolated f cause tenths).switch, pair_bump_same (by decide)]
    rfl
  status := flag_recorded _ _ (by decide) rfl (by decide) rfl

theorem feedIsolated_leaves (f cause tenths : Nat) : mainOn (feedIsolated f cause tenths b) = mainOn b ∧
    (feedIsolated f cause tenths b).tly.lossAt = b.tly.lossAt ∧ (feedIsolated f cause tenths b).face.time = b.face.time ∧
      ∀ g, g ≠ f → feedOf (feedIsolated f cause tenths b) g = feedOf b g := by
  have hkept := tallyKept_feedIsolated (b := b) f cause tenths
  have hbump : mainOn (bump uTly Off.tlySwitchLo 1 (setFeed f ⟨tenths, false, b.face.time⟩ b)) = mainOn b :=
    mainOn_of_powerPart ((powerPart_bump _ 1 (by decide) (by decide)).trans (powerPart_eq_iff.mpr ⟨rfl, rfl, rfl, rfl⟩))
  refine ⟨hkept.main.trans hbump, hkept.lossAt, hkept.time, fun g hg => ?_⟩
  rw [hkept.feedOf]
  refine (feedOf_setFeed (b := b) f ⟨tenths, false, b.face.time⟩ g).trans ?_
  rw [if_neg hg]

/-! ### The main domain goes (R554, R571) -/

theorem SMap.find_filter_of {α : Type} {p : Nat × α → Bool} {i : Nat} (h : ∀ x, p (i, x) = true) : ∀ m : SMap α, SMap.find (m.filter p) i = SMap.find m i := by
  intro m
  induction m with
  | nil => rfl
  | cons q m ih =>
    obtain ⟨k, x⟩ := q
    rw [List.filter_cons]
    split
    · rw [SMap.find, SMap.find, ih]
    · next hq =>
      have hne : ¬k = i := by
        rintro rfl
        exact hq (h x)
      rw [SMap.find, if_neg hne, ih]

/-- The tally die keeps its registers without the main domain. -/
theorem reg_tally_mainCold {o : Nat} (ho : o < 2 ^ 20) : reg (mainCold b) uTly o = reg b uTly o := by
  have hin (x : Word) : decide (regKey uTly o / 1 / 0x10_0000 = uTly) = true := by
    have hkey : regKey uTly o / 1 / 0x10_0000 = uTly := by unfold regKey; omega
    exact decide_eq_true hkey
  have hfind : (tallyRegs b.face.regs 1).find (regKey uTly o) = b.face.regs.find (regKey uTly o) :=
    SMap.find_filter_of (p := fun p => decide (p.1 / 1 / 0x10_0000 = uTly)) hin _
  show ((((mainCold b).face.regs).find (regKey uTly o)).getD (resetOf uTly o)).toNat = _
  rw [show (mainCold b).face.regs = tallyRegs b.face.regs 1 from rfl, hfind]
  rfl

/-- The main domain without power. -/
def mainDark (b : Block) : Block := setFld uTly Fld.tlyPowerMainOn 0 (mainCold b)

theorem mainOff_dark (h : railsUp b = true) : mainOff false b = pstateRecord (powerState b) 3 (mainDark b) := by
  unfold mainOff
  rw [h]
  rfl

theorem mainOff_down (h : railsUp b = false) : mainOff false b = b := by
  unfold mainOff
  rw [h]
  rfl

theorem reg_mainDark {o : Nat} (ho : o < 2 ^ 20) (hp : regKey uTly o ≠ regKey uTly Off.tlyPower) : reg (mainDark b) uTly o = reg b uTly o := by
  rw [mainDark, setFld, reg_setReg]
  exact (if_neg hp).trans (reg_tally_mainCold ho)

theorem railsUp_mainDark : railsUp (mainDark b) = false := by
  rw [railsUp, mainDark, flag, fld_setFld_same _ _ _ (by decide) (by decide)]
  rfl

theorem TallyKept.rails {b c : Block} (h : TallyKept b c) : railsUp c = railsUp b := flag_of_reg h.power

theorem railsUp_mainOff : railsUp (mainOff false b) = false := by
  cases h : railsUp b with
  | false => rw [mainOff_down h, h]
  | true => rw [mainOff_dark h, pstateRecord, (tallyKept_tallyRecord ..).rails, railsUp_mainDark]

theorem mainOn_of_railsDown (h : railsUp b = false) : mainOn b = false := by
  rw [mainOn, h]
  rfl

/-- The main domain's state is gone with its power. -/
theorem mainOff_clears (h : railsUp b = true) : (mainOff false b).grn.mem = [] ∧ devState (mainOff false b) = dsOff ∧ (mainOff false b).qcp.jobs = [] := by
  have hlost := mainLost_mainCut (b := b)
  rw [mainOff_dark h]
  refine ⟨?_, (fld_of_reg (reg_bbPush _ _ (by decide) (by decide))).trans hlost.state, ?_⟩
  · exact (congrArg Granary.mem (bbPush_frame (mainDark b) _).1 :)
  · exact (congrArg Qcp.jobs (bbPush_frame (mainDark b) _).2.2.2.2.2.2.2.1 :)

/-- The tally die's registers, but that of the power, and its state stay when the main domain goes. -/
theorem feedLost_mainOff {f : Nat} {b c : Block} (h : FeedLost f b c) : FeedLost f b (mainOff false c) := by
  cases hr : railsUp c with
  | false => rwa [mainOff_down hr]
  | true =>
    have hkept : TallyKept (mainDark c) (mainOff false c) := by
      rw [mainOff_dark hr]
      exact tallyKept_tallyRecord ..
    have hstatus : reg (mainOff false c) uTly Off.tlyStatus = reg c uTly Off.tlyStatus := by
      rw [mainOff_dark hr]
      exact (reg_status_bbPush _).trans (reg_mainDark (by decide) (by decide))
    refine ⟨?_, ?_, (flag_of_reg hstatus).trans h.status⟩
    · rw [hkept.feedOf]
      exact h.off
    · rw [hkept.switch, ← h.switch, pair, pair, reg_mainDark (by decide) (by decide), reg_mainDark (by decide) (by decide)]

/-! ### The loss of a feed, and its return (R552 to R554) -/

/-- Both feeds are lost: the main domain goes, and the hold-up begins. -/
def feedsGone (b : Block) : Block :=
  modTly (fun t => { t with lossAt := some b.face.time }) { mainOff false b with
    bbQueue := (mainOff false b).bbQueue ++ [⟨fld (mainOff false b) uTly Fld.tlyPowerPoweron, evCode .tlyPowerLost, (mainOff false b).face.time, 0xFFFF,
      evSeverity .tlyPowerLost, 8, leBytes 4 0 ++ tallyWords (mainOff false b)⟩] }

theorem time_mainOff : (mainOff false b).face.time = b.face.time := by
  cases h : railsUp b with
  | false => rw [mainOff_down h]
  | true =>
    rw [mainOff_dark h]
    exact (tallyKept_tallyRecord ..).time

theorem feedLost_eq {f : Nat} (cause tenths : Nat) (hp : b.tly.powered = true) (hf : (feedOf b f).on = true) : feedLost f cause tenths b =
    if (feedOf (feedIsolated f cause tenths b) (1 - f)).on then feedIsolated f cause tenths b else feedsGone (feedIsolated f cause tenths b) := by
  have hgo : (!b.tly.powered || !(feedOf b f).on) = false := by rw [hp, hf]; rfl
  unfold feedLost
  rw [hgo]
  dsimp only
  rw [feedsGone]
  simp only [time_mainOff]
  rfl

theorem feedLost_leaves {f : Nat} (cause tenths : Nat) (hf1 : f < 2) (hp : b.tly.powered = true) (hf : (feedOf b f).on = true) :
    FeedLost f b (feedLost f cause tenths b) ∧
    ((feedOf b (1 - f)).on = false → mainOn (feedLost f cause tenths b) = false ∧ (feedLost f cause tenths b).tly.lossAt = some b.face.time) ∧
    ((feedOf b (1 - f)).on = true → mainOn (feedLost f cause tenths b) = mainOn b ∧ (feedLost f cause tenths b).tly.lossAt = b.tly.lossAt) := by
  have hlost := feedLost_feedIsolated (b := b) f cause tenths
  obtain ⟨hmain, hloss, htime, hother⟩ := feedIsolated_leaves (b := b) f cause tenths
  have hoff : mainOn (feedsGone (feedIsolated f cause tenths b)) = false :=
    (mainOn_of_railsDown (railsUp_mainOff (b := feedIsolated f cause tenths b)) :)
  rw [feedLost_eq cause tenths hp hf, hother (1 - f) (by omega)]
  cases ho : (feedOf b (1 - f)).on with
  | true =>
    rw [if_pos rfl]
    exact ⟨hlost, fun h => absurd h (by decide), fun _ => ⟨hmain, hloss⟩⟩
  | false =>
    rw [if_neg (by decide)]
    have hgone := feedLost_mainOff hlost
    exact ⟨⟨hgone.off, hgone.switch, hgone.status⟩, fun _ => ⟨hoff, congrArg some htime⟩, fun h => absurd h (by decide)⟩

section
variable {f tenths : Nat}

theorem feedBack_refused (h : tenths < 440 ∨ 580 < tenths ∨ b.face.time < (feedOf b f).since + 100000) : feedBack f tenths b = b := by
  unfold feedBack
  refine if_pos ?_
  obtain h | h | h := h <;> simp [h]

/-- The feed is on again. -/
def feedTaken (f tenths : Nat) (b : Block) : Block := modTly (fun t => { t with lossAt := none }) (setFeed f ⟨tenths, true, b.face.time⟩ b)

theorem feedBack_eq (hp : b.tly.powered = true) (hf : (feedOf b f).on = false) (h : 440 ≤ tenths) (h' : tenths ≤ 580)
    (ht : (feedOf b f).since + 100000 ≤ b.face.time) :
    feedBack f tenths b = tallyRecord 1 .tlyFeedBack f (tallyEvent Fld.tlyStatusFeedBack .tlyFeedBack f (feedTaken f tenths b)) := by
  unfold feedBack
  exact if_neg (by simp [hp, hf, h, h', ht])

theorem feedBack_leaves (hp : b.tly.powered = true) (hf : (feedOf b f).on = false) (h : 440 ≤ tenths) (h' : tenths ≤ 580)
    (ht : (feedOf b f).since + 100000 ≤ b.face.time) : feedOf (feedBack f tenths b) f = ⟨tenths, true, b.face.time⟩ ∧
      (feedBack f tenths b).tly.lossAt = none ∧ flag (feedBack f tenths b) uTly Fld.tlyStatusFeedBack = true := by
  have hkept : TallyKept (feedTaken f tenths b) (feedBack f tenths b) := by
    rw [feedBack_eq hp hf h h' ht]
    exact (tallyKept_tallyEvent _ (by decide) rfl).trans (tallyKept_tallyRecord ..)
  refine ⟨?_, hkept.lossAt, ?_⟩
  · rw [hkept.feedOf]
    exact (feedOf_setFeed (b := b) f _ f).trans (if_pos rfl)
  · rw [feedBack_eq hp hf h h' ht]
    exact flag_recorded _ _ (by decide) rfl (by decide) rfl

end

/-! ### The end of the hold-up, and the power of the tally die (R554, R572, R598) -/

theorem holdupEnd_waits (h : b.tly.lossAt.any (fun t => decide (t + 200000 ≤ b.face.time)) = false ∨ b.bbQueue ≠ []) : holdupEnd b = b := by
  unfold holdupEnd
  refine if_pos ?_
  obtain h | h := h
  · rw [h]
    rfl
  · rw [List.isEmpty_eq_false_iff.mpr h, Bool.not_false, Bool.or_true]

theorem holdupEnd_ends {t : Nat} (h : b.tly.lossAt = some t) (ht : t + 200000 ≤ b.face.time) (hq : b.bbQueue = []) :
    (holdupEnd b).tly.powered = false ∧ (holdupEnd b).bbQueue = [] ∧ bypassClosed (holdupEnd b) = true := by
  have hgo : (!(b.tly.lossAt.any fun t => decide (t + 200000 ≤ b.face.time)) || !b.bbQueue.isEmpty) = false := by simp [h, ht, hq]
  have hoff : (holdupEnd b).tly.powered = false := by
    unfold holdupEnd
    rw [hgo]
    rfl
  refine ⟨hoff, ?_, by rw [bypassClosed, hoff, Bool.not_false, Bool.or_true]⟩
  unfold holdupEnd
  rw [hgo]
  exact hq

/-- The tally die's registers at their reset values. -/
def tallyOut (b : Block) : Block :=
  let out {α : Type} (m : SMap α) (scale : Nat) : SMap α := m.filter fun p => decide (p.1 / scale / 0x10_0000 ≠ uTly)
  { b with face := { b.face with
    regs := out b.face.regs 1
    sqOwn := out b.face.sqOwn 16
    shadow := out b.face.shadow 1
    ring := b.face.ring.filter fun p => decide (p.1 / 64 ≠ uTly) } }

theorem tallyRegsReset_eq (n : Nat) : tallyRegsReset n b = setFld uTly Fld.tlyPowerPoweron n (tallyOut b) := rfl

theorem reg_tallyOut {o : Nat} (ho : o < 2 ^ 20) : reg (tallyOut b) uTly o = (resetOf uTly o).toNat := by
  have hout (x : Word) : decide (regKey uTly o / 1 / 0x10_0000 ≠ uTly) = false := by
    have hkey : regKey uTly o / 1 / 0x10_0000 = uTly := by unfold regKey; omega
    exact decide_eq_false (not_not_intro hkey)
  have hnone : (tallyOut b).face.regs.find (regKey uTly o) = none :=
    SMap.find_filter_none (p := fun p => decide (p.1 / 1 / 0x10_0000 ≠ uTly)) hout _
  show (((tallyOut b).face.regs.find (regKey uTly o)).getD (resetOf uTly o)).toNat = _
  rw [hnone]
  rfl

/-- The registers of a tally die that has just powered up. -/
structure PoweredUp (n : Nat) (c : Block) : Prop where
  main : railsUp c = false
  poweron : fld c uTly Fld.tlyPowerPoweron = n % 2 ^ 16
  bypassed : flag c uTly Fld.tlyRingBypassed = false

theorem poweredUp_tallyRegsReset (n : Nat) : PoweredUp n (tallyRegsReset n b) where
  main := by
    rw [tallyRegsReset_eq, railsUp, flag, fld_setFld_beside (f := Fld.tlyPowerPoweron) (g := Fld.tlyPowerMainOn) _ _ _ rfl (by decide) (by decide) (.inr (by decide)),
      fld, reg_tallyOut (by decide)]
    decide
  poweron := by
    rw [tallyRegsReset_eq, fld_setFld_same _ _ _ (by decide) (by decide)]
    rfl
  bypassed := by
    rw [tallyRegsReset_eq, flag, fld_setFld_other _ _ (by decide), fld, reg_tallyOut (by decide)]
    decide

theorem PoweredUp.holdup {n : Nat} {c : Block} (h : PoweredUp n c) (v : Nat) : PoweredUp n (setFld uTly Fld.tlyPowerHoldupOk v c) where
  main := by
    rw [railsUp, flag, fld_setFld_beside (f := Fld.tlyPowerHoldupOk) (g := Fld.tlyPowerMainOn) _ _ _ rfl (by decide) (by decide) (.inl (by decide))]
    exact h.main
  poweron := by
    rw [fld_setFld_beside (f := Fld.tlyPowerHoldupOk) (g := Fld.tlyPowerPoweron) _ _ _ rfl (by decide) (by decide) (.inl (by decide))]
    exact h.poweron
  bypassed := by
    rw [flag, fld_setFld_other _ _ (by decide)]
    exact h.bypassed

/-- The tally die with its registers, its feeds and its bucket at their first values. -/
def diePowered (va vb : Nat) (b : Block) : Block :=
  let ok (v : Nat) : Bool := decide (440 ≤ v) && decide (v ≤ 580)
  let c := tallyRegsReset (fld b uTly Fld.tlyPowerPoweron + 1) (mainCold b)
  modTly (fun t => { t with
    powered := true
    feeds := [(0, ⟨va, ok va, 0⟩), (1, ⟨vb, ok vb, 0⟩)]
    bucket := 64000
    refillAt := 0
    dropEvtAt := none
    dropped := 0
    lossAt := none
    junction := []
    base := [] }) { c with face := { c.face with time := 0 } }

section
variable {va vb : Nat} (hok : (440 ≤ va ∧ va ≤ 580) ∨ (440 ≤ vb ∧ vb ≤ 580)) (hp : b.tly.powered = false)
include hok hp

theorem tallyPowerUp_eq : tallyPowerUp va vb b = diePowered va vb b := by
  unfold tallyPowerUp
  refine if_neg ?_
  rw [hp]
  obtain ⟨h, h'⟩ | ⟨h, h'⟩ := hok <;> simp [h, h']

theorem moduleInsert_eq : moduleInsert va vb b = setFld uTly Fld.tlyPowerHoldupOk 0 (diePowered va vb b) := by
  have hup := tallyPowerUp_eq hok hp
  unfold moduleInsert
  rw [hp, if_neg (by decide)]
  dsimp only
  rw [hup]
  exact if_pos rfl

end

theorem poweredUp_diePowered (va vb : Nat) : PoweredUp (fld b uTly Fld.tlyPowerPoweron + 1) (diePowered va vb b) := by
  have h := poweredUp_tallyRegsReset (b := mainCold b) (fld b uTly Fld.tlyPowerPoweron + 1)
  exact ⟨h.main, h.poweron, h.bypassed⟩

theorem PoweredUp.leaves {n : Nat} {c : Block} (h : PoweredUp n c) (hp : c.tly.powered = true) :
    mainOn c = false ∧ fld c uTly Fld.tlyPowerPoweron = n % 2 ^ 16 ∧ bypassClosed c = false :=
  ⟨mainOn_of_railsDown h.main, h.poweron, by rw [bypassClosed, h.bypassed, hp]; rfl⟩

/-! ### TLY_POWER_CMD (R570, R571) -/

/-- The main domain with its rails up and its state fresh. -/
def mainRisen (b : Block) : Block :=
  setFld uTly Fld.tlyPowerMainOn 1 (modTly (fun t => { t with
    cut := false, capOff := 0, overAt := none, metSince := none, isOver := false, hot := false, loopAt := b.face.time, sampleAt := b.face.time }) (mainCold b))

theorem tallyOn_up (h : railsUp b = true) : tallyOn b = (.stateConflict, b) := if_pos (by rw [h, Bool.or_true])

theorem tallyOn_busy (hp : b.tly.powered = true) (h : railsUp b = false) (hh : flag b uTly Fld.tlyPowerHoldupOk = false) : tallyOn b = (.busy, b) := by
  unfold tallyOn
  rw [hp, h, hh]
  rfl

theorem tallyOn_rises (hp : b.tly.powered = true) (h : railsUp b = false) (hh : flag b uTly Fld.tlyPowerHoldupOk = true) :
    tallyOn b = (.ok, pstateRecord 3 0 (bootIdentity (mainRisen b))) := by
  unfold tallyOn
  rw [hp, h, hh]
  rfl

/-- What the rise of the main domain shows. -/
structure Risen (c : Block) : Prop where
  main : mainOn c = true
  stage : bootStage c = 0
  state : devState c = dsOff
  mem : c.grn.mem = []
  cut : c.tly.cut = false

theorem fld_mainRisen {u : Nat} {f : Field} (hu : u ≠ uTly) (ho : f.off + f.stride * 0 < 2 ^ 20) :
    fld (mainRisen b) u f = bitsOf (resetOf u (f.off + f.stride * 0)).toNat f.hi f.lo := by
  have hne : regKey u (f.off + f.stride * 0) ≠ regKey uTly (Fld.tlyPowerMainOn.off + Fld.tlyPowerMainOn.stride * 0) := fun h =>
    hu ((regKey_inj _ _ _ _ ho (by decide)).mp h).1
  rw [mainRisen, fld_setFld_other _ _ hne, fld]
  exact congrArg (fun v => bitsOf v f.hi f.lo) (reg_mainCold (b := b) hu ho)

theorem risen_mainRisen : Risen (mainRisen b) where
  main := by
    have hheld : moduleHeld (mainRisen b) = false := by
      rw [moduleHeld, flag, fld_mainRisen (by decide) (by decide)]
      decide
    have hrails : railsUp (mainRisen b) = true := by
      rw [railsUp, mainRisen, flag, fld_setFld_same _ _ _ (by decide) (by decide)]
      rfl
    rw [mainOn, hheld, hrails]
    rfl
  stage := by
    rw [bootStage, fld_mainRisen (by decide) (by decide)]
    decide
  state := by
    rw [devState, fld_mainRisen (by decide) (by decide)]
    decide
  mem := rfl
  cut := rfl

theorem Risen.of {c d : Block} (h : Risen c) (hm : mainOn d = mainOn c) (hr : ∀ u, u ≠ uTly → u ≠ uSec → ∀ o, OwnOffset o → reg d u o = reg c u o)
    (hmem : d.grn.mem = c.grn.mem) (hcut : d.tly.cut = c.tly.cut) : Risen d where
  main := hm.trans h.main
  stage := (fld_of_reg (hr uChip (by decide) (by decide) _ (by decide))).trans h.stage
  state := (fld_of_reg (hr uQcp (by decide) (by decide) _ (by decide))).trans h.state
  mem := hmem.trans h.mem
  cut := hcut.trans h.cut

theorem cut_bbPush (r : BbRec) : (bbPush r b).tly.cut = b.tly.cut := by
  unfold bbPush
  split <;> rfl

theorem Risen.bbPush {c : Block} (h : Risen c) (r : BbRec) : Risen (bbPush r c) := by
  refine h.of (mainOn_of_powerPart (powerPart_bbPush ..)) (fun u hu _ o ho => reg_bbPush _ _ hu ho) (congrArg Granary.mem (bbPush_frame c r).1 :) (cut_bbPush r)

theorem reg_setFld_sec {f : Field} (hf : f.off + f.stride * 0 < 2 ^ 20) (v : Nat) {u o : Nat} (hu : u ≠ uSec) (ho : o < 2 ^ 20) :
    reg (setFld uSec f v b) u o = reg b u o := by
  rw [setFld, reg_setReg]
  exact if_neg fun h => hu ((regKey_inj _ _ _ _ ho hf).mp h).1

/-- A severe event goes to the black box's queue too. -/
theorem raise_severe {u : Nat} {e : Ev} {arg : Nat} (h : 2 ≤ evSeverity e) : raise u e arg b =
    bbPush ⟨fld (countEvent e (ringPut u e arg b)) uTly Fld.tlyPowerPoweron, evCode e, (countEvent e (ringPut u e arg b)).face.time, u, evSeverity e, 0,
      leBytes 4 arg ++ leBytes 2 (reg b u Off.evtHead / 2 ^ 16)⟩ (countEvent e (ringPut u e arg b)) := if_pos h

theorem Risen.raiseSec {c : Block} (h : Risen c) (arg : Nat) : Risen (raise uSec .secPufFail arg c) := by
  refine h.of (mainOn_of_powerPart (powerPart_raise ..)) (fun u hu _ o ho => reg_raise_own _ _ _ _ hu ho) ?_ ?_
  · rw [raise_severe (by decide)]
    exact (congrArg Granary.mem (bbPush_frame _ _).1 :).trans (congrArg Granary.mem (noted_leaves ..).1 :)
  · rw [raise_severe (by decide), cut_bbPush, (noted_leaves ..).2]

theorem risen_bootIdentity {c : Block} (h : Risen c) : Risen (bootIdentity c) := by
  have hset {d : Block} (hd : Risen d) {f : Field} (v : Nat) (hf : f.off + f.stride * 0 < 2 ^ 20) : Risen (setFld uSec f v d) := by
    have hpow : powerPart (setFld uSec f v d) = powerPart d :=
      powerPart_eq_iff.mpr ⟨rfl, rfl, reg_setFld_sec hf v (by decide) (by decide), reg_setFld_sec hf v (by decide) (by decide)⟩
    exact hd.of (mainOn_of_powerPart hpow) (fun u _ hu o ho => reg_setFld_sec hf v hu ho.2) rfl rfl
  have hsq {d : Block} (hd : Risen d) : Risen (setSq uSec Fld.secStatusPufFail d) :=
    hd.of (mainOn_of_powerPart (powerPart_setSq _ _ (by decide))) (fun u _ hu o ho => by
      rw [reg_setSq]
      exact if_neg fun h => hu ((regKey_inj _ _ _ _ ho.2 (by decide)).mp h).1) rfl rfl
  unfold bootIdentity
  dsimp only
  split
  · exact (hsq (hset h _ (by decide))).raiseSec 0
  · exact hset (hset h _ (by decide)) _ (by decide)

theorem risen_tallyOn (hp : b.tly.powered = true) (h : railsUp b = false) (hh : flag b uTly Fld.tlyPowerHoldupOk = true) :
    Risen (answered (tallyOn b)) := by
  have hr : Risen (pstateRecord 3 0 (bootIdentity (mainRisen b))) := (risen_bootIdentity risen_mainRisen).bbPush _
  rw [tallyOn_rises hp h hh]
  exact ⟨hr.main, hr.stage, hr.state, hr.mem, hr.cut⟩

theorem tallyReset_up (h : railsUp b = true) : tallyReset b = (.stateConflict, b) := if_pos h

theorem tallyReset_leaves (h : railsUp b = false) : (answered (tallyReset b)).bbQueue = [] ∧
    (answered (tallyReset b)).qcp.sessions = b.qcp.sessions.filter fun x => !x.ring := by
  unfold tallyReset
  rw [h]
  exact ⟨rfl, rfl⟩

/-! ### The tally ring (R573 to R575) -/

theorem tlyRingWrite_ignored {v : Nat} {fe : Bool} (h : bitOf v 31 = false) (hfe : fe = false) : tlyRingWrite v fe b = b := by
  unfold tlyRingWrite
  dsimp only
  exact if_pos (by rw [h, hfe]; simp)

/-- The ring's bypass set. -/
def bypassSet (close : Bool) (b : Block) : Block := setFld uTly Fld.tlyRingBypass (b2n close) (setFld uTly Fld.tlyRingBypassed (b2n close) b)

theorem flag_bypassSet (close : Bool) : flag (bypassSet close b) uTly Fld.tlyRingBypassed = close := by
  rw [flag, bypassSet, fld_setFld_beside (f := Fld.tlyRingBypass) (g := Fld.tlyRingBypassed) _ _ _ rfl (by decide) (by decide) (.inl (by decide)),
    fld_setFld_same _ _ _ (by decide) (by decide)]
  cases close <;> rfl

theorem bypassClosed_tlyRingWrite {v : Nat} {fe : Bool} (hp : b.tly.powered = true) (h : bitOf v 31 = true ∨ fe = true) :
    bypassClosed (tlyRingWrite v fe b) = bitOf v 31 := by
  have hgo : (!b.tly.powered || (!bitOf v 31 && !fe)) = false := by
    rw [hp]
    obtain h | h := h <;> simp [h]
  have hkept : TallyKept (bypassSet (bitOf v 31) b) (tlyRingWrite v fe b) := by
    unfold tlyRingWrite
    dsimp only
    rw [hgo, if_neg (by decide)]
    split
    · exact ⟨rfl, rfl, rfl, rfl, rfl, rfl, rfl, rfl, rfl, rfl⟩
    · exact tallyKept_tallyEvent _ (by decide) rfl
  have hpow : (tlyRingWrite v fe b).tly.powered = true := hkept.powered.trans hp
  rw [bypassClosed, hpow, flag_of_reg hkept.ring, flag_bypassSet, Bool.not_true, Bool.or_false]

theorem flag_tallyPortLink (port : Nat) (up : Bool) (hp : b.tly.powered = true) :
    flag (tallyPortLink port up b) uTly (if port = 0 then Fld.tlyRingTraUp else Fld.tlyRingTrbUp) = up := by
  have hf : tallyPortLink port up b = setFld uTly (if port = 0 then Fld.tlyRingTraUp else Fld.tlyRingTrbUp) (b2n up) b := if_neg (by rw [hp]; decide)
  rw [hf]
  split <;> rw [flag, fld_setFld_same _ _ _ (by decide) (by decide)] <;> cases up <;> rfl

theorem ringFrameCmd_closed {port : Nat} {f : List Byte} (h : bypassClosed b = true) : ringFrameCmd port f b = b := if_pos h

theorem ringForward_leaves {port : Nat} {f : List Byte} (h : bypassClosed b = false) : (ringForward port f b).qcp = b.qcp ∧
    (ringForward port f b).tly.sent = b.tly.sent ++ if ringPasses f then [(1 - port, f)] else [] := by
  unfold ringForward ringSend
  rw [h]
  cases ringPasses f with
  | false => exact ⟨rfl, (List.append_nil _).symm⟩
  | true => exact ⟨rfl, rfl⟩

theorem ringFrameCmd_leaves {port : Nat} {f : List Byte} (h : bypassClosed b = false) :
    (ringFrameCmd port f b).qcp.ringIn = b.qcp.ringIn ++ (if ringTakes f then [(2 + port, f)] else []) ∧
      (ringFrameCmd port f b).tly.sent = b.tly.sent ++ (if ringPasses f then [(1 - port, f)] else []) := by
  have hgo : ringFrameCmd port f b = ringForward port f (if ringTakes f then modQcp (fun q => { q with ringIn := q.ringIn ++ [(2 + port, f)] }) b else b) :=
    if_neg (by rw [h]; decide)
  rw [hgo]
  cases ringTakes f with
  | false =>
    obtain ⟨hq, ht⟩ := ringForward_leaves (port := port) (f := f) h
    exact ⟨(congrArg Qcp.ringIn hq).trans (List.append_nil _).symm, ht⟩
  | true =>
    obtain ⟨hq, ht⟩ := ringForward_leaves (port := port) (f := f) (b := modQcp (fun q => { q with ringIn := q.ringIn ++ [(2 + port, f)] }) b) h
    exact ⟨congrArg Qcp.ringIn hq, ht⟩

/-! ### The black box (R578 to R581) -/

theorem bbQueue_noted (u : Nat) (e : Ev) (arg : Nat) : (countEvent e (ringPut u e arg b)).bbQueue = b.bbQueue := by
  unfold countEvent ringPut
  dsimp only
  split <;> split <;> rfl

/-- The notice of dropped records leaves the store, the bucket, the power and the queue. -/
theorem bbDropEvent_leaves : (bbDropEvent b).tly.store = b.tly.store ∧ (bbDropEvent b).tly.bucket = b.tly.bucket ∧ (bbDropEvent b).bbQueue = b.bbQueue := by
  have hnoted (c : Block) (arg : Nat) : (notify uTly Fld.tlyStatusBbDrop .tlyBbDrop arg c).tly.store = c.tly.store ∧
      (notify uTly Fld.tlyStatusBbDrop .tlyBbDrop arg c).tly.bucket = c.tly.bucket ∧
      (notify uTly Fld.tlyStatusBbDrop .tlyBbDrop arg c).bbQueue = c.bbQueue := by
    have hkept : TallyKept c (notify uTly Fld.tlyStatusBbDrop .tlyBbDrop arg c) := (tallyKept_setSq rfl).trans (tallyKept_raise arg (by decide))
    refine ⟨hkept.store, hkept.bucket, ?_⟩
    rw [notify, raise_mild _ _ _ (by decide), bbQueue_noted]
    rfl
  unfold bbDropEvent
  extract_lets due
  split
  · exact hnoted (modTly (fun t => { t with dropEvtAt := some b.face.time, dropped := 0 }) b) _
  · exact ⟨rfl, rfl, rfl⟩

theorem bbWrite_waits (h : b.bbQueue = [] ∨ b.tly.powered = false) : bbWrite b = b := by
  unfold bbWrite
  split
  · rfl
  · next r rest hq =>
    obtain h | h := h
    · rw [hq] at h
      exact absurd h (by simp)
    · exact if_pos (by rw [h]; rfl)

/-- The record is written at the store's head. -/
def bbStored (r : BbRec) (b : Block) : Block :=
  let n := b.tly.store.bbHead
  let wiped := if n % 1024 = 1023 then max b.tly.store.wipedTo (n + 1 + 1024 - bbSlots) else b.tly.store.wipedTo
  modTly (fun t => { t with
    bucket := t.bucket - 1
    store := { t.store with
      bb := SMap.put (t.store.bb.filter fun p => decide (wiped ≤ p.1)) n (bbBytes n r)
      bbHead := n + 1
      wipedTo := wiped } }) b

theorem bbStored_leaves (r : BbRec) : (bbStored r b).bbQueue = b.bbQueue ∧ (bbStored r b).tly.store.bbHead = b.tly.store.bbHead + 1 ∧
    (bbStored r b).tly.bucket = b.tly.bucket - 1 ∧ (bbStored r b).tly.store.bb.find b.tly.store.bbHead = some (bbBytes b.tly.store.bbHead r) :=
  ⟨rfl, rfl, rfl, SMap.find_put_same ..⟩

section
variable {r : BbRec} {rs : List BbRec} (hq : b.bbQueue = r :: rs) (hp : b.tly.powered = true)
include hq hp

theorem store_bbWrite_drops (h : b.tly.bucket = 0) (hr : bbDroppable r = true) : (bbWrite b).tly.store = b.tly.store := by
  have he : bbWrite b = bbDropEvent (bump uTly Off.tlyBbDropLo 1 (modTly (fun t => { t with dropped := t.dropped + 1 }) { b with bbQueue := rs })) := by
    unfold bbWrite
    rw [hq]
    dsimp only
    rw [hp, if_neg (by decide)]
    exact if_pos ⟨h, hr⟩
  rw [he, bbDropEvent_leaves.1]
  rfl

theorem bbWrite_stores (h : 0 < b.tly.bucket ∨ bbDroppable r = false) : bbWrite b =
    bbStored r (if b.tly.dropped = 0 then { b with bbQueue := rs } else bbDropEvent { b with bbQueue := rs }) := by
  have hno : ¬(b.tly.bucket = 0 ∧ bbDroppable r = true) := by
    rintro ⟨h0, hr⟩
    obtain h | h := h
    · omega
    · rw [h] at hr
      exact absurd hr (by decide)
  unfold bbWrite
  rw [hq]
  dsimp only
  rw [hp, if_neg (by decide), if_neg hno]
  rfl

theorem bbWrite_leaves (h : 0 < b.tly.bucket ∨ bbDroppable r = false) : (bbWrite b).bbQueue = rs ∧
    (bbWrite b).tly.store.bbHead = b.tly.store.bbHead + 1 ∧ (bbWrite b).tly.bucket = b.tly.bucket - 1 ∧
      (bbWrite b).tly.store.bb.find b.tly.store.bbHead = some (bbBytes b.tly.store.bbHead r) := by
  rw [bbWrite_stores hq hp h]
  generalize hc : (if b.tly.dropped = 0 then { b with bbQueue := rs } else bbDropEvent { b with bbQueue := rs }) = c
  have hkept : c.tly.store = b.tly.store ∧ c.tly.bucket = b.tly.bucket ∧ c.bbQueue = rs := by
    rw [← hc]
    split
    · exact ⟨rfl, rfl, rfl⟩
    · exact bbDropEvent_leaves (b := { b with bbQueue := rs })
  obtain ⟨hstore, hbucket, hqueue⟩ := hkept
  have hall := bbStored_leaves (b := c) r
  rwa [hstore, hbucket, hqueue] at hall

end

theorem bbRefill_leaves (h : b.tly.refillAt ≤ b.face.time) : (bbRefill b).tly.bucket ≤ max 64000 b.tly.bucket ∧
    (bbRefill b).tly.bucket = min 64000 (b.tly.bucket + (b.face.time - b.tly.refillAt) / 1000) ∧ b.face.time < (bbRefill b).tly.refillAt + 1000 := by
  have hbucket : (bbRefill b).tly.bucket = min 64000 (b.tly.bucket + (b.face.time - b.tly.refillAt) / 1000) := rfl
  have hat : (bbRefill b).tly.refillAt = b.tly.refillAt + 1000 * ((b.face.time - b.tly.refillAt) / 1000) := rfl
  rw [hbucket, hat]
  exact ⟨by omega, rfl, by omega⟩

end Sys2Proof.Machine

open Sys2Proof Sys2Proof.Machine

/-- Settles O56: the tally die. -/
theorem tallyDie : Obligations.TallyDie := by
  intro s
  refine ⟨?feedLost, fun f t hp hf => ⟨?feedKept, ?feedBack⟩, ?noHoldup, fun t hl => ⟨?holds, ?ends⟩, ?charged, ?powerUp,
    fun hp => ⟨?up, ?busy, ?on, ?treset, ?off, ?ringIgnored, ?ringWritten, ?port⟩, fun p f => ⟨?closed, ?frame⟩, ?noRecord,
    fun r rs hq hp => ⟨?drops, ?stores⟩, ?refill, ?select⟩
  case feedLost =>
    intro f c t hp hf
    obtain ⟨hlost, hgone, hkept⟩ := feedLost_leaves c t f.isLt hp hf
    exact answersWith_run (g := feedLost f c t) rfl ⟨hlost.off, hlost.switch, hlost.status, hgone, hkept⟩
  case feedKept => exact fun h => acts_run (g := feedBack f t) rfl (feedBack_refused h)
  case feedBack => exact fun h h' ht => answersWith_run (g := feedBack f t) rfl (feedBack_leaves hp hf h h' ht)
  case noHoldup =>
    refine fun h => acts_run (g := holdupEnd) rfl (holdupEnd_waits (h.imp (fun h => ?_) id))
    rw [h]
    rfl
  case holds =>
    refine fun ht => acts_run (g := holdupEnd) rfl (holdupEnd_waits (.inl ?_))
    rw [hl]
    exact decide_eq_false (Nat.not_le.mpr ht)
  case ends => exact fun ht hq => answersWith_run (g := holdupEnd) rfl (holdupEnd_ends hl ht hq)
  case charged =>
    intro hp
    refine acts_run (g := holdupCharged) rfl ?_
    unfold holdupCharged
    rw [hp]
    rfl
  case powerUp =>
    intro va vb hok hp i hi
    have hup := poweredUp_diePowered (b := s.blk) va vb
    obtain rfl | rfl : i = .tallyPowerUp va vb ∨ i = .moduleInsert va vb := by simpa using hi
    · refine answersWith_all (g := tallyPowerUp va vb) rfl ?_
      rw [tallyPowerUp_eq hok hp]
      obtain ⟨hmain, hcount, hring⟩ := hup.leaves rfl
      exact ⟨rfl, rfl, hmain, rfl, hcount, hring⟩
    · refine answersWith_all (g := moduleInsert va vb) rfl ?_
      rw [moduleInsert_eq hok hp]
      obtain ⟨hmain, hcount, hring⟩ := (hup.holdup 0).leaves rfl
      exact ⟨rfl, rfl, hmain, rfl, hcount, hring⟩
  case up =>
    intro hr
    refine ⟨acts_run (g := powerOnCmd) rfl ?_, acts_run (g := tallyResetCmd) rfl ?_⟩
    · rw [powerOnCmd, powered, if_pos hp, tallyOn_up hr]
      rfl
    · rw [tallyResetCmd, powered, if_pos hp, tallyReset_up hr]
      rfl
  case busy =>
    intro hr hh
    refine acts_run (g := powerOnCmd) rfl ?_
    rw [powerOnCmd, powered, if_pos hp, tallyOn_busy hp hr hh]
    rfl
  case on =>
    intro hr hh
    have hrisen : Risen (powerOnCmd s.blk) := by
      rw [powerOnCmd, powered, if_pos hp]
      exact risen_tallyOn hp hr hh
    exact answersWith_run (g := powerOnCmd) rfl ⟨hrisen.main, hrisen.stage, hrisen.state, hrisen.mem, hrisen.cut⟩
  case treset =>
    intro hr
    have he : tallyResetCmd s.blk = answered (tallyReset s.blk) := if_pos hp
    obtain ⟨hq, hsess⟩ := tallyReset_leaves hr
    refine answersWith_run (g := tallyResetCmd) rfl ⟨rfl, (congrArg Block.bbQueue he).trans hq, rfl, fun x hx => ?_⟩
    have hmem : x ∈ (tallyResetCmd s.blk).qcp.sessions := hx
    rw [he, hsess, List.mem_filter] at hmem
    exact Bool.not_eq_true' x.ring |>.mp hmem.2
  case off =>
    have he : powerOffCmd s.blk = answer .ok 0 (mainOff false s.blk) := if_pos hp
    refine answersWith_run (g := powerOffCmd) rfl ?_
    refine (?_ : railsUp (powerOffCmd s.blk) = false ∧ (railsUp s.blk = true → (powerOffCmd s.blk).grn.mem = [] ∧ devState (powerOffCmd s.blk) = dsOff ∧
      (powerOffCmd s.blk).qcp.jobs = []))
    rw [he]
    exact ⟨(railsUp_mainOff (b := s.blk) :), fun hr => mainOff_clears hr⟩
  case ringIgnored => exact fun v fe h => acts_run (g := tlyRingWrite v.toNat fe) rfl (tlyRingWrite_ignored h.1 h.2)
  case ringWritten => exact fun v fe h => answersWith_run (g := tlyRingWrite v.toNat fe) rfl (bypassClosed_tlyRingWrite hp h)
  case port =>
    intro p up
    refine answersWith_run (g := tallyPortLink p up) rfl ?_
    have h := flag_tallyPortLink p up hp
    match p, h with
    | 0, h => exact h
    | 1, h => exact h
  case closed => exact fun h => acts_run (g := ringFrameCmd p f) rfl (ringFrameCmd_closed h)
  case frame => exact fun h => answersWith_run (g := ringFrameCmd p f) rfl (ringFrameCmd_leaves h)
  case noRecord => exact fun h => answers_all (g := bbWrite) rfl (bbWrite_waits h)
  case drops => exact fun h hr => answersWith_all (g := bbWrite) rfl (store_bbWrite_drops hq hp h hr)
  case stores => exact fun h => answersWith_all (g := bbWrite) rfl (bbWrite_leaves hq hp h)
  case refill => exact fun h => answersWith_run (g := bbRefill) rfl (bbRefill_leaves h)
  case select =>
    intro v
    refine answersWith_run (g := bbSelect v.toNat) rfl ?_
    refine (?_ : s.blk.tly.store.bb.find (reg (setReg uTly Off.tlyBbSel v.toNat s.blk) uTly Off.tlyBbSel) = s.blk.tly.store.bb.find v.toNat)
    rw [reg_setReg_same, Nat.mod_eq_of_lt v.isLt]

end
